-- ==== Sys2Proof/Word.lean ====
section
/-!
DEFINITION. The byte and word types and the sparse tables the state is made of.
-/

namespace Sys2Proof

/-- A byte. -/
abbrev Byte := BitVec 8

/-- A 64-bit register value (R4). -/
abbrev Word := BitVec 64

/-- A sparse table over natural keys: pairs in strictly rising key order, none equal to the value an absent key reads as. -/
abbrev Tab (α : Type) := List (Nat × α)

end Sys2Proof
end

