-- ==== Sys2Proof/Syntax.lean ====
section
/-!
DEFINITION. The commands of the block: one constructor of `Instr` per row of the table of operations and events.
-/

namespace Sys2Proof

/-- Who sends a request, with its partition and world where a rule asks for them (R443, R444). A core's world is its WSTATE.WORLD. -/
inductive Requester where
  | kydin
  | trusted
  | core (c : Fin 160)
  | part (p : Fin 8) (secure : Bool)
  | host (fn : Fin 256)
  deriving DecidableEq, Repr

/-- The two supply inputs of J5 (R35). -/
inductive Input where
  | a | b
  deriving DecidableEq, Repr

/-- The unit a failing regulator or rail feeds (R95, R451). -/
inductive RailUnit where
  | avenue
  | square (s : Fin 80)
  | gate (g : Fin 64)
  | engine (q : Fin 24)
  | roundabout
  | other
  deriving DecidableEq, Repr

/-- What starts a module warm reset (R84). -/
inductive WarmCause where
  | resetPin | kydinCommand | thermalExit
  deriving DecidableEq, Repr

/-- TAP instructions as R40 and R559 sort them: EXTEST, others that drive pins, maker instructions, and the rest; those that select the
boundary-scan register carry the cells of the outputs that are shifted in. -/
inductive JtagInsn where
  | extest (cells : BitVec 23)
  | drivesPins (cells : BitVec 23)
  | maker
  | sample (cells : BitVec 23)
  | bypass
  deriving DecidableEq, Repr

/-- The cause a fatal record names (R94, R95); link die 0 is the south one, 1 north, 2 west, 3 east (R14). -/
inductive ContainCause where
  | avenueRail
  | linkDie (d : Fin 4)
  | clkxLock | junction | chain | gridLink | other
  deriving DecidableEq, Repr

/-- What a fatal record names: the cause, and the partitions that go down with it (R94, R95). -/
structure FatalCause where
  cause : ContainCause
  parts : BitVec 8
  deriving DecidableEq, Repr

/-- An operand of a get-work command, and whether the on-chip entry of the item it delivers has an uncorrectable error (R238). -/
structure GetAt (α : Type) where
  at_ : α
  bad : Bool
  deriving DecidableEq, Repr

/-- The steps of the startup sequence that have no row of their own; the training of DRAM with the channels whose training fails, as
quarter and channel (R90, R269). -/
inductive StartupKind where
  | powerDies
  | trainDram (fails : List (Fin 24 × Fin 10))
  | initDram | trainLanes
  deriving DecidableEq, Repr

/-- The requester of a quarter access, with the partition and world it carries (R278); an LLC slice may take offers (R257). -/
inductive MemReq where
  | kydin
  | agent (p : Fin 8) (secure : Bool)
  | slice (k : Fin 160) (p : Fin 8) (secure : Bool)
  deriving DecidableEq, Repr

/-- A symbol error of a read: beat of the quad-line, physical channel, and the bits that differ (R253, R255). -/
structure SymErr where
  beat : Fin 16
  channel : Fin 10
  bits : BitVec 16
  deriving DecidableEq, Repr

/-- The bytes of a write to a quarter, and the symbol errors that meet the quad-line where the quarter must read it first (R255, R258,
R267). -/
structure WriteData where
  bytes : List (BitVec 8)
  errs : List SymErr := []
  deriving DecidableEq, Repr

/-- An agent that caches no line, with the partition and world of its request (R419, R443). -/
inductive IoAgent where
  | engine (q : Fin 24) (qp : Fin 64)
  | gate (g : Fin 64)
  | roundabout (p : Fin 8)
  | host (fn : Fin 256) (secure : Bool)
  | hub (n : Fin 4) (p : Fin 8) (secure : Bool)
  | kydin
  deriving DecidableEq, Repr

/-- The caches R406 disables. -/
inductive CacheSel where
  | l1d | l2 | llc
  deriving DecidableEq, Repr

/-- The array error a coherent read meets (R395, R405, R555): none; corrected, or uncorrectable data, in the LLC; uncorrectable
in a tag or a filter entry; uncorrectable data, a corrected error, or an uncorrectable tag, in the requester's private caches. -/
inductive ArrayErr where
  | clean | corrected | data | tag | priv | privFixed | privTag
  deriving DecidableEq, Repr

/-- What happened to a flit on its link (R426). -/
inductive LinkErr where
  | clean | single | uncorrectable
  deriving DecidableEq, Repr

/-- The two BARs of a function (R472). -/
inductive HostBar where
  | bar0 | bar2
  deriving DecidableEq, Repr

/-- Completion status of a non-posted read (R479). -/
inductive CplStatus where
  | ok | ur | ca
  deriving DecidableEq, Repr

/-- The resets of the PCI Express link (R84, R489). -/
inductive FundKind where
  | perst | hot | linkDown
  deriving DecidableEq, Repr

/-- The delivery queues of a big core (R524). -/
inductive IntQueue where
  | m | s | sec
  deriving DecidableEq, Repr

/-- The two mailbox paths (R552, R553): an SMBus request carries its TAG, an in-band one has it in its request block. -/
inductive MailPath where
  | smbus (tag : BitVec 8)
  | inband
  deriving DecidableEq, Repr

/-- The data of a SLOT_WRITE: the request's own bytes, or the address and length of a DRAM buffer (R133, R553). -/
inductive SlotData where
  | inline (bytes : List (BitVec 8))
  | buffer (addr : BitVec 52) (len : Nat)
  deriving DecidableEq, Repr

/-- The commands. Each constructor is one row of the table; its docstring names the row's rule and what the row says. -/
inductive Instr where
  /-- REGISTER_WRITE (R6): A write to a register that has no row of its own changes each field as its access type states, or completes without effect or with a bus error. -/
  | registerWrite (who : Requester) (addr : Nat) (size : Nat) (data : BitVec 64)
  /-- NO_ACTION_COMMAND (R568): A write of CMD 0, or of a CMD value the register does not define, advances SEQ and sets RESULT to 0x00 with no action. -/
  | noActionCommand (who : Requester) (addr : Nat) (data : BitVec 64)
  /-- POWER_GOOD (R50): One input has been valid for 10 ms with every regulator in regulation, so the module selects an input and enters M0. -/
  | powerGood (modId : BitVec 12) (bootSel vbatOk : Bool)
  /-- INPUT_VALID (R49): An input's voltage at J5 crosses a validity threshold, so the input becomes valid or invalid. -/
  | inputValid (inp : Input) (mv : Int)
  /-- SURGE (R52): An input rises above 60.5 V; the module switches to the other input if it is valid and records the surge. -/
  | surge (inp : Input) (mv : Nat)
  /-- SURGE_LIMIT_EXPIRY (R52): A surge on the only valid input lasts longer than 100 ms, so the module starts the power-fail sequence. -/
  | surgeLimitExpiry
  /-- SWITCH_OVER (R59): The selected input becomes invalid, enters surge or falls below 85 % of its average while the other is valid, and the module transfers the load. -/
  | switchOver
  /-- SWITCH_OVER_COMPLETE (R59): The transfer to the other input completes within 2 µs; Kydin records it and raises the supply interrupt source. -/
  | switchOverComplete
  /-- SWITCH_OVER_WAIT_END (R62): V_in on the new input has been averaged after a switch-over, so a paused mode transition resumes or is abandoned. -/
  | switchOverWaitEnd (vin : Nat)
  /-- HOLD_UP_EXPIRY (R60): Both inputs stay invalid for 20 µs, so the module starts the power-fail sequence. -/
  | holdUpExpiry
  /-- LIMITER_SAMPLE (R54): Every 1 µs the limiter measures input power and lowers core clocks and engine issue rate to keep within the power envelope. -/
  | limiterSample (powerMw : Nat)
  /-- SUPPLY_THRESHOLD_FALL (R78): V_in falls below the current mode's falling threshold, and Kydin starts a transition to the permitted target mode. -/
  | supplyThresholdFall (vin : Nat)
  /-- SUPPLY_RECOVERED (R79): V_in has stayed at or above 18.0 V for 100 ms after a fall to M1, so the module runs the startup sequence with DRAM kept. -/
  | supplyRecovered (vin : Nat)
  /-- REGULATOR_FAULT (R451): A regulator or rail leaves regulation, ending power-good, and for a unit with its owner-world bit set the module raises the secure-fault source. -/
  | regulatorFault (rail : RailUnit)
  /-- MODULE_INSERTION (R37): The module is inserted into or removed from a carrier with live inputs and limits its inrush current. -/
  | moduleInsertion (inserted : Bool)
  /-- RESET_N_PULSE (R85): A low pulse on RESET_N of 160 ns or more causes a module warm reset held until the rising edge. -/
  | resetNPulse (lenNs : Nat)
  /-- MODULE_WARM_RESET (R86): A module warm reset clears MOD, HOST, FUNC, PART, SQ, GATE and ENG domains and puts DRAM in self-refresh without write-back. -/
  | moduleWarmReset (cause : WarmCause)
  /-- WARM_RESET_END (R92): At the end of a warm reset the module enters M1, then M2, and continues the startup sequence from its 50 ms step. -/
  | warmResetEnd (modId : BitVec 12) (bootSel : Bool)
  /-- JUNCTION_THRESHOLD (R68): The hottest junction crosses a thermal threshold and the module throttles, halves engine issue, enters M7 or trips. -/
  | junctionThreshold (milliC : Int)
  /-- THERMAL_STEP (R68): Every 1 ms while throttled the limiter lowers or raises core clocks by 100 MHz. -/
  | thermalStep
  /-- THERMAL_TRIP (R68): The junction stays at 105 °C for 100 ms after M7 entry or reaches 110 °C, so the module enters M0 with ALARM_N low. -/
  | thermalTrip (milliC : Int)
  /-- INLET_WARNING (R70): The coolant inlet exceeds 45 °C and Kydin reports a warning. -/
  | inletWarning (milliC : Int)
  /-- CLK_X_EDGE (R164): A CLK_X rising edge is measured, TURN and ACCEPT are sampled, and the crossing number and turn count advance. -/
  | clkXEdge (at64 : Nat) (turn accept : Bool)
  /-- CLK_X_GAP (R63): No CLK_X rising edge arrives for 160 ns, so the module loses the CLK_X lock. -/
  | clkXGap
  /-- JTAG_INSTRUCTION (R40): The TAP executes an IEEE 1149.1 instruction, treating pin-driving instructions outside M0 and M1 as BYPASS. -/
  | jtagInstruction (op : JtagInsn)
  /-- MODE_REQUEST (R98): A write to MODE_REQUEST requests a mode, which starts, queues, replaces an older request or ends NOT_PERMITTED, INVALID or DONE. -/
  | modeRequest (who : Requester) (mode : BitVec 3)
  /-- MODE_TRANSITION_END (R74): A running mode transition completes and the module is in its target mode. -/
  | modeTransitionEnd
  /-- CONTAIN_ENTRY (R94): A fatal error or junction at 105 °C takes the module into M7, taking down named partitions and holding the rest. -/
  | containEntry (fatal : FatalCause)
  /-- KYDIN_FIRMWARE_VERIFIED (R122): The ROM verifies a Kydin slot and the module enters M1, or stays in M0 with ALARM_N low when neither slot is valid. -/
  | kydinFirmwareVerified
  /-- STARTUP_STEP (R90): A step of the startup sequence completes: rails and PLLs up, DRAM trained or initialised, or lanes trained. -/
  | startupStep (st : StartupKind)
  /-- IMAGE_SELECTION (R120): Kydin verifies both image slots and boots the first valid one in order, updating slot states, or enters M1 with the service hold set. -/
  | imageSelection
  /-- IMAGE_APPLICATION (R123): Kydin re-reads the selected slot and applies its records in order, entering M7 if a chain value differs. -/
  | imageApplication (misread : Option Nat)
  /-- STARTUP_COMPLETE (R91): Every gate in use has trained or timed out, so Kydin locks RWL fields, closes the log, enters M3 and raises the ready source. -/
  | startupComplete
  /-- BOOT_CORE_START (R125): A partition first enters a mode where big cores run and its boot core starts at ENTRY in machine mode, after any square reset ends. -/
  | bootCoreStart (p : Fin 8)
  /-- PARTITION_RESET (R87): Writing 1 to a PART_RESET START bit stops the partition's cores, gates and jobs, discards its items and starts zeroing and record restoration. -/
  | partitionReset (who : Requester) (clearMem start : BitVec 8)
  /-- PARTITION_RESET_RELEASE (R87): Records are restored and zeroing has ended, so the partition's squares and gates leave reset and BUSY clears. -/
  | partitionResetRelease (p : Fin 8)
  /-- SQUARE_RESET (R84): A square reset writes back dirty L1 and L2 lines and clears the square's SQ domain, returning delivered items to their flows. -/
  | squareReset (who : Requester) (sq : Fin 80)
  /-- GATE_RESET (R88): A gate reset completes any INSERT shift, clears the GATE domain and the gate realigns its lanes. -/
  | gateReset (who : Requester) (g : Fin 64)
  /-- BOOT_COMMIT (R121): BOOT_CTRL COMMIT sets the running slot from TRIAL to GOOD and advances the anti-rollback counter. -/
  | bootCommit (who : Requester)
  /-- BOOT_ONCE_SLOT_A (R137): BOOT_CTRL sets the one-shot BOOT_ONCE to slot A. -/
  | bootOnceSlotA (who : Requester)
  /-- BOOT_ONCE_SLOT_B (R137): BOOT_CTRL sets the one-shot BOOT_ONCE to slot B. -/
  | bootOnceSlotB (who : Requester)
  /-- VERIFY_SLOT_A (R137): BOOT_CTRL verifies image slot A and sets it NEW or INVALID, or ends REFUSED when it is the running slot. -/
  | verifySlotA (who : Requester)
  /-- VERIFY_SLOT_B (R137): BOOT_CTRL verifies image slot B and sets it NEW or INVALID, or ends REFUSED when it is the running slot. -/
  | verifySlotB (who : Requester)
  /-- MICROCODE_LOAD (R134): Once running jobs have completed, each named engine loads new microcode and resumes taking jobs. -/
  | microcodeLoad (q : Fin 24)
  /-- SEQ_FIRMWARE_LOAD (R134): At a superframe boundary each named gate sequencer is held, loaded and restarted at ENTRY. -/
  | seqFirmwareLoad (g : Fin 64)
  /-- DATA_BLOCK (R144): A lane receives a 64b/66b data block, which is descrambled, counted toward block lock and placed in the current superframe. -/
  | dataBlock (g : Fin 64) (k : Fin 16) (sync : BitVec 2) (raw : BitVec 64)
  /-- UPLINK_IDLE (R155): An IDLE control block is received on an uplink and ends the current superframe. -/
  | uplinkIdle (g : Fin 64) (k : Fin 16) (check : BitVec 8)
  /-- ALIGN (R148): An ALIGN block is received; the receiver aligns to superframes or realigns on an SF_COUNT mismatch and checks LANE_TAG. -/
  | align (g : Fin 64) (k : Fin 16) (body : BitVec 48) (check : BitVec 8) (phase : BitVec 6)
  /-- STATUS (R155): A STATUS block is received; the gate keeps its CODE in FE_CODE and raises the front-end status source. -/
  | status (g : Fin 64) (k : Fin 16) (body : BitVec 48) (check : BitVec 8)
  /-- ACK (R158): An ACK block is received on an uplink and ends the matching pending command ACKED, or is discarded and counted. -/
  | ack (g : Fin 64) (k : Fin 16) (body : BitVec 48) (check : BitVec 8)
  /-- FE_LOSS (R155): An FE_LOSS block is received and counted as a HDR_ERR. -/
  | feLoss (g : Fin 64) (k : Fin 16) (body : BitVec 48) (check : BitVec 8)
  /-- DOWNLINK_BLOCK_SLOT (R156): At each downlink block boundary the module sends the first due of TURN, MARK, CMD or IDLE. -/
  | downlinkBlockSlot (g : Fin 64) (k : Fin 16)
  /-- GATE_DL_CMD (R158): A write to GATE_DL_CMD sends a command to one lane or broadcasts it, or ends BUSY or LANE_DOWN. -/
  | gateDlCmd (who : Requester) (g : Fin 64) (lane : BitVec 5) (opcode : BitVec 8) (arg : BitVec 32)
  /-- DL_TIMEOUT (R158): DL_TIMEOUT microseconds pass with no ACK, so the pending command ends TIMEOUT. -/
  | dlTimeout (g : Fin 64)
  /-- TRAINING_SEND_ALIGN (R569): A lane in BLOCK_LOCK is sent a training SEND_ALIGN on entry and again every DL_TIMEOUT until ALIGN arrives. -/
  | trainingSendAlign (g : Fin 64) (k : Fin 16)
  /-- TRAINING_WINDOW_END (R569): DL_TIMEOUT microseconds after a lane entered ALIGNED its training window ends. -/
  | trainingWindowEnd (g : Fin 64) (k : Fin 16)
  /-- TRAINING_TIMEOUT (R160): A lane's 400 ms training timeout expires and it stays in DL_ONLY. -/
  | trainingTimeout (g : Fin 64) (k : Fin 16)
  /-- TRAINING_RETRY (R160): Every 10 ms a lane that timed out retries training. -/
  | trainingRetry (g : Fin 64) (k : Fin 16)
  /-- RECAL (R162): GATE_CTRL RECAL puts an ALIGNED lane in RECAL for a full background adaptation, or ends BUSY. -/
  | recal (who : Requester) (g : Fin 64) (k : Fin 16)
  /-- RECAL_DONE (R162): A recalibration completes within 10 ms and the lane returns to ALIGNED. -/
  | recalDone (g : Fin 64) (k : Fin 16)
  /-- RETRAIN (R162): GATE_CTRL RETRAIN sends a lane through DOWN to train afresh, or ends BUSY. -/
  | retrain (who : Requester) (g : Fin 64) (k : Fin 16)
  /-- BG_ADAPT_STEP (R162): With BG_ADAPT set, the equaliser moves each coefficient by at most one step every 100 µs. -/
  | bgAdaptStep (g : Fin 64) (k : Fin 16) (moves : List Int)
  /-- TAKEOVER (R172): GATE_CTRL TAKEOVER sends HALF_RATE to both gates' lanes and waits for their ACKs. -/
  | takeover (who : Requester) (g : Fin 64)
  /-- TAKEOVER_COMPLETE (R172): After the ACKs, the surviving gate connects and aligns the partner's lanes and reports the takeover. -/
  | takeoverComplete (g : Fin 64) (ownAcks partnerAcks : BitVec 16)
  /-- RELEASE (R172): GATE_CTRL RELEASE reverses a takeover, or is refused unless the partner's gate logic is in service. -/
  | release (who : Requester) (g : Fin 64)
  /-- STRETCH_EXPIRY (R185): An input's stretch count of STRETCH + 1 gate cycles ends and the input becomes false. -/
  | stretchExpiry (i : BitVec 8) (copies : BitVec 3)
  /-- MATCH_IN (R208): The MATCH_IN level from the previous module is combined with the local value of the cascaded trigger bit. -/
  | matchIn (level : Bool)
  /-- ACCEPTANCE_FINAL (R197): The crossing stamp reaches s plus ACC_WINDOW, so the acceptance of crossing s becomes final and is sent to Roundabout. -/
  | acceptanceFinal
  /-- TRIG_QUAL_VERDICT (R201): Q after a trigger cycle, TRIG_QUAL reports whether every word behind it passed its CRC. -/
  | trigQualVerdict
  /-- AVE_COMMIT (R191): AVE_COMMIT COMMIT checks and queues copying the shadow configuration to the active set, or ends INVALID, REFUSED or BUSY. -/
  | aveCommit (who : Requester)
  /-- AVE_DISCARD (R191): AVE_COMMIT DISCARD copies the majority active set back into the shadow set, or ends BUSY. -/
  | aveDiscard (who : Requester)
  /-- COPY_EXCLUDE (R206): A write to AVE_VOTE.COPY_OFF excludes one copy from the vote from the next gate cycle, or is refused for two or three. -/
  | copyExclude (who : Requester) (off : BitVec 3)
  /-- MT_WRITE (R178): AVE_MT_CMD WRITE writes the staging key, mask and entry to ADDR in all three copies. -/
  | mtWrite (who : Requester) (g : Fin 64) (addr : BitVec 10)
  /-- MT_READ (R178): AVE_MT_CMD READ copies entry ADDR of copy COPY into the staging registers. -/
  | mtRead (who : Requester) (g : Fin 64) (addr : BitVec 10) (copy : BitVec 2)
  /-- MT_INSERT (R179): AVE_MT_CMD INSERT captures the staging values and starts a block shift from A to the first invalid entry, or ends NO_SPACE or BUSY. -/
  | mtInsert (who : Requester) (g : Fin 64) (addr : BitVec 10)
  /-- INSERT_COMPLETE (R179): After the shift, the captured staging values are written at A in all three copies. -/
  | insertComplete (g : Fin 64)
  /-- MT_INVALIDATE (R178): AVE_MT_CMD INVALIDATE clears VALID of entry ADDR. -/
  | mtInvalidate (who : Requester) (g : Fin 64) (addr : BitVec 10)
  /-- MT_SCRUB_STEP (R183): Every 16 gate cycles the gate compares one entry across its three copies and repairs a differing copy. -/
  | mtScrubStep (g : Fin 64)
  /-- MATRIX_SCRUB_STEP (R205): The matrix compares its copies' active configuration word by word and repairs a differing copy. -/
  | matrixScrubStep
  /-- FRAGMENT_SLOT (R20): A quarter burst slot starts and a fragment slot goes to a waiting fragment write, rotating among sharing partitions. -/
  | fragmentSlot (q : Fin 24)
  /-- ACCEPTANCE_STAMP (R215): Roundabout handles a final stamp for each eligible partition, opening an entry and sending OPEN, or sending DROP and counting. -/
  | acceptanceStamp
  /-- OPEN (R217): A gate receives OPEN and, once the crossing is complete on every lane, writes a fragment or reports EMPTY. -/
  | openMsg (g : Fin 64)
  /-- DROP (R217): A gate receives DROP, writes nothing and frees the crossing's records. -/
  | dropMsg (g : Fin 64)
  /-- FRAGMENT_WRITE (R218): Once the crossing is complete and ring room exists, the gate writes the fragment contiguously from the ring head. -/
  | fragmentWrite (g : Fin 64)
  /-- FRAG (R217): When the quarters acknowledge every write of a fragment, the gate reports FRAG and Roundabout records it. -/
  | frag (g : Fin 64)
  /-- ASSEMBLY_TIMEOUT (R220): An entry's timer falls due and it closes TIMEOUT, sending CANCEL to unreported gates. -/
  | assemblyTimeout (p : Fin 8) (evseq : Nat)
  /-- ASSEMBLY_CANCEL (R221): A gate receives CANCEL and writes nothing if it has not started, or finishes and reports FRAG. -/
  | assemblyCancel (g : Fin 64)
  /-- EVENT_ENQUEUE (R222): After the quarters acknowledge the event record, Roundabout enqueues the event item on its flow, or discards an empty event. -/
  | eventEnqueue (p : Fin 8) (evseq : Nat)
  /-- ENQUEUE_RETRY (R225): Every 1 µs Roundabout retries a refused event or JOB_DONE enqueue. -/
  | enqueueRetry (p : Fin 8)
  /-- GET (R232): Port command GET delivers one deliverable item by group priority and affinity, or returns NONE. -/
  | getWork (who : Requester) (p : Fin 8) (n : GetAt (Fin 64))
  /-- ADD (R243): Port command ADD enqueues a SOFT item on a flow or places it on a delay list. -/
  | addWork (who : Requester) (p : Fin 8) (n : Fin 64)
  /-- DONE (R244): Port command DONE marks a delivered item done, with KEEP and SKIP, or ends BAD_HANDLE. -/
  | doneWork (who : Requester) (p : Fin 8) (n : Fin 64) (keep skip : Bool)
  /-- CANCEL (R242): Port command CANCEL removes a pending timed item, or ends TOO_LATE. -/
  | cancel (who : Requester) (p : Fin 8) (n : Fin 64)
  /-- FREE (R235): Port command FREE frees an event by EVSEQ, or ends TOO_LATE. -/
  | freeEvent (who : Requester) (p : Fin 8) (n : Fin 64)
  /-- FLUSH (R243): Port command FLUSH discards a flow's undelivered items as released without action and frees their events. -/
  | flush (who : Requester) (p : Fin 8) (n : Fin 64)
  /-- RELEASE_ACTION_RETRY (R233): Every 1 µs Roundabout retries a release action that its target refused. -/
  | releaseActionRetry (f : Fin 4096)
  /-- ACTION_COMPLETE (R234): A release action completes at its target and, with FREE_AT 2, the item's event is freed. -/
  | actionComplete (f : Fin 4096)
  /-- OVERFLOW_REFILL (R237): When on-chip entries free up, Roundabout moves a flow's oldest overflow items on chip. -/
  | overflowRefill (f : Fin 4096)
  /-- TICK (R240): Roundabout's tick counter reaches TICK + 1 and a tick boundary falls. -/
  | tick
  /-- TIMED_ITEM_DUE (R242): A delay-list entry falls due and its item is enqueued on its flow. -/
  | timedItemDue (list : Fin 8)
  /-- RECLAIM (R248): RBT_PART_CMD RECLAIM closes open entries by timeout in EVSEQ order until OPEN equals the quota. -/
  | reclaim (who : Requester) (p : Fin 8)
  /-- DRAM_READ (R257): A quarter reads a quad-line in one burst slot, decodes each beat and returns the requested line. -/
  | dramRead (q : Fin 24) (req : MemReq) (qa : BitVec 35) (errs : List SymErr)
  /-- DRAM_WRITE (R258): A quarter writes whole beats by masked write, or partial beats by read-modify-write. -/
  | dramWrite (q : Fin 24) (req : MemReq) (qa : BitVec 35) (data : WriteData) (mask : List Bool) (poison : Bool)
  /-- MARK_WINDOW_START (R269): At each multiple of MARK_WINDOW seconds, CE_WINDOW restarts at 0. -/
  | markWindowStart (q : Fin 24)
  /-- SCRUB_STEP (R268): At the scrub pace the quarter reads the next quad-line, writes back corrections and marks uncorrectable lines. -/
  | scrubStep (q : Fin 24) (errs : List SymErr)
  /-- MARK (R269): QMC_CTRL MARK marks channel CH. -/
  | markChannel (who : Requester) (q : Fin 24) (ch : BitVec 4)
  /-- RESILVER (R571): QMC_CTRL RESILVER starts re-silver in MARKED, leaves a running one, or ends REFUSED. -/
  | resilver (who : Requester) (q : Fin 24)
  /-- CHANNEL_RETRAIN (R275): QMC_CTRL RETRAIN retrains channel CH with it read as marked, or ends REFUSED. -/
  | channelRetrain (who : Requester) (q : Fin 24) (ch : BitVec 4)
  /-- SCRUB_PASS (R268): QMC_CTRL SCRUB_PASS starts a scrub pass at once. -/
  | scrubPass (who : Requester) (q : Fin 24)
  /-- PAUSE_RS (R571): QMC_CTRL PAUSE_RS pauses a running re-silver, or ends REFUSED. -/
  | pauseRs (who : Requester) (q : Fin 24)
  /-- RESUME_RS (R571): QMC_CTRL RESUME_RS resumes a paused re-silver, or ends REFUSED. -/
  | resumeRs (who : Requester) (q : Fin 24)
  /-- RESILVER_STEP (R271): Every RS_PACE frames the quarter converts one quad-line to the spared layout and advances PROGRESS. -/
  | resilverStep (q : Fin 24)
  /-- DRIFT_RETRAIN (R275): A channel's interval oscillator reports drift beyond calibration range and retraining starts. -/
  | driftRetrain (q : Fin 24) (ch : BitVec 4)
  /-- RETRAIN_DONE (R276): Channel retraining ends, by success, failure or ABANDONED, and catch-up starts. -/
  | retrainDone (q : Fin 24) (ok : Bool)
  /-- CATCHUP_STEP (R276): The quarter rewrites the retrained channel's symbols in one dirty granule and clears its bit. -/
  | catchupStep (q : Fin 24)
  /-- ENG_QP_SUBMIT (R304): A write of a job descriptor address is accepted with a handle or refused FULL, DISABLED, FOREIGN or RESETTING. -/
  | engQpSubmit (who : Requester) (q : Fin 24) (qp : Fin 64) (addr : BitVec 52)
  /-- JOB_START (R309): A job meeting all start conditions starts on the highest-priority queue pair after checking its descriptors. -/
  | jobStart (q : Fin 24)
  /-- JOB_COMMIT (R311): Every sink has taken END and every write is acknowledged, so the engine writes the completion record. -/
  | jobCommit (q : Fin 24) (handle : BitVec 32)
  /-- ABORT (R314): A write to ENG_QP_ABORT aborts an outstanding uncommitted job, or returns TOO_LATE or BAD_HANDLE. -/
  | abort (who : Requester) (q : Fin 24) (qp : Fin 64) (handle : BitVec 32)
  /-- JOB_ABORT_COMPLETE (R316): After issued writes drain, the engine writes the aborted or timed-out job's record. -/
  | jobAbortComplete (q : Fin 24) (handle : BitVec 32)
  /-- JOB_TIMEOUT (R317): A job's TIMEOUT expires before commit and it ends as under an abort. -/
  | jobTimeout (q : Fin 24) (handle : BitVec 32)
  /-- ENGINE_RESET (R318): ENG_RESET RESET stops all stages, sends BROKEN flits, writes a record for every outstanding job and clears the ENG domain. -/
  | engineReset (who : Requester) (q : Fin 24)
  /-- EXCH_BIND_TIMEOUT (R299): BIND_US passes without the needed binding and the job ends with cause EXCH_BIND. -/
  | exchBindTimeout (q : Fin 24) (handle : BitVec 32)
  /-- EXCH_FLIT (R301): A receiving engine takes an exchange flit into its RECV buffer, handling END and BROKEN. -/
  | exchFlit (q : Fin 24) (sender : Fin 24) (ch : Fin 8) (flit : BitVec 512)
  /-- EXCH_CREDIT (R301): A sender receives returned exchange credit and may send more flits. -/
  | exchCredit (q : Fin 24) (ch : Fin 8) (flits : Nat)
  /-- INSTRUCTION (R359): A big core executes a standard RISC-V instruction of its profile. -/
  | instruction (c : Fin 160) (word : BitVec 32)
  /-- LANE_LD (R365): LANE.LD loads lane i from the payload and tag planes, turning line poison into T1. -/
  | laneLd (c : Fin 160) (rd rs1 : BitVec 5)
  /-- LANE_ST (R365): LANE.ST stores lane i's payload and atomically replaces its tag nibble. -/
  | laneSt (c : Fin 160) (rs1 rs2 : BitVec 5)
  /-- LANE_MK (R365): LANE.MK builds a 36-bit lane from a payload and tags. -/
  | laneMk (c : Fin 160) (rd rs1 rs2 : BitVec 5)
  /-- LANE_TAG (R365): LANE.TAG extracts a lane's tags. -/
  | laneTag (c : Fin 160) (rd rs1 : BitVec 5)
  /-- XR_GET (R370): XR.GET performs a Roundabout get-work and stores the delivered item. -/
  | xrGet (c : Fin 160) (rd : BitVec 5) (rs1 : GetAt (BitVec 5))
  /-- XR_ADD (R370): XR.ADD enqueues or times a SOFT item after earlier stores are visible. -/
  | xrAdd (c : Fin 160) (rd rs1 rs2 : BitVec 5)
  /-- XR_DONE (R370): XR.DONE marks a delivered item done with KEEP and SKIP. -/
  | xrDone (c : Fin 160) (rd rs1 rs2 : BitVec 5)
  /-- WCALL (R374): WCALL banks normal-world state, zeroes registers and enters the secure world at WENTRY. -/
  | wcall (c : Fin 160)
  /-- WRET (R374): WRET restores the banked state and returns to the normal world at WEPC with results in a0 and a1. -/
  | wret (c : Fin 160)
  /-- WGATE (R375): WGATE enters the secure world through a numbered gate-table entry, or faults. -/
  | wgate (c : Fin 160) (rs1 : BitVec 5)
  /-- WMARK (R375): WMARK in the secure world returns to the normal world at x1. -/
  | wmark (c : Fin 160)
  /-- SECURE_INTERRUPT_ENTRY (R446): A secure-owned interrupt for a normal-world core banks its state and enters WENTRY with the source in a0. -/
  | secureInterruptEntry (c : Fin 160)
  /-- MACHINE_TIMER (R360): Module time reaches CORE_MTIMECMP and the machine timer interrupt becomes pending. -/
  | machineTimer (c : Fin 160)
  /-- START (R384): CORE_CMD START starts a held core at CORE_START_ADDR in M-mode in the given world, or ends REFUSED or BUSY. -/
  | start (who : Requester) (c : Fin 160) (secure : Bool)
  /-- SMALL_CORE_TRAP (R389): A small core pushes an 80 B frame and enters its handler 6 cycles later. -/
  | smallCoreTrap (m : Fin 69) (cause : BitVec 32) (tval : BitVec 32)
  /-- SMALL_CORE_MRET (R389): MRET on a small core pops the frame and resumes at mepc. -/
  | smallCoreMret (m : Fin 69)
  /-- HINTED_BRANCH (R388): A small core executes a hinted branch, predicted by its hint bit. -/
  | hintedBranch (m : Fin 69) (word : BitVec 32)
  /-- READ_SHARED (R411): A home takes a READ_SHARED request, snoops as needed and serves the line. -/
  | readShared (c : Fin 160) (line : BitVec 46) (err : ArrayErr)
  /-- READ_UNIQUE (R411): A home takes a READ_UNIQUE request and gives the requester the line in M. -/
  | readUnique (c : Fin 160) (line : BitVec 46)
  /-- UPGRADE (R411): A home takes an UPGRADE from an S or F holder and grants M. -/
  | upgrade (c : Fin 160) (line : BitVec 46)
  /-- WB_DIRTY (R415): A home takes a dirty writeback, installing or forwarding the data. -/
  | wbDirty (c : Fin 160) (line : BitVec 46)
  /-- WB_CLEAN (R411): A home takes a clean writeback and may install it clean. -/
  | wbClean (c : Fin 160) (line : BitVec 46)
  /-- SNP_SHARED (R411): A holder answers SNP_SHARED and moves to F. -/
  | snpShared (c : Fin 160) (line : BitVec 46)
  /-- SNP_UNIQUE (R411): A holder answers SNP_UNIQUE and moves to I. -/
  | snpUnique (c : Fin 160) (line : BitVec 46)
  /-- SNP_ONCE (R411): A holder supplies data for an I/O read and keeps its state. -/
  | snpOnce (c : Fin 160) (line : BitVec 46)
  /-- SNP_CLEAN (R411): A holder in M writes data to the home and moves to E. -/
  | snpClean (c : Fin 160) (line : BitVec 46)
  /-- SNP_INVAL (R411): A holder moves to I, returning dirty data to the home. -/
  | snpInval (c : Fin 160) (line : BitVec 46)
  /-- COMPLETION_ACK (R414): The requester's completion acknowledgement closes the home transaction and the next waiting request starts. -/
  | completionAck (c : Fin 160) (line : BitVec 46)
  /-- RETRY (R417): A requester receives RETRY with a credit and waits for GRANT. -/
  | retry (c : Fin 160) (line : BitVec 46)
  /-- GRANT (R417): A freed filter or buffer entry sends GRANT and the resent request starts. -/
  | grant (k : Fin 160)
  /-- PREFETCH_OFFER (R398): A home slice installs or declines a quarter's prefetch offer. -/
  | prefetchOffer (k : Fin 160) (line : BitVec 46)
  /-- IO_READ (R419): A non-caching agent's read goes through the home with SNP_ONCE or direct data. -/
  | ioRead (agent : IoAgent) (addr : BitVec 52) (len : Nat)
  /-- IO_WRITE (R419): A non-caching agent's write goes to the quarter after the home invalidates cached copies. -/
  | ioWrite (agent : IoAgent) (addr : BitVec 52) (data : List (BitVec 8))
  /-- CLEAN (R407): CM_CMD CLEAN writes dirty data of the range to DRAM and keeps copies clean. -/
  | clean (who : Requester) (c : Fin 160)
  /-- INVAL (R407): CM_CMD INVAL removes every copy of the range and discards dirty data. -/
  | inval (who : Requester) (c : Fin 160)
  /-- CLEAN_INVAL (R407): CM_CMD CLEAN_INVAL writes dirty data and removes every copy. -/
  | cleanInval (who : Requester) (c : Fin 160)
  /-- SW_CLEAN (R409): CM_CMD SW_CLEAN cleans one set/way entry of the chosen cache. -/
  | swClean (who : Requester) (c : Fin 160) (target : BitVec 2)
  /-- SW_INVAL (R409): CM_CMD SW_INVAL invalidates one set/way entry. -/
  | swInval (who : Requester) (c : Fin 160) (target : BitVec 2)
  /-- SW_CLEAN_INVAL (R409): CM_CMD SW_CLEAN_INVAL cleans and invalidates one set/way entry. -/
  | swCleanInval (who : Requester) (c : Fin 160) (target : BitVec 2)
  /-- LOCK (R403): CM_CMD LOCK fills each line of the range into a LOCKABLE way and sets its lock bit. -/
  | lockLines (who : Requester) (c : Fin 160)
  /-- UNLOCK (R403): CM_CMD UNLOCK clears lock bits and leaves lines cached. -/
  | unlockLines (who : Requester) (c : Fin 160)
  /-- CACHE_DISABLE (R406): A write of 0 to a cache enable field starts the cache cleaning itself in PENDING. -/
  | cacheDisable (who : Requester) (which : CacheSel) (k : Fin 160)
  /-- CACHE_CLEAN_DONE (R406): A disabling cache finishes cleaning and its enable field reads DISABLED. -/
  | cacheCleanDone (which : CacheSel) (k : Fin 160)
  /-- SET_SP (R401): LLC_CMD SET_SP changes the slice's SCRATCH ways, zeroing new ones or closing ranges, or ends REFUSED. -/
  | setSp (who : Requester) (k : Fin 160) (n : BitVec 4)
  /-- SET_LOCK (R401): LLC_CMD SET_LOCK changes the slice's LOCKABLE ways, or ends REFUSED. -/
  | setLock (who : Requester) (k : Fin 160) (n : BitVec 4)
  /-- RETIRE_WAY (R405): LLC_CMD RETIRE_WAY cleans, relocates and disables a way, or refuses below 2 NORMAL ways. -/
  | retireWay (who : Requester) (k : Fin 160) (n : BitVec 4)
  /-- WAY_WINDOW_START (R405): At each WAY_WINDOW boundary the per-way corrected-error counts restart. -/
  | wayWindowStart (k : Fin 160)
  /-- SNOOP_TIMEOUT (R422): A snoop stays unanswered for 131,072 mesh cycles and the home declares the agent dead. -/
  | snoopTimeout (c : Fin 160) (line : BitVec 46)
  /-- FILL_TIMEOUT (R422): A core waits 262,144 mesh cycles for a fill and returns poisoned data. -/
  | fillTimeout (c : Fin 160) (line : BitVec 46)
  /-- FLIT (R426): A router receives a flit, corrects single-bit errors, rejects uncorrectable ones for replay and forwards it. -/
  | flit (r : Fin 160) (inPort : Fin 13) (sideband : BitVec 64) (payload : BitVec 512) (err : LinkErr)
  /-- SLEEP_AGENTS (R433): STR_CMD SLEEP_AGENTS starts power-down of the square's agents, or ends BUSY. -/
  | sleepAgents (who : Requester) (r : Fin 160)
  /-- SLEEP_SQUARE (R433): STR_CMD SLEEP_SQUARE starts power-down of the square and its router, or ends BUSY. -/
  | sleepSquare (who : Requester) (r : Fin 160)
  /-- STR_WAKE (R435): STR_CMD WAKE raises a wake for the square. -/
  | strWake (who : Requester) (r : Fin 160)
  /-- IDLE_SLEEP (R433): Both cores have been in WFI for IDLE_US with no interrupt pending and the square enters AGENTS power-down. -/
  | idleSleep (sq : Fin 80)
  /-- DRAIN_DONE (R433): The domain has drained and isolation is set at the point of no return. -/
  | drainDone (sq : Fin 80)
  /-- DRAIN_TIMEOUT (R433): The domain is not empty after 1 µs and the power-down aborts. -/
  | drainTimeout (sq : Fin 80)
  /-- POWER_OFF (R433): Logic power is removed with retention held after step 3. -/
  | powerOff (sq : Fin 80)
  /-- PACKET_WAKE (R434): A packet reaches a sleeping or sleeping-down domain, waits and raises a wake that aborts power-down or starts power-up. -/
  | packetWake (sq : Fin 80)
  /-- POWER_UP_DONE (R434): Power is restored and the router returns credit so waiting packets proceed. -/
  | powerUpDone (sq : Fin 80)
  /-- RETIRE (R437): STR_CMD RETIRE detaches the square's core ports under a fence. -/
  | retire (who : Requester) (r : Fin 160)
  /-- RETIRE_ALL (R437): STR_CMD RETIRE_ALL detaches the square's core and slice ports under a fence. -/
  | retireAll (who : Requester) (r : Fin 160)
  /-- RESTORE (R437): STR_CMD RESTORE reattaches the square's ports under a fence. -/
  | restore (who : Requester) (r : Fin 160)
  /-- FENCE_DRAIN_DONE (R436): Worms through the fenced router have completed, the change is made and held packets are released. -/
  | fenceDrainDone
  /-- FENCE_DRAIN_TIMEOUT (R436): The fenced router is not empty after 2,000 cycles, the fence ends BUSY and held packets are released. -/
  | fenceDrainTimeout
  /-- TRACE_RECORD (R439): H3 writes a probe trace record into the trace ring, or drops it when the ring is full. -/
  | traceRecord (r : Fin 160)
  /-- PWR_SLEEP (R450): PART_PWR_REQ SLEEP stops a square, gate or engine, or ends REFUSED_SECURE or REFUSED. -/
  | pwrSleep (who : Requester) (p : Fin 8) (kind : BitVec 4) (u : BitVec 8)
  /-- PWR_WAKE (R449): PART_PWR_REQ WAKE restarts a square, gate or engine. -/
  | pwrWake (who : Requester) (p : Fin 8) (kind : BitVec 4) (u : BitVec 8)
  /-- BANDWIDTH_WINDOW (R453): At each 1 µs window start every readout gate's fragment budget count is carried over and the OVER bit evaluated. -/
  | bandwidthWindow
  /-- QUOTA_WRITE (R454): A write to PART_QUOTA sets a new limit, or is refused when a module-wide sum would break. -/
  | quotaWrite (who : Requester) (p : Fin 8) (kind : Fin 5) (limit : BitVec 40)
  /-- TS_REQUEST (R456): A write to TS_PORT submits a request block to the trusted service, or ends BUSY. -/
  | tsRequest (who : Requester) (n : Fin 16) (addr : BitVec 52)
  /-- SEAL (R459): The trusted service encrypts data into a sealed blob. -/
  | seal (n : Fin 16)
  /-- UNSEAL (R459): The trusted service decrypts a sealed blob, or ends REFUSED or AUTH_FAIL. -/
  | unseal (n : Fin 16)
  /-- KEY_GEN (R458): The trusted service generates a key for the port and returns its handle. -/
  | keyGen (n : Fin 16)
  /-- KEY_SIGN (R458): The trusted service signs a digest with a port key. -/
  | keySign (n : Fin 16)
  /-- KEY_DEL (R458): The trusted service deletes a port key. -/
  | keyDel (n : Fin 16)
  /-- ATTEST (R464): The trusted service returns a signed quote over M and the partition measurement. -/
  | attest (n : Fin 16)
  /-- EXTEND (R463): The trusted service extends the partition measurement with a digest. -/
  | extend (n : Fin 16)
  /-- CERT (R458): The trusted service returns the attestation public key with Jemund's signature. -/
  | cert (n : Fin 16)
  /-- QUOTA_SET (R454): The manager's request sets a partition's quota limit. -/
  | quotaSet (n : Fin 16)
  /-- RECLAIM_SP (R455): The manager's request lowers a partition's SCRATCH ways to its quota on every slice. -/
  | reclaimSp (n : Fin 16)
  /-- TS_WATCHDOG (R461): The trusted-service watchdog is not written for 2 ms and Kydin performs a class B restart. -/
  | tsWatchdog
  /-- TS_REQUEST_TIMEOUT (R461): A request has no STATUS for TIMEOUT_MS and Kydin performs a class B restart. -/
  | tsRequestTimeout (n : Fin 16)
  /-- PERST_DEASSERT (R468): PERST# deasserts and the endpoint begins link training within 20 ms. -/
  | perstDeassert
  /-- FUNCTIONS_READY (R468): Every function becomes ready and the endpoint sends Device Readiness Status. -/
  | functionsReady
  /-- CONFIG_REQUEST (R468): The endpoint answers a configuration request, or Request Retry Status before readiness. -/
  | configRequest (fn : Fin 256) (write : Bool) (dword : BitVec 10) (data : BitVec 32)
  /-- INBOUND_TLP (R473): A memory TLP at BAR2 is decoded against the active window set and forwarded or answered UR. -/
  | inboundTlp (fn : Fin 256) (write : Bool) (bar : HostBar) (offset : BitVec 40) (len : Nat) (data : List (BitVec 8)) (ep : Bool)
  /-- WIN_COMMIT (R475): HOSTFN_WIN_COMMIT COMMIT copies the shadow window set to the active set, or ends INVALID or BUSY. -/
  | winCommit (who : Requester) (fn : Fin 256)
  /-- WIN_DISCARD (R475): HOSTFN_WIN_COMMIT DISCARD copies the active window set to the shadow set. -/
  | winDiscard (who : Requester) (fn : Fin 256)
  /-- OUTBOUND_ACCESS (R477): An access to a host outbound window becomes TLPs from the window's function, or a bus error. -/
  | outboundAccess (who : Requester) (addr : BitVec 52) (write : Bool) (len : Nat) (data : List (BitVec 8)) (ep : Bool)
  /-- OUTBOUND_READ_ISSUE (R478): A waiting non-posted read is issued once the function, partition and module limits and a tag allow. -/
  | outboundReadIssue (fn : Fin 256)
  /-- COMPLETION_TLP (R479): A completion arrives and returns data, ends the access with a bus error, or is discarded as unexpected. -/
  | completionTlp (tag : BitVec 10) (status : CplStatus) (data : List (BitVec 8)) (ep : Bool)
  /-- COMPLETION_TIMEOUT (R479): A read's completion timeout expires, returning poisoned data and quarantining the tag. -/
  | completionTimeout (tag : BitVec 10)
  /-- TAG_QUARANTINE_END (R479): A quarantined tag becomes free 1 ms after its timeout. -/
  | tagQuarantineEnd (tag : BitVec 10)
  /-- HOST_HANDOFF (R482): A HOST release action writes the event stream into host buffers, then a completion entry and an MSI-X message. -/
  | hostHandoff (fn : Fin 256) (bufs : List (BitVec 64))
  /-- HANDOFF_ACK (R483): The data link layer acknowledges the completion-entry TLP and the action completes. -/
  | handoffAck (fn : Fin 256)
  /-- MSIX_RAISE (R485): A write to HOSTFN_MSIX_RAISE sends the vector or sets its pending bit when masked. -/
  | msixRaise (who : Requester) (fn : Fin 256) (vector : BitVec 8)
  /-- DOORBELL (R486): A host write to HOSTFN_DOORBELL sets bits and raises the doorbell source once earlier writes are visible. -/
  | doorbell (fn : Fin 256) (bits : BitVec 64)
  /-- QUIESCE (R487): HOSTFN_CTRL QUIESCE refuses new hand-offs and outbound accesses and drains the function. -/
  | quiesce (who : Requester) (fn : Fin 256)
  /-- QUIESCE_DONE (R487): The function has drained, QUIESCED is set and the command ends DONE. -/
  | quiesceDone (fn : Fin 256)
  /-- RESUME (R487): HOSTFN_CTRL RESUME clears the quiesce. -/
  | resume (who : Requester) (fn : Fin 256)
  /-- FLR (R489): A function-level reset clears the function's FUNC domain within 10 ms. -/
  | flr (fn : Fin 256)
  /-- FUNDAMENTAL_RESET (R489): PERST#, hot reset or link down acts as a forced reset of every function. -/
  | fundamentalReset (kind : FundKind)
  /-- POWER_STATE_CHANGE (R490): A function moves between D0 and D3hot. -/
  | powerStateChange (fn : Fin 256) (d3 : Bool)
  /-- SYNC (R492): HOSTFN_DLOG_CFG SYNC empties the filter and ends DONE once the log covers earlier writes. -/
  | sync (who : Requester) (fn : Fin 256)
  /-- B_ALIGN (R496): A B_ALIGN slot group arrives and the receiver deskews the bundle's lanes. -/
  | bAlign (g : Fin 64) (b : Fin 4) (count : BitVec 16)
  /-- HELLO (R502): A HELLO arrives, is recorded in BLVD_NBR, advances the bundle toward UP and checks the address for conflict. -/
  | hello (g : Fin 64) (b : Fin 4) (body : BitVec 48)
  /-- HELLO_PERIOD (R502): Every 100 µs an UP bundle sends a HELLO. -/
  | helloPeriod (g : Fin 64) (b : Fin 4)
  /-- HELLO_TIMEOUT (R502): No HELLO arrives for 1 ms and the bundle goes DOWN. -/
  | helloTimeout (g : Fin 64) (b : Fin 4)
  /-- BLVD_PACKET (R498): A packet from START to END arrives, is CRC-checked, acknowledged in order and delivered or forwarded. -/
  | blvdPacket (g : Fin 64) (b : Fin 4) (start : BitVec 48) (units : List (BitVec 512)) (end_ : BitVec 48)
  /-- BLVD_ACK (R499): An ACK or NAK arrives; the sender frees acknowledged packets or resends later ones. -/
  | blvdAck (g : Fin 64) (b : Fin 4) (seq : BitVec 10) (nak : Bool)
  /-- CREDIT (R500): A CREDIT block returns receive-buffer units for each traffic class. -/
  | credit (g : Fin 64) (b : Fin 4) (tc0 tc1 tc2 tc3 : BitVec 12)
  /-- REPLAY_TIMEOUT (R499): 8 µs pass without an ACK and the sender resends from the oldest unacknowledged packet. -/
  | replayTimeout (g : Fin 64) (b : Fin 4)
  /-- REMOTE_WRITE (R510): A write to the Boulevard remote window becomes TC1 packets to the destination module. -/
  | remoteWrite (who : Requester) (addr : BitVec 52) (data : List (BitVec 8)) (poison : Bool)
  /-- ROUTE_WRITE (R506): TC3 ROUTE_WRITE writes a route entry. -/
  | routeWrite (g : Fin 64) (b : Fin 4) (src : BitVec 12) (arg0 arg1 : BitVec 64)
  /-- ROUTE_READ (R506): TC3 ROUTE_READ returns a route entry. -/
  | routeRead (g : Fin 64) (b : Fin 4) (src : BitVec 12) (arg0 : BitVec 64)
  /-- NBR_READ (R506): TC3 NBR_READ returns a bundle's neighbour record. -/
  | nbrRead (g : Fin 64) (b : Fin 4) (src : BitVec 12) (arg0 : BitVec 64)
  /-- SET_ADDR (R506): TC3 SET_ADDR assigns the module address when unstrapped and the serial matches. -/
  | setAddr (g : Fin 64) (b : Fin 4) (src : BitVec 12) (arg0 arg1 : BitVec 64)
  /-- ECHO (R506): TC3 ECHO returns both arguments unchanged. -/
  | echo (g : Fin 64) (b : Fin 4) (src : BitVec 12) (arg0 arg1 : BitVec 64)
  /-- E2E_ACK (R513): An E2E_ACK ends a forwarded delivery, completing the action only on OK. -/
  | e2eAck (src : BitVec 12) (result : BitVec 8) (arg0 arg1 : BitVec 64)
  /-- E2E_TIMEOUT (R513): No ack arrives within E2E_US and the forwarding action counts as refused. -/
  | e2eTimeout (f : Fin 4096)
  /-- BLVD_FREE (R515): A write to BLVD_FREE frees a landed event copy, or ends TOO_LATE. -/
  | blvdFree (who : Requester) (p : Fin 8) (addr : BitVec 52)
  /-- SOURCE_EVENT (R522): An event on an interrupt source, or a write of 1 to PENDING, adds to EVENTS and sets PENDING. -/
  | sourceEvent (who : Option Requester) (i : Fin 2064)
  /-- CLEAR (R522): A write of CLEAR zeroes PENDING and EVENTS and restarts the coalescing timer. -/
  | clear (who : Requester) (i : Fin 2064)
  /-- COALESCE_TIMEOUT (R523): TIME × 100 ns after the first counted event, the source becomes ready. -/
  | coalesceTimeout (i : Fin 2064)
  /-- INTERRUPT_COMMIT (R523): A ready, unmasked, enabled source with a credit is committed and its message sent. -/
  | interruptCommit (i : Fin 2064)
  /-- INTERRUPT_MESSAGE (R524): A core accepts an interrupt message into its M, S or SEC queue and acknowledges it. -/
  | interruptMessage
  /-- CLAIM (R524): A read of CORE_ICLAIM removes the oldest queue entry, returns its credit and clears IN_FLIGHT. -/
  | claim (c : Fin 160) (queue : IntQueue)
  /-- CFG_READBACK (R526): A read of INT_SRC_CFG completes after every earlier committed message of the source is accepted. -/
  | cfgReadback (who : Requester) (i : Fin 2064)
  /-- GPI_EDGE (R521): The GPI filter takes a new level and the selected edge raises the source and drives the spill input. -/
  | gpiEdge (n : Fin 16) (level : Bool)
  /-- FREEZE (R541): A write to PMU_GLOBAL.FREEZE stops or starts every uncore counter at a common tick. -/
  | freeze (who : Requester) (v : Bool)
  /-- ELOG_FLUSH (R550): Within 1 s of a record's last change, Kydin copies it to the NOR error log and the mirror. -/
  | elogFlush
  /-- SNAPSHOT (R547): Every hour Kydin writes a SNAPSHOT lifetime entry. -/
  | snapshot
  /-- LIFETIME_DAILY (R547): Daily Kydin writes AGEING and LINK lifetime entries. -/
  | lifetimeDaily (ageing : List (BitVec 16))
  /-- RESPONSE_READ (R552): A Block Read from command code 0x11 returns the mailbox response and releases SMB_ALERT_N. -/
  | responseRead
  /-- INFO (R553): Mailbox INFO returns serial, part, versions, mode and test state. -/
  | info (path : MailPath)
  /-- MBOX_MODE (R553): Mailbox MODE requests a mode as MODE_REQUEST does. -/
  | mboxMode (path : MailPath) (mode : BitVec 8)
  /-- WAKE (R74): Mailbox WAKE takes the module from M0 to M1. -/
  | wake (path : MailPath)
  /-- DORMANT (R74): Mailbox DORMANT takes the module to M0. -/
  | dormant (path : MailPath)
  /-- WARM_RESET (R553): Mailbox WARM_RESET causes a module warm reset. -/
  | warmReset (path : MailPath)
  /-- HOLD (R553): Mailbox HOLD sets or clears the service hold. -/
  | hold (path : MailPath) (set : BitVec 8)
  /-- SUPPLY (R58): Mailbox SUPPLY performs a planned make-before-break switch to an input, or ends FAILED. -/
  | supply (path : MailPath) (inp : BitVec 8)
  /-- SLOT_ERASE (R554): Mailbox SLOT_ERASE erases a Kydin or image slot starting with the header sector. -/
  | slotErase (path : MailPath) (target : BitVec 8)
  /-- SLOT_WRITE (R554): Mailbox SLOT_WRITE programs slot data, keeping the header bytes until SLOT_VERIFY. -/
  | slotWrite (path : MailPath) (target : BitVec 8) (offset : BitVec 32) (data : SlotData)
  /-- SLOT_VERIFY (R133): Mailbox SLOT_VERIFY writes the header and sets the slot NEW or INVALID. -/
  | slotVerify (path : MailPath) (target : BitVec 8)
  /-- MBOX_COMMIT (R553): Mailbox COMMIT acts as BOOT_CTRL COMMIT. -/
  | mboxCommit (path : MailPath)
  /-- MBOX_BOOT_ONCE (R553): Mailbox BOOT_ONCE sets the one-shot boot slot. -/
  | mboxBootOnce (path : MailPath) (slot : BitVec 8)
  /-- COMPONENT (R134): Mailbox COMPONENT verifies a component package and applies it without a reset, or ends BUSY. -/
  | component (path : MailPath) (addr : BitVec 52) (len : Nat)
  /-- KEY_REVOKE (R554): Mailbox KEY_REVOKE blows a key slot's revocation bit on a valid signature from another slot. -/
  | keyRevoke (path : MailPath) (slot : BitVec 8) (pubkey signature : BitVec 768)
  /-- LIFE_READ (R553): Mailbox LIFE_READ returns a lifetime entry. -/
  | lifeRead (path : MailPath) (idx : BitVec 32)
  /-- ELOG_READ (R553): Mailbox ELOG_READ returns the oldest stored error record at or above a SEQ. -/
  | elogRead (path : MailPath) (seq : BitVec 32)
  /-- SENSOR (R553): Mailbox SENSOR returns a sensor reading. -/
  | sensor (path : MailPath) (idx : BitVec 16)
  /-- RTC (R544): Mailbox RTC returns, and optionally sets, the calendar time. -/
  | rtc (path : MailPath) (set : BitVec 8) (seconds : BitVec 64)
  /-- MBOX_RETIRE (R555): Mailbox RETIRE writes a RETIRE entry and takes a unit out of service, or ends BUSY. -/
  | mboxRetire (path : MailPath) (kind : BitVec 8) (u : BitVec 16)
  /-- MBOX_RESTORE (R555): Mailbox RESTORE returns a restorable unit to service. -/
  | mboxRestore (path : MailPath) (kind : BitVec 8) (u : BitVec 16)
  /-- RETURN_PREP (R562): Mailbox RETURN_PREP writes SNAPSHOT and RETURN entries, optionally erases images and returns a signed summary. -/
  | returnPrep (path : MailPath) (flags : BitVec 8)
  /-- TEST_CHALLENGE (R560): Mailbox TEST_CHALLENGE returns a nonce for one unlock, or ends REFUSED. -/
  | testChallenge (path : MailPath)
  /-- TEST_UNLOCK (R561): Mailbox TEST_UNLOCK opens the test modes on a valid maker signature, latching off the device secret. -/
  | testUnlock (path : MailPath) (signature : BitVec 768)
  /-- SUPPLY_THRESHOLD_RISE (R56): V_in rises to a mode's rising threshold, so that mode becomes permitted; a module held in M1 for low voltage then moves on to M2. -/
  | supplyThresholdRise (vin : Nat)
  /-- SMALL_CORE_INSTRUCTION (R391): A small core executes an instruction, including misaligned accesses done as two halves, port accesses and FENCE.I. -/
  | smallCoreInstruction (m : Fin 69) (word : BitVec 32)
  /-- SEQUENCER_WATCHDOG_EXPIRY (R555): A gate sequencer's watchdog expires, and three expiries within 1 s retire the gate logic. -/
  | sequencerWatchdogExpiry (g : Fin 64)
  /-- DATA_LINK_UP (R468): PCI Express link training completes, DL_UP is set, and the functions become ready within 20 ms if the module is already in M3–M7. -/
  | dataLinkUp (width : BitVec 5) (speed : BitVec 3)
  /-- ENGINE_RESET_COMPLETE (R318): An engine reset ends, RESETTING clears, and the engine takes submissions again within 100 µs of the reset's start. -/
  | engineResetComplete (q : Fin 24)
  /-- BUNDLE_SLOT_GROUP (R496): At each slot group a Boulevard bundle transmitter sends the next packet block or a due IDLE, B_ALIGN, ACK or CREDIT group. -/
  | bundleSlotGroup (g : Fin 64) (b : Fin 4)
  /-- OUT_WIDTH_END (R188): A trigger pin pulse's OUT_WIDTH + 1 gate-cycle extension ends, and TRIG_OUT or TRIG_QUAL falls. -/
  | outWidthEnd (pin : Fin 17)
  deriving DecidableEq, Repr

end Sys2Proof
end

