-- ==== Sys2Proof/Decode.lean ====
section
/-!
DEFINITION. The commands that words spell. The table of operations and events gives no row any bits: its rows have no fields, and
a command is its mnemonic with the operands of its constructor. No word spells a command.
-/

namespace Sys2Proof

/-- The command that the bits of a table row spell: none, since no row gives bits. -/
def decodeTableWord (_nbits _w : Nat) : Option Instr := none

end Sys2Proof
end

