-- ==== Sys2Proof/Config.lean ====
section
/-!
DEFINITION. What the spec leaves open or leaves to a published standard: constants without a value.
-/

namespace Sys2Proof.Config

/-- A value the spec leaves open, by the index of its use (log 7). Nothing is known of it. -/
opaque freeNat : Nat → Nat

/-- A choice the spec leaves open, by the index of its use (log 7). -/
opaque freeBool : Nat → Bool

/-- CODE of an error record of a block for an event that changes no register and that R549 gives no code (log 7). -/
opaque openCode : (block : Nat) → BitVec 16

/-- The `n` bytes of a number that an opaque function answers; which end is first says nothing, since the number is open. -/
def bytesOf (n : Nat) (v : BitVec (8 * n)) : List Byte := (List.range n).map fun i => v.extractLsb' (8 * i) 8

/-- SHA-384 of a byte string, 48 bytes (log 8). -/
opaque sha384Bits : List Byte → BitVec (8 * 48)
def sha384 (l : List Byte) : List Byte := bytesOf 48 (sha384Bits l)

/-- Whether r, s (96 bytes) is an ECDSA P-384 signature of a SHA-384 digest under a 96-byte public key (log 8). -/
opaque ecdsaOk : (pub sig digest : List Byte) → Bool

/-- The ECDSA P-384 signature of a digest under the private key with a number, and the public key of that private key: 96 bytes each
(log 8). -/
opaque ecdsaSignBits : (key : Nat) → (digest : List Byte) → BitVec (8 * 96)
opaque ecdsaPublicBits : (key : Nat) → BitVec (8 * 96)
def ecdsaSign (key : Nat) (digest : List Byte) : List Byte := bytesOf 96 (ecdsaSignBits key digest)
def ecdsaPublic (key : Nat) : List Byte := bytesOf 96 (ecdsaPublicBits key)

/-- What RFC 1951 leaves to a compressor (log 8): the match, as length and distance, that is taken at a position of the input; the code lengths over an
alphabet for the symbols used; and how code lengths are written, as symbols of the code-length alphabet with their repeat counts. -/
opaque matchAt : (depth : Nat) → (input : List Byte) → (pos : Nat) → Nat × Nat
opaque codeLengths : (alphabet : Nat) → (symbols : List Nat) → List Nat
opaque lengthRuns : (lengths : List Nat) → List (Nat × Nat)

/-- The private attestation key, derived from the fused device secret (R464; log 8). -/
opaque attestKey : Nat

/-- AES-256-GCM under a key with an IV and additional data (NIST SP 800-38D; log 8): the counter-mode key stream and the tag of a
ciphertext are open; the text is combined with the stream byte by byte, the tag follows, and a text opens only where its tag verifies. -/
opaque gcmStream : (key iv : List Byte) → Nat → Byte
opaque gcmTag : (key iv aad cipher : List Byte) → BitVec (8 * 16)
def gcmCrypt (key iv text : List Byte) : List Byte := text.zipIdx.map fun e => e.1 ^^^ gcmStream key iv e.2
def gcmSeal (key iv aad plain : List Byte) : List Byte :=
  let c := gcmCrypt key iv plain
  c ++ bytesOf 16 (gcmTag key iv aad c)
def gcmOpen (key iv aad blob : List Byte) : Option (List Byte) :=
  let c := blob.take (blob.length - 16)
  if blob.drop (blob.length - 16) == bytesOf 16 (gcmTag key iv aad c) then some (gcmCrypt key iv c) else none

/-- HKDF-SHA-384 of the fused device secret with an info string: a 32-byte key (log 8). -/
opaque deviceKeyBits : (info : List Byte) → BitVec (8 * 32)
def deviceKey (info : List Byte) : List Byte := bytesOf 32 (deviceKeyBits info)

/-- Jemund's maker key and the digest the ROM holds, its Vendor ID and the Revision ID from fuses, the ROM version (log 1). -/
opaque makerKey : List Byte
opaque makerSignatureBits : List Byte → BitVec (8 * 96)
def makerSignature (l : List Byte) : List Byte := bytesOf 96 (makerSignatureBits l)
opaque vendorId : BitVec 16
opaque revisionId : BitVec 8
opaque romVersion : BitVec 32

/-- Big cores: mvendorid, marchid and mimpid by CSR number, and the event code that mhpmevent3 to mhpmevent6 read (log 7). -/
opaque coreId : Nat → BitVec 64
opaque fixedEvent : Nat → BitVec 8

/-- The index that the direction predictor forms from a branch address and 64 bits of history, and the entry of an indirect jump in the
target buffer (log 7). -/
opaque branchHash : (pc : Nat) → (history : BitVec 64) → Nat
opaque targetHash : (pc : Nat) → Nat

/-- The 7-bit estimates of V for a reciprocal square root or a reciprocal, by format width and value, with their flags (log 9). -/
opaque fpEstimate : (root : Bool) → (width value : Nat) → Nat × Nat

/-- The check bits of the street grid: SECDED codes over sideband bits 55:0 and over 8 payload bytes; bits 4:0 of OPC and TAG of a packet that carries a
probe's record (log 95). -/
opaque sideCheck : BitVec 56 → BitVec 8
opaque dataCheck : BitVec 64 → BitVec 8
opaque traceOp : BitVec 5
opaque traceTag : (router : Nat) → BitVec 10

/-- Small cores: which MiB above the instruction SRAM holds their data SRAM, the physical address that an address outside the local SRAM names, and the identity CSRs
(log 26). -/
opaque dsramSlot : (core : Nat) → BitVec 11
opaque portAddr : (core : Nat) → (addr : Nat) → BitVec 52
opaque smallId : (core csr : Nat) → BitVec 32

end Sys2Proof.Config
end

