-- ==== Sys2Proof/Machine/Tab.lean ====
section
/-!
DEFINITION. Reading and writing the sparse tables of the state.
-/

namespace Sys2Proof.Machine

variable {α : Type}

/-- The value a table holds at a key; `d` where the key is not listed. -/
def tget (d : α) : Tab α → Nat → α
  | [], _ => d
  | (j, v) :: r, k => if j = k then v else tget d r k

/-- A table without a key. -/
def tdel (t : Tab α) (k : Nat) : Tab α := t.filter fun p => p.1 != k

/-- A table with a key listed at a value, in rising key order. -/
def tins : Tab α → Nat → α → Tab α
  | [], k, v => [(k, v)]
  | (j, w) :: r, k, v =>
    if k < j then (k, v) :: (j, w) :: r
    else if j = k then (k, v) :: r
    else (j, w) :: tins r k v

/-- A table with value `v` at key `k`: a key that reads as the default is not listed. -/
def tset [DecidableEq α] (d : α) (t : Tab α) (k : Nat) (v : α) : Tab α :=
  if v = d then tdel t k else tins t k v

/-- The canonical form: strictly rising keys, no entry equal to the default. -/
def twf [DecidableEq α] (d : α) : Tab α → Bool
  | [] => true
  | [(_, v)] => decide (v ≠ d)
  | (j, v) :: (k, w) :: r => decide (v ≠ d) && decide (j < k) && twf d ((k, w) :: r)

/-- Apply a function to the value at a key. -/
def tmap [DecidableEq α] (d : α) (t : Tab α) (k : Nat) (f : α → α) : Tab α := tset d t k (f (tget d t k))

/-- Element `k` of a list; `d` beyond its end. -/
def lget (d : α) (l : List α) (k : Nat) : α := (l[k]?).getD d

/-- A list with element `k` replaced; unchanged beyond its end. -/
def lset (l : List α) (k : Nat) (v : α) : List α := l.set k v

end Sys2Proof.Machine
end

