-- ==== Sys2Proof/Machine/Code.lean ====
section
/-!
DEFINITION. Little-endian bytes, CRC-32, and the Reed-Solomon code of a beat of DRAM.
-/

namespace Sys2Proof.Machine

/-! ### Bytes -/

/-- The number little-endian bytes make. -/
def leNat (l : List Byte) : Nat := l.foldr (fun b a => b.toNat + 256 * a) 0

/-- The `n` little-endian bytes of a number. -/
def leBytes : Nat → Nat → List Byte
  | 0, _ => []
  | n + 1, v => BitVec.ofNat 8 v :: leBytes n (v / 256)

/-- Bytes `o` to `o + n − 1` of a list; missing bytes are not made up. -/
def sub (l : List Byte) (o n : Nat) : List Byte := (l.drop o).take n

/-- The little-endian number in bytes `o` to `o + n − 1`. -/
def num (l : List Byte) (o n : Nat) : Nat := leNat (sub l o n)

/-- `n` zero bytes. -/
def zeros (n : Nat) : List Byte := List.replicate n 0

/-- CRC-32 of IEEE 802.3 over bytes, as it is stored: reflected, from all ones, complemented at the end. -/
def crc32 (l : List Byte) : Nat :=
  (l.foldl (fun c b => (List.range 8).foldl (fun (c : Nat) _ => if c % 2 == 1 then (c / 2).xor 0xEDB88320 else c / 2) (c.xor b.toNat))
    0xFFFFFFFF).xor 0xFFFFFFFF

/-! ### The field GF(2^16) and the code of a beat (R253 to R255) -/

/-- Multiplication by α modulo x^16 + x^12 + x^3 + x + 1 (R253). -/
def gfTwice (a : Nat) : Nat := if a < 2 ^ 15 then 2 * a else (2 * a).xor 0x1100B

/-- Product of two elements, over the low `n` bits of the second. -/
def gfMulBits : Nat → Nat → Nat → Nat
  | 0, _, _ => 0
  | n + 1, a, b => (if b % 2 == 1 then a else 0).xor (gfMulBits n (gfTwice a) (b / 2))

def gfMul (a b : Nat) : Nat := gfMulBits 16 a b

/-- `a` to the power 2^n. -/
def gfSquares : Nat → Nat → Nat
  | 0, a => a
  | n + 1, a => gfSquares n (gfMul a a)

/-- The inverse of an element other than 0: its power 2^16 − 2. -/
def gfInv (a : Nat) : Nat := (List.range 15).foldl (fun p i => gfMul p (gfSquares (i + 1) a)) 1

/-- α to the power i, for i below 10. -/
def gfAlpha (i : Nat) : Nat := 2 ^ i

/-- S0 and S1 of the symbols of a beat (R253). -/
def syndrome0 (c : List Nat) : Nat := c.foldl (fun a s => a.xor s) 0
def syndrome1 (c : List Nat) : Nat := c.zipIdx.foldl (fun a (s, i) => a.xor (gfMul s (gfAlpha i))) 0

/-- Check symbols c8 and c9 of the data symbols (R253). -/
def checkSyms (c : List Nat) : Nat × Nat :=
  let d0 := syndrome0 c
  let d1 := syndrome1 c
  let c9 := gfMul (d1.xor (gfMul (gfAlpha 8) d0)) (gfInv ((gfAlpha 8).xor (gfAlpha 9)))
  (d0.xor c9, c9)

/-- P, which the poison marker adds to each check symbol, and PM, its syndrome (R254). -/
def poisonP : Nat := 0x9A6B
def poisonPM : Nat := gfMul poisonP ((gfAlpha 8).xor (gfAlpha 9))

/-- What a beat decodes as (R255): corrected carries the logical position of the symbol. -/
inductive BeatOut where
  | intact
  | corrected (j : Nat)
  | marker
  | uncorrectable
  deriving DecidableEq, Repr

/-- Replace symbol `j`. -/
def putSym (c : List Nat) (j v : Nat) : List Nat := c.set j v

/-- Decode a beat whose marked positions already hold 0 (R255). The symbols returned are the data as the decoder leaves them. -/
def decodeBeat (c : List Nat) (erased : List Nat) : BeatOut × List Nat :=
  let s0 := syndrome0 c
  let s1 := syndrome1 c
  match erased with
  | [] =>
    if s0 == 0 && s1 == 0 then (.intact, c)
    else if s0 == 0 && s1 == poisonPM then (.marker, c)
    else if s0 == 0 then (.uncorrectable, c)
    else match (List.range 10).find? fun j => gfMul s0 (gfAlpha j) == s1 with
      | some j => (.corrected j, putSym c j ((lget 0 c j).xor s0))
      | none => (.uncorrectable, c)
  | [m] =>
    let t := s1.xor (gfMul s0 (gfAlpha m))
    if t == 0 then (.intact, putSym c m s0)
    else if t == poisonPM then (.marker, putSym c m s0)
    else (.uncorrectable, c)
  | m :: n :: _ =>
    let en := gfMul (s1.xor (gfMul s0 (gfAlpha m))) (gfInv ((gfAlpha m).xor (gfAlpha n)))
    (.intact, putSym (putSym c m (s0.xor en)) n en)

end Sys2Proof.Machine
end

