-- ==== Sys2Proof/Machine/Deflate.lean ====
section
/-!
DEFINITION. Raw DEFLATE streams (RFC 1951): the inflation that a SCAN makes and the stream that a COMPRESS writes (R333, R358).
-/

namespace Sys2Proof.Machine

/-! ### Codes and symbols (RFC 1951, 3.2.2, 3.2.5 to 3.2.7) -/

/-- The bits of bytes, least significant first. -/
def bitsOf (l : List Byte) : List Bool := l.flatMap fun b => (List.range 8).map fun i => b.getLsbD i

/-- A number's low `n` bits, least significant first. -/
def numBits (n v : Nat) : List Bool := (List.range n).map fun i => v.testBit i

/-- Codes of a length. -/
def codesOf (lens : List Nat) (l : Nat) : Nat := (lens.filter (· == l)).length

/-- The first code of a length. -/
def firstCode (lens : List Nat) : Nat → Nat
  | 0 => 0
  | l + 1 => 2 * (firstCode lens l + if l == 0 then 0 else codesOf lens l)

/-- The code of a symbol. -/
def codeOf (lens : List Nat) (s : Nat) : Nat :=
  let l := lget 0 lens s
  firstCode lens l + codesOf (lens.take s) l

/-- The share of the code space that the codes take, in units of 2 ^ -15. -/
def codeSpace (lens : List Nat) : Nat := (lens.map fun l => if l == 0 then 0 else 2 ^ (15 - l)).sum

/-- The lengths make a code: a complete one, a single code of one bit, or none. DEDUCED: RFC 1951 names the last two for distances alone
(log 96). -/
def codeOk (lens : List Nat) : Bool :=
  codeSpace lens == 2 ^ 15 || (lens.filter (· != 0) == [1]) || lens.all (· == 0)

/-- Base and extra bits of length symbol 257 + n and of distance symbol n. -/
def lengthSym (n : Nat) : Nat × Nat :=
  if n < 8 then (3 + n, 0) else if n == 28 then (258, 0) else (3 + (4 + n % 4) * 2 ^ ((n - 4) / 4), (n - 4) / 4)
def distSym (n : Nat) : Nat × Nat := if n < 2 then (1 + n, 0) else (1 + (2 + n % 2) * 2 ^ ((n - 2) / 2), (n - 2) / 2)

/-- The code lengths of a fixed block. -/
def fixedLens : List Nat := List.replicate 144 8 ++ List.replicate 112 9 ++ List.replicate 24 7 ++ List.replicate 8 8
def fixedDists : List Nat := List.replicate 32 5

/-- The order in which a dynamic block gives the lengths of its code-length code. -/
def lengthOrder : List Nat := [16, 17, 18, 0, 8, 7, 9, 6, 10, 5, 11, 4, 12, 3, 13, 2, 14, 1, 15]

/-! ### Inflation (R333) -/

/-- Details of a failed inflation (R325). -/
def inflLimit : Nat := 2
def inflShort : Nat := 3
def inflBad : Nat := 4

/-- A number of `n` bits from the stream; `cut` where the stream ends before. -/
def getBits (cut n : Nat) (bs : List Bool) : Except Nat (Nat × List Bool) :=
  if bs.length < n then .error cut
  else .ok (((bs.take n).zipIdx.map fun (b, i) => if b then 2 ^ i else 0).sum, bs.drop n)

/-- A symbol from the stream, at most `k` more bits long. -/
def getSym (cut : Nat) (lens : List Nat) : Nat → Nat → Nat → List Bool → Except Nat (Nat × List Bool)
  | 0, _, _, _ => .error inflBad
  | _ + 1, _, _, [] => .error cut
  | k + 1, l, code, b :: bs =>
    let code := 2 * code + (if b then 1 else 0)
    let l := l + 1
    let at' := code - firstCode lens l
    if firstCode lens l ≤ code && at' < codesOf lens l then
      match ((List.range lens.length).filter fun s => lget 0 lens s == l)[at']? with
      | some s => .ok (s, bs)
      | none => .error inflBad
    else getSym cut lens k l code bs

/-- What has been inflated, newest first: each byte with the bits of the stream then left. -/
abbrev Inflated := List (Byte × Nat)

/-- A stream that ends here: short of the limit, or without its end. DEDUCED: R325 names the first; a stream that ends without its last end of
block is not valid (log 96). -/
def cutAt (limit : Nat) (out : Inflated) : Nat := if out.length < limit then inflShort else inflBad

/-- Bytes copied from a distance. -/
def copyBack (d left : Nat) : Nat → Inflated → Inflated
  | 0, out => out
  | k + 1, out => copyBack d left k (((out[d - 1]?).map (·.1)).getD 0 |> fun b => (b, left) :: out)

/-- The symbols of a block up to its end. -/
def inflateSyms (lit dist : List Nat) (limit : Nat) : Nat → List Bool → Inflated → Except Nat (List Bool × Inflated)
  | 0, _, _ => .error inflBad
  | k + 1, bs, out =>
    let cut := cutAt limit out
    match getSym cut lit 15 0 0 bs with
    | .error e => .error e
    | .ok (s, bs) =>
      if s < 256 then
        if limit ≤ out.length then .error inflLimit else inflateSyms lit dist limit k bs ((BitVec.ofNat 8 s, bs.length) :: out)
      else if s == 256 then .ok (bs, out)
      else if 285 < s then .error inflBad
      else do
        let (n, bs) ← getBits cut (lengthSym (s - 257)).2 bs
        let (t, bs) ← getSym cut dist 15 0 0 bs
        if 29 < t then .error inflBad
        else do
          let (d, bs) ← getBits cut (distSym t).2 bs
          let n := (lengthSym (s - 257)).1 + n
          let d := (distSym t).1 + d
          if out.length < d then .error inflBad
          else if limit < out.length + n then .error inflLimit
          else inflateSyms lit dist limit k bs (copyBack d bs.length n out)

/-- The `n` code lengths of a dynamic block, newest first; `k` bounds the symbols. -/
def getLens (cut : Nat) (cl : List Nat) (n : Nat) : Nat → List Bool → List Nat → Except Nat (List Nat × List Bool)
  | 0, _, _ => .error inflBad
  | k + 1, bs, acc =>
    if acc.length == n then .ok (acc.reverse, bs)
    else if n < acc.length then .error inflBad
    else
      match getSym cut cl 7 0 0 bs with
      | .error e => .error e
      | .ok (s, bs) =>
        if s < 16 then getLens cut cl n k bs (s :: acc)
        else do
          let (x, bs) ← getBits cut (if s == 16 then 2 else if s == 17 then 3 else 7) bs
          if s == 16 && acc.isEmpty then .error inflBad
          else getLens cut cl n k bs (List.replicate (x + if s == 18 then 11 else 3) (if s == 16 then acc.headD 0 else 0) ++ acc)

/-- A dynamic block. -/
def inflateDynamic (limit : Nat) (bs : List Bool) (out : Inflated) : Except Nat (List Bool × Inflated) := do
  let cut := cutAt limit out
  let (nl, bs) ← getBits cut 5 bs
  let (nd, bs) ← getBits cut 5 bs
  let (nc, bs) ← getBits cut 4 bs
  if bs.length < 3 * (nc + 4) then .error cut
  else
    let given := (List.range (nc + 4)).map fun i => ((bs.drop (3 * i)).take 3).zipIdx.map (fun (b, j) => if b then 2 ^ j else 0) |>.sum
    let cl := (List.range 19).map fun s => lget 0 given (lengthOrder.findIdx (· == s))
    if codeSpace cl != 2 ^ 15 then .error inflBad
    else do
      let (ls, bs) ← getLens cut cl (nl + 257 + nd + 1) (nl + nd + 259) (bs.drop (3 * (nc + 4))) []
      let lit := ls.take (nl + 257)
      let dist := ls.drop (nl + 257)
      if 286 < lit.length || 30 < dist.length || lget 0 lit 256 == 0 || !codeOk lit || !codeOk dist then .error inflBad
      else inflateSyms lit dist limit (bs.length + 1) bs out

/-- A stored block. -/
def inflateStored (limit : Nat) (bs : List Bool) (out : Inflated) : Except Nat (List Bool × Inflated) := do
  let cut := cutAt limit out
  let bs := bs.drop (bs.length % 8)
  let (len, bs) ← getBits cut 16 bs
  let (inv, bs) ← getBits cut 16 bs
  if len + inv != 65535 then .error inflBad
  else
    let have' := min len (bs.length / 8)
    let bytes := (List.range have').map fun i =>
      (BitVec.ofNat 8 (((bs.drop (8 * i)).take 8).zipIdx.map (fun (b, j) => if b then 2 ^ j else 0)).sum, bs.length - 8 * (i + 1))
    if limit < out.length + have' then .error inflLimit
    else if have' < len then .error (cutAt limit (bytes.reverse ++ out))
    else .ok (bs.drop (8 * len), bytes.reverse ++ out)

/-- The blocks of a stream up to its last. -/
def inflateBlocks (limit : Nat) : Nat → List Bool → Inflated → Except Nat Inflated
  | 0, _, _ => .error inflBad
  | k + 1, bs, out => do
    let (last, bs) ← getBits (cutAt limit out) 1 bs
    let (kind, bs) ← getBits (cutAt limit out) 2 bs
    let (bs, out) ← match kind with
      | 0 => inflateStored limit bs out
      | 1 => inflateSyms fixedLens fixedDists limit (bs.length + 1) bs out
      | 2 => inflateDynamic limit bs out
      | _ => .error inflBad
    if last == 1 then .ok out else inflateBlocks limit k bs out

/-- A stream inflated to exactly `limit` bytes, each with the number of stored bytes it was made from, or the detail that ends the job
(R333). -/
def inflate (limit : Nat) (stored : List Byte) : Except Nat (List (Byte × Nat)) :=
  let bs := bitsOf stored
  match inflateBlocks limit (bs.length + 1) bs [] with
  | .error e => .error e
  | .ok out => if out.length < limit then .error inflShort else .ok (out.reverse.map fun x => (x.1, stored.length - x.2 / 8))

/-! ### Compression (R358) -/

/-- Bytes of input in a block. -/
def deflateBlock : Nat := 65536

/-- A match is allowed: 3 to 258 bytes inside the block that recur at a distance of at most 32 KiB, found among the nearest DEPTH positions whose first
three bytes are the same. -/
def matchOk (depth : Nat) (inp : List Byte) (pos stop len dist : Nat) : Bool :=
  let same := fun (n d : Nat) => (inp.drop (pos - d)).take n == (inp.drop pos).take n
  3 ≤ len && len ≤ 258 && 1 ≤ dist && dist ≤ pos && dist ≤ 32768 && pos + len ≤ stop && same len dist &&
    decide (((List.range dist).filter fun d => 1 ≤ d && same 3 d).length < depth)

/-- A block's tokens from a position on: matches as length and distance, literals with distance 0. Which of the allowed matches is taken is open
(log 8). -/
def tokens (depth : Nat) (inp : List Byte) (stop : Nat) : Nat → Nat → List (Nat × Nat)
  | 0, _ => []
  | k + 1, pos =>
    if stop ≤ pos then []
    else
      let (len, dist) := Config.matchAt depth inp pos
      if matchOk depth inp pos stop len dist then (len, dist) :: tokens depth inp stop k (pos + len)
      else ((lget 0 inp pos).toNat, 0) :: tokens depth inp stop k (pos + 1)

/-- The symbol of a length or a distance: the last whose base is not above it. -/
def symOf (base : Nat → Nat × Nat) (n v : Nat) : Nat := (((List.range n).filter fun s => (base s).1 ≤ v).getLast?).getD 0

/-- The two symbols of a token: literal or length, and distance. -/
def tokenSyms (t : Nat × Nat) : Nat × Option Nat := if t.2 == 0 then (t.1, none) else (257 + symOf lengthSym 29 t.1, some (symOf distSym 30 t.2))

/-- Lengths of a code over `n` symbols that differ by at most one bit. -/
def evenLens (n : Nat) : List Nat :=
  let b := (n - 1).log2 + 1
  List.replicate (2 ^ b - n) (b - 1) ++ List.replicate (2 * n - 2 ^ b) b

/-- The lengths of a dynamic code that has at least `lo` and at most `n` of at most `mx` bits, over the symbols that are used; which of the possible
codes it is, is open (log 8). -/
def chooseLens (lo n mx : Nat) (used : List Nat) : List Nat :=
  let c := Config.codeLengths n used
  if lo ≤ c.length && c.length ≤ n && c.all (· ≤ mx) && codeOk c && (n != 19 || codeSpace c == 2 ^ 15) && used.all (fun s => lget 0 c s != 0) then c
  else evenLens n

/-- The bits of a symbol's code, first bit first. -/
def symBits (lens : List Nat) (s : Nat) : List Bool := (numBits (lget 0 lens s) (codeOf lens s)).reverse

/-- The lengths that a list of code-length symbols and repeat counts gives. -/
def expandRuns : List (Nat × Nat) → List Nat → List Nat
  | [], acc => acc
  | (s, x) :: r, acc =>
    expandRuns r (acc ++ (if s < 16 then [s] else if s == 16 then List.replicate (3 + x) (acc.getLastD 0) else List.replicate (x + if s == 18 then 11 else 3) 0))

/-- How a list of code lengths is written; which of the possible ways, is open (log 8). -/
def chooseRuns (ls : List Nat) : List (Nat × Nat) :=
  let c := Config.lengthRuns ls
  let fits := fun (e : Nat × Nat) => e.1 ≤ 18 && e.2 < (if e.1 < 16 then 1 else if e.1 == 16 then 4 else if e.1 == 17 then 8 else 128)
  if c.all fits && (c.head?.map (·.1)) != some 16 && expandRuns c [] == ls then c else ls.map fun l => (l, 0)

/-- A dynamic block after its three bits of header. -/
def dynamicBits (ts : List (Nat × Nat)) : List Bool :=
  let syms := ts.map tokenSyms
  let lit := chooseLens 257 286 15 (syms.map (·.1) ++ [256])
  let dist := chooseLens 1 30 15 (syms.filterMap (·.2))
  let runs := chooseRuns (lit ++ dist)
  let cl := chooseLens 19 19 7 (runs.map (·.1))
  let order := lengthOrder.map fun s => lget 0 cl s
  let n := max 4 (19 - (order.reverse.takeWhile (· == 0)).length)
  let run := fun (e : Nat × Nat) => symBits cl e.1 ++ numBits (if e.1 < 16 then 0 else if e.1 == 16 then 2 else if e.1 == 17 then 3 else 7) e.2
  let token := fun (t : Nat × Nat) =>
    match tokenSyms t with
    | (s, none) => symBits lit s
    | (s, some d) =>
      let (lb, le) := lengthSym (s - 257)
      let (db, de) := distSym d
      symBits lit s ++ numBits le (t.1 - lb) ++ symBits dist d ++ numBits de (t.2 - db)
  numBits 5 (lit.length - 257) ++ numBits 5 (dist.length - 1) ++ numBits 4 (n - 4) ++ (order.take n).flatMap (numBits 3) ++
    runs.flatMap run ++ ts.flatMap token ++ symBits lit 256

/-- Bytes as stored blocks from a bit position on; one of them holds at most 65,535 bytes. -/
def storedBits (last : Bool) (pos : Nat) (bytes : List Byte) : List Bool :=
  let one := fun (last : Bool) (pos : Nat) (d : List Byte) =>
    [last, false, false] ++ List.replicate ((8 - (pos + 3) % 8) % 8) false ++ numBits 16 d.length ++ numBits 16 (65535 - d.length) ++ bitsOf d
  if bytes.length ≤ 65535 then one last pos bytes
  else
    let a := one false pos (bytes.take 65535)
    a ++ one last (pos + a.length) (bytes.drop 65535)

/-- The blocks of an input from a position on, one for every 64 KiB, BFINAL in the last: dynamic, or stored when that is shorter. -/
def deflateFrom (depth : Nat) (inp : List Byte) : Nat → Nat → List Bool → List Bool
  | 0, _, acc => acc
  | k + 1, pos, acc =>
    let stop := min inp.length (pos + deflateBlock)
    let last := decide (inp.length ≤ stop)
    let dyn := [last, false, true] ++ dynamicBits (tokens depth inp stop deflateBlock pos)
    let raw := storedBits last acc.length ((inp.take stop).drop pos)
    let acc := acc ++ (if raw.length < dyn.length then raw else dyn)
    if last then acc else deflateFrom depth inp k stop acc

/-- The stream of an input at a search depth (R358). -/
def deflate (depth : Nat) (inp : List Byte) : List Byte :=
  let bs := deflateFrom depth inp (inp.length / deflateBlock + 1) 0 []
  (List.range ((bs.length + 7) / 8)).map fun i => BitVec.ofNat 8 (((bs.drop (8 * i)).take 8).zipIdx.map (fun (b, j) => if b then 2 ^ j else 0)).sum

end Sys2Proof.Machine
end

