-- ==== Sys2Proof/Machine/Regs.lean ====
section
/-!
DEFINITION. The registers of control space: one `Reg` per register of the index (R564 to R567), one `Field` per field of its
field table. Reserved bits hold nothing (R8), so a register is exactly its fields.
-/

namespace Sys2Proof.Machine

/-- Reset domains of the field tables (R84). -/
inductive Dom where
  | aon | mod | part | gate | sq | eng | func
  deriving DecidableEq, Repr

/-- Access types (R7). -/
inductive Acc where
  | ro | rw | rwl | rc | wo | w1c | w1s
  deriving DecidableEq, Repr

/-- The classes of write rights that the chapters give their registers (R444). -/
inductive Right where

  | anySecure
  | gate
  | trigger
  | part
  | partWait
  | coreEither
  | flow
  | port
  | quarter
  | nobody
  | trusted
  | qpSecure
  | qp
  | coreSecure
  | coreCM
  | slice
  | str
  | partEither
  | ownw
  | tsPort
  | kydin
  | hostOut
  | fn
  | mgr
  | partP
  | src
  | intCtrl
  | engPmu
  deriving DecidableEq, Repr

/-- A register of the index: number, window index and instances of its block (R564), offset of element 0, distance of the
elements and their number, reset domain, who may write it, and how elements sit in the offset space: `0` evenly, `1` four
words of 64 bytes (R564, AVE_TERM), `2` rows of five of 64 bytes (PART_QUOTA). -/
structure Reg where
  id : Nat
  n0 : Nat
  ninst : Nat
  base : Nat
  stride : Nat
  count : Nat
  dom : Dom
  right : Right
  lay : Nat := 0
  deriving DecidableEq, Repr

/-- A field: number, number of its register, bits hi to lo, access type and reset value. -/
structure Field where
  id : Nat
  reg : Nat
  hi : Nat
  lo : Nat
  acc : Acc
  reset : Nat
  deriving DecidableEq, Repr

/-- Width of a field in bits. -/
def Field.width (f : Field) : Nat := f.hi - f.lo + 1

/-- MODE_STATUS: Mode status (R97). -/
def R_MODE_STATUS : Reg := ⟨0, 0x1, 1, 0x0, 8, 1, .mod, .anySecure, 0⟩
def F_MODE_STATUS_PERMITTED : Field := ⟨0, 0, 39, 32, .ro, 3⟩
def F_MODE_STATUS_LAST_CAUSE : Field := ⟨1, 0, 31, 24, .ro, 6⟩
def F_MODE_STATUS_QUEUED_VALID : Field := ⟨2, 0, 23, 23, .ro, 0⟩
def F_MODE_STATUS_QUEUED_MODE : Field := ⟨3, 0, 22, 20, .ro, 0⟩
def F_MODE_STATUS_WAIT_SUPPLY : Field := ⟨4, 0, 19, 19, .ro, 0⟩
def F_MODE_STATUS_IN_TRANSITION : Field := ⟨5, 0, 18, 18, .ro, 0⟩
def F_MODE_STATUS_TARGET : Field := ⟨6, 0, 17, 15, .ro, 3⟩
def F_MODE_STATUS_MODE : Field := ⟨7, 0, 2, 0, .ro, 2⟩

/-- MODE_REQUEST: Mode request (R98). -/
def R_MODE_REQUEST : Reg := ⟨1, 0x1, 1, 0x8, 8, 1, .mod, .anySecure, 0⟩
def F_MODE_REQUEST_RESULT : Field := ⟨8, 1, 31, 24, .ro, 0⟩
def F_MODE_REQUEST_SEQ : Field := ⟨9, 1, 23, 16, .ro, 0⟩
def F_MODE_REQUEST_MODE : Field := ⟨10, 1, 2, 0, .wo, 0⟩

/-- MODE_CONFIG: Mode configuration (R99). -/
def R_MODE_CONFIG : Reg := ⟨2, 0x1, 1, 0x10, 8, 1, .mod, .anySecure, 0⟩
def F_MODE_CONFIG_SPILL_EN : Field := ⟨11, 2, 15, 15, .rwl, 0⟩
def F_MODE_CONFIG_SPILL_POL : Field := ⟨12, 2, 14, 14, .rwl, 0⟩
def F_MODE_CONFIG_SPILL_BEAM : Field := ⟨13, 2, 13, 13, .rwl, 0⟩
def F_MODE_CONFIG_SPILL_GAP : Field := ⟨14, 2, 12, 12, .rwl, 0⟩
def F_MODE_CONFIG_SPILL_GPI : Field := ⟨15, 2, 3, 0, .rwl, 0⟩

/-- RESET_CAUSE: Module reset cause (R100). -/
def R_RESET_CAUSE : Reg := ⟨3, 0x1, 1, 0x18, 8, 1, .aon, .anySecure, 0⟩
def F_RESET_CAUSE_WARM_COUNT : Field := ⟨16, 3, 63, 48, .ro, 0⟩
def F_RESET_CAUSE_THERMAL_TRIP : Field := ⟨17, 3, 3, 3, .w1c, 0⟩
def F_RESET_CAUSE_KYDIN_CMD : Field := ⟨18, 3, 2, 2, .w1c, 0⟩
def F_RESET_CAUSE_RESET_PIN : Field := ⟨19, 3, 1, 1, .w1c, 0⟩
def F_RESET_CAUSE_COLD : Field := ⟨20, 3, 0, 0, .w1c, 1⟩

/-- PART_RESET: Partition reset (R101). -/
def R_PART_RESET : Reg := ⟨4, 0x1, 1, 0x20, 8, 1, .mod, .anySecure, 0⟩
def F_PART_RESET_CLEAR_MEM : Field := ⟨21, 4, 23, 16, .rw, 0⟩
def F_PART_RESET_BUSY : Field := ⟨22, 4, 15, 8, .ro, 0⟩
def F_PART_RESET_START : Field := ⟨23, 4, 7, 0, .wo, 0⟩

/-- MODE_STOP_STAMP: Ingest stop stamp (R102). -/
def R_MODE_STOP_STAMP : Reg := ⟨5, 0x1, 1, 0x28, 8, 1, .mod, .anySecure, 0⟩
def F_MODE_STOP_STAMP_TURN : Field := ⟨24, 5, 47, 16, .ro, 0⟩
def F_MODE_STOP_STAMP_CROSSING : Field := ⟨25, 5, 15, 0, .ro, 0⟩

/-- BOOT_STATUS: Boot status (R136). -/
def R_BOOT_STATUS : Reg := ⟨6, 0x2, 1, 0x0, 8, 1, .mod, .anySecure, 0⟩
def F_BOOT_STATUS_LOCKED : Field := ⟨26, 6, 56, 56, .ro, 0⟩
def F_BOOT_STATUS_FUSE_SVN : Field := ⟨27, 6, 55, 48, .ro, 0⟩
def F_BOOT_STATUS_IMAGE_SVN : Field := ⟨28, 6, 47, 40, .ro, 0⟩
def F_BOOT_STATUS_APPLY_ERRS : Field := ⟨29, 6, 39, 32, .ro, 0⟩
def F_BOOT_STATUS_LOG_COUNT : Field := ⟨30, 6, 31, 16, .ro, 0⟩
def F_BOOT_STATUS_STATE_B : Field := ⟨31, 6, 15, 12, .ro, 0⟩
def F_BOOT_STATUS_STATE_A : Field := ⟨32, 6, 11, 8, .ro, 0⟩
def F_BOOT_STATUS_TRIAL_COUNT : Field := ⟨33, 6, 5, 4, .ro, 0⟩
def F_BOOT_STATUS_FALLBACK : Field := ⟨34, 6, 3, 3, .ro, 0⟩
def F_BOOT_STATUS_STRAP : Field := ⟨35, 6, 2, 2, .ro, 1⟩
def F_BOOT_STATUS_SLOT : Field := ⟨36, 6, 0, 0, .ro, 0⟩

/-- BOOT_CTRL: Boot control (R137). -/
def R_BOOT_CTRL : Reg := ⟨7, 0x2, 1, 0x8, 8, 1, .mod, .anySecure, 0⟩
def F_BOOT_CTRL_RESULT : Field := ⟨37, 7, 31, 24, .ro, 0⟩
def F_BOOT_CTRL_SEQ : Field := ⟨38, 7, 23, 16, .ro, 0⟩
def F_BOOT_CTRL_CMD : Field := ⟨39, 7, 3, 0, .wo, 0⟩

/-- BOOT_MEAS: Measurement value, word n (R138). -/
def R_BOOT_MEAS : Reg := ⟨8, 0x2, 1, 0x20, 8, 6, .mod, .anySecure, 0⟩
def F_BOOT_MEAS_VALUE : Field := ⟨40, 8, 63, 0, .ro, 0⟩

/-- TIMING_STATUS: Crossing-clock status (R174). -/
def R_TIMING_STATUS : Reg := ⟨9, 0x3, 1, 0x0, 8, 1, .mod, .anySecure, 0⟩
def F_TIMING_STATUS_TURN_ERRS : Field := ⟨41, 9, 55, 40, .rc, 0⟩
def F_TIMING_STATUS_CROSSING : Field := ⟨42, 9, 39, 24, .ro, 0⟩
def F_TIMING_STATUS_LOCK_LOSSES : Field := ⟨43, 9, 23, 8, .rc, 0⟩
def F_TIMING_STATUS_TURN_SEEN : Field := ⟨44, 9, 3, 3, .ro, 0⟩
def F_TIMING_STATUS_FREQ_OK : Field := ⟨45, 9, 2, 2, .ro, 0⟩
def F_TIMING_STATUS_PRESENT : Field := ⟨46, 9, 1, 1, .ro, 0⟩
def F_TIMING_STATUS_LOCKED : Field := ⟨47, 9, 0, 0, .ro, 0⟩

/-- TIMING_CONFIG: Crossing-clock configuration (R174). -/
def R_TIMING_CONFIG : Reg := ⟨10, 0x3, 1, 0x8, 8, 1, .mod, .anySecure, 0⟩
def F_TIMING_CONFIG_CPT_M1 : Field := ⟨48, 10, 47, 32, .rwl, 0⟩
def F_TIMING_CONFIG_CLKX_HZ : Field := ⟨49, 10, 31, 0, .rwl, 0⟩

/-- TIMING_TURN: Turn count (R174). -/
def R_TIMING_TURN : Reg := ⟨11, 0x3, 1, 0x10, 8, 1, .mod, .anySecure, 0⟩
def F_TIMING_TURN_TURN : Field := ⟨50, 11, 31, 0, .ro, 0⟩

/-- TIMING_TURN_SET: Turn count preset (R174). -/
def R_TIMING_TURN_SET : Reg := ⟨12, 0x3, 1, 0x18, 8, 1, .mod, .anySecure, 0⟩
def F_TIMING_TURN_SET_ARM : Field := ⟨51, 12, 32, 32, .w1s, 0⟩
def F_TIMING_TURN_SET_VALUE : Field := ⟨52, 12, 31, 0, .rw, 0⟩

/-- TIMING_TURN_TIME: Time of last TURN (R174). -/
def R_TIMING_TURN_TIME : Reg := ⟨13, 0x3, 1, 0x20, 8, 1, .mod, .anySecure, 0⟩
def F_TIMING_TURN_TIME_CYCLES : Field := ⟨53, 13, 63, 6, .ro, 0⟩
def F_TIMING_TURN_TIME_FRACTION : Field := ⟨54, 13, 5, 0, .ro, 0⟩

/-- TIME_NOW: Module time (R174). -/
def R_TIME_NOW : Reg := ⟨14, 0x3, 1, 0x28, 8, 1, .aon, .anySecure, 0⟩
def F_TIME_NOW_TIME : Field := ⟨55, 14, 63, 0, .ro, 0⟩

/-- GATE_CONFIG: Gate configuration (R174). -/
def R_GATE_CONFIG : Reg := ⟨15, 0x80, 64, 0x0, 8, 1, .mod, .gate, 0⟩
def F_GATE_CONFIG_MARK_INTERVAL : Field := ⟨56, 15, 63, 48, .rwl, 0⟩
def F_GATE_CONFIG_DL_TIMEOUT : Field := ⟨57, 15, 47, 40, .rwl, 16⟩
def F_GATE_CONFIG_HB_HIGH : Field := ⟨58, 15, 39, 27, .rwl, 4096⟩
def F_GATE_CONFIG_SWING_MV : Field := ⟨59, 15, 26, 16, .rwl, 800⟩
def F_GATE_CONFIG_XTOL : Field := ⟨60, 15, 15, 12, .rwl, 1⟩
def F_GATE_CONFIG_TAKEOVER_EN : Field := ⟨61, 15, 11, 11, .rwl, 0⟩
def F_GATE_CONFIG_RATE : Field := ⟨62, 15, 10, 8, .rwl, 0⟩
def F_GATE_CONFIG_PERSONALITY : Field := ⟨63, 15, 1, 0, .rwl, 0⟩

/-- GATE_STATUS: Gate status (R174). -/
def R_GATE_STATUS : Reg := ⟨16, 0x80, 64, 0x8, 8, 1, .gate, .gate, 0⟩
def F_GATE_STATUS_LANES_READY : Field := ⟨64, 16, 63, 48, .ro, 0⟩
def F_GATE_STATUS_TAKEOVER : Field := ⟨65, 16, 3, 2, .ro, 0⟩
def F_GATE_STATUS_HALF_RATE : Field := ⟨66, 16, 1, 1, .ro, 0⟩
def F_GATE_STATUS_RUN : Field := ⟨67, 16, 0, 0, .ro, 0⟩

/-- GATE_HB_STATUS: Holding-buffer status (R174). -/
def R_GATE_HB_STATUS : Reg := ⟨17, 0x80, 64, 0x10, 8, 1, .gate, .gate, 0⟩
def F_GATE_HB_STATUS_OVERRUN : Field := ⟨68, 17, 63, 48, .rc, 0⟩
def F_GATE_HB_STATUS_OVF_SF : Field := ⟨69, 17, 47, 32, .rc, 0⟩
def F_GATE_HB_STATUS_PEAK : Field := ⟨70, 17, 28, 16, .rc, 0⟩
def F_GATE_HB_STATUS_USED : Field := ⟨71, 17, 12, 0, .ro, 0⟩

/-- GATE_DL_CMD: Downlink command (R174). -/
def R_GATE_DL_CMD : Reg := ⟨18, 0x80, 64, 0x18, 8, 1, .gate, .gate, 0⟩
def F_GATE_DL_CMD_RESULT : Field := ⟨72, 18, 63, 56, .ro, 0⟩
def F_GATE_DL_CMD_SEQ : Field := ⟨73, 18, 55, 48, .ro, 0⟩
def F_GATE_DL_CMD_LANE : Field := ⟨74, 18, 44, 40, .wo, 0⟩
def F_GATE_DL_CMD_OPCODE : Field := ⟨75, 18, 39, 32, .wo, 0⟩
def F_GATE_DL_CMD_ARG : Field := ⟨76, 18, 31, 0, .wo, 0⟩

/-- GATE_DL_ACK: Downlink acknowledgement (R174). -/
def R_GATE_DL_ACK : Reg := ⟨19, 0x80, 64, 0x20, 8, 1, .gate, .gate, 0⟩
def F_GATE_DL_ACK_TAG : Field := ⟨77, 19, 63, 56, .ro, 0⟩
def F_GATE_DL_ACK_FE_RESULT : Field := ⟨78, 19, 55, 48, .ro, 0⟩
def F_GATE_DL_ACK_LATE_ACKS : Field := ⟨79, 19, 47, 32, .rc, 0⟩
def F_GATE_DL_ACK_DATA : Field := ⟨80, 19, 31, 0, .ro, 0⟩

/-- GATE_CTRL: Gate control (R174). -/
def R_GATE_CTRL : Reg := ⟨20, 0x80, 64, 0x28, 8, 1, .gate, .gate, 0⟩
def F_GATE_CTRL_RESULT : Field := ⟨81, 20, 63, 56, .ro, 0⟩
def F_GATE_CTRL_SEQ : Field := ⟨82, 20, 55, 48, .ro, 0⟩
def F_GATE_CTRL_LANE : Field := ⟨83, 20, 19, 16, .wo, 0⟩
def F_GATE_CTRL_CMD : Field := ⟨84, 20, 3, 0, .wo, 0⟩

/-- LANE_CONFIG: Serial-lane configuration (R174). -/
def R_LANE_CONFIG : Reg := ⟨21, 0x80, 64, 0x100, 8, 16, .mod, .gate, 0⟩
def F_LANE_CONFIG_XOFFSET : Field := ⟨85, 21, 27, 16, .rwl, 0⟩
def F_LANE_CONFIG_FE_TAG : Field := ⟨86, 21, 15, 8, .rwl, 255⟩
def F_LANE_CONFIG_BG_ADAPT : Field := ⟨87, 21, 3, 3, .rw, 1⟩
def F_LANE_CONFIG_EQ_STORED : Field := ⟨88, 21, 2, 2, .rwl, 0⟩
def F_LANE_CONFIG_IN_USE : Field := ⟨89, 21, 0, 0, .rwl, 0⟩

/-- LANE_STATUS: Serial-lane status (R174). -/
def R_LANE_STATUS : Reg := ⟨22, 0x80, 64, 0x180, 8, 16, .gate, .gate, 0⟩
def F_LANE_STATUS_FE_CODE : Field := ⟨90, 22, 63, 48, .ro, 0⟩
def F_LANE_STATUS_EYE_H : Field := ⟨91, 22, 47, 40, .ro, 0⟩
def F_LANE_STATUS_EYE_V : Field := ⟨92, 22, 39, 32, .ro, 0⟩
def F_LANE_STATUS_PHASE : Field := ⟨93, 22, 31, 26, .ro, 0⟩
def F_LANE_STATUS_SWAPPED : Field := ⟨94, 22, 3, 3, .ro, 0⟩
def F_LANE_STATUS_STATE : Field := ⟨95, 22, 2, 0, .ro, 0⟩

/-- LANE_ERR: Serial-lane error counts (R174). -/
def R_LANE_ERR : Reg := ⟨23, 0x80, 64, 0x200, 8, 16, .gate, .gate, 0⟩
def F_LANE_ERR_CRC_FAIL : Field := ⟨96, 23, 63, 48, .rc, 0⟩
def F_LANE_ERR_BLOCK_ERR : Field := ⟨97, 23, 47, 32, .rc, 0⟩
def F_LANE_ERR_HDR_ERR : Field := ⟨98, 23, 31, 16, .rc, 0⟩
def F_LANE_ERR_STAMP_SLIP : Field := ⟨99, 23, 15, 0, .rc, 0⟩

/-- AVE_CONFIG: Avenue configuration (shadow) (R214). -/
def R_AVE_CONFIG : Reg := ⟨24, 0x4, 1, 0x0, 8, 1, .mod, .trigger, 0⟩
def F_AVE_CONFIG_ACCEPT_DELAY : Field := ⟨100, 24, 39, 30, .rw, 0⟩
def F_AVE_CONFIG_EXT_ACCEPT : Field := ⟨101, 24, 29, 29, .rw, 0⟩
def F_AVE_CONFIG_ACC_WINDOW : Field := ⟨102, 24, 25, 16, .rw, 64⟩
def F_AVE_CONFIG_OUT_WIDTH : Field := ⟨103, 24, 11, 8, .rw, 0⟩
def F_AVE_CONFIG_QUAL_VETO : Field := ⟨104, 24, 2, 2, .rw, 0⟩
def F_AVE_CONFIG_DISAGREE_ONE : Field := ⟨105, 24, 1, 1, .rw, 0⟩

/-- AVE_STATUS: Avenue status (R214). -/
def R_AVE_STATUS : Reg := ⟨25, 0x4, 1, 0x8, 8, 1, .mod, .trigger, 0⟩
def F_AVE_STATUS_QUAL_DELAY : Field := ⟨106, 25, 47, 36, .ro, 0⟩
def F_AVE_STATUS_GEN : Field := ⟨107, 25, 31, 16, .ro, 0⟩
def F_AVE_STATUS_RUNNING : Field := ⟨108, 25, 2, 2, .ro, 0⟩
def F_AVE_STATUS_CFG_FROZEN : Field := ⟨109, 25, 1, 1, .ro, 0⟩
def F_AVE_STATUS_COMMIT_PENDING : Field := ⟨110, 25, 0, 0, .ro, 0⟩

/-- AVE_COMMIT: Configuration commit (R214). -/
def R_AVE_COMMIT : Reg := ⟨26, 0x4, 1, 0x10, 8, 1, .mod, .trigger, 0⟩
def F_AVE_COMMIT_RESULT : Field := ⟨111, 26, 31, 24, .ro, 0⟩
def F_AVE_COMMIT_SEQ : Field := ⟨112, 26, 23, 16, .ro, 0⟩
def F_AVE_COMMIT_CMD : Field := ⟨113, 26, 1, 0, .wo, 0⟩

/-- AVE_GATE_EN: Gates feeding the matrix (shadow) (R214). -/
def R_AVE_GATE_EN : Reg := ⟨27, 0x4, 1, 0x18, 8, 1, .mod, .trigger, 0⟩
def F_AVE_GATE_EN_GATES : Field := ⟨114, 27, 63, 0, .rw, 0⟩

/-- AVE_CASCADE: Cascade configuration (shadow) (R214). -/
def R_AVE_CASCADE : Reg := ⟨28, 0x4, 1, 0x20, 8, 1, .mod, .trigger, 0⟩
def F_AVE_CASCADE_TB : Field := ⟨115, 28, 11, 8, .rw, 0⟩
def F_AVE_CASCADE_MODE : Field := ⟨116, 28, 5, 4, .rw, 0⟩
def F_AVE_CASCADE_POS : Field := ⟨117, 28, 2, 0, .rw, 0⟩

/-- AVE_VOTE: Vote control and status (R214). -/
def R_AVE_VOTE : Reg := ⟨29, 0x4, 1, 0x28, 8, 1, .mod, .trigger, 0⟩
def F_AVE_VOTE_PIN_DISAGREE : Field := ⟨118, 29, 63, 48, .rc, 0⟩
def F_AVE_VOTE_ACC_DISAGREE : Field := ⟨119, 29, 47, 32, .rc, 0⟩
def F_AVE_VOTE_SCRUB_FIX : Field := ⟨120, 29, 31, 16, .rc, 0⟩
def F_AVE_VOTE_LAST_ODD : Field := ⟨121, 29, 9, 8, .ro, 0⟩
def F_AVE_VOTE_COPY_OFF : Field := ⟨122, 29, 2, 0, .rw, 0⟩

/-- AVE_VOTE_TIME: Time of last disagreement (R214). -/
def R_AVE_VOTE_TIME : Reg := ⟨30, 0x4, 1, 0x30, 8, 1, .mod, .trigger, 0⟩
def F_AVE_VOTE_TIME_TIME : Field := ⟨123, 30, 63, 0, .ro, 0⟩

/-- AVE_ACC_COUNT: Acceptance counts (R214). -/
def R_AVE_ACC_COUNT : Reg := ⟨31, 0x4, 1, 0x38, 8, 1, .mod, .trigger, 0⟩
def F_AVE_ACC_COUNT_LATE : Field := ⟨124, 31, 63, 48, .rc, 0⟩
def F_AVE_ACC_COUNT_VETOED : Field := ⟨125, 31, 47, 32, .rc, 0⟩
def F_AVE_ACC_COUNT_VETO_LATE : Field := ⟨126, 31, 31, 16, .rc, 0⟩
def F_AVE_ACC_COUNT_EXT : Field := ⟨127, 31, 15, 0, .rc, 0⟩

/-- AVE_TB_TERMS: Terms of trigger bit n (shadow) (R214). -/
def R_AVE_TB_TERMS : Reg := ⟨32, 0x4, 1, 0x100, 8, 16, .mod, .trigger, 0⟩
def F_AVE_TB_TERMS_TERMS : Field := ⟨128, 32, 63, 0, .rw, 0⟩

/-- AVE_TB_CTRL: Trigger bit n control (shadow) (R214). -/
def R_AVE_TB_CTRL : Reg := ⟨33, 0x4, 1, 0x180, 8, 16, .mod, .trigger, 0⟩
def F_AVE_TB_CTRL_PRESCALE : Field := ⟨129, 33, 47, 32, .rw, 0⟩
def F_AVE_TB_CTRL_ACCEPT_EN : Field := ⟨130, 33, 0, 0, .rw, 0⟩

/-- AVE_TB_STAT: Trigger bit n counts (R214). -/
def R_AVE_TB_STAT : Reg := ⟨34, 0x4, 1, 0x200, 8, 16, .mod, .trigger, 0⟩
def F_AVE_TB_STAT_FIRES : Field := ⟨131, 34, 63, 32, .rc, 0⟩
def F_AVE_TB_STAT_ACCEPTS : Field := ⟨132, 34, 31, 0, .rc, 0⟩

/-- AVE_INPUT: Matrix input i (shadow) (R214). -/
def R_AVE_INPUT : Reg := ⟨35, 0x4, 1, 0x400, 8, 256, .mod, .trigger, 0⟩
def F_AVE_INPUT_STRETCH : Field := ⟨133, 35, 5, 0, .rw, 0⟩

/-- AVE_TERM_CTRL: Term t control (shadow) (R214). -/
def R_AVE_TERM_CTRL : Reg := ⟨36, 0x4, 1, 0xc00, 8, 64, .mod, .trigger, 0⟩
def F_AVE_TERM_CTRL_ANCHOR : Field := ⟨134, 36, 31, 24, .rw, 0⟩
def F_AVE_TERM_CTRL_THRESH : Field := ⟨135, 36, 16, 8, .rw, 0⟩
def F_AVE_TERM_CTRL_EN : Field := ⟨136, 36, 0, 0, .rw, 0⟩

/-- AVE_TERM_TRUE: Term t input sets (shadow) (R214). -/
def R_AVE_TERM_TRUE : Reg := ⟨37, 0x4, 1, 0x1000, 8, 256, .mod, .trigger, 1⟩
def F_AVE_TERM_TRUE_INPUTS : Field := ⟨137, 37, 63, 0, .rw, 0⟩

/-- AVE_TERM_NEG: Term t input sets (shadow) (R214). -/
def R_AVE_TERM_NEG : Reg := ⟨38, 0x4, 1, 0x1020, 8, 256, .mod, .trigger, 1⟩
def F_AVE_TERM_NEG_INPUTS : Field := ⟨138, 38, 63, 0, .rw, 0⟩

/-- AVE_MT_KEY: Staging key and mask (R214). -/
def R_AVE_MT_KEY : Reg := ⟨39, 0x80, 64, 0x400, 8, 1, .gate, .gate, 0⟩
def F_AVE_MT_KEY_VALUE : Field := ⟨139, 39, 35, 0, .rw, 0⟩

/-- AVE_MT_MASK: Staging key and mask (R214). -/
def R_AVE_MT_MASK : Reg := ⟨40, 0x80, 64, 0x408, 8, 1, .gate, .gate, 0⟩
def F_AVE_MT_MASK_VALUE : Field := ⟨140, 40, 35, 0, .rw, 0⟩

/-- AVE_MT_ENTRY: Staging entry fields (R214). -/
def R_AVE_MT_ENTRY : Reg := ⟨41, 0x80, 64, 0x410, 8, 1, .gate, .gate, 0⟩
def F_AVE_MT_ENTRY_VALID : Field := ⟨141, 41, 24, 24, .rw, 0⟩
def F_AVE_MT_ENTRY_PRIMITIVE : Field := ⟨142, 41, 23, 16, .rw, 0⟩
def F_AVE_MT_ENTRY_PRIORITY : Field := ⟨143, 41, 9, 0, .rw, 0⟩

/-- AVE_MT_CMD: Match-table command (R214). -/
def R_AVE_MT_CMD : Reg := ⟨42, 0x80, 64, 0x418, 8, 1, .gate, .gate, 0⟩
def F_AVE_MT_CMD_RESULT : Field := ⟨144, 42, 63, 56, .ro, 0⟩
def F_AVE_MT_CMD_SEQ : Field := ⟨145, 42, 55, 48, .ro, 0⟩
def F_AVE_MT_CMD_COPY : Field := ⟨146, 42, 41, 40, .wo, 0⟩
def F_AVE_MT_CMD_ADDR : Field := ⟨147, 42, 25, 16, .wo, 0⟩
def F_AVE_MT_CMD_CMD : Field := ⟨148, 42, 3, 0, .wo, 0⟩

/-- AVE_MT_STATUS: Match-table status (R214). -/
def R_AVE_MT_STATUS : Reg := ⟨43, 0x80, 64, 0x420, 8, 1, .gate, .gate, 0⟩
def F_AVE_MT_STATUS_SCRUB_FIX : Field := ⟨149, 43, 63, 48, .rc, 0⟩
def F_AVE_MT_STATUS_SHIFT_AT : Field := ⟨150, 43, 41, 32, .ro, 0⟩
def F_AVE_MT_STATUS_VALID_COUNT : Field := ⟨151, 43, 26, 16, .ro, 0⟩
def F_AVE_MT_STATUS_SHIFTING : Field := ⟨152, 43, 0, 0, .ro, 0⟩

/-- RBT_CONFIG: Roundabout configuration (R250). -/
def R_RBT_CONFIG : Reg := ⟨44, 0x5, 1, 0x0, 8, 1, .mod, .anySecure, 0⟩
def F_RBT_CONFIG_TICK : Field := ⟨153, 44, 11, 0, .rwl, 9⟩

/-- RBT_STATUS: Roundabout status (R250). -/
def R_RBT_STATUS : Reg := ⟨45, 0x5, 1, 0x8, 8, 1, .mod, .anySecure, 0⟩
def F_RBT_STATUS_HELD : Field := ⟨154, 45, 48, 48, .ro, 1⟩
def F_RBT_STATUS_OPEN_USED : Field := ⟨155, 45, 43, 32, .ro, 0⟩
def F_RBT_STATUS_ONCHIP_USED : Field := ⟨156, 45, 16, 0, .ro, 0⟩

/-- RBT_PART_EVCFG: Event configuration (R250). -/
def R_RBT_PART_EVCFG : Reg := ⟨46, 0x5, 1, 0x100, 64, 8, .part, .part, 0⟩
def F_RBT_PART_EVCFG_SLOT_LINES : Field := ⟨157, 46, 63, 60, .rwl, 2⟩
def F_RBT_PART_EVCFG_TMO_TICKS : Field := ⟨158, 46, 59, 44, .rwl, 50⟩
def F_RBT_PART_EVCFG_EVFLOW_LOG2 : Field := ⟨159, 46, 43, 40, .rwl, 0⟩
def F_RBT_PART_EVCFG_EVFLOW_MODE : Field := ⟨160, 46, 39, 38, .rwl, 0⟩
def F_RBT_PART_EVCFG_EVORDER : Field := ⟨161, 46, 37, 37, .rwl, 0⟩
def F_RBT_PART_EVCFG_EVFLOW_BASE : Field := ⟨162, 46, 11, 0, .rwl, 0⟩

/-- RBT_PART_EXPECT: Expected gates (R250). -/
def R_RBT_PART_EXPECT : Reg := ⟨47, 0x5, 1, 0x108, 64, 8, .part, .part, 0⟩
def F_RBT_PART_EXPECT_GATES : Field := ⟨163, 47, 63, 0, .rw, 0⟩

/-- RBT_PART_EVD: Event directory (R250). -/
def R_RBT_PART_EVD : Reg := ⟨48, 0x5, 1, 0x110, 64, 8, .part, .part, 0⟩
def F_RBT_PART_EVD_SLOTS_LOG2 : Field := ⟨164, 48, 63, 59, .rwl, 8⟩
def F_RBT_PART_EVD_BASE_4K : Field := ⟨165, 48, 39, 0, .rwl, 0⟩

/-- RBT_PART_OVF: Overflow area (R250). -/
def R_RBT_PART_OVF : Reg := ⟨49, 0x5, 1, 0x118, 64, 8, .part, .part, 0⟩
def F_RBT_PART_OVF_BLOCKS : Field := ⟨166, 49, 58, 40, .rwl, 0⟩
def F_RBT_PART_OVF_BASE_4K : Field := ⟨167, 49, 39, 0, .rwl, 0⟩

/-- RBT_PART_LIMITS: Delivery limits (R250). -/
def R_RBT_PART_LIMITS : Reg := ⟨50, 0x5, 1, 0x120, 64, 8, .part, .part, 0⟩
def F_RBT_PART_LIMITS_GRP_PRI : Field := ⟨168, 50, 63, 32, .rwl, 0⟩
def F_RBT_PART_LIMITS_ONCHIP : Field := ⟨169, 50, 10, 0, .rwl, 128⟩

/-- RBT_PART_USE: Partition use (R250). -/
def R_RBT_PART_USE : Reg := ⟨51, 0x5, 1, 0x128, 64, 8, .part, .part, 0⟩
def F_RBT_PART_USE_OVF_USED : Field := ⟨170, 51, 63, 39, .ro, 0⟩
def F_RBT_PART_USE_OVF_OVER : Field := ⟨171, 51, 35, 35, .ro, 0⟩
def F_RBT_PART_USE_OPEN_OVER : Field := ⟨172, 51, 34, 34, .ro, 0⟩
def F_RBT_PART_USE_STALLED : Field := ⟨173, 51, 33, 33, .ro, 0⟩
def F_RBT_PART_USE_OPEN : Field := ⟨174, 51, 31, 20, .ro, 0⟩
def F_RBT_PART_USE_ONCHIP_USED : Field := ⟨175, 51, 16, 0, .ro, 0⟩

/-- RBT_PART_DROPS: Assembly counts (R250). -/
def R_RBT_PART_DROPS : Reg := ⟨52, 0x5, 1, 0x130, 64, 8, .part, .part, 0⟩
def F_RBT_PART_DROPS_DROP_QUOTA : Field := ⟨176, 52, 59, 48, .rc, 0⟩
def F_RBT_PART_DROPS_DROP_FULL : Field := ⟨177, 52, 47, 36, .rc, 0⟩
def F_RBT_PART_DROPS_DROP_EVD : Field := ⟨178, 52, 35, 24, .rc, 0⟩
def F_RBT_PART_DROPS_LATE_FRAG : Field := ⟨179, 52, 23, 12, .rc, 0⟩
def F_RBT_PART_DROPS_EMPTY : Field := ⟨180, 52, 11, 0, .rc, 0⟩

/-- RBT_PART_CMD: Partition command (R250). -/
def R_RBT_PART_CMD : Reg := ⟨53, 0x5, 1, 0x138, 64, 8, .part, .part, 0⟩
def F_RBT_PART_CMD_RESULT : Field := ⟨181, 53, 63, 56, .ro, 0⟩
def F_RBT_PART_CMD_SEQ : Field := ⟨182, 53, 55, 48, .ro, 0⟩
def F_RBT_PART_CMD_CMD : Field := ⟨183, 53, 3, 0, .wo, 0⟩

/-- RBT_PART_WAIT: Waiting-time histogram (R250). -/
def R_RBT_PART_WAIT : Reg := ⟨54, 0x5, 1, 0x400, 8, 64, .part, .partWait, 0⟩
def F_RBT_PART_WAIT_BIN_ODD : Field := ⟨184, 54, 63, 32, .rc, 0⟩
def F_RBT_PART_WAIT_BIN_EVEN : Field := ⟨185, 54, 31, 0, .rc, 0⟩

/-- RBT_CORE_SUB: Core subscription (R250). -/
def R_RBT_CORE_SUB : Reg := ⟨55, 0x5, 1, 0x1000, 8, 160, .sq, .coreEither, 0⟩
def F_RBT_CORE_SUB_GROUPS : Field := ⟨186, 55, 15, 0, .rw, 0⟩

/-- RBT_CORE_LOAD: Core load (R250). -/
def R_RBT_CORE_LOAD : Reg := ⟨56, 0x5, 1, 0x1800, 8, 160, .sq, .anySecure, 0⟩
def F_RBT_CORE_LOAD_DELIVERED : Field := ⟨187, 56, 63, 32, .rc, 0⟩
def F_RBT_CORE_LOAD_IN_PROC : Field := ⟨188, 56, 15, 8, .ro, 0⟩
def F_RBT_CORE_LOAD_REDELIVERED : Field := ⟨189, 56, 7, 0, .rc, 0⟩

/-- RBT_FLOW_CFG: Flow configuration (R250). -/
def R_RBT_FLOW_CFG : Reg := ⟨57, 0x10, 4, 0x0, 32, 1024, .part, .flow, 0⟩
def F_RBT_FLOW_CFG_PART : Field := ⟨190, 57, 63, 61, .ro, 0⟩
def F_RBT_FLOW_CFG_OWNED : Field := ⟨191, 57, 60, 60, .ro, 0⟩
def F_RBT_FLOW_CFG_AFF_HOLD : Field := ⟨192, 57, 31, 24, .rw, 0⟩
def F_RBT_FLOW_CFG_PARALLEL : Field := ⟨193, 57, 23, 16, .rw, 1⟩
def F_RBT_FLOW_CFG_GROUP : Field := ⟨194, 57, 11, 8, .rw, 0⟩
def F_RBT_FLOW_CFG_WORLD : Field := ⟨195, 57, 2, 2, .rwl, 0⟩
def F_RBT_FLOW_CFG_PAUSE : Field := ⟨196, 57, 1, 1, .rw, 0⟩
def F_RBT_FLOW_CFG_EN : Field := ⟨197, 57, 0, 0, .rw, 0⟩

/-- RBT_FLOW_ACT: Release action (R250). -/
def R_RBT_FLOW_ACT : Reg := ⟨58, 0x10, 4, 0x8, 32, 1024, .part, .flow, 0⟩
def F_RBT_FLOW_ACT_DONE_FLOW : Field := ⟨198, 58, 63, 52, .rw, 0⟩
def F_RBT_FLOW_ACT_DONE_EN : Field := ⟨199, 58, 51, 51, .rw, 0⟩
def F_RBT_FLOW_ACT_TARGET : Field := ⟨200, 58, 27, 16, .rw, 0⟩
def F_RBT_FLOW_ACT_FREE_AT : Field := ⟨201, 58, 5, 4, .rw, 0⟩
def F_RBT_FLOW_ACT_ACTION : Field := ⟨202, 58, 2, 0, .rw, 0⟩

/-- RBT_FLOW_ARG: Release-action argument (R250). -/
def R_RBT_FLOW_ARG : Reg := ⟨59, 0x10, 4, 0x10, 32, 1024, .part, .flow, 0⟩
def F_RBT_FLOW_ARG_ARG : Field := ⟨203, 59, 63, 0, .rw, 0⟩

/-- RBT_FLOW_STATUS: Flow status (R250). -/
def R_RBT_FLOW_STATUS : Reg := ⟨60, 0x10, 4, 0x18, 32, 1024, .part, .flow, 0⟩
def F_RBT_FLOW_STATUS_IN_PROC : Field := ⟨204, 60, 63, 56, .ro, 0⟩
def F_RBT_FLOW_STATUS_OVF_DEPTH : Field := ⟨205, 60, 55, 31, .ro, 0⟩
def F_RBT_FLOW_STATUS_STALLED : Field := ⟨206, 60, 30, 30, .ro, 0⟩
def F_RBT_FLOW_STATUS_LAST_AGENT : Field := ⟨207, 60, 29, 20, .ro, 1023⟩
def F_RBT_FLOW_STATUS_ONCHIP_DEPTH : Field := ⟨208, 60, 16, 0, .ro, 0⟩

/-- RBT_PORT_ARG0: Port item (R250). -/
def R_RBT_PORT_ARG0 : Reg := ⟨61, 0x18, 8, 0x0, 1024, 64, .part, .port, 0⟩
def F_RBT_PORT_ARG0_VALUE : Field := ⟨209, 61, 63, 0, .rw, 0⟩

/-- RBT_PORT_ARG1: Port item (R250). -/
def R_RBT_PORT_ARG1 : Reg := ⟨62, 0x18, 8, 0x8, 1024, 64, .part, .port, 0⟩
def F_RBT_PORT_ARG1_VALUE : Field := ⟨210, 62, 63, 0, .rw, 0⟩

/-- RBT_PORT_ARG2: Port item (R250). -/
def R_RBT_PORT_ARG2 : Reg := ⟨63, 0x18, 8, 0x10, 1024, 64, .part, .port, 0⟩
def F_RBT_PORT_ARG2_VALUE : Field := ⟨211, 63, 63, 0, .rw, 0⟩

/-- RBT_PORT_CTRLW: Port item (R250). -/
def R_RBT_PORT_CTRLW : Reg := ⟨64, 0x18, 8, 0x18, 1024, 64, .part, .port, 0⟩
def F_RBT_PORT_CTRLW_VALUE : Field := ⟨212, 64, 63, 0, .rw, 0⟩

/-- RBT_PORT_OPND: Port operand (R250). -/
def R_RBT_PORT_OPND : Reg := ⟨65, 0x18, 8, 0x20, 1024, 64, .part, .port, 0⟩
def F_RBT_PORT_OPND_OPND : Field := ⟨213, 65, 63, 0, .rw, 0⟩

/-- RBT_PORT_CMD: Port command (R250). -/
def R_RBT_PORT_CMD : Reg := ⟨66, 0x18, 8, 0x28, 1024, 64, .part, .port, 0⟩
def F_RBT_PORT_CMD_RESULT : Field := ⟨214, 66, 63, 56, .ro, 0⟩
def F_RBT_PORT_CMD_SEQ : Field := ⟨215, 66, 55, 48, .ro, 0⟩
def F_RBT_PORT_CMD_SKIP : Field := ⟨216, 66, 5, 5, .wo, 0⟩
def F_RBT_PORT_CMD_KEEP : Field := ⟨217, 66, 4, 4, .wo, 0⟩
def F_RBT_PORT_CMD_CMD : Field := ⟨218, 66, 3, 0, .wo, 0⟩

/-- RBT_PORT_SUB: Port subscription (R250). -/
def R_RBT_PORT_SUB : Reg := ⟨67, 0x18, 8, 0x30, 1024, 64, .part, .port, 0⟩
def F_RBT_PORT_SUB_GROUPS : Field := ⟨219, 67, 15, 0, .rw, 0⟩

/-- GATE_FRAG_RING: Fragment ring (R250). -/
def R_GATE_FRAG_RING : Reg := ⟨68, 0x80, 64, 0x500, 8, 1, .mod, .gate, 0⟩
def F_GATE_FRAG_RING_SIZE_4K : Field := ⟨220, 68, 57, 40, .rwl, 0⟩
def F_GATE_FRAG_RING_BASE_4K : Field := ⟨221, 68, 39, 0, .rwl, 0⟩

/-- GATE_FRAG_STATUS: Fragment-ring status (R250). -/
def R_GATE_FRAG_STATUS : Reg := ⟨69, 0x80, 64, 0x508, 8, 1, .part, .gate, 0⟩
def F_GATE_FRAG_STATUS_FRAG_STALLS : Field := ⟨222, 69, 63, 48, .rc, 0⟩
def F_GATE_FRAG_STATUS_HEAD : Field := ⟨223, 69, 47, 24, .ro, 0⟩
def F_GATE_FRAG_STATUS_TAIL : Field := ⟨224, 69, 23, 0, .ro, 0⟩

/-- GATE_FRAG_ERR: Fragment-ring errors (R250). -/
def R_GATE_FRAG_ERR : Reg := ⟨70, 0x80, 64, 0x510, 8, 1, .part, .gate, 0⟩
def F_GATE_FRAG_ERR_REFUSED : Field := ⟨225, 70, 31, 16, .rc, 0⟩
def F_GATE_FRAG_ERR_OVERSIZE : Field := ⟨226, 70, 15, 0, .rc, 0⟩

/-- QMC_CONFIG: Quarter configuration (R281). -/
def R_QMC_CONFIG : Reg := ⟨71, 0x20, 24, 0x0, 8, 1, .mod, .quarter, 0⟩
def F_QMC_CONFIG_RS_PACE : Field := ⟨227, 71, 63, 56, .rw, 64⟩
def F_QMC_CONFIG_RS_AUTO : Field := ⟨228, 71, 55, 55, .rwl, 1⟩
def F_QMC_CONFIG_OFFER_EN : Field := ⟨229, 71, 54, 54, .rw, 1⟩
def F_QMC_CONFIG_MARK_WINDOW : Field := ⟨230, 71, 47, 40, .rwl, 1⟩
def F_QMC_CONFIG_MARK_THRESH : Field := ⟨231, 71, 39, 24, .rwl, 256⟩
def F_QMC_CONFIG_SCRUB_HOURS : Field := ⟨232, 71, 23, 16, .rwl, 24⟩

/-- QMC_STATUS: Quarter status (R281). -/
def R_QMC_STATUS : Reg := ⟨72, 0x20, 24, 0x8, 8, 1, .mod, .quarter, 0⟩
def F_QMC_STATUS_STATE : Field := ⟨233, 72, 63, 61, .ro, 0⟩
def F_QMC_STATUS_MARK1 : Field := ⟨234, 72, 55, 52, .ro, 15⟩
def F_QMC_STATUS_MARK2 : Field := ⟨235, 72, 51, 48, .ro, 15⟩
def F_QMC_STATUS_RETRAIN_CH : Field := ⟨236, 72, 47, 44, .ro, 15⟩
def F_QMC_STATUS_CATCHUP : Field := ⟨237, 72, 43, 43, .ro, 0⟩
def F_QMC_STATUS_RETRAINING : Field := ⟨238, 72, 42, 42, .ro, 0⟩
def F_QMC_STATUS_RS_PAUSED : Field := ⟨239, 72, 41, 41, .ro, 0⟩
def F_QMC_STATUS_SCRUB_PASSES : Field := ⟨240, 72, 31, 0, .ro, 0⟩

/-- QMC_CTRL: Quarter command (R281). -/
def R_QMC_CTRL : Reg := ⟨73, 0x20, 24, 0x10, 8, 1, .mod, .quarter, 0⟩
def F_QMC_CTRL_RESULT : Field := ⟨241, 73, 63, 56, .ro, 0⟩
def F_QMC_CTRL_SEQ : Field := ⟨242, 73, 55, 48, .ro, 0⟩
def F_QMC_CTRL_CH : Field := ⟨243, 73, 11, 8, .wo, 0⟩
def F_QMC_CTRL_CMD : Field := ⟨244, 73, 3, 0, .wo, 0⟩

/-- QMC_RESILVER: Re-silver progress (R281). -/
def R_QMC_RESILVER : Reg := ⟨74, 0x20, 24, 0x18, 8, 1, .aon, .quarter, 0⟩
def F_QMC_RESILVER_CHECKPOINT : Field := ⟨245, 74, 59, 32, .ro, 0⟩
def F_QMC_RESILVER_PROGRESS : Field := ⟨246, 74, 27, 0, .ro, 0⟩

/-- QMC_UE: Uncorrectable reads (R281). -/
def R_QMC_UE : Reg := ⟨75, 0x20, 24, 0x20, 8, 1, .mod, .quarter, 0⟩
def F_QMC_UE_UE_COUNT : Field := ⟨247, 75, 63, 52, .rc, 0⟩
def F_QMC_UE_POISON_READS : Field := ⟨248, 75, 51, 40, .rc, 0⟩
def F_QMC_UE_LINE : Field := ⟨249, 75, 34, 6, .ro, 0⟩

/-- QMC_VIOL: Region violations (R281). -/
def R_QMC_VIOL : Reg := ⟨76, 0x20, 24, 0x28, 8, 1, .mod, .quarter, 0⟩
def F_QMC_VIOL_COUNT : Field := ⟨250, 76, 63, 48, .rc, 0⟩
def F_QMC_VIOL_WRITE : Field := ⟨251, 76, 47, 47, .ro, 0⟩
def F_QMC_VIOL_SECURE : Field := ⟨252, 76, 46, 46, .ro, 0⟩
def F_QMC_VIOL_PART : Field := ⟨253, 76, 45, 43, .ro, 0⟩
def F_QMC_VIOL_QADDR : Field := ⟨254, 76, 34, 0, .ro, 0⟩

/-- QMC_CHERR: Channel error counts (R281). -/
def R_QMC_CHERR : Reg := ⟨77, 0x20, 24, 0x100, 8, 10, .mod, .quarter, 0⟩
def F_QMC_CHERR_CE_TOTAL : Field := ⟨255, 77, 63, 32, .rc, 0⟩
def F_QMC_CHERR_CE_WINDOW : Field := ⟨256, 77, 31, 16, .ro, 0⟩
def F_QMC_CHERR_TRAIN_FAILS : Field := ⟨257, 77, 15, 0, .rc, 0⟩

/-- QMC_RGN: Region i (R281). -/
def R_QMC_RGN : Reg := ⟨78, 0x20, 24, 0x200, 8, 8, .part, .quarter, 0⟩
def F_QMC_RGN_EN : Field := ⟨258, 78, 63, 63, .rwl, 0⟩
def F_QMC_RGN_SECURE : Field := ⟨259, 78, 62, 62, .rwl, 0⟩
def F_QMC_RGN_PART : Field := ⟨260, 78, 58, 56, .rwl, 0⟩
def F_QMC_RGN_LIMIT : Field := ⟨261, 78, 45, 32, .rwl, 0⟩
def F_QMC_RGN_BASE : Field := ⟨262, 78, 13, 0, .rwl, 0⟩

/-- MEM_PART: Partition memory layout (R281). -/
def R_MEM_PART : Reg := ⟨79, 0x6, 1, 0x0, 8, 8, .mod, .nobody, 0⟩
def F_MEM_PART_INTERLEAVE : Field := ⟨263, 79, 63, 62, .ro, 0⟩
def F_MEM_PART_MEMBERS : Field := ⟨264, 79, 61, 56, .ro, 0⟩
def F_MEM_PART_SIZE_256M : Field := ⟨265, 79, 23, 12, .ro, 0⟩
def F_MEM_PART_BASE_256M : Field := ⟨266, 79, 11, 0, .ro, 0⟩

/-- MEM_MEMBER: Partition member (R281). -/
def R_MEM_MEMBER : Reg := ⟨80, 0x6, 1, 0x100, 8, 256, .mod, .nobody, 0⟩
def F_MEM_MEMBER_QUARTER : Field := ⟨267, 80, 52, 48, .ro, 0⟩
def F_MEM_MEMBER_SIZE_256M : Field := ⟨268, 80, 23, 16, .ro, 0⟩
def F_MEM_MEMBER_BASE_256M : Field := ⟨269, 80, 7, 0, .ro, 0⟩

/-- ENG_STATUS: Engine status (R321). -/
def R_ENG_STATUS : Reg := ⟨81, 0x40, 24, 0x0, 8, 1, .eng, .nobody, 0⟩
def F_ENG_STATUS_RECORD_LOST : Field := ⟨270, 81, 63, 48, .rc, 0⟩
def F_ENG_STATUS_SRAM_FREE : Field := ⟨271, 81, 34, 24, .ro, 1856⟩
def F_ENG_STATUS_JOBS : Field := ⟨272, 81, 23, 20, .ro, 0⟩
def F_ENG_STATUS_STAGES : Field := ⟨273, 81, 19, 15, .ro, 0⟩
def F_ENG_STATUS_DEFLATE_BUSY : Field := ⟨274, 81, 3, 3, .ro, 0⟩
def F_ENG_STATUS_RESETTING : Field := ⟨275, 81, 2, 2, .ro, 0⟩
def F_ENG_STATUS_LOADING : Field := ⟨276, 81, 1, 1, .ro, 0⟩
def F_ENG_STATUS_HELD : Field := ⟨277, 81, 0, 0, .ro, 0⟩

/-- ENG_INFO: Engine information (R321). -/
def R_ENG_INFO : Reg := ⟨82, 0x40, 24, 0x8, 8, 1, .mod, .nobody, 0⟩
def F_ENG_INFO_MICROCODE : Field := ⟨278, 82, 63, 32, .ro, 0⟩

/-- ENG_RESET: Engine reset command (R321). -/
def R_ENG_RESET : Reg := ⟨83, 0x40, 24, 0x10, 8, 1, .mod, .trusted, 0⟩
def F_ENG_RESET_RESULT : Field := ⟨279, 83, 63, 56, .ro, 0⟩
def F_ENG_RESET_SEQ : Field := ⟨280, 83, 55, 48, .ro, 0⟩
def F_ENG_RESET_CMD : Field := ⟨281, 83, 3, 0, .wo, 0⟩

/-- ENG_FAULT: Last fault (R321). -/
def R_ENG_FAULT : Reg := ⟨84, 0x40, 24, 0x18, 8, 1, .eng, .nobody, 0⟩
def F_ENG_FAULT_HANDLE : Field := ⟨282, 84, 63, 32, .ro, 0⟩
def F_ENG_FAULT_CAUSE : Field := ⟨283, 84, 31, 24, .ro, 0⟩
def F_ENG_FAULT_OP : Field := ⟨284, 84, 23, 16, .ro, 0⟩
def F_ENG_FAULT_FAULTS : Field := ⟨285, 84, 15, 0, .rc, 0⟩

/-- ENG_QP_CFG: Queue-pair configuration (R321). -/
def R_ENG_QP_CFG : Reg := ⟨85, 0x40, 24, 0x1000, 64, 64, .part, .qpSecure, 0⟩
def F_ENG_QP_CFG_PART : Field := ⟨286, 85, 63, 61, .ro, 0⟩
def F_ENG_QP_CFG_OWNED : Field := ⟨287, 85, 60, 60, .ro, 0⟩
def F_ENG_QP_CFG_NEXT_SEQ : Field := ⟨288, 85, 52, 32, .ro, 0⟩
def F_ENG_QP_CFG_PRIORITY : Field := ⟨289, 85, 7, 6, .rw, 0⟩
def F_ENG_QP_CFG_IRQ_EN : Field := ⟨290, 85, 2, 2, .rw, 0⟩
def F_ENG_QP_CFG_WORLD : Field := ⟨291, 85, 1, 1, .rwl, 0⟩
def F_ENG_QP_CFG_EN : Field := ⟨292, 85, 0, 0, .rw, 0⟩

/-- ENG_QP_CQ: Completion ring (R321). -/
def R_ENG_QP_CQ : Reg := ⟨86, 0x40, 24, 0x1008, 64, 64, .part, .qpSecure, 0⟩
def F_ENG_QP_CQ_CQ_LOG2 : Field := ⟨293, 86, 60, 56, .rw, 5⟩
def F_ENG_QP_CQ_BASE_4K : Field := ⟨294, 86, 39, 0, .rw, 0⟩

/-- ENG_QP_SUBMIT: Submission (R321). -/
def R_ENG_QP_SUBMIT : Reg := ⟨87, 0x40, 24, 0x1010, 64, 64, .eng, .qp, 0⟩
def F_ENG_QP_SUBMIT_ADDR : Field := ⟨295, 87, 51, 6, .wo, 0⟩

/-- ENG_QP_TICKET: Submission result (R321). -/
def R_ENG_QP_TICKET : Reg := ⟨88, 0x40, 24, 0x1018, 64, 64, .eng, .qp, 0⟩
def F_ENG_QP_TICKET_RESULT : Field := ⟨296, 88, 63, 56, .ro, 0⟩
def F_ENG_QP_TICKET_HANDLE : Field := ⟨297, 88, 31, 0, .ro, 0⟩

/-- ENG_QP_ABORT: Abort (R321). -/
def R_ENG_QP_ABORT : Reg := ⟨89, 0x40, 24, 0x1020, 64, 64, .eng, .qp, 0⟩
def F_ENG_QP_ABORT_RESULT : Field := ⟨298, 89, 63, 56, .ro, 0⟩
def F_ENG_QP_ABORT_SEQ : Field := ⟨299, 89, 55, 48, .ro, 0⟩
def F_ENG_QP_ABORT_HANDLE : Field := ⟨300, 89, 31, 0, .wo, 0⟩

/-- ENG_QP_STATUS: Queue-pair status (R321). -/
def R_ENG_QP_STATUS : Reg := ⟨90, 0x40, 24, 0x1028, 64, 64, .eng, .qp, 0⟩
def F_ENG_QP_STATUS_OUTSTANDING : Field := ⟨301, 90, 63, 58, .ro, 0⟩
def F_ENG_QP_STATUS_RUNNING : Field := ⟨302, 90, 57, 54, .ro, 0⟩
def F_ENG_QP_STATUS_OLDEST_SEQ : Field := ⟨303, 90, 20, 0, .ro, 0⟩

/-- CORE_STATUS: Core status (R385). -/
def R_CORE_STATUS : Reg := ⟨91, 0x100, 160, 0x0, 8, 1, .sq, .coreSecure, 0⟩
def F_CORE_STATUS_V : Field := ⟨304, 91, 7, 7, .ro, 0⟩
def F_CORE_STATUS_PRIV : Field := ⟨305, 91, 6, 5, .ro, 3⟩
def F_CORE_STATUS_WORLD : Field := ⟨306, 91, 4, 4, .ro, 0⟩
def F_CORE_STATUS_STATE : Field := ⟨307, 91, 2, 0, .ro, 0⟩

/-- CORE_START_ADDR: Start address (R385). -/
def R_CORE_START_ADDR : Reg := ⟨92, 0x100, 160, 0x8, 8, 1, .sq, .coreSecure, 0⟩
def F_CORE_START_ADDR_ADDR : Field := ⟨308, 92, 51, 2, .rw, 0⟩

/-- CORE_CMD: Core command (R385). -/
def R_CORE_CMD : Reg := ⟨93, 0x100, 160, 0x10, 8, 1, .sq, .coreSecure, 0⟩
def F_CORE_CMD_RESULT : Field := ⟨309, 93, 63, 56, .ro, 0⟩
def F_CORE_CMD_SEQ : Field := ⟨310, 93, 55, 48, .ro, 0⟩
def F_CORE_CMD_WORLD : Field := ⟨311, 93, 4, 4, .wo, 0⟩
def F_CORE_CMD_CMD : Field := ⟨312, 93, 3, 0, .wo, 0⟩

/-- CORE_MTIMECMP: Machine timer compare (R385). -/
def R_CORE_MTIMECMP : Reg := ⟨94, 0x100, 160, 0x18, 8, 1, .sq, .coreSecure, 0⟩
def F_CORE_MTIMECMP_VALUE : Field := ⟨313, 94, 63, 0, .rw, 18446744073709551615⟩

/-- CM_ADDR: Maintenance address (R423). -/
def R_CM_ADDR : Reg := ⟨95, 0x200, 160, 0x0, 8, 1, .sq, .coreCM, 0⟩
def F_CM_ADDR_ADDR : Field := ⟨314, 95, 51, 6, .rw, 0⟩

/-- CM_LEN: Maintenance length (R423). -/
def R_CM_LEN : Reg := ⟨96, 0x200, 160, 0x8, 8, 1, .sq, .coreCM, 0⟩
def F_CM_LEN_LINES : Field := ⟨315, 96, 39, 0, .rw, 0⟩

/-- CM_CMD: Maintenance command (R423). -/
def R_CM_CMD : Reg := ⟨97, 0x200, 160, 0x10, 8, 1, .sq, .coreCM, 0⟩
def F_CM_CMD_RESULT : Field := ⟨316, 97, 63, 56, .ro, 0⟩
def F_CM_CMD_SEQ : Field := ⟨317, 97, 55, 48, .ro, 0⟩
def F_CM_CMD_TARGET : Field := ⟨318, 97, 9, 8, .wo, 0⟩
def F_CM_CMD_CMD : Field := ⟨319, 97, 3, 0, .wo, 0⟩

/-- CM_STATUS: Maintenance progress (R423). -/
def R_CM_STATUS : Reg := ⟨98, 0x200, 160, 0x18, 8, 1, .sq, .coreCM, 0⟩
def F_CM_STATUS_SKIPPED : Field := ⟨320, 98, 63, 40, .ro, 0⟩
def F_CM_STATUS_DONE : Field := ⟨321, 98, 39, 0, .ro, 0⟩

/-- CACHE_EN: Private cache enables (R423). -/
def R_CACHE_EN : Reg := ⟨99, 0x200, 160, 0x20, 8, 1, .sq, .coreSecure, 0⟩
def F_CACHE_EN_L2_EN : Field := ⟨322, 99, 3, 2, .rw, 1⟩
def F_CACHE_EN_L1D_EN : Field := ⟨323, 99, 1, 0, .rw, 1⟩

/-- LLC_CFG: Slice configuration (R423). -/
def R_LLC_CFG : Reg := ⟨100, 0x300, 160, 0x0, 8, 1, .part, .slice, 0⟩
def F_LLC_CFG_EN : Field := ⟨324, 100, 63, 62, .rw, 1⟩
def F_LLC_CFG_OFFER_ACCEPT : Field := ⟨325, 100, 61, 61, .rw, 1⟩
def F_LLC_CFG_SP_SECURE : Field := ⟨326, 100, 60, 60, .rwl, 0⟩
def F_LLC_CFG_WAY_THRESH : Field := ⟨327, 100, 55, 48, .rwl, 16⟩
def F_LLC_CFG_WAY_WINDOW : Field := ⟨328, 100, 47, 40, .rwl, 1⟩
def F_LLC_CFG_SP_WAYS : Field := ⟨329, 100, 30, 28, .ro, 0⟩
def F_LLC_CFG_LOCK_WAYS : Field := ⟨330, 100, 26, 24, .ro, 0⟩
def F_LLC_CFG_WAYMODE : Field := ⟨331, 100, 23, 0, .ro, 0⟩

/-- LLC_CMD: Slice command (R423). -/
def R_LLC_CMD : Reg := ⟨101, 0x300, 160, 0x8, 8, 1, .part, .slice, 0⟩
def F_LLC_CMD_RESULT : Field := ⟨332, 101, 63, 56, .ro, 0⟩
def F_LLC_CMD_SEQ : Field := ⟨333, 101, 55, 48, .ro, 0⟩
def F_LLC_CMD_N : Field := ⟨334, 101, 7, 4, .wo, 0⟩
def F_LLC_CMD_CMD : Field := ⟨335, 101, 3, 0, .wo, 0⟩

/-- LLC_STATUS: Slice counts (R423). -/
def R_LLC_STATUS : Reg := ⟨102, 0x300, 160, 0x10, 8, 1, .part, .slice, 0⟩
def F_LLC_STATUS_OFFER_IN : Field := ⟨336, 102, 63, 48, .rc, 0⟩
def F_LLC_STATUS_OFFER_DECL : Field := ⟨337, 102, 47, 32, .rc, 0⟩
def F_LLC_STATUS_CE : Field := ⟨338, 102, 31, 16, .rc, 0⟩
def F_LLC_STATUS_LOCK_LOST : Field := ⟨339, 102, 15, 0, .rc, 0⟩

/-- SF_STATUS: Home status (R423). -/
def R_SF_STATUS : Reg := ⟨103, 0x300, 160, 0x18, 8, 1, .part, .slice, 0⟩
def F_SF_STATUS_BACKINV : Field := ⟨340, 103, 63, 48, .rc, 0⟩
def F_SF_STATUS_RETRIES : Field := ⟨341, 103, 47, 32, .rc, 0⟩
def F_SF_STATUS_COARSE : Field := ⟨342, 103, 31, 16, .rc, 0⟩
def F_SF_STATUS_CREDITS : Field := ⟨343, 103, 5, 0, .ro, 0⟩

/-- STR_CFG: Router configuration (R440). -/
def R_STR_CFG : Reg := ⟨104, 0x800, 160, 0x0, 8, 1, .mod, .str, 0⟩
def F_STR_CFG_ROUTER_SLEEP : Field := ⟨344, 104, 16, 16, .rwl, 0⟩
def F_STR_CFG_IDLE_US : Field := ⟨345, 104, 15, 0, .rw, 0⟩

/-- STR_STATUS: Router status (R440). -/
def R_STR_STATUS : Reg := ⟨105, 0x800, 160, 0x8, 8, 1, .mod, .str, 0⟩
def F_STR_STATUS_WAKES : Field := ⟨346, 105, 63, 48, .rc, 0⟩
def F_STR_STATUS_ABORTS : Field := ⟨347, 105, 47, 32, .rc, 0⟩
def F_STR_STATUS_DETACHED_DROPS : Field := ⟨348, 105, 31, 16, .rc, 0⟩
def F_STR_STATUS_DETACHED : Field := ⟨349, 105, 7, 6, .ro, 0⟩
def F_STR_STATUS_HOLDING : Field := ⟨350, 105, 5, 5, .ro, 0⟩
def F_STR_STATUS_FENCED : Field := ⟨351, 105, 4, 4, .ro, 0⟩
def F_STR_STATUS_PWR : Field := ⟨352, 105, 2, 0, .ro, 0⟩

/-- STR_CMD: Router command (R440). -/
def R_STR_CMD : Reg := ⟨106, 0x800, 160, 0x10, 8, 1, .mod, .str, 0⟩
def F_STR_CMD_RESULT : Field := ⟨353, 106, 63, 56, .ro, 0⟩
def F_STR_CMD_SEQ : Field := ⟨354, 106, 55, 48, .ro, 0⟩
def F_STR_CMD_CMD : Field := ⟨355, 106, 3, 0, .wo, 0⟩

/-- STR_LINK: Link error counts (R440). -/
def R_STR_LINK : Reg := ⟨107, 0x800, 160, 0x100, 8, 4, .mod, .str, 0⟩
def F_STR_LINK_DOWN : Field := ⟨356, 107, 63, 63, .ro, 0⟩
def F_STR_LINK_REPLAYS : Field := ⟨357, 107, 47, 32, .rc, 0⟩
def F_STR_LINK_CE : Field := ⟨358, 107, 31, 0, .rc, 0⟩

/-- STR_PROBE_CTL: Probe control (R440). -/
def R_STR_PROBE_CTL : Reg := ⟨108, 0x800, 160, 0x200, 8, 1, .mod, .trusted, 0⟩
def F_STR_PROBE_CTL_DROPS : Field := ⟨359, 108, 63, 48, .rc, 0⟩
def F_STR_PROBE_CTL_SAMPLE : Field := ⟨360, 108, 27, 24, .rw, 0⟩
def F_STR_PROBE_CTL_EVT : Field := ⟨361, 108, 19, 8, .rw, 0⟩
def F_STR_PROBE_CTL_PORT : Field := ⟨362, 108, 4, 2, .rw, 0⟩
def F_STR_PROBE_CTL_TRACE : Field := ⟨363, 108, 1, 1, .rw, 0⟩
def F_STR_PROBE_CTL_EN : Field := ⟨364, 108, 0, 0, .rw, 0⟩

/-- STR_PROBE_MATCH: Probe match (R440). -/
def R_STR_PROBE_MATCH : Reg := ⟨109, 0x800, 160, 0x208, 8, 1, .mod, .trusted, 0⟩
def F_STR_PROBE_MATCH_VALUE : Field := ⟨365, 109, 55, 0, .rw, 0⟩

/-- STR_PROBE_MASK: Probe match (R440). -/
def R_STR_PROBE_MASK : Reg := ⟨110, 0x800, 160, 0x210, 8, 1, .mod, .trusted, 0⟩
def F_STR_PROBE_MASK_VALUE : Field := ⟨366, 110, 55, 0, .rw, 0⟩

/-- STR_PROBE_CNT: Probe counter n (R440). -/
def R_STR_PROBE_CNT : Reg := ⟨111, 0x800, 160, 0x220, 8, 4, .mod, .trusted, 0⟩
def F_STR_PROBE_CNT_COUNT : Field := ⟨367, 111, 47, 0, .rc, 0⟩

/-- TRACE_RING: Trace ring (R440). -/
def R_TRACE_RING : Reg := ⟨112, 0xc, 1, 0x0, 8, 1, .mod, .trusted, 0⟩
def F_TRACE_RING_TRACE_PART : Field := ⟨368, 112, 63, 61, .rw, 0⟩
def F_TRACE_RING_SIZE_4K : Field := ⟨369, 112, 57, 40, .rw, 0⟩
def F_TRACE_RING_BASE_4K : Field := ⟨370, 112, 39, 0, .rw, 0⟩

/-- TRACE_STATUS: Trace ring status (R440). -/
def R_TRACE_STATUS : Reg := ⟨113, 0xc, 1, 0x8, 8, 1, .mod, .trusted, 0⟩
def F_TRACE_STATUS_RING_DROPS : Field := ⟨371, 113, 63, 48, .rc, 0⟩
def F_TRACE_STATUS_TAIL : Field := ⟨372, 113, 47, 24, .rw, 0⟩
def F_TRACE_STATUS_HEAD : Field := ⟨373, 113, 23, 0, .ro, 0⟩

/-- PART_STATUS: Partition status (R465). -/
def R_PART_STATUS : Reg := ⟨114, 0x7, 1, 0x0, 64, 8, .mod, .nobody, 0⟩
def F_PART_STATUS_SEC_REFUSALS : Field := ⟨374, 114, 63, 48, .rc, 0⟩
def F_PART_STATUS_SECURE_IMAGE : Field := ⟨375, 114, 7, 7, .ro, 0⟩
def F_PART_STATUS_STATE : Field := ⟨376, 114, 2, 0, .ro, 0⟩

/-- PART_QUOTA: Quota of KIND k (R465). -/
def R_PART_QUOTA : Reg := ⟨115, 0x7, 1, 0x8, 8, 40, .part, .trusted, 2⟩
def F_PART_QUOTA_LIMIT : Field := ⟨377, 115, 39, 0, .rw, 0⟩

/-- PART_QUOTA_STATUS: Quota status (R465). -/
def R_PART_QUOTA_STATUS : Reg := ⟨116, 0x7, 1, 0x30, 64, 8, .part, .trusted, 0⟩
def F_PART_QUOTA_STATUS_FRAG_WAITS : Field := ⟨378, 116, 63, 32, .rc, 0⟩
def F_PART_QUOTA_STATUS_OVER : Field := ⟨379, 116, 4, 0, .ro, 0⟩

/-- PART_PWR_REQ: Clock and power request (R465). -/
def R_PART_PWR_REQ : Reg := ⟨117, 0x7, 1, 0x38, 64, 8, .mod, .partEither, 0⟩
def F_PART_PWR_REQ_RESULT : Field := ⟨380, 117, 63, 56, .ro, 0⟩
def F_PART_PWR_REQ_SEQ : Field := ⟨381, 117, 55, 48, .ro, 0⟩
def F_PART_PWR_REQ_UNIT : Field := ⟨382, 117, 23, 16, .wo, 0⟩
def F_PART_PWR_REQ_KIND : Field := ⟨383, 117, 11, 8, .wo, 0⟩
def F_PART_PWR_REQ_ACTION : Field := ⟨384, 117, 3, 0, .wo, 0⟩

/-- OWNW_SQ0: Owner-world bits (R465). -/
def R_OWNW_SQ0 : Reg := ⟨118, 0x7, 1, 0x400, 8, 1, .mod, .ownw, 0⟩
def F_OWNW_SQ0_SQ : Field := ⟨385, 118, 63, 0, .rw, 0⟩

/-- OWNW_SQ1: Owner-world bits (R465). -/
def R_OWNW_SQ1 : Reg := ⟨119, 0x7, 1, 0x408, 8, 1, .mod, .ownw, 0⟩
def F_OWNW_SQ1_SQ : Field := ⟨386, 119, 15, 0, .rw, 0⟩

/-- OWNW_GATE: Owner-world bits (R465). -/
def R_OWNW_GATE : Reg := ⟨120, 0x7, 1, 0x410, 8, 1, .mod, .ownw, 0⟩
def F_OWNW_GATE_GATE : Field := ⟨387, 120, 63, 0, .rw, 0⟩

/-- OWNW_ENG: Owner-world bits (R465). -/
def R_OWNW_ENG : Reg := ⟨121, 0x7, 1, 0x418, 8, 1, .mod, .ownw, 0⟩
def F_OWNW_ENG_ENG : Field := ⟨388, 121, 23, 0, .rw, 0⟩

/-- OWNW_MISC: Owner-world bits (R465). -/
def R_OWNW_MISC : Reg := ⟨122, 0x7, 1, 0x420, 8, 1, .mod, .ownw, 0⟩
def F_OWNW_MISC_RBT : Field := ⟨389, 122, 7, 0, .rw, 0⟩

/-- TS_CONFIG: Trusted-service configuration (R465). -/
def R_TS_CONFIG : Reg := ⟨123, 0x7, 1, 0x800, 8, 1, .mod, .trusted, 0⟩
def F_TS_CONFIG_RESTARTS : Field := ⟨390, 123, 63, 56, .rc, 0⟩
def F_TS_CONFIG_TIMEOUT_MS : Field := ⟨391, 123, 47, 40, .rwl, 10⟩
def F_TS_CONFIG_MGR_PART : Field := ⟨392, 123, 34, 32, .rwl, 0⟩
def F_TS_CONFIG_STATE : Field := ⟨393, 123, 1, 0, .ro, 0⟩

/-- TS_PORT: Trusted-service port (R465). -/
def R_TS_PORT : Reg := ⟨124, 0x7, 1, 0x900, 8, 16, .part, .tsPort, 0⟩
def F_TS_PORT_RESULT : Field := ⟨394, 124, 63, 60, .ro, 0⟩
def F_TS_PORT_SEQ : Field := ⟨395, 124, 59, 52, .ro, 0⟩
def F_TS_PORT_ADDR : Field := ⟨396, 124, 51, 6, .wo, 0⟩

/-- HOST_LINK_CFG: Link configuration (R493). -/
def R_HOST_LINK_CFG : Reg := ⟨125, 0x8, 1, 0x0, 8, 1, .mod, .kydin, 0⟩
def F_HOST_LINK_CFG_SRIS : Field := ⟨397, 125, 8, 8, .rwl, 0⟩
def F_HOST_LINK_CFG_MAX_SPEED : Field := ⟨398, 125, 2, 0, .rwl, 5⟩

/-- HOST_LINK_STATUS: Link status (R493). -/
def R_HOST_LINK_STATUS : Reg := ⟨126, 0x8, 1, 0x8, 8, 1, .mod, .kydin, 0⟩
def F_HOST_LINK_STATUS_DOWN_COUNT : Field := ⟨399, 126, 63, 48, .rc, 0⟩
def F_HOST_LINK_STATUS_WIDTH : Field := ⟨400, 126, 20, 16, .ro, 0⟩
def F_HOST_LINK_STATUS_SPEED : Field := ⟨401, 126, 10, 8, .ro, 0⟩
def F_HOST_LINK_STATUS_READY : Field := ⟨402, 126, 2, 2, .ro, 0⟩
def F_HOST_LINK_STATUS_PERST : Field := ⟨403, 126, 1, 1, .ro, 0⟩
def F_HOST_LINK_STATUS_DL_UP : Field := ⟨404, 126, 0, 0, .ro, 0⟩

/-- HOST_ERR: Endpoint error counts (R493). -/
def R_HOST_ERR : Reg := ⟨127, 0x8, 1, 0x10, 8, 1, .mod, .kydin, 0⟩
def F_HOST_ERR_UNEXP_CPL : Field := ⟨405, 127, 63, 48, .rc, 0⟩
def F_HOST_ERR_POISON_IN : Field := ⟨406, 127, 47, 32, .rc, 0⟩
def F_HOST_ERR_WR_DROPPED : Field := ⟨407, 127, 31, 16, .rc, 0⟩
def F_HOST_ERR_FORCED : Field := ⟨408, 127, 15, 0, .rc, 0⟩

/-- HOST_PF_CFG: PF configuration (R493). -/
def R_HOST_PF_CFG : Reg := ⟨128, 0x8, 1, 0x100, 8, 8, .mod, .kydin, 0⟩
def F_HOST_PF_CFG_VF_BAR2_LOG2 : Field := ⟨409, 128, 13, 8, .rwl, 0⟩
def F_HOST_PF_CFG_BAR2_LOG2 : Field := ⟨410, 128, 5, 0, .rwl, 0⟩

/-- HOST_OUT: Outbound window (R493). -/
def R_HOST_OUT : Reg := ⟨129, 0x8, 1, 0x1000, 8, 256, .part, .hostOut, 0⟩
def F_HOST_OUT_HOST_4G : Field := ⟨411, 129, 63, 32, .rw, 0⟩
def F_HOST_OUT_EN : Field := ⟨412, 129, 31, 31, .rw, 0⟩
def F_HOST_OUT_NOSNOOP : Field := ⟨413, 129, 30, 30, .rw, 0⟩
def F_HOST_OUT_RELAXED : Field := ⟨414, 129, 29, 29, .rw, 0⟩
def F_HOST_OUT_FUNC : Field := ⟨415, 129, 4, 0, .rw, 0⟩

/-- HOSTFN_STATUS: Function status (host) (R493). -/
def R_HOSTFN_STATUS : Reg := ⟨130, 0x400, 256, 0x0, 8, 1, .func, .fn, 0⟩
def F_HOSTFN_STATUS_RD_OUT : Field := ⟨416, 130, 63, 54, .ro, 0⟩
def F_HOSTFN_STATUS_QUIESCED : Field := ⟨417, 130, 7, 7, .ro, 0⟩
def F_HOSTFN_STATUS_QUIESCING : Field := ⟨418, 130, 6, 6, .ro, 0⟩
def F_HOSTFN_STATUS_FLR : Field := ⟨419, 130, 5, 5, .ro, 0⟩
def F_HOSTFN_STATUS_D3 : Field := ⟨420, 130, 4, 4, .ro, 0⟩
def F_HOSTFN_STATUS_BME : Field := ⟨421, 130, 3, 3, .ro, 0⟩
def F_HOSTFN_STATUS_MSE : Field := ⟨422, 130, 2, 2, .ro, 0⟩
def F_HOSTFN_STATUS_PRESENT : Field := ⟨423, 130, 1, 1, .ro, 0⟩

/-- HOSTFN_CTRL: Quiesce command (R493). -/
def R_HOSTFN_CTRL : Reg := ⟨131, 0x400, 256, 0x8, 8, 1, .func, .fn, 0⟩
def F_HOSTFN_CTRL_RESULT : Field := ⟨424, 131, 63, 56, .ro, 0⟩
def F_HOSTFN_CTRL_SEQ : Field := ⟨425, 131, 55, 48, .ro, 0⟩
def F_HOSTFN_CTRL_CMD : Field := ⟨426, 131, 3, 0, .wo, 0⟩

/-- HOSTFN_CFG: Function limits (R493). -/
def R_HOSTFN_CFG : Reg := ⟨132, 0x400, 256, 0x10, 8, 1, .part, .fn, 0⟩
def F_HOSTFN_CFG_RD_MAX : Field := ⟨427, 132, 9, 0, .rw, 0⟩

/-- HOSTFN_HOF_BUF: Ring bases (host) (R493). -/
def R_HOSTFN_HOF_BUF : Reg := ⟨133, 0x400, 256, 0x20, 8, 1, .func, .fn, 0⟩
def F_HOSTFN_HOF_BUF_BASE : Field := ⟨428, 133, 63, 6, .rw, 0⟩

/-- HOSTFN_HOF_CPL: Ring bases (host) (R493). -/
def R_HOSTFN_HOF_CPL : Reg := ⟨134, 0x400, 256, 0x28, 8, 1, .func, .fn, 0⟩
def F_HOSTFN_HOF_CPL_BASE : Field := ⟨429, 134, 63, 6, .rw, 0⟩

/-- HOSTFN_HOF_CFG: Hand-off configuration (host) (R493). -/
def R_HOSTFN_HOF_CFG : Reg := ⟨135, 0x400, 256, 0x30, 8, 1, .func, .fn, 0⟩
def F_HOSTFN_HOF_CFG_EN : Field := ⟨430, 135, 63, 63, .rw, 0⟩
def F_HOSTFN_HOF_CFG_VECTOR : Field := ⟨431, 135, 47, 40, .rw, 255⟩
def F_HOSTFN_HOF_CFG_BUF_LEN : Field := ⟨432, 135, 23, 16, .rw, 0⟩
def F_HOSTFN_HOF_CFG_CPL_LOG2 : Field := ⟨433, 135, 12, 8, .rw, 4⟩
def F_HOSTFN_HOF_CFG_BUF_LOG2 : Field := ⟨434, 135, 4, 0, .rw, 4⟩

/-- HOSTFN_HOF_PTR: Ring pointers (host) (R493). -/
def R_HOSTFN_HOF_PTR : Reg := ⟨136, 0x400, 256, 0x38, 8, 1, .func, .fn, 0⟩
def F_HOSTFN_HOF_PTR_BUF_TAIL : Field := ⟨435, 136, 63, 48, .rw, 0⟩
def F_HOSTFN_HOF_PTR_BUF_HEAD : Field := ⟨436, 136, 47, 32, .ro, 0⟩
def F_HOSTFN_HOF_PTR_CPL_HEAD : Field := ⟨437, 136, 31, 16, .rw, 0⟩
def F_HOSTFN_HOF_PTR_CPL_TAIL : Field := ⟨438, 136, 15, 0, .ro, 0⟩

/-- HOSTFN_DOORBELL: Doorbell (host) (R493). -/
def R_HOSTFN_DOORBELL : Reg := ⟨137, 0x400, 256, 0x40, 8, 1, .func, .fn, 0⟩
def F_HOSTFN_DOORBELL_BITS : Field := ⟨439, 137, 63, 0, .w1c, 0⟩

/-- HOSTFN_MSIX_RAISE: Send MSI-X (R493). -/
def R_HOSTFN_MSIX_RAISE : Reg := ⟨138, 0x400, 256, 0x48, 8, 1, .func, .fn, 0⟩
def F_HOSTFN_MSIX_RAISE_VECTOR : Field := ⟨440, 138, 7, 0, .wo, 0⟩

/-- HOSTFN_DLOG_BASE: Dirty-log ring (VF mirror) (R493). -/
def R_HOSTFN_DLOG_BASE : Reg := ⟨139, 0x400, 256, 0x50, 8, 1, .func, .fn, 0⟩
def F_HOSTFN_DLOG_BASE_BASE : Field := ⟨441, 139, 63, 12, .rw, 0⟩

/-- HOSTFN_DLOG_CFG: Dirty-log control (VF mirror) (R493). -/
def R_HOSTFN_DLOG_CFG : Reg := ⟨140, 0x400, 256, 0x58, 8, 1, .func, .fn, 0⟩
def F_HOSTFN_DLOG_CFG_RESULT : Field := ⟨442, 140, 63, 56, .ro, 0⟩
def F_HOSTFN_DLOG_CFG_SEQ : Field := ⟨443, 140, 55, 48, .ro, 0⟩
def F_HOSTFN_DLOG_CFG_OVERFLOW : Field := ⟨444, 140, 16, 16, .ro, 0⟩
def F_HOSTFN_DLOG_CFG_SIZE_LOG2 : Field := ⟨445, 140, 15, 8, .rw, 8⟩
def F_HOSTFN_DLOG_CFG_PAGE : Field := ⟨446, 140, 4, 4, .rw, 0⟩
def F_HOSTFN_DLOG_CFG_CMD : Field := ⟨447, 140, 3, 2, .wo, 0⟩
def F_HOSTFN_DLOG_CFG_EN : Field := ⟨448, 140, 0, 0, .rw, 0⟩

/-- HOSTFN_DLOG_PTR: Dirty-log pointers (VF mirror) (R493). -/
def R_HOSTFN_DLOG_PTR : Reg := ⟨141, 0x400, 256, 0x60, 8, 1, .func, .fn, 0⟩
def F_HOSTFN_DLOG_PTR_TAIL : Field := ⟨449, 141, 63, 32, .rw, 0⟩
def F_HOSTFN_DLOG_PTR_HEAD : Field := ⟨450, 141, 31, 0, .ro, 0⟩

/-- HOSTFN_WIN_MAP: Inbound window w (shadow) (R493). -/
def R_HOSTFN_WIN_MAP : Reg := ⟨142, 0x400, 256, 0x100, 16, 8, .part, .fn, 0⟩
def F_HOSTFN_WIN_MAP_EN : Field := ⟨451, 142, 63, 63, .rw, 0⟩
def F_HOSTFN_WIN_MAP_SECURE : Field := ⟨452, 142, 62, 62, .rw, 0⟩
def F_HOSTFN_WIN_MAP_READ : Field := ⟨453, 142, 61, 61, .rw, 0⟩
def F_HOSTFN_WIN_MAP_WRITE : Field := ⟨454, 142, 60, 60, .rw, 0⟩
def F_HOSTFN_WIN_MAP_SIZE_4K : Field := ⟨455, 142, 55, 28, .rw, 0⟩
def F_HOSTFN_WIN_MAP_OFFSET_4K : Field := ⟨456, 142, 27, 0, .rw, 0⟩

/-- HOSTFN_WINA_MAP: active copy (R493). -/
def R_HOSTFN_WINA_MAP : Reg := ⟨143, 0x400, 256, 0x180, 16, 8, .part, .fn, 0⟩
def F_HOSTFN_WINA_MAP_EN : Field := ⟨457, 143, 63, 63, .ro, 0⟩
def F_HOSTFN_WINA_MAP_SECURE : Field := ⟨458, 143, 62, 62, .ro, 0⟩
def F_HOSTFN_WINA_MAP_READ : Field := ⟨459, 143, 61, 61, .ro, 0⟩
def F_HOSTFN_WINA_MAP_WRITE : Field := ⟨460, 143, 60, 60, .ro, 0⟩
def F_HOSTFN_WINA_MAP_SIZE_4K : Field := ⟨461, 143, 55, 28, .ro, 0⟩
def F_HOSTFN_WINA_MAP_OFFSET_4K : Field := ⟨462, 143, 27, 0, .ro, 0⟩

/-- HOSTFN_WIN_TGT: Inbound window w (shadow) (R493). -/
def R_HOSTFN_WIN_TGT : Reg := ⟨144, 0x400, 256, 0x108, 16, 8, .part, .fn, 0⟩
def F_HOSTFN_WIN_TGT_TGT_4K : Field := ⟨463, 144, 39, 0, .rw, 0⟩

/-- HOSTFN_WINA_TGT: active copy (R493). -/
def R_HOSTFN_WINA_TGT : Reg := ⟨145, 0x400, 256, 0x188, 16, 8, .part, .fn, 0⟩
def F_HOSTFN_WINA_TGT_TGT_4K : Field := ⟨464, 145, 39, 0, .ro, 0⟩

/-- HOSTFN_WIN_COMMIT: Window commit (R493). -/
def R_HOSTFN_WIN_COMMIT : Reg := ⟨146, 0x400, 256, 0x200, 8, 1, .part, .fn, 0⟩
def F_HOSTFN_WIN_COMMIT_RESULT : Field := ⟨465, 146, 63, 56, .ro, 0⟩
def F_HOSTFN_WIN_COMMIT_SEQ : Field := ⟨466, 146, 55, 48, .ro, 0⟩
def F_HOSTFN_WIN_COMMIT_CMD : Field := ⟨467, 146, 1, 0, .wo, 0⟩

/-- BLVD_CFG: Fabric configuration (R518). -/
def R_BLVD_CFG : Reg := ⟨147, 0x9, 1, 0x0, 8, 1, .mod, .mgr, 0⟩
def F_BLVD_CFG_E2E_US : Field := ⟨468, 147, 47, 32, .rwl, 100⟩
def F_BLVD_CFG_MGMT_EN : Field := ⟨469, 147, 0, 0, .rwl, 1⟩

/-- BLVD_ADDR: Module address (R518). -/
def R_BLVD_ADDR : Reg := ⟨148, 0x9, 1, 0x8, 8, 1, .mod, .mgr, 0⟩
def F_BLVD_ADDR_CONFLICT : Field := ⟨470, 148, 15, 15, .w1c, 0⟩
def F_BLVD_ADDR_SOURCE : Field := ⟨471, 148, 13, 12, .ro, 0⟩
def F_BLVD_ADDR_ADDR : Field := ⟨472, 148, 11, 0, .ro, 0⟩

/-- BLVD_ERR: Fabric counts (R518). -/
def R_BLVD_ERR : Reg := ⟨149, 0x9, 1, 0x10, 8, 1, .mod, .mgr, 0⟩
def F_BLVD_ERR_NO_ROUTE : Field := ⟨473, 149, 63, 48, .rc, 0⟩
def F_BLVD_ERR_HOPS_EXCEEDED : Field := ⟨474, 149, 47, 32, .rc, 0⟩
def F_BLVD_ERR_RX_REFUSED : Field := ⟨475, 149, 31, 16, .rc, 0⟩
def F_BLVD_ERR_LATE_ACK : Field := ⟨476, 149, 15, 0, .rc, 0⟩

/-- BLVD_RXWIN_MAP: Receive window w (R518). -/
def R_BLVD_RXWIN_MAP : Reg := ⟨150, 0x9, 1, 0x100, 16, 8, .mod, .mgr, 0⟩
def F_BLVD_RXWIN_MAP_EN : Field := ⟨477, 150, 63, 63, .rw, 0⟩
def F_BLVD_RXWIN_MAP_SECURE : Field := ⟨478, 150, 62, 62, .rw, 0⟩
def F_BLVD_RXWIN_MAP_PART : Field := ⟨479, 150, 61, 59, .rw, 0⟩
def F_BLVD_RXWIN_MAP_SRC : Field := ⟨480, 150, 58, 47, .rw, 4095⟩
def F_BLVD_RXWIN_MAP_SRC_ANY : Field := ⟨481, 150, 45, 45, .rw, 1⟩
def F_BLVD_RXWIN_MAP_SIZE_4K : Field := ⟨482, 150, 44, 24, .rw, 0⟩
def F_BLVD_RXWIN_MAP_OFFSET_4K : Field := ⟨483, 150, 19, 0, .rw, 0⟩

/-- BLVD_RXWIN_TGT: Receive window w (R518). -/
def R_BLVD_RXWIN_TGT : Reg := ⟨151, 0x9, 1, 0x108, 16, 8, .mod, .mgr, 0⟩
def F_BLVD_RXWIN_TGT_TGT_4K : Field := ⟨484, 151, 39, 0, .rw, 0⟩

/-- BLVD_LAND: Landing ring (R518). -/
def R_BLVD_LAND : Reg := ⟨152, 0x9, 1, 0x200, 16, 8, .part, .partP, 0⟩
def F_BLVD_LAND_SIZE_4K : Field := ⟨485, 152, 57, 40, .rwl, 0⟩
def F_BLVD_LAND_BASE_4K : Field := ⟨486, 152, 39, 0, .rwl, 0⟩

/-- BLVD_LAND_STATUS: Landing ring (R518). -/
def R_BLVD_LAND_STATUS : Reg := ⟨153, 0x9, 1, 0x208, 16, 8, .part, .nobody, 0⟩
def F_BLVD_LAND_STATUS_FULL : Field := ⟨487, 153, 63, 48, .rc, 0⟩
def F_BLVD_LAND_STATUS_HEAD : Field := ⟨488, 153, 47, 24, .ro, 0⟩
def F_BLVD_LAND_STATUS_TAIL : Field := ⟨489, 153, 23, 0, .ro, 0⟩

/-- BLVD_FREE: Free landed copy (R518). -/
def R_BLVD_FREE : Reg := ⟨154, 0x9, 1, 0x300, 8, 8, .part, .partEither, 0⟩
def F_BLVD_FREE_ADDR : Field := ⟨490, 154, 51, 6, .wo, 0⟩

/-- BLVD_ROUTE: Route entry (R518). -/
def R_BLVD_ROUTE : Reg := ⟨155, 0x9, 1, 0x8000, 8, 4096, .mod, .mgr, 0⟩
def F_BLVD_ROUTE_VALID : Field := ⟨491, 155, 63, 63, .rw, 0⟩
def F_BLVD_ROUTE_GATE : Field := ⟨492, 155, 7, 2, .rw, 0⟩
def F_BLVD_ROUTE_BUNDLE : Field := ⟨493, 155, 1, 0, .rw, 0⟩

/-- BLVD_BUNDLE: Bundle status and neighbour (R518). -/
def R_BLVD_BUNDLE : Reg := ⟨156, 0x80, 64, 0x600, 8, 4, .gate, .gate, 0⟩
def F_BLVD_BUNDLE_WR_LOST : Field := ⟨494, 156, 63, 48, .rc, 0⟩
def F_BLVD_BUNDLE_REPLAYS : Field := ⟨495, 156, 47, 32, .rc, 0⟩
def F_BLVD_BUNDLE_CRC_ERR : Field := ⟨496, 156, 31, 16, .rc, 0⟩
def F_BLVD_BUNDLE_DOWNS : Field := ⟨497, 156, 15, 8, .rc, 0⟩
def F_BLVD_BUNDLE_STATE : Field := ⟨498, 156, 1, 0, .ro, 0⟩

/-- BLVD_NBR: Bundle status and neighbour (R518). -/
def R_BLVD_NBR : Reg := ⟨157, 0x80, 64, 0x640, 8, 4, .gate, .gate, 0⟩
def F_BLVD_NBR_VALID : Field := ⟨499, 157, 48, 48, .ro, 0⟩
def F_BLVD_NBR_HELLO : Field := ⟨500, 157, 47, 0, .ro, 0⟩

/-- INT_SRC_CFG: Source configuration (R531). -/
def R_INT_SRC_CFG : Reg := ⟨158, 0xa, 1, 0x0, 8, 2064, .part, .src, 0⟩
def F_INT_SRC_CFG_SECURE : Field := ⟨501, 158, 63, 63, .rw, 0⟩
def F_INT_SRC_CFG_MASK : Field := ⟨502, 158, 62, 62, .rw, 1⟩
def F_INT_SRC_CFG_PRIORITY : Field := ⟨503, 158, 61, 59, .rw, 0⟩
def F_INT_SRC_CFG_LEVEL : Field := ⟨504, 158, 58, 58, .rw, 0⟩
def F_INT_SRC_CFG_CORE : Field := ⟨505, 158, 55, 48, .rw, 255⟩
def F_INT_SRC_CFG_TIME : Field := ⟨506, 158, 47, 32, .rw, 0⟩
def F_INT_SRC_CFG_COUNT : Field := ⟨507, 158, 31, 24, .rw, 0⟩
def F_INT_SRC_CFG_OWNED : Field := ⟨508, 158, 23, 23, .rwl, 0⟩
def F_INT_SRC_CFG_OWNER : Field := ⟨509, 158, 22, 20, .rwl, 0⟩

/-- INT_SRC_STATE: Source state (R531). -/
def R_INT_SRC_STATE : Reg := ⟨159, 0xa, 1, 0x8000, 8, 2064, .part, .src, 0⟩
def F_INT_SRC_STATE_PENDING : Field := ⟨510, 159, 63, 63, .w1s, 0⟩
def F_INT_SRC_STATE_IN_FLIGHT : Field := ⟨511, 159, 62, 62, .ro, 0⟩
def F_INT_SRC_STATE_ORPHANED : Field := ⟨512, 159, 61, 61, .ro, 0⟩
def F_INT_SRC_STATE_EVENTS : Field := ⟨513, 159, 55, 48, .ro, 0⟩
def F_INT_SRC_STATE_CLEAR : Field := ⟨514, 159, 0, 0, .wo, 0⟩

/-- INT_CTRL: Delivery control (R531). -/
def R_INT_CTRL : Reg := ⟨160, 0xa, 1, 0xe000, 8, 1, .mod, .intCtrl, 0⟩
def F_INT_CTRL_ALL_DISABLE : Field := ⟨515, 160, 63, 63, .rw, 0⟩
def F_INT_CTRL_DISABLE : Field := ⟨516, 160, 7, 0, .rw, 0⟩

/-- INT_ORPHAN: Orphan targets (R531). -/
def R_INT_ORPHAN : Reg := ⟨161, 0xa, 1, 0xe008, 8, 1, .mod, .kydin, 0⟩
def F_INT_ORPHAN_CORE : Field := ⟨517, 161, 63, 0, .rwl, 18446744073709551615⟩

/-- INT_GPI_CFG: GPI input n (R531). -/
def R_INT_GPI_CFG : Reg := ⟨162, 0xa, 1, 0xe100, 8, 16, .mod, .kydin, 0⟩
def F_INT_GPI_CFG_LEVEL : Field := ⟨518, 162, 16, 16, .ro, 0⟩
def F_INT_GPI_CFG_EDGE : Field := ⟨519, 162, 9, 8, .rwl, 0⟩
def F_INT_GPI_CFG_FILTER : Field := ⟨520, 162, 7, 0, .rwl, 1⟩

/-- CORE_ICLAIM_M: Claim (R531). -/
def R_CORE_ICLAIM_M : Reg := ⟨163, 0x100, 160, 0x20, 8, 1, .sq, .nobody, 0⟩
def F_CORE_ICLAIM_M_VALID : Field := ⟨521, 163, 63, 63, .rc, 0⟩
def F_CORE_ICLAIM_M_SOURCE : Field := ⟨522, 163, 11, 0, .rc, 0⟩

/-- CORE_ICLAIM_S: Claim (R531). -/
def R_CORE_ICLAIM_S : Reg := ⟨164, 0x100, 160, 0x28, 8, 1, .sq, .nobody, 0⟩
def F_CORE_ICLAIM_S_VALID : Field := ⟨523, 164, 63, 63, .rc, 0⟩
def F_CORE_ICLAIM_S_SOURCE : Field := ⟨524, 164, 11, 0, .rc, 0⟩

/-- CORE_ICLAIM_SEC: Claim (R531). -/
def R_CORE_ICLAIM_SEC : Reg := ⟨165, 0x100, 160, 0x30, 8, 1, .sq, .nobody, 0⟩
def F_CORE_ICLAIM_SEC_VALID : Field := ⟨525, 165, 63, 63, .rc, 0⟩
def F_CORE_ICLAIM_SEC_SOURCE : Field := ⟨526, 165, 11, 0, .rc, 0⟩

/-- QMC_PMU_CTL: Uncore counter control (R541). -/
def R_QMC_PMU_CTL : Reg := ⟨166, 0x20, 24, 0x300, 8, 1, .mod, .quarter, 0⟩
def F_QMC_PMU_CTL_OVF : Field := ⟨527, 166, 51, 48, .w1c, 0⟩
def F_QMC_PMU_CTL_PART : Field := ⟨528, 166, 43, 41, .rw, 0⟩
def F_QMC_PMU_CTL_PART_EN : Field := ⟨529, 166, 40, 40, .rw, 0⟩
def F_QMC_PMU_CTL_EN : Field := ⟨530, 166, 35, 32, .rw, 0⟩
def F_QMC_PMU_CTL_EVT : Field := ⟨531, 166, 31, 0, .rw, 0⟩

/-- GATE_PMU_CTL: Uncore counter control (R541). -/
def R_GATE_PMU_CTL : Reg := ⟨167, 0x80, 64, 0x700, 8, 1, .mod, .gate, 0⟩
def F_GATE_PMU_CTL_OVF : Field := ⟨532, 167, 51, 48, .w1c, 0⟩
def F_GATE_PMU_CTL_PART : Field := ⟨533, 167, 43, 41, .rw, 0⟩
def F_GATE_PMU_CTL_PART_EN : Field := ⟨534, 167, 40, 40, .rw, 0⟩
def F_GATE_PMU_CTL_EN : Field := ⟨535, 167, 35, 32, .rw, 0⟩
def F_GATE_PMU_CTL_EVT : Field := ⟨536, 167, 31, 0, .rw, 0⟩

/-- ENG_PMU_CTL: Uncore counter control (R541). -/
def R_ENG_PMU_CTL : Reg := ⟨168, 0x40, 24, 0x100, 8, 1, .mod, .engPmu, 0⟩
def F_ENG_PMU_CTL_OVF : Field := ⟨537, 168, 51, 48, .w1c, 0⟩
def F_ENG_PMU_CTL_PART : Field := ⟨538, 168, 43, 41, .rw, 0⟩
def F_ENG_PMU_CTL_PART_EN : Field := ⟨539, 168, 40, 40, .rw, 0⟩
def F_ENG_PMU_CTL_EN : Field := ⟨540, 168, 35, 32, .rw, 0⟩
def F_ENG_PMU_CTL_EVT : Field := ⟨541, 168, 31, 0, .rw, 0⟩

/-- RBT_PMU_CTL: Uncore counter control (R541). -/
def R_RBT_PMU_CTL : Reg := ⟨169, 0x5, 1, 0x3000, 8, 1, .mod, .anySecure, 0⟩
def F_RBT_PMU_CTL_OVF : Field := ⟨542, 169, 51, 48, .w1c, 0⟩
def F_RBT_PMU_CTL_PART : Field := ⟨543, 169, 43, 41, .rw, 0⟩
def F_RBT_PMU_CTL_PART_EN : Field := ⟨544, 169, 40, 40, .rw, 0⟩
def F_RBT_PMU_CTL_EN : Field := ⟨545, 169, 35, 32, .rw, 0⟩
def F_RBT_PMU_CTL_EVT : Field := ⟨546, 169, 31, 0, .rw, 0⟩

/-- QMC_PMU_CNT: Uncore counter n (R541). -/
def R_QMC_PMU_CNT : Reg := ⟨170, 0x20, 24, 0x308, 8, 4, .mod, .quarter, 0⟩
def F_QMC_PMU_CNT_COUNT : Field := ⟨547, 170, 47, 0, .rw, 0⟩

/-- GATE_PMU_CNT: Uncore counter n (R541). -/
def R_GATE_PMU_CNT : Reg := ⟨171, 0x80, 64, 0x708, 8, 4, .mod, .gate, 0⟩
def F_GATE_PMU_CNT_COUNT : Field := ⟨548, 171, 47, 0, .rw, 0⟩

/-- ENG_PMU_CNT: Uncore counter n (R541). -/
def R_ENG_PMU_CNT : Reg := ⟨172, 0x40, 24, 0x108, 8, 4, .mod, .engPmu, 0⟩
def F_ENG_PMU_CNT_COUNT : Field := ⟨549, 172, 47, 0, .rw, 0⟩

/-- RBT_PMU_CNT: Uncore counter n (R541). -/
def R_RBT_PMU_CNT : Reg := ⟨173, 0x5, 1, 0x3008, 8, 4, .mod, .anySecure, 0⟩
def F_RBT_PMU_CNT_COUNT : Field := ⟨550, 173, 47, 0, .rw, 0⟩

/-- PMU_GLOBAL: Uncore freeze (R541). -/
def R_PMU_GLOBAL : Reg := ⟨174, 0xb, 1, 0x0, 8, 1, .mod, .trusted, 0⟩
def F_PMU_GLOBAL_FREEZE : Field := ⟨551, 174, 0, 0, .rw, 0⟩

/-- KYD_STATUS: Kydin status (R563). -/
def R_KYD_STATUS : Reg := ⟨175, 0x0, 1, 0x0, 8, 1, .aon, .kydin, 0⟩
def F_KYD_STATUS_TEST : Field := ⟨552, 175, 63, 62, .ro, 0⟩
def F_KYD_STATUS_RETURNED : Field := ⟨553, 175, 61, 61, .ro, 0⟩
def F_KYD_STATUS_RTC_VALID : Field := ⟨554, 175, 60, 60, .ro, 0⟩
def F_KYD_STATUS_TEST_OPEN : Field := ⟨555, 175, 3, 3, .ro, 0⟩
def F_KYD_STATUS_SERVICE_WRITE : Field := ⟨556, 175, 2, 2, .ro, 0⟩
def F_KYD_STATUS_UNPROTECTED : Field := ⟨557, 175, 1, 1, .ro, 0⟩
def F_KYD_STATUS_TS_FAILED : Field := ⟨558, 175, 0, 0, .ro, 0⟩

/-- KYD_RTC: Calendar time (R563). -/
def R_KYD_RTC : Reg := ⟨176, 0x0, 1, 0x8, 8, 1, .aon, .mgr, 0⟩
def F_KYD_RTC_SECONDS : Field := ⟨559, 176, 63, 15, .rw, 0⟩
def F_KYD_RTC_FRACTION : Field := ⟨560, 176, 14, 0, .rw, 0⟩

/-- KYD_MBOX: In-band mailbox (R563). -/
def R_KYD_MBOX : Reg := ⟨177, 0x0, 1, 0x10, 8, 1, .mod, .mgr, 0⟩
def F_KYD_MBOX_RESULT : Field := ⟨561, 177, 63, 56, .ro, 0⟩
def F_KYD_MBOX_SEQ : Field := ⟨562, 177, 55, 48, .ro, 0⟩
def F_KYD_MBOX_ADDR : Field := ⟨563, 177, 47, 12, .wo, 0⟩

/-- KYD_ELOG_MIRROR: Error-log mirror (R563). -/
def R_KYD_ELOG_MIRROR : Reg := ⟨178, 0x0, 1, 0x18, 8, 1, .mod, .mgr, 0⟩
def F_KYD_ELOG_MIRROR_PART : Field := ⟨564, 178, 63, 61, .rw, 0⟩
def F_KYD_ELOG_MIRROR_SIZE_4K : Field := ⟨565, 178, 57, 40, .rw, 0⟩
def F_KYD_ELOG_MIRROR_BASE_4K : Field := ⟨566, 178, 39, 0, .rw, 0⟩

/-- KYD_ELOG_SEQ: Error-log position (R563). -/
def R_KYD_ELOG_SEQ : Reg := ⟨179, 0x0, 1, 0x20, 8, 1, .aon, .kydin, 0⟩
def F_KYD_ELOG_SEQ_FLUSHED : Field := ⟨567, 179, 63, 32, .ro, 0⟩
def F_KYD_ELOG_SEQ_NEXT : Field := ⟨568, 179, 31, 0, .ro, 0⟩

def allRegs1 : List Reg :=
  [R_MODE_STATUS, R_MODE_REQUEST, R_MODE_CONFIG,
   R_RESET_CAUSE, R_PART_RESET, R_MODE_STOP_STAMP,
   R_BOOT_STATUS, R_BOOT_CTRL, R_BOOT_MEAS,
   R_TIMING_STATUS, R_TIMING_CONFIG, R_TIMING_TURN,
   R_TIMING_TURN_SET, R_TIMING_TURN_TIME, R_TIME_NOW,
   R_GATE_CONFIG, R_GATE_STATUS, R_GATE_HB_STATUS,
   R_GATE_DL_CMD, R_GATE_DL_ACK, R_GATE_CTRL,
   R_LANE_CONFIG, R_LANE_STATUS, R_LANE_ERR,
   R_AVE_CONFIG, R_AVE_STATUS, R_AVE_COMMIT,
   R_AVE_GATE_EN, R_AVE_CASCADE, R_AVE_VOTE,
   R_AVE_VOTE_TIME, R_AVE_ACC_COUNT, R_AVE_TB_TERMS,
   R_AVE_TB_CTRL, R_AVE_TB_STAT, R_AVE_INPUT,
   R_AVE_TERM_CTRL, R_AVE_TERM_TRUE, R_AVE_TERM_NEG,
   R_AVE_MT_KEY]

def allRegs2 : List Reg :=
  [R_AVE_MT_MASK, R_AVE_MT_ENTRY, R_AVE_MT_CMD,
   R_AVE_MT_STATUS, R_RBT_CONFIG, R_RBT_STATUS,
   R_RBT_PART_EVCFG, R_RBT_PART_EXPECT, R_RBT_PART_EVD,
   R_RBT_PART_OVF, R_RBT_PART_LIMITS, R_RBT_PART_USE,
   R_RBT_PART_DROPS, R_RBT_PART_CMD, R_RBT_PART_WAIT,
   R_RBT_CORE_SUB, R_RBT_CORE_LOAD, R_RBT_FLOW_CFG,
   R_RBT_FLOW_ACT, R_RBT_FLOW_ARG, R_RBT_FLOW_STATUS,
   R_RBT_PORT_ARG0, R_RBT_PORT_ARG1, R_RBT_PORT_ARG2,
   R_RBT_PORT_CTRLW, R_RBT_PORT_OPND, R_RBT_PORT_CMD,
   R_RBT_PORT_SUB, R_GATE_FRAG_RING, R_GATE_FRAG_STATUS,
   R_GATE_FRAG_ERR, R_QMC_CONFIG, R_QMC_STATUS,
   R_QMC_CTRL, R_QMC_RESILVER, R_QMC_UE,
   R_QMC_VIOL, R_QMC_CHERR, R_QMC_RGN,
   R_MEM_PART]

def allRegs3 : List Reg :=
  [R_MEM_MEMBER, R_ENG_STATUS, R_ENG_INFO,
   R_ENG_RESET, R_ENG_FAULT, R_ENG_QP_CFG,
   R_ENG_QP_CQ, R_ENG_QP_SUBMIT, R_ENG_QP_TICKET,
   R_ENG_QP_ABORT, R_ENG_QP_STATUS, R_CORE_STATUS,
   R_CORE_START_ADDR, R_CORE_CMD, R_CORE_MTIMECMP,
   R_CM_ADDR, R_CM_LEN, R_CM_CMD,
   R_CM_STATUS, R_CACHE_EN, R_LLC_CFG,
   R_LLC_CMD, R_LLC_STATUS, R_SF_STATUS,
   R_STR_CFG, R_STR_STATUS, R_STR_CMD,
   R_STR_LINK, R_STR_PROBE_CTL, R_STR_PROBE_MATCH,
   R_STR_PROBE_MASK, R_STR_PROBE_CNT, R_TRACE_RING,
   R_TRACE_STATUS, R_PART_STATUS, R_PART_QUOTA,
   R_PART_QUOTA_STATUS, R_PART_PWR_REQ, R_OWNW_SQ0,
   R_OWNW_SQ1]

def allRegs4 : List Reg :=
  [R_OWNW_GATE, R_OWNW_ENG, R_OWNW_MISC,
   R_TS_CONFIG, R_TS_PORT, R_HOST_LINK_CFG,
   R_HOST_LINK_STATUS, R_HOST_ERR, R_HOST_PF_CFG,
   R_HOST_OUT, R_HOSTFN_STATUS, R_HOSTFN_CTRL,
   R_HOSTFN_CFG, R_HOSTFN_HOF_BUF, R_HOSTFN_HOF_CPL,
   R_HOSTFN_HOF_CFG, R_HOSTFN_HOF_PTR, R_HOSTFN_DOORBELL,
   R_HOSTFN_MSIX_RAISE, R_HOSTFN_DLOG_BASE, R_HOSTFN_DLOG_CFG,
   R_HOSTFN_DLOG_PTR, R_HOSTFN_WIN_MAP, R_HOSTFN_WINA_MAP,
   R_HOSTFN_WIN_TGT, R_HOSTFN_WINA_TGT, R_HOSTFN_WIN_COMMIT,
   R_BLVD_CFG, R_BLVD_ADDR, R_BLVD_ERR,
   R_BLVD_RXWIN_MAP, R_BLVD_RXWIN_TGT, R_BLVD_LAND,
   R_BLVD_LAND_STATUS, R_BLVD_FREE, R_BLVD_ROUTE,
   R_BLVD_BUNDLE, R_BLVD_NBR, R_INT_SRC_CFG,
   R_INT_SRC_STATE]

def allRegs5 : List Reg :=
  [R_INT_CTRL, R_INT_ORPHAN, R_INT_GPI_CFG,
   R_CORE_ICLAIM_M, R_CORE_ICLAIM_S, R_CORE_ICLAIM_SEC,
   R_QMC_PMU_CTL, R_GATE_PMU_CTL, R_ENG_PMU_CTL,
   R_RBT_PMU_CTL, R_QMC_PMU_CNT, R_GATE_PMU_CNT,
   R_ENG_PMU_CNT, R_RBT_PMU_CNT, R_PMU_GLOBAL,
   R_KYD_STATUS, R_KYD_RTC, R_KYD_MBOX,
   R_KYD_ELOG_MIRROR, R_KYD_ELOG_SEQ]

/-- Every register, in the order of their numbers. -/
def allRegs : List Reg :=
  allRegs1 ++ allRegs2 ++ allRegs3 ++ allRegs4 ++ allRegs5

def allFields1 : List Field :=
  [F_MODE_STATUS_PERMITTED, F_MODE_STATUS_LAST_CAUSE, F_MODE_STATUS_QUEUED_VALID,
   F_MODE_STATUS_QUEUED_MODE, F_MODE_STATUS_WAIT_SUPPLY, F_MODE_STATUS_IN_TRANSITION,
   F_MODE_STATUS_TARGET, F_MODE_STATUS_MODE, F_MODE_REQUEST_RESULT,
   F_MODE_REQUEST_SEQ, F_MODE_REQUEST_MODE, F_MODE_CONFIG_SPILL_EN,
   F_MODE_CONFIG_SPILL_POL, F_MODE_CONFIG_SPILL_BEAM, F_MODE_CONFIG_SPILL_GAP,
   F_MODE_CONFIG_SPILL_GPI, F_RESET_CAUSE_WARM_COUNT, F_RESET_CAUSE_THERMAL_TRIP,
   F_RESET_CAUSE_KYDIN_CMD, F_RESET_CAUSE_RESET_PIN, F_RESET_CAUSE_COLD,
   F_PART_RESET_CLEAR_MEM, F_PART_RESET_BUSY, F_PART_RESET_START,
   F_MODE_STOP_STAMP_TURN, F_MODE_STOP_STAMP_CROSSING, F_BOOT_STATUS_LOCKED,
   F_BOOT_STATUS_FUSE_SVN, F_BOOT_STATUS_IMAGE_SVN, F_BOOT_STATUS_APPLY_ERRS,
   F_BOOT_STATUS_LOG_COUNT, F_BOOT_STATUS_STATE_B, F_BOOT_STATUS_STATE_A,
   F_BOOT_STATUS_TRIAL_COUNT, F_BOOT_STATUS_FALLBACK, F_BOOT_STATUS_STRAP,
   F_BOOT_STATUS_SLOT, F_BOOT_CTRL_RESULT, F_BOOT_CTRL_SEQ,
   F_BOOT_CTRL_CMD]

def allFields2 : List Field :=
  [F_BOOT_MEAS_VALUE, F_TIMING_STATUS_TURN_ERRS, F_TIMING_STATUS_CROSSING,
   F_TIMING_STATUS_LOCK_LOSSES, F_TIMING_STATUS_TURN_SEEN, F_TIMING_STATUS_FREQ_OK,
   F_TIMING_STATUS_PRESENT, F_TIMING_STATUS_LOCKED, F_TIMING_CONFIG_CPT_M1,
   F_TIMING_CONFIG_CLKX_HZ, F_TIMING_TURN_TURN, F_TIMING_TURN_SET_ARM,
   F_TIMING_TURN_SET_VALUE, F_TIMING_TURN_TIME_CYCLES, F_TIMING_TURN_TIME_FRACTION,
   F_TIME_NOW_TIME, F_GATE_CONFIG_MARK_INTERVAL, F_GATE_CONFIG_DL_TIMEOUT,
   F_GATE_CONFIG_HB_HIGH, F_GATE_CONFIG_SWING_MV, F_GATE_CONFIG_XTOL,
   F_GATE_CONFIG_TAKEOVER_EN, F_GATE_CONFIG_RATE, F_GATE_CONFIG_PERSONALITY,
   F_GATE_STATUS_LANES_READY, F_GATE_STATUS_TAKEOVER, F_GATE_STATUS_HALF_RATE,
   F_GATE_STATUS_RUN, F_GATE_HB_STATUS_OVERRUN, F_GATE_HB_STATUS_OVF_SF,
   F_GATE_HB_STATUS_PEAK, F_GATE_HB_STATUS_USED, F_GATE_DL_CMD_RESULT,
   F_GATE_DL_CMD_SEQ, F_GATE_DL_CMD_LANE, F_GATE_DL_CMD_OPCODE,
   F_GATE_DL_CMD_ARG, F_GATE_DL_ACK_TAG, F_GATE_DL_ACK_FE_RESULT,
   F_GATE_DL_ACK_LATE_ACKS]

def allFields3 : List Field :=
  [F_GATE_DL_ACK_DATA, F_GATE_CTRL_RESULT, F_GATE_CTRL_SEQ,
   F_GATE_CTRL_LANE, F_GATE_CTRL_CMD, F_LANE_CONFIG_XOFFSET,
   F_LANE_CONFIG_FE_TAG, F_LANE_CONFIG_BG_ADAPT, F_LANE_CONFIG_EQ_STORED,
   F_LANE_CONFIG_IN_USE, F_LANE_STATUS_FE_CODE, F_LANE_STATUS_EYE_H,
   F_LANE_STATUS_EYE_V, F_LANE_STATUS_PHASE, F_LANE_STATUS_SWAPPED,
   F_LANE_STATUS_STATE, F_LANE_ERR_CRC_FAIL, F_LANE_ERR_BLOCK_ERR,
   F_LANE_ERR_HDR_ERR, F_LANE_ERR_STAMP_SLIP, F_AVE_CONFIG_ACCEPT_DELAY,
   F_AVE_CONFIG_EXT_ACCEPT, F_AVE_CONFIG_ACC_WINDOW, F_AVE_CONFIG_OUT_WIDTH,
   F_AVE_CONFIG_QUAL_VETO, F_AVE_CONFIG_DISAGREE_ONE, F_AVE_STATUS_QUAL_DELAY,
   F_AVE_STATUS_GEN, F_AVE_STATUS_RUNNING, F_AVE_STATUS_CFG_FROZEN,
   F_AVE_STATUS_COMMIT_PENDING, F_AVE_COMMIT_RESULT, F_AVE_COMMIT_SEQ,
   F_AVE_COMMIT_CMD, F_AVE_GATE_EN_GATES, F_AVE_CASCADE_TB,
   F_AVE_CASCADE_MODE, F_AVE_CASCADE_POS, F_AVE_VOTE_PIN_DISAGREE,
   F_AVE_VOTE_ACC_DISAGREE]

def allFields4 : List Field :=
  [F_AVE_VOTE_SCRUB_FIX, F_AVE_VOTE_LAST_ODD, F_AVE_VOTE_COPY_OFF,
   F_AVE_VOTE_TIME_TIME, F_AVE_ACC_COUNT_LATE, F_AVE_ACC_COUNT_VETOED,
   F_AVE_ACC_COUNT_VETO_LATE, F_AVE_ACC_COUNT_EXT, F_AVE_TB_TERMS_TERMS,
   F_AVE_TB_CTRL_PRESCALE, F_AVE_TB_CTRL_ACCEPT_EN, F_AVE_TB_STAT_FIRES,
   F_AVE_TB_STAT_ACCEPTS, F_AVE_INPUT_STRETCH, F_AVE_TERM_CTRL_ANCHOR,
   F_AVE_TERM_CTRL_THRESH, F_AVE_TERM_CTRL_EN, F_AVE_TERM_TRUE_INPUTS,
   F_AVE_TERM_NEG_INPUTS, F_AVE_MT_KEY_VALUE, F_AVE_MT_MASK_VALUE,
   F_AVE_MT_ENTRY_VALID, F_AVE_MT_ENTRY_PRIMITIVE, F_AVE_MT_ENTRY_PRIORITY,
   F_AVE_MT_CMD_RESULT, F_AVE_MT_CMD_SEQ, F_AVE_MT_CMD_COPY,
   F_AVE_MT_CMD_ADDR, F_AVE_MT_CMD_CMD, F_AVE_MT_STATUS_SCRUB_FIX,
   F_AVE_MT_STATUS_SHIFT_AT, F_AVE_MT_STATUS_VALID_COUNT, F_AVE_MT_STATUS_SHIFTING,
   F_RBT_CONFIG_TICK, F_RBT_STATUS_HELD, F_RBT_STATUS_OPEN_USED,
   F_RBT_STATUS_ONCHIP_USED, F_RBT_PART_EVCFG_SLOT_LINES, F_RBT_PART_EVCFG_TMO_TICKS,
   F_RBT_PART_EVCFG_EVFLOW_LOG2]

def allFields5 : List Field :=
  [F_RBT_PART_EVCFG_EVFLOW_MODE, F_RBT_PART_EVCFG_EVORDER, F_RBT_PART_EVCFG_EVFLOW_BASE,
   F_RBT_PART_EXPECT_GATES, F_RBT_PART_EVD_SLOTS_LOG2, F_RBT_PART_EVD_BASE_4K,
   F_RBT_PART_OVF_BLOCKS, F_RBT_PART_OVF_BASE_4K, F_RBT_PART_LIMITS_GRP_PRI,
   F_RBT_PART_LIMITS_ONCHIP, F_RBT_PART_USE_OVF_USED, F_RBT_PART_USE_OVF_OVER,
   F_RBT_PART_USE_OPEN_OVER, F_RBT_PART_USE_STALLED, F_RBT_PART_USE_OPEN,
   F_RBT_PART_USE_ONCHIP_USED, F_RBT_PART_DROPS_DROP_QUOTA, F_RBT_PART_DROPS_DROP_FULL,
   F_RBT_PART_DROPS_DROP_EVD, F_RBT_PART_DROPS_LATE_FRAG, F_RBT_PART_DROPS_EMPTY,
   F_RBT_PART_CMD_RESULT, F_RBT_PART_CMD_SEQ, F_RBT_PART_CMD_CMD,
   F_RBT_PART_WAIT_BIN_ODD, F_RBT_PART_WAIT_BIN_EVEN, F_RBT_CORE_SUB_GROUPS,
   F_RBT_CORE_LOAD_DELIVERED, F_RBT_CORE_LOAD_IN_PROC, F_RBT_CORE_LOAD_REDELIVERED,
   F_RBT_FLOW_CFG_PART, F_RBT_FLOW_CFG_OWNED, F_RBT_FLOW_CFG_AFF_HOLD,
   F_RBT_FLOW_CFG_PARALLEL, F_RBT_FLOW_CFG_GROUP, F_RBT_FLOW_CFG_WORLD,
   F_RBT_FLOW_CFG_PAUSE, F_RBT_FLOW_CFG_EN, F_RBT_FLOW_ACT_DONE_FLOW,
   F_RBT_FLOW_ACT_DONE_EN]

def allFields6 : List Field :=
  [F_RBT_FLOW_ACT_TARGET, F_RBT_FLOW_ACT_FREE_AT, F_RBT_FLOW_ACT_ACTION,
   F_RBT_FLOW_ARG_ARG, F_RBT_FLOW_STATUS_IN_PROC, F_RBT_FLOW_STATUS_OVF_DEPTH,
   F_RBT_FLOW_STATUS_STALLED, F_RBT_FLOW_STATUS_LAST_AGENT, F_RBT_FLOW_STATUS_ONCHIP_DEPTH,
   F_RBT_PORT_ARG0_VALUE, F_RBT_PORT_ARG1_VALUE, F_RBT_PORT_ARG2_VALUE,
   F_RBT_PORT_CTRLW_VALUE, F_RBT_PORT_OPND_OPND, F_RBT_PORT_CMD_RESULT,
   F_RBT_PORT_CMD_SEQ, F_RBT_PORT_CMD_SKIP, F_RBT_PORT_CMD_KEEP,
   F_RBT_PORT_CMD_CMD, F_RBT_PORT_SUB_GROUPS, F_GATE_FRAG_RING_SIZE_4K,
   F_GATE_FRAG_RING_BASE_4K, F_GATE_FRAG_STATUS_FRAG_STALLS, F_GATE_FRAG_STATUS_HEAD,
   F_GATE_FRAG_STATUS_TAIL, F_GATE_FRAG_ERR_REFUSED, F_GATE_FRAG_ERR_OVERSIZE,
   F_QMC_CONFIG_RS_PACE, F_QMC_CONFIG_RS_AUTO, F_QMC_CONFIG_OFFER_EN,
   F_QMC_CONFIG_MARK_WINDOW, F_QMC_CONFIG_MARK_THRESH, F_QMC_CONFIG_SCRUB_HOURS,
   F_QMC_STATUS_STATE, F_QMC_STATUS_MARK1, F_QMC_STATUS_MARK2,
   F_QMC_STATUS_RETRAIN_CH, F_QMC_STATUS_CATCHUP, F_QMC_STATUS_RETRAINING,
   F_QMC_STATUS_RS_PAUSED]

def allFields7 : List Field :=
  [F_QMC_STATUS_SCRUB_PASSES, F_QMC_CTRL_RESULT, F_QMC_CTRL_SEQ,
   F_QMC_CTRL_CH, F_QMC_CTRL_CMD, F_QMC_RESILVER_CHECKPOINT,
   F_QMC_RESILVER_PROGRESS, F_QMC_UE_UE_COUNT, F_QMC_UE_POISON_READS,
   F_QMC_UE_LINE, F_QMC_VIOL_COUNT, F_QMC_VIOL_WRITE,
   F_QMC_VIOL_SECURE, F_QMC_VIOL_PART, F_QMC_VIOL_QADDR,
   F_QMC_CHERR_CE_TOTAL, F_QMC_CHERR_CE_WINDOW, F_QMC_CHERR_TRAIN_FAILS,
   F_QMC_RGN_EN, F_QMC_RGN_SECURE, F_QMC_RGN_PART,
   F_QMC_RGN_LIMIT, F_QMC_RGN_BASE, F_MEM_PART_INTERLEAVE,
   F_MEM_PART_MEMBERS, F_MEM_PART_SIZE_256M, F_MEM_PART_BASE_256M,
   F_MEM_MEMBER_QUARTER, F_MEM_MEMBER_SIZE_256M, F_MEM_MEMBER_BASE_256M,
   F_ENG_STATUS_RECORD_LOST, F_ENG_STATUS_SRAM_FREE, F_ENG_STATUS_JOBS,
   F_ENG_STATUS_STAGES, F_ENG_STATUS_DEFLATE_BUSY, F_ENG_STATUS_RESETTING,
   F_ENG_STATUS_LOADING, F_ENG_STATUS_HELD, F_ENG_INFO_MICROCODE,
   F_ENG_RESET_RESULT]

def allFields8 : List Field :=
  [F_ENG_RESET_SEQ, F_ENG_RESET_CMD, F_ENG_FAULT_HANDLE,
   F_ENG_FAULT_CAUSE, F_ENG_FAULT_OP, F_ENG_FAULT_FAULTS,
   F_ENG_QP_CFG_PART, F_ENG_QP_CFG_OWNED, F_ENG_QP_CFG_NEXT_SEQ,
   F_ENG_QP_CFG_PRIORITY, F_ENG_QP_CFG_IRQ_EN, F_ENG_QP_CFG_WORLD,
   F_ENG_QP_CFG_EN, F_ENG_QP_CQ_CQ_LOG2, F_ENG_QP_CQ_BASE_4K,
   F_ENG_QP_SUBMIT_ADDR, F_ENG_QP_TICKET_RESULT, F_ENG_QP_TICKET_HANDLE,
   F_ENG_QP_ABORT_RESULT, F_ENG_QP_ABORT_SEQ, F_ENG_QP_ABORT_HANDLE,
   F_ENG_QP_STATUS_OUTSTANDING, F_ENG_QP_STATUS_RUNNING, F_ENG_QP_STATUS_OLDEST_SEQ,
   F_CORE_STATUS_V, F_CORE_STATUS_PRIV, F_CORE_STATUS_WORLD,
   F_CORE_STATUS_STATE, F_CORE_START_ADDR_ADDR, F_CORE_CMD_RESULT,
   F_CORE_CMD_SEQ, F_CORE_CMD_WORLD, F_CORE_CMD_CMD,
   F_CORE_MTIMECMP_VALUE, F_CM_ADDR_ADDR, F_CM_LEN_LINES,
   F_CM_CMD_RESULT, F_CM_CMD_SEQ, F_CM_CMD_TARGET,
   F_CM_CMD_CMD]

def allFields9 : List Field :=
  [F_CM_STATUS_SKIPPED, F_CM_STATUS_DONE, F_CACHE_EN_L2_EN,
   F_CACHE_EN_L1D_EN, F_LLC_CFG_EN, F_LLC_CFG_OFFER_ACCEPT,
   F_LLC_CFG_SP_SECURE, F_LLC_CFG_WAY_THRESH, F_LLC_CFG_WAY_WINDOW,
   F_LLC_CFG_SP_WAYS, F_LLC_CFG_LOCK_WAYS, F_LLC_CFG_WAYMODE,
   F_LLC_CMD_RESULT, F_LLC_CMD_SEQ, F_LLC_CMD_N,
   F_LLC_CMD_CMD, F_LLC_STATUS_OFFER_IN, F_LLC_STATUS_OFFER_DECL,
   F_LLC_STATUS_CE, F_LLC_STATUS_LOCK_LOST, F_SF_STATUS_BACKINV,
   F_SF_STATUS_RETRIES, F_SF_STATUS_COARSE, F_SF_STATUS_CREDITS,
   F_STR_CFG_ROUTER_SLEEP, F_STR_CFG_IDLE_US, F_STR_STATUS_WAKES,
   F_STR_STATUS_ABORTS, F_STR_STATUS_DETACHED_DROPS, F_STR_STATUS_DETACHED,
   F_STR_STATUS_HOLDING, F_STR_STATUS_FENCED, F_STR_STATUS_PWR,
   F_STR_CMD_RESULT, F_STR_CMD_SEQ, F_STR_CMD_CMD,
   F_STR_LINK_DOWN, F_STR_LINK_REPLAYS, F_STR_LINK_CE,
   F_STR_PROBE_CTL_DROPS]

def allFields10 : List Field :=
  [F_STR_PROBE_CTL_SAMPLE, F_STR_PROBE_CTL_EVT, F_STR_PROBE_CTL_PORT,
   F_STR_PROBE_CTL_TRACE, F_STR_PROBE_CTL_EN, F_STR_PROBE_MATCH_VALUE,
   F_STR_PROBE_MASK_VALUE, F_STR_PROBE_CNT_COUNT, F_TRACE_RING_TRACE_PART,
   F_TRACE_RING_SIZE_4K, F_TRACE_RING_BASE_4K, F_TRACE_STATUS_RING_DROPS,
   F_TRACE_STATUS_TAIL, F_TRACE_STATUS_HEAD, F_PART_STATUS_SEC_REFUSALS,
   F_PART_STATUS_SECURE_IMAGE, F_PART_STATUS_STATE, F_PART_QUOTA_LIMIT,
   F_PART_QUOTA_STATUS_FRAG_WAITS, F_PART_QUOTA_STATUS_OVER, F_PART_PWR_REQ_RESULT,
   F_PART_PWR_REQ_SEQ, F_PART_PWR_REQ_UNIT, F_PART_PWR_REQ_KIND,
   F_PART_PWR_REQ_ACTION, F_OWNW_SQ0_SQ, F_OWNW_SQ1_SQ,
   F_OWNW_GATE_GATE, F_OWNW_ENG_ENG, F_OWNW_MISC_RBT,
   F_TS_CONFIG_RESTARTS, F_TS_CONFIG_TIMEOUT_MS, F_TS_CONFIG_MGR_PART,
   F_TS_CONFIG_STATE, F_TS_PORT_RESULT, F_TS_PORT_SEQ,
   F_TS_PORT_ADDR, F_HOST_LINK_CFG_SRIS, F_HOST_LINK_CFG_MAX_SPEED,
   F_HOST_LINK_STATUS_DOWN_COUNT]

def allFields11 : List Field :=
  [F_HOST_LINK_STATUS_WIDTH, F_HOST_LINK_STATUS_SPEED, F_HOST_LINK_STATUS_READY,
   F_HOST_LINK_STATUS_PERST, F_HOST_LINK_STATUS_DL_UP, F_HOST_ERR_UNEXP_CPL,
   F_HOST_ERR_POISON_IN, F_HOST_ERR_WR_DROPPED, F_HOST_ERR_FORCED,
   F_HOST_PF_CFG_VF_BAR2_LOG2, F_HOST_PF_CFG_BAR2_LOG2, F_HOST_OUT_HOST_4G,
   F_HOST_OUT_EN, F_HOST_OUT_NOSNOOP, F_HOST_OUT_RELAXED,
   F_HOST_OUT_FUNC, F_HOSTFN_STATUS_RD_OUT, F_HOSTFN_STATUS_QUIESCED,
   F_HOSTFN_STATUS_QUIESCING, F_HOSTFN_STATUS_FLR, F_HOSTFN_STATUS_D3,
   F_HOSTFN_STATUS_BME, F_HOSTFN_STATUS_MSE, F_HOSTFN_STATUS_PRESENT,
   F_HOSTFN_CTRL_RESULT, F_HOSTFN_CTRL_SEQ, F_HOSTFN_CTRL_CMD,
   F_HOSTFN_CFG_RD_MAX, F_HOSTFN_HOF_BUF_BASE, F_HOSTFN_HOF_CPL_BASE,
   F_HOSTFN_HOF_CFG_EN, F_HOSTFN_HOF_CFG_VECTOR, F_HOSTFN_HOF_CFG_BUF_LEN,
   F_HOSTFN_HOF_CFG_CPL_LOG2, F_HOSTFN_HOF_CFG_BUF_LOG2, F_HOSTFN_HOF_PTR_BUF_TAIL,
   F_HOSTFN_HOF_PTR_BUF_HEAD, F_HOSTFN_HOF_PTR_CPL_HEAD, F_HOSTFN_HOF_PTR_CPL_TAIL,
   F_HOSTFN_DOORBELL_BITS]

def allFields12 : List Field :=
  [F_HOSTFN_MSIX_RAISE_VECTOR, F_HOSTFN_DLOG_BASE_BASE, F_HOSTFN_DLOG_CFG_RESULT,
   F_HOSTFN_DLOG_CFG_SEQ, F_HOSTFN_DLOG_CFG_OVERFLOW, F_HOSTFN_DLOG_CFG_SIZE_LOG2,
   F_HOSTFN_DLOG_CFG_PAGE, F_HOSTFN_DLOG_CFG_CMD, F_HOSTFN_DLOG_CFG_EN,
   F_HOSTFN_DLOG_PTR_TAIL, F_HOSTFN_DLOG_PTR_HEAD, F_HOSTFN_WIN_MAP_EN,
   F_HOSTFN_WIN_MAP_SECURE, F_HOSTFN_WIN_MAP_READ, F_HOSTFN_WIN_MAP_WRITE,
   F_HOSTFN_WIN_MAP_SIZE_4K, F_HOSTFN_WIN_MAP_OFFSET_4K, F_HOSTFN_WINA_MAP_EN,
   F_HOSTFN_WINA_MAP_SECURE, F_HOSTFN_WINA_MAP_READ, F_HOSTFN_WINA_MAP_WRITE,
   F_HOSTFN_WINA_MAP_SIZE_4K, F_HOSTFN_WINA_MAP_OFFSET_4K, F_HOSTFN_WIN_TGT_TGT_4K,
   F_HOSTFN_WINA_TGT_TGT_4K, F_HOSTFN_WIN_COMMIT_RESULT, F_HOSTFN_WIN_COMMIT_SEQ,
   F_HOSTFN_WIN_COMMIT_CMD, F_BLVD_CFG_E2E_US, F_BLVD_CFG_MGMT_EN,
   F_BLVD_ADDR_CONFLICT, F_BLVD_ADDR_SOURCE, F_BLVD_ADDR_ADDR,
   F_BLVD_ERR_NO_ROUTE, F_BLVD_ERR_HOPS_EXCEEDED, F_BLVD_ERR_RX_REFUSED,
   F_BLVD_ERR_LATE_ACK, F_BLVD_RXWIN_MAP_EN, F_BLVD_RXWIN_MAP_SECURE,
   F_BLVD_RXWIN_MAP_PART]

def allFields13 : List Field :=
  [F_BLVD_RXWIN_MAP_SRC, F_BLVD_RXWIN_MAP_SRC_ANY, F_BLVD_RXWIN_MAP_SIZE_4K,
   F_BLVD_RXWIN_MAP_OFFSET_4K, F_BLVD_RXWIN_TGT_TGT_4K, F_BLVD_LAND_SIZE_4K,
   F_BLVD_LAND_BASE_4K, F_BLVD_LAND_STATUS_FULL, F_BLVD_LAND_STATUS_HEAD,
   F_BLVD_LAND_STATUS_TAIL, F_BLVD_FREE_ADDR, F_BLVD_ROUTE_VALID,
   F_BLVD_ROUTE_GATE, F_BLVD_ROUTE_BUNDLE, F_BLVD_BUNDLE_WR_LOST,
   F_BLVD_BUNDLE_REPLAYS, F_BLVD_BUNDLE_CRC_ERR, F_BLVD_BUNDLE_DOWNS,
   F_BLVD_BUNDLE_STATE, F_BLVD_NBR_VALID, F_BLVD_NBR_HELLO,
   F_INT_SRC_CFG_SECURE, F_INT_SRC_CFG_MASK, F_INT_SRC_CFG_PRIORITY,
   F_INT_SRC_CFG_LEVEL, F_INT_SRC_CFG_CORE, F_INT_SRC_CFG_TIME,
   F_INT_SRC_CFG_COUNT, F_INT_SRC_CFG_OWNED, F_INT_SRC_CFG_OWNER,
   F_INT_SRC_STATE_PENDING, F_INT_SRC_STATE_IN_FLIGHT, F_INT_SRC_STATE_ORPHANED,
   F_INT_SRC_STATE_EVENTS, F_INT_SRC_STATE_CLEAR, F_INT_CTRL_ALL_DISABLE,
   F_INT_CTRL_DISABLE, F_INT_ORPHAN_CORE, F_INT_GPI_CFG_LEVEL,
   F_INT_GPI_CFG_EDGE]

def allFields14 : List Field :=
  [F_INT_GPI_CFG_FILTER, F_CORE_ICLAIM_M_VALID, F_CORE_ICLAIM_M_SOURCE,
   F_CORE_ICLAIM_S_VALID, F_CORE_ICLAIM_S_SOURCE, F_CORE_ICLAIM_SEC_VALID,
   F_CORE_ICLAIM_SEC_SOURCE, F_QMC_PMU_CTL_OVF, F_QMC_PMU_CTL_PART,
   F_QMC_PMU_CTL_PART_EN, F_QMC_PMU_CTL_EN, F_QMC_PMU_CTL_EVT,
   F_GATE_PMU_CTL_OVF, F_GATE_PMU_CTL_PART, F_GATE_PMU_CTL_PART_EN,
   F_GATE_PMU_CTL_EN, F_GATE_PMU_CTL_EVT, F_ENG_PMU_CTL_OVF,
   F_ENG_PMU_CTL_PART, F_ENG_PMU_CTL_PART_EN, F_ENG_PMU_CTL_EN,
   F_ENG_PMU_CTL_EVT, F_RBT_PMU_CTL_OVF, F_RBT_PMU_CTL_PART,
   F_RBT_PMU_CTL_PART_EN, F_RBT_PMU_CTL_EN, F_RBT_PMU_CTL_EVT,
   F_QMC_PMU_CNT_COUNT, F_GATE_PMU_CNT_COUNT, F_ENG_PMU_CNT_COUNT,
   F_RBT_PMU_CNT_COUNT, F_PMU_GLOBAL_FREEZE, F_KYD_STATUS_TEST,
   F_KYD_STATUS_RETURNED, F_KYD_STATUS_RTC_VALID, F_KYD_STATUS_TEST_OPEN,
   F_KYD_STATUS_SERVICE_WRITE, F_KYD_STATUS_UNPROTECTED, F_KYD_STATUS_TS_FAILED,
   F_KYD_RTC_SECONDS]

def allFields15 : List Field :=
  [F_KYD_RTC_FRACTION, F_KYD_MBOX_RESULT, F_KYD_MBOX_SEQ,
   F_KYD_MBOX_ADDR, F_KYD_ELOG_MIRROR_PART, F_KYD_ELOG_MIRROR_SIZE_4K,
   F_KYD_ELOG_MIRROR_BASE_4K, F_KYD_ELOG_SEQ_FLUSHED, F_KYD_ELOG_SEQ_NEXT]

/-- Every field, in the order of their numbers. -/
def allFields : List Field :=
  allFields1 ++ allFields2 ++ allFields3 ++ allFields4 ++ allFields5 ++ allFields6 ++ allFields7 ++ allFields8 ++ allFields9 ++ allFields10 ++ allFields11 ++ allFields12 ++ allFields13 ++ allFields14 ++ allFields15

/-- The fields of a register. -/
def Reg.fields (r : Reg) : List Field := allFields.filter fun f => f.reg == r.id

/-- The register of a field. -/
def Field.register (f : Field) : Reg := (allRegs[f.reg]?).getD R_MODE_STATUS

/-- Key of element `j` of instance `i` of a field in the register table. -/
def Field.key (f : Field) (i j : Nat) : Nat := (f.id * 65536 + i % 65536) * 65536 + j % 65536

end Sys2Proof.Machine
end

