-- ==== Sys2Proof/Machine/State.lean ====
section
/-!
DEFINITION. The state of the block as plain data, the state after reset, and the reasons a step can stop.
-/

namespace Sys2Proof.Machine

/-- One supply input at J5 as R49 sees it: its voltage in millivolts, its validity and surge state. -/
structure InputPin where
  mv : Int := 0
  valid : Bool := false
  surge : Bool := false
  /-- its own 1 ms average in millivolts (R53, R59); for an input the module does not draw from, its last voltage (log 44) -/
  avg : Nat := 0
  deriving DecidableEq, Repr

/-- The states of the TAP controller (R40, IEEE 1149.1). -/
inductive TapState where
  | testLogicReset | runTestIdle
  | selectDr | captureDr | shiftDr | exit1Dr | pauseDr | exit2Dr | updateDr
  | selectIr | captureIr | shiftIr | exit1Ir | pauseIr | exit2Ir | updateIr
  deriving DecidableEq, Repr

/-- Supply inputs, hold-up store, limiter and pins of J5 and J6 (02). -/
structure Supply where
  /-- input A (R49, R51, R52) -/
  pinA : InputPin := {}
  /-- input B (R49, R51, R52) -/
  pinB : InputPin := {}
  /-- the input the module draws from (R58) -/
  selected : Option Input := none
  /-- V_in, the 1 ms average of the selected input (R53) -/
  vin : Nat := 0
  /-- modes V_in permits, with the hysteresis of its thresholds (R56) -/
  voltOk : Nat := 3
  /-- both inputs were lost since the last power-good (R84) -/
  lostBoth : Bool := true
  /-- power-good holds (R50) -/
  powerGood : Bool := false
  /-- the power-fail sequence is running (R60) -/
  powerFail : Bool := false
  /-- the input a running switch-over transfers to (R59) -/
  switchTo : Option Input := none
  /-- V_in on the new input is still being averaged (R62) -/
  avgWait : Bool := false
  /-- core clock the limiter sets (R54, R68) -/
  coreMhz : Nat := 3200
  /-- bound that the junction temperature sets on the core clocks; below 3.6 GHz while they step down or back up (R68) -/
  thermCap : Nat := 3600
  /-- consecutive 1 µs samples of the input power above P_env (R53) -/
  overFor : Nat := 0
  /-- the samples of the last 100 ms, newest first, in milliwatts (R53) -/
  samples : List Nat := []
  /-- the limiter lowers the engines' issue rate (R54) -/
  engLimited : Bool := false
  /-- surges seen (also in the lifetime records) (R52) -/
  surges : Nat := 0
  /-- switch-overs (also in the lifetime records) (R61) -/
  switchOvers : Nat := 0
  /-- hottest junction last measured (R68) -/
  junctionMc : Int := 25000
  /-- module time since which every junction has been below 98 degrees (R96) -/
  coolSince : Option Nat := some 0
  /-- 95 degree action active: core clocks stepping down (R68) -/
  throttle : Bool := false
  /-- 100 degree action active: engines at half issue rate (R68) -/
  hot100 : Bool := false
  /-- a thermal trip has occurred and has not been ended (R68) -/
  trip : Bool := false
  /-- inlet-temperature warning reported (R70) -/
  inletWarn : Bool := false
  /-- regulators out of regulation (R451) -/
  railFault : Nat := 0
  /-- MOD_ID as last sampled (open straps read 1) (R39) -/
  modId : BitVec 12 := 0xFFF
  /-- BOOT_SEL as last sampled (R39) -/
  bootSel : Bool := true
  /-- mated with a carrier (R37) -/
  inserted : Bool := false
  /-- alarm conditions Kydin asserts (R48, R545) -/
  alarmKydin : Nat := 0
  /-- SMB_ALERT_N driven low (R38, R552) -/
  smbAlert : Bool := false
  /-- instruction in the TAP (R40) -/
  jtagInsn : Option JtagInsn := none
  /-- state of the TAP controller (R40, IEEE 1149.1) -/
  tap : TapState := .testLogicReset
  /-- boundary-scan register: the update stage of the output cells (R40) -/
  scan : BitVec 23 := 0
  deriving DecidableEq, Repr

/-- The mode controller beside MODE_STATUS and MODE_REQUEST (03). -/
structure Modes where
  /-- cause of the running transition (R97) -/
  transCause : Nat := 6
  /-- the running transition is that of the write numbered by MODE_REQUEST.SEQ, whose RESULT it ends (R98) -/
  transReq : Bool := false
  /-- the queued request came from the spill input (R75) -/
  queueSpill : Bool := false
  /-- service hold set (R74) -/
  serviceHold : Bool := false
  /-- M1 was entered for a fall in voltage (R79) -/
  m1Fall : Bool := false
  /-- DRAM is in self-refresh (R71, R79, R86) -/
  dramRefresh : Bool := false
  /-- DRAM powered and trained (R71) -/
  dramActive : Bool := false
  /-- Kydin firmware verified since power-good (R122) -/
  fwVerified : Bool := false
  /-- a module warm reset is in progress (R85, R86) -/
  warmReset : Bool := false
  /-- startup steps done (R90) -/
  stepsDone : Nat := 0
  /-- Avenue waits for the first TURN after entry to M4 or M6 (R80) -/
  aveWaitTurn : Bool := false
  /-- an ingest stop is running (R81) -/
  stopping : Bool := false
  /-- only junction temperature was recorded since M7 entry (R96) -/
  containTempOnly : Bool := false
  /-- last filtered level of the spill input (R82) -/
  spillLevel : Option Bool := none
  /-- link dies that a fatal record named as its cause and that have not been powered again: bit 0 south, 1 north, 2 west, 3 east
  (R47, R95) -/
  deadDies : Nat := 0
  /-- the transition waits at a step boundary for a switch-over (R62) -/
  pausedBySwitch : Bool := false
  deriving DecidableEq, Repr

/-- The six states of an image slot, in the codes of BOOT_STATUS (R136). -/
inductive SlotState where
  | empty | new | trial | good | bad | invalid
  deriving DecidableEq, Repr

/-- One image slot or Kydin slot of a NOR part: its bytes (a listed byte differs from the erased 0xFF) and its slot state. -/
structure Slot where
  bytes : List (Nat × BitVec 8) := []
  state : SlotState := .empty
  trials : Nat := 0
  deriving DecidableEq, Repr

/-- One 64-byte entry of the measurement log (R130). -/
structure LogEntry where
  index : Nat
  event : Nat
  source : Nat
  type : Nat
  slot : Nat
  digest : List (BitVec 8)
  deriving DecidableEq, Repr

/-- What the running image says of one partition (R112). -/
structure PartCfg where
  present : Bool := false
  squares : Nat := 0
  quarters : Nat := 0
  interleave : Nat := 0
  numVf : Nat := 0
  gates : Nat := 0
  blvdGates : Nat := 0
  flowFirst : Nat := 0
  flowCount : Nat := 0
  engines : Nat := 0
  qpFirst : Nat := 0
  qpCount : Nat := 0
  /-- SHARE records: quarter, base and size in 256 MiB units. -/
  shares : List (Nat × Nat × Nat) := []
  /-- Entry address of the normal and of the secure CORE_IMAGE. -/
  entryN : Option Nat := none
  entryS : Option Nat := none
  /-- the partition's big cores have been started once (R125) -/
  started : Bool := false
  deriving DecidableEq, Repr

/-- The state of a component update session (R134). -/
inductive Update where
  | idle
  | microcode (engines version : Nat)
  | seqFirmware (gates load entry : Nat) (code : List (BitVec 8))
  deriving DecidableEq, Repr

/-- NOR parts, selection, image, fuses and measurement log (04). -/
structure Boot where
  /-- image slot A (R103, R120) -/
  imgA : Slot := {}
  /-- image slot B (R103, R120) -/
  imgB : Slot := {}
  /-- Kydin slot A (R103, R122) -/
  kydA : Slot := {}
  /-- Kydin slot B (R103, R122) -/
  kydB : Slot := {}
  /-- the selected Kydin slot (R105, R122) -/
  kydRunning : Option Bool := none
  /-- the selected image slot (R105, R120) -/
  imgRunning : Option Bool := none
  /-- BOOT_ONCE (R120) -/
  bootOnce : Option Bool := none
  /-- the part is JM-OMV1024-384 (a fixed property of the part) (R1, R2) -/
  partIs384 : Bool := false
  /-- anti-rollback fuse counter (R128) -/
  fuseSvn : Nat := 0
  /-- fused digests of the four key slots (R109) -/
  keyDigests : List (List (BitVec 8)) := [[],[],[],[]]
  /-- revocation bits (R109) -/
  keyRevoked : Nat := 0
  /-- chain values H0 to Hn found at verification (R108, R123) -/
  chain : List (List (BitVec 8)) := []
  /-- measurement value M (R130) -/
  meas : List (BitVec 8) := (List.replicate 48 0)
  /-- measurement log (R130, R132) -/
  log : List LogEntry := []
  /-- INDEX of the next log entry (R130) -/
  logIndex : Nat := 0
  /-- boot part of the log closed (R131) -/
  logClosed : Bool := false
  /-- entries in the boot part (R131) -/
  bootLen : Nat := 0
  /-- trigger partition (R113, R24) -/
  trigPart : Nat := 0
  /-- partition layout of the running image (R112) -/
  parts : Tab PartCfg := []
  /-- quota limits the image set (KIND), beside PART_QUOTA (R116, R454) -/
  quotaLimits : Tab Nat := []
  /-- running component update (R134) -/
  update : Update := .idle
  /-- partitions (bit p) whose running reset met a component update of theirs (R135) -/
  metUpdate : Nat := 0
  /-- firmware images loaded (R111, R134) -/
  fw : Tab (List (BitVec 8)) := []
  /-- CHAIN that each firmware was measured under (R461) -/
  fwChain : Tab (List (BitVec 8)) := []
  /-- 256 TYPE + SLOT of the source of each firmware (R130, R461) -/
  fwFrom : Tab Nat := []
  /-- load addresses of hub small cores (R111, R134) -/
  fwLoad : Tab Nat := []
  /-- entry points of hub small cores (R111, R134) -/
  fwEntry : Tab Nat := []
  /-- entry points of gate sequencers (R111, R134) -/
  seqEntry : Tab Nat := []
  /-- the image's records have been applied (R123) -/
  recordsDone : Bool := false
  deriving DecidableEq, Repr

/-- A 48-bit crossing stamp: turn count (32 bits) and crossing number (16 bits), R151. -/
structure Stamp where
  turn : Nat := 0
  crossing : Nat := 0
  deriving DecidableEq, Repr

/-- A 36-bit readout word the gate keeps, with its stamp, lane and whether it is a fragment header. -/
structure KWord where
  word : BitVec 36
  stamp : Stamp
  deriving DecidableEq, Repr

/-- A valid fragment header in force on a lane (R150, R153). -/
structure Header where
  stamp : Stamp
  remaining : Nat
  late : Bool
  /-- the last word of the crossing so far has PAIR -/
  pair : Bool := false
  deriving DecidableEq, Repr

/-- Crossing clock and module time beside the TIMING registers (05). -/
structure Timing where
  /-- CLK_X rising edges since the last loss of lock, newest first, at most 1,025 (R163) -/
  edges : List Nat := []
  /-- periods since the last TURN sampled high, within those edges (R163, R165) -/
  sinceTurn : Option Nat := none
  /-- lock has been gained since the last module reset (R165) -/
  everLocked : Bool := false
  /-- a TURN error was counted at the end of the last turn (R163) -/
  errTurn : Bool := false
  /-- crossing 0 of the turn at which Avenue started (R80, R177) -/
  aveStart : Option Stamp := none
  deriving DecidableEq, Repr

/-- A lane of a gate: receiver, framer, training and downlink output (05). The lane's state itself is LANE_STATUS.STATE. -/
structure Lane where
  /-- descrambler history: the last 58 received bits, newest in bit 0 (R142) -/
  hist : BitVec 58 := 0
  /-- consecutive valid sync headers toward block lock (R144) -/
  goodRun : Nat := 0
  /-- blocks since block lock, for the 1,024-block window (R144) -/
  blocks : Nat := 0
  /-- numbers of the blocks with an invalid sync header in the window, newest first -/
  badAt : List Nat := []
  /-- the receiver has aligned at an ALIGN since block lock (R148) -/
  aligned : Bool := false
  /-- superframes begun since the last ALIGN, modulo 65,536 (R148) -/
  sfCount : Nat := 0
  /-- descrambled payloads of the data blocks of the current superframe, oldest first (R145) -/
  sf : List (BitVec 64) := []
  /-- an invalid sync header fell in the current superframe (R144) -/
  sfBad : Bool := false
  /-- number of the current superframe on this lane, for the verdict (R201) -/
  sfNum : Nat := 0
  /-- kept words of the current superframe (R168), oldest first -/
  kept : List KWord := []
  /-- fragment header in force (R150) -/
  hdr : Option Header := none
  /-- the lane is in its training window (R569) -/
  trainWin : Bool := false
  /-- the lane has entered ALIGNED in this training window, whose DL_TIMEOUT runs (R569) -/
  winTimer : Bool := false
  /-- the training timeout has passed since the lane last aligned (R91, R160) -/
  timedOut : Bool := false
  /-- last block the downlink sent: TYPE and 48-bit BODY (R155, R156) -/
  sent : Option (Nat × Nat) := none
  /-- that block on the wire: sync header, bit 1 sent first, and scrambled payload (R142, R143) -/
  wire : Option (BitVec 2 × BitVec 64) := none
  /-- scrambler history of the downlink: the last 58 bits sent, newest in bit 0 (R142) -/
  txHist : BitVec 58 := 0
  /-- SEND_ALIGN of training waits for a downlink slot (R569) -/
  sendAlign : Bool := false
  /-- equaliser coefficients: one CTLE step, eight DFE taps, three FFE taps (R161) -/
  eq : List Int := List.replicate 12 0
  deriving DecidableEq, Repr

/-- One 131-byte holding-buffer record: the kept words of one superframe of one lane (R168). -/
structure HbRec where
  lane : Nat
  words : List KWord
  deriving DecidableEq, Repr

/-- A TURN or MARK block due on the downlinks of a gate (R156, R157). -/
structure Marker where
  isTurn : Bool
  crossing : Nat
  turn : Nat
  phase : Nat
  /-- block boundary at which it leaves, in 1/12800 ns (R157) -/
  due : Nat
  /-- lanes that have already sent it -/
  sent : Nat
  deriving DecidableEq, Repr

/-- The command a gate has to send on its downlinks (R158). -/
structure DlCmd where
  tag : Nat
  opcode : Nat
  arg : Nat
  /-- lanes still to send it -/
  lanes : Nat
  deriving DecidableEq, Repr

/-- One match-table entry in one copy (R115, R175). -/
structure MtEntry where
  key : BitVec 36 := 0
  mask : BitVec 36 := 0
  prio : Nat := 0
  prim : Nat := 0
  valid : Bool := false
  deriving DecidableEq, Repr

/-- What a match-table command does (R178, R179, R182): the commands of AVE_MT_CMD, and an entry of a MATCH_TABLE package. -/
inductive MtOp where
  | write
  | invalidate
  | read (copy : Nat)
  | insert
  | put (e : MtEntry)
  deriving DecidableEq, Repr

/-- A match-table command that waits for its gate cycle, and the SEQ it answers (none: Kydin's own) (R178, R182). -/
structure MtWait where
  op : MtOp
  addr : Nat
  seq : Option Nat
  deriving DecidableEq, Repr

/-- A running INSERT: its address A, the first invalid entry E, the captured entry, the gate cycles done of E - A + 1, and the SEQ it
answers (R179). -/
structure Insert where
  at_ : Nat
  empty : Nat
  key : BitVec 36
  mask : BitVec 36
  prio : Nat
  prim : Nat
  valid : Bool
  step : Nat := 0
  seq : Nat := 0
  deriving DecidableEq, Repr

/-- A fragment of a gate from its OPEN to its report: event, ring offset, bytes, FLAGS, the bytes issued so far (none before its first write),
the issued writes that wait for a fragment slot as offset, length and place in the order of arrival, and whether a write was refused
(R20, R217, R218, R226, R453, R570). -/
structure FragOut where
  stamp : Stamp
  evseq : Nat
  offset : Nat := 0
  bytes : List (BitVec 8)
  flags : Nat
  sent : Option Nat := none
  waits : List (Nat × Nat × Nat) := []
  refused : Bool := false
  deriving DecidableEq, Repr

/-- A message of Roundabout to a gate (R215, R217, R221); the Bool of OPEN is the crossing's R207 mark. -/
inductive GateMsg where
  | opn (stamp : Stamp) (evseq : Nat) (marked : Bool)
  | drop (stamp : Stamp)
  | cancel (evseq : Nat)
  deriving DecidableEq, Repr

/-- A fragment of the gate's ring that Roundabout still holds or has freed: offset and length in the ring (R218). -/
structure RingFrag where
  offset : Nat
  len : Nat
  freed : Bool
  deriving DecidableEq, Repr

/-- What a gate keeps of a fragment header of one lane (0 to 15 its own, 16 to 31 its partner's): stamp, FE_STATUS, P, and whether
the lane delivered fewer words than COUNT (R150, R153, R226). -/
structure LaneHdr where
  lane : Nat
  stamp : Stamp
  fe : Nat
  poison : Bool
  short : Bool := false
  deriving DecidableEq, Repr

/-- A gate beside its registers (05, 07). -/
structure Gate where
  /-- holding buffer, oldest record first (R168) -/
  hb : List HbRec := []
  /-- crossings that lost words to a full buffer (R170) -/
  lostWords : List Stamp := []
  /-- headers of the crossings not yet written or discarded, oldest first (R150, R226) -/
  hdrs : List LaneHdr := []
  /-- markers due, oldest first (R156) -/
  markers : List Marker := []
  /-- due boundary of the last TURN sent (R156) -/
  lastTurn : Option Nat := none
  /-- commands still to go out as CMD blocks, oldest first (R158) -/
  dl : List DlCmd := []
  /-- lane and TAG of the pending command (R158) -/
  dlLane : Option (Nat × Nat) := none
  /-- TAG of the latest broadcast (R569) -/
  bcast : Option Nat := none
  insert : Option Insert := none
  /-- match-table commands that wait for their gate cycle, oldest first (R178, R182) -/
  mtWait : List MtWait := []
  /-- the first gate cycle in which a match-table command may take effect (R178) -/
  mtFree : Nat := 0
  /-- the gate cycle in which entries last changed, and the entries searches still see in it: address, copies 0 to 2 (R178) -/
  mtOld : Nat × List (Nat × MtEntry × MtEntry × MtEntry) := (0, [])
  /-- lanes of both gates that were sent HALF_RATE in a takeover that runs: own, partner (R172) -/
  takeover : Option (Nat × Nat) := none
  /-- a RELEASE runs: lanes of both gates that were sent HALF_RATE with ARG 0: own, partner (R172) -/
  release : Option (Nat × Nat) := none
  /-- TAG of the HALF_RATE sent last, and the lanes of this gate whose ACK to it has not come (R172) -/
  halfRate : Nat × Nat := (0, 0)
  /-- what the latest GATE_CTRL command runs, while RESULT reads RUNNING for it: RECAL of lane 0 to 15, 16 a takeover or a release (R174) -/
  ctrlRun : Option Nat := none
  /-- the gate cycle in which its framer last took a word, and the words it took in it (R173) -/
  framed : Nat × Nat := (0, 0)
  /-- lanes left DOWN because HALF_RATE was not acknowledged (R172) -/
  takeoverFails : Nat := 0
  /-- the last superframe found no record (R170) -/
  ovf : Bool := false
  /-- OPEN, DROP and CANCEL messages not yet handled, oldest first (R217, R221) -/
  msgs : List GateMsg := []
  frag : Option FragOut := none
  ring : List RingFrag := []
  /-- a gate reset waits for the load of its sequencer (R135) -/
  resetWait : Bool := false
  /-- the gate has been reset and has not regained superframe alignment (R88) -/
  realign : Bool := false
  /-- the gate waits for ring room (R218) -/
  stalled : Bool := false
  retired : Bool := false
  deriving DecidableEq, Repr

/-- The 64 gates and 1,024 serial lanes (05). -/
structure Lanes where
  /-- receiver, framer, training and downlink of each serial lane (key 16 g + k) (R142 to R162) -/
  lane : Tab Lane := []
  /-- holding buffer, downlink command, markers, takeover and fragments of each gate (R156 to R173, R217, R218) -/
  gate : Tab Gate := []
  /-- trained equaliser values in the NOR service area (R161) -/
  eqStored : Tab (List Int) := []
  deriving DecidableEq, Repr

/-- One matrix input in one copy: whether it is true, the last gate cycle of its stretch, the stamp it carries, and the superframes
(lane, number) of the words that raised it since it last became true and have not yet passed their CRC (R185, R186, R201). -/
structure InputDyn where
  on : Bool := false
  last : Nat := 0
  stamp : Stamp := {}
  unproved : List (Nat × Nat) := []
  deriving DecidableEq, Repr

/-- A primitive on its way to the matrix: the gate cycle in which it arrives, its gate, the input it raises, the stamp of its word,
and the superframe (lane, number) of the word until that has passed its CRC (R184, R186, R194, R201). -/
structure Raise where
  due : Nat
  gate : Nat
  prim : Nat
  stamp : Stamp
  unproved : List (Nat × Nat)
  deriving DecidableEq, Repr

/-- A trigger bit whose local terms fired in a gate cycle: the stamp a firing of it accepts and the superframes behind it that are not
yet proved (R190, R201, R208). -/
structure LocalBit where
  bit : Nat
  stamp : Stamp
  unproved : List (Nat × Nat)
  deriving DecidableEq, Repr

/-- What one copy made of a gate cycle: trigger bits, MATCH_OUT, the bits that fired, the acceptances (trigger bit, stamp) and the
superframes behind the true bits that are not yet proved (R188 to R190, R201, R208). -/
structure CopyOut where
  tb : Nat := 0
  mo : Bool := false
  fires : Nat := 0
  accs : List (Nat × Stamp) := []
  unproved : List (Nat × Nat) := []
  deriving DecidableEq, Repr

/-- The standing acceptances of one crossing (R196): trigger bits whose acceptance stands, ACCEPT, and the R207 mark. -/
structure AccRec where
  stamp : Stamp
  tbs : List Nat
  ext : Bool
  marked : Bool
  deriving DecidableEq, Repr

/-- A trigger cycle whose TRIG_QUAL is still to come (R201): its moment in 1/5 gate cycle, the superframes behind the cycle not yet
proved, whether a two-copy disagreement touched it, and the acceptances each trigger bit made in it. -/
structure QualWait where
  due : Nat
  /-- some trigger bit was true -/
  fired : Bool
  unproved : List (Nat × Nat)
  disagreed : Bool
  accepted : List (Nat × Stamp)
  deriving DecidableEq, Repr

/-- The state of one of Avenue's three copies that is not configuration (R203). -/
structure AveCopy where
  inputs : Tab InputDyn := []
  /-- primitives on their way to the matrix (R194) -/
  flight : List Raise := []
  /-- per trigger bit, the value that may accept in the last gate cycle, before OUT_WIDTH (R189, R208) -/
  may : Nat := 0
  /-- the local values of the trigger bits formed in each of the last 14 gate cycles, newest first: the position delay (R208) -/
  past : List (List LocalBit) := []
  /-- product terms that fired in the last gate cycle, bit t for term t (R187, R194) -/
  terms : Nat := 0
  /-- the inputs that were true in that cycle, with the stamps they carried (R190, R194) -/
  seen : Tab InputDyn := []
  /-- what the copy made of the last gate cycle, on its way to the pins (R194) -/
  out : CopyOut := {}
  /-- the copy's outputs before OUT_WIDTH: bits 0 to 15 TRIG_OUT, 16 TRIG_QUAL, 17 MATCH_OUT (R188, R201, R208) -/
  raw : Nat := 0
  /-- the moment, in 1/5 gate cycle and plus 1, at which the copy's present pulse on TRIG_OUT (0 to 15) or TRIG_QUAL (16) began (R188) -/
  pulse : Tab Nat := []
  /-- firings since the last accepting one, per trigger bit (R189); 0 accepts -/
  prescale : Tab Nat := []
  /-- trigger cycles whose TRIG_QUAL is still to come, oldest first (R201) -/
  quals : List QualWait := []
  /-- crossings with a standing acceptance that its unit has not yet sent on (R195, R196) -/
  acc : List AccRec := []
  /-- the latest crossing whose acceptance is final in its unit; every earlier one is final too (R197) -/
  final : Option Stamp := none
  /-- Q of its active set in 125 ps steps (R202) -/
  q : Nat := 328
  deriving DecidableEq, Repr

/-- Match tables, the three copies of the matrix, acceptance and the output pins (06). -/
structure Avenue where
  /-- match tables, copy 0 (key 1024 g + address) (R175, R203) -/
  mt0 : Tab MtEntry := []
  /-- match tables, copy 1 (R175, R203) -/
  mt1 : Tab MtEntry := []
  /-- match tables, copy 2 (R175, R203) -/
  mt2 : Tab MtEntry := []
  /-- active set, copy 0 (key of the register field) (R191, R203) -/
  act0 : Tab Nat := []
  /-- active set, copy 1 (R191, R203) -/
  act1 : Tab Nat := []
  /-- active set, copy 2 (R191, R203) -/
  act2 : Tab Nat := []
  /-- matrix copy 0 (R184 to R190, R203) -/
  cp0 : AveCopy := {}
  /-- matrix copy 1 (R184 to R190, R203) -/
  cp1 : AveCopy := {}
  /-- matrix copy 2 (R184 to R190, R203) -/
  cp2 : AveCopy := {}
  /-- crossings on whose acceptance two copies differed, not yet sent on (R207) -/
  marks : List Stamp := []
  /-- final accepted crossings waiting for their ACCEPTANCE_STAMP at Roundabout (R197, R215) -/
  accFinal : List AccRec := []
  /-- shadow writes that wait for a pending COMMIT (R192) -/
  waiting : List (Nat × Nat) := []
  /-- TRIG_OUT[15:0] as driven (R188) -/
  pinTb : Nat := 0
  /-- TRIG_QUAL as driven (R201) -/
  pinQual : Bool := false
  /-- MATCH_OUT as driven (R208) -/
  pinMatch : Bool := false
  /-- the level on MATCH_IN (R208) -/
  matchIn : Bool := false
  /-- the levels its input stage sampled in the last two gate cycles, newest first (R208) -/
  matchHist : List Bool := []
  /-- copies the voter ignores in the present gate cycle (R206) -/
  off : Nat := 0
  /-- the last disagreement: LAST_ODD and its last gate cycle (R204) -/
  disagree : Option (Nat × Nat) := none
  /-- the last gate cycle counted in PIN_DISAGREE and in ACC_DISAGREE, each plus 1 (R204) -/
  pinCycle : Nat := 0
  accCycle : Nat := 0
  /-- CRC verdicts on their way to the QUAL stage: gate cycle of arrival, superframe (lane, number) (R202) -/
  proofs : List (Nat × Nat × Nat) := []
  /-- SEQ of the pending COMMIT, and that a CLK_X edge has come for it (R191, R193) -/
  commitSeq : Nat := 0
  commitEdge : Bool := false
  /-- next entry of each gate's table scrub (R183) -/
  mtScrub : Tab Nat := []
  deriving DecidableEq, Repr

/-- What one gate reported for an assembly entry (R217, R219, R225). -/
inductive Report where
  | frag (addr len flags : Nat)
  | empty (incomplete : Bool)
  | partner
  deriving DecidableEq, Repr

/-- One assembly entry (R215 to R225). -/
structure AsmEntry where
  part : Nat
  stamp : Stamp
  evseq : Nat
  expect : Nat
  openTime : Nat
  closeTime : Nat := 0
  /-- tick at which the timer falls due (R220) -/
  due : Nat
  reports : Tab Report := []
  /-- none open; some true COMPLETE; some false TIMEOUT -/
  closed : Option Bool := none
  /-- its enqueue was refused and is being retried (R225) -/
  refused : Bool := false
  deriving DecidableEq, Repr

/-- An unfreed event of the directory: its slot and the fragments it names, as (gate, ring offset) (R227, R235). -/
structure Event where
  part : Nat
  evseq : Nat
  slot : Nat
  frags : List (Nat × Nat)
  deriving DecidableEq, Repr

/-- Where an item stands (R230 to R234): waiting, delivered, done, released with its action running, or that action completed. -/
inductive ItemState where
  | waiting
  | delivered (agent : Nat)
  | done (skip : Bool)
  | acting
  | complete
  deriving DecidableEq, Repr

/-- A work item on a flow (R229). -/
structure Item where
  arg0 : BitVec 64
  arg1 : BitVec 64
  arg2 : BitVec 64
  seq : Nat
  kind : Nat
  flags : Nat
  user : Nat
  at_ : Nat := 0
  onChip : Bool := true
  st : ItemState := .waiting
  /-- the DONE that completed the item carried KEEP (R235) -/
  keep : Bool := false
  deriving DecidableEq, Repr

/-- A flow context beside its registers: the next SEQ and the items not yet released, in SEQ order, and those whose release
action has been accepted by its target and has not completed (R233, R234). -/
structure Flow where
  enq : Nat := 0
  items : List Item := []
  /-- a release action was refused and is being retried -/
  stalled : Bool := false
  /-- SEQ of the head item while it is deliverable, and since when (R231, R232) -/
  readyAt : Option (Nat × Nat) := none
  deriving DecidableEq, Repr

/-- A timed item on delay list 1 to 7 (R242). -/
structure Timer where
  list : Nat
  index : Nat
  gen : Nat
  due : Nat
  part : Nat
  flow : Nat
  item : Item
  deriving DecidableEq, Repr

/-- A JOB_DONE or REMOTE item that waits at its producer (R239). -/
structure WaitItem where
  part : Nat
  flow : Nat
  item : Item
  deriving DecidableEq, Repr

/-- Roundabout: assembly table, directory, flows, delay lists and ticks (07). -/
structure Rbt where
  /-- assembly table, in order of opening (R215) -/
  entries : List AsmEntry := []
  /-- next EVSEQ of each partition (R216) -/
  evseq : Tab Nat := []
  /-- unfreed events (R227, R235) -/
  events : List Event := []
  /-- flow contexts and queues (R230, R231) -/
  flows : Tab Flow := []
  /-- timed items, in order of their ADDs (R242) -/
  timers : List Timer := []
  /-- generation of each timer entry (R242) -/
  timerGen : Tab Nat := []
  /-- tick boundaries since Roundabout first ran (R240) -/
  tick : Nat := 0
  /-- JOB_DONE items refused by their flow (R239) -/
  waitItems : List WaitItem := []
  /-- gate reports that wait at H1 while Roundabout is held, in arrival order: gate, EVSEQ, report (R249) -/
  waitReports : List (Nat × Nat × Report) := []
  deriving DecidableEq, Repr

/-- One memory quarter beside its QMC registers (08). -/
structure Quarter where
  /-- next quad-line of the patrol scrub (R268) -/
  scrubAt : Nat := 0
  /-- dirty 64 KiB granules of a retraining channel, ascending (R275) -/
  dirty : List Nat := []
  /-- lifetime re-silver number, and the channel it converts (R273) -/
  gen : Nat := 0
  rsChannel : Option Nat := none
  /-- the 32 bytes of its journal in retention SRAM (R273) -/
  journal : List (BitVec 8) := []
  /-- its sector of the NOR service area in part A and in part B, as far as it is written: checkpoints of 32 bytes (R273) -/
  ckptA : List (BitVec 8) := []
  ckptB : List (BitVec 8) := []
  /-- the lifetime record shows an unfinished re-silver (R274) -/
  rsOpen : Bool := false
  /-- marks that wait for catch-up to end, oldest first: channel and cause (R277) -/
  markWait : List (Nat × Nat) := []
  /-- module time of the last window start that a MARK_WINDOW_START stood for (R269) -/
  winAt : Nat := 0
  /-- a pass started by SCRUB_PASS runs (R268) -/
  scrubPass : Bool := false
  /-- first gate cycle at which a fragment slot can start again (R20) -/
  slotNext : Nat := 0
  deriving DecidableEq, Repr

/-- DRAM, poison and the contents of the LLC scratchpads (08, 12). -/
structure Mem where
  /-- DRAM as the decoded data bytes; an unlisted byte reads 0 (R90: initialised to zero with valid codewords) (R252, R264, R90) -/
  dram : List Host.Cell := []
  /-- beats that hold the poison marker, ascending (R254, R267) -/
  poison : List Nat := []
  /-- LLC scratchpad bytes (offset in the window) (R401, R402) -/
  scratch : List Host.Cell := []
  /-- scratchpad lines whose poison bit is set, ascending (offset in the window, div 64) (R394) -/
  scratchBad : List Nat := []
  deriving DecidableEq, Repr

/-- The 24 memory quarters beside their registers (08). -/
structure Quarters where
  /-- scrub, retraining, re-silver and journal state (R268 to R277) -/
  q : Tab Quarter := []
  deriving DecidableEq, Repr

/-- A stream lane inside the engine: payload, and tags T0 to T3 in bits 0 to 3 (R282). -/
structure Lane36 where
  v : BitVec 32
  t : BitVec 4
  deriving DecidableEq, Repr

/-- Where a job stands (R304 to R318). -/
inductive JobSt where
  | queued
  | running
  deriving DecidableEq, Repr

/-- A sender bound to a RECV channel: its engine and job, whether its END has come, and the flits of credit it holds (R299 to R301). -/
structure ExSender where
  engine : Nat
  handle : Nat
  /-- its local channel (R298, R301) -/
  ch : Nat
  ended : Bool := false
  credit : Nat
  deriving DecidableEq, Repr

/-- A registered RECV channel of a running job: its share of credit, its bound senders, and the lanes received (R299 to R301). -/
structure RecvCh where
  ch : Nat
  group : Nat
  peers : Nat
  share : Nat
  width : Nat
  senders : List ExSender := []
  lanes : List Lane36 := []
  deriving DecidableEq, Repr

/-- A SEND endpoint of a running job: local channel, receiving engine, its channel, effective group, the job it is bound to, and
whether its flits up to END have been made (R298, R299). -/
structure SendCh where
  ch : Nat
  peer : Nat
  peerCh : Nat
  group : Nat
  bound : Option Nat := none
  made : Bool := false
  deriving DecidableEq, Repr

/-- One outstanding job of a queue pair (R304). -/
structure Job where
  handle : Nat
  qp : Nat
  seq : Nat
  st : JobSt := .queued
  /-- job descriptor as read; empty where the read was refused (R308) -/
  desc : List (BitVec 8)
  descPoison : Bool := false
  /-- pipeline descriptor as read at start (R308) -/
  pipe : List (BitVec 8) := []
  startTime : Nat := 0
  sramUnits : Nat := 0
  ops : Nat := 0
  deflate : Bool := false
  /-- the STATUS and CAUSE that an accepted abort or an expired timeout gives its record (R314 to R320) -/
  ending : Option (Nat × Nat) := none
  recv : List RecvCh := []
  send : List SendCh := []
  /-- flow and item SEQ of the release action that submitted it, and that item's ARG2 (R234, R306) -/
  origin : Option (Nat × Nat × Nat) := none
  deriving DecidableEq, Repr

/-- A flit between engines that has not arrived (R300, R302): sending engine, receiving engine and channel, the job it goes to, the
job it comes from; `back` marks a BROKEN flit that a receiver sends to a sender. -/
structure ExFlit where
  src : Nat
  dst : Nat
  ch : Nat
  target : Nat
  source : Nat
  /-- the local channel it comes from (R301) -/
  srcCh : Nat
  back : Bool := false
  lanes : List Lane36
  fin : Bool
  broken : Bool
  deriving DecidableEq, Repr

/-- One column engine beside its registers (09). -/
structure Engine where
  jobs : List Job := []
  /-- queue pair that last started a job (R309) -/
  lastQp : Nat := 63
  /-- flits on their way on VC3, oldest first (R300) -/
  out : List ExFlit := []
  /-- a microcode version waits for running jobs to complete (R134) -/
  loadWait : Option Nat := none
  /-- an engine reset waits for a load (R135) -/
  resetWait : Bool := false
  deriving DecidableEq, Repr

/-- The 24 column engines beside their registers (09, 10). -/
structure Engines where
  /-- jobs, exchange channels and flits of each engine (R290, R304, R309) -/
  e : Tab Engine := []
  deriving DecidableEq, Repr

/-- The shadow bank: one normal-world architectural state (R374, R446). `full` says that x10 to x17 are held too (R446). -/
structure Shadow where
  x : List (BitVec 64) := List.replicate 32 0
  f : List (BitVec 64) := List.replicate 32 0
  v : List (BitVec 256) := List.replicate 32 0
  fcsr : BitVec 64 := 0
  vtype : BitVec 64 := 0
  vl : BitVec 64 := 0
  vstart : BitVec 64 := 0
  priv : Nat := 3
  virt : Bool := false
  pc : BitVec 64 := 0
  full : Bool := false
  deriving DecidableEq, Repr

/-- Predictor state of a big core (R379): direction counters away from their reset value, history, target buffer, return stack. -/
structure Predictor where
  dir : Tab Nat := []
  hist : BitVec 64 := 0
  target : Tab (BitVec 64) := []
  ras : List (BitVec 64) := []
  deriving DecidableEq, Repr

/-- A big core beside its CORE registers (11): x0 to x31, f0 to f31, v0 to v31, pc, the CSRs (key: number; the per-world
CSRs of R364 add 4,096 in the secure world), the LR/SC reservation (line, its fill, the instructions since its LR),
the shadow bank. -/
structure Core where
  pc : BitVec 64 := 0
  x : List (BitVec 64) := List.replicate 32 0
  f : List (BitVec 64) := List.replicate 32 0
  v : List (BitVec 256) := List.replicate 32 0
  csr : Tab (BitVec 64) := []
  resv : Option (Nat × Nat × Nat) := none
  shadow : Shadow := {}
  pred : Predictor := {}
  /-- world of the last write to HPMTAGRING (R539) -/
  tagSecure : Bool := false
  deriving DecidableEq, Repr

/-- A small core (R386): RV32 registers, CSRs, local SRAM bytes that differ from 0, for each nested handler, innermost
first, whether a stacking fault entered it and the interrupt line it serves, 16 for an exception (R389, R390). -/
structure SmallCore where
  pc : BitVec 32 := 0
  x : List (BitVec 32) := List.replicate 32 0
  csr : Tab (BitVec 32) := []
  user : Bool := false
  isram : List (Nat × BitVec 8) := []
  dsram : List (Nat × BitVec 8) := []
  frames : List (Bool × Nat) := []
  /-- bytes that the core has stored over since its last FENCE.I, by its own address, in their old form (R392) -/
  view : List (Nat × BitVec 8) := []
  deriving DecidableEq, Repr

/-- The 160 big cores and 69 small cores (11). -/
structure Cores where
  /-- architectural state of C0 to C159 (R359 to R375) -/
  big : Tab Core := []
  /-- architectural state of the small cores (R386 to R392) -/
  small : Tab SmallCore := []
  deriving DecidableEq, Repr

/-- The states of a line in a private cache (R410); a line not listed is in I. -/
inductive CState where
  | m | e | f | s
  deriving DecidableEq, Repr

/-- A cached line: 64 data bytes, poison bit (R394); for an LLC line dirty, locked, stale (R404), way and use order; for a line of an L2 when
it came, whether the L1D holds it too, and the bytes that the L1I took of it (R383, R393). -/
structure CacheLine where
  st : CState := .s
  data : List (BitVec 8) := List.replicate 64 0
  poison : Bool := false
  dirty : Bool := false
  locked : Bool := false
  stale : Bool := false
  way : Nat := 0
  use : Nat := 0
  born : Nat := 0
  l1d : Bool := false
  l1i : Option (List (BitVec 8)) := none
  deriving DecidableEq, Repr

/-- A coherent request (R411). -/
inductive CReq where
  | readShared | readUnique | upgrade | wbDirty | wbClean
  /-- a back-invalidation, which the home itself starts (R417) -/
  | backinv
  /-- the next line of a maintenance command (R407) -/
  | maint
  deriving DecidableEq, Repr

/-- A request that waits in an arbiter: line, kind, requester and arrival slot in mesh cycles (R414). -/
structure Waiter where
  line : Nat
  req : CReq
  core : Nat
  slot : Nat := 0
  deriving DecidableEq, Repr

/-- A maintenance command under way: partition and world it acts for, CMD, its next line, lines left, skipped and done, and the SEQ of its
command (R407, R409). -/
structure Maint where
  part : Option Nat
  secure : Bool
  cmd : Nat
  line : Nat
  left : Nat
  skipped : Nat := 0
  done : Nat := 0
  seq : Nat := 0
  deriving DecidableEq, Repr

/-- An open transaction at a home (R414): request, requester, cores still to answer, whether a holder supplied the data,
whether the requester has its result, and whether it stopped waiting (R422); the cores first asked and the slot it started in. -/
structure Trans where
  req : CReq
  core : Nat
  waiting : List Nat
  got : Bool := false
  done : Bool := false
  gone : Bool := false
  asked : Nat := 0
  slot : Nat := 0
  deriving DecidableEq, Repr

/-- A snoop-filter entry (R416): exact cores, or groups of eight in coarse mode; and its use order. -/
structure Filter where
  cores : List Nat := []
  coarse : Option Nat := none
  use : Nat := 0
  deriving DecidableEq, Repr

/-- A prefetch offer on its way from a quarter to the home of its line: the line, its quarter and line of the quarter, bytes and poison
bit, and whether the line has been written since (R257, R398). -/
structure PfOffer where
  line : Nat
  quarter : Nat
  qline : Nat
  data : List (BitVec 8)
  poison : Bool
  stale : Bool := false
  deriving DecidableEq, Repr

/-- The 160 LLC slices as homes (12). -/
structure Homes where
  /-- coherent lines the cores hold (R394, R410) -/
  l1 : Tab CacheLine := []
  /-- lines the LLC holds (R397, R399) -/
  llc : Tab CacheLine := []
  /-- open transactions (R414) -/
  trans : Tab (Option Trans) := []
  /-- requests waiting in the arbiters, in arrival order (R414) -/
  waiting : List Waiter := []
  /-- maintenance commands under way, by core (R407, R409) -/
  maint : Tab (Option Maint) := []
  /-- snoop-filter entries (R416, R417) -/
  filter : Tab Filter := []
  /-- back-invalidation buffers (R417) -/
  backinv : List (Nat × Nat) := []
  /-- retry credits, oldest first (R417) -/
  credits : List (Nat × Nat × CReq × Nat) := []
  /-- prefetch offers on their way, oldest first (R257) -/
  offers : List PfOffer := []
  /-- use order of cache lines and filter entries (R399) -/
  clock : Nat := 0
  /-- corrected errors of each way in the window (R405) -/
  wayCe : Tab Nat := []
  /-- the window of each slice in which its ways counted last (R405) -/
  wayWin : Tab Nat := []
  /-- slices out of their home sets since the last partition reset (R556) -/
  out : List Nat := []
  deriving DecidableEq, Repr

/-- A flit on the grid (R424, R425): sideband bits 55:0, CHECK in its bits 63:56, payload, and the payload's check bits, eight for each 8 B. -/
structure Flit where
  side : BitVec 56
  check : BitVec 8 := 0
  payload : BitVec 512
  payloadCheck : BitVec 64 := 0
  deriving DecidableEq, Repr

/-- A flit in an input buffer of a router: 0 to 3 the links' inputs, 4 + p agent port p, 13 the inward hop's, 14 the probe's records, and 16 k + 4 + p
a packet of agent port p that a fence holds (R428, R430, R436, R439). -/
structure HeldFlit where
  r : Nat
  buf : Nat
  flit : Flit
  /-- it has waited for a credit (R438) -/
  credit : Bool := false
  /-- it has waited at injection for a fence or a wake (R438) -/
  inj : Bool := false
  deriving DecidableEq, Repr

/-- A flit on its way: the router and output it left by, the buffer of the next router that it goes to (R428, R430). -/
structure SentFlit where
  r : Nat
  out : Nat
  buf : Nat
  flit : Flit
  deriving DecidableEq, Repr

/-- The 116 routers (13). -/
structure Grid where
  /-- flits in the input buffers, in order of arrival (R428, R430) -/
  held : List HeldFlit := []
  /-- flits forwarded and not yet received by the next router or agent, oldest first (R426, R430) -/
  sent : List SentFlit := []
  /-- 1 + the buffer that the worm now arriving on a channel of an input goes to (R428, R430) -/
  rx : Tab Nat := []
  /-- worms that hold an output's virtual channel (R431) -/
  worm : Tab Nat := []
  /-- whose turn it is next at an output: virtual channel, and input by virtual channel; and which gate's in a link stop (R424, R431) -/
  turn : Tab Nat := []
  /-- consecutive failed resends of the flit on a link (R426) -/
  replay : Tab Nat := []
  /-- the running fence (R436) -/
  fence : Option (Nat × Nat) := none
  /-- sleep commands that wait for the fence (R436) -/
  cmdWait : List (Nat × Nat) := []
  /-- level of a power-down in progress (R433) -/
  sleepLevel : Tab Nat := []
  /-- 1: the power-down came from STR_CMD; 2: from PART_PWR_REQ of the partition (R449) (R433) -/
  sleepCmd : Tab Nat := []
  /-- a wake arrived at or after step 3 (R434) -/
  wakeWait : Tab Nat := []
  /-- matching heads since the last traced one (R439) -/
  sample : Tab Nat := []
  /-- 1 + the mesh cycle of a router's last trace record (R439) -/
  traced : Tab Nat := []
  /-- replays of each die-boundary link within the last second (R557) -/
  replays1s : Tab (List Nat) := []
  /-- writes of PMU_GLOBAL, newest first, to the one that acts now: the gate cycle in which each acts and its FREEZE (R541) -/
  freezes : List (Nat × Bool) := []
  deriving DecidableEq, Repr

/-- A signing key of a trusted-service port (R458). -/
structure TsKey where
  port : Nat
  slot : Nat
  gen : Nat
  secret : Nat
  deriving DecidableEq, Repr

/-- Partition measurements, bandwidth windows and the trusted service (14). -/
structure Parts where
  /-- partition measurement PM (R463) -/
  pm : Tab (List (BitVec 8)) := []
  /-- number of the window of fragment-write bandwidth that started last (R453) -/
  windowAt : Nat := 0
  /-- bytes issued in the current 1 us window (R453) -/
  budget : Tab Nat := []
  /-- the gate was held at its budget with data waiting in this window (R453) -/
  heldGate : Tab Nat := []
  /-- partition whose fragment write the quarter served last (R453) -/
  served : Tab Nat := []
  /-- fragment writes issued so far: the place of the next one in the order of arrival (R453) -/
  fragSeq : Nat := 0
  /-- KIND 0x0003 limit in force in the current window (R454) -/
  nextLimit : Tab Nat := []
  /-- regions (partition, quarter, region) that a running reset of the partition has cleared and unlocked (R126, R127) -/
  rgnReset : List (Nat × Nat × Nat) := []
  /-- sources of an OWNER field that a partition reset has cleared: partition and source; they stay the partition's until its release (R87,
  R126, R127) -/
  srcReset : List (Nat × Nat) := []
  /-- pending requests (R456) -/
  tsReq : Tab Nat := []
  /-- signing keys in H2's data SRAM (R458) -/
  keys : List TsKey := []
  /-- restart generation (R458, R461) -/
  tsGen : Nat := 0
  /-- SEALs so far: each takes a fresh IV (R459) -/
  tsIv : Nat := 0
  /-- hangs declared within the last second (R462) -/
  hangs : List Nat := []
  /-- gates stopped by a PART_PWR_REQ SLEEP (R449) -/
  gateSlept : Nat := 0
  /-- engines whose clock is stopped by a PART_PWR_REQ SLEEP (R449) -/
  engSlept : Nat := 0
  /-- engines that will stop once no job is queued or running (R449) -/
  engSleepWait : Nat := 0
  deriving DecidableEq, Repr

/-- A posted write or message the endpoint sends to the host, in the order sent (R477, R482, R485): function, host address,
bytes, EP; an MSI-X message carries its vector instead of bytes. -/
inductive HostTlp where
  | write (fn addr : Nat) (data : List (BitVec 8)) (ep : Bool) (attr : Nat)
  | read (fn addr len tag attr : Nat)
  | msix (fn vector : Nat)
  | cpl (fn : Nat) (data : List (BitVec 8)) (ok ep : Bool)
  | cfgCpl (fn : Nat) (data : BitVec 32) (status : Nat)
  | drs
  deriving DecidableEq, Repr

/-- An outstanding or waiting non-posted read (R478, R479): one of those that access `acc` became, with its offset in the access and the
bytes of the whole access; 0: the access has ended (R477). -/
structure HostRead where
  fn : Nat
  addr : Nat
  len : Nat
  tag : Nat := 0
  attr : Nat := 0
  acc : Nat := 0
  off : Nat := 0
  total : Nat := 0
  deriving DecidableEq, Repr

/-- What a read of an outbound access returned while other reads of the access are under way (R477): access, offset, bytes and EP. -/
structure HostGot where
  acc : Nat
  off : Nat
  data : List (BitVec 8)
  ep : Bool
  deriving DecidableEq, Repr

/-- A hand-off the endpoint has taken for a function (R482): flow, item SEQ and the four words of the item. -/
structure Handoff where
  flow : Nat
  seq : Nat
  item : List Nat
  deriving DecidableEq, Repr

/-- A PCI Express function beside its HOSTFN registers (15). -/
structure Fn where
  /-- configuration space dwords that software has written, by dword index (R471) -/
  cfg : Tab (BitVec 32) := []
  /-- MSI-X table: address and data words, mask bits, pending bits (R485) -/
  msixAddr : Tab (BitVec 64) := []
  msixData : Tab (BitVec 32) := []
  msixMask : Tab Bool := []
  msixPend : Tab Bool := []
  /-- hand-offs accepted, oldest first (R484) -/
  hof : List Handoff := []
  /-- the first hand-off's completion entry has been sent and waits for its acknowledgement (R483) -/
  hofSent : Bool := false
  phase : Bool := true
  /-- reads waiting at H0 in arrival order (R478) -/
  readWait : List HostRead := []
  /-- dirty-log filter: page addresses (R491) -/
  dlog : List Nat := []
  deriving DecidableEq, Repr

/-- The host endpoint beside its registers (15). -/
structure HostSt where
  /-- configuration space, MSI-X, hand-off, dirty log of each function (R469, R471) -/
  fns : Tab Fn := []
  /-- TLPs the endpoint has sent, newest first (R477, R482) -/
  out : List HostTlp := []
  /-- outstanding non-posted reads (R478, R479) -/
  reads : List HostRead := []
  /-- tags in quarantine (R479) -/
  quarantine : List Nat := []
  /-- parts of outbound accesses that have come back, in the order of arrival, and the number of the next access (R477) -/
  got : List HostGot := []
  accNext : Nat := 1
  /-- the reference-clock arrangement that the last link training took (R467) -/
  sris : Bool := false
  deriving DecidableEq, Repr

/-- A packet of the fabric (R498, R509); `took` orders the packets this module has taken to send (R508). -/
structure BPacket where
  start : Nat
  units : List (BitVec 512)
  seq : Nat
  took : Nat := 0
  deriving DecidableEq, Repr

/-- A block of a bundle's sequence before scrambling: control or data (R142, R143, R496). -/
structure BBlock where
  ctl : Bool
  payload : BitVec 64
  deriving DecidableEq, Repr

/-- A bundle beside BLVD_BUNDLE and BLVD_NBR (16). -/
structure Bundle where
  /-- consecutive valid HELLOs while ALIGNED (R502) -/
  hellos : Nat := 0
  helloSent : Bool := false
  /-- a HELLO is due (R502) -/
  helloDue : Bool := false
  rxNext : Nat := 0
  txNext : Nat := 0
  /-- packets sent and not acknowledged, oldest first (R499) -/
  replay : List BPacket := []
  /-- failed resends of the oldest of them (R499) -/
  resends : Nat := 0
  /-- packets of a resend under way that are still to be sent again (R499) -/
  again : List BPacket := []
  /-- packets waiting to be sent, oldest first -/
  txq : List BPacket := []
  credit : List Nat := [384, 384, 128, 128]
  owed : List Nat := [0, 0, 0, 0]
  /-- SEQ and NAK of the ACK to send (R499) -/
  ackDue : Option (Nat × Bool) := none
  /-- slot groups sent since the last IDLE group and since the last B_ALIGN (R496) -/
  sinceIdle : Nat := 0
  sinceAlign : Nat := 0
  /-- blocks of a packet that are still to be sent (R498) -/
  cur : List BBlock := []
  /-- the four blocks of the last slot group, lane by lane (R496) -/
  sent : List BBlock := []
  deriving DecidableEq, Repr

/-- A forwarded item awaiting E2E_ACK (R513). -/
structure E2eWait where
  flow : Nat
  seq : Nat
  dest : Nat
  destFlow : Nat
  retry : Bool
  deriving DecidableEq, Repr

/-- A landed event in a partition's landing ring (R513, R515). -/
structure Landed where
  part : Nat
  addr : Nat
  offset : Nat
  len : Nat
  freed : Bool := false
  /-- source module and FLOW and SEQ of the item, and the stream bytes that have come -/
  src : Nat
  key : Nat
  got : Nat := 0
  deriving DecidableEq, Repr

/-- The Boulevard fabric beside its registers (16). -/
structure Blvd where
  /-- link state, replay buffer and credits of each bundle (R496 to R502) -/
  bundles : Tab Bundle := []
  /-- TC1 write count of each destination (R512) -/
  wcount : Tab Nat := []
  /-- last WSEQ received from each source (R512) -/
  lastWseq : Tab Nat := []
  /-- sources whose next item is delivered with POISON (R512) -/
  gap : List Nat := []
  /-- packets this module has taken to send (R508) -/
  took : Nat := 0
  /-- forwarded items awaiting their acknowledgement (R513) -/
  e2e : List E2eWait := []
  /-- source and FLOW/SEQ of the last items acknowledged OK (R514) -/
  acked : List (Nat × Nat) := []
  /-- landed events, in ring order (R513, R515) -/
  landed : List Landed := []
  /-- TC3 packets this module has sent to itself, newest first: OP, RESULT, ARG0, ARG1 (R505, R506) -/
  responses : List (List Nat) := []
  /-- module serial number from fuses (R470, R503) -/
  serial : Nat := 0
  deriving DecidableEq, Repr

/-- Interrupt distributor beside its registers (17). -/
structure Ints where
  /-- delivery queues (R524) -/
  queue : Tab (List Nat) := []
  /-- committed messages that have not reached their queue, oldest first (R523, R527) -/
  flight : List (Nat × Nat) := []
  /-- always-on retention registers (R529) -/
  retained : Tab (BitVec 64) := []
  /-- the retention registers hold a state to restore (R529) -/
  retValid : Bool := false
  /-- time of the first event counted (R523) -/
  firstAt : Tab Nat := []
  /-- messages on Kydin's distributor line (R525) -/
  kydin : List Nat := []
  /-- TIME has passed since the first event counted (R523) -/
  timeOut : Tab Bool := []
  /-- filtered GPI levels (also INT_GPI_CFG.LEVEL) (R521) -/
  gpiHigh : Nat := 0
  deriving DecidableEq, Repr

/-- A 64-byte error record (R549). -/
structure ErrRec where
  cls : Nat
  block : Nat
  inst : Nat
  code : Nat
  seq : Nat
  count : Nat := 1
  part : Nat := 0
  flags : Nat := 0
  time : Nat := 0
  calendar : Nat := 0
  addr : Nat := 0
  d0 : Nat := 0
  d1 : Nat := 0
  deriving DecidableEq, Repr

/-- A 64-byte lifetime entry (R547): type, SEQ, calendar seconds and the fields of its body in order. -/
structure LifeRec where
  type : Nat
  seq : Nat
  time : Nat
  body : List Nat
  deriving DecidableEq, Repr

/-- Kydin: retention ring, error log, lifetime area, mailbox, test lock (19). -/
structure Kydin where
  /-- retention error ring, newest first (R543, R550) -/
  ring : List ErrRec := []
  /-- NOR error log, newest first (R550) -/
  nor : List ErrRec := []
  /-- lifetime area, newest first (R547) -/
  life : List LifeRec := []
  /-- SEQ of the next lifetime entry (R547) -/
  lifeSeq : Nat := 0
  /-- minutes powered by V_in band (R547) -/
  poweredMin : List Nat := [0,0,0,0]
  /-- thermal cycles (R547) -/
  thermCycles : Nat := 0
  /-- the hottest junction has been below 40 degrees since the last cycle (R547) -/
  cold40 : Bool := true
  /-- thermal trips (R547) -/
  trips : Nat := 0
  /-- warm resets (R547) -/
  warmResets : Nat := 0
  /-- NOR sector erases: image slot A, image slot B, service area (R547) -/
  erases : List Nat := [0,0,0]
  /-- units the lifetime records list out of service (R555) -/
  retired : List (Nat × Nat) := []
  /-- the running retirement or restoration (R558) -/
  retireRun : Option (Nat × Nat × Bool) := none
  /-- gate resets that failed to realign and watchdog expiries, within 1 s (R555) -/
  gateFails : Tab (List Nat) := []
  /-- uncorrectable private-cache errors, within 24 h (R555) -/
  cacheErrs : Tab (List Nat) := []
  /-- spare wires used (R557) -/
  spares : Tab Nat := []
  /-- bytes 0x000 to 0x0FF held until SLOT_VERIFY (R554) -/
  slotBuf : Tab (List (Nat × BitVec 8)) := []
  /-- the mailbox request that the running retirement answers (R552, R558) -/
  retirePath : Option MailPath := none
  /-- a retirement or restoration that waits for a partition reset of the unit's owner (R558) -/
  retireWait : Option (MailPath × Nat × Nat × Bool) := none
  /-- the request that the running component update answers (R134, R553) -/
  sessionPath : Option MailPath := none
  /-- response waiting for the SMBus read (R552) -/
  respSmb : Option (List (BitVec 8)) := none
  /-- TAG of the in-band request that runs (R553) -/
  tagIn : Nat := 0
  /-- request block of a pending in-band request (R553) -/
  mboxAddr : Option Nat := none
  /-- RETURN_PREP has completed (R560, R562) -/
  returnDone : Bool := false
  /-- nonce valid for one TEST_UNLOCK (R560) -/
  nonce : Option Nat := none
  /-- when the nonce was given (R560) -/
  nonceTime : Nat := 0
  /-- failed unlocks since the last cold reset (R561) -/
  badUnlocks : Nat := 0
  /-- access to the fused device secret latched off (R561) -/
  secretOff : Bool := false
  /-- the test-disable fuse is blown (R559) -/
  testFuse : Bool := false
  deriving DecidableEq, Repr

/-- Everything of the block but DRAM contents and the queue. -/
structure Hw where
  /-- the fields of control space that differ from their reset values (R564 to R567) -/
  regs : Tab Nat := []
  sup : Supply := {}
  mod : Modes := {}
  boot : Boot := {}
  tim : Timing := {}
  lan : Lanes := {}
  ave : Avenue := {}
  rbt : Rbt := {}
  qu : Quarters := {}
  eng : Engines := {}
  cor : Cores := {}
  hom : Homes := {}
  grid : Grid := {}
  par : Parts := {}
  host : HostSt := {}
  blvd : Blvd := {}
  ints : Ints := {}
  kyd : Kydin := {}
  /-- module time in 1/64 gate cycle (R166) -/
  now : Nat := 0
  /-- the model's own field: index of the next free value -/
  freeCtr : Nat := 0
  /-- the last access completed with a bus error (R5) -/
  busErr : Bool := false
  /-- value the last read returned -/
  lastRead : Option Word := none
  /-- the data of the last access came poisoned (R479, R480) -/
  lastPoison : Bool := false
  /-- bytes the last mailbox command, service request or device access answered with -/
  lastResult : List Byte := []
  deriving DecidableEq, Repr

/-- The state: hardware, DRAM, and the commands that wait, first in, first out. -/
structure State where
  hw : Hw
  mem : Mem
  pending : List Instr
  deriving DecidableEq, Repr

/-- Why a step faults. No meaning of this model faults: the spec answers every access it forbids with a bus error, an error
record or a result code, and those are next states. The one constructor stands for an effect the model could not express. -/
inductive Fault where
  /-- Raised by no meaning. Safe: a step that ends here claims nothing. -/
  | noEffect
  deriving DecidableEq, Repr

/-- Why a command is turned away. -/
inductive Refusal where
  /-- Raised by an arm of `exec` that has no meaning yet. Safe: nothing is claimed about that command. -/
  | notModelled (mnemonic : String)
  deriving DecidableEq, Repr

/-- The registers whose reset value differs from instance to instance: HOSTFN_STATUS.PRESENT reads 1 for a physical function
and 0 for a virtual one (R469, R471). -/
def resetRegs : Tab Nat :=
  (List.range 8).map fun i => (F_HOSTFN_STATUS_PRESENT.key i 0, 1)

/-- The machine right after reset. -/
def State.reset : State := { hw := { regs := resetRegs }, mem := {}, pending := [] }

end Sys2Proof.Machine
end

