-- ==== Sys2Proof/Machine/Ops.lean ====
section
/-!
DEFINITION. The named operations over registers, records, interrupt sources and memory that the commands share.
-/

namespace Sys2Proof.Machine

/-! ### Fields of the registers -/

/-- The value of element `j` of instance `i` of a field. -/
def fget (h : Hw) (f : Field) (i : Nat := 0) (j : Nat := 0) : Nat := tget f.reset h.regs (f.key i j)

/-- A field set to a value, cut to its width. -/
def fset (h : Hw) (f : Field) (v : Nat) (i : Nat := 0) (j : Nat := 0) : Hw :=
  { h with regs := tset f.reset h.regs (f.key i j) (v % 2 ^ f.width) }

/-- A field that reads 1. -/
def fon (h : Hw) (f : Field) (i : Nat := 0) (j : Nat := 0) : Bool := fget h f i j == 1

/-- The number a truth value stands for in a register. -/
def b2n (b : Bool) : Nat := if b then 1 else 0

/-- A counter raised by `n`, saturating at all ones. -/
def fadd (h : Hw) (f : Field) (n : Nat) (i : Nat := 0) (j : Nat := 0) : Hw :=
  fset h f (min (fget h f i j + n) (2 ^ f.width - 1)) i j

/-- Result and sequence number of a command register: SEQ advances by one modulo its range, RESULT takes the code (R568). -/
def answer (h : Hw) (fr fs : Field) (code : Nat) (i : Nat := 0) (j : Nat := 0) : Hw :=
  fset (fset h fs (fget h fs i j + 1) i j) fr code i j

/-- Bit `n` of a number. -/
def bit (v n : Nat) : Bool := v / 2 ^ n % 2 == 1

/-- Bits hi to lo of a number. -/
def bits (v hi lo : Nat) : Nat := v / 2 ^ lo % 2 ^ (hi - lo + 1)

/-- A number with bit `n` set, or cleared. -/
def setBit (v n : Nat) (b : Bool) : Nat := if bit v n = b then v else if b then v + 2 ^ n else v - 2 ^ n

/-- Number of one bits among the lowest `n`. -/
def popcount (n v : Nat) : Nat := ((List.range n).filter fun i => bit v i).length

/-- The numbers of the one bits among the lowest `n`, ascending. -/
def onesOf (n v : Nat) : List Nat := (List.range n).filter fun i => bit v i

/-- A list with one element removed wherever it stands. -/
def drop1 (l : List Nat) (x : Nat) : List Nat := l.filter fun y => y != x

/-- The codes of BOOT_CTRL.RESULT that most command registers share (R137). -/
def rcNone : Nat := 0
def rcRunning : Nat := 1
def rcDone : Nat := 2
def rcFailed : Nat := 3
def rcRefused : Nat := 4
def rcBusy : Nat := 5

/-! ### Whole registers -/

/-- The value of a register as its fields make it up; reserved bits and write-only fields read 0 (R6, R8). -/
def regVal (h : Hw) (r : Reg) (i : Nat := 0) (j : Nat := 0) : Nat :=
  r.fields.foldl (fun a f => if f.acc = .wo then a else a + fget h f i j * 2 ^ f.lo) 0

/-- The offset of element `j` of a register in its window (R564 and the tables of the index). -/
def Reg.offset (r : Reg) (j : Nat) : Nat :=
  match r.lay with
  | 1 => r.base + 64 * (j / 4) + 8 * (j % 4)
  | 2 => r.base + 64 * (j / 8) + 8 * (j % 8)
  | _ => r.base + r.stride * j

/-! ### Module time -/

/-- Module time in gate cycles (R166). -/
def gateTime (h : Hw) : Nat := h.now / 64 % 2 ^ 64

/-- Gate cycles in one second. -/
def second : Nat := 1600000000

/-- The calendar goes on by a number of 1/32,768 s (R544). -/
def rtcAdd (h : Hw) (ticks : Nat) : Hw :=
  if ticks == 0 then h else
    let v := 32768 * fget h F_KYD_RTC_SECONDS + fget h F_KYD_RTC_FRACTION + ticks
    fset (fset h F_KYD_RTC_SECONDS (v / 32768)) F_KYD_RTC_FRACTION (v % 32768)

/-- One tick of the calendar in 1/64 gate cycle. -/
def rtcTick : Nat := 64 * second / 32768

/-- MARK_WINDOW of a quarter in 1/64 gate cycle (R269, R281). -/
def markWindow (h : Hw) (q : Nat) : Nat := 64 * second * max 1 (fget h F_QMC_CONFIG_MARK_WINDOW q)

/-- CE_WINDOW of every channel restarts at 0 in each quarter that has a window start between now and a later time; a window starts
whenever module time is a whole multiple of MARK_WINDOW seconds (R269). -/
def restartWindows (h : Hw) (t : Nat) : Hw :=
  if t / (64 * second) == h.now / (64 * second) then h
  else
    (List.range 24).foldl (fun h q =>
      if t / markWindow h q == h.now / markWindow h q then h
      else (List.range 10).foldl (fun h ch => fset h F_QMC_CHERR_CE_WINDOW 0 q ch) h) h

/-- The next free value's index, and the state that has used it. -/
def takeFree (h : Hw) : Nat × Hw := (h.freeCtr, { h with freeCtr := h.freeCtr + 1 })

/-! ### Error records (R549, R550) -/

/-- BLOCK codes of an error record. -/
def blkQmc : Nat := 0x01
def blkGate : Nat := 0x02
def blkEng : Nat := 0x03
def blkCore : Nat := 0x04
def blkLlc : Nat := 0x05
def blkStr : Nat := 0x06
def blkAve : Nat := 0x07
def blkRbt : Nat := 0x08
def blkHost : Nat := 0x09
def blkBlvd : Nat := 0x0A
def blkSupply : Nat := 0x0B
def blkThermal : Nat := 0x0C
def blkTs : Nat := 0x0D
def blkKydin : Nat := 0x0E
def blkPart : Nat := 0x0F
def blkMode : Nat := 0x10
def blkBoot : Nat := 0x11
def blkTiming : Nat := 0x12
def blkMemmap : Nat := 0x13
def blkFlow : Nat := 0x14
def blkPort : Nat := 0x15
def blkInt : Nat := 0x16
def blkPmu : Nat := 0x17
def blkTrace : Nat := 0x18

/-- The PART byte of a record for partition `p` in a world. -/
def partByte (p : Nat) (secure : Bool) : Nat := p % 8 + 8 + 16 * b2n secure

/-- Whether a stored record takes a new event of its block, instance and code into its COUNT (R550). -/
def coalesces (h : Hw) (r o : ErrRec) : Bool :=
  (r.cls == 0 || r.cls == 4) && o.cls == r.cls && o.block == r.block && o.inst == r.inst && o.code == r.code &&
    decide (gateTime h ≤ o.time + second)

/-- Add one to the COUNT of the newest record that takes the event; none where there is none. -/
def coalesce (h : Hw) (r : ErrRec) : List ErrRec → Option (List ErrRec)
  | [] => none
  | o :: l =>
    if coalesces h r o then some ({ o with count := min (o.count + 1) 0xFFFF } :: l)
    else (coalesce h r l).map (o :: ·)

/-- Store one error record, or coalesce it (R550). The ring holds 4,096 records. -/
def logRec (h : Hw) (r : ErrRec) : Hw :=
  match coalesce h r h.kyd.ring with
  | some ring => { h with kyd := { h.kyd with ring := ring } }
  | none =>
    let n := fget h F_KYD_ELOG_SEQ_NEXT
    let rec' := { r with seq := n, count := 1, time := gateTime h, calendar := fget h F_KYD_RTC_SECONDS }
    let h := { h with kyd := { h.kyd with ring := (rec' :: h.kyd.ring).take 4096 } }
    fset h F_KYD_ELOG_SEQ_NEXT (n + 1)

/-- A record of an event that changed register `r`: CODE is its offset, DETAIL0 its value after the change (R549). -/
def logReg (h : Hw) (cls block inst : Nat) (r : Reg) (i : Nat := 0) (j : Nat := 0) (part : Nat := 0) (addr : Nat := 0) : Hw :=
  logRec h { cls := cls, block := block, inst := inst, code := r.offset j, seq := 0, part := part, addr := addr,
             d0 := regVal h r i j }

/-- A record of an event that changes no register (R549). -/
def logCode (h : Hw) (cls block inst code d0 : Nat) (part : Nat := 0) (flags : Nat := 0) : Hw :=
  logRec h { cls := cls, block := block, inst := inst, code := code, seq := 0, part := part, flags := flags, d0 := d0 }

/-- Record a request that a rule refuses and logs: class 4 (R444, R549). -/
def logRefused (h : Hw) (block inst : Nat) (r : Reg) (i : Nat := 0) (j : Nat := 0) (part : Nat := 0) : Hw :=
  logReg h 4 block inst r i j part

/-- Set an alarm cause of KYD_STATUS; a cause that becomes set drives SMB_ALERT_N low (R545). -/
def setCause (h : Hw) (f : Field) : Hw :=
  if fon h f then h else
    let h := fset h f 1
    { h with sup := { h.sup with smbAlert := true } }

/-- Whether Kydin asserts its alarm: while any cause bit is set (R545). -/
def kydinAlarm (h : Hw) : Bool :=
  fon h F_KYD_STATUS_TEST_OPEN || fon h F_KYD_STATUS_SERVICE_WRITE || fon h F_KYD_STATUS_UNPROTECTED ||
    fon h F_KYD_STATUS_TS_FAILED

/-- Sectors of 4 KiB of the service area have been erased (R547). -/
def noteErases (h : Hw) (n : Nat) : Hw := { h with kyd := { h.kyd with erases := h.kyd.erases.set 2 (lget 0 h.kyd.erases 2 + n) } }

/-- The oldest 4 KiB sector of the lifetime area is erased, and fresh copies of the MARK, RESILVER, RETIRE and REVOKE entries that it holds
are appended first (R548). -/
def eraseOldest (h : Hw) : Hw :=
  let k := h.kyd
  let keep := (k.life.drop (16384 - 64)).filter fun o => [5, 6, 7, 10].contains o.type
  let fresh := keep.zipIdx.map fun (o, n) => { o with seq := (k.lifeSeq + (keep.length - 1 - n)) % 2 ^ 32 }
  noteErases { h with kyd := { k with life := fresh ++ k.life.take (16384 - 64), lifeSeq := (k.lifeSeq + keep.length) % 2 ^ 32 } } 1

/-- The oldest sectors, at most `n`, make room for an entry where the area is full (R548). -/
def roomIn : Nat → Hw → Hw
  | 0, h => h
  | n + 1, h => if h.kyd.life.length < 16384 then h else roomIn n (eraseOldest h)

/-- The lifetime area has room for an entry, as far as its 256 sectors give it (R546, R548). -/
def lifeRoom (h : Hw) : Hw := roomIn 256 h

/-- Append a lifetime entry: SEQ advances by one; the area holds 16,384 entries (R547, R548). -/
def addLife (h : Hw) (type : Nat) (body : List Nat) : Hw :=
  let h := lifeRoom h
  let k := h.kyd
  let e : LifeRec := { type := type, seq := k.lifeSeq, time := fget h F_KYD_RTC_SECONDS, body := body }
  { h with kyd := { k with life := e :: k.life, lifeSeq := (k.lifeSeq + 1) % 2 ^ 32 } }

/-! ### Interrupt sources (R519, R522) -/

/-- A number of the distributor that no source uses. -/
def reservedSource (i : Nat) : Bool := (8 ≤ i && i < 32) || (1328 ≤ i && i < 2048) || 2064 ≤ i

/-- An event on source `i`: EVENTS rises, saturating, and PENDING is set; the first event counted starts the coalescing time
(R522, R523). A reserved source never becomes pending (R519). -/
def raiseSource (h : Hw) (i : Nat) : Hw :=
  if reservedSource i then h else
    let first := fget h F_INT_SRC_STATE_EVENTS 0 i == 0
    let h := if first then { h with ints := { h.ints with firstAt := tset 0 h.ints.firstAt i h.now } } else h
    fset (fadd h F_INT_SRC_STATE_EVENTS 1 0 i) F_INT_SRC_STATE_PENDING 1 0 i

/-- Source `i` of partition `p`. -/
def srcPart (p i : Nat) : Nat := 32 + 32 * p + i
/-- Completion source of partition `p` on engine `q`. -/
def srcEngine (q p : Nat) : Nat := 288 + 8 * q + p
def srcQuarter (q i : Nat) : Nat := 480 + 4 * q + i
def srcGate (g i : Nat) : Nat := 576 + 4 * g + i
def srcSquare (s : Nat) : Nat := 832 + s
def srcDoorbell (n : Nat) : Nat := 912 + n
def srcSupply : Nat := 0
def srcThermal : Nat := 1
def srcReady : Nat := 2
def srcInlet : Nat := 3
def srcAveVote : Nat := 4
def srcAddr : Nat := 5
def srcTsFailed : Nat := 6
def srcMode : Nat := 7

/-! ### Tables of instances -/

def laneOf (h : Hw) (g k : Nat) : Lane := tget {} h.lan.lane (16 * g + k)
def setLane (h : Hw) (g k : Nat) (l : Lane) : Hw :=
  { h with lan := { h.lan with lane := tset {} h.lan.lane (16 * g + k) l } }
def gateOf (h : Hw) (g : Nat) : Gate := tget {} h.lan.gate g
def setGate (h : Hw) (g : Nat) (v : Gate) : Hw := { h with lan := { h.lan with gate := tset {} h.lan.gate g v } }
def quarterOf (h : Hw) (q : Nat) : Quarter := tget {} h.qu.q q
def setQuarter (h : Hw) (q : Nat) (v : Quarter) : Hw := { h with qu := { h.qu with q := tset {} h.qu.q q v } }
def engineOf (h : Hw) (q : Nat) : Engine := tget {} h.eng.e q
def setEngine (h : Hw) (q : Nat) (v : Engine) : Hw := { h with eng := { h.eng with e := tset {} h.eng.e q v } }
def coreOf (h : Hw) (c : Nat) : Core := tget {} h.cor.big c
def setCore (h : Hw) (c : Nat) (v : Core) : Hw := { h with cor := { h.cor with big := tset {} h.cor.big c v } }
def smallOf (h : Hw) (m : Nat) : SmallCore := tget {} h.cor.small m
def setSmall (h : Hw) (m : Nat) (v : SmallCore) : Hw := { h with cor := { h.cor with small := tset {} h.cor.small m v } }
def fnOf (h : Hw) (n : Nat) : Fn := tget {} h.host.fns n
def setFn (h : Hw) (n : Nat) (v : Fn) : Hw := { h with host := { h.host with fns := tset {} h.host.fns n v } }
def bundleOf (h : Hw) (g b : Nat) : Bundle := tget {} h.blvd.bundles (4 * g + b)
def setBundle (h : Hw) (g b : Nat) (v : Bundle) : Hw :=
  { h with blvd := { h.blvd with bundles := tset {} h.blvd.bundles (4 * g + b) v } }
def flowOf (h : Hw) (f : Nat) : Flow := tget {} h.rbt.flows f
def setFlow (h : Hw) (f : Nat) (v : Flow) : Hw := { h with rbt := { h.rbt with flows := tset {} h.rbt.flows f v } }
def partOf (h : Hw) (p : Nat) : PartCfg := tget {} h.boot.parts p
def setPart (h : Hw) (p : Nat) (v : PartCfg) : Hw := { h with boot := { h.boot with parts := tset {} h.boot.parts p v } }

/-! ### Ownership (R22, R112, R441) -/

/-- The partition whose configuration a test holds of, if any. -/
def ownerBy (h : Hw) (test : PartCfg → Bool) : Option Nat := (List.range 8).find? fun p => test (partOf h p)

/-- Owner of compute square `s`. -/
def ownerSquare (h : Hw) (s : Nat) : Option Nat := ownerBy h fun c => bit c.squares s
/-- Owner of core `c`: the owner of its square. -/
def ownerCore (h : Hw) (c : Nat) : Option Nat := ownerSquare h (c / 2)
/-- Owner of whole quarter `q`. -/
def ownerQuarter (h : Hw) (q : Nat) : Option Nat := ownerBy h fun c => bit c.quarters q
/-- Owner of gate `g`, as a readout or a Boulevard gate. -/
def ownerGate (h : Hw) (g : Nat) : Option Nat := ownerBy h fun c => bit c.gates g || bit c.blvdGates g
/-- Whether a gate is given to Boulevard. -/
def isBlvdGate (h : Hw) (g : Nat) : Bool := (ownerBy h fun c => bit c.blvdGates g).isSome
/-- Owner of flow `f`, as RBT_FLOW_CFG reports it. -/
def ownerFlow (h : Hw) (f : Nat) : Option Nat :=
  if fon h F_RBT_FLOW_CFG_OWNED (f / 1024) (f % 1024) then some (fget h F_RBT_FLOW_CFG_PART (f / 1024) (f % 1024)) else none
/-- Owner of queue pair `n` of engine `q`, as ENG_QP_CFG reports it. -/
def ownerQp (h : Hw) (q n : Nat) : Option Nat :=
  if fon h F_ENG_QP_CFG_OWNED q n then some (fget h F_ENG_QP_CFG_PART q n) else none
/-- Whether a partition owns memory in quarter `q`: the whole quarter or a share of it. -/
def ownsIn (h : Hw) (p q : Nat) : Bool :=
  bit (partOf h p).quarters q || (partOf h p).shares.any fun s => s.1 == q
/-- The partition of host function `n`: physical functions 0 to 7 are P0 to P7, and the 31 virtual functions of Pp follow
at 8 + 31p (R469). -/
def partOfFn (n : Nat) : Nat := if n < 8 then n else (n - 8) / 31 % 8
/-- A partition with a secure CORE_IMAGE (R442). -/
def hasSecure (h : Hw) (p : Nat) : Bool := fon h F_PART_STATUS_SECURE_IMAGE 0 p
/-- PART_STATUS.STATE codes (R465). -/
def partDown (h : Hw) (p : Nat) : Bool := fget h F_PART_STATUS_STATE 0 p == 3

/-! ### DRAM, poison and scratchpad (R252, R254, R264 to R267) -/

/-- A byte of a quarter's DRAM, the same cell on all ten channels: rank, bank, row, burst of the 2 KiB page (column address bits 9:4)
and byte of the quad-line (R251, R265). -/
structure DramCell where
  rank : Nat
  bank : Nat
  row : Nat
  burst : Nat
  byte : Nat
  deriving DecidableEq, Repr

/-- The cell of a quarter address; the bank is XORed with the low row bits (R265). -/
def cellOf (qa : Nat) : DramCell :=
  { rank := qa / 2 ^ 17 % 2, bank := (qa / 2 ^ 8 % 8).xor (qa / 2 ^ 18 % 8), row := qa / 2 ^ 18 % 2 ^ 17, burst := qa / 2 ^ 11 % 64,
    byte := qa % 2 ^ 8 }

/-- The key of a cell of quarter `q` in the table of DRAM bytes: the bytes of a quad-line have consecutive keys. -/
def cellKey (q : Nat) (c : DramCell) : Nat := ((((q * 2 ^ 17 + c.row) * 2 + c.rank) * 64 + c.burst) * 8 + c.bank) * 256 + c.byte

/-- Key of quarter address `qa` of quarter `q`: that of its cell. -/
def dkey (q qa : Nat) : Nat := cellKey q (cellOf qa)

/-- The byte an address of DRAM reads as; 0 where nothing is listed (R90). -/
def Mem.byte (m : Mem) (k : Nat) : Byte := tget 0 m.dram k

/-- `n` bytes of DRAM from key `k`. -/
def Mem.bytes (m : Mem) (k n : Nat) : List Byte := (List.range n).map fun i => m.byte (k + i)

/-- Whether the beat of a byte holds the poison marker. -/
def Mem.beatPoison (m : Mem) (beat : Nat) : Bool := m.poison.contains beat

/-- Whether the 64-byte line of key `k` reads as poisoned: one of its beats holds a marker (R266). -/
def Mem.linePoison (m : Mem) (k : Nat) : Bool := (List.range 4).any fun b => m.beatPoison (k / 64 * 4 + b)

/-- A byte of the scratchpad window. -/
def Mem.scr (m : Mem) (o : Nat) : Byte := tget 0 m.scratch o

/-- The poison bit of the scratchpad line of a byte (R394). -/
def Mem.scrPoison (m : Mem) (o : Nat) : Bool := m.scratchBad.contains (o / 64)

/-- A change of memory, as a command asks for it. -/
inductive MemOp where
  /-- write the bytes that are given from key `k`, all in one 64-byte line; `pz`: the write carries the poison bit; `er`, `lost` and
  `errs` (beat, position, bits that differ): how the quarter decodes the line where it must read it first -/
  | put (k : Nat) (data : List (Option Byte)) (pz : Bool) (er : List Nat) (lost : Bool) (errs : List (Nat × Nat × Nat))
  /-- zero `n` bytes from key `k`, with valid codewords -/
  | clear (k n : Nat)
  /-- every byte is lost and initialised to zero -/
  | wipe
  /-- mark or unmark one beat as poisoned -/
  | mark (beat : Nat) (on : Bool)
  /-- write scratchpad bytes, all in one 64-byte line; `pz`: the write carries the poison bit -/
  | scr (o : Nat) (data : List (Option Byte)) (pz : Bool)
  /-- set the poison bit of a scratchpad line -/
  | scrMark (line : Nat)
  /-- zero `n` scratchpad bytes -/
  | scrClear (o n : Nat)
  deriving DecidableEq, Repr

/-- Write bytes from key `k` upward; a byte not given keeps its value. -/
def putBytes (t : List Host.Cell) : Nat → List (Option Byte) → List Host.Cell
  | _, [] => t
  | k, none :: r => putBytes t (k + 1) r
  | k, some b :: r => putBytes (tset 0 t k b) (k + 1) r

/-- Whether a write of `data` at `k` gives every byte of a beat. -/
def coversBeat (k : Nat) (data : List (Option Byte)) (beat : Nat) : Bool :=
  decide (k ≤ 16 * beat) && decide (16 * beat + 16 ≤ k + data.length) &&
    ((data.drop (16 * beat - k)).take 16).all (·.isSome)

/-- Whether a write of `data` at `k` gives some byte of a beat. -/
def touchesBeat (k : Nat) (data : List (Option Byte)) (beat : Nat) : Bool :=
  (List.range data.length).any fun i => (k + i) / 16 == beat && ((data[i]?).getD none).isSome

/-! #### Beats as codewords (R252 to R255, R266) -/

/-- Data symbols of the 16 bytes of a beat (R252). -/
def beatSyms (b : List Byte) : List Nat := (List.range 8).map fun i => num b (2 * i) 2

/-- The bytes of a beat's data symbols (R252). -/
def symBytes (c : List Nat) : List Byte := (c.take 8).flatMap (leBytes 2)

/-- The codeword of a beat's bytes, with the poison marker where the beat holds one (R253, R254). -/
def codeword (b : List Byte) (pz : Bool) : List Nat :=
  let c := beatSyms b
  let (c8, c9) := checkSyms c
  if pz then c ++ [c8.xor poisonP, c9.xor poisonP] else c ++ [c8, c9]

/-- One beat as read: its outcome and its 16 data bytes (R255, R266). -/
structure BeatRead where
  out : BeatOut
  data : List Byte
  deriving DecidableEq, Repr

/-- Read the beat of key `k` with its erased logical positions and the errors of its symbols (position, bits that differ). In LOST every
read is uncorrectable. A codeword that no error meets and of which nothing is erased has S0 = 0 and S1 = 0, or S1 = PM with the marker
(R253 to R255, R266, R269). -/
def Mem.readBeat (m : Mem) (k : Nat) (er : List Nat) (lost : Bool) (errs : List (Nat × Nat)) : BeatRead :=
  let b := m.bytes k 16
  let pz := m.beatPoison (k / 16)
  if er.isEmpty && errs.isEmpty && !lost then ⟨if pz then .marker else .intact, b⟩
  else
    let hit := errs.foldl (fun c e => putSym c e.1 ((lget 0 c e.1).xor e.2)) (codeword b pz)
    let recv := er.foldl (fun c p => putSym c p 0) hit
    if lost then ⟨.uncorrectable, symBytes recv⟩
    else
      match decodeBeat recv er with
      | (.uncorrectable, _) => ⟨.uncorrectable, symBytes recv⟩
      | (o, c) => ⟨o, symBytes c⟩

/-- A beat that makes its line read as poisoned (R266). -/
def BeatRead.bad (b : BeatRead) : Bool := b.out == .marker || b.out == .uncorrectable

/-- A write into one line. A beat it gives in part is read first and written back whole; where such a read finds the line poisoned, or
the write carries poison, every beat takes the marker, and otherwise the beats written lose theirs (R258, R267). -/
def Mem.putLine (m : Mem) (k : Nat) (data : List (Option Byte)) (pz : Bool) (er : List Nat) (lost : Bool)
    (errs : List (Nat × Nat × Nat)) : Mem :=
  let bs := (List.range 4).map (k / 64 * 4 + ·)
  let touched := bs.filter fun b => touchesBeat k data b
  let partly := touched.filter fun b => !coversBeat k data b
  let read := fun b => m.readBeat (16 * b) er lost ((errs.filter (·.1 == b)).map (·.2))
  let was := !partly.isEmpty && bs.any fun b => (read b).bad
  let dram := partly.foldl (fun t b => putBytes t (16 * b) ((read b).data.map some)) m.dram
  let rest := m.poison.filter fun b => !(if pz || was then bs else touched).contains b
  { m with dram := putBytes dram k data,
           poison := if touched.isEmpty then m.poison else if pz || was then (rest ++ bs).mergeSort else rest }

/-- The lines whose poison bit is set after line `l` is written: a write with poison sets it, and one of all 64 bytes without clears it
(R394). -/
def scrBits (bad : List Nat) (l : Nat) (data : List (Option Byte)) (pz : Bool) : List Nat :=
  if pz then (drop1 bad l ++ [l]).mergeSort else if data.length == 64 && data.all (·.isSome) then drop1 bad l else bad

/-- The lines a write of `n` bytes at `k` lies in. -/
def linesOf (k n : Nat) : List Nat := if n = 0 then [] else (List.range ((k % 64 + n + 63) / 64)).map (k / 64 + ·)

/-- One change of memory. -/
def Mem.apply (m : Mem) : MemOp → Mem
  | .put k data pz er lost errs => m.putLine k data pz er lost errs
  | .clear k n =>
    { m with dram := m.dram.filter fun c => !(decide (k ≤ c.1) && decide (c.1 < k + n)),
             poison := m.poison.filter fun b => !(decide (k ≤ 16 * b) && decide (16 * b < k + n)) }
  | .wipe => { m with dram := [], poison := [] }
  | .mark b on => { m with poison := if on then (drop1 m.poison b ++ [b]).mergeSort else drop1 m.poison b }
  | .scr o data pz => { m with scratch := putBytes m.scratch o data, scratchBad := scrBits m.scratchBad (o / 64) data pz }
  | .scrMark l => { m with scratchBad := (drop1 m.scratchBad l ++ [l]).mergeSort }
  | .scrClear o n =>
    { m with scratch := m.scratch.filter fun c => !(decide (o ≤ c.1) && decide (c.1 < o + n)),
             scratchBad := m.scratchBad.filter fun l => !(decide (o ≤ 64 * l) && decide (64 * l < o + n)) }

/-- The canonical form of memory: DRAM and scratchpad list rising addresses, and no byte that reads as an unlisted one does. -/
def Mem.wf (m : Mem) : Bool := twf 0 m.dram && twf 0 m.scratch

/-- Changes of memory in order. -/
def Mem.applyAll (m : Mem) (ops : List MemOp) : Mem := ops.foldl Mem.apply m

/-- A change of the hardware and, in order, of memory. -/
structure Eff where
  hw : Hw
  ops : List MemOp := []

/-- An effect followed by a further change of the hardware. -/
def Eff.map (e : Eff) (f : Hw → Hw) : Eff := { e with hw := f e.hw }

/-- An effect followed by another. -/
def Eff.bind (e : Eff) (f : Hw → Eff) : Eff := let r := f e.hw; { hw := r.hw, ops := e.ops ++ r.ops }

/-- One effect after another for each element of a list. -/
def effEach {α : Type} (l : List α) (h : Hw) (f : α → Hw → Eff) : Eff := l.foldl (fun e a => e.bind (f a)) { hw := h }

/-- A command that changes the hardware alone. -/
def State.upd (s : State) (f : Hw → Hw) : State := { s with hw := f s.hw }

/-- A change of the scratchpads, or the loss of DRAM: what a running power-fail sequence does not stop (R60). -/
def MemOp.afterPowerFail : MemOp → Bool
  | .wipe | .scr _ _ _ | .scrMark _ | .scrClear _ _ => true
  | .put _ _ _ _ _ _ | .clear _ _ | .mark _ _ => false

/-- The changes of memory that land: every one, but for the writes into DRAM once the power-fail sequence runs (R60). -/
def landed (h : Hw) (ops : List MemOp) : List MemOp := ops.filter fun o => !h.sup.powerFail || o.afterPowerFail

/-- Memory after the changes that land. -/
def State.land (s : State) (ops : List MemOp) : Mem := s.mem.applyAll (landed s.hw ops)

/-- A command that changes the hardware, and memory by those of the operations it names that land. -/
def State.act (s : State) (f : Hw → Mem → Eff) : State :=
  let e := f s.hw s.mem
  { s with hw := e.hw, mem := s.land e.ops }

end Sys2Proof.Machine
end

