-- ==== Sys2Proof/Machine/Access.lean ====
section
/-!
DEFINITION. Event counters, the physical address map, the region registers, and the reads and writes of a quarter.
-/

namespace Sys2Proof.Machine

/-! ### Event counters (R540 to R542) -/

/-- The fields of one block's event counters (R540). -/
structure PmuRegs where
  ovf : Field
  part : Field
  partEn : Field
  en : Field
  evt : Field
  cnt : Field

def pmuQmc : PmuRegs := ⟨F_QMC_PMU_CTL_OVF, F_QMC_PMU_CTL_PART, F_QMC_PMU_CTL_PART_EN, F_QMC_PMU_CTL_EN, F_QMC_PMU_CTL_EVT, F_QMC_PMU_CNT_COUNT⟩
def pmuGate : PmuRegs := ⟨F_GATE_PMU_CTL_OVF, F_GATE_PMU_CTL_PART, F_GATE_PMU_CTL_PART_EN, F_GATE_PMU_CTL_EN, F_GATE_PMU_CTL_EVT, F_GATE_PMU_CNT_COUNT⟩
def pmuEng : PmuRegs := ⟨F_ENG_PMU_CTL_OVF, F_ENG_PMU_CTL_PART, F_ENG_PMU_CTL_PART_EN, F_ENG_PMU_CTL_EN, F_ENG_PMU_CTL_EVT, F_ENG_PMU_CNT_COUNT⟩
def pmuRbt : PmuRegs := ⟨F_RBT_PMU_CTL_OVF, F_RBT_PMU_CTL_PART, F_RBT_PMU_CTL_PART_EN, F_RBT_PMU_CTL_EN, F_RBT_PMU_CTL_EVT, F_RBT_PMU_CNT_COUNT⟩

/-- Counter `n` takes `k` more: 48 bits, and a wrap sets its OVF bit (R540). -/
def pmuAdd (r : PmuRegs) (h : Hw) (i n k : Nat) : Hw :=
  let v := fget h r.cnt i n + k
  let h := fset h r.cnt v i n
  if 2 ^ 48 ≤ v then fset h r.ovf (setBit (fget h r.ovf i) n true) i else h

/-- The uncore counters stand still in a gate cycle: a change of FREEZE acts in every block 128 gate cycles after its write (R541). -/
def frozenAt (h : Hw) (c : Nat) : Bool :=
  match h.grid.freezes.find? fun e => e.1 ≤ c with
  | some e => e.2
  | none => false

/-- The uncore counters stand still now. -/
def frozen (h : Hw) : Bool := frozenAt h (h.now / 64)

/-- The writes of PMU_GLOBAL that have still to act, and the one that acts. -/
def untilActing (now : Nat) : List (Nat × Bool) → List (Nat × Bool)
  | [] => []
  | e :: r => if e.1 ≤ now then [e] else e :: untilActing now r

/-- A write of PMU_GLOBAL.FREEZE (R541). -/
def setFreeze (h : Hw) (v : Bool) : Hw :=
  let now := h.now / 64
  fset { h with grid := { h.grid with freezes := (now + 128, v) :: untilActing now h.grid.freezes } } F_PMU_GLOBAL_FREEZE (b2n v)

/-- Counter `n` of instance `i` is enabled and selects a code (R540). -/
def pmuSelects (r : PmuRegs) (h : Hw) (i code n : Nat) : Bool := bit (fget h r.en i) n && bits (fget h r.evt i) (8 * n + 7) (8 * n) == code

/-- Some counter of instance `i` selects a code. -/
def pmuPicks (r : PmuRegs) (h : Hw) (i code : Nat) : Bool := (List.range 4).any (pmuSelects r h i code)

/-- Every counter of instance `i` that selects a code takes its amount, which follows the partition that it filters for (R540). -/
def pmuTakes (r : PmuRegs) (h : Hw) (i code : Nat) (amount : Option Nat → Nat) : Hw :=
  (List.range 4).foldl (fun h n =>
    if pmuSelects r h i code n then pmuAdd r h i n (amount (if fon h r.partEn i then some (fget h r.part i) else none)) else h) h

/-- An amount of one partition, or of none: what a filter leaves of it. -/
def pmuOf (part : Option Nat) (k : Nat) : Option Nat → Nat
  | none => k
  | some p => if part == some p then k else 0

/-- `k` events of a code in instance `i` of a block, for the partition they carry: every counter that is enabled, selects the
code and does not filter the partition out takes them, unless all counters are frozen (R540 to R542). -/
def pmu (r : PmuRegs) (h : Hw) (i code k : Nat) (part : Option Nat := none) : Hw :=
  if frozen h || k == 0 then h else pmuTakes r h i code (pmuOf part k)

/-- Events of a code whose number, up to `most`, no step measures: an open value (log 6). -/
def pmuOpen (r : PmuRegs) (h : Hw) (i code most : Nat) (part : Option Nat := none) : Hw :=
  if pmuPicks r h i code then
    let (n, h) := takeFree h
    pmuTakes r h i code (pmuOf part (Config.freeNat n % (most + 1)))
  else h

/-- `k` bursts of a quarter, each of which may activate a row: the spec leaves the page policy open (R260, R542). -/
def pmuBursts (h : Hw) (q code k : Nat) (part : Option Nat := none) : Hw :=
  let h := pmu pmuQmc h q code k part
  if frozen h then h else pmuOpen pmuQmc h q 0x06 k part

/-! ### The passing of time (R67, R166, R540 to R542, R544) -/

/-- The stretches of time up to `t`, in 1/64 gate cycle, in which the uncore counters are not frozen (R541). -/
def unfrozen (h : Hw) (t : Nat) : List (Nat × Nat) :=
  let cuts := (h.grid.freezes.map fun e => 64 * e.1).reverse.filter fun x => decide (h.now < x) && decide (x < t)
  ((h.now :: cuts).zip (cuts ++ [t])).filter fun e => !frozenAt h (e.1 / 64)

/-- Cycles that begin in stretches of time, of a clock with `k` cycles in four gate cycles. -/
def cyclesIn (k : Nat) (l : List (Nat × Nat)) : Nat := (l.map fun e => e.2 * k / 256 - e.1 * k / 256).sum

/-- A gate after `n` gate cycles: cycles held at the bandwidth budget, and holding-buffer records (R453, R542). -/
def pmuGateTime (n : Nat) (h : Hw) (g : Nat) : Hw :=
  let part := ownerGate h g
  let held := match (gateOf h g).frag with | some f => f.sent.isSome && f.sent != some f.bytes.length | none => false
  let h := pmuTakes pmuGate h g 0x08 (pmuOf part (if held then n else 0))
  pmuTakes pmuGate h g 0x09 (pmuOf part (n * fget h F_GATE_HB_STATUS_USED g))

/-- An engine after `n` of its cycles: cycles with a job running, source cycles waiting on memory, running jobs (R290, R542). -/
def pmuEngTime (n : Nat) (h : Hw) (q : Nat) : Hw :=
  let jobs := (engineOf h q).jobs.filter (·.st == .running)
  let mine := fun (f : Option Nat) => jobs.filter fun j => f.isNone || ownerQp h q j.qp == f
  let h := pmuTakes pmuEng h q 0x05 fun f => if (mine f).isEmpty then 0 else n
  let h := if jobs.isEmpty then h else pmuOpen pmuEng h q 0x06 n (jobs.head?.bind fun j => ownerQp h q j.qp)
  pmuTakes pmuEng h q 0x0B fun f => n * (mine f).length

/-- Roundabout after `n` mesh cycles: on-chip entries and open assembly entries (R542). -/
def pmuRbtTime (n : Nat) (h : Hw) : Hw :=
  let h := pmuTakes pmuRbt h 0 0x0A fun f => n * (match f with | some p => fget h F_RBT_PART_USE_ONCHIP_USED 0 p | none => fget h F_RBT_STATUS_ONCHIP_USED)
  pmuTakes pmuRbt h 0 0x0B fun f => n * (match f with | some p => fget h F_RBT_PART_USE_OPEN 0 p | none => fget h F_RBT_STATUS_OPEN_USED)

/-- What the counters that count in cycles take while time goes on to `t`: the state holds the occupancy of all but the requests that wait at
a quarter and the source cycles that wait on memory, which are open (R540 to R542; log 6). -/
def pmuTime (h : Hw) (t : Nat) : Hw :=
  let enables := [pmuQmc.en.id, pmuGate.en.id, pmuEng.en.id, pmuRbt.en.id]
  if !(h.regs.any fun e => enables.contains (e.1 / 2 ^ 32)) then h
  else
    let spans := unfrozen h t
    let mesh := cyclesIn 5 spans
    let on := fun (h : Hw) (r : PmuRegs) (n : Nat) => (List.range n).filter fun i => fget h r.en i != 0
    let h := (on h pmuQmc 24).foldl (fun h q => pmuOpen pmuQmc h q 0x0C (mesh * 2 ^ 16)) h
    let h := (on h pmuGate 64).foldl (pmuGateTime (cyclesIn 4 spans)) h
    let h := (on h pmuEng 24).foldl (pmuEngTime mesh) h
    pmuRbtTime mesh h

/-- Module time goes on to a later time, the counters that count cycles with it, and the calendar while the module has power (R67, R166,
R542, R544). DESIGN CHOICE: the two oscillators run at their nominal ratio (log 52). -/
def passTo (h : Hw) (t : Nat) : Hw :=
  let n := { restartWindows (pmuTime h t) t with now := t }
  if h.sup.lostBoth then n else rtcAdd n (t / rtcTick - h.now / rtcTick)

/-! ### The physical address map (R2, R3, R262 to R264) -/

/-- What a physical address names. -/
inductive Place where
  | dram (part q qa : Nat)
  | scratch (o : Nat)
  | control (o : Nat)
  | outbound (o : Nat)
  | remote (o : Nat)
  | nothing
  deriving DecidableEq, Repr

/-- Members of a partition: quarter, base and size in 256 MiB units (MEM_MEMBERp_j). -/
def membersOf (h : Hw) (p : Nat) : List (Nat × Nat × Nat) :=
  (List.range (fget h F_MEM_PART_MEMBERS 0 p)).map fun j =>
    (fget h F_MEM_MEMBER_QUARTER 0 (32 * p + j), fget h F_MEM_MEMBER_BASE_256M 0 (32 * p + j),
     fget h F_MEM_MEMBER_SIZE_256M 0 (32 * p + j))

/-- The partition whose physical range holds a DRAM address (R262). -/
def partAt (h : Hw) (a : Nat) : Option Nat :=
  (List.range 8).find? fun p =>
    let b := fget h F_MEM_PART_BASE_256M 0 p
    decide (b * 2 ^ 28 ≤ a) && decide (a < (b + fget h F_MEM_PART_SIZE_256M 0 p) * 2 ^ 28)

/-- Quarter-local interleave: the member that holds offset `o` (R264). -/
def localMember : List (Nat × Nat × Nat) → Nat → Option (Nat × Nat)
  | [], _ => none
  | (q, b, s) :: r, o => if o < s * 2 ^ 28 then some (q, b * 2 ^ 28 + o) else localMember r (o - s * 2 ^ 28)

/-- Quarter and quarter address of offset `o` of a partition (R264). -/
def memberAt (h : Hw) (p o : Nat) : Option (Nat × Nat) :=
  let ms := membersOf h p
  let il := fget h F_MEM_PART_INTERLEAVE 0 p
  if il == 2 then localMember ms o
  else
    let g := if il == 0 then 4096 else 256
    let u := o / g
    match ms[u % ms.length]? with
    | none => none
    | some (q, b, _) => some (q, b * 2 ^ 28 + u / ms.length * g + o % g)

/-- The end of the DRAM range of the part (R2, R3). -/
def dramEnd (h : Hw) : Nat := if h.boot.partIs384 then 0x6000000000 else 0xC000000000

/-- The place of a physical address. -/
def placeOf (h : Hw) (a : Nat) : Place :=
  if a < dramEnd h then
    match partAt h a with
    | none => .nothing
    | some p =>
      match memberAt h p (a - fget h F_MEM_PART_BASE_256M 0 p * 2 ^ 28) with
      | none => .nothing
      | some (q, qa) => .dram p q qa
  else if 0xE000000000 ≤ a && a < 0xE000000000 + 2 ^ 27 then .scratch (a - 0xE000000000)
  else if 0xF000000000 ≤ a && a < 0xF000000000 + 2 ^ 30 then .control (a - 0xF000000000)
  else if 0x10000000000 ≤ a && a < 0x20000000000 then .outbound (a - 0x10000000000)
  else if 0x20000000000 ≤ a && a < 0x20000000000 + 2 ^ 44 then .remote (a - 0x20000000000)
  else .nothing

/-! ### Who asks, and what the region registers allow (R278, R279, R402, R420, R443) -/

/-- The partition and world a memory request carries; no partition: a request of Kydin or of the quarter, not checked. -/
structure Asker where
  part : Option Nat
  secure : Bool := false
  deriving DecidableEq, Repr

/-- The request of a partition in one of its worlds; one without a secure image makes none in the secure world (R442). -/
def askerIn (h : Hw) (p : Nat) (secure : Bool) : Asker := { part := some p, secure := secure && hasSecure h p }

/-- The request of Kydin. -/
def Asker.kydin : Asker := { part := none }

/-- The highest-numbered enabled region of a quarter that contains an address (R278). -/
def regionAt (h : Hw) (q qa : Nat) : Option Nat :=
  (List.range 8).reverse.find? fun i =>
    fon h F_QMC_RGN_EN q i && decide (fget h F_QMC_RGN_BASE q i ≤ qa / 2 ^ 21) &&
      decide (qa / 2 ^ 21 ≤ fget h F_QMC_RGN_LIMIT q i)

/-- Whether the region registers allow an access (R278). -/
def regionAllows (h : Hw) (w : Asker) (q qa : Nat) : Bool :=
  match w.part with
  | none => true
  | some p =>
    match regionAt h q qa with
    | none => false
    | some i => fget h F_QMC_RGN_PART q i == p && (!fon h F_QMC_RGN_SECURE q i || w.secure)

/-- A refused access: counted, recorded as the latest, its source raised, and logged without class (R279). -/
def violate (h : Hw) (w : Asker) (q qa : Nat) (write : Bool) : Hw :=
  let p := w.part.getD 0
  let h := fadd h F_QMC_VIOL_COUNT 1 q
  let h := fset h F_QMC_VIOL_WRITE (b2n write) q
  let h := fset h F_QMC_VIOL_SECURE (b2n w.secure) q
  let h := fset h F_QMC_VIOL_PART p q
  let h := fset h F_QMC_VIOL_QADDR qa q
  let h := raiseSource h (srcQuarter q 1)
  logReg h 4 blkQmc q R_QMC_VIOL q 0 (partByte p w.secure)

/-- Slice and range of a scratchpad offset, and whether the access is performed (R402). -/
def scratchAllows (h : Hw) (w : Asker) (o : Nat) : Bool :=
  let k := o / (768 * 1024)
  let r := o % (768 * 1024) / (128 * 1024)
  decide (k < 160) && decide (r < fget h F_LLC_CFG_SP_WAYS k) &&
    (match w.part with
     | none => false
     | some p => ownerSquare h (k / 2) == some p && (!fon h F_LLC_CFG_SP_SECURE k || w.secure))

/-! ### Quad-lines: layout, reads and writes of a quarter (R255 to R258, R266 to R271) -/

/-- Quad-lines of a quarter: 2^27, or 2^26 on JM-OMV1024-384 (R251). -/
def quadLines (h : Hw) : Nat := if h.boot.partIs384 then 2 ^ 26 else 2 ^ 27

/-- First and second marked channel, if any. -/
def mark1 (h : Hw) (q : Nat) : Option Nat := let v := fget h F_QMC_STATUS_MARK1 q; if v < 10 then some v else none
def mark2 (h : Hw) (q : Nat) : Option Nat := let v := fget h F_QMC_STATUS_MARK2 q; if v < 10 then some v else none

/-- The state of a quarter (R269). -/
def qState (h : Hw) (q : Nat) : Nat := fget h F_QMC_STATUS_STATE q
def qNormal : Nat := 0
def qMarked : Nat := 1
def qResilver : Nat := 2
def qSpared : Nat := 3
def qDouble : Nat := 4
def qLost : Nat := 5

/-- Whether quad-line `n` is in the spared layout: below PROGRESS with a data channel marked first (R270, R271). -/
def sparedLine (h : Hw) (q n : Nat) : Bool :=
  match mark1 h q with
  | some k => decide (k < 8) && decide (n < fget h F_QMC_RESILVER_PROGRESS q)
  | none => false

/-- The logical position a physical channel carries in a quad-line; none: it carries nothing (R270). -/
def positionOf (h : Hw) (q n ch : Nat) : Option Nat :=
  if sparedLine h q n then
    match mark1 h q with
    | some k => if ch == k then none else if ch == 9 then some k else some ch
    | none => some ch
  else some ch

/-- The physical channel that carries a logical position; errors are charged to it (R270). -/
def channelOf (h : Hw) (q n pos : Nat) : Nat :=
  if sparedLine h q n && some pos == mark1 h q then 9 else pos

/-- The channel read as erased because it retrains, or because catch-up has not reached the granule (R275, R276). -/
def retrainErased (h : Hw) (q n : Nat) : List Nat :=
  let r := fget h F_QMC_STATUS_RETRAIN_CH q
  if r < 10 && (fon h F_QMC_STATUS_RETRAINING q || (fon h F_QMC_STATUS_CATCHUP q && (quarterOf h q).dirty.contains (n / 256)))
  then [r] else []

/-- The erased logical positions of a quad-line, ascending (R255, R270). -/
def erasedAt (h : Hw) (q n : Nat) : List Nat :=
  let chans := (mark1 h q).toList ++ (mark2 h q).toList ++ retrainErased h q n
  let ps := if sparedLine h q n then 9 :: (chans.filter fun c => some c != mark1 h q).filterMap (positionOf h q n) else chans
  (ps.eraseDups).mergeSort

/-- The beats of quad-line `n` of a quarter as read, with the symbol errors that meet it (R255, R270). -/
def readQuad (h : Hw) (m : Mem) (q n : Nat) (errs : List SymErr) : List BeatRead :=
  let er := erasedAt h q n
  (List.range 16).map fun b =>
    m.readBeat (dkey q (256 * n) + 16 * b) er (qState h q == qLost)
      ((errs.filter fun e => e.beat.val == b).filterMap fun e => (positionOf h q n e.channel.val).map fun p => (p, e.bits.toNat))

/-- Whether line `l` of a quad-line reads as poisoned (R266). -/
def linePoisoned (bs : List BeatRead) (l : Nat) : Bool := ((bs.drop (4 * l)).take 4).any (·.bad)

/-- The bytes of line `l`. -/
def lineBytes (bs : List BeatRead) (l : Nat) : List Byte := ((bs.drop (4 * l)).take 4).flatMap (·.data)

/-- Lines of a quad-line read with a stored marker (R266). -/
def markedLines (bs : List BeatRead) : Nat :=
  ((List.range 4).filter fun l => ((bs.drop (4 * l)).take 4).any fun b => b.out == .marker).length

/-- An uncorrectable beat at `qa`: counted, its line recorded, a deferred record written (R255, R266). -/
def countUncorrectable (h : Hw) (q qa : Nat) : Hw :=
  let h := fadd h F_QMC_UE_UE_COUNT 1 q
  let h := fset h F_QMC_UE_LINE (qa / 64) q
  logReg h 1 blkQmc q R_QMC_UE q

/-- The three lines that a quarter sends to their homes beside line `l` of quad-line `n`, which the physical address `a` names
(R257). -/
def sendOffers (h : Hw) (q n l a : Nat) (part : Option Nat) (bs : List BeatRead) : Hw :=
  if fon h F_QMC_CONFIG_OFFER_EN q then
    let new := ((List.range 4).filter (· != l)).map fun i =>
      ({ line := a / 256 * 4 + i, quarter := q, qline := 4 * n + i, data := lineBytes bs i, poison := linePoisoned bs i } : PfOffer)
    pmu pmuQmc { h with hom := { h.hom with offers := h.hom.offers ++ new } } q 0x07 3 part
  else h

/-- A write noted by a quarter: the 64 KiB granule becomes dirty while a channel retrains, and an offer of the line that is under way is
out of date (R257, R275; log 67). -/
def noteWrite (h : Hw) (q qa : Nat) : Hw :=
  let stale := fun (o : PfOffer) => if o.quarter == q && o.qline == qa / 64 then { o with stale := true } else o
  let h := { h with hom := { h.hom with offers := h.hom.offers.map stale } }
  if fon h F_QMC_STATUS_RETRAINING q then
    let v := quarterOf h q
    if v.dirty.contains (qa / 65536) then h
    else setQuarter h q { v with dirty := (v.dirty ++ [qa / 65536]).mergeSort }
  else h

/-- Granules `[qa, qa + n)` of a quarter are written whole: dirty while a channel retrains (R87, R275). -/
def noteClear (h : Hw) (q qa n : Nat) : Hw :=
  if fon h F_QMC_STATUS_RETRAINING q then
    let v := quarterOf h q
    let new := (List.range (n / 65536)).map (qa / 65536 + ·)
    setQuarter h q { v with dirty := ((v.dirty.filter fun g => !new.contains g) ++ new).mergeSort }
  else h

/-- What a quarter counts and records for a quad-line it reads without symbol errors: uncorrectable beats, in LOST, and lines with a
stored marker (R255, R266, R269). -/
def noteBeats (h : Hw) (q n : Nat) (bs : List BeatRead) : Hw :=
  let h := bs.zipIdx.foldl (fun h e => if e.1.out == .uncorrectable then countUncorrectable h q (256 * n + 16 * e.2) else h) h
  fadd h F_QMC_UE_POISON_READS (markedLines bs) q

/-- The symbol errors of a read-modify-write at quarter address `qa`, as the memory that reads its line takes them. -/
def putErrs (h : Hw) (q qa : Nat) (errs : List SymErr) : List (Nat × Nat × Nat) :=
  errs.filterMap fun e => (positionOf h q (qa / 256) e.channel.val).map fun p =>
    (dkey q (qa / 256 * 256) / 16 + e.beat.val, p, e.bits.toNat)

/-- A quarter takes a write into one line: one burst, or a read-modify-write where it gives a beat in part, whose read is counted as
`note` says (R258, R267, R275). -/
def quarterTake (h : Hw) (q qa : Nat) (data : List (Option Byte)) (pz : Bool) (part : Option Nat) (errs : List SymErr)
    (note : Hw → Eff) : Eff :=
  let k := dkey q qa
  let rmw := (List.range 4).any fun b => touchesBeat k data (k / 64 * 4 + b) && !coversBeat k data (k / 64 * 4 + b)
  let op := MemOp.put k data pz (erasedAt h q (qa / 256)) (qState h q == qLost) (putErrs h q qa errs)
  let h := pmuBursts h q 0x02 1 part
  let e := if rmw then note (pmu pmuQmc h q 0x03 1 part) else { hw := h }
  { hw := noteWrite e.hw q qa, ops := e.ops ++ [op] }

/-- A write of an agent into one line of a quarter (R258, R266, R267). -/
def quarterWrite (h : Hw) (m : Mem) (q qa : Nat) (data : List (Option Byte)) (pz : Bool) (part : Option Nat) : Eff :=
  quarterTake h q qa data pz part [] fun h => { hw := noteBeats h q (qa / 256) (readQuad h m q (qa / 256) []) }

end Sys2Proof.Machine
end

