-- ==== Sys2Proof/Machine/Home.lean ====
section
/-!
DEFINITION. LLC slices as homes: private caches and slices, the snoop filter, transactions and their order, maintenance of one line, and
the reads and writes of agents that cache no line.
-/

namespace Sys2Proof.Machine

/-- The answer of the last access. -/
def setBusErr (h : Hw) (b : Bool) : Hw := { h with busErr := b }

/-- The cores of a partition. -/
def coresOf (h : Hw) (p : Nat) : List Nat := (List.range 160).filter fun c => bit (partOf h p).squares (c / 2)

/-- An effect over a list, each step on the memory the earlier ones left. -/
def effFold {α : Type} (h : Hw) (m : Mem) (f : Hw → Mem → α → Eff) : List α → Eff
  | [] => { hw := h }
  | a :: r =>
    let e := f h m a
    let e2 := effFold e.hw (m.applyAll e.ops) f r
    { hw := e2.hw, ops := e.ops ++ e2.ops }

/-- One effect after another, the second on the memory the first left. -/
def Eff.next (e : Eff) (m : Mem) (f : Hw → Mem → Eff) : Eff :=
  let r := f e.hw (m.applyAll e.ops)
  { hw := r.hw, ops := e.ops ++ r.ops }

/-! ### Homes and copies of a line (R393, R394, R396) -/

/-- Key of a line in the table of private caches, and in the table of the slices. -/
def l1key (c line : Nat) : Nat := c * 2 ^ 46 + line

/-- H32 and the row hash of R327. -/
def h32 (x : Nat) : Nat :=
  let x := x % 2 ^ 32 * 0x9E3779B1 % 2 ^ 32
  let x := x.xor (x / 2 ^ 15)
  let x := x * 0x85EBCA77 % 2 ^ 32
  x.xor (x / 2 ^ 13)

def rowHash (l : List Nat) : Nat := l.foldl (fun a v => h32 (a.xor (v % 2 ^ 32))) 0

/-- The home set of a partition: its slices in service at its last reset, ascending (R396, R556). -/
def homeSet (h : Hw) (p : Nat) : List Nat :=
  (List.range 160).filter fun k => bit (partOf h p).squares (k / 2) && !h.hom.out.contains k

/-- The home of a physical address (R396, R402). -/
def homeOf (h : Hw) (a : Nat) : Option Nat :=
  match placeOf h a with
  | .dram p _ _ =>
    let hs := homeSet h p
    hs[rowHash [bits a 39 8, bits a 51 40] % hs.length]?
  | .scratch o => some (o / (768 * 1024))
  | _ => none

/-- The private caches that hold a line, with their line. -/
def holders (h : Hw) (line : Nat) : List (Nat × CacheLine) :=
  (h.hom.l1.filter fun e => e.1 % 2 ^ 46 == line).map fun e => (e.1 / 2 ^ 46, e.2)

/-- The LLC copy of a line, with its slice. -/
def llcCopy (h : Hw) (line : Nat) : Option (Nat × CacheLine) :=
  ((h.hom.llc.find? fun e => e.1 % 2 ^ 46 == line).map fun e => (e.1 / 2 ^ 46, e.2))

/-! ### Tables of lines (R393, R394, R410) -/

/-- Entry at a key of a table whose listed entries are what is present. -/
def tfind {α : Type} : Tab α → Nat → Option α
  | [], _ => none
  | (j, v) :: r, k => if j = k then some v else tfind r k

/-- The line as core `c` holds it; none is state I. -/
def coreLine (h : Hw) (c line : Nat) : Option CacheLine := tfind h.hom.l1 (l1key c line)
/-- The line as slice `k` holds it. -/
def llcLine (h : Hw) (k line : Nat) : Option CacheLine := tfind h.hom.llc (l1key k line)

def setL1 (h : Hw) (c line : Nat) (l : CacheLine) : Hw :=
  { h with hom := { h.hom with l1 := tins h.hom.l1 (l1key c line) l, clock := h.hom.clock + 1 } }
def delL1 (h : Hw) (c line : Nat) : Hw := { h with hom := { h.hom with l1 := tdel h.hom.l1 (l1key c line) } }
def setLlc (h : Hw) (k line : Nat) (l : CacheLine) : Hw :=
  { h with hom := { h.hom with llc := tins h.hom.llc (l1key k line) l, clock := h.hom.clock + 1 } }
def delLlc (h : Hw) (k line : Nat) : Hw := { h with hom := { h.hom with llc := tdel h.hom.llc (l1key k line) } }

/-- The next place in the order of use. -/
def nextUse (h : Hw) : Nat := h.hom.clock + 1

/-- The core allocates lines: L2 enabled, or L1D enabled over it (R393, R406). -/
def allocates (h : Hw) (c : Nat) : Bool := fget h F_CACHE_EN_L2_EN c == 1

/-- The home of a line (R396, R402). -/
def homeLine (h : Hw) (line : Nat) : Option Nat := homeOf h (64 * line)

/-- The partition whose memory a line is. -/
def linePart (h : Hw) (line : Nat) : Option Nat :=
  match placeOf h (64 * line) with
  | .dram p _ _ => some p
  | .scratch o => ownerSquare h (o / (768 * 1024) / 2)
  | _ => none

/-- The open transaction of a line (R414). -/
def transOf (h : Hw) (line : Nat) : Option Trans := tget none h.hom.trans line
def setTrans (h : Hw) (line : Nat) (t : Option Trans) : Hw :=
  { h with hom := { h.hom with trans := tset none h.hom.trans line t } }

/-- A line served from the LLC becomes the most recently used of its set (R399). -/
def touchLlc (h : Hw) (line : Nat) : Hw :=
  match llcCopy h line with
  | some (k, l) => setLlc h k line { l with use := nextUse h }
  | none => h

/-! ### The newest copy of a line (R404, R419) -/

/-- The copy that supplies a line: a private cache in M, E or F, else an LLC copy that is not stale (R404, R419). -/
def supplier (h : Hw) (line : Nat) : Option CacheLine :=
  match (holders h line).find? fun e => e.2.st != .s with
  | some e => some e.2
  | none =>
    match llcCopy h line with
    | some (_, l) => if l.stale then none else some l
    | none => none

/-- Bytes and poison of a line as memory below the caches gives it: a read of its quarter, or its scratchpad way (R255, R266, R402). -/
def backing (h : Hw) (m : Mem) (a : Nat) : List Byte × Bool :=
  match placeOf h (a / 64 * 64) with
  | .dram _ q qa =>
    let bs := readQuad h m q (qa / 256) []
    (lineBytes bs (qa % 256 / 64), linePoisoned bs (qa % 256 / 64))
  | .scratch o => ((List.range 64).map fun i => m.scr (o + i), m.scrPoison o)
  | _ => (zeros 64, false)

/-- The most recent bytes of a line in its home's order, and its poison bit (R394, R419). -/
def lineNow (h : Hw) (m : Mem) (a : Nat) : List Byte × Bool :=
  match supplier h (a / 64) with
  | some l => (l.data, l.poison)
  | none => backing h m a

/-- What a read of line `a` leaves: a line that the LLC supplies was used; for one that no cache supplies the quarter counts, records and
offers (R257, R266, R399). -/
def noteRead (h : Hw) (m : Mem) (a : Nat) (part : Option Nat) : Hw :=
  match supplier h (a / 64), placeOf h (a / 64 * 64) with
  | some _, _ => if (holders h (a / 64)).any fun e => e.2.st != .s then h else touchLlc h (a / 64)
  | none, .dram _ q qa =>
    let n := qa / 256
    let bs := readQuad h m q n []
    let h' := noteBeats (pmuBursts h q 0x01 1 part) q n bs
    if (homeOf h a).isSome then sendOffers h' q n (qa % 256 / 64) (a / 64 * 64) part bs else h'
  | _, _ => h

/-- A read of a line in its home's order: the state after it, the bytes and the poison bit (R257, R266, R394, R419). -/
def lineRead (h : Hw) (m : Mem) (a : Nat) (part : Option Nat) : Hw × List Byte × Bool := (noteRead h m a part, lineNow h m a)

/-! ### Reads of agents that cache no line (R278, R402, R419, R420) -/

/-- Whether an asker may reach an address, and the state in which a refusal has been counted (R279, R402, R420). -/
def mayReach (h : Hw) (w : Asker) (a : Nat) (write : Bool) : Bool × Hw :=
  match placeOf h a with
  | .dram p q qa =>
    if regionAllows h w q qa then (!partDown h p, h) else (false, violate h w q qa write)
  | .scratch o =>
    (scratchAllows h w o && !(match ownerSquare h (o / (768 * 1024) / 2) with
      | some p => partDown h p
      | none => false), h)
  | _ => (false, h)

/-- The line addresses of `n` bytes from `a`, with the part of each line that lies in them: address and count. -/
def pieces (a n : Nat) : List (Nat × Nat) :=
  (linesOf a n).map fun l =>
    let lo := max a (64 * l)
    (lo, min (a + n) (64 * l + 64) - lo)

/-- Reads of pieces of memory in order: the bytes, for each byte whether its line is poisoned, and whether every piece was
allowed; the first refused piece ends the read (R5, R279). -/
def readPieces (h : Hw) (m : Mem) (w : Asker) : List (Nat × Nat) → Hw × Bool × List Byte × List Bool
  | [] => (h, true, [], [])
  | (a, n) :: r =>
    match mayReach h w a false with
    | (false, h') => (h', false, [], [])
    | (true, h') =>
      let (h', d, pz) := lineRead h' m a w.part
      let (h2, ok, bs, ps) := readPieces h' m w r
      (h2, ok, sub d (a % 64) n ++ bs, List.replicate n pz ++ ps)

/-- A read by an agent that caches no line. One that meets an open transaction of its line returns what it would return in its turn: no
transaction changes the newest copy's bytes (R419; log 23). -/
def agentRead (h : Hw) (m : Mem) (w : Asker) (a n : Nat) : Hw × Bool × List Byte × List Bool :=
  readPieces h m w (pieces a n)

/-! ### Writing lines to memory, and the ways of a slice (R397, R399, R401, R404) -/

/-- Write a whole line where it belongs: DRAM by its quarter, or the scratchpad way (R258, R402). -/
def putLine (h : Hw) (m : Mem) (line : Nat) (data : List Byte) (pz : Bool) : Eff :=
  match placeOf h (64 * line) with
  | .dram p q qa => quarterWrite h m q qa (data.map some) pz (some p)
  | .scratch o => { hw := h, ops := [.scr o (data.map some) pz] }
  | _ => { hw := h }

/-- Mode of way `w` of slice `k`: 0 NORMAL, 1 LOCKABLE, 2 SCRATCH, 3 DISABLED (R423). -/
def wayMode (h : Hw) (k w : Nat) : Nat := bits (fget h F_LLC_CFG_WAYMODE k) (2 * w + 1) (2 * w)

def setWayMode (h : Hw) (k w m : Nat) : Hw :=
  let v := fget h F_LLC_CFG_WAYMODE k
  fset h F_LLC_CFG_WAYMODE (v - wayMode h k w * 4 ^ w + m * 4 ^ w) k

/-- Ways of a slice in a mode, ascending. -/
def waysIn (h : Hw) (k m : Nat) : List Nat := (List.range 12).filter fun w => wayMode h k w == m

/-- The lines of slice `k`: line number and entry. -/
def sliceLines (h : Hw) (k : Nat) : List (Nat × CacheLine) :=
  (h.hom.llc.filter fun e => e.1 / 2 ^ 46 == k).map fun e => (e.1 % 2 ^ 46, e.2)

/-- Set of a line in a slice (2,048 sets). PRESUMED: safe (log 21): address bits 16:6. -/
def llcSet (line : Nat) : Nat := line % 2048

/-- The lines of the set that a line belongs to. -/
def setLines (h : Hw) (k line : Nat) : List (Nat × CacheLine) := (sliceLines h k).filter fun e => llcSet e.1 == llcSet line

/-- The least recently used of some lines. -/
def leastUsed : List (Nat × CacheLine) → Option (Nat × CacheLine)
  | [] => none
  | e :: r => match leastUsed r with
    | some f => if f.2.use < e.2.use then some f else some e
    | none => some e

/-- The way a line takes among `ways`: an empty one, lowest first, else that of the least recently used unlocked line, which
leaves (R399; log 21). -/
def pickWay (h : Hw) (k line : Nat) (ways : List Nat) : Option (Nat × Option (Nat × CacheLine)) :=
  let es := setLines h k line
  match ways.find? fun w => es.all fun e => e.2.way != w with
  | some w => some (w, none)
  | none => (leastUsed (es.filter fun e => ways.contains e.2.way && !e.2.locked)).map fun e => (e.2.way, some e)

/-- A line leaves its slice: dirty bytes that are current go to memory (R399, R404). -/
def evictLlc (h : Hw) (m : Mem) (k line : Nat) (l : CacheLine) : Eff :=
  let h := delLlc h k line
  if l.dirty && !l.stale then putLine h m line l.data l.poison else { hw := h }

/-- The home takes a line's data: into the copy it has, else into a way; with no way, or the slice disabled, dirty data goes to
memory (R397, R404, R406, R411). Scratchpad lines go into their way (R402). -/
def homeTake (h : Hw) (m : Mem) (line : Nat) (data : List Byte) (poison dirty : Bool) : Eff :=
  match placeOf h (64 * line), homeLine h line with
  | .scratch _, _ => if dirty then putLine h m line data poison else { hw := h }
  | _, none => if dirty then putLine h m line data poison else { hw := h }
  | _, some k =>
    match llcLine h k line with
    | some l =>
      { hw := setLlc h k line { l with data := data, poison := poison, dirty := l.dirty || dirty, stale := false, use := nextUse h } }
    | none =>
      if fget h F_LLC_CFG_EN k != 1 then (if dirty then putLine h m line data poison else { hw := h })
      else
        match pickWay h k line (waysIn h k 0 ++ waysIn h k 1) with
        | none => if dirty then putLine h m line data poison else { hw := h }
        | some (w, victim) =>
          let e := match victim with | some (vl, v) => evictLlc h m k vl v | none => { hw := h }
          e.map fun h => setLlc h k line { data := data, poison := poison, dirty := dirty, way := w, use := nextUse h }

/-- A requester takes a line in M: the LLC copy leaves, a locked one stays and is stale (R397, R404). -/
def llcLeave (h : Hw) (line : Nat) : Hw :=
  match llcCopy h line with
  | some (k, l) => if l.locked then setLlc h k line { l with stale := true } else delLlc h k line
  | none => h

/-- A private cache stores into a line that it alone holds: a locked copy in the LLC is stale from then on (R404, R410). -/
def staleLocked (h : Hw) (line : Nat) : Hw :=
  match llcCopy h line with
  | some (k, l) => if l.locked then setLlc h k line { l with stale := true } else h
  | none => h

/-! ### The snoop filter (R416, R417) -/

def filterOf (h : Hw) (line : Nat) : Option Filter := tfind h.hom.filter line

/-- Core `c` holds the line: an exact number up to four, groups of eight beyond (R416). -/
def filterAdd (h : Hw) (line c : Nat) : Hw :=
  let f := (filterOf h line).getD {}
  let (f, coarsened) := match f.coarse with
    | some g => ({ f with coarse := some (setBit g (c / 8) true) }, false)
    | none =>
      if f.cores.contains c then (f, false)
      else if f.cores.length < 4 then ({ f with cores := f.cores ++ [c] }, false)
      else ({ f with cores := [], coarse := some ((f.cores ++ [c]).foldl (fun g x => setBit g (x / 8) true) 0) }, true)
  let h := { h with hom := { h.hom with filter := tins h.hom.filter line { f with use := nextUse h }, clock := h.hom.clock + 1 } }
  match coarsened, homeLine h line with
  | true, some k => fadd h F_SF_STATUS_COARSE 1 k
  | _, _ => h

/-- Core `c` no longer holds the line; a coarse entry keeps its groups. -/
def filterDel (h : Hw) (line c : Nat) : Hw :=
  match filterOf h line with
  | none => h
  | some f =>
    let cs := drop1 f.cores c
    if f.coarse.isNone && cs.isEmpty then { h with hom := { h.hom with filter := tdel h.hom.filter line } }
    else { h with hom := { h.hom with filter := tins h.hom.filter line { f with cores := cs } } }

/-- The entry lists core `c` alone: at the end of a transaction that left it the only holder. -/
def filterOnly (h : Hw) (line c : Nat) : Hw :=
  { h with hom := { h.hom with filter := tins h.hom.filter line { cores := [c], use := nextUse h }, clock := h.hom.clock + 1 } }

/-- The cores a snoop for the line may go to: those of the entry, or every core of the partition in a marked group (R416). -/
def tracked (h : Hw) (line : Nat) : List Nat :=
  match filterOf h line with
  | none => []
  | some f =>
    match f.coarse with
    | some g => (match linePart h line with | some p => (coresOf h p).filter fun c => bit g (c / 8) | none => [])
    | none => f.cores

/-- Set of a line in the filter: A[16:6] XOR A[27:17] (R416). -/
def filterSet (line : Nat) : Nat := (line % 2048).xor (line / 2048 % 2048)

/-- Lines tracked in the filter set of a line at slice `k`, those in the back-invalidation buffer left out (R417). -/
def filterPeers (h : Hw) (k line : Nat) : List (Nat × Filter) :=
  h.hom.filter.filter fun e => filterSet e.1 == filterSet line && homeLine h e.1 == some k && !h.hom.backinv.contains (k, e.1)

/-- What a request that needs a filter entry finds: room, a victim, or neither (R417). -/
inductive FilterRoom where
  | room
  | victim (line : Nat)
  | full

/-- What a request for a line finds in its filter set when `kept` entries of the set are promised to others. -/
def roomBeside (h : Hw) (k line kept : Nat) : FilterRoom :=
  if (filterOf h line).isSome then .room
  else
    let ps := filterPeers h k line
    if ps.length + kept < 24 then .room
    else if 0 < kept || 16 ≤ (h.hom.backinv.filter fun b => b.1 == k).length then .full
    else
      match (ps.filter fun e => (transOf h e.1).isNone).foldl
          (fun (o : Option (Nat × Filter)) e => match o with | some f => if e.2.use < f.2.use then some e else o | none => some e) none with
      | some e => .victim e.1
      | none => .full

/-- Retry credits held by slice `k`, and those for the filter set of a line, whose holders the next entries are for (R417). -/
def creditsOf (h : Hw) (k : Nat) : Nat := (h.hom.credits.filter fun c => c.1 == k).length
def creditsFor (h : Hw) (k line : Nat) : Nat := (h.hom.credits.filter fun c => c.1 == k && filterSet c.2.1 == filterSet line).length

/-- What a new request finds. -/
def filterRoom (h : Hw) (k line : Nat) : FilterRoom := roomBeside h k line (creditsFor h k line)
def isFull : FilterRoom → Bool | .full => true | _ => false

/-! ### Transactions and their order (R411, R413 to R417) -/

/-- The requester of a transaction still waits for its line and may hold it (R406, R422). -/
def takes (h : Hw) (t : Trans) : Bool := !t.gone && allocates h t.core

/-- Give the requester its line and state, or the bytes alone where it may hold no line. -/
def giveLine (h : Hw) (t : Trans) (line : Nat) (st : CState) (data : List Byte) (poison : Bool) : Hw :=
  if takes h t then filterAdd (setL1 h t.core line { st := st, data := data, poison := poison, use := nextUse h, born := nextUse h }) line t.core
  else if t.gone then h
  else { h with lastResult := data ++ [if poison then 1 else 0] }

/-- Every snoop has been answered: a requester that no holder supplied is served by the home, from the LLC or the quarter, and
has its result (R397, R411). -/
def finishReq (h : Hw) (m : Mem) (line : Nat) (t : Trans) : Hw :=
  let others := (tracked h line).filter fun c => c != t.core && (coreLine h c line).isSome
  let done := fun (h : Hw) => setTrans h line (some { t with waiting := [], done := true })
  let serve := fun (h : Hw) (st : CState) =>
    if t.got then h
    else
      let (h, l) := lineRead h m (64 * line) (linePart h line)
      giveLine h t line st l.1 l.2
  let owns := fun (h : Hw) => if (coreLine h t.core line).isSome then filterOnly (llcLeave h line) line t.core else h
  match t.req with
  | .readShared => done (serve h (if others.isEmpty then .e else .f))
  | .upgrade =>
    match coreLine h t.core line with
    | some l => done (owns (setL1 h t.core line { l with st := .m, use := nextUse h }))
    | none => done (owns (serve h .m))
  | .readUnique => done (owns (serve h .m))
  | .backinv => setTrans { h with hom := { h.hom with backinv := h.hom.backinv.filter fun b => b.2 != line, filter := tdel h.hom.filter line } } line none
  | _ => done h

/-- The mesh cycle that module time is in: the arrival slot of a request that arrives now (R414). -/
def meshSlot (h : Hw) : Nat := h.now * 5 / 256

/-- The home opens a transaction: the snoops it sends, or the result at once where none is needed (R411, R416). -/
def startReq (h : Hw) (m : Mem) (req : CReq) (c line : Nat) : Hw :=
  let coarse := match filterOf h line with | some f => f.coarse.isSome | none => false
  let others := (tracked h line).filter (· != c)
  let st := fun x => (coreLine h x line).map (·.st)
  let ask := match req with
    | .readShared => others.filter fun x => if coarse then st x != some .s else st x != some .s && (st x).isSome
    | _ => others
  let t : Trans := { req := req, core := c, waiting := ask, asked := ask.length, slot := meshSlot h }
  if ask.isEmpty then finishReq h m line t else setTrans h line (some t)

/-- A victim of the filter moves to the back-invalidation buffer and its holders are sent SNP_INVAL (R417). -/
def backInvalidate (h : Hw) (m : Mem) (k line : Nat) : Hw :=
  let h := fadd { h with hom := { h.hom with backinv := h.hom.backinv ++ [(k, line)] } } F_SF_STATUS_BACKINV 1 k
  startReq h m .backinv 160 line

/-- The place of a request among those of its line in one arrival slot: writebacks, then by requester (R414). -/
def Waiter.rank (w : Waiter) : Nat := (match w.req with | .wbDirty | .wbClean => 0 | _ => 160) + w.core

/-- A writeback or a line of a maintenance command, which needs no filter entry. -/
def CReq.atOnce : CReq → Bool
  | .wbDirty | .wbClean | .maint => true
  | _ => false

/-- A request takes its place in the arbiter: behind every earlier one, and within its slot by rank (R414). -/
def insertWaiter (w : Waiter) : List Waiter → List Waiter
  | [] => [w]
  | x :: r => if x.line == w.line && x.slot == w.slot && decide (w.rank < x.rank) then w :: x :: r else x :: insertWaiter w r

def addWaiter (h : Hw) (w : Waiter) : Hw := { h with hom := { h.hom with waiting := insertWaiter w h.hom.waiting } }
def dropWaiter (h : Hw) (w : Waiter) : Hw := { h with hom := { h.hom with waiting := h.hom.waiting.erase w } }

/-- A request of lower rank arrives in the slot in which the open transaction of its line started, and no snoop has been answered: that
transaction goes back into the arbiter (R414, R415). -/
def giveWay (h : Hw) (line rank : Nat) : Hw :=
  match transOf h line with
  | some t =>
    let w : Waiter := { line := line, req := t.req, core := t.core, slot := t.slot }
    if t.slot == meshSlot h && t.waiting.length == t.asked && !t.done && t.req != .backinv && decide (rank < w.rank)
    then addWaiter (setTrans h line none) w else h
  | none => h

/-- A request whose turn it is starts, or waits while no retry credit is free or for want of a filter entry (R417). -/
def beginReq (h : Hw) (m : Mem) (w : Waiter) (k : Nat) (found : FilterRoom) : Hw :=
  if 32 ≤ creditsOf h k then addWaiter h w
  else
    match found with
    | .room => startReq h m w.req w.core w.line
    | .victim v => startReq (backInvalidate h m k v) m w.req w.core w.line
    | .full => addWaiter h w

/-- A request arrives at its home: it waits behind the open transaction of its line and the requests of the line that wait, or it starts
(R414, R417). -/
def arrive (h : Hw) (m : Mem) (req : CReq) (c line : Nat) : Hw :=
  let w : Waiter := { line := line, req := req, core := c, slot := meshSlot h }
  match homeLine h line with
  | none => setBusErr h true
  | some k =>
    let first := (transOf h line).isSome || h.hom.waiting.all fun x => x.line != line
    let h := giveWay h line w.rank
    if (transOf h line).isSome || !first then addWaiter h w else beginReq h m w k (filterRoom h k line)

/-- A request for a line may start: the line has no open transaction, its home a credit to give and a filter entry (R414, R417). -/
def startable (h : Hw) (line : Nat) : Bool :=
  (transOf h line).isNone && (match homeLine h line with
    | some k => decide (creditsOf h k < 32) && !isFull (filterRoom h k line)
    | none => false)

/-- A request that waited starts. -/
def startWaiter (h : Hw) (m : Mem) (w : Waiter) : Hw :=
  match homeLine h w.line with
  | some k => beginReq h m w k (filterRoom h k w.line)
  | none => h

/-- Requests that waited for a credit or for a filter entry start, the oldest first, as far as nothing holds them any more (R417, R418).
`fuel` is the number that wait. -/
def startWaiting (h : Hw) (m : Mem) : Nat → Hw
  | 0 => h
  | n + 1 =>
    match h.hom.waiting.find? fun w => !w.req.atOnce && startable h w.line with
    | none => h
    | some w => startWaiting (startWaiter (dropWaiter h w) m w) m n

/-- Entries of the filter may have become free. -/
def wakeWaiting (h : Hw) (m : Mem) : Hw := startWaiting h m h.hom.waiting.length

/-- A writeback the home takes, which had the arrival slot `slot`: from a writer that no longer holds the line it is discarded; dirty
data is forwarded to the ownership request of the same slot whose turn it is, or installed. Data that a snoop took before has
gone to the home (R411, R415). -/
def takeWriteback (h : Hw) (m : Mem) (dirty : Bool) (c line slot : Nat) : Eff :=
  match coreLine h c line with
  | none => { hw := h }
  | some l =>
    let h := filterDel (delL1 h c line) line c
    if l.st == .m then
      match h.hom.waiting.find? fun w => w.line == line with
      | some w =>
        if w.slot == slot && (w.req == .readUnique || w.req == .upgrade) && allocates h w.core then
          let t : Trans := { req := w.req, core := w.core, waiting := [], got := true, done := true, slot := slot }
          let h := filterOnly (llcLeave (giveLine (dropWaiter h w) t line .m l.data l.poison) line) line w.core
          { hw := setTrans h line (some t) }
        else homeTake h m line l.data l.poison true
      | none => homeTake h m line l.data l.poison true
    else if dirty then { hw := h }
    else
      let (n, h) := takeFree h
      if Config.freeBool n then homeTake h m line l.data l.poison false else { hw := h }

/-! ### Maintenance of a line (R403, R407, R408) -/

/-- SNP_CLEAN: M moves to E and its data goes through the home to memory (R407, R411). -/
def snoopClean (h : Hw) (m : Mem) (c line : Nat) : Eff :=
  match coreLine h c line with
  | some l =>
    if l.st != .m then { hw := h }
    else
      let h := setL1 h c line { l with st := .e }
      let h := match llcCopy h line with
        | some (k, x) => setLlc h k line { x with data := l.data, poison := l.poison, dirty := false, stale := false }
        | none => h
      putLine h m line l.data l.poison
  | none => { hw := h }

/-- The line is clean: the newest dirty bytes, of a private cache or of the LLC, go to memory and the copies stay (R407). -/
def cleanLine (h : Hw) (m : Mem) (line : Nat) : Eff :=
  match (holders h line).find? fun e => e.2.st == .m with
  | some (c, _) => snoopClean h m c line
  | none =>
    match llcCopy h line with
    | some (k, l) => if l.dirty && !l.stale then putLine (setLlc h k line { l with dirty := false }) m line l.data l.poison else { hw := h }
    | none => { hw := h }

/-- The private copies of a line leave. -/
def dropPrivate (h : Hw) (line : Nat) : Hw :=
  { h with hom := { h.hom with l1 := h.hom.l1.filter fun e => e.1 % 2 ^ 46 != line, filter := tdel h.hom.filter line } }

/-- Remove every cached copy of a line (SNP_INVAL of R411). -/
def dropCopies (h : Hw) (line : Nat) : Hw :=
  { h with hom := { h.hom with l1 := h.hom.l1.filter fun e => e.1 % 2 ^ 46 != line,
                               llc := h.hom.llc.filter fun e => e.1 % 2 ^ 46 != line,
                               filter := tdel h.hom.filter line } }

/-- Whether a line is locked in the LLC. -/
def isLocked (h : Hw) (line : Nat) : Bool := match llcCopy h line with | some (_, l) => l.locked | none => false

/-- A scratchpad line. -/
def isScratch (h : Hw) (line : Nat) : Bool := match placeOf h (64 * line) with | .scratch _ => true | _ => false

/-- LOCK of one line: filled into a LOCKABLE way of its home's set, or skipped (R403, R404). -/
def lockLine (h : Hw) (m : Mem) (line : Nat) : Eff × Bool :=
  match isScratch h line, homeLine h line with
  | false, some k =>
    if isLocked h line then ({ hw := h }, false)
    else if fget h F_LLC_CFG_EN k != 1 then ({ hw := h }, true)
    else
      match pickWay { h with hom := { h.hom with llc := tdel h.hom.llc (l1key k line) } } k line (waysIn h k 1) with
      | none => ({ hw := h }, true)
      | some (w, victim) =>
        let owned := (holders h line).any fun e => e.2.st == .m
        let old := llcLine h k line
        let (h, l) := lineRead h m (64 * line) (linePart h line)
        let e := match victim with | some (vl, v) => evictLlc h m k vl v | none => { hw := h }
        (e.map fun h => setLlc h k line
          { data := l.1, poison := l.2, dirty := (match old with | some o => o.dirty | none => false), locked := true, stale := owned,
            way := w, use := nextUse h }, false)
  | _, _ => ({ hw := h }, true)

def unlockLine (h : Hw) (line : Nat) : Hw :=
  match llcCopy h line with
  | some (k, l) => setLlc h k line { l with locked := false }
  | none => h

/-- One line of an address command, and whether it was skipped (R403, R407, R408). -/
def maintLine (h : Hw) (m : Mem) (cmd line : Nat) : Eff × Bool :=
  match cmd with
  | 1 => (cleanLine h m line, false)
  | 2 =>
    if isScratch h line then ((cleanLine h m line).map fun h => dropPrivate h line, false)
    else if isLocked h line then ({ hw := h }, true)
    else ({ hw := dropCopies h line }, false)
  | 3 =>
    if isScratch h line then ((cleanLine h m line).map fun h => dropPrivate h line, false)
    else if isLocked h line then (cleanLine h m line, true)
    else ((cleanLine h m line).map fun h => dropCopies h line, false)
  | 7 => lockLine h m line
  | _ => ({ hw := unlockLine h line }, false)

/-- The maintenance command that core `c`'s registers run (R407, R409). -/
def maintOf (h : Hw) (c : Nat) : Option Maint := tget none h.hom.maint c
def setMaint (h : Hw) (c : Nat) (x : Option Maint) : Hw := { h with hom := { h.hom with maint := tset none h.hom.maint c x } }

/-- A maintenance command ends: its counts, and its result while SEQ still numbers it (R407, R423). -/
def maintEnd (h : Hw) (c : Nat) (x : Maint) (code : Nat) : Hw :=
  let h := fset (setMaint h c none) F_CM_STATUS_SKIPPED (min x.skipped (2 ^ 24 - 1)) c
  let h := fset h F_CM_STATUS_DONE x.done c
  if fget h F_CM_CMD_SEQ c == x.seq then fset h F_CM_CMD_RESULT code c else h

/-- The lines of a maintenance command in order: each is checked as a write, a refused one ends the command with FAILED, and one with an
open transaction waits for its turn in the arbiter (R278, R407, R414). `fuel` is the number of lines left. -/
def runMaint (h : Hw) (m : Mem) (c : Nat) (x : Maint) : Nat → Eff
  | 0 => { hw := maintEnd h c x rcDone }
  | n + 1 =>
    match mayReach h { part := x.part, secure := x.secure } (64 * x.line) true with
    | (false, h) => { hw := maintEnd h c x rcFailed }
    | (true, h) =>
      if (transOf h x.line).isSome then
        { hw := addWaiter (setMaint h c (some { x with left := n + 1 })) { line := x.line, req := .maint, core := c, slot := meshSlot h } }
      else
        let (e, skip) := maintLine h m x.cmd x.line
        e.next m fun h m => runMaint h m c { x with line := x.line + 1, skipped := x.skipped + b2n skip, done := x.done + 1 } n

/-! ### Transactions close (R414, R417) -/

/-- After a transaction closes, the waiting requests of its line in their order: writebacks and maintenance, then the first other
request, where it may start (R414). `fuel` is the number that wait. -/
def nextWaiting (h : Hw) (m : Mem) (line : Nat) : Nat → Eff
  | 0 => { hw := h }
  | n + 1 =>
    if (transOf h line).isSome then { hw := h }
    else
      match h.hom.waiting.find? fun w => w.line == line with
      | none => { hw := h }
      | some w =>
        match w.req with
        | .wbDirty | .wbClean =>
          (takeWriteback (dropWaiter h w) m (w.req == .wbDirty) w.core line w.slot).next m fun h m => nextWaiting h m line n
        | .maint =>
          (match maintOf h w.core with
            | some x => runMaint (dropWaiter h w) m w.core x x.left
            | none => { hw := dropWaiter h w }).next m fun h m => nextWaiting h m line n
        | _ => { hw := if startable h line then startWaiter (dropWaiter h w) m w else h }

/-- A home transaction of a line ends, and the next request for it starts, and those that a filter entry held back. -/
def closeTrans (h : Hw) (m : Mem) (line : Nat) : Eff :=
  (nextWaiting (setTrans h line none) m line h.hom.waiting.length).next m fun h m => { hw := wakeWaiting h m }

/-- A snoop response of core `c`: one the home waits for is counted, and the last one gives the requester its result (R411,
R414). -/
def answered (h : Hw) (m : Mem) (c line : Nat) (t : Trans) : Eff :=
  let t := { t with waiting := drop1 t.waiting c }
  if !t.waiting.isEmpty then { hw := setTrans h line (some t) }
  else
    let h := finishReq h m line t
    if t.req == .backinv then closeTrans h m line else { hw := h }

/-- SNP_SHARED at a holder: M and E move to F, F stays, each with data to the requester, dirty data also to the home; I answers MISS
(R411). -/
def sharedBy (h : Hw) (m : Mem) (c line : Nat) (t : Trans) : Eff :=
  match coreLine h c line with
  | none => answered h m c line t
  | some l =>
    if l.st == .s then answered h m c line t
    else
      let h := setL1 h c line { l with st := .f }
      let e := if l.st == .m then homeTake h m line l.data l.poison true else { hw := h }
      (e.map fun h => giveLine h t line .s l.data l.poison).next m fun h m => answered h m c line { t with got := true }

/-- SNP_UNIQUE at a holder: it moves to I; M, E and F send data to the requester, S an acknowledgement; I answers MISS. Dirty data that the
requester cannot hold stays at the home (R406, R411, R412). -/
def uniqueBy (h : Hw) (m : Mem) (c line : Nat) (t : Trans) : Eff :=
  match coreLine h c line with
  | none => answered h m c line t
  | some l =>
    let h := filterDel (delL1 h c line) line c
    if l.st == .s || (t.req == .upgrade && (coreLine h t.core line).isSome) then answered h m c line t
    else
      let e := if l.st == .m && !takes h t then homeTake h m line l.data l.poison true else { hw := h }
      (e.map fun h => giveLine h t line .m l.data l.poison).next m fun h m => answered h m c line { t with got := true }

/-- SNP_INVAL at a holder: every state moves to I, and M returns its data to the home, which installs it (R397, R411, R417). -/
def invalidated (h : Hw) (m : Mem) (c line : Nat) : Eff :=
  match coreLine h c line with
  | some l =>
    let h := delL1 h c line
    if l.st == .m then homeTake h m line l.data l.poison true else { hw := h }
  | none => { hw := h }

/-- Core `c` answers the snoop that an open transaction sent it. -/
def snoopAnswer (h : Hw) (m : Mem) (c line : Nat) (t : Trans) : Eff :=
  match t.req with
  | .readShared => sharedBy h m c line t
  | .backinv => (invalidated h m c line).next m fun h m => answered h m c line t
  | _ => uniqueBy h m c line t

/-- The open transactions of a line run to their end, each with its snoops answered and acknowledged. -/
def settleFor (line : Nat) : Nat → Hw → Mem → Eff
  | 0, h, _ => { hw := h }
  | n + 1, h, m =>
    match transOf h line with
    | none => { hw := h }
    | some t =>
      (match t.waiting with
        | [] => closeTrans h m line
        | x :: _ => snoopAnswer h m x line t).next m (settleFor line n)

/-- An access that waits for the open transaction of its line and for the requests before it. DESIGN CHOICE: safe (log 23): they run to
their end within the step of the access (R414). -/
def settleLine (h : Hw) (m : Mem) (line : Nat) : Eff :=
  if (transOf h line).isNone then { hw := h } else settleFor line (161 * (h.hom.waiting.length + 2)) h m

/-! ### Writes of agents that cache no line (R258, R402, R419) -/

/-- The bytes a write leaves in a piece of a line whose newest copy is dirty: the line's bytes with the written ones over
them (R419). -/
def overlay (old : List Byte) (o : Nat) (data : List (Option Byte)) : List (Option Byte) :=
  old.zipIdx.map fun (b, i) => if o ≤ i then (match (data[i - o]?).getD none with | some v => some v | none => some b) else some b

/-- The bytes of a line that memory does not have: those of a private cache in M or of a dirty copy in the LLC, as the newest copy holds
them (R419). -/
def dirtyLine (h : Hw) (line : Nat) : Option CacheLine :=
  let below := match llcCopy h line with | some (_, l) => l.dirty && !l.stale | none => false
  match supplier h line with
  | some l => if l.st == CState.m || below then some l else none
  | none => none

/-- One piece of a write: in its turn the home invalidates every copy, dirty bytes the write does not cover are merged, and the quarter
takes the bytes (R258, R414, R419). A scratchpad line takes them in its way (R402). -/
def writePiece (h : Hw) (m : Mem) (a : Nat) (data : List (Option Byte)) (pz : Bool) (part : Option Nat) : Eff :=
  let line := a / 64
  let e := (settleLine h m line).next m fun h m =>
    let dirty := dirtyLine h line
    let h' := dropCopies h line
    match placeOf h a with
    | .dram _ q qa =>
      match dirty with
      | some l => quarterWrite h' m q (qa / 64 * 64) (overlay l.data (a % 64) data) (pz || (l.poison && data.length != 64)) part
      | none => quarterWrite h' m q qa data pz part
    | .scratch o =>
      match dirty with
      | some l => { hw := h', ops := [.scr (o / 64 * 64) (l.data.map some) l.poison, .scr o data pz] }
      | none => { hw := h', ops := [.scr o data pz] }
    | _ => { hw := h }
  e.next m fun h m => { hw := wakeWaiting h m }

/-- Writes of pieces in order; the first refused piece ends the write. -/
def writePieces (h : Hw) (m : Mem) (w : Asker) (data : List (Option Byte)) (pz : Bool) : List (Nat × Nat) → Eff × Bool
  | [] => ({ hw := h }, true)
  | (a, n) :: r =>
    match mayReach h w a true with
    | (false, h') => ({ hw := h' }, false)
    | (true, h') =>
      let e := writePiece h' m a (data.take n) pz w.part
      let (e2, ok) := writePieces e.hw (m.applyAll e.ops) w (data.drop n) pz r
      ({ hw := e2.hw, ops := e.ops ++ e2.ops }, ok)

/-- A write by an agent that caches no line: its effect and whether every piece was allowed (R419). -/
def agentWrite (h : Hw) (m : Mem) (w : Asker) (a : Nat) (data : List Byte) (pz : Bool := false) : Eff × Bool :=
  writePieces h m w (data.map some) pz (pieces a data.length)

/-- A write whose refusal the writer does not report. -/
def agentStore (h : Hw) (m : Mem) (w : Asker) (a : Nat) (data : List Byte) (pz : Bool := false) : Eff := (agentWrite h m w a data pz).1

end Sys2Proof.Machine
end

