-- ==== Sys2Proof/Machine/Operands.lean ====
section
/-!
DEFINITION. The operand forms of commands: who asks, which register an address names, and who may write it.
-/

namespace Sys2Proof.Machine

/-! ### Requesters -/

/-- The partition and world a requester carries (R443). A core outside every partition carries partition 8, which owns nothing. -/
def askerOf (h : Hw) : Requester → Asker
  | .kydin => .kydin
  | .trusted => { part := some 8, secure := true }
  | .core c => askerIn h ((ownerCore h c).getD 8) (fon h F_CORE_STATUS_WORLD c)
  | .part p s => askerIn h p s
  | .host n => { part := some (partOfFn n) }

/-- The requester is in the secure world of partition `p`, which has one (R442). -/
def isSecureOf (h : Hw) (who : Requester) (p : Nat) : Bool :=
  match who with
  | .core _ | .part _ _ => let w := askerOf h who; w.part == some p && w.secure && hasSecure h p
  | _ => false

/-- The requester is in either world of partition `p`. -/
def isOf (h : Hw) (who : Requester) (p : Nat) : Bool :=
  match who with
  | .core _ | .part _ _ => (askerOf h who).part == some p
  | _ => false

/-- The requester is in the secure world of some partition. -/
def isSecure (h : Hw) (who : Requester) : Bool := (List.range 8).any fun p => isSecureOf h who p

/-- The requester is in the secure world of `p`, or in the normal world of a `p` without a secure image (R442, R444). -/
def isControlOf (h : Hw) (who : Requester) (p : Nat) : Bool := if hasSecure h p then isSecureOf h who p else isOf h who p

/-- The partition byte of a requester for an error record. -/
def whoByte (h : Hw) (who : Requester) : Nat :=
  match who with
  | .kydin | .trusted => 0
  | _ => let w := askerOf h who; if (w.part.getD 8) < 8 then partByte (w.part.getD 8) w.secure else 0

/-- Registers of the HOSTFN window that the host reaches through BAR0 of the function itself (R472). -/
def hostReaches (r : Reg) : Bool :=
  [R_HOSTFN_STATUS, R_HOSTFN_HOF_BUF, R_HOSTFN_HOF_CPL, R_HOSTFN_HOF_CFG, R_HOSTFN_HOF_PTR, R_HOSTFN_DOORBELL].contains r

/-- Registers of a virtual function that its physical function mirrors (R472). -/
def hostMirrors (r : Reg) : Bool := [R_HOSTFN_CTRL, R_HOSTFN_DLOG_BASE, R_HOSTFN_DLOG_CFG, R_HOSTFN_DLOG_PTR].contains r

/-- Whether a function reaches a register of function `n` through BAR0: its own, or a mirrored one of its virtual function (R472). -/
def hostFnReaches (r : Reg) (f n : Nat) : Bool :=
  (hostReaches r && f == n) || (hostMirrors r && decide (f < 8) && decide (8 ≤ n) && partOfFn n == f)

/-- The manager partition (R458). -/
def mgrPart (h : Hw) : Nat := fget h F_TS_CONFIG_MGR_PART

/-- Whether a requester may write element `j` of instance `i` of a register; field-wise rules are applied where the write is
(R444 and the register section of each chapter). Kydin may write every window that any requester may write (R442, R444;
DEDUCED, safe: for the flow and port windows, log 10). -/
def mayWrite (h : Hw) (who : Requester) (r : Reg) (i j : Nat) : Bool :=
  match r.right with
  | .nobody => false
  | .anySecure => who == .kydin || isSecure h who
  | .gate => who == .kydin || (match ownerGate h i with | some p => isSecureOf h who p | none => false)
  | .fn =>
    who == .kydin || isControlOf h who (partOfFn i) ||
      (match who with | .host f => hostFnReaches r f.val i | _ => false)
  | .trigger => who == .kydin || isSecureOf h who h.boot.trigPart
  | .trusted => who == .kydin || who == .trusted
  | .quarter => who == .kydin || (match ownerQuarter h i with | some p => isSecureOf h who p | none => false)
  | .mgr => who == .kydin || isSecureOf h who (mgrPart h)
  | .part | .partP => who == .kydin || isSecureOf h who j
  | .partWait => who == .kydin || isSecureOf h who (j / 8)
  | .kydin => who == .kydin
  | .port => who == .kydin || isOf h who i
  | .coreSecure => who == .kydin || (match ownerCore h i with | some p => isControlOf h who p | none => false)
  | .ownw => true
  | .flow => who == .kydin || (match ownerFlow h (1024 * i + j) with | some p => isSecureOf h who p | none => false)
  | .qp =>
    who == .kydin || (match ownerQp h i j with
      | some p => isOf h who p && (!fon h F_ENG_QP_CFG_WORLD i j || isSecureOf h who p)
      | none => false)
  | .qpSecure => who == .kydin || (match ownerQp h i j with | some p => isSecureOf h who p | none => false)
  | .engPmu =>
    who == .kydin ||
      (List.range 8).any fun p => isSecureOf h who p && (bit (partOf h p).engines i || ownerQuarter h i == some p)
  | .coreCM => who == .kydin || (match ownerCore h i with | some p => isOf h who p | none => false)
  | .coreEither => who == .kydin || (match ownerCore h j with | some p => isOf h who p | none => false)
  | .slice => who == .kydin || (match ownerSquare h (i / 2) with | some p => isSecureOf h who p | none => false)
  | .str =>
    who == .kydin || (match (List.range 80).find? fun s => 16 * (s / 10 + 1) + s % 10 + 1 == i with
      | some s => (match ownerSquare h s with | some p => isSecureOf h who p | none => false)
      | none => false)
  | .partEither => who == .kydin || isOf h who j
  | .tsPort =>
    (match who with
     | .core _ | .part _ _ => (askerOf h who).part == some (j / 2) && (askerOf h who).secure == (j % 2 == 1)
     | _ => false)
  | .hostOut => who == .kydin || isSecureOf h who (j / 32)
  | .src => true
  | .intCtrl => true

/-- The BLOCK code of an error record for a register's window (R549, R564). -/
def blockOf (r : Reg) : Nat :=
  match r.n0 with
  | 0x0 => blkKydin | 0x1 => blkMode | 0x2 => blkBoot | 0x3 => blkTiming | 0x4 => blkAve | 0x5 => blkRbt | 0x6 => blkMemmap
  | 0x7 => blkPart | 0x8 => blkHost | 0x9 => blkBlvd | 0xA => blkInt | 0xB => blkPmu | 0xC => blkTrace | 0x10 => blkFlow
  | 0x18 => blkPort | 0x20 => blkQmc | 0x40 => blkEng | 0x80 => blkGate | 0x100 => blkCore | 0x200 => blkCore | 0x300 => blkLlc
  | 0x400 => blkHost | _ => blkStr

/-- Log a write that a rule refuses: no class, CODE the register's offset (R444, R549). -/
def logRefusedWrite (h : Hw) (who : Requester) (r : Reg) (i j : Nat) : Hw :=
  logRefused h (blockOf r) i r i j (whoByte h who)

/-- The compute dies and the street grid are powered: M3 to M7, and M2 from the step that powers the dies (R71, R90, R566). -/
def gridPowered (h : Hw) : Bool :=
  decide (3 ≤ fget h F_MODE_STATUS_MODE) || (fget h F_MODE_STATUS_MODE == 2 && decide (2 ≤ h.mod.stepsDone))

/-- The windows of the hub die: KYD, MODE, BOOT, HOST and HOSTFN (R566). -/
def hubWindow (r : Reg) : Bool := [0x0, 0x1, 0x2, 0x8, 0x400].contains r.n0

/-- Whether a window answers a requester: every window while the grid is powered; in M0 only the AON registers to Kydin; in M1 and
early M2 the windows of the hub die to Kydin and to the small core of H0, the only hub core that runs then, and the host's registers to
the host (R566; log 26). -/
def served (h : Hw) (who : Requester) (r : Reg) : Bool :=
  gridPowered h ||
    (match who with
     | .kydin => r.dom == .aon || (fget h F_MODE_STATUS_MODE != 0 && hubWindow r)
     | .trusted => fget h F_MODE_STATUS_MODE != 0 && hubWindow r
     | .host _ => fget h F_MODE_STATUS_MODE != 0 && r.n0 == 0x400
     | _ => false)

/-- A command written to register `r`: run where the window answers and the requester may write it; a window that does not answer is
a bus error, and a write that is not accepted is logged (R444, R566). -/
def ifMay (h : Hw) (who : Requester) (r : Reg) (i j : Nat) (run : Hw → Hw) : Hw :=
  if !served h who r then setBusErr h true
  else
    let h := setBusErr h false
    if mayWrite h who r i j then run h else logRefusedWrite h who r i j

/-- The same for a command that may change memory. -/
def ifMayE (h : Hw) (who : Requester) (r : Reg) (i j : Nat) (run : Hw → Eff) : Eff :=
  if !served h who r then { hw := setBusErr h true }
  else
    let h := setBusErr h false
    if mayWrite h who r i j then run h else { hw := logRefusedWrite h who r i j }

/-! ### Modes (R71) -/

/-- The current mode, Mn as n. -/
def modeNow (h : Hw) : Nat := fget h F_MODE_STATUS_MODE

/-- Ingest and Avenue run: M4 or M6, and no ingest stop is under way (R71, R81). -/
def ingestRuns (h : Hw) : Bool := (modeNow h == 4 || modeNow h == 6) && !h.mod.stopping

end Sys2Proof.Machine
end

