-- ==== Sys2Proof/Machine/Flags.lean ====
section
/-!
DEFINITION. Event counters of the blocks, and the state of a partition after a contained error.
-/

namespace Sys2Proof.Machine

/-- CORE_STATUS.STATE codes (R385). -/
def stHeld : Nat := 0
def stRunning : Nat := 1
def stWfi : Nat := 2

/-! ### Mailbox answers (R545, R552, R553) -/

/-- SMB_ALERT_N is driven low. -/
def smbAlert (h : Hw) : Hw := { h with sup := { h.sup with smbAlert := true } }

/-- The response of a request: TAG, RESULT and payload, read by the SMBus target or written into the request block at 0x800, which
ends the request (R552, R553, R563). -/
def mailAnswer (h : Hw) (m : Mem) (path : MailPath) (code : Nat) (payload : List Byte := []) : Eff :=
  match path with
  | .smbus tag =>
    { hw := smbAlert { h with kyd := { h.kyd with respSmb := some (BitVec.ofNat 8 tag.toNat :: BitVec.ofNat 8 code :: payload) } } }
  | .inband =>
    match h.kyd.mboxAddr with
    | none => { hw := h }
    | some a =>
      (agentStore h m .kydin (a + 0x800) (BitVec.ofNat 8 h.kyd.tagIn :: BitVec.ofNat 8 code :: payload)).map fun h =>
        fset { h with kyd := { h.kyd with mboxAddr := none } } F_KYD_MBOX_RESULT 2

/-- Every cached line of a partition is lost, scratchpad included (R422). -/
def loseCaches (h : Hw) (p : Nat) : Hw :=
  let cs := coresOf h p
  let h := { h with hom := { h.hom with
                               l1 := h.hom.l1.filter fun e => !cs.contains (e.1 / 2 ^ 46),
                               llc := h.hom.llc.filter fun e => !cs.contains (e.1 / 2 ^ 46),
                               filter := h.hom.filter.filter fun e => homeOf h (e.1 * 64) |>.all fun k => !cs.contains k,
                               trans := h.hom.trans.filter fun e => homeOf h (e.1 * 64) |>.all fun k => !cs.contains k,
                               waiting := h.hom.waiting.filter fun e => !cs.contains e.core,
                               maint := h.hom.maint.filter fun e => !cs.contains e.1,
                               offers := h.hom.offers.filter fun o => homeOf h (o.line * 64) |>.all fun k => !cs.contains k,
                               backinv := h.hom.backinv.filter fun e => !cs.contains e.1,
                               credits := h.hom.credits.filter fun e => !cs.contains e.1 } }
  cs.foldl (fun h k => fset h F_SF_STATUS_CREDITS 0 k) h

/-- Scratchpad ranges of a partition, zeroed. -/
def scratchOps (h : Hw) (p : Nat) : List MemOp := (coresOf h p).map fun k => .scrClear (k * 768 * 1024) (768 * 1024)

/-- Shadow writes that waited for a COMMIT take effect, in order (R192). -/
def flushShadow (h : Hw) : Hw :=
  let h := h.ave.waiting.foldl (fun h w =>
    match allFields.find? fun f => f.id == w.1 / 2 ^ 32 with
    | some f => { h with regs := tset f.reset h.regs w.1 (w.2 % 2 ^ f.width) }
    | none => h) h
  { h with ave := { h.ave with waiting := [] } }

/-- The trigger partition goes down: CFG_FROZEN, and a pending COMMIT ends REFUSED (R25, R193). -/
def freezeConfig (h : Hw) : Hw :=
  let h := fset h F_AVE_STATUS_CFG_FROZEN 1
  if fon h F_AVE_STATUS_COMMIT_PENDING then
    let h := fset h F_AVE_STATUS_COMMIT_PENDING 0
    flushShadow (if fget h F_AVE_COMMIT_SEQ == h.ave.commitSeq then fset h F_AVE_COMMIT_RESULT rcRefused else h)
  else h

/-- The coherent domain of a partition goes down: its homes and cores stop and every cached line is lost; Avenue keeps the trigger
partition's last configuration (R11, R25, R422). -/
def takeDown (h : Hw) (p : Nat) : Eff :=
  let ops := scratchOps h p
  let h := loseCaches (if p == h.boot.trigPart then freezeConfig h else h) p
  let h := fset h F_PART_STATUS_STATE 3 0 p
  let h := (coresOf h p).foldl (fun h c => if fget h F_CORE_STATUS_STATE c == 3 then h else fset h F_CORE_STATUS_STATE 0 c) h
  { hw := h, ops := ops }

/-- LIMIT of KIND `k` of partition `p` (R454, R465). -/
def quotaOf (h : Hw) (p k : Nat) : Nat := fget h F_PART_QUOTA_LIMIT 0 (8 * p + k - 1)

/-- The OVER bit of KIND `k`: set where use lies above the LIMIT, with the quota source raised when it becomes set (R454). -/
def setOver (h : Hw) (p k : Nat) (on : Bool) : Hw :=
  let v := fget h F_PART_QUOTA_STATUS_OVER 0 p
  if bit v (k - 1) == on then h else
    let h := fset h F_PART_QUOTA_STATUS_OVER (setBit v (k - 1) on) 0 p
    if on then raiseSource h (srcPart p 1) else h

end Sys2Proof.Machine
end

