-- ==== Sys2Proof/Machine/Places.lean ====
section
/-!
DEFINITION. Where the units of the module stand: squares, quarters, stops, dies, links, gates and connectors (R13 to R17).
-/

namespace Sys2Proof.Machine

/-! ### Squares and routers (R13, R564) -/

/-- Router `r` stands at x = r mod 16, y = r div 16; the corners hold none (R13, R564). -/
def isRouter (r : Nat) : Bool :=
  let x := r % 16
  let y := r / 16
  decide (x < 12) && decide (y < 10) && !((x == 0 || x == 11) && (y == 0 || y == 9))

/-- The compute square of a router (R13). -/
def squareOf (r : Nat) : Option Nat :=
  let x := r % 16
  let y := r / 16
  if 1 ≤ x && x ≤ 10 && 1 ≤ y && y ≤ 8 then some ((y - 1) * 10 + (x - 1)) else none

/-- The router of a compute square. -/
def routerOf (s : Nat) : Nat := 16 * (s / 10 + 1) + s % 10 + 1

/-- The routers of Q0 to Q23 (R13). -/
def quarterRouters : List Nat :=
  [1, 2, 3, 4, 7, 8, 9, 10, 145, 146, 147, 148, 151, 152, 153, 154, 32, 48, 96, 112, 43, 59, 107, 123]

/-- The routers of L0 to L7 (R13). -/
def stopRouters : List Nat := [5, 6, 149, 150, 64, 80, 75, 91]

/-- The routers of H0 to H3 (R13). -/
def hubRouters : List Nat := [16, 27, 128, 139]

/-- What a router serves. -/
inductive Site where
  | square (s : Nat)
  | quarter (q : Nat)
  | linkStop (n : Nat)
  | hubStop (n : Nat)
  deriving DecidableEq, Repr

/-- What stands at router `r` (R13). -/
def siteAt (r : Nat) : Option Site :=
  match squareOf r with
  | some s => some (.square s)
  | none =>
    match quarterRouters.findIdx? (· == r), stopRouters.findIdx? (· == r), hubRouters.findIdx? (· == r) with
    | some q, _, _ => some (.quarter q)
    | none, some n, _ => some (.linkStop n)
    | none, none, some n => some (.hubStop n)
    | none, none, none => none

/-- The router is built into a link die. -/
def isStop (r : Nat) : Bool := stopRouters.contains r

/-! ### Dies and connectors (R14) -/

/-- The nine dies; a link die by its number: 0 south, 1 north, 2 west, 3 east. -/
inductive Die where
  | compute (east north : Bool)
  | link (d : Nat)
  | hub
  deriving DecidableEq, Repr

/-- The link die that carries gate `g` (R14). -/
def dieOfGate (g : Nat) : Nat := g / 16

/-- The gate of a serial lane (R14). -/
def gateOfLane (n : Nat) : Nat := n / 16

/-- The link stop that serves gate `g` (R14). -/
def stopOfGate (g : Nat) : Nat := g / 8

/-- The die that a router is built into (R14). -/
def dieOfRouter (r : Nat) : Die :=
  match siteAt r with
  | some (.linkStop n) => .link (n / 2)
  | _ => .compute (decide (6 ≤ r % 16)) (decide (5 ≤ r / 16))

/-- The die of a compute square and its cores and slices, of a quarter, of a gate and its serial lanes (R14). -/
def dieOfSquare (s : Nat) : Die := dieOfRouter (routerOf s)
def dieOfQuarter (q : Nat) : Die := dieOfRouter (quarterRouters.getD q 0)

/-- The connector of a die: Jn (R14). -/
def connectorOf : Die → Option Nat
  | .compute _ _ => none
  | .link d => some (d + 1)
  | .hub => some 7

/-! ### Links (R15, R17) -/

/-- The router that an output leads to. -/
def neighbour (r out : Nat) : Nat :=
  match out with
  | 0 => r + 1
  | 1 => r + 16
  | 2 => r - 1
  | 3 => r - 16
  | _ => r

/-- The input at which a flit of an output arrives. -/
def opposite (out : Nat) : Nat := match out with | 0 => 2 | 1 => 3 | 2 => 0 | 3 => 1 | n => n

/-- A link joins router `r` to its neighbour in direction `d`; none leads off the grid or to a corner (R15). -/
def linked (r d : Nat) : Bool :=
  isRouter r && decide (d < 4) && isRouter (neighbour r d) && !(d == 3 && r < 16)

/-- The link at input `d` of router `r`, or for d = 4 its agents' port, crosses a die boundary: between dies that hold the two routers, and
between H0 and the hub die (R17). -/
def dieBoundary (r d : Nat) : Bool :=
  if d == 4 then hubRouters.head? == some r else linked r d && dieOfRouter r != dieOfRouter (neighbour r d)

end Sys2Proof.Machine
end

