-- ==== Sys2Proof/Machine/ModeOps.lean ====
section
/-!
DEFINITION. Modes: what voltage permits, the holding of blocks, requests and their queue, and entry to Contain.
-/

namespace Sys2Proof.Machine

/-! ### Outputs that follow from the state (R47, R48) -/

/-- The module has power: from power-good until both inputs are lost; a regulator that leaves regulation ends power-good and leaves the
other rails powered (R50, R60, R95). -/
def powered (h : Hw) : Bool := !h.sup.lostBoth

/-- Every output is released: the module absent, unpowered or in a module reset (R47). -/
def allReleased (h : Hw) : Bool := !h.sup.inserted || !powered h || h.mod.warmReset

/-- A cause of the alarm: M7, power-fail sequence, thermal trip, or an alarm of Kydin (R48, R122). -/
def alarmCause (h : Hw) : Bool :=
  modeNow h == 7 || h.sup.powerFail || h.sup.trip || kydinAlarm h || h.sup.alarmKydin != 0

/-- ALARM_N is driven low (R47, R48). -/
def alarmLow (h : Hw) : Bool := !allReleased h && alarmCause h

/-- The trigger outputs are driven (R47, R95). -/
def trigDriven (h : Hw) : Bool :=
  !allReleased h && ((decide (3 ≤ modeNow h) && decide (modeNow h ≤ 6)) || (modeNow h == 7 && fon h F_AVE_STATUS_RUNNING))

/-- The gate is in use: it has a personality, and a partition owns it; what no partition owns is idle (R22, R34). -/
def gateInUse (h : Hw) (g : Nat) : Bool := fget h F_GATE_CONFIG_PERSONALITY g != 0 && (ownerGate h g).isSome

/-- The downlinks of a gate in use are driven in M3 to M6, and in M7 while their link die runs (R34, R47). -/
def downlinkDriven (h : Hw) (g : Nat) : Bool :=
  !allReleased h && gateInUse h g && decide (3 ≤ modeNow h) && !(modeNow h == 7 && bit h.mod.deadDies (dieOfGate g))

/-- A gate in use sends: where its downlinks are driven, and in M2, where R90 and R160 train its lanes. DEDUCED: the table of R47 has
the downlinks released in M2, and the training of R160 sends blocks on them there; the model follows both, so that the pins are
released as the table says and the blocks are recorded as sent (log 46). -/
def gateSends (h : Hw) (g : Nat) : Bool := downlinkDriven h g || (!allReleased h && gateInUse h g && modeNow h == 2)

/-- The outputs of J1 to J4, J6 and J7 that R47 lists. -/
inductive OutPin where
  | trigOut (n : Fin 16)
  | trigQual | matchOut | alarmN | smbClk | smbDat | smbAlertN | tdo | wake
  | downlink (g : Fin 64)
  | pcieTx
  deriving DecidableEq, Repr

/-- What an output does: high-impedance or open-drain released, driven at a level, or driven as its own protocol says. -/
inductive Drive where
  | released
  | level (high : Bool)
  | protocol
  deriving DecidableEq, Repr

/-- An output that follows its protocol in the given condition. -/
def sendsIf (b : Bool) : Drive := if b then .protocol else .released
/-- An open-drain output, low in the given condition. -/
def lowIf (b : Bool) : Drive := if b then .level false else .released

/-- The TAP treats the loaded instruction as BYPASS: one that drives pins outside M0 and M1, and a maker instruction there or while the
test modes are not open (R40, R559). -/
def tapBypass (h : Hw) : Bool :=
  match h.sup.jtagInsn with
  | some (.extest _) | some (.drivesPins _) => decide (2 ≤ modeNow h)
  | some .maker => fget h F_KYD_STATUS_TEST != 1 || decide (2 ≤ modeNow h)
  | some (.sample _) => false
  | some .bypass | none => true

/-- The TAP drives the pins that the boundary-scan register covers: an accepted instruction that drives pins is in it (R40). -/
def scanDrives (h : Hw) : Bool :=
  !tapBypass h && h.sup.tap != .testLogicReset &&
    match h.sup.jtagInsn with | some (.extest _) | some (.drivesPins _) => true | _ => false

/-- The cell of the boundary-scan register for an output of J6 or the sideband of J7; it covers no data pair and not TDO (R40). DESIGN
CHOICE: one cell an output, in the order of R38, since the spec does not lay the register out (log 75). -/
def scanCell : OutPin → Option Nat
  | .matchOut => some 0
  | .trigQual => some 1
  | .trigOut n => some (2 + n.val)
  | .alarmN => some 18
  | .smbClk => some 19
  | .smbDat => some 20
  | .smbAlertN => some 21
  | .wake => some 22
  | .tdo | .downlink _ | .pcieTx => none

/-- An open-drain output, which a cell at 1 leaves released. -/
def openDrain : OutPin → Bool
  | .alarmN | .smbClk | .smbDat | .smbAlertN | .wake => true
  | _ => false

/-- Each output as the module itself drives it (R47, R48, R72, R95). WAKE# and SMB_CLK have no row in the table of R47: the module never
drives them. -/
def ownOutput (h : Hw) : OutPin → Drive
  | .trigOut n => if trigDriven h then .level (bit h.ave.pinTb n.val) else .released
  | .trigQual => if trigDriven h then .level h.ave.pinQual else .released
  | .matchOut => if trigDriven h then .level h.ave.pinMatch else .released
  | .alarmN => lowIf (alarmLow h)
  | .smbAlertN => lowIf (!allReleased h && h.sup.smbAlert)
  | .smbDat | .tdo => sendsIf (!allReleased h)
  | .downlink g => sendsIf (downlinkDriven h g.val)
  | .pcieTx => sendsIf (!allReleased h && modeNow h != 0)
  | .smbClk | .wake => .released

/-- Each output: the boundary-scan register drives those it covers while the TAP drives pins, and nothing is driven while every output is
released (R40, R47). -/
def outputOf (h : Hw) (o : OutPin) : Drive :=
  match scanCell o with
  | some n =>
    if scanDrives h && !allReleased h then
      if openDrain o && h.sup.scan.getLsbD n then .released else .level (h.sup.scan.getLsbD n)
    else ownOutput h o
  | none => ownOutput h o

/-! ### Voltage (R53, R56) -/

/-- Rising and falling threshold of a mode in millivolts (R56). -/
def thresholds (m : Nat) : Nat × Nat :=
  match m with
  | 0 | 1 => (9000, 8600)
  | 4 => (24000, 23000)
  | 6 => (36000, 35000)
  | _ => (18000, 17000)

/-- Whether V_in permits a mode, given whether it did: it becomes permitted at the rising threshold and stops below the
falling one (R56). -/
def voltPermits (was : Bool) (vin m : Nat) : Bool :=
  if (thresholds m).1 ≤ vin then true else if vin < (thresholds m).2 then false else was

/-- PERMITTED: what voltage permits, M4 and M6 only with the CLK_X lock (R56, R73). -/
def refreshPermitted (h : Hw) : Hw :=
  let v := h.sup.voltOk
  fset h F_MODE_STATUS_PERMITTED (if fon h F_TIMING_STATUS_LOCKED then v else setBit (setBit v 4 false) 6 false)

def pinOf (h : Hw) : Input → InputPin
  | .a => h.sup.pinA
  | .b => h.sup.pinB

def setPin (h : Hw) (i : Input) (v : InputPin) : Hw :=
  match i with
  | .a => { h with sup := { h.sup with pinA := v } }
  | .b => { h with sup := { h.sup with pinB := v } }

/-- A new average of the selected input (R53, R56). -/
def setVin (h : Hw) (vin : Nat) : Hw :=
  let ok := (List.range 8).foldl (fun a m => setBit a m (voltPermits (bit h.sup.voltOk m) vin m)) 0
  let h := match h.sup.selected with | some i => setPin h i { pinOf h i with avg := vin } | none => h
  refreshPermitted { h with sup := { h.sup with vin := vin, voltOk := ok } }

/-- Whether a mode is permitted now. -/
def permitted (h : Hw) (m : Nat) : Bool := bit (fget h F_MODE_STATUS_PERMITTED) m

/-- P_env in milliwatts (R53). -/
def powerEnv (vin : Nat) : Nat := min 1350000 (33 * vin)
/-- P_env of the state: 1,350 W while the module draws from an input in surge (R52, R53). -/
def envNow (h : Hw) : Nat :=
  match h.sup.selected with
  | some i => if (pinOf h i).surge then 1350000 else powerEnv h.sup.vin
  | none => powerEnv h.sup.vin
/-- P_peak in milliwatts (R53). -/
def powerPeak (vin : Nat) : Nat := min 1500000 (3667 * vin / 100)

/-! ### Holding blocks (R71, R80, R81) -/

/-- Gates whose ingest the mode runs: readout gates of a partition. -/
def readoutGates (h : Hw) : List Nat := (List.range 64).filter fun g => (ownerBy h fun c => bit c.gates g).isSome

/-- Avenue stops and nothing of its inputs, stretches, prescale counts or outputs survives (R80, R81). -/
def stopAvenue (h : Hw) : Hw :=
  let h := fset h F_AVE_STATUS_RUNNING 0
  let keep := fun (cp : AveCopy) => ({ final := cp.final, q := cp.q } : AveCopy)
  { h with ave := { h.ave with cp0 := keep h.ave.cp0, cp1 := keep h.ave.cp1, cp2 := keep h.ave.cp2, pinTb := 0, pinQual := false,
                               pinMatch := false, marks := [], proofs := [] },
           mod := { h.mod with aveWaitTurn := false }, tim := { h.tim with aveStart := none } }

/-- The partition of a gate is in reset. -/
def ownerResets (h : Hw) (g : Nat) : Bool :=
  match ownerGate h g with
  | some p => bit (fget h F_PART_RESET_BUSY) p
  | none => false

/-- Hold or run every gate's ingest; a gate whose partition is in reset stays held (R87). -/
def runGates (h : Hw) (on : Bool) : Hw :=
  (readoutGates h).foldl (fun h g => fset h F_GATE_STATUS_RUN (b2n (on && !ownerResets h g)) g) h

/-- Hold or run every engine (R320). -/
def holdEngines (h : Hw) (on : Bool) : Hw := (List.range 24).foldl (fun h q => fset h F_ENG_STATUS_HELD (b2n on) q) h

/-- The blocks of M3 to M6 take the state that the mode gives them (R71, R80). -/
def holdBlocks (h : Hw) (m : Nat) : Hw :=
  let ingest := m == 4 || m == 6
  let h := fset h F_RBT_STATUS_HELD (b2n (m == 3))
  let h := holdEngines h (m == 3)
  let h := runGates h ingest
  if ingest then
    if fon h F_AVE_STATUS_RUNNING then h else { h with mod := { h.mod with aveWaitTurn := true } }
  else stopAvenue h

/-! ### Transitions and requests (R74 to R77, R81, R96, R98) -/

/-- Result codes of MODE_REQUEST (R98). -/
def mrRunning : Nat := 1
def mrDone : Nat := 2
def mrNotPermitted : Nat := 3
def mrInvalid : Nat := 4
def mrReplaced : Nat := 5
def mrAbandoned : Nat := 6

/-- The transitions that a request or the spill input may start; the spill input starts none of those the table gives to a request
alone (R74). -/
def requestRow (a b : Nat) (spill : Bool) : Bool :=
  [(3, 4), (3, 6), (3, 5), (5, 4), (5, 6), (4, 5), (4, 3), (6, 5), (6, 3)].contains (a, b) ||
    (!spill && [(4, 6), (6, 4), (5, 3), (7, 3)].contains (a, b))

/-- The crossing after the present one (R151, R164). -/
def nextStamp (h : Hw) : Stamp :=
  let c := fget h F_TIMING_STATUS_CROSSING
  let t := fget h F_TIMING_TURN_TURN
  if c ≥ fget h F_TIMING_CONFIG_CPT_M1 then { turn := (t + 1) % 2 ^ 32, crossing := 0 } else { turn := t, crossing := c + 1 }

/-- The ingest stop: no crossing is accepted after the next boundary, and MODE_STOP_STAMP takes the first one not accepted
(R81). DESIGN CHOICE: a stop for a fall to M1 (R79) records the stamp too, where R81 speaks of M5 and M3 alone (log 48). -/
def stopIngest (h : Hw) : Hw :=
  let s := nextStamp h
  let h := fset h F_MODE_STOP_STAMP_TURN s.turn
  let h := fset h F_MODE_STOP_STAMP_CROSSING s.crossing
  { h with mod := { h.mod with stopping := true } }

/-- Start a transition with the cause that LAST_CAUSE will name (R74, R97). -/
def startTransition (h : Hw) (target cause : Nat) (req : Bool) : Hw :=
  let m := modeNow h
  let h := fset h F_MODE_STATUS_IN_TRANSITION 1
  let h := fset h F_MODE_STATUS_TARGET target
  let h := { h with mod := { h.mod with transCause := cause, transReq := req } }
  if (m == 4 || m == 6) && (target == 3 || target == 5 || target == 1) then stopIngest h else h

/-- Every junction has stayed below 98 °C for 100 ms of module time (R96). -/
def cooled (h : Hw) : Bool :=
  match h.sup.coolSince with
  | some t => decide (t + 64 * (second / 10) ≤ h.now)
  | none => false

/-- Whether a request from the present mode may start now (R76, R96): none, or the result it ends with. -/
def requestCheck (h : Hw) (m : Nat) (spill : Bool) : Option Nat :=
  if m == modeNow h then some mrDone
  else if !requestRow (modeNow h) m spill then some mrInvalid
  else if !permitted h m then some mrNotPermitted
  else if modeNow h == 7 && !(h.mod.containTempOnly && cooled h) then some mrNotPermitted
  else none

/-- The controller starts a request (R76): the state and its result. -/
def startRequest (h : Hw) (m : Nat) (spill : Bool) : Hw × Nat :=
  match requestCheck h m spill with
  | some r => (h, r)
  | none => (startTransition h m (if spill then 2 else 1) (!spill), mrRunning)

/-- A request arrives: it is queued while a transition or a switch-over wait runs, replacing an older one, and starts
otherwise (R75). RESULT is that of the write SEQ numbers (R98): a queued write takes it from the transition of an older one, and a
queued write that a spill edge replaces ends REPLACED. DESIGN CHOICE: a write that is queued and has not started reads RUNNING
(log 47). -/
def requestMode (h : Hw) (m : Nat) (spill : Bool) : Hw × Nat :=
  if fon h F_MODE_STATUS_IN_TRANSITION || fon h F_MODE_STATUS_WAIT_SUPPLY || h.sup.avgWait then
    let h := if fon h F_MODE_STATUS_QUEUED_VALID && !h.mod.queueSpill && spill then fset h F_MODE_REQUEST_RESULT mrReplaced else h
    let h := fset (fset h F_MODE_STATUS_QUEUED_VALID 1) F_MODE_STATUS_QUEUED_MODE m
    ({ h with mod := { h.mod with queueSpill := spill, transReq := h.mod.transReq && spill } }, mrRunning)
  else startRequest h m spill

/-- The queued request starts, if there is one (R75). -/
def startQueued (h : Hw) : Hw :=
  if fon h F_MODE_STATUS_QUEUED_VALID then
    let m := fget h F_MODE_STATUS_QUEUED_MODE
    let spill := h.mod.queueSpill
    let h := fset h F_MODE_STATUS_QUEUED_VALID 0
    let (h, r) := startRequest h m spill
    let h := if spill then h else fset h F_MODE_REQUEST_RESULT r
    if r == mrRunning then h else raiseSource h srcMode
  else h

/-- The module reaches a mode: LAST_CAUSE, the end of a request, and the mode interrupt source (R97, R98, R519). -/
def reachMode (h : Hw) (m : Nat) : Hw :=
  let h := fset h F_MODE_STATUS_MODE m
  let h := fset h F_MODE_STATUS_LAST_CAUSE h.mod.transCause
  let h := fset h F_MODE_STATUS_IN_TRANSITION 0
  let h := if h.mod.transReq then fset h F_MODE_REQUEST_RESULT mrDone else h
  let h := { h with mod := { h.mod with transReq := false, stopping := false, m1Fall := false } }
  raiseSource h srcMode

/-- A running transition is abandoned (R77). -/
def abandonTransition (h : Hw) : Hw :=
  if fon h F_MODE_STATUS_IN_TRANSITION then
    let h := if h.mod.transReq then fset h F_MODE_REQUEST_RESULT mrAbandoned else h
    let h := fset (fset h F_MODE_STATUS_IN_TRANSITION 0) F_MODE_STATUS_WAIT_SUPPLY 0
    { h with mod := { h.mod with transReq := false, stopping := false, pausedBySwitch := false } }
  else h

/-! ### Contain (R94 to R96) -/

/-- Causes that stop Avenue on entry to M7 (R95). -/
def stopsAvenue : ContainCause → Bool
  | .avenueRail | .linkDie _ | .clkxLock => true
  | _ => false

/-- The link dies that no longer run, with the one a cause names (R47, R95). -/
def deadDie (dead : Nat) : ContainCause → Nat
  | .linkDie d => setBit dead d.val true
  | _ => dead

/-- Entry to M7: a running transition is abandoned, the named partitions go down, every other partition is held, Roundabout,
engines and gates are held, and Avenue stops only for a cause of its own (R77, R94, R95). Below M2, and where V_in has fallen below the
falling threshold of M7, nothing but the record stands, and a fall to M1 goes on (R56, R57, R74). -/
def enterContain (h : Hw) (cause : ContainCause) (parts : List Nat) : Eff :=
  let m := modeNow h
  if m < 2 || !bit h.sup.voltOk 7 then { hw := h }
  else
    let first := m != 7
    let ran := fon h F_MODE_STATUS_IN_TRANSITION
    let h := abandonTransition h
    let temp := cause == .junction
    let h := { h with mod := { h.mod with containTempOnly := temp && (first || h.mod.containTempOnly),
                                          deadDies := deadDie h.mod.deadDies cause } }
    let e := effEach parts h fun p h => takeDown h p
    e.map fun h =>
      let h := if first then
          let h := fset h F_MODE_STATUS_MODE 7
          let h := fset h F_MODE_STATUS_LAST_CAUSE (if temp then 5 else 4)
          let h := fset h F_MODE_STATUS_TARGET 7
          let h := fset h F_RBT_STATUS_HELD 1
          let h := runGates (holdEngines h true) false
          let h := (List.range 8).foldl (fun h p =>
            if fget h F_PART_STATUS_STATE 0 p == 1 then fset h F_PART_STATUS_STATE 4 0 p else h) h
          raiseSource (if ran && !h.sup.avgWait then startQueued h else h) srcMode
        else h
      if stopsAvenue cause then stopAvenue h else h

/-- A fatal error: one record of class 3, then entry to M7 (R11, R12, R57, R94, R549). FLAGS bit 0 names an Avenue cause, bit 1
that M7 was entered. -/
def fatal (h : Hw) (block inst code d0 : Nat) (cause : ContainCause) (parts : List Nat) : Eff :=
  let part := match parts with | p :: _ => partByte p false | [] => 0
  let flags := b2n (stopsAvenue cause) + 2 * b2n (decide (2 ≤ modeNow h) && bit h.sup.voltOk 7)
  enterContain (logCode h 3 block inst code d0 part flags) cause parts

end Sys2Proof.Machine
end

