-- ==== Sys2Proof/Machine/Grid.lean ====
section
/-!
DEFINITION. The street grid: routes, flits, sleep and wake, fences, probes.
-/

namespace Sys2Proof.Machine

/-! ### Routes (R16) -/

/-- Output that a packet for (dx, dy) takes at (x, y): 0 east, 1 north, 2 west, 3 south, 4 local. First in X and then in Y;
one hop inward first from row 0 or 9 to column 0 or 11 (R16). -/
def routeAt (x y dx dy : Nat) : Nat :=
  if x == dx && y == dy then 4
  else if (y == 0 || y == 9) && (dx == 0 || dx == 11) then (if y == 0 then 1 else 3)
  else if x < dx then 0
  else if dx < x then 2
  else if y < dy then 1
  else 3

/-- The routers of a route, from `r` on (R16). -/
def routeFrom : Nat → Nat → Nat → Nat → List Nat
  | 0, r, _, _ => [r]
  | n + 1, r, dx, dy =>
    let out := routeAt (r % 16) (r / 16) dx dy
    if out == 4 then [r] else r :: routeFrom n (neighbour r out) dx dy

/-! ### Fields of the sideband (R425) -/

def flVc (f : Flit) : Nat := bits f.side.toNat 1 0
def flKind (f : Flit) : Nat := bits f.side.toNat 3 2
def flDx (f : Flit) : Nat := bits f.side.toNat 19 16
def flDy (f : Flit) : Nat := bits f.side.toNat 23 20
def flPort (f : Flit) : Nat := bits f.side.toNat 27 24
def flLen (f : Flit) : Nat := bits f.side.toNat 32 28 + 1
def flClass (f : Flit) : Nat := bits f.side.toNat 45 43
/-- The flit is the head of its packet. -/
def isHead (f : Flit) : Bool := flKind f == 0 || flKind f == 3
/-- The flit is the last of its packet. -/
def isTail (f : Flit) : Bool := flKind f == 2 || flKind f == 3

/-- The check bits of a payload: a code for each 8 B (R424). -/
def checkBits (p : BitVec 512) : BitVec 64 :=
  BitVec.ofNat 64 ((List.range 8).foldl (fun n i => n + (Config.dataCheck (p.extractLsb' (64 * i) 64)).toNat * 2 ^ (8 * i)) 0)

/-- The flit that a sideband and a payload make: CHECK and the payload's check bits are formed, and a body or tail flit carries CHECK, POISON, KIND and
VC alone (R424, R425). -/
def flitOf (side : BitVec 64) (payload : BitVec 512) : Flit :=
  let head := bits side.toNat 3 2 == 0 || bits side.toNat 3 2 == 3
  let low : BitVec 56 := (if head then side else side &&& 0x20000000F#64).setWidth 56
  { side := low, check := Config.sideCheck low, payload := payload, payloadCheck := checkBits payload }

/-- The virtual channels that a class of packets uses (R430). DESIGN CHOICE: R430 gives power and fence control none, and any is taken (log 92). -/
def classUses (cls vc : Nat) : Bool :=
  match cls with
  | 0 | 4 | 6 => vc == 0
  | 1 => vc == 1
  | 2 | 3 => vc == 2
  | 5 => vc == 3
  | _ => true

/-- What an agent may inject: a head on a channel of its class, and no snoop to a link die (R430, R432). -/
def mayInject (f : Flit) : Bool :=
  !isHead f || (classUses (flClass f) (flVc f) && !(flClass f == 1 && isStop (flDx f + 16 * flDy f)))

/-! ### Sleep and wake (R433 to R435) -/

/-- STR_STATUS.PWR codes (R440). -/
def pwrOn : Nat := 0
def pwrDraining : Nat := 1
def pwrPastPnr : Nat := 2
def pwrAgentsOff : Nat := 3
def pwrSquareOff : Nat := 4
def pwrWaking : Nat := 5

def pwrOf (h : Hw) (sq : Nat) : Nat := fget h F_STR_STATUS_PWR (routerOf sq)
def setPwr (h : Hw) (sq v : Nat) : Hw := fset h F_STR_STATUS_PWR v (routerOf sq)
/-- Level of the sleep that is under way or reached: 1 AGENTS, 2 SQUARE. -/
def sleepLevel (h : Hw) (sq : Nat) : Nat := tget 0 h.grid.sleepLevel sq

/-- The result of the command that started a power-down: STR_CMD, or PART_PWR_REQ of the owner (R449). -/
def sleepResult (h : Hw) (sq code : Nat) : Hw :=
  let src := tget 0 h.grid.sleepCmd sq
  let h := { h with grid := { h.grid with sleepCmd := tdel h.grid.sleepCmd sq } }
  if src == 1 then
    if fget h F_STR_CMD_RESULT (routerOf sq) == rcRunning then fset h F_STR_CMD_RESULT code (routerOf sq) else h
  else if src == 2 then
    match ownerSquare h sq with
    | some p => if fget h F_PART_PWR_REQ_RESULT 0 p == rcRunning then fset h F_PART_PWR_REQ_RESULT code 0 p else h
    | none => h
  else h

/-- A core in WFI goes on when an interrupt becomes pending for it (R360, R524). -/
def stirCore (h : Hw) (c : Nat) : Hw := if fget h F_CORE_STATUS_STATE c == 2 then fset h F_CORE_STATUS_STATE 1 c else h

/-- Whether a core has an interrupt pending: an entry in a delivery queue, or its machine timer due (R360, R433, R524). -/
def corePending (h : Hw) (c : Nat) : Bool :=
  (List.range 3).any (fun i => !(tget [] h.ints.queue (4 * c + i)).isEmpty) || decide (fget h F_CORE_MTIMECMP_VALUE c ≤ gateTime h)

/-- A power-down before step 3 aborts (R433, R434). -/
def abortSleep (h : Hw) (sq : Nat) : Hw :=
  fadd (setPwr (sleepResult h sq 6) sq pwrOn) F_STR_STATUS_ABORTS 1 (routerOf sq)

/-- A wake of a square (R434, R435): before step 3 the power-down aborts, at or after it power-up follows the power-down, and
a square that is off starts to power up. -/
def raiseWake (h : Hw) (sq : Nat) : Hw :=
  let p := pwrOf h sq
  if p == pwrDraining then abortSleep h sq
  else if p == pwrPastPnr then { h with grid := { h.grid with wakeWait := tset 0 h.grid.wakeWait sq 1 } }
  else if p == pwrAgentsOff || p == pwrSquareOff then setPwr h sq pwrWaking
  else h

/-- Conditions under which a square refuses to sleep with BUSY (R433). -/
def sleepBusy (h : Hw) (sq : Nat) : Bool :=
  let cs := [2 * sq, 2 * sq + 1]
  pwrOf h sq != pwrOn ||
  cs.any (fun c => fget h F_CORE_STATUS_STATE c == 0 || fget h F_CACHE_EN_L1D_EN c == 2 ||
    fget h F_CACHE_EN_L2_EN c == 2 || fget h F_LLC_CFG_EN c == 2 || (maintOf h c).isSome) ||
  h.hom.trans.any (fun t => match homeOf h (t.1 * 64) with | some k => cs.contains k | none => false)

/-- Begin a power-down to a level (R433, step 1). `src`: 0 by itself, 1 STR_CMD, 2 PART_PWR_REQ. -/
def beginSleep (h : Hw) (sq level src : Nat) : Hw :=
  let h := setPwr h sq pwrDraining
  { h with grid := { h.grid with sleepLevel := tset 0 h.grid.sleepLevel sq level, sleepCmd := tset 0 h.grid.sleepCmd sq src } }

/-! ### Probes (R438, R439) -/

/-- The router of H3 (R13). -/
def routerH3 : Nat := 139

/-- The record of a head that leaves by an output (R439). -/
def traceBytes (h : Hw) (r out : Nat) (f : Flit) : List Byte :=
  leBytes 7 f.side.toNat ++ [BitVec.ofNat 8 (r % 16 * 16 + r / 16)] ++ leBytes 8 (out * 2 ^ 61 + gateTime h % 2 ^ 61)

/-- The packet of one flit that brings a record to the hub agent of H3 on VC3, for the secure world of TRACE_PART. DEDUCED: its class is stream, the
one R430 lets carry trace records; its source port is the router's control port; OPC bits 4:0 and TAG are open (log 95). -/
def traceFlit (h : Hw) (r : Nat) (rec' : List Byte) : Flit :=
  let src := r % 16 + r / 16 * 16 + (if isStop r then 8 else 0) * 4096
  let dst := routerH3 % 16 + routerH3 / 16 * 16 + 4096
  let p := fget h F_TRACE_RING_TRACE_PART
  let side := 3 + 3 * 4 + src * 16 + dst * 2 ^ 16 + b2n (hasSecure h p) * 2 ^ 34 + p * 2 ^ 35 +
    (5 * 32 + Config.traceOp.toNat) * 2 ^ 38 + (Config.traceTag r).toNat * 2 ^ 46
  flitOf (BitVec.ofNat 64 side) (BitVec.ofNat 512 (leNat rec'))

/-- A head counts in a probe's counter by its event: 1, the flits of its packet, or the mesh cycles it waited. How many those are is open where it
waited, and none where it did not (R438; log 6). -/
def probeCount (h : Hw) (r n : Nat) (w : HeldFlit) : Hw :=
  let e := bits (fget h F_STR_PROBE_CTL_EVT r) (3 * n + 2) (3 * n)
  let waited := (e == 2 && w.credit) || (e == 3 && w.inj)
  let (x, h) := if waited then takeFree h else (0, h)
  let k := if waited then Config.freeNat x % 2 ^ 32 else if e == 1 then flLen w.flit else if e == 2 || e == 3 then 0 else 1
  fset h F_STR_PROBE_CNT_COUNT (fget h F_STR_PROBE_CNT_COUNT r n + k) r n

/-- The probe traces a matching head that its sample picks: a record enters the router's buffer for H3, or is dropped where four are in it. DESIGN
CHOICE: a head within 16 mesh cycles of the router's last record is passed over, and the next matching one is traced (R439; log 95). -/
def probeTrace (h : Hw) (r out : Nat) (f : Flit) : Hw :=
  let n := tget 0 h.grid.sample r + 1
  if n < 2 ^ fget h F_STR_PROBE_CTL_SAMPLE r then { h with grid := { h.grid with sample := tset 0 h.grid.sample r n } }
  else
    let last := tget 0 h.grid.traced r
    if last != 0 && decide (meshSlot h + 1 < last + 16) then h
    else
      let h := { h with grid := { h.grid with sample := tset 0 h.grid.sample r 0 } }
      if 4 ≤ (h.grid.held.filter fun w => w.r == r && w.buf == 14).length then fadd h F_STR_PROBE_CTL_DROPS 1 r
      else
        let w : HeldFlit := { r := r, buf := 14, flit := traceFlit h r (traceBytes h r out f) }
        { h with grid := { h.grid with held := h.grid.held ++ [w], traced := tset 0 h.grid.traced r (meshSlot h + 1) } }

/-- A matching head leaves by the watched output, 4 for every agent port: the counters, which stop while they are frozen (R541), and the trace
(R438, R439). -/
def probeHead (h : Hw) (r out : Nat) (w : HeldFlit) : Hw :=
  let out := min 4 out
  let mask := fget h F_STR_PROBE_MASK_VALUE r
  let hit := isHead w.flit && out == min 4 (fget h F_STR_PROBE_CTL_PORT r) &&
    w.flit.side.toNat.land mask == (fget h F_STR_PROBE_MATCH_VALUE r).land mask
  if !hit then h else
    let h := if fon h F_STR_PROBE_CTL_EN r && !frozen h then (List.range 4).foldl (fun h n => probeCount h r n w) h else h
    if fon h F_STR_PROBE_CTL_TRACE r then probeTrace h r out w.flit else h

/-! ### Forwarding (R427 to R437) -/

/-- Whether a port of a router is detached or does not exist (R425, R436, R437, R556). -/
def deadPort (h : Hw) (r port : Nat) : Bool :=
  match siteAt r with
  | some (.square s) =>
    let d := fget h F_STR_STATUS_DETACHED r
    4 < port || ((port == 1 || port == 2) && 1 ≤ d) || ((port == 3 || port == 4) && (d == 2 || h.hom.out.contains (2 * s + (port - 3))))
  | some (.quarter _) => 2 < port
  | some (.linkStop _) => 8 < port
  | some (.hubStop _) => 1 < port
  | none => true

/-- The virtual channel of a router that a flit uses: in a link die D0 for VC0 to VC2 and D1 for VC3, elsewhere that of its VC field
(R430, R432). -/
def chanAt (r : Nat) (f : Flit) : Nat := if isStop r then (if flVc f == 3 then 1 else 0) else flVc f

/-- Flits that a buffer of a channel holds (R430, R432). -/
def bufSize (r chan : Nat) : Nat := if isStop r then (if chan == 1 then 32 else 16) else if chan == 3 then 16 else 8

/-- The input that a buffer belongs to: 0 to 3 links, 4 to 12 agent ports, 13 the inward hop, 14 the probe. -/
def inputOf (buf : Nat) : Nat := buf % 16

/-- The input injects: an agent port, or the probe with its records. -/
def injects (inp : Nat) : Bool := decide (4 ≤ inp) && inp != 13

/-- The buffer that a packet arriving at input `inp` enters: a packet that has made the inward hop of R16 has one of its own (R428). -/
def headBuf (r inp : Nat) (f : Flit) : Nat :=
  let x := flDx f
  let y := r / 16
  if (x == 0 || x == 11) && ((y == 1 && inp == 3) || (y == 8 && inp == 1)) then 13 else inp

/-- The route of a packet at router `r` crosses the fenced router (R436). -/
def fenceCrosses (h : Hw) (r : Nat) (f : Flit) : Bool :=
  match h.grid.fence with
  | some (fr, _) => (routeFrom 32 r (flDx f) (flDy f)).contains fr
  | none => false

/-- A place of its own for a packet that a fence holds at an agent port, so that packets behind it go on (R436). -/
def ownBuf (h : Hw) (r inp : Nat) : Nat :=
  let k := h.grid.rx.foldl (fun m e => max m (e.2 / 16)) (h.grid.held.foldl (fun m w => if w.r == r then max m (w.buf / 16) else m) 0)
  16 * (k + 1) + inp

/-- Key of the worm arriving on a channel of an input. -/
def rxKey (r inp chan : Nat) : Nat := (r * 16 + inp) * 4 + chan

/-- The buffer that a flit arriving at input `inp` enters: a head's own, where no worm is arriving on its channel, and its head's for the rest of a
packet. No sender sends any other flit. -/
def bufFor (h : Hw) (r inp : Nat) (f : Flit) : Option Nat :=
  match isHead f, tget 0 h.grid.rx (rxKey r inp (chanAt r f)) with
  | true, 0 => some (if injects inp && fenceCrosses h r f then ownBuf h r inp else headBuf r inp f)
  | false, n + 1 => some n
  | _, _ => none

/-- The buffer of later flits of the worm that arrives. -/
def noteRx (h : Hw) (r inp buf : Nat) (f : Flit) : Hw :=
  let k := rxKey r inp (chanAt r f)
  { h with grid := { h.grid with rx := if isTail f then tdel h.grid.rx k else tset 0 h.grid.rx k (buf + 1) } }

/-- The waiting flit is in a buffer of a router, on a channel. -/
def inBuf (r buf chan : Nat) (w : HeldFlit) : Bool := w.r == r && w.buf == buf && chanAt r w.flit == chan

/-- Flits in a buffer on a channel. -/
def bufCount (h : Hw) (r buf chan : Nat) : Nat := (h.grid.held.filter (inBuf r buf chan)).length

/-- Flits on their way to a buffer of router `n`. -/
def bufComing (h : Hw) (n buf chan : Nat) : Nat :=
  (h.grid.sent.filter fun e => e.out < 4 && neighbour e.r e.out == n && e.buf == buf && chanAt n e.flit == chan).length

/-- Key of a worm's hold on an output's virtual channel. Outputs: 0 to 3 the links, 4 + p agent port p, 13 discards. -/
def wormKey (r chan out : Nat) : Nat := (r * 4 + chan) * 16 + out

/-- The virtual channel of an output that a flit takes: that of the router it leads to (R432). -/
def outChan (r out : Nat) (f : Flit) : Nat := chanAt (if out < 4 then neighbour r out else r) f

/-- The mark of the worm in a buffer of router `r`; twice it, plus 1 where the worm goes to the next router's inward buffer, is the
hold's value. -/
def wormMark (r buf : Nat) (f : Flit) : Nat := 1 + buf * 4 + chanAt r f

/-- The output of a head by its route; 13 discards. DESIGN CHOICE: a packet whose route ends at no router is handled like one for a detached port
(log 69). -/
def headOut (h : Hw) (r : Nat) (f : Flit) : Nat :=
  let out := routeAt (r % 16) (r / 16) (flDx f) (flDy f)
  if out == 4 then (if deadPort h r (flPort f) then 13 else 4 + flPort f)
  else if linked r out then out else 13

/-- The output a flit takes: by its route for a head, by its worm for the rest. -/
def outputFor (h : Hw) (r buf : Nat) (f : Flit) : Option Nat :=
  if isHead f then some (headOut h r f)
  else (List.range 14).find? fun out => tget 0 h.grid.worm (wormKey r (outChan r out f) out) / 2 == wormMark r buf f

/-- The buffer of the next router that a flit goes to by a link: the inward one for a head and its worm (R428). -/
def nextBuf (h : Hw) (r out : Nat) (f : Flit) : Nat :=
  if isHead f then headBuf (neighbour r out) (opposite out) f
  else if tget 0 h.grid.worm (wormKey r (outChan r out f) out) % 2 == 1 then 13 else opposite out

/-- The sender holds a credit of the next router's buffer, and its replay buffer of 16 flits has room (R426, R430). DESIGN CHOICE: an agent takes each
flit at once (log 92). -/
def hasRoom (h : Hw) (r out : Nat) (f : Flit) : Bool :=
  let n := neighbour r out
  let c := chanAt n f
  let b := nextBuf h r out f
  decide (4 ≤ out) ||
    (decide (bufCount h n b c + bufComing h n b c < bufSize n c) && decide ((h.grid.sent.filter fun e => e.r == r && e.out == out).length < 16))

/-- The square whose sleep makes a flit wait at router `r` before output `out`; the worm of a granted head completes while the square drains
(R433, R434). -/
def sleepingAhead (h : Hw) (r out : Nat) (f : Flit) : Option Nat :=
  let here := if 4 < out && out < 13 && isHead f then squareOf r else none
  let next := if out < 4 then squareOf (neighbour r out) else none
  match here with
  | some s => if pwrOf h s != pwrOn then some s else none
  | none =>
    match next with
    | some s => if pwrOf h s != pwrOn && sleepLevel h s == 2 && (isHead f || pwrOf h s != pwrDraining) then some s else none
    | none => none

/-- What the first flit of a buffer waits for, or the output it may take. -/
inductive FlitState where
  | go (out : Nat)
  | fence
  | wake (sq : Nat)
  | credit
  | worm

/-- A flit that comes first in its buffer waits for a fence, for a wake it raises, for a worm that holds its output's channel, or for a credit, or goes
(R427, R430, R431, R434, R436). -/
def flitState (h : Hw) (w : HeldFlit) : FlitState :=
  if 16 ≤ w.buf && isHead w.flit && fenceCrosses h w.r w.flit then .fence
  else
    match outputFor h w.r w.buf w.flit with
    | none => .worm
    | some out =>
      match sleepingAhead h w.r out w.flit with
      | some s => .wake s
      | none =>
        let holder := tget 0 h.grid.worm (wormKey w.r (outChan w.r out w.flit) out)
        if holder != 0 && (isHead w.flit || holder / 2 != wormMark w.r w.buf w.flit) then .worm
        else if hasRoom h w.r out w.flit then .go out
        else .credit

/-- The first flit of every buffer and channel. -/
def fronts (h : Hw) : List HeldFlit :=
  h.grid.held.filter fun w => h.grid.held.find? (inBuf w.r w.buf (chanAt w.r w.flit)) == some w

/-- What waiting flits do: a fence that holds one shows it, a sleeping square is woken, and each notes what it waits for (R434, R436, R438). -/
def noteWaits (h : Hw) : Hw :=
  (fronts h).foldl (fun h w =>
    let mark := fun (w' : HeldFlit) => { h with grid := { h.grid with held := h.grid.held.replace w w' } }
    match flitState h w with
    | .fence => fset (mark { w with inj := true }) F_STR_STATUS_HOLDING 1 w.r
    | .wake s => raiseWake (mark { w with inj := w.inj || injects (inputOf w.buf) }) s
    | .credit => mark { w with credit := true }
    | _ => h) h

/-- No earlier flit of its agent port and channel waits in the port's own buffer, which a packet that a fence held must not pass (R427). -/
def overtakesNone (h : Hw) (w : HeldFlit) : Bool :=
  (h.grid.held.takeWhile (· != w)).all fun x => !(16 ≤ w.buf && inBuf w.r (inputOf w.buf) (chanAt w.r w.flit) x)

/-- The flits that may go, each with its output. -/
def readyFlits (h : Hw) : List (HeldFlit × Nat) :=
  (fronts h).filterMap fun w => match flitState h w with | .go out => if overtakesNone h w then some (w, out) else none | _ => none

/-- Key of a turn of an output: `k` 0 for its virtual channel, 1 + vc for the input on it; of a link stop's gates at output 15. -/
def turnKey (r out k : Nat) : Nat := (r * 16 + out) * 8 + k

/-- The input that takes its turn: a link stop's eight gates are one, with turns of their own (R424, R431). -/
def turnInput (r buf : Nat) : Nat := if isStop r && 4 ≤ inputOf buf && inputOf buf < 12 then 4 else inputOf buf

/-- How far a flit is from its turn: by virtual channel, then by input, then by gate (R424, R431). -/
def turnRank (h : Hw) (c : HeldFlit × Nat) : Nat :=
  let w := c.1
  let vc := outChan w.r c.2 w.flit
  let dist := fun (x k n : Nat) => (x + n - tget 0 h.grid.turn k) % n
  (dist vc (turnKey w.r c.2 0) 4 * 16 + dist (turnInput w.r w.buf) (turnKey w.r c.2 (1 + vc)) 16) * 16 + dist (inputOf w.buf) (turnKey w.r 15 0) 16

/-- The turns after a flit went: a channel's after each flit, an input's after each packet's head, a gate's after each flit (R424, R431). -/
def takeTurn (h : Hw) (w : HeldFlit) (out : Nat) : Hw :=
  let vc := outChan w.r out w.flit
  let t := tset 0 h.grid.turn (turnKey w.r out 0) ((vc + 1) % 4)
  let t := if isHead w.flit then tset 0 t (turnKey w.r out (1 + vc)) ((turnInput w.r w.buf + 1) % 16) else t
  let t := if isStop w.r && turnInput w.r w.buf == 4 then tset 0 t (turnKey w.r 15 0) ((inputOf w.buf + 1) % 16) else t
  { h with grid := { h.grid with turn := t } }

/-- The flit that goes next: at the output of the first that may go, a packet that a fence held in its order, or else the one whose turn it is
(R431, R436). -/
def flitTurn (h : Hw) : Option (HeldFlit × Nat) :=
  match readyFlits h with
  | [] => none
  | c :: cs =>
    let same := cs.filter fun d => d.1.r == c.1.r && d.2 == c.2
    match (c :: same).find? fun d => 16 ≤ d.1.buf with
    | some d => some d
    | none => some (same.foldl (fun b d => if turnRank h d < turnRank h b then d else b) c)

/-- A flit leaves its buffer by an output: to an agent or the next router, past the probe, or nowhere; a detached port's request or device access is
answered with a bus error, any other packet for it is counted (R431, R437). -/
def sendFlit (h : Hw) (w : HeldFlit) (out : Nat) : Hw :=
  let r := w.r
  let f := w.flit
  let key := wormKey r (outChan r out f) out
  let nb := if out < 4 then nextBuf h r out f else out
  let hold := 2 * wormMark r w.buf f + b2n (out < 4 && nb == 13)
  let h := takeTurn h w out
  let h := { h with grid := { h.grid with held := h.grid.held.erase w, worm := if isTail f then tdel h.grid.worm key else tset 0 h.grid.worm key hold } }
  if out == 13 then
    if !isHead f then h
    else if flClass f == 0 || flClass f == 4 then setBusErr h true
    else fadd h F_STR_STATUS_DETACHED_DROPS 1 r
  else probeHead { h with grid := { h.grid with sent := h.grid.sent ++ [{ r := r, out := out, buf := nb, flit := f }] } } r out w

/-- Flits go while one may; each that leaves a buffer returns a credit that others may use. -/
def flitLoop : Nat → Hw → Hw
  | 0, h => h
  | n + 1, h =>
    let h := noteWaits h
    match flitTurn h with
    | none => h
    | some (w, out) => flitLoop n (sendFlit h w out)

/-- Every waiting flit that now may go, goes. A router makes at most one trace record in a mesh cycle, so twice the waiting flits and one look more are
enough. -/
def releaseHeld (h : Hw) : Hw := flitLoop (2 * h.grid.held.length + 1) h

/-- A wake of a square; a power-down that aborts frees the packets that wait for it (R434, R435). -/
def wakeSquare (h : Hw) (sq : Nat) : Hw :=
  if pwrOf h sq == pwrDraining then releaseHeld (abortSleep h sq) else raiseWake h sq

/-- A square whose core, cache or slice window is accessed while it sleeps is woken (R566). -/
def wakeFor (h : Hw) (r : Reg) (i : Nat) : Hw :=
  if (r.n0 == 0x100 || r.n0 == 0x200 || r.n0 == 0x300) && gridPowered h then wakeSquare h (i / 2) else h

/-! ### Fences (R436) -/

/-- A square that is asleep or powering down. -/
def asleep (h : Hw) (r : Nat) : Bool := match squareOf r with | some s => pwrOf h s != pwrOn | none => false

/-- Start a fence of router `r` for change `code`, or BUSY: another fence runs, or the square sleeps, which the fence wakes
(R435, R436). -/
def startFence (h : Hw) (r code : Nat) : Hw × Nat :=
  if h.grid.fence.isSome then (h, rcBusy)
  else if asleep h r then ((match squareOf r with | some s => wakeSquare h s | none => h), rcBusy)
  else (fset { h with grid := { h.grid with fence := some (r, code) } } F_STR_STATUS_FENCED 1 r, rcRunning)

/-- A sleep command takes its course (level 3: AGENTS, asked by PART_PWR_REQ): refused on a ring square or without ROUTER_SLEEP, BUSY under the conditions of R433,
else the power-down starts. DEDUCED: SLEEP_SQUARE of a square with detached ports is refused, since its router stays powered (R437; log 93). -/
def sleepCommand (h : Hw) (r level : Nat) : Hw × Nat :=
  match squareOf r with
  | none => (h, rcRefused)
  | some s =>
    if level == 2 && (!fon h F_STR_CFG_ROUTER_SLEEP r || fget h F_STR_STATUS_DETACHED r != 0) then (h, rcRefused)
    else if sleepBusy h s then (h, rcBusy)
    else (beginSleep h s (if level == 2 then 2 else 1) (if level == 3 then 2 else 1), rcRunning)

/-- The fence of a retirement or restoration has ended: its mailbox request is answered (R552, R558). -/
def endRetire (h : Hw) (m : Mem) (result : Nat) : Eff :=
  match h.kyd.retireRun with
  | none => { hw := h }
  | some _ =>
    let path := h.kyd.retirePath
    let h := { h with kyd := { h.kyd with retireRun := none, retirePath := none } }
    match path with
    | some p => mailAnswer h m p result
    | none => { hw := h }

/-- The fence ends: released, with its result, held packets in order, then sleep commands that waited (R436). -/
def endFence (h : Hw) (r code result : Nat) : Hw :=
  let h := { h with grid := { h.grid with fence := none } }
  let h := fset h F_STR_STATUS_FENCED 0 r
  let h := (List.range 160).foldl (fun h i => if fon h F_STR_STATUS_HOLDING i then fset h F_STR_STATUS_HOLDING 0 i else h) h
  let h := if 4 ≤ code && code ≤ 6 && fget h F_STR_CMD_RESULT r == rcRunning then fset h F_STR_CMD_RESULT result r else h
  let h := releaseHeld h
  let cmds := h.grid.cmdWait
  cmds.foldl (fun h (r, level) =>
    let (h, code) := sleepCommand h r level
    if level == 3 then
      match (squareOf r).bind (ownerSquare h) with
      | some p => fset h F_PART_PWR_REQ_RESULT code 0 p
      | none => h
    else fset h F_STR_CMD_RESULT code r) { h with grid := { h.grid with cmdWait := [] } }

/-- Number of spare wires used on the link at input `d` of router `r` (R557). -/
def sparesUsed (h : Hw) (r d : Nat) : Nat := tget 0 h.kyd.spares (4 * r + d)

/-- A replay of a die-boundary link: at 1,024 within 1 s Kydin fences the receiving router to move the wire to a spare, unless
all 4 are used (R557). -/
def countReplay (h : Hw) (r d : Nat) : Hw :=
  if !dieBoundary r d then h else
    let t := gateTime h
    let l := ((tget [] h.grid.replays1s (4 * r + d)).filter fun x => t ≤ x + second) ++ [t]
    let h := { h with grid := { h.grid with replays1s := tset [] h.grid.replays1s (4 * r + d) l } }
    if l.length < 1024 || 4 ≤ sparesUsed h r d || h.grid.fence.isSome then h
    else
      let h := { h with grid := { h.grid with replays1s := tset [] h.grid.replays1s (4 * r + d) [] } }
      (startFence (addLife h 7 [6, 4 * r + d, 1, 0]) r (9 + d)).1

/-! ### Commands -/

/-- No buffer takes an arriving flit: its sender holds no credit, or sends no such flit (R430). -/
def noCredit (h : Hw) (r inp : Nat) (f : Flit) : Bool :=
  match bufFor h r inp f with
  | some b => decide (bufSize r (chanAt r f) ≤ bufCount h r b (chanAt r f))
  | none => true

/-- The input of a router gives no flit: a link that is absent or down, an agent port that is detached or absent, or a packet that no agent injects
(R426, R430, R432, R437). -/
def inputShut (h : Hw) (r inp : Nat) (f : Flit) : Bool :=
  if inp < 4 then !linked r inp || fon h F_STR_LINK_DOWN r inp else deadPort h r (inp - 4) || !mayInject f

/-- A flit enters its buffer, and every flit that now may go, goes. -/
def enterFlit (h : Hw) (r inp : Nat) (f : Flit) : Hw :=
  match bufFor h r inp f with
  | none => h
  | some buf =>
    let h := noteRx h r inp buf f
    releaseHeld { h with grid := { h.grid with held := h.grid.held ++ [{ r := r, buf := buf, flit := f }] } }

/-- A flit is uncorrectable on its link: it is rejected and resent from the replay buffer, and after eight failed resends in a row the link is down
and the module contains (R426, R557). -/
def rejectFlit (h : Hw) (r d : Nat) : Eff :=
  let n := tget 0 h.grid.replay (4 * r + d) + 1
  let h := { h with grid := { h.grid with replay := tset 0 h.grid.replay (4 * r + d) n } }
  if n ≤ 8 then { hw := countReplay (logReg (fadd h F_STR_LINK_REPLAYS 1 r d) 0 blkStr r R_STR_LINK r d) r d }
  else
    let h := fset h F_STR_LINK_DOWN 1 r d
    fatal h blkStr r (R_STR_LINK.offset d) (regVal h R_STR_LINK r d) .gridLink []

/-- FLIT: a router takes a flit from an input: 0 east, 1 north, 2 west, 3 south, 4 + p agent port p. A single-bit error is corrected and counted; an
uncorrectable flit is rejected; a flit with no error left is forwarded (R424 to R439, R557). -/
def execFlit (r : Fin 160) (inPort : Fin 13) (sideband : BitVec 64) (payload : BitVec 512) (err : LinkErr) (s : State) :
    Host.Outcome State Fault Refusal :=
  .next (s.act fun h _ =>
    let r := r.val
    let d := inPort.val
    let link := decide (d < 4)
    let f := flitOf sideband payload
    if !isRouter r || !gridPowered h || inputShut h r d f || noCredit h r d f then { hw := h }
    else if link && err == .uncorrectable then rejectFlit h r d
    else if !link then { hw := enterFlit h r d f }
    else
      let buf := (bufFor h r d f).getD d
      let h := { h with grid := { h.grid with replay := tdel h.grid.replay (4 * r + d),
                                              sent := h.grid.sent.erase { r := neighbour r d, out := opposite d, buf := buf, flit := f } } }
      { hw := enterFlit (if err == .single then logReg (fadd h F_STR_LINK_CE 1 r d) 0 blkStr r R_STR_LINK r d else h) r d f })

/-- A command of STR_CMD with its result (R440). -/
def strCommand (who : Requester) (r : Nat) (owner : Bool) (run : Hw → Hw × Nat) (h : Hw) : Hw :=
  if !isRouter r || !served h who R_STR_CMD then setBusErr h true
  else
    let h := setBusErr h false
    if who == .kydin || (owner && mayWrite h who R_STR_CMD r 0) then
      let (h, code) := run h
      answer h F_STR_CMD_RESULT F_STR_CMD_SEQ code r
    else logRefusedWrite h who R_STR_CMD r 0

/-- A sleep command during a fence waits until it ends (R436). -/
def sleepOrWait (r level : Nat) (h : Hw) : Hw × Nat :=
  if h.grid.fence.isSome && (squareOf r).isSome then
    ({ h with grid := { h.grid with cmdWait := h.grid.cmdWait ++ [(r, level)] } }, rcRunning)
  else sleepCommand h r level

/-- SLEEP_AGENTS (R433, R436, R440). -/
def execSleepAgents (who : Requester) (r : Fin 160) (s : State) : Host.Outcome State Fault Refusal :=
  .next (s.upd (strCommand who r.val true (sleepOrWait r.val 1)))

/-- SLEEP_SQUARE, by Kydin alone (R433, R440). -/
def execSleepSquare (who : Requester) (r : Fin 160) (s : State) : Host.Outcome State Fault Refusal :=
  .next (s.upd (strCommand who r.val false (sleepOrWait r.val 2)))

/-- WAKE (R435, R440). -/
def execStrWake (who : Requester) (r : Fin 160) (s : State) : Host.Outcome State Fault Refusal :=
  .next (s.upd (strCommand who r.val true fun h =>
    match squareOf r.val with
    | some q => (wakeSquare h q, rcDone)
    | none => (h, rcRefused)))

/-- RETIRE: a fence that detaches the core ports (R436, R437). -/
def execRetire (who : Requester) (r : Fin 160) (s : State) : Host.Outcome State Fault Refusal :=
  .next (s.upd (strCommand who r.val false fun h => if (squareOf r.val).isSome then startFence h r.val 4 else (h, rcRefused)))

/-- RETIRE_ALL: a fence that detaches core and slice ports (R436, R437). -/
def execRetireAll (who : Requester) (r : Fin 160) (s : State) : Host.Outcome State Fault Refusal :=
  .next (s.upd (strCommand who r.val false fun h => if (squareOf r.val).isSome then startFence h r.val 5 else (h, rcRefused)))

/-- RESTORE: a fence that reattaches the ports (R436, R437). -/
def execRestore (who : Requester) (r : Fin 160) (s : State) : Host.Outcome State Fault Refusal :=
  .next (s.upd (strCommand who r.val false fun h => startFence h r.val 6))

/-- IDLE_SLEEP: both cores have been in WFI for IDLE_US with nothing pending; the owner-world bit plays no part (R433, R450). -/
def execIdleSleep (sq : Fin 80) (s : State) : Host.Outcome State Fault Refusal :=
  .next (s.upd fun h =>
    let cs := [2 * sq.val, 2 * sq.val + 1]
    if fget h F_STR_CFG_IDLE_US (routerOf sq.val) != 0 && cs.all (fun c => fget h F_CORE_STATUS_STATE c == 2 && !corePending h c) &&
        !sleepBusy h sq.val && h.grid.fence.isNone
    then beginSleep h sq.val 1 0 else h)

/-- DRAIN_DONE: the domain is empty, isolation is set; the power-down can no longer stop (R433, steps 2 and 3). -/
def execDrainDone (sq : Fin 80) (s : State) : Host.Outcome State Fault Refusal :=
  .next (s.upd fun h => if pwrOf h sq.val == pwrDraining then setPwr h sq.val pwrPastPnr else h)

/-- DRAIN_TIMEOUT: a domain not empty in time aborts with ABORTED (R433, step 2). -/
def execDrainTimeout (sq : Fin 80) (s : State) : Host.Outcome State Fault Refusal :=
  .next (s.upd fun h => if pwrOf h sq.val == pwrDraining then wakeSquare h sq.val else h)

/-- POWER_OFF: logic power is off and retention held; a wake that came at or after step 3 starts power-up at once (R433, R434). -/
def execPowerOff (sq : Fin 80) (s : State) : Host.Outcome State Fault Refusal :=
  .next (s.upd fun h =>
    let q := sq.val
    if pwrOf h q != pwrPastPnr then h else
      let h := sleepResult (setPwr h q (if sleepLevel h q == 2 then pwrSquareOff else pwrAgentsOff)) q rcDone
      if tget 0 h.grid.wakeWait q == 1 then
        wakeSquare { h with grid := { h.grid with wakeWait := tdel h.grid.wakeWait q } } q
      else h)

/-- PACKET_WAKE: a packet at the domain raises a wake (R434). -/
def execPacketWake (sq : Fin 80) (s : State) : Host.Outcome State Fault Refusal := .next (s.upd fun h => wakeSquare h sq.val)

/-- POWER_UP_DONE: power is restored, the cores resume as from WFI, those with an interrupt pending go on, and so do waiting packets (R360, R434,
R435). -/
def execPowerUpDone (sq : Fin 80) (s : State) : Host.Outcome State Fault Refusal :=
  .next (s.upd fun h =>
    if pwrOf h sq.val != pwrWaking then h else
      let h := setPwr h sq.val pwrOn
      let h := { h with grid := { h.grid with sleepLevel := tdel h.grid.sleepLevel sq.val } }
      let h := [2 * sq.val, 2 * sq.val + 1].foldl (fun h c => if corePending h c then stirCore h c else h) h
      releaseHeld (fadd h F_STR_STATUS_WAKES 1 (routerOf sq.val)))

/-- FENCE_DRAIN_TIMEOUT: the router is not empty in time; nothing changes and the fence ends BUSY (R436). -/
def execFenceDrainTimeout (s : State) : Host.Outcome State Fault Refusal :=
  .next (s.act fun h m =>
    match h.grid.fence with
    | some (r, code) => endRetire (endFence h r code rcBusy) m rcBusy
    | none => { hw := h })

/-- A record of router `r` that has reached the hub agent of H3 (R439). -/
def isRecord (r : Nat) (e : SentFlit) : Bool :=
  e.r == routerH3 && e.out == 5 && flVc e.flit == 3 && flKind e.flit == 3 && (e.flit.side.extractLsb' 38 5) == Config.traceOp &&
    bits e.flit.side.toNat 7 4 == r % 16 && bits e.flit.side.toNat 11 8 == r / 16

/-- TRACE_RECORD: H3 writes the oldest record of a probe that has reached it into the trace ring as the secure world of TRACE_PART, or drops it when
the ring is full; with no ring it is lost (R439, R440). -/
def execTraceRecord (r : Fin 160) (s : State) : Host.Outcome State Fault Refusal :=
  .next (s.act fun h m =>
    match h.grid.sent.find? (isRecord r.val) with
    | none => { hw := h }
    | some e =>
      let h := { h with grid := { h.grid with sent := h.grid.sent.erase e } }
      let size := fget h F_TRACE_RING_SIZE_4K * 256
      let head := fget h F_TRACE_STATUS_HEAD
      if size == 0 then { hw := h }
      else if (head + 1) % size == fget h F_TRACE_STATUS_TAIL % size then { hw := fadd h F_TRACE_STATUS_RING_DROPS 1 }
      else
        (agentStore h m (askerIn h (fget h F_TRACE_RING_TRACE_PART) true) (fget h F_TRACE_RING_BASE_4K * 4096 + 16 * head) (leBytes 16 e.flit.payload.toNat)).map fun h =>
          fset h F_TRACE_STATUS_HEAD ((head + 1) % size))

end Sys2Proof.Machine
end

