-- ==== Sys2Proof/Machine/Ints.lean ====
section
/-!
DEFINITION. The interrupt distributor: owners, readiness, commits, delivery queues, retention, and the end of a fence.
-/

namespace Sys2Proof.Machine

/-! ### Owners and rights (R519, R520) -/

/-- The partition a source belongs to (R519, R520); sources 0 to 7, GPIs and quarters without one owner use the OWNER field. -/
def srcOwner (h : Hw) (i : Nat) : Option Nat :=
  let field := if fon h F_INT_SRC_CFG_OWNED 0 i then some (fget h F_INT_SRC_CFG_OWNER 0 i) else none
  if i < 32 then field
  else if i < 288 then some ((i - 32) / 32)
  else if i < 480 then some ((i - 288) % 8)
  else if i < 576 then (match ownerQuarter h ((i - 480) / 4) with | some p => some p | none => field)
  else if i < 832 then ownerGate h ((i - 576) / 4)
  else if i < 912 then ownerSquare h (i - 832)
  else if i < 1168 then some (partOfFn (i - 912))
  else if i < 1328 then ownerCore h (i - 1168)
  else field

/-- OWNED and OWNER as they read: for a unit source the unit's owner (R520, R531). -/
def srcCfgVal (h : Hw) (i : Nat) : Nat :=
  let h := match srcOwner h i with
    | some p => fset (fset h F_INT_SRC_CFG_OWNED 1 0 i) F_INT_SRC_CFG_OWNER p 0 i
    | none => h
  regVal h R_INT_SRC_CFG 0 i

/-- The requester may write every field of a source (R520). -/
def srcFull (h : Hw) (who : Requester) (i : Nat) : Bool :=
  who == .kydin || (match srcOwner h i with | some p => isSecureOf h who p | none => false)

/-- The requester may write MASK, PRIORITY, LEVEL, CORE, COUNT and TIME, and set or clear PENDING (R520). -/
def srcSome (h : Hw) (who : Requester) (i : Nat) : Bool :=
  srcFull h who i ||
    (match srcOwner h i with | some p => isOf h who p && !fon h F_INT_SRC_CFG_SECURE 0 i | none => false)

/-- The requester may write SECURE: also the normal world of a partition without a secure image (R520). -/
def srcSecure (h : Hw) (who : Requester) (i : Nat) : Bool :=
  srcFull h who i || (match srcOwner h i with | some p => isOf h who p && !hasSecure h p | none => false)

/-! ### Readiness and targets (R523 to R528) -/

/-- Target code of Kydin's line; a core queue is 4 c + queue (0 M, 1 S, 2 SEC). -/
def toKydin : Nat := 640

/-- A core that takes no interrupt: retired, detached, or none (R527). -/
def coreGone (h : Hw) (c : Nat) : Bool :=
  decide (160 ≤ c) || fget h F_CORE_STATUS_STATE c == 3 || decide (1 ≤ fget h F_STR_STATUS_DETACHED (routerOf (c / 2)))

/-- Where a message of source `i` goes, and whether that is the orphan target (R520, R524, R527). -/
def srcTarget (h : Hw) (i : Nat) : Nat × Bool :=
  match srcOwner h i with
  | none => (toKydin, false)
  | some p =>
    let c := fget h F_INT_SRC_CFG_CORE 0 i
    let queue := if fon h F_INT_SRC_CFG_SECURE 0 i then 2 else fget h F_INT_SRC_CFG_LEVEL 0 i
    if c == 0xFF then (toKydin, false)
    else if !coreGone h c then (4 * c + queue, false)
    else
      let o := bits (fget h F_INT_ORPHAN_CORE) (8 * p + 7) (8 * p)
      if o == 0xFF || coreGone h o || ownerCore h o != some p then (toKydin, true) else (4 * o + queue, true)

/-- A pending source has become ready (R523). -/
def isReady (h : Hw) (i : Nat) : Bool :=
  fon h F_INT_SRC_STATE_PENDING 0 i &&
    (decide (max 1 (fget h F_INT_SRC_CFG_COUNT 0 i) ≤ fget h F_INT_SRC_STATE_EVENTS 0 i) || tget false h.ints.timeOut i)

/-- Credits of a target queue: 16 less the entries it holds and the messages on their way to it; Kydin's line has no limit
(R524, R525). -/
def srcCredit (h : Hw) (t : Nat) : Bool :=
  t == toKydin ||
    decide ((tget [] h.ints.queue t).length + (h.ints.flight.filter fun f => f.2 == t).length < 16)

/-- The distributor may commit a message for source `i` (R523, R528). -/
def mayCommit (h : Hw) (i : Nat) : Bool :=
  isReady h i && !fon h F_INT_SRC_CFG_MASK 0 i && !fon h F_INT_CTRL_ALL_DISABLE &&
    (match srcOwner h i with | some p => !bit (fget h F_INT_CTRL_DISABLE) p | none => true) &&
    !fon h F_INT_SRC_STATE_IN_FLIGHT 0 i && srcCredit h (srcTarget h i).1

/-- Sources that are pending. -/
def pendingSources (h : Hw) : List Nat :=
  (h.regs.filter fun e => e.1 / 2 ^ 32 == F_INT_SRC_STATE_PENDING.id).map fun e => e.1 % 65536

/-- No other source for the same queue comes before `i`: highest PRIORITY, then lowest number (R523). -/
def commitsFirst (h : Hw) (i : Nat) : Bool :=
  let t := (srcTarget h i).1
  let pr := fget h F_INT_SRC_CFG_PRIORITY 0 i
  (pendingSources h).all fun k =>
    k == i || (srcTarget h k).1 != t || !mayCommit h k ||
      decide (fget h F_INT_SRC_CFG_PRIORITY 0 k < pr) || (fget h F_INT_SRC_CFG_PRIORITY 0 k == pr && decide (i < k))

/-- The count and the coalescing timer of a source start over. -/
def clearSource (h : Hw) (i : Nat) : Hw :=
  let h := fset (fset h F_INT_SRC_STATE_PENDING 0 0 i) F_INT_SRC_STATE_EVENTS 0 0 i
  { h with ints := { h.ints with firstAt := tdel h.ints.firstAt i, timeOut := tdel h.ints.timeOut i } }

/-- A message that was committed and not claimed: its source is pending again, and ready as it was when it committed (R527,
R529). DEDUCED: safe (log 20). -/
def pendAgain (h : Hw) (i : Nat) : Hw :=
  let h := fset (fset h F_INT_SRC_STATE_IN_FLIGHT 0 0 i) F_INT_SRC_STATE_PENDING 1 0 i
  { h with ints := { h.ints with timeOut := tset false h.ints.timeOut i true } }

/-- Core `c`'s queues and the messages on their way to it are emptied, and their sources pend again (R527, R529). -/
def emptyQueues (h : Hw) (c : Nat) : Hw :=
  let held := (List.range 3).flatMap fun q => tget [] h.ints.queue (4 * c + q)
  let coming := (h.ints.flight.filter fun f => f.2 / 4 == c).map (·.1)
  let queue := (List.range 3).foldl (fun t q => tdel t (4 * c + q)) h.ints.queue
  let h := { h with ints := { h.ints with flight := h.ints.flight.filter fun f => f.2 / 4 != c, queue := queue } }
  (held ++ coming).foldl pendAgain h

/-! ### Commands -/

/-- SOURCE_EVENT: an event, or a write of 1 to PENDING by a requester that may set it (R519, R520, R522). -/
def execSourceEvent (who : Option Requester) (i : Fin 2064) (s : State) : Host.Outcome State Fault Refusal :=
  .next (s.upd fun h =>
    match who with
    | none => if 1168 ≤ i.val && i.val < 1328 then h else raiseSource h i.val
    | some w =>
      if !served h w R_INT_SRC_STATE then setBusErr h true
      else
        let h := setBusErr h false
        if srcSome h w i.val then raiseSource h i.val else logRefusedWrite h w R_INT_SRC_STATE 0 i.val)

/-- CLEAR: PENDING and EVENTS read 0 and the coalescing timer restarts; a committed message is not recalled (R522). Kydin's
CLEAR of a source whose message it holds also claims that message (R525; DEDUCED, safe, log 20). -/
def execClear (who : Requester) (i : Fin 2064) (s : State) : Host.Outcome State Fault Refusal :=
  .next (s.upd fun h =>
    if !served h who R_INT_SRC_STATE then setBusErr h true
    else if !srcSome h who i.val then logRefusedWrite (setBusErr h false) who R_INT_SRC_STATE 0 i.val
    else
      let h := clearSource (setBusErr h false) i.val
      if who == .kydin && h.ints.kydin.contains i.val then
        fset { h with ints := { h.ints with kydin := h.ints.kydin.erase i.val } } F_INT_SRC_STATE_IN_FLIGHT 0 0 i.val
      else h)

/-- The moment at which TIME has passed since the first event that source `i` counted, in 1/64 gate cycle; TIME counts 100 ns, 160 gate cycles
(R523). -/
def coalesceEnd (h : Hw) (i : Nat) : Nat := tget 0 h.ints.firstAt i + 64 * 160 * fget h F_INT_SRC_CFG_TIME 0 i

/-- INTERRUPT_COMMIT: the message of a source that may commit and comes first for its queue (R523, R527). -/
def execInterruptCommit (i : Fin 2064) (s : State) : Host.Outcome State Fault Refusal :=
  .next (s.upd fun h =>
    let i := i.val
    if !(decide (2 ≤ modeNow h) && mayCommit h i && commitsFirst h i) then h
    else
      let (t, orphan) := srcTarget h i
      let h := fset (fset (clearSource h i) F_INT_SRC_STATE_IN_FLIGHT 1 0 i) F_INT_SRC_STATE_ORPHANED (b2n orphan) 0 i
      let h := { h with ints := { h.ints with flight := h.ints.flight ++ [(i, t)] } }
      if orphan && t == toKydin then logReg h 4 blkInt 0 R_INT_SRC_STATE 0 i else h)

/-- The square of a queue's core sleeps. -/
def targetSleeps (h : Hw) (t : Nat) : Bool := t != toKydin && pwrOf h (t / 8) != pwrOn

/-- A message for a partition that is down (R529). -/
def targetDown (h : Hw) (t : Nat) : Bool :=
  t != toKydin && (match ownerCore h (t / 4) with | some p => partDown h p | none => false)

/-- A message reaches its target: it is accepted into its queue, or discarded where the partition is down (R524, R525, R529). -/
def acceptMessage (h : Hw) (f : Nat × Nat) : Hw :=
  let down := targetDown h f.2
  let h := { h with ints := { h.ints with flight := h.ints.flight.erase f } }
  if f.2 == toKydin then { h with ints := { h.ints with kydin := h.ints.kydin ++ [f.1] } }
  else if down then fset h F_INT_SRC_STATE_IN_FLIGHT 0 0 f.1
  else stirCore { h with ints := { h.ints with queue := tset [] h.ints.queue f.2 (tget [] h.ints.queue f.2 ++ [f.1]) } } (f.2 / 4)

/-- The committed messages of source `i` are accepted, after those that went to the same queue earlier; a sleeping square is woken for them
(R526, R527). -/
def settleSource (h : Hw) (i : Nat) : Hw :=
  match h.ints.flight.find? fun f => f.1 == i with
  | none => h
  | some (_, t) =>
    let fs := (h.ints.flight.takeWhile fun f => f.1 != i).filter fun f => f.2 == t
    (fs ++ [(i, t)]).foldl acceptMessage (if targetSleeps h t then wakeSquare h (t / 8) else h)

/-- INTERRUPT_MESSAGE: the oldest message whose target is awake is accepted into its queue; messages for sleeping squares raise
a wake and wait; a message for a partition that is down is discarded (R524, R525, R527, R529). -/
def execInterruptMessage (s : State) : Host.Outcome State Fault Refusal :=
  .next (s.upd fun h =>
    let h := (h.ints.flight.filter fun f => targetSleeps h f.2).foldl (fun h f => wakeSquare h (f.2 / 8)) h
    match h.ints.flight.find? fun f => !targetSleeps h f.2 with
    | none => h
    | some f => acceptMessage h f)

/-- The oldest entry of a queue, removed: its credit returns and IN_FLIGHT of its source clears (R524). -/
def claimEntry (h : Hw) (t : Nat) : Option Nat × Hw :=
  match tget [] h.ints.queue t with
  | [] => (none, h)
  | i :: r => (some i, fset { h with ints := { h.ints with queue := tset [] h.ints.queue t r } } F_INT_SRC_STATE_IN_FLIGHT 0 0 i)

/-- A claim as a core's own read of its claim register (R524, R525). -/
def claimRead (h : Hw) (c queue : Nat) : Hw :=
  if queue == 2 && !fon h F_CORE_STATUS_WORLD c then
    { logReg h 4 blkCore c R_CORE_ICLAIM_SEC c 0 (partByte ((ownerCore h c).getD 0) false) with lastRead := some 0 }
  else
    let (i, h) := claimEntry h (4 * c + queue)
    { h with lastRead := some (match i with | some i => BitVec.ofNat 64 (2 ^ 63 + i) | none => 0) }

/-- CLAIM: the core reads CORE_ICLAIM_M, CORE_ICLAIM_S or CORE_ICLAIM_SEC (R524, R525). -/
def execClaim (c : Fin 160) (queue : IntQueue) (s : State) : Host.Outcome State Fault Refusal :=
  .next (s.upd fun h => claimRead h c.val (match queue with | .m => 0 | .s => 1 | .sec => 2))

/-- CFG_READBACK: a read of INT_SRC_CFG completes once no message of the source is on its way (R526); until then it returns
nothing. -/
def execCfgReadback (who : Requester) (i : Fin 2064) (s : State) : Host.Outcome State Fault Refusal :=
  .next (s.upd fun h =>
    if !served h who R_INT_SRC_CFG then { setBusErr h true with lastRead := none }
    else if h.ints.flight.any fun f => f.1 == i.val then { h with lastRead := none }
    else { h with lastRead := some (BitVec.ofNat 64 (srcCfgVal h i.val)), busErr := false })

/-- An edge of the spill input requests the mode of its level (R82). -/
def spillEdge (h : Hw) (level : Bool) : Hw :=
  let beam := level != fon h F_MODE_CONFIG_SPILL_POL
  let target := if beam then (if fon h F_MODE_CONFIG_SPILL_BEAM then 6 else 4) else (if fon h F_MODE_CONFIG_SPILL_GAP then 3 else 5)
  let h := { h with mod := { h.mod with spillLevel := some level } }
  (requestMode h target true).1

/-- GPI_EDGE: the filter takes a new level, which raises the source on the selected edge and moves the spill input (R82,
R521). -/
def execGpiEdge (n : Fin 16) (level : Bool) (s : State) : Host.Outcome State Fault Refusal :=
  .next (s.upd fun h =>
    if fon h F_INT_GPI_CFG_LEVEL 0 n.val == level then h
    else
      let h := fset h F_INT_GPI_CFG_LEVEL (b2n level) 0 n.val
      let h := { h with ints := { h.ints with gpiHigh := setBit h.ints.gpiHigh n.val level } }
      let edge := fget h F_INT_GPI_CFG_EDGE 0 n.val
      let h := if edge == 2 || (edge == 1) != level then raiseSource h (2048 + n.val) else h
      if fon h F_MODE_CONFIG_SPILL_EN && fget h F_MODE_CONFIG_SPILL_GPI == n.val then spillEdge h level else h)

/-- FREEZE: PMU_GLOBAL stops or starts every uncore counter, 128 gate cycles after the write; Kydin and the trusted service write it (R541). -/
def execFreeze (who : Requester) (v : Bool) (s : State) : Host.Outcome State Fault Refusal :=
  .next (s.upd fun h => ifMay h who R_PMU_GLOBAL 0 0 fun h => setFreeze h v)

/-! ### Retention (R529) -/

/-- The registers of the distributor. -/
def intRegs : List Nat := [R_INT_SRC_CFG.id, R_INT_SRC_STATE.id, R_INT_CTRL.id, R_INT_ORPHAN.id, R_INT_GPI_CFG.id]

/-- Whether a key of the register table belongs to one of the registers numbered in a list. -/
def keyIn (ids : List Nat) (k : Nat) : Bool :=
  allFields.any fun f => f.id == k / 2 ^ 32 && ids.contains f.reg

/-- Before the compute dies power down: sources in flight or queued pend again, then configuration, PENDING, EVENTS and elapsed
timers are copied (R529). A key beyond 2^62 holds a timer, one beyond 2^63 a source that has become ready without one. -/
def retainInts (h : Hw) : Hw :=
  let h := (List.range 160).foldl emptyQueues h
  let h := (h.ints.flight.map (·.1) ++ h.ints.kydin).foldl pendAgain { h with ints := { h.ints with flight := [], kydin := [] } }
  let regs := (h.regs.filter fun e => keyIn intRegs e.1).map fun e => (e.1, BitVec.ofNat 64 e.2)
  let timers := h.ints.firstAt.map fun e => (2 ^ 62 + e.1, BitVec.ofNat 64 (h.now - e.2))
  let ready := (h.ints.timeOut.filter (·.2)).map fun e => (2 ^ 63 + e.1, 1#64)
  { h with ints := { h.ints with retained := regs ++ timers ++ ready, retValid := true } }

/-- At the startup after a fall to M1 the retained state comes back; a source raised in M1 keeps its PENDING (R529). -/
def restoreInts (h : Hw) : Hw :=
  if !h.ints.retValid then h else
    let h := h.ints.retained.foldl (fun h e =>
      if 2 ^ 63 ≤ e.1 then { h with ints := { h.ints with timeOut := tset false h.ints.timeOut (e.1 - 2 ^ 63) true } }
      else if 2 ^ 62 ≤ e.1 then { h with ints := { h.ints with firstAt := tset 0 h.ints.firstAt (e.1 - 2 ^ 62) (h.now - e.2.toNat) } }
      else { h with regs := tins h.regs e.1 (max e.2.toNat (tget 0 h.regs e.1)) }) h
    { h with ints := { h.ints with retained := [], retValid := false } }

/-! ### The change step of a fence (R436, R437, R527, R557) -/

/-- What a fence reconfigures: code 4 detaches the core ports, 5 also the slice ports, 6 reattaches, 7 and 8 set and clear
ROUTER_SLEEP, 9 + d moves a wire of link d to a spare. Before a core's port detaches, its queues are emptied (R527). -/
def fenceChange (h : Hw) (r code : Nat) : Hw :=
  let cores := match squareOf r with | some s => [2 * s, 2 * s + 1] | none => []
  match code with
  | 4 | 5 =>
    let h := fset h F_STR_STATUS_DETACHED (max (code - 3) (fget h F_STR_STATUS_DETACHED r)) r
    cores.foldl (fun h c => emptyQueues (fset h F_CORE_STATUS_STATE 3 c) c) h
  | 6 =>
    let held := fget h F_STR_STATUS_DETACHED r != 0
    cores.foldl (fun h c => if held then fset h F_CORE_STATUS_STATE 0 c else h) (fset h F_STR_STATUS_DETACHED 0 r)
  | 7 => fset h F_STR_CFG_ROUTER_SLEEP 1 r
  | 8 => fset h F_STR_CFG_ROUTER_SLEEP 0 r
  | n =>
    let d := n - 9
    { h with kyd := { h.kyd with spares := tset 0 h.kyd.spares (4 * r + d) (sparesUsed h r d + 1) } }

/-- FENCE_DRAIN_DONE: the change is made, held packets are released, and the command ends DONE (R436). -/
def execFenceDrainDone (s : State) : Host.Outcome State Fault Refusal :=
  .next (s.act fun h m =>
    match h.grid.fence with
    | some (r, code) => endRetire (endFence (fenceChange h r code) r code rcDone) m rcDone
    | none => { hw := h })

end Sys2Proof.Machine
end

