-- ==== Sys2Proof/Machine/Caches.lean ====
section
/-!
DEFINITION. The commands of the coherence protocol: requests, snoops, responses, retries, offers and the accesses of agents that cache no line.
-/

namespace Sys2Proof.Machine

/-- A request of core `c` that its home serves: its own partition up, its address allowed (R278, R422). -/
def coherent (h : Hw) (c line : Nat) (write : Bool) : Bool × Hw :=
  mayReach h (askerOf h (if hc : c < 160 then .core ⟨c, hc⟩ else .kydin)) (64 * line) write

/-- Contained class for the partition of core `c`: one record, and its coherent domain goes down (R11, R422). -/
def domainFails (h : Hw) (c line : Nat) : Eff :=
  match ownerCore h c with
  | some p =>
    let k := (homeLine h line).getD 0
    let h := logRec h { cls := 2, block := blkLlc, inst := k, code := R_SF_STATUS.offset 0, seq := 0, part := partByte p false,
                        addr := 64 * line, d0 := regVal h R_SF_STATUS k }
    takeDown h p
  | none => { hw := h }

/-! ### Requests and snoops as commands -/

/-- The home of a line as an index, for records. -/
def homeIdx (h : Hw) (line : Nat) : Nat := (homeLine h line).getD 0

/-- READ_UNIQUE: a store miss of a core that holds nothing (R411, R414). -/
def execReadUnique (c : Fin 160) (line : BitVec 46) (s : State) : Host.Outcome State Fault Refusal :=
  .next (s.act fun h m =>
    if (coreLine h c.val line.toNat).isSome then { hw := h }
    else
      match coherent h c.val line.toNat true with
      | (true, h) => { hw := arrive (setBusErr h false) m .readUnique c.val line.toNat }
      | (false, h) => { hw := setBusErr h true })

/-- UPGRADE: a store of a holder in S or F; a requester that has lost the line is served as READ_UNIQUE (R411). -/
def execUpgrade (c : Fin 160) (line : BitVec 46) (s : State) : Host.Outcome State Fault Refusal :=
  .next (s.act fun h m =>
    match coreLine h c.val line.toNat with
    | some l =>
      if l.st == .s || l.st == .f then
        match coherent h c.val line.toNat true with
        | (true, h) => { hw := arrive (setBusErr h false) m .upgrade c.val line.toNat }
        | (false, h) => { hw := setBusErr h true }
      else { hw := h }
    | none =>
      match coherent h c.val line.toNat true with
      | (true, h) => { hw := arrive (setBusErr h false) m .readUnique c.val line.toNat }
      | (false, h) => { hw := setBusErr h true })

/-- A writeback arrives: it goes before the requests of its arrival slot, waits behind any other open transaction of its line, or is taken
at once; one that its cache would not send changes nothing (R411, R413 to R415). -/
def writeback (h : Hw) (m : Mem) (dirty : Bool) (c line : Nat) : Eff :=
  let sent := match coreLine h c line with
    | some l => if dirty then decide (l.st = CState.m) else decide (l.st ≠ CState.m)
    | none => false
  if !sent then { hw := h }
  else
    let w : Waiter := { line := line, req := if dirty then .wbDirty else .wbClean, core := c, slot := meshSlot h }
    let h := giveWay h line w.rank
    if (transOf h line).isSome then { hw := addWaiter h w }
    else
      ((takeWriteback h m dirty c line w.slot).next m fun h m => nextWaiting h m line h.hom.waiting.length).next m fun h m =>
        { hw := wakeWaiting h m }

/-- WB_DIRTY (R411, R415). -/
def execWbDirty (c : Fin 160) (line : BitVec 46) (s : State) : Host.Outcome State Fault Refusal :=
  .next (s.act fun h m => writeback h m true c.val line.toNat)

/-- WB_CLEAN: the home may install the data, a choice the spec leaves open (R411; log 7). -/
def execWbClean (c : Fin 160) (line : BitVec 46) (s : State) : Host.Outcome State Fault Refusal :=
  .next (s.act fun h m => writeback h m false c.val line.toNat)

/-- A response that a transaction of one of the kinds waits for; any other matches no open transaction (R422). -/
def awaited (h : Hw) (c line : Nat) (kinds : List CReq) : Option Trans :=
  match transOf h line with
  | some t => if t.waiting.contains c && kinds.contains t.req then some t else none
  | none => none

/-- A snoop reaches a core: the core answers where a transaction of one of the kinds waits for it (R411, R422). -/
def snooped (h : Hw) (m : Mem) (c line : Nat) (kinds : List CReq) : Eff :=
  match awaited h c line kinds with
  | some t => snoopAnswer h m c line t
  | none => domainFails h c line

/-- SNP_SHARED: M, E and F answer with data and keep or take F (R411). -/
def execSnpShared (c : Fin 160) (line : BitVec 46) (s : State) : Host.Outcome State Fault Refusal :=
  .next (s.act fun h m => snooped h m c.val line.toNat [.readShared])

/-- SNP_UNIQUE: every holder moves to I (R411). -/
def execSnpUnique (c : Fin 160) (line : BitVec 46) (s : State) : Host.Outcome State Fault Refusal :=
  .next (s.act fun h m => snooped h m c.val line.toNat [.readUnique, .upgrade])

/-- A snoop of an I/O access or of a maintenance command, whose transaction is open for the step of the snoop alone (log 23). The home has one
transaction per line, so while another one is open the response matches none (R414, R422). -/
def snoopedAlone (h : Hw) (c line : Nat) (run : Eff) : Eff := if (transOf h line).isSome then domainFails h c line else run

/-- SNP_ONCE: a holder in M, E or F supplies the line and keeps its state (R411, R419). -/
def execSnpOnce (c : Fin 160) (line : BitVec 46) (s : State) : Host.Outcome State Fault Refusal :=
  .next (s.act fun h _ => snoopedAlone h c.val line.toNat
    { hw := match coreLine h c.val line.toNat with
      | some l => if l.st == .s then h else { h with lastResult := l.data ++ [if l.poison then 1 else 0] }
      | none => { h with lastResult := [] } })

/-- SNP_CLEAN: M moves to E and its data goes through the home to memory (R407, R411). -/
def execSnpClean (c : Fin 160) (line : BitVec 46) (s : State) : Host.Outcome State Fault Refusal :=
  .next (s.act fun h m => snoopedAlone h c.val line.toNat (snoopClean h m c.val line.toNat))

/-- SNP_INVAL: every holder moves to I and M returns its data to the home, which installs it (R397, R411, R417). -/
def execSnpInval (c : Fin 160) (line : BitVec 46) (s : State) : Host.Outcome State Fault Refusal :=
  .next (s.act fun h m =>
    let c := c.val
    let line := line.toNat
    match awaited h c line [.backinv] with
    | some t => snoopAnswer h m c line t
    | none => snoopedAlone h c line ((invalidated h m c line).next m fun h m => { hw := wakeWaiting (filterDel h line c) m }))

/-- COMPLETION_ACK: the requester's acknowledgement closes the transaction once every snoop has been answered, and the next
request for the line starts; one that matches no open transaction takes the domain down (R414, R422). -/
def execCompletionAck (c : Fin 160) (line : BitVec 46) (s : State) : Host.Outcome State Fault Refusal :=
  .next (s.act fun h m =>
    match transOf h line.toNat with
    | some t => if t.core == c.val && t.done then closeTrans h m line.toNat else domainFails h c.val line.toNat
    | none => domainFails h c.val line.toNat)

/-- CREDITS reports the retry credits held. -/
def noteCredits (h : Hw) (k : Nat) : Hw := fset h F_SF_STATUS_CREDITS (creditsOf h k) k

/-- RETRY: a request that found every filter entry or the buffer taken leaves with a retry credit, of which a slice has 32
(R417). -/
def execRetry (c : Fin 160) (line : BitVec 46) (s : State) : Host.Outcome State Fault Refusal :=
  .next (s.upd fun h =>
    let line := line.toNat
    match h.hom.waiting.find? (fun w => w.line == line && w.core == c.val), homeLine h line with
    | some w, some k =>
      if (transOf h line).isSome || !isFull (filterRoom h k line) || 32 ≤ creditsOf h k || w.req.atOnce then h
      else
        let h := dropWaiter h w
        let h := { h with hom := { h.hom with credits := h.hom.credits ++ [(k, line, w.req, w.core)] } }
        noteCredits (fadd h F_SF_STATUS_RETRIES 1 k) k
    | _, _ => h)

/-- The oldest retry credit of a slice whose filter set has an entry again is taken back, and its request, sent again, starts with that
entry (R417). -/
def grantOldest (h : Hw) (m : Mem) (k : Nat) : Eff :=
  match h.hom.credits.find? fun e => e.1 == k && !isFull (roomBeside h k e.2.1 0) with
  | none => { hw := h }
  | some (_, l, req, c) =>
    let h := noteCredits { h with hom := { h.hom with credits := h.hom.credits.erase (k, l, req, c) } } k
    let w : Waiter := { line := l, req := req, core := c, slot := meshSlot h }
    let h := if (transOf h l).isSome then addWaiter h w else beginReq h m w k (roomBeside h k l 0)
    { hw := wakeWaiting h m }

/-- GRANT: the oldest credit that can have an entry starts; so do requests that the home did not take while no credit was free (R417). -/
def execGrant (k : Fin 160) (s : State) : Host.Outcome State Fault Refusal :=
  .next (s.act fun h m => grantOldest h m k.val)

/-- The place that slice `k` gives an offer of a line, where it may install it: way, and the line it replaces (R398, R399). -/
def offerSpot (h : Hw) (k line : Nat) : Option (Nat × Option (Nat × CacheLine)) :=
  let owned := (tracked h line).any fun c => match coreLine h c line with | some l => l.st == .m || l.st == .e | none => false
  if fget h F_LLC_CFG_EN k != 1 || !fon h F_LLC_CFG_OFFER_ACCEPT k || (llcLine h k line).isSome || (transOf h line).isSome || owned then none
  else
    match pickWay h k line (waysIn h k 0 ++ waysIn h k 1) with
    | some (w, some (vl, v)) => if v.dirty then none else some (w, some (vl, v))
    | x => x

/-- PREFETCH_OFFER: the oldest offer of the line on its way to this home arrives; it is installed in the least recently used place where
R398 allows it, else declined and counted; the homes of a partition whose domain is down have stopped (R422). DESIGN CHOICE: an offer whose line has been written since is declined (R257, R398; log 67). -/
def execPrefetchOffer (k : Fin 160) (line : BitVec 46) (s : State) : Host.Outcome State Fault Refusal :=
  .next (s.upd fun h =>
    let k := k.val
    let line := line.toNat
    match h.hom.offers.find? fun o => o.line == line with
    | none => h
    | some o =>
      if homeLine h line != some k || (match linePart h line with | some p => partDown h p | none => false) then h
      else
        let h := { h with hom := { h.hom with offers := h.hom.offers.erase o } }
        match offerSpot h k line with
        | some (w, v) =>
          if o.stale then fadd h F_LLC_STATUS_OFFER_DECL 1 k
          else
            let h := match v with | some (vl, _) => delLlc h k vl | none => h
            fadd (setLlc h k line { data := o.data, poison := o.poison, way := w, use := 0 }) F_LLC_STATUS_OFFER_IN 1 k
        | none => fadd h F_LLC_STATUS_OFFER_DECL 1 k)

/-! ### Requesters that do not cache (R419, R420, R443) -/

/-- Partition and world of such a requester (R443). -/
def ioAsker (h : Hw) : IoAgent → Asker
  | .engine q qp => askerIn h ((ownerQp h q.val qp.val).getD 8) (fon h F_ENG_QP_CFG_WORLD q.val qp.val)
  | .gate g => askerIn h ((ownerGate h g.val).getD 8) (bit (fget h F_OWNW_GATE_GATE) g.val)
  | .roundabout p => askerIn h p.val (bit (fget h F_OWNW_MISC_RBT) p.val)
  | .host n sec => askerIn h (partOfFn n.val) sec
  | .hub _ p sec => askerIn h p.val sec
  | .kydin => .kydin

/-- IO_READ: the most recent bytes in the home's order, each with its poison (R419); a refused access is a bus error. -/
def execIoRead (agent : IoAgent) (addr : BitVec 52) (len : Nat) (s : State) : Host.Outcome State Fault Refusal :=
  .next (s.upd fun h =>
    let (h, ok, bs, _) := agentRead h s.mem (ioAsker h agent) addr.toNat len
    { setBusErr h (!ok) with lastResult := if ok then bs else [] })

/-- IO_WRITE: every cached copy is invalidated and the bytes reach the quarter or the scratchpad (R419). -/
def execIoWrite (agent : IoAgent) (addr : BitVec 52) (data : List (BitVec 8)) (s : State) : Host.Outcome State Fault Refusal :=
  .next (s.act fun h m =>
    let (e, ok) := agentWrite h m (ioAsker h agent) addr.toNat data
    e.map fun h => setBusErr h (!ok))

end Sys2Proof.Machine
end

