-- ==== Sys2Proof/Machine/Flows.lean ====
section
/-!
DEFINITION. Flows of Roundabout: their items, what the flow and partition registers show of them, and items that come back.
-/

namespace Sys2Proof.Machine

/-- A field of flow `f`'s registers. -/
def flowGet (h : Hw) (x : Field) (f : Nat) : Nat := fget h x (f / 1024) (f % 1024)
def flowSet (h : Hw) (x : Field) (f v : Nat) : Hw := fset h x v (f / 1024) (f % 1024)

/-- The oldest undelivered item of a flow (R231). -/
def headItem (fl : Flow) : Option Item := fl.items.find? fun i => i.st == .waiting

/-- Whether an item is delivered and not done. -/
def isDelivered (i : Item) : Bool := match i.st with | .delivered _ => true | _ => false

/-- Items delivered and not done. -/
def inProcess (fl : Flow) : Nat := (fl.items.filter isDelivered).length

/-- Whether an item has been released. -/
def isReleased (i : Item) : Bool := i.st == .acting || i.st == .complete

/-- Items that are enqueued and not released: on chip, and in overflow (R230, R236). -/
def onChipItems (fl : Flow) : Nat := (fl.items.filter fun i => i.onChip && !isReleased i).length
def overflowItems (fl : Flow) : Nat := (fl.items.filter fun i => !i.onChip).length

/-- The head item of a flow, if it is deliverable (R231). -/
def deliverable (h : Hw) (f : Nat) : Option Item :=
  let fl := flowOf h f
  match headItem fl with
  | some i =>
    if i.onChip && flowGet h F_RBT_FLOW_CFG_EN f == 1 && flowGet h F_RBT_FLOW_CFG_PAUSE f == 0 &&
        decide (inProcess fl < max 1 (flowGet h F_RBT_FLOW_CFG_PARALLEL f)) then some i else none
  | none => none

/-- The flow's registers follow its items; an item that becomes deliverable raises the work source of its group (R231, R519). -/
def refreshFlow (h : Hw) (f : Nat) : Hw :=
  let fl := flowOf h f
  let h := flowSet (flowSet h F_RBT_FLOW_STATUS_IN_PROC f (inProcess fl)) F_RBT_FLOW_STATUS_OVF_DEPTH f (overflowItems fl)
  let h := flowSet (flowSet h F_RBT_FLOW_STATUS_ONCHIP_DEPTH f (onChipItems fl)) F_RBT_FLOW_STATUS_STALLED f (b2n fl.stalled)
  match deliverable h f with
  | none => if fl.readyAt.isSome then setFlow h f { fl with readyAt := none } else h
  | some i =>
    match fl.readyAt with
    | some (n, _) => if n == i.seq then h else raiseReady h f fl i
    | none => raiseReady h f fl i
where
  raiseReady (h : Hw) (f : Nat) (fl : Flow) (i : Item) : Hw :=
    let h := setFlow h f { fl with readyAt := some (i.seq, h.now) }
    match ownerFlow h f with
    | some p => raiseSource h (srcPart p (16 + flowGet h F_RBT_FLOW_CFG_GROUP f))
    | none => h

/-- The flows of a partition that hold something. -/
def flowsOf (h : Hw) (p : Nat) : List (Nat × Flow) := h.rbt.flows.filter fun e => ownerFlow h e.1 == some p

/-- Assembly entries of a partition: open, and closed and waiting (R224). -/
def entriesOf (h : Hw) (p : Nat) : List AsmEntry := h.rbt.entries.filter (·.part == p)

/-- What a partition uses of Roundabout, as its registers show it, with the OVER bits (R248, R250, R454). -/
def refreshUse (h : Hw) (p : Nat) : Hw :=
  let fs := flowsOf h p
  let on := (fs.map fun e => onChipItems e.2).sum
  let ov := (fs.map fun e => overflowItems e.2).sum
  let op := (entriesOf h p).length
  let h := fset (fset h F_RBT_PART_USE_ONCHIP_USED on 0 p) F_RBT_PART_USE_OVF_USED ov 0 p
  let h := fset h F_RBT_PART_USE_OPEN op 0 p
  let h := fset h F_RBT_PART_USE_OPEN_OVER (b2n (decide (quotaOf h p 1 < op))) 0 p
  let h := fset h F_RBT_PART_USE_OVF_OVER (b2n (decide (quotaOf h p 2 < ov))) 0 p
  let h := setOver (setOver h p 1 (decide (quotaOf h p 1 < op))) p 2 (decide (quotaOf h p 2 < ov))
  let h := fset h F_RBT_STATUS_OPEN_USED h.rbt.entries.length
  fset h F_RBT_STATUS_ONCHIP_USED ((h.rbt.flows.map fun e => onChipItems e.2).sum)

/-- A flow and its partition after a change of its items. -/
def refreshItems (h : Hw) (f : Nat) : Hw :=
  let h := refreshFlow h f
  match ownerFlow h f with | some p => refreshUse h p | none => h

/-- Items delivered to a core and not done, as RBT_CORE_LOAD shows them, at most 255. -/
def refreshLoad (h : Hw) (agent : Nat) : Hw :=
  if agent < 160 then
    let n := (h.rbt.flows.map fun e => (e.2.items.filter fun i => i.st == .delivered agent).length).sum
    fset h F_RBT_CORE_LOAD_IN_PROC (min 255 n) 0 agent
  else h

/-- Items delivered to an agent and not done return to the head of their flows with REDELIVERED, and a core's count takes them
(R249, R250). -/
def redeliver (h : Hw) (agent : Nat) : Hw :=
  let fs := (h.rbt.flows.filter fun e => (e.2.items.any fun i => i.st == .delivered agent)).map (·.1)
  let n := (h.rbt.flows.map fun e => (e.2.items.filter fun i => i.st == .delivered agent).length).sum
  let h := fs.foldl (fun h f =>
    let fl := flowOf h f
    let back := fun (i : Item) => if i.st == .delivered agent then { i with st := .waiting, flags := setBit i.flags 3 true } else i
    refreshItems (setFlow h f { fl with items := fl.items.map back }) f) h
  if agent < 160 then refreshLoad (fadd h F_RBT_CORE_LOAD_REDELIVERED n 0 agent) agent else h

end Sys2Proof.Machine
end

