-- ==== Sys2Proof/Machine/Slices.lean ====
section
/-!
DEFINITION. Array errors of a slice, its ways, cache disabling, maintenance commands, and the reset of a square.
-/

namespace Sys2Proof.Machine

/-! ### Resets by domain (R10, R84) -/

/-- The register and the field id of a key of the register table. -/
def keyReg (k : Nat) : Option Reg := (allFields.find? fun f => f.id == k / 2 ^ 32).bind fun f => allRegs.find? fun r => r.id == f.reg

/-- Every field of the registers that a test picks, by register, instance and element, reads its reset value again. -/
def clearRegs (h : Hw) (test : Reg → Nat → Nat → Bool) : Hw :=
  { h with regs := h.regs.filter fun e =>
      match keyReg e.1 with
      | some r => !test r (e.1 / 65536 % 65536) (e.1 % 65536)
      | none => true }

/-! ### Disabling a way (R405) -/

/-- Every line of a way is cleaned and leaves the slice. -/
def emptyWay (h : Hw) (m : Mem) (k w : Nat) : Eff :=
  effFold h m (fun h m e => evictLlc h m k e.1 e.2) ((sliceLines h k).filter fun e => e.2.way == w)

/-- A locked line of a way that closes moves to another LOCKABLE way of its set, or is unlocked, counted and leaves (R405). -/
def moveLocked (h : Hw) (m : Mem) (k : Nat) (line : Nat) (l : CacheLine) (ways : List Nat) : Eff :=
  match pickWay h k line ways with
  | some (w, victim) =>
    let e := match victim with | some (vl, v) => evictLlc h m k vl v | none => { hw := h }
    e.map fun h => setLlc h k line { l with way := w }
  | none => (evictLlc h m k line l).map fun h => fadd h F_LLC_STATUS_LOCK_LOST 1 k

/-- The number of ways of each mode follows WAYMODE. -/
def countWays (h : Hw) (k : Nat) : Hw :=
  fset (fset h F_LLC_CFG_SP_WAYS (waysIn h k 2).length k) F_LLC_CFG_LOCK_WAYS (waysIn h k 1).length k

/-- A RETIRE lifetime entry and the unit in the records: KIND, UNIT, cause, RESTORE (R547, R555). -/
def lifeRetire (h : Hw) (kind unit cause : Nat) (restore : Bool) : Hw :=
  let h := addLife h 7 [kind, unit, cause, b2n restore]
  let l := h.kyd.retired.filter (· != (kind, unit))
  { h with kyd := { h.kyd with retired := if restore then l else l ++ [(kind, unit)] } }

/-- Disable way `w` of slice `k`; refused, with the square's source raised, below two NORMAL ways (R405). A SCRATCH way is copied
into the lowest NORMAL way. -/
def disableWay (h : Hw) (m : Mem) (k w cause : Nat) : Eff × Bool :=
  let mode := wayMode h k w
  let normals := (waysIn h k 0).length
  if mode == 3 then ({ hw := h }, false)
  else if (if mode == 1 then normals else normals - 1) < 2 then ({ hw := raiseSource h (srcSquare (k / 2)) }, false)
  else
    let locked := (sliceLines h k).filter fun e => e.2.way == w && e.2.locked
    let others := (waysIn h k 1).filter (· != w)
    let e := effFold h m (fun h m l => moveLocked h m k l.1 l.2 others) locked
    let e := e.next m fun h m => emptyWay h m k w
    let e := e.next m fun h m =>
      match mode, (waysIn h k 0).head? with
      | 2, some n => (emptyWay h m k n).map fun h => setWayMode h k n 2
      | _, _ => { hw := h }
    let e := e.map fun h =>
      let h := countWays (setWayMode h k w 3) k
      logReg (lifeRetire h 3 (16 * k + w) cause false) 0 blkLlc k R_LLC_CFG k
    (e, true)

/-- WAY_WINDOW of a slice in 1/64 gate cycle (R405, R423). -/
def wayWindow (h : Hw) (k : Nat) : Nat := 64 * second * max 1 (fget h F_LLC_CFG_WAY_WINDOW k)

/-- The counts of a slice's ways restart with the window that module time is in; a window starts whenever module time is a whole multiple
of WAY_WINDOW seconds (R269, R405). -/
def restartWays (h : Hw) (k : Nat) : Hw :=
  { h with hom := { h.hom with
    wayCe := h.hom.wayCe.filter fun e => e.1 / 16 != k,
    wayWin := tset 0 h.hom.wayWin k (h.now / wayWindow h k) } }

/-- A corrected error of a way: counted, and recorded; at WAY_THRESH within the window the way is disabled, and the record is that of the
disable (R12, R395, R405). -/
def wayError (h : Hw) (m : Mem) (k w : Nat) : Eff :=
  let h := if tget 0 h.hom.wayWin k == h.now / wayWindow h k then h else restartWays h k
  let h := fadd h F_LLC_STATUS_CE 1 k
  let n := tget 0 h.hom.wayCe (16 * k + w) + 1
  let h := { h with hom := { h.hom with wayCe := tset 0 h.hom.wayCe (16 * k + w) n } }
  let t := fget h F_LLC_CFG_WAY_THRESH k
  let (e, off) := if t != 0 && decide (t ≤ n) then disableWay h m k w 1 else ({ hw := h }, false)
  if off then e else e.map fun h => logReg h 0 blkLlc k R_LLC_STATUS k

/-! ### The reset of a square (R84, R249, R529) -/

/-- Dirty lines of a core go to their homes, and its caches are empty (R84, R406). -/
def flushCore (h : Hw) (m : Mem) (c : Nat) : Eff :=
  effFold h m (fun h m line =>
    match coreLine h c line with
    | some l =>
      let h := filterDel (delL1 h c line) line c
      if l.st == .m then homeTake h m line l.data l.poison true else { hw := h }
    | none => { hw := h })
    ((h.hom.l1.filter fun e => e.1 / 2 ^ 46 == c).map fun e => e.1 % 2 ^ 46)

/-- The core leaves every transaction: its own end, and homes that wait for its answer take MISS (R414). -/
def dropTrans (h : Hw) (m : Mem) (c : Nat) : Eff :=
  let h := { h with hom := { h.hom with
                               waiting := h.hom.waiting.filter fun w => w.core != c || (w.req == .wbDirty || w.req == .wbClean),
                               maint := tdel h.hom.maint c } }
  effFold h m (fun h m line =>
    match transOf h line with
    | some t =>
      if t.core == c then (if t.done then closeTrans h m line else { hw := setTrans h line (some { t with gone := true }) })
      else if t.waiting.contains c then answered h m c line t
      else { hw := h }
    | none => { hw := h })
    (h.hom.trans.map (·.1))

/-- One big core returns to reset; a core the records list out of service reads RETIRED (R84, R385, R555). -/
def resetCore (h : Hw) (c : Nat) : Hw :=
  let h := emptyQueues h c
  let h := clearRegs h fun r i j => r.dom == .sq && (if r.n0 == 0x5 then j == c else i == c)
  let h := redeliver (setCore h c {}) c
  if h.kyd.retired.contains (1, c / 2) then fset h F_CORE_STATUS_STATE 3 c else h

/-- A square reset: dirty L1 and L2 lines are written back, then the square's domain clears (R84). -/
def resetSquare (h : Hw) (m : Mem) (sq : Nat) : Eff :=
  let cs := [2 * sq, 2 * sq + 1]
  let e := effFold h m flushCore cs
  let e2 := effFold e.hw (m.applyAll e.ops) dropTrans cs
  { hw := cs.foldl resetCore e2.hw, ops := e.ops ++ e2.ops }

/-- SQUARE_RESET: Kydin or the owner's secure world resets a square (R84). -/
def execSquareReset (who : Requester) (sq : Fin 80) (s : State) : Host.Outcome State Fault Refusal :=
  .next (s.act fun h m =>
    let ok := who == .kydin || (match ownerSquare h sq.val with | some p => isSecureOf h who p | none => false)
    if !served h who R_CORE_STATUS then { hw := setBusErr h true }
    else if ok then resetSquare (setBusErr h false) m sq.val
    else { hw := logRefusedWrite (setBusErr h false) who R_CORE_STATUS (2 * sq.val) 0 })

/-- Kydin takes the cores of a square out of service by itself: entry, square reset, then a fence that detaches them (R555). -/
def retireCores (h : Hw) (m : Mem) (sq cause : Nat) : Eff :=
  let e := resetSquare (lifeRetire h 1 sq cause false) m sq
  e.map fun h =>
    let (h, code) := startFence h (routerOf sq) 4
    if code == rcRunning then { h with kyd := { h.kyd with retireRun := some (1, sq, false) } } else h

/-! ### READ_SHARED with the errors it can meet (R395, R405, R411, R555) -/

/-- A request of a core from its start to its end. DESIGN CHOICE: safe (log 23): an instruction's own transactions run within its
step. -/
def fillLine (h : Hw) (m : Mem) (req : CReq) (c line : Nat) : Eff :=
  ({ hw := arrive h m req c line } : Eff).next m fun h m => settleLine h m line

/-- An uncorrectable data error in the private caches of a core hits a line it holds, which no command names. DESIGN CHOICE: a free one
(log 70). A dirty line is poisoned, deferred class; another is dropped and refetched, corrected class (R395). The class of the record
comes with the effect. -/
def privateLine (h : Hw) (m : Mem) (c : Nat) : Eff × Nat :=
  let mine := h.hom.l1.filter fun e => e.1 / 2 ^ 46 == c
  let (n, h) := takeFree h
  match mine[Config.freeNat n % mine.length]? with
  | some (k, l) =>
    let line := k % 2 ^ 46
    if l.st == .m then ({ hw := setL1 h c line { l with poison := true } }, 1)
    else ((settleLine h m line).next m fun h m => fillLine (filterDel (delL1 h c line) line c) m .readShared c line, 0)
  | none => ({ hw := h }, 0)

/-- An uncorrectable error in the private caches of a square counts; the third within 24 h retires its cores (R555). -/
def countPrivate (h : Hw) (sq : Nat) : Hw × Bool :=
  let t := gateTime h
  let l := ((tget [] h.kyd.cacheErrs sq).filter fun x => t ≤ x + 86400 * second) ++ [t]
  ({ h with kyd := { h.kyd with cacheErrs := tset [] h.kyd.cacheErrs sq l } }, decide (3 ≤ l.length) && !h.kyd.retired.contains (1, sq))

/-- An uncorrectable data error in the private caches of core `c` (R395, R555). -/
def privateError (h : Hw) (m : Mem) (c : Nat) : Eff :=
  let (h, third) := countPrivate h (c / 2)
  let (e, cls) := privateLine h m c
  let e := e.map fun h => logReg h cls blkCore c R_CACHE_EN c
  if third then e.next m fun h m => retireCores h m (c / 2) 1 else e

/-- An uncorrectable error in a tag of a private cache loses coherence state: the domain goes down (R395, R422, R555). -/
def privateTag (h : Hw) (m : Mem) (c line : Nat) : Eff :=
  let (h, third) := countPrivate h (c / 2)
  let e := domainFails h c line
  if third then e.next m fun h m => retireCores h m (c / 2) 1 else e

/-- What an array error does before the read is served (R395): a corrected one counts; an uncorrectable one drops a clean line and
poisons a dirty one, as every line of a SCRATCH way is; one in a tag or a filter entry takes the domain down and retires the slice.
A corrected one with no line in the LLC lay in the home's tags or filter and is of no way; one of a private cache is recorded. -/
def arrayError (h : Hw) (m : Mem) (c line : Nat) (err : ArrayErr) : Eff :=
  match err with
  | .corrected =>
    match placeOf h (64 * line), llcCopy h line with
    | .scratch o, _ =>
      let k := o / 786432
      (match (waysIn h k 2)[o % 786432 / 131072]? with
        | some w => wayError h m k w
        | none => { hw := h })
    | _, some (k, l) => wayError h m k l.way
    | _, none =>
      match homeLine h line with
      | some k => { hw := logReg (fadd h F_LLC_STATUS_CE 1 k) 0 blkLlc k R_LLC_STATUS k }
      | none => { hw := h }
  | .data =>
    match placeOf h (64 * line), llcCopy h line with
    | .scratch o, _ => { hw := logReg h 1 blkLlc (o / 786432) R_LLC_STATUS (o / 786432), ops := [.scrMark o] }
    | _, some (k, l) =>
      if l.dirty then { hw := logReg (setLlc h k line { l with poison := true }) 1 blkLlc k R_LLC_STATUS k }
      else { hw := logReg (delLlc h k line) 0 blkLlc k R_LLC_STATUS k }
    | _, none => { hw := h }
  | .privFixed => { hw := logReg h 0 blkCore c R_CACHE_EN c }
  | .tag => domainFails (lifeRetire h 2 (homeIdx h line) 1 false) c line
  | .priv => privateError h m c
  | .privTag => privateTag h m c line
  | .clean => { hw := h }

/-- READ_SHARED: a load miss of a core that holds nothing (R411, R414). -/
def execReadShared (c : Fin 160) (line : BitVec 46) (err : ArrayErr) (s : State) : Host.Outcome State Fault Refusal :=
  .next (s.act fun h m =>
    let c := c.val
    let line := line.toNat
    if (coreLine h c line).isSome then { hw := h }
    else
      match coherent h c line false with
      | (false, h) => { hw := setBusErr h true }
      | (true, h) =>
        let e := arrayError (setBusErr h false) m c line err
        if err == .tag || err == .privTag || (err == .priv && fget e.hw F_CORE_STATUS_STATE c != fget h F_CORE_STATUS_STATE c) then e
        else { hw := arrive e.hw (m.applyAll e.ops) .readShared c line, ops := e.ops })

/-- SNOOP_TIMEOUT: an agent that a home waits for is dead, and its domain goes down (R422). -/
def execSnoopTimeout (c : Fin 160) (line : BitVec 46) (s : State) : Host.Outcome State Fault Refusal :=
  .next (s.act fun h _ =>
    match transOf h line.toNat with
    | some t => if t.waiting.contains c.val then domainFails h c.val line.toNat else { hw := h }
    | none => { hw := h })

/-- FILL_TIMEOUT: the core returns poisoned data for the access, deferred class, and discards any later response; a retry credit of the
request is given back (R12, R422, R423). -/
def execFillTimeout (c : Fin 160) (line : BitVec 46) (s : State) : Host.Outcome State Fault Refusal :=
  .next (s.upd fun h =>
    let line := line.toNat
    let mine := fun (w : Waiter) => w.line == line && w.core == c.val && !w.req.atOnce
    let credit := fun (w : Nat × Nat × CReq × Nat) => w.2.1 == line && w.2.2.2 == c.val
    let running := match transOf h line with | some t => if t.core == c.val && !t.done then some t else none | none => none
    if !(h.hom.waiting.any mine || h.hom.credits.any credit || running.isSome) then h
    else
      let h := { h with hom := { h.hom with waiting := h.hom.waiting.filter (!mine ·), credits := h.hom.credits.filter (!credit ·) } }
      let h := noteCredits h (homeIdx h line)
      let h := match running with | some t => setTrans h line (some { t with gone := true }) | none => h
      logReg { h with lastResult := [1] } 1 blkCore c.val R_CACHE_EN c.val)

/-! ### Maintenance by address (R403, R407, R408) -/

/-- A maintenance command starts: BUSY while another runs on the core; it runs until it ends or a line's open transaction holds it (R407,
R409). -/
def maintStart (who : Requester) (c cmd line left : Nat) (h : Hw) (m : Mem) : Eff :=
  if (maintOf h c).isSome then { hw := answer h F_CM_CMD_RESULT F_CM_CMD_SEQ rcBusy c }
  else
    let h := answer h F_CM_CMD_RESULT F_CM_CMD_SEQ rcRunning c
    let w : Asker := match who with | .kydin => .kydin | _ => { part := ownerCore h c, secure := (askerOf h who).secure }
    (runMaint h m c { part := w.part, secure := w.secure, cmd := cmd, line := line, left := left, seq := fget h F_CM_CMD_SEQ c } left).next m
      fun h m => { hw := wakeWaiting h m }

/-- An address command over CM_ADDR and CM_LEN (R407). -/
def maintRange (who : Requester) (c cmd : Nat) (h : Hw) (m : Mem) : Eff :=
  ifMayE (wakeFor h R_CM_CMD c) who R_CM_CMD c 0 fun h =>
    maintStart who c cmd (fget h F_CM_ADDR_ADDR c) (max 1 (fget h F_CM_LEN_LINES c)) h m

/-- CLEAN (R407). -/
def execClean (who : Requester) (c : Fin 160) (s : State) : Host.Outcome State Fault Refusal :=
  .next (s.act (maintRange who c.val 1))
/-- INVAL (R407, R408). -/
def execInval (who : Requester) (c : Fin 160) (s : State) : Host.Outcome State Fault Refusal :=
  .next (s.act (maintRange who c.val 2))
/-- CLEAN_INVAL (R407, R408). -/
def execCleanInval (who : Requester) (c : Fin 160) (s : State) : Host.Outcome State Fault Refusal :=
  .next (s.act (maintRange who c.val 3))
/-- LOCK (R403, R407). -/
def execLockLines (who : Requester) (c : Fin 160) (s : State) : Host.Outcome State Fault Refusal :=
  .next (s.act (maintRange who c.val 7))
/-- UNLOCK (R403, R407). -/
def execUnlockLines (who : Requester) (c : Fin 160) (s : State) : Host.Outcome State Fault Refusal :=
  .next (s.act (maintRange who c.val 8))

/-! ### Maintenance by set and way (R409) -/

/-- The line at an entry of a private cache. Which line of a set stands in which way the spec does not say: a free choice among the
lines of that set that the cache holds, or none (log 7). -/
def privateEntry (h : Hw) (c sets set : Nat) (l1d : Bool) : Option Nat × Hw :=
  let ls := (h.hom.l1.filter fun e => e.1 / 2 ^ 46 == c && e.1 % 2 ^ 46 % sets == set && (!l1d || e.2.l1d)).map fun e => e.1 % 2 ^ 46
  if ls.isEmpty then (none, h)
  else
    let (n, h) := takeFree h
    (ls[Config.freeNat n % (ls.length + 1)]?, h)

/-- The end of a set and way command that acts on no line. -/
def maintResult (h : Hw) (c skipped done code : Nat) : Hw :=
  let h := fset h F_CM_STATUS_SKIPPED skipped c
  answer (fset h F_CM_STATUS_DONE done c) F_CM_CMD_RESULT F_CM_CMD_SEQ code c

/-- A set and way command on one entry of L1D, L2 or LLC slice: on the entry's line it acts as the address command, through its home
(R409). -/
def maintEntry (who : Requester) (c cmd target : Nat) (h : Hw) (m : Mem) : Eff :=
  ifMayE (wakeFor h R_CM_CMD c) who R_CM_CMD c 0 fun h =>
    let a := fget h F_CM_ADDR_ADDR c
    let set := a % 2048
    let way := a / 2048 % 16
    let (sets, ways) := if target == 1 then (2048, 16) else if target == 2 then (2048, 12) else (128, 8)
    if (maintOf h c).isSome then { hw := answer h F_CM_CMD_RESULT F_CM_CMD_SEQ rcBusy c }
    else if sets ≤ set || ways ≤ way then { hw := maintResult h c 0 0 rcRefused }
    else
      let (entry, h) := if target == 2 then
          (((sliceLines h c).find? fun e => llcSet e.1 == set && e.2.way == way && !e.2.locked).map (·.1), h)
        else privateEntry h c sets set (target != 1)
      match entry with
      | none => { hw := maintResult h c 1 1 rcDone }
      | some line => maintStart who c cmd line 1 h m

/-- SW_CLEAN (R409). -/
def execSwClean (who : Requester) (c : Fin 160) (target : BitVec 2) (s : State) : Host.Outcome State Fault Refusal :=
  .next (s.act (maintEntry who c.val 1 target.toNat))
/-- SW_INVAL (R409). -/
def execSwInval (who : Requester) (c : Fin 160) (target : BitVec 2) (s : State) : Host.Outcome State Fault Refusal :=
  .next (s.act (maintEntry who c.val 2 target.toNat))
/-- SW_CLEAN_INVAL (R409). -/
def execSwCleanInval (who : Requester) (c : Fin 160) (target : BitVec 2) (s : State) : Host.Outcome State Fault Refusal :=
  .next (s.act (maintEntry who c.val 3 target.toNat))

/-! ### Disabling a cache (R406) -/

/-- Register and field of a cache enable. -/
def enableReg : CacheSel → Reg
  | .llc => R_LLC_CFG
  | _ => R_CACHE_EN
def enableField : CacheSel → Field
  | .l1d => F_CACHE_EN_L1D_EN
  | .l2 => F_CACHE_EN_L2_EN
  | .llc => F_LLC_CFG_EN

/-- A slice that may not be disabled: it has SCRATCH ways or locked lines (R406). -/
def sliceBound (h : Hw) (k : Nat) : Bool :=
  fget h F_LLC_CFG_SP_WAYS k != 0 || (sliceLines h k).any fun e => e.2.locked

/-- A write of 0 to a cache enable: PENDING while the cache cleans itself (R406). -/
def disableCache (h : Hw) (who : Requester) (which : CacheSel) (k : Nat) : Hw :=
  if which == .llc && sliceBound h k then logRefusedWrite h who R_LLC_CFG k 0
  else if fget h (enableField which) k == 1 then fset h (enableField which) 2 k
  else h

/-- CACHE_DISABLE (R406). -/
def execCacheDisable (who : Requester) (which : CacheSel) (k : Fin 160) (s : State) : Host.Outcome State Fault Refusal :=
  .next (s.upd fun h => ifMay (wakeFor h (enableReg which) k.val) who (enableReg which) k.val 0 fun h => disableCache h who which k.val)

/-- The L1D of a core is empty: its lines, with their data, stay in the L2 (R393, R406). -/
def emptyL1d (h : Hw) (c : Nat) : Hw :=
  { h with hom := { h.hom with l1 := h.hom.l1.map fun e => if e.1 / 2 ^ 46 == c && e.2.l1d then (e.1, { e.2 with l1d := false }) else e } }

/-- CACHE_CLEAN_DONE: the cache has cleaned itself and reads DISABLED (R393, R406). -/
def execCacheCleanDone (which : CacheSel) (k : Fin 160) (s : State) : Host.Outcome State Fault Refusal :=
  .next (s.act fun h m =>
    if fget h (enableField which) k.val != 2 then { hw := h }
    else
      let e : Eff := match which with
        | .l1d => { hw := emptyL1d h k.val }
        | .l2 => flushCore h m k.val
        | .llc => effFold h m (fun h m l => evictLlc h m k.val l.1 l.2) (sliceLines h k.val)
      e.next m fun h m => { hw := wakeWaiting (fset h (enableField which) 0 k.val) m })

/-! ### Ways of a slice (R400, R401, R405, R423) -/

/-- The OVER bit of the scratchpad quota: some slice of the partition has more SCRATCH ways than its LIMIT (R454). -/
def refreshSpOver (h : Hw) (p : Nat) : Hw :=
  setOver h p 4 ((coresOf h p).any fun k => quotaOf h p 4 < fget h F_LLC_CFG_SP_WAYS k)

/-- Bytes of one scratchpad range of a slice, cleared. -/
def clearRange (k r : Nat) : MemOp := .scrClear (k * 786432 + r * 131072) 131072

/-- SCRATCH ways set to `n`: new ones are the lowest NORMAL ways, emptied and zeroed; ranges close from the highest, once the accesses that
arrived before are performed, with the private copies of their lines, and the highest SCRATCH ways return (R401; log 21). -/
def setScratch (h : Hw) (m : Mem) (k n : Nat) : Eff × Nat :=
  let sp := waysIn h k 2
  let lock := (waysIn h k 1).length
  let quota := match ownerSquare h (k / 2) with | some p => quotaOf h p 4 | none => 6
  if 6 < n || 8 < n + lock || quota < n || (sp.length < n && (waysIn h k 0).length < n - sp.length) then ({ hw := h }, rcRefused)
  else
    let e : Eff := if sp.length < n then
        let ws := (waysIn h k 0).take (n - sp.length)
        let e := effFold h m (fun h m w => (emptyWay h m k w).map fun h => setWayMode h k w 2) ws
        { e with ops := e.ops ++ (List.range (n - sp.length)).map fun i => clearRange k (sp.length + i) }
      else
        let gone := fun (line : Nat) => match placeOf h (64 * line) with
          | .scratch o => o / 786432 == k && n ≤ o % 786432 / 131072 && o % 786432 / 131072 < sp.length
          | _ => false
        let e := effFold h m (fun h m l => settleLine h m l) ((h.hom.trans.map (·.1)).filter gone)
        let h := (sp.drop n).foldl (fun h w => setWayMode h k w 0) e.hw
        let h := { h with hom := { h.hom with l1 := h.hom.l1.filter fun e => !gone (e.1 % 2 ^ 46) } }
        { hw := { h with hom := { h.hom with filter := h.hom.filter.filter fun e => !gone e.1 } },
          ops := e.ops ++ (List.range (sp.length - n)).map fun i => clearRange k (n + i) }
    (e.map fun h => (match ownerSquare h (k / 2) with | some p => refreshSpOver (countWays h k) p | none => countWays h k), rcDone)

/-- LOCKABLE ways set to `n`: new ones are the lowest NORMAL ways, emptied; those that leave are the highest, their lines
unlocked (R401). -/
def setLockable (h : Hw) (m : Mem) (k n : Nat) : Eff × Nat :=
  let lk := waysIn h k 1
  let sp := (waysIn h k 2).length
  if 4 < n || 8 < n + sp || (lk.length < n && (waysIn h k 0).length < n - lk.length) then ({ hw := h }, rcRefused)
  else
    let e : Eff := if lk.length < n then
        effFold h m (fun h m w => (emptyWay h m k w).map fun h => setWayMode h k w 1) ((waysIn h k 0).take (n - lk.length))
      else
        { hw := (lk.drop n).foldl (fun h w =>
            let h := ((sliceLines h k).filter fun e => e.2.way == w && e.2.locked).foldl
              (fun h e => setLlc h k e.1 { e.2 with locked := false }) h
            setWayMode h k w 0) h }
    (e.map fun h => countWays h k, rcDone)

/-- A command of LLC_CMD with its result (R423). -/
def llcCommand (who : Requester) (k : Nat) (run : Hw → Eff × Nat) (h : Hw) : Eff :=
  ifMayE (wakeFor h R_LLC_CMD k) who R_LLC_CMD k 0 fun h =>
    let (e, code) := run h
    e.map fun h => answer h F_LLC_CMD_RESULT F_LLC_CMD_SEQ code k

/-- SET_SP (R400, R401). -/
def execSetSp (who : Requester) (k : Fin 160) (n : BitVec 4) (s : State) : Host.Outcome State Fault Refusal :=
  .next (s.act fun h m => llcCommand who k.val (fun h => setScratch h m k.val n.toNat) h)

/-- SET_LOCK (R400, R401). -/
def execSetLock (who : Requester) (k : Fin 160) (n : BitVec 4) (s : State) : Host.Outcome State Fault Refusal :=
  .next (s.act fun h m => llcCommand who k.val (fun h => setLockable h m k.val n.toNat) h)

/-- RETIRE_WAY: a way that exists and is in service leaves it, or REFUSED (R405). -/
def execRetireWay (who : Requester) (k : Fin 160) (n : BitVec 4) (s : State) : Host.Outcome State Fault Refusal :=
  .next (s.act fun h m => llcCommand who k.val (fun h =>
    if 12 ≤ n.toNat then ({ hw := h }, rcRefused)
    else
      let (e, ok) := disableWay h m k.val n.toNat 2
      (e, if ok then rcDone else rcRefused)) h)

end Sys2Proof.Machine
end

