-- ==== Sys2Proof/Machine/Avenue.lean ====
section
/-!
DEFINITION. Avenue: match tables, the decision matrix in three copies, acceptance, the vote and the output pins.
-/

namespace Sys2Proof.Machine

/-! ### Crossing stamps (R151, R197) -/

/-- CROSSINGS_PER_TURN. -/
def perTurn (h : Hw) : Nat := fget h F_TIMING_CONFIG_CPT_M1 + 1

/-- The gate cycle that module time is in. -/
def gateCycle (h : Hw) : Nat := h.now / 64

/-- The module's crossing stamp. -/
def stampNow (h : Hw) : Stamp := { turn := fget h F_TIMING_TURN_TURN, crossing := fget h F_TIMING_STATUS_CROSSING }

/-- Crossings from stamp `s` to stamp `t`, counted across turns and the wrap of the turn count. -/
def crossingsFrom (h : Hw) (s t : Stamp) : Nat :=
  let m := 2 ^ 32 * perTurn h
  (t.turn * perTurn h + t.crossing + m - (s.turn * perTurn h + s.crossing) % m) % m

/-- The stamp `n` crossings before stamp `s`, counted across turns. -/
def stampBack (h : Hw) (s : Stamp) (n : Nat) : Stamp :=
  let m := 2 ^ 32 * perTurn h
  let k := (s.turn * perTurn h + s.crossing + m - n % m) % m
  { turn := k / perTurn h, crossing := k % perTurn h }

/-- `s` comes before `t` in (turn, crossing) order, across the wrap of the turn count. -/
def earlier (h : Hw) (s t : Stamp) : Bool := s != t && decide (crossingsFrom h s t < 2 ^ 31 * perTurn h)

/-! ### The three copies (R191, R203) -/

def copies : List Nat := [0, 1, 2]

/-- The active set of a copy. -/
def actOf (h : Hw) (c : Nat) : Tab Nat := if c == 0 then h.ave.act0 else if c == 1 then h.ave.act1 else h.ave.act2
def setAct (h : Hw) (c : Nat) (t : Tab Nat) : Hw :=
  if c == 0 then { h with ave := { h.ave with act0 := t } }
  else if c == 1 then { h with ave := { h.ave with act1 := t } }
  else { h with ave := { h.ave with act2 := t } }
/-- A configuration field as copy `c` applies it. -/
def aget (h : Hw) (c : Nat) (f : Field) (j : Nat := 0) : Nat := tget f.reset (actOf h c) (f.key 0 j)

def copyOf (h : Hw) (c : Nat) : AveCopy := if c == 0 then h.ave.cp0 else if c == 1 then h.ave.cp1 else h.ave.cp2
def setCopy (h : Hw) (c : Nat) (v : AveCopy) : Hw :=
  if c == 0 then { h with ave := { h.ave with cp0 := v } }
  else if c == 1 then { h with ave := { h.ave with cp1 := v } }
  else { h with ave := { h.ave with cp2 := v } }

def mtOf (h : Hw) (c : Nat) : Tab MtEntry := if c == 0 then h.ave.mt0 else if c == 1 then h.ave.mt1 else h.ave.mt2
def setMt (h : Hw) (c : Nat) (t : Tab MtEntry) : Hw :=
  if c == 0 then { h with ave := { h.ave with mt0 := t } }
  else if c == 1 then { h with ave := { h.ave with mt1 := t } }
  else { h with ave := { h.ave with mt2 := t } }

/-- Bitwise majority of three numbers (R203). -/
def maj (a b c : Nat) : Nat := (a.land b).lor ((a.land c).lor (b.land c))
/-- Majority of three copies of anything, the first where all differ. -/
def majOf {α : Type} [DecidableEq α] (a b c : α) : α := if a = b ∨ a = c then a else if b = c then b else a
/-- A configuration field as two copies at least apply it. -/
def agetMaj (h : Hw) (f : Field) (j : Nat := 0) : Nat := maj (aget h 0 f j) (aget h 1 f j) (aget h 2 f j)

/-- The shadowed fields (R191, R214). -/
def shadowFields : List Field :=
  [F_AVE_CONFIG_ACCEPT_DELAY, F_AVE_CONFIG_EXT_ACCEPT, F_AVE_CONFIG_ACC_WINDOW, F_AVE_CONFIG_OUT_WIDTH, F_AVE_CONFIG_QUAL_VETO,
   F_AVE_CONFIG_DISAGREE_ONE, F_AVE_GATE_EN_GATES, F_AVE_CASCADE_TB, F_AVE_CASCADE_MODE, F_AVE_CASCADE_POS, F_AVE_TB_TERMS_TERMS,
   F_AVE_TB_CTRL_PRESCALE, F_AVE_TB_CTRL_ACCEPT_EN, F_AVE_INPUT_STRETCH, F_AVE_TERM_CTRL_ANCHOR, F_AVE_TERM_CTRL_THRESH,
   F_AVE_TERM_CTRL_EN, F_AVE_TERM_TRUE_INPUTS, F_AVE_TERM_NEG_INPUTS]

/-- A key of the register table that belongs to a shadowed field. -/
def isShadow (k : Nat) : Bool := shadowFields.any fun f => f.id == k / 2 ^ 32

/-- The copies that take part in the vote of the present gate cycle (R206). -/
def votes (h : Hw) (c : Nat) : Bool := !bit h.ave.off c

/-! ### Match tables (R175 to R183) -/

/-- Entry of gate `g` at an address in copy `c`. -/
def mtGet (h : Hw) (c g a : Nat) : MtEntry := tget {} (mtOf h c) (1024 * g + a)
def mtPut (h : Hw) (c g a : Nat) (e : MtEntry) : Hw := setMt h c (tset {} (mtOf h c) (1024 * g + a) e)

/-- Whether a word matches an entry (R175). -/
def mtMatch (w : Nat) (e : MtEntry) : Bool := e.valid && (w.xor e.key.toNat).land e.mask.toNat == 0

/-- The entries that changed in the present gate cycle, which searches of this cycle see as they were (R178). -/
def mtFresh (h : Hw) (g : Nat) : List (Nat × MtEntry × MtEntry × MtEntry) :=
  let v := gateOf h g
  if v.mtOld.1 == gateCycle h then v.mtOld.2 else []

/-- Copy `c` of an old entry. -/
def oldCopy (e : MtEntry × MtEntry × MtEntry) (c : Nat) : MtEntry := if c == 0 then e.1 else if c == 1 then e.2.1 else e.2.2

/-- Copy `c` of the tables as gate `g` searches it in the present gate cycle (R178). -/
def mtView (h : Hw) (c g : Nat) : Tab MtEntry :=
  (mtFresh h g).foldl (fun t o => tset {} t (1024 * g + o.1) (oldCopy o.2 c)) (mtOf h c)

/-- The result of a search: address and primitive of the match with the highest PRIORITY, then the lowest address (R176). -/
def mtHit (h : Hw) (c g w : Nat) : Option (Nat × Nat) :=
  let hits := (mtView h c g).filter fun e => e.1 / 1024 == g && mtMatch w e.2
  (hits.foldl (fun (o : Option (Nat × MtEntry)) e =>
    match o with
    | some b => if b.2.prio < e.2.prio then some e else o
    | none => some e) none).map fun e => (e.1 % 1024, e.2.prim)

/-- The primitive of a search (R176). -/
def mtSearch (h : Hw) (c g w : Nat) : Option Nat := (mtHit h c g w).map (·.2)

/-- Whether at least two copies hold the entry valid (R179, R214). -/
def mtValid (h : Hw) (g a : Nat) : Bool :=
  2 ≤ (copies.filter fun c => (mtGet h c g a).valid).length

/-- VALID_COUNT of a gate (R214). -/
def countValid (h : Hw) (g : Nat) : Hw :=
  fset h F_AVE_MT_STATUS_VALID_COUNT ((List.range 1024).filter fun a => mtValid h g a).length g

/-- The staging registers as an entry (R178). -/
def staged (h : Hw) (g : Nat) : MtEntry :=
  { key := BitVec.ofNat 36 (fget h F_AVE_MT_KEY_VALUE g), mask := BitVec.ofNat 36 (fget h F_AVE_MT_MASK_VALUE g),
    prio := fget h F_AVE_MT_ENTRY_PRIORITY g, prim := fget h F_AVE_MT_ENTRY_PRIMITIVE g, valid := fon h F_AVE_MT_ENTRY_VALID g }

/-- The gate's owner is in reset: commands are REFUSED (R214). -/
def ownerInReset (h : Hw) (g : Nat) : Bool :=
  match ownerGate h g with
  | some p => bit (fget h F_PART_RESET_BUSY) p
  | none => false

/-- Result codes of AVE_MT_CMD (R214). -/
def mtNoSpace : Nat := 6

/-- An address that a running INSERT moves (R181). -/
def inShift (h : Hw) (g a : Nat) : Bool :=
  match (gateOf h g).insert with
  | some i => decide (i.at_ ≤ a) && decide (a ≤ i.empty + 1)
  | none => false

/-- An entry changes in all three copies in the present gate cycle; searches of this cycle see it as it was (R178). -/
def mtChange (h : Hw) (g a : Nat) (e : Nat → MtEntry) : Hw :=
  let v := gateOf h g
  let old := mtFresh h g
  let old := if old.any (·.1 == a) then old else old ++ [(a, mtGet h 0 g a, mtGet h 1 g a, mtGet h 2 g a)]
  let h := setGate h g { v with mtOld := (gateCycle h, old) }
  countValid (copies.foldl (fun h c => mtPut h c g a (e c)) h) g

/-- A copy's entry goes into the staging registers (R178). -/
def stage (h : Hw) (g : Nat) (e : MtEntry) : Hw :=
  let h := fset (fset h F_AVE_MT_KEY_VALUE e.key.toNat g) F_AVE_MT_MASK_VALUE e.mask.toNat g
  let h := fset (fset h F_AVE_MT_ENTRY_VALID (b2n e.valid) g) F_AVE_MT_ENTRY_PRIMITIVE e.prim g
  fset h F_AVE_MT_ENTRY_PRIORITY e.prio g

/-- The first address at or above A that two copies hold invalid (R179). -/
def firstInvalid (h : Hw) (g a : Nat) : Option Nat := ((List.range (1024 - a)).find? fun i => !mtValid h g (a + i)).map (a + ·)

/-- A match-table command takes effect in the present gate cycle, with its result (R178, R179, R181). -/
def mtDo (h : Hw) (g : Nat) (op : MtOp) (a seq : Nat) : Hw × Nat :=
  match op with
  | .write => if inShift h g a then (h, rcBusy) else (mtChange h g a fun _ => staged h g, rcDone)
  | .put e => (mtChange h g a fun _ => e, rcDone)
  | .invalidate => if inShift h g a then (h, rcBusy) else (mtChange h g a fun c => { mtGet h c g a with valid := false }, rcDone)
  | .read copy => (stage h g (tget {} (mtView h copy g) (1024 * g + a)), rcDone)
  | .insert =>
    if (gateOf h g).insert.isSome then (h, rcBusy)
    else
      match firstInvalid h g a with
      | none => (h, mtNoSpace)
      | some n =>
        let e := staged h g
        let h := setGate h g { gateOf h g with
          insert := some { at_ := a, empty := n, key := e.key, mask := e.mask, prio := e.prio, prim := e.prim, valid := e.valid, seq := seq } }
        (fset (fset h F_AVE_MT_STATUS_SHIFTING 1 g) F_AVE_MT_STATUS_SHIFT_AT n g, rcRunning)

/-- An entry of a package. -/
def isPut (w : MtWait) : Bool := match w.op with | .put _ => true | _ => false

/-- The oldest waiting command that may take effect. The entries of a package go in their order, and one that a running INSERT is moving
keeps them back but no command behind them (R134, R178, R181, R182; DESIGN CHOICE, log 57). -/
def mtPick (h : Hw) (g : Nat) : Option MtWait :=
  let l := (gateOf h g).mtWait
  let held := match l.find? isPut with | some w => inShift h g w.addr | none => false
  l.find? fun w => !(isPut w && held)

/-- A command may take effect in the present gate cycle: the cycle begins now, and no earlier command of the gate may yet take effect in
it (R178). -/
def mtReady (h : Hw) (g : Nat) : Bool :=
  h.now % 64 == 0 && (mtPick h g).isNone && decide ((gateOf h g).mtFree ≤ gateCycle h)

/-- A command of AVE_MT_CMD: it takes effect in this gate cycle, or waits for the first one it may take (R178, R214). -/
def mtCommand (who : Requester) (g : Nat) (op : MtOp) (a : Nat) (h : Hw) : Hw :=
  ifMay h who R_AVE_MT_CMD g 0 fun h =>
    let seq := (fget h F_AVE_MT_CMD_SEQ g + 1) % 256
    let (h, code) :=
      if ownerInReset h g then (h, rcRefused)
      else if mtReady h g then
        let (h, code) := mtDo h g op a seq
        (setGate h g { gateOf h g with mtFree := gateCycle h + 1 }, code)
      else (setGate h g { gateOf h g with mtWait := (gateOf h g).mtWait ++ [{ op := op, addr := a, seq := some seq }] }, rcRunning)
    answer h F_AVE_MT_CMD_RESULT F_AVE_MT_CMD_SEQ code g

/-- A command that waited, or an INSERT, ends: RESULT belongs to the latest SEQ (R214). -/
def mtEnd (h : Hw) (g seq code : Nat) : Hw :=
  if fget h F_AVE_MT_CMD_SEQ g == seq then fset h F_AVE_MT_CMD_RESULT code g else h

/-- One gate cycle of a running INSERT: each copy moves one of its own entries up by one, after the last of them the captured entry
goes to A, and in the cycle after that the command ends (R179 to R181). -/
def insertTick (h : Hw) (g : Nat) : Hw :=
  match (gateOf h g).insert with
  | none => h
  | some i =>
    let n := i.step + 1
    let next := fun (h : Hw) => setGate h g { gateOf h g with insert := some { i with step := n } }
    if n ≤ i.empty - i.at_ then
      let a := i.empty + 1 - n
      next (fset (mtChange h g a fun c => mtGet h c g (a - 1)) F_AVE_MT_STATUS_SHIFT_AT a g)
    else if n == i.empty - i.at_ + 1 then
      next (fset (mtChange h g i.at_ fun _ => { key := i.key, mask := i.mask, prio := i.prio, prim := i.prim, valid := i.valid })
        F_AVE_MT_STATUS_SHIFT_AT i.at_ g)
    else
      let h := setGate h g { gateOf h g with insert := none }
      mtEnd (fset (fset h F_AVE_MT_STATUS_SHIFTING 0 g) F_AVE_MT_STATUS_SHIFT_AT 0 g) g i.seq rcDone

/-- Gate cycles until a running INSERT has ended (R179). -/
def insertLeft (h : Hw) (g : Nat) : Nat :=
  match (gateOf h g).insert with
  | some i => i.empty - i.at_ + 2 - i.step
  | none => 0

/-- A running INSERT is completed at once (R88). -/
def finishInsert (h : Hw) (g : Nat) : Hw := (List.range (insertLeft h g)).foldl (fun h _ => insertTick h g) h

/-- The oldest waiting command that may takes effect (R178, R181). -/
def mtNext (h : Hw) (g : Nat) : Hw :=
  match mtPick h g with
  | none => h
  | some w =>
    let h := setGate h g { gateOf h g with mtWait := (gateOf h g).mtWait.erase w, mtFree := gateCycle h + 1 }
    let (h, code) := mtDo h g w.op w.addr (w.seq.getD 0)
    match w.seq with
    | some n => mtEnd h g n code
    | none => h

/-- What waits for a gate's table takes effect at once (R88; DESIGN CHOICE, log 57). -/
def drainMt (h : Hw) (g : Nat) : Hw :=
  finishInsert ((List.range (gateOf h g).mtWait.length).foldl (fun h _ => mtNext (finishInsert h g) g) h) g

/-- The match table of a gate in a gate cycle: the running INSERT, then the oldest waiting command (R178, R179). -/
def mtTick (h : Hw) (g : Nat) : Hw :=
  let h := insertTick h g
  if (gateOf h g).mtFree ≤ gateCycle h then mtNext h g else h

/-- Gates whose match table does something in every gate cycle. -/
def mtBusy (h : Hw) : List Nat :=
  (h.lan.gate.filter fun e => e.2.insert.isSome || !e.2.mtWait.isEmpty).map (·.1)

/-- MT_WRITE (R178, R181). -/
def execMtWrite (who : Requester) (g : Fin 64) (addr : BitVec 10) (s : State) : Host.Outcome State Fault Refusal :=
  .next (s.upd (mtCommand who g.val .write addr.toNat))

/-- MT_READ: entry ADDR of one copy into the staging registers (R178, R181, R214). -/
def execMtRead (who : Requester) (g : Fin 64) (addr : BitVec 10) (copy : BitVec 2) (s : State) : Host.Outcome State Fault Refusal :=
  .next (s.upd (mtCommand who g.val (.read (if copy.toNat == 3 then 0 else copy.toNat)) addr.toNat))

/-- MT_INSERT: the staging values are captured and the shift begins at the first invalid entry at or above A (R179, R181). -/
def execMtInsert (who : Requester) (g : Fin 64) (addr : BitVec 10) (s : State) : Host.Outcome State Fault Refusal :=
  .next (s.upd (mtCommand who g.val .insert addr.toNat))

/-- MT_INVALIDATE (R178, R181). -/
def execMtInvalidate (who : Requester) (g : Fin 64) (addr : BitVec 10) (s : State) : Host.Outcome State Fault Refusal :=
  .next (s.upd (mtCommand who g.val .invalidate addr.toNat))

/-- The entry each bit of which two copies hold (R183). -/
def majEntry (a b c : MtEntry) : MtEntry :=
  { key := BitVec.ofNat 36 (maj a.key.toNat b.key.toNat c.key.toNat), mask := BitVec.ofNat 36 (maj a.mask.toNat b.mask.toNat c.mask.toNat),
    prio := maj a.prio b.prio c.prio, prim := maj a.prim b.prim c.prim,
    valid := (a.valid && b.valid) || (a.valid && c.valid) || (b.valid && c.valid) }

/-- MT_SCRUB_STEP: the next entry of the gate is compared, and a copy that differs from the majority is repaired, counted,
recorded as corrected, with the vote source raised (R183). -/
def execMtScrubStep (g : Fin 64) (s : State) : Host.Outcome State Fault Refusal :=
  .next (s.upd fun h =>
    let g := g.val
    let a := tget 0 h.ave.mtScrub g
    let h := { h with ave := { h.ave with mtScrub := tset 0 h.ave.mtScrub g ((a + 1) % 1024) } }
    let e := majEntry (mtGet h 0 g a) (mtGet h 1 g a) (mtGet h 2 g a)
    if copies.all fun c => mtGet h c g a == e then h
    else
      let h := fadd (mtChange h g a fun _ => e) F_AVE_MT_STATUS_SCRUB_FIX 1 g
      raiseSource (logReg h 0 blkGate g R_AVE_MT_STATUS g) srcAveVote)

/-! ### Votes (R203, R204, R206, R207) -/

/-- The result of voting one value: what is driven, and the copy that differed (3: two copies of two). -/
structure Vote (α : Type) where
  value : α
  odd : Option Nat

/-- Vote of three bits; with one copy excluded, `tie` where the other two differ. -/
def voteBit (h : Hw) (tie : Bool) (v : Nat → Bool) : Vote Bool :=
  match copies.filter (votes h) with
  | [a, b] => if v a == v b then ⟨v a, none⟩ else ⟨tie, some 3⟩
  | _ =>
    let m := (v 0 && v 1) || (v 0 && v 2) || (v 1 && v 2)
    ⟨m, copies.find? fun c => v c != m⟩

/-- Vote of the low `n` bits of a number per copy. -/
def voteBits (h : Hw) (n : Nat) (tie : Bool) (v : Nat → Nat) : Vote Nat :=
  (List.range n).foldl (fun r i =>
    let b := voteBit h tie fun c => bit (v c) i
    ⟨setBit r.value i b.value, match r.odd with | some o => some o | none => b.odd⟩) ⟨0, none⟩

/-- Vote of the set of stamps each copy yields: each stamp taken, with whether two copies differ on it (R203, R207). -/
def voteStamps (h : Hw) (v : Nat → List Stamp) : Vote (List (Stamp × Bool)) :=
  (v 0 ++ v 1 ++ v 2).eraseDups.foldl (fun r a =>
    let b := voteBit h true fun c => (v c).contains a
    ⟨if b.value then r.value ++ [(a, b.odd == some 3)] else r.value, match r.odd with | some o => some o | none => b.odd⟩) ⟨[], none⟩

/-- The members of each copy's list that the vote takes, each once: what the shared counters count (DEDUCED, log 58). -/
def votedOf {α : Type} [DecidableEq α] (h : Hw) (v : Nat → List α) : List α :=
  (v 0 ++ v 1 ++ v 2).eraseDups.filter fun a => (voteBit h true fun c => (v c).contains a).value

/-- What the votes of the present gate cycle report: each kind counted once in a cycle, LAST_ODD, the time, and at the first cycle of
a disagreement a record and the vote source (R204, R207). -/
def noteVote (h : Hw) (pin acc : Option Nat) : Hw :=
  let c := gateCycle h
  match (match pin with | some o => some o | none => acc) with
  | none => h
  | some odd =>
    let h := if pin.isSome && h.ave.pinCycle != c + 1 then
        fadd { h with ave := { h.ave with pinCycle := c + 1 } } F_AVE_VOTE_PIN_DISAGREE 1 else h
    let h := if acc.isSome && h.ave.accCycle != c + 1 then
        fadd { h with ave := { h.ave with accCycle := c + 1 } } F_AVE_VOTE_ACC_DISAGREE 1 else h
    let h := fset (fset h F_AVE_VOTE_LAST_ODD odd) F_AVE_VOTE_TIME_TIME (gateTime h)
    let first := match h.ave.disagree with
      | some (o, t) => o != odd || decide (t + 1 < c)
      | none => true
    let h := { h with ave := { h.ave with disagree := some (odd, c) } }
    if first then raiseSource (logReg h (if odd == 3 then 1 else 0) blkAve 0 R_AVE_VOTE) srcAveVote else h

/-! ### Acceptance (R195 to R199, R203, R207) -/

/-- ACC_WINDOW as copy `c` acts on it: 0 acts as 1 (R193, R197). -/
def accWindow (h : Hw) (c : Nat) : Nat := max 1 (aget h c F_AVE_CONFIG_ACC_WINDOW)

/-- The acceptance of a crossing is final in the unit of copy `c` (R197). -/
def finalIn (h : Hw) (c : Nat) (s : Stamp) : Bool :=
  match (copyOf h c).final with
  | some f => s == f || earlier h s f
  | none => false

/-- The acceptance of a crossing is final in at least two copies (R197, R203). -/
def isFinal (h : Hw) (s : Stamp) : Bool :=
  (finalIn h 0 s && finalIn h 1 s) || (finalIn h 0 s && finalIn h 2 s) || (finalIn h 1 s && finalIn h 2 s)

/-- The module's stamp has moved on: in each copy every crossing it has passed by ACC_WINDOW is final, and stays so (R197). -/
def noteFinal (h : Hw) : Hw :=
  copies.foldl (fun h c =>
    let t := stampBack h (stampNow h) (accWindow h c)
    let cp := copyOf h c
    let f := match cp.final with
      | some f => if earlier h f t then t else f
      | none => t
    setCopy h c { cp with final := some f }) h

/-- Avenue's start is so long past that no stamp precedes it (R177). -/
def startPassed (h : Hw) (a : Stamp) : Bool := decide (2 ^ 16 * perTurn h ≤ crossingsFrom h a (stampNow h))

/-- Crossings are accepted: M4 or M6, no power-fail sequence, from the crossing at which Avenue started to the first one an ingest
stop leaves out (R60, R80, R81, R199). -/
def mayAccept (h : Hw) (s : Stamp) : Bool :=
  (modeNow h == 4 || modeNow h == 6) && !h.sup.powerFail &&
    (match h.tim.aveStart with | some a => !earlier h s a | none => true) &&
    (!h.mod.stopping || earlier h s { turn := fget h F_MODE_STOP_STAMP_TURN, crossing := fget h F_MODE_STOP_STAMP_CROSSING })

/-- Add an acceptance to the record of its crossing. `tb` none is the ACCEPT input. -/
def putAcc (l : List AccRec) (s : Stamp) (tb : Option Nat) : List AccRec :=
  let add := fun (r : AccRec) =>
    match tb with
    | some n => { r with tbs := r.tbs ++ [n] }
    | none => { r with ext := true }
  if l.any fun r => r.stamp == s then l.map fun r => if r.stamp == s then add r else r
  else l ++ [add { stamp := s, tbs := [], ext := false, marked := false }]

/-- What the unit of copy `c` does with acceptances (trigger bit, none for ACCEPT, and stamp): those it takes and those already final,
and its records (R195 to R197; a late one counts in LATE alone: DEDUCED, log 60). -/
def takeAccs (h : Hw) (c : Nat) (l : List (Option Nat × Stamp)) : List (Option Nat × Stamp) × List (Option Nat × Stamp) × List AccRec :=
  let l := l.filter fun a => mayAccept h a.2
  let ok := l.filter fun a => !finalIn h c a.2
  (ok, l.filter fun a => finalIn h c a.2, ok.foldl (fun r a => putAcc r a.2 a.1) (copyOf h c).acc)

/-- All three units take their acceptances of one gate cycle: counts by source, late ones, the vote on the set of stamps, and the
crossings on which two copies differ (R196, R197, R203, R207). -/
def acceptAll (h : Hw) (l : Nat → List (Option Nat × Stamp)) : Hw × Option Nat :=
  let r0 := takeAccs h 0 (l 0)
  let r1 := takeAccs h 1 (l 1)
  let r2 := takeAccs h 2 (l 2)
  let of := fun c => if c == 0 then r0 else if c == 1 then r1 else r2
  let v := voteStamps h fun c => (of c).1.map (·.2)
  let made := votedOf h fun c => (of c).1
  let late := votedOf h fun c => (of c).2.1
  let h := copies.foldl (fun h c => setCopy h c { copyOf h c with acc := (of c).2.2 }) h
  let h := made.foldl (fun h a => match a.1 with
    | some n => fadd h F_AVE_TB_STAT_ACCEPTS 1 0 n
    | none => fadd h F_AVE_ACC_COUNT_EXT 1) h
  let h := fadd h F_AVE_ACC_COUNT_LATE late.length
  let marks := (v.value.filter (·.2)).map (·.1)
  ({ h with ave := { h.ave with marks := (h.ave.marks ++ marks).eraseDups } }, v.odd)

/-- ACCEPT sampled high accepts the crossing ACCEPT_DELAY earlier, copy by copy, then by vote (R195, R203). -/
def acceptInput (h : Hw) : Hw :=
  if !fon h F_AVE_STATUS_RUNNING then h
  else
    let now := stampNow h
    let (h, odd) := acceptAll h fun c =>
      if aget h c F_AVE_CONFIG_EXT_ACCEPT == 1 then
        let d := aget h c F_AVE_CONFIG_ACCEPT_DELAY
        let n := perTurn h
        let x := (now.crossing + n - d % n) % n
        [(none, { turn := if now.crossing < d then (now.turn + 2 ^ 32 - 1) % 2 ^ 32 else now.turn, crossing := x })]
      else []
    noteVote h none odd

/-- The crossings accepted and final in the units, by vote: they leave the units, and each is marked where two copies differ on it or
differed on accepting it (R197, R203, R207; DEDUCED, log 58). -/
def finalSet (h : Hw) : Hw × List AccRec :=
  let out := fun c => (copyOf h c).acc.filter fun r => finalIn h c r.stamp
  let v := voteStamps h fun c => (out c).map (·.stamp)
  let recs := v.value.map fun s =>
    match (out 0 ++ out 1 ++ out 2).find? fun r => r.stamp == s.1 with
    | some r => { r with marked := s.2 || h.ave.marks.contains s.1 }
    | none => { stamp := s.1, tbs := [], ext := false, marked := s.2 }
  let h := copies.foldl (fun h c =>
    let cp := copyOf h c
    setCopy h c { cp with acc := cp.acc.filter fun r => !finalIn h c r.stamp && !(v.value.any fun s => s.1 == r.stamp) }) h
  let h := { h with ave := { h.ave with marks := h.ave.marks.filter fun s => !(v.value.any fun t => t.1 == s) } }
  (noteVote h none v.odd, recs)

/-! ### The matrix in one gate cycle (R184 to R190, R208) -/

/-- One raise in a copy in gate cycle `c`: the input is true for STRETCH + 1 cycles from now, and carries the earliest stamp of this
cycle, replacing an earlier cycle's (R185, R186, R201). -/
def raiseInput (h : Hw) (k c : Nat) (cp : AveCopy) (fresh : List Nat) (r : Raise) : AveCopy :=
  let d := tget {} cp.inputs r.prim
  let stamp := if fresh.contains r.prim && !earlier h r.stamp d.stamp then d.stamp else r.stamp
  let un := if d.on && c ≤ d.last + 1 then d.unproved else []
  let n : InputDyn :=
    { on := true, last := c + aget h k F_AVE_INPUT_STRETCH r.prim, stamp := stamp, unproved := (un ++ r.unproved).eraseDups }
  { cp with inputs := tset {} cp.inputs r.prim n }

def raiseAll (h : Hw) (k c : Nat) : List Raise → List Nat → AveCopy → AveCopy
  | [], _, cp => cp
  | r :: rs, fresh, cp => raiseAll h k c rs (r.prim :: fresh) (raiseInput h k c cp fresh r)

/-- The inputs of copy `k` in gate cycle `c`: primitives two cycles short of the matrix pass the gate's AVE_GATE_EN bit, those that
arrive raise their inputs together, and an input whose stretch has ended is false (R184 to R186, R194). -/
def inputStage (h : Hw) (k c : Nat) (cp : AveCopy) : AveCopy :=
  let ok := cp.flight.filter fun r => r.due != c + 2 || bit (aget h k F_AVE_GATE_EN_GATES) r.gate
  let cp := raiseAll h k c (ok.filter fun r => r.due ≤ c) [] { cp with flight := ok.filter fun r => c < r.due }
  { cp with inputs := cp.inputs.filter fun e => e.2.on && decide (c ≤ e.2.last) }

/-- The true inputs of a table as a 256-bit set. -/
def trueSet (inputs : Tab InputDyn) : Nat := (inputs.filter fun e => e.2.on).foldl (fun a e => setBit a e.1 true) 0

/-- TRUE and NEG set of term `t` in copy `c`. -/
def termTrue (h : Hw) (c t : Nat) : Nat :=
  (List.range 4).foldl (fun a w => a + aget h c F_AVE_TERM_TRUE_INPUTS (4 * t + w) * 2 ^ (64 * w)) 0
def termNeg (h : Hw) (c t : Nat) : Nat :=
  (List.range 4).foldl (fun a w => a + aget h c F_AVE_TERM_NEG_INPUTS (4 * t + w) * 2 ^ (64 * w)) 0

/-- Whether term `t` fires (R187). -/
def termFires (h : Hw) (c t on : Nat) : Bool :=
  let tr := termTrue h c t
  let n := aget h c F_AVE_TERM_CTRL_THRESH t
  aget h c F_AVE_TERM_CTRL_EN t == 1 && tr != 0 && (termNeg h c t).land on == 0 &&
    (if n == 0 then tr.land on == tr else decide (n ≤ popcount 256 (tr.land on)))

/-- Cycle 5 of a word: the inputs of copy `k` in gate cycle `c`, and the product terms that fire on them (R184 to R187, R194). -/
def termStage (h : Hw) (k c : Nat) (cp : AveCopy) : AveCopy :=
  let cp := inputStage h k c cp
  let on := trueSet cp.inputs
  { cp with terms := (List.range 64).foldl (fun a t => setBit a t (termFires h k t on)) 0, seen := cp.inputs }

/-- The stamp a firing accepts: the anchor's where it is true, else the lowest true input's of the lowest firing term (R190). -/
def firingStamp (h : Hw) (c : Nat) (seen : Tab InputDyn) (on : Nat) (terms : List Nat) : Option Stamp :=
  match terms with
  | [] => none
  | t :: _ =>
    let a := aget h c F_AVE_TERM_CTRL_ANCHOR t
    if bit on a then some (tget {} seen a).stamp
    else ((List.range 256).find? fun i => bit ((termTrue h c t).land on) i).map fun i => (tget {} seen i).stamp

/-- Whether the copy cascades trigger bit `n`: MODE 1 or 2 (R208, R213). -/
def cascades (h : Hw) (c n : Nat) : Nat :=
  let mode := aget h c F_AVE_CASCADE_MODE
  if (mode == 1 || mode == 2) && aget h c F_AVE_CASCADE_TB == n then mode else 0

/-- The trigger bits of copy `k` whose named terms fired in the gate cycle before (R188, R190, R201). -/
def localBits (h : Hw) (k : Nat) (cp : AveCopy) : List LocalBit :=
  let on := trueSet cp.seen
  let firing := onesOf 64 cp.terms
  (List.range 16).filterMap fun n =>
    let ts := firing.filter fun t => bit (aget h k F_AVE_TB_TERMS_TERMS n) t
    (firingStamp h k cp.seen on ts).map fun s =>
      { bit := n, stamp := s,
        unproved := (ts.flatMap fun t => (onesOf 256 ((termTrue h k t).land on)).flatMap fun i => (tget {} cp.seen i).unproved).eraseDups }

/-- Cycle 6 of a word in copy `k`: trigger bits, their firings and stamps; the cascaded bit joins the local value of 2 × POS cycles ago
with the MATCH_IN level of two cycles ago (R188 to R190, R194, R208). -/
def bitStage (h : Hw) (k : Nat) : AveCopy × CopyOut :=
  let cp := copyOf h k
  let past := localBits h k cp :: cp.past
  let pos := aget h k F_AVE_CASCADE_POS
  let up := pos != 0 && lget false h.ave.matchHist 1
  let accepts := modeNow h == 4 || modeNow h == 6
  (List.range 16).foldl (fun (r : AveCopy × CopyOut) n =>
    let mode := cascades h k n
    let b := (lget [] past (if mode == 0 then 0 else 2 * pos)).find? fun x => x.bit == n
    let l := b.isSome
    let value := if mode == 1 then up || l else if mode == 2 then l && !up else l
    let mayAcc := if mode == 1 then l else value
    let fired := mayAcc && !bit cp.may n
    let armed := fired && accepts && aget h k F_AVE_TB_CTRL_ACCEPT_EN n == 1
    let cnt := tget 0 r.1.prescale n
    let acc := if armed && cnt == 0 then b.toList.map fun x => (n, x.stamp) else []
    let prescale := if armed then tset 0 r.1.prescale n ((cnt + 1) % max 1 (aget h k F_AVE_TB_CTRL_PRESCALE n)) else r.1.prescale
    let un := if value then b.toList.flatMap (·.unproved) else []
    ({ r.1 with prescale := prescale, may := setBit r.1.may n mayAcc },
     { r.2 with tb := setBit r.2.tb n value, mo := r.2.mo || (mode != 0 && (up || l)), fires := setBit r.2.fires n fired,
                accs := r.2.accs ++ acc, unproved := (r.2.unproved ++ un).eraseDups }))
    ({ cp with past := past.take 14 }, {})

/-! ### The outputs (R188, R201 to R204) -/

/-- Length of a pulse of copy `k` at least, in 1/5 gate cycle (R188). -/
def pulseLen (h : Hw) (k : Nat) : Nat := 5 * (aget h k F_AVE_CONFIG_OUT_WIDTH + 1)

/-- Output `n` of copy `k` at a moment in 1/5 gate cycle, extended (R188). -/
def level (h : Hw) (k n at5 : Nat) : Bool :=
  let cp := copyOf h k
  let p := tget 0 cp.pulse n
  bit cp.raw n || (p != 0 && decide (at5 + 1 < p + pulseLen h k))

/-- Output `n` of copy `k` takes a value at a moment: a pulse begins where the extended output was 0 (R188; DEDUCED, log
60). -/
def setRaw (h : Hw) (k n at5 : Nat) (v : Bool) : Hw :=
  let was := level h k n at5
  let cp := copyOf h k
  let pulse := if v && !was && n < 17 then tset 0 cp.pulse n (at5 + 1) else cp.pulse
  setCopy h k { cp with raw := setBit cp.raw n v, pulse := pulse }

/-- The three copies' outputs at a moment are voted and driven; what differs is answered (R188, R203, R207). -/
def driveOutputs (h : Hw) (at5 : Nat) : Hw × Option Nat × Bool :=
  let tie := agetMaj h F_AVE_CONFIG_DISAGREE_ONE == 1
  let tb := voteBits h 16 tie fun k => (List.range 16).foldl (fun a n => setBit a n (level h k n at5)) 0
  let mo := voteBit h tie fun k => level h k 17 at5
  let ql := voteBit h false fun k => level h k 16 at5
  let odd := match tb.odd with | some o => some o | none => (match mo.odd with | some o => some o | none => ql.odd)
  ({ h with ave := { h.ave with pinTb := tb.value, pinMatch := mo.value, pinQual := ql.value } }, odd, tb.odd == some 3)

/-- A verdict of 0 withdraws an acceptance by trigger bit `n` in one unit: not made, withdrawn, or too late (R198). -/
def vetoOne (h : Hw) (k : Nat) (r : List AccRec × List (Nat × Stamp) × List (Nat × Stamp)) (a : Nat × Stamp) :
    List AccRec × List (Nat × Stamp) × List (Nat × Stamp) :=
  if finalIn h k a.2 then (r.1, r.2.1, r.2.2 ++ [a])
  else if r.1.any fun x => x.stamp == a.2 && x.tbs.contains a.1 then
    let l := r.1.map fun x => if x.stamp == a.2 then { x with tbs := x.tbs.erase a.1 } else x
    (l.filter fun x => !x.tbs.isEmpty || x.ext, r.2.1 ++ [a], r.2.2)
  else r

/-- Every word behind the trigger cycle passed its CRC in time, and no two-copy disagreement touched it (R201). -/
def sound (q : QualWait) : Bool := q.fired && q.unproved.isEmpty && !q.disagreed

/-- The verdicts of copy `k` that are due by a moment: its TRIG_QUAL, and the acceptances they withdraw or leave (R198, R201). -/
def qualCopy (h : Hw) (k at5 : Nat) : Hw × List (Nat × Stamp) × List (Nat × Stamp) :=
  let due := (copyOf h k).quals.filter fun q => q.due ≤ at5
  let h := due.foldl (fun h q => setRaw h k 16 q.due (sound q)) h
  let cp := copyOf h k
  let veto := aget h k F_AVE_CONFIG_QUAL_VETO == 1
  let bad := if veto then due.flatMap fun q => if sound q then [] else q.accepted else []
  let (acc, gone, late) := bad.foldl (vetoOne h k) (cp.acc, [], [])
  (setCopy h k { cp with acc := acc, quals := cp.quals.filter fun q => !(q.due ≤ at5 : Bool) }, gone, late)

/-- The verdicts due by a moment, in all three copies, with the shared counts (R198, R201, R203). -/
def qualStage (h : Hw) (at5 : Nat) : Hw :=
  let (h, g0, l0) := qualCopy h 0 at5
  let (h, g1, l1) := qualCopy h 1 at5
  let (h, g2, l2) := qualCopy h 2 at5
  let gone := votedOf h fun c => if c == 0 then g0 else if c == 1 then g1 else g2
  let late := votedOf h fun c => if c == 0 then l0 else if c == 1 then l1 else l2
  fadd (fadd h F_AVE_ACC_COUNT_VETOED gone.length) F_AVE_ACC_COUNT_VETO_LATE late.length

/-- A superframe has passed its CRC: the words it carried are proved in every copy (R201). -/
def proveSf (h : Hw) (sf : Nat × Nat) : Hw :=
  let rest := fun (l : List (Nat × Nat)) => l.filter (· != sf)
  copies.foldl (fun h c =>
    let cp := copyOf h c
    setCopy h c { cp with
      flight := cp.flight.map fun r => { r with unproved := rest r.unproved },
      inputs := cp.inputs.map fun e => (e.1, { e.2 with unproved := rest e.2.unproved }),
      seen := cp.seen.map fun e => (e.1, { e.2 with unproved := rest e.2.unproved }),
      past := cp.past.map fun l => l.map fun b => { b with unproved := rest b.unproved },
      out := { cp.out with unproved := rest cp.out.unproved },
      quals := cp.quals.map fun q => { q with unproved := rest q.unproved } }) h

/-- CRC verdicts that have reached the QUAL stage by gate cycle `c` (R202). -/
def proofStage (h : Hw) (c : Nat) : Hw :=
  let h := (h.ave.proofs.filter fun p => p.1 ≤ c).foldl (fun h p => proveSf h p.2) h
  { h with ave := { h.ave with proofs := h.ave.proofs.filter fun p => c < p.1 } }

/-- A superframe's CRC passes at the framer: its verdict reaches the QUAL stage 6 gate cycles later (R202). -/
def passSf (h : Hw) (sf : Nat × Nat) : Hw :=
  if fon h F_AVE_STATUS_RUNNING then { h with ave := { h.ave with proofs := h.ave.proofs ++ [(gateCycle h + 6, sf)] } } else h

/-- The words of a gate, searched in the present gate cycle, send their primitives to the matrix, which they reach 5 gate cycles after
the framer (R177, R194). -/
def launch (h : Hw) (g : Nat) (raises : Nat → List (Nat × Stamp)) (sf : Nat × Nat) : Hw :=
  if !fon h F_AVE_STATUS_RUNNING then h
  else
    copies.foldl (fun h c =>
      let cp := copyOf h c
      setCopy h c { cp with flight := cp.flight ++ (raises c).map fun r =>
        { due := gateCycle h + 5, gate := g, prim := r.1, stamp := r.2, unproved := [sf] } }) h

/-- One gate cycle of the acceptance units on what the copies have just made: firings are counted, and stamps accepted (R189, R190,
R194, R195, R203). -/
def acceptStage (h : Hw) : Hw × Option Nat :=
  let o := fun c => (copyOf h c).out
  let fires := voteBits h 16 true fun c => (o c).fires
  let h := (onesOf 16 fires.value).foldl (fun h n => fadd h F_AVE_TB_STAT_FIRES 1 0 n) h
  let want := fun c => (o c).accs.map fun a => (some a.1, a.2)
  let keep := fun c => (o c).accs.filter fun a => mayAccept h a.2 && !finalIn h c a.2
  let r := acceptAll h want
  (copies.foldl (fun h c =>
    let cp := copyOf h c
    setCopy h c { cp with out := { cp.out with accs := keep c } }) r.1, r.2)

/-- One gate cycle of the pins on what the copies made of the cycle before: the outputs take their values, are voted and driven,
and a cycle with a trigger bit true, or the first without, waits for its TRIG_QUAL (R188, R194, R201, R203). -/
def pinStage (h : Hw) (c : Nat) : Hw × Option Nat :=
  let o := fun k => (copyOf h k).out
  let any := copies.any fun k => (o k).tb != 0 || (copyOf h k).raw % 2 ^ 16 != 0
  let h := copies.foldl (fun h k =>
    let h := (List.range 16).foldl (fun h n => setRaw h k n (5 * c) (bit (o k).tb n)) h
    setRaw h k 17 (5 * c) (o k).mo) h
  let (h, odd, two) := driveOutputs h (5 * c)
  let h := if any then copies.foldl (fun h k =>
      let cp := copyOf h k
      let w : QualWait := { due := 5 * c + cp.q, fired := (o k).tb != 0, unproved := (o k).unproved, disagreed := two, accepted := (o k).accs }
      setCopy h k { cp with quals := cp.quals ++ [w] }) h
    else h
  (h, odd)

/-- One gate cycle of Avenue: verdicts, then a word's cycle 7, the pins, its cycle 6, trigger bits and acceptance, and its cycle 5, the
product terms of each copy (R194, R203, R204). -/
def matrixTick (h : Hw) (c : Nat) : Hw :=
  let (h, pin) := pinStage (qualStage (proofStage h c) (5 * c)) c
  let h := copies.foldl (fun h k => let r := bitStage h k; setCopy h k { r.1 with out := r.2 }) h
  let (h, acc) := acceptStage h
  noteVote (copies.foldl (fun h k => setCopy h k (termStage h k c (copyOf h k))) h) pin acc

/-- A moment within a gate cycle: the verdicts due by it, and the vote on TRIG_QUAL, whose edges fall on steps of 1/5 gate cycle (R202,
R204, R207). -/
def fifthStage (h : Hw) (at5 : Nat) : Hw :=
  let (h, odd, _) := driveOutputs (qualStage h at5) at5
  noteVote h odd none

/-- A verdict of some copy is due by a moment, or its pulse on TRIG_QUAL ends there. -/
def qualMoves (h : Hw) (at5 : Nat) : Bool :=
  copies.any fun k =>
    let cp := copyOf h k
    let p := tget 0 cp.pulse 16
    (cp.quals.any fun q => decide (q.due ≤ at5)) || (p != 0 && at5 + 1 == p + pulseLen h k)

/-- The moments after module time up to one in the same gate cycle take their course (R202). -/
def fifthsTo (h : Hw) (last : Nat) : Hw :=
  let first := 5 * h.now / 64 + 1
  (List.range (last + 1 - first)).foldl (fun h i => if qualMoves h (first + i) then fifthStage h (first + i) else h) h

/-! ### Commit and discard (R191 to R193, R202) -/

def acPending : Nat := 1
def acDone : Nat := 2
def acInvalid : Nat := 3

/-- Q in 125 ps steps of the slowest gate that a set enables (R202); RATE codes of R114. -/
def qualSteps (h : Hw) (gates : Nat) : Nat :=
  let rates := (onesOf 64 gates).map fun g => fget h F_GATE_CONFIG_RATE g
  match rates.foldl (fun (o : Option Nat) r => match o with | some m => some (min m r) | none => some r) none with
  | some 0 => 3380
  | some 1 => 1690
  | some 2 => 820
  | some 3 => 676
  | _ => 328

/-- The shadow set becomes the active set of all three copies (R189, R191, R202), a smaller ACC_WINDOW makes crossings final at once
(R197), and shadow writes that waited follow (R192). -/
def applyCommit (h : Hw) : Hw :=
  let shadow := h.regs.filter fun e => isShadow e.1
  let h := copies.foldl (fun h c =>
    let changed := (List.range 16).filter fun n => aget h c F_AVE_TB_CTRL_PRESCALE n != fget h F_AVE_TB_CTRL_PRESCALE 0 n
    let cp := copyOf h c
    let h := setAct (setCopy h c { cp with prescale := changed.foldl tdel cp.prescale }) c shadow
    setCopy h c { copyOf h c with q := qualSteps h (aget h c F_AVE_GATE_EN_GATES) }) h
  let h := if fon h F_TIMING_STATUS_LOCKED then noteFinal h else h
  let h := fset h F_AVE_STATUS_GEN (fget h F_AVE_STATUS_GEN + 1)
  let h := fset h F_AVE_STATUS_QUAL_DELAY (maj (copyOf h 0).q (copyOf h 1).q (copyOf h 2).q)
  let h := { fset h F_AVE_STATUS_COMMIT_PENDING 0 with ave := { h.ave with commitEdge := false } }
  flushShadow h

/-- The trigger partition is down, until it runs again (R25, R193). -/
def trigDown (h : Hw) : Bool := fon h F_AVE_STATUS_CFG_FROZEN

/-- AVE_COMMIT (R191 to R193). -/
def execAveCommit (who : Requester) (s : State) : Host.Outcome State Fault Refusal :=
  .next (s.upd fun h => ifMay h who R_AVE_COMMIT 0 0 fun h =>
    let (h, code) :=
      if trigDown h then (h, rcRefused)
      else if fon h F_AVE_STATUS_COMMIT_PENDING then (h, rcBusy)
      else if max 1 (fget h F_AVE_CONFIG_ACC_WINDOW) ≤ fget h F_AVE_CONFIG_ACCEPT_DELAY then (h, acInvalid)
      else if fon h F_AVE_STATUS_RUNNING then
        ({ fset h F_AVE_STATUS_COMMIT_PENDING 1 with
            ave := { h.ave with commitSeq := (fget h F_AVE_COMMIT_SEQ + 1) % 256, commitEdge := false } }, acPending)
      else (applyCommit h, acDone)
    answer h F_AVE_COMMIT_RESULT F_AVE_COMMIT_SEQ code)

/-- AVE_DISCARD: the shadow set takes the bitwise majority of the active sets (R191, R192). -/
def execAveDiscard (who : Requester) (s : State) : Host.Outcome State Fault Refusal :=
  .next (s.upd fun h => ifMay h who R_AVE_COMMIT 0 0 fun h =>
    let (h, code) :=
      if fon h F_AVE_STATUS_COMMIT_PENDING then (h, rcBusy)
      else
        let keys := ((h.ave.act0 ++ h.ave.act1 ++ h.ave.act2).map (·.1)).eraseDups
        let base := { h with regs := h.regs.filter fun e => !isShadow e.1 }
        (keys.foldl (fun h k =>
          match shadowFields.find? fun f => f.id == k / 2 ^ 32 with
          | some f =>
            { h with regs := tset f.reset h.regs k (maj (tget f.reset (actOf h 0) k) (tget f.reset (actOf h 1) k) (tget f.reset (actOf h 2) k)) }
          | none => h) base, acDone)
    answer h F_AVE_COMMIT_RESULT F_AVE_COMMIT_SEQ code)

/-- A pending COMMIT takes effect in the first gate cycle after a CLK_X edge, or where Avenue is held; RESULT belongs to the latest SEQ
(R191, R214). -/
def commitStage (h : Hw) : Hw :=
  if fon h F_AVE_STATUS_COMMIT_PENDING && (h.ave.commitEdge || !fon h F_AVE_STATUS_RUNNING) then
    let h := applyCommit h
    if fget h F_AVE_COMMIT_SEQ == h.ave.commitSeq then fset h F_AVE_COMMIT_RESULT acDone else h
  else h

/-- A CLK_X edge comes for a pending COMMIT (R191). -/
def noteEdge (h : Hw) : Hw :=
  if fon h F_AVE_STATUS_COMMIT_PENDING then { h with ave := { h.ave with commitEdge := true } } else h

/-! ### The passing of gate cycles (R166, R178, R194, R204) -/

/-- Gate cycle `c` begins after the last moments of the one before: a commit, the match tables, the exclusion, the input stage of
MATCH_IN, and the matrix while Avenue runs (R178, R179, R191, R202, R206, R208). -/
def aveTick (h : Hw) (c : Nat) : Hw :=
  let h := if fon h F_AVE_STATUS_RUNNING then fifthsTo h (5 * c - 1) else h
  let h := commitStage (passTo h (64 * c))
  let h := (mtBusy h).foldl mtTick h
  let h := { h with ave := { h.ave with off := fget h F_AVE_VOTE_COPY_OFF } }
  let h := if fon h F_AVE_STATUS_RUNNING then matrixTick h c else h
  { h with ave := { h.ave with matchHist := (h.ave.matchIn :: h.ave.matchHist).take 2 } }

def aveTicks : Nat → Nat → Hw → Hw
  | 0, _, h => h
  | n + 1, c, h => aveTicks n (c + 1) (aveTick h c)

/-- No gate cycle changes anything: Avenue is held, no commit or match-table command runs, and the voter and the input stage have
taken what they sample. -/
def aveQuiet (h : Hw) : Bool :=
  !fon h F_AVE_STATUS_RUNNING && !fon h F_AVE_STATUS_COMMIT_PENDING && (mtBusy h).isEmpty &&
    h.ave.off == fget h F_AVE_VOTE_COPY_OFF && h.ave.matchHist == [h.ave.matchIn, h.ave.matchIn]

/-- Module time goes on to a later time, and every gate cycle that begins on the way takes its course; TRIG_QUAL moves in steps of
1/5 gate cycle (R166, R202). -/
def runTo (h : Hw) (t : Nat) : Hw :=
  if aveQuiet h then passTo h t
  else
    let h := aveTicks (t / 64 - gateCycle h) (gateCycle h + 1) h
    passTo (if fon h F_AVE_STATUS_RUNNING then fifthStage (fifthsTo h (5 * t / 64 - 1)) (5 * t / 64) else h) t

/-! ### Commands of the matrix -/

/-- STRETCH_EXPIRY: module time reaches the end of an input's stretch count in the copies named, and the input is false (R185). -/
def execStretchExpiry (i : BitVec 8) (named : BitVec 3) (s : State) : Host.Outcome State Fault Refusal :=
  .next (s.upd fun h =>
    let ends := (copies.filter fun c => named.getLsbD c && (tget {} (copyOf h c).inputs i.toNat).on).map fun c =>
      64 * ((tget {} (copyOf h c).inputs i.toNat).last + 1)
    if ends.isEmpty then h else runTo h (ends.foldl max h.now))

/-- MATCH_IN: the level from the module before it, which the input stage samples in the next gate cycle (R208). -/
def execMatchIn (level : Bool) (s : State) : Host.Outcome State Fault Refusal :=
  .next (s.upd fun h => { h with ave := { h.ave with matchIn := level } })

/-- OUT_WIDTH_END: module time reaches the end of a pulse whose bit has fallen in some copy, and the pulse ends there (R188). -/
def execOutWidthEnd (pin : Fin 17) (s : State) : Host.Outcome State Fault Refusal :=
  .next (s.upd fun h =>
    let n := pin.val
    let held := copies.filter fun c => !bit (copyOf h c).raw n && level h c n (5 * h.now / 64)
    let ends := held.map fun c => (64 * (tget 0 (copyOf h c).pulse n - 1 + pulseLen h c) + 4) / 5
    if ends.isEmpty then h else runTo h (ends.foldl max h.now))

/-- TRIG_QUAL_VERDICT: module time reaches Q after the oldest trigger cycle that waits, and TRIG_QUAL takes its verdict (R201, R202). -/
def execTrigQualVerdict (s : State) : Host.Outcome State Fault Refusal :=
  .next (s.upd fun h =>
    let dues := (copies.flatMap fun c => (copyOf h c).quals).map (·.due)
    match dues with
    | [] => h
    | d :: r => runTo h (max h.now ((64 * r.foldl min d + 4) / 5)))

/-- INSERT_COMPLETE: the gate cycles that a running INSERT needs pass, and it ends (R179). -/
def execInsertComplete (g : Fin 64) (s : State) : Host.Outcome State Fault Refusal :=
  .next (s.upd fun h => if insertLeft h g.val == 0 then h else runTo h (64 * (gateCycle h + insertLeft h g.val)))

/-- MATRIX_SCRUB_STEP: each configuration word whose copies differ is repaired by majority, counted and recorded as corrected (R205). -/
def execMatrixScrubStep (s : State) : Host.Outcome State Fault Refusal :=
  .next (s.upd fun h =>
    let keys := ((h.ave.act0 ++ h.ave.act1 ++ h.ave.act2).map (·.1)).eraseDups
    let val := fun (h : Hw) k c =>
      tget (match shadowFields.find? fun f => f.id == k / 2 ^ 32 with | some f => f.reset | none => 0) (actOf h c) k
    let bad := keys.filter fun k => !(val h k 0 == val h k 1 && val h k 1 == val h k 2)
    let words := (bad.map fun k =>
      ((shadowFields.find? fun f => f.id == k / 2 ^ 32).map (·.reg), k % 2 ^ 32)).eraseDups
    let h := bad.foldl (fun h k =>
      let d := match shadowFields.find? fun f => f.id == k / 2 ^ 32 with | some f => f.reset | none => 0
      let m := maj (val h k 0) (val h k 1) (val h k 2)
      copies.foldl (fun h c => setAct h c (tset d (actOf h c) k m)) h) h
    words.foldl (fun h _ => logReg (fadd h F_AVE_VOTE_SCRUB_FIX 1) 0 blkAve 0 R_AVE_VOTE) h)

/-- COPY_EXCLUDE: a write of COPY_OFF that leaves at least two copies, which the voter takes in the next gate cycle; another is without
effect and logged (R206). -/
def setCopyOff (h : Hw) (who : Requester) (off : Nat) : Hw :=
  if 2 ≤ popcount 3 off then logRefusedWrite h who R_AVE_VOTE 0 0 else fset h F_AVE_VOTE_COPY_OFF off

def execCopyExclude (who : Requester) (off : BitVec 3) (s : State) : Host.Outcome State Fault Refusal :=
  .next (s.upd fun h => ifMay h who R_AVE_VOTE 0 0 fun h => setCopyOff h who off.toNat)

/-- What survives in a copy while Avenue is held: its finality, and Q of its active set (R80, R197, R202). -/
def heldCopy (cp : AveCopy) : AveCopy := { final := cp.final, q := cp.q }

/-- Avenue starts at the first TURN after entry to M4 or M6 (R80). -/
def startAvenue (h : Hw) : Hw :=
  let h := fset h F_AVE_STATUS_RUNNING 1
  { h with mod := { h.mod with aveWaitTurn := false }, tim := { h.tim with aveStart := some (stampNow h) },
           ave := { h.ave with cp0 := heldCopy h.ave.cp0, cp1 := heldCopy h.ave.cp1, cp2 := heldCopy h.ave.cp2, proofs := [], marks := [],
                               pinTb := 0, pinQual := false, pinMatch := false } }

end Sys2Proof.Machine
end

