-- ==== Sys2Proof/Machine/Lanes.lean ====
section
/-!
DEFINITION. Serial lanes: blocks and block lock, superframes, words and stamps, the holding buffer, the downlink, training and
takeover.
-/

namespace Sys2Proof.Machine

/-! ### Rates (R139, R157) -/

/-- Block period of a RATE code in 1/12800 ns, in which every block period and the gate cycle (8,000) are whole (R139). -/
def blockUnits (rate : Nat) : Nat :=
  match rate with
  | 0 => 337920
  | 1 => 168960
  | 2 => 81920
  | 3 => 67584
  | _ => 32768

/-- T_DL of a RATE code in 1/12800 ns (R139). -/
def tdlUnits (rate : Nat) : Nat :=
  8000 * (match rate with
    | 0 => 50
    | 1 => 34
    | 2 => 26
    | 3 => 24
    | _ => 20)

/-! ### Lane and gate state -/

/-- STATE of a lane: 0 DOWN, 1 DL_ONLY, 2 BLOCK_LOCK, 3 ALIGNED, 4 RECAL, 5 served by the partner (R160, R174). -/
def laneState (h : Hw) (g k : Nat) : Nat := fget h F_LANE_STATUS_STATE g k

/-- The lane delivers words: ALIGNED, RECAL or served by the partner. DEDUCED: STATE 5 is that of a lane ALIGNED at the partner's framer, so
it counts as ALIGNED for GATE_DL_CMD and LANES_READY, where R158 names RECAL alone (log 77). -/
def laneUp (h : Hw) (g k : Nat) : Bool := decide (3 ≤ laneState h g k)

/-- The other gate of a pair (R171). -/
def partner (g : Nat) : Nat := g.xor 1

/-- The gate whose logic serves the lanes of gate `g`: itself, the partner in takeover, or none where it is retired (R171). -/
def logicGate (h : Hw) (g : Nat) : Option Nat :=
  if fget h F_GATE_STATUS_TAKEOVER g == 2 then some (partner g) else if (gateOf h g).retired then none else some g

/-- Number of lane `k` of gate `g` in the gate that serves it. -/
def laneNo (g k lg : Nat) : Nat := if lg == g then k else 16 + k

/-- The sequencer of a gate is held: an update that names it has not yet loaded it (R134). -/
def seqHeld (h : Hw) (g : Nat) : Bool :=
  match h.boot.update with
  | .seqFirmware gates _ _ _ => bit gates g
  | _ => false

/-- Gates with the BOULEVARD personality. -/
def boulevard (h : Hw) (g : Nat) : Bool := fget h F_GATE_CONFIG_PERSONALITY g == 2

/-- Take `n` free values (log 7). -/
def freeNats (h : Hw) (n : Nat) : List Nat × Hw :=
  ((List.range n).map fun i => Config.freeNat (h.freeCtr + i), { h with freeCtr := h.freeCtr + n })

/-! ### Descrambling and checks (R142, R143, R146) -/

/-- Descramble a payload, bit 0 first: the output and the new history (R142). -/
def descramble (hist : BitVec 58) (raw : BitVec 64) : BitVec 64 × BitVec 58 :=
  (List.range 64).foldl (fun r i =>
    let s := raw.getLsbD i
    let o := (s.xor (r.2.getLsbD 38)).xor (r.2.getLsbD 57)
    (if o then r.1 ||| (1#64 <<< i) else r.1, (r.2 <<< 1) ||| (if s then 1#58 else 0#58))) (0, hist)

/-- Scramble a payload, bit 0 first: what is sent and the new history (R142). -/
def scramble (hist : BitVec 58) (p : BitVec 64) : BitVec 64 × BitVec 58 :=
  (List.range 64).foldl (fun r i =>
    let s := ((p.getLsbD i).xor (r.2.getLsbD 38)).xor (r.2.getLsbD 57)
    (if s then r.1 ||| (1#64 <<< i) else r.1, (r.2 <<< 1) ||| (if s then 1#58 else 0#58))) (0, hist)

/-- The history after a block whose descrambled payload is given. -/
def scrambleHist (hist : BitVec 58) (p : BitVec 64) : BitVec 58 :=
  (List.range 64).foldl (fun r i =>
    let s := ((p.getLsbD i).xor (r.getLsbD 38)).xor (r.getLsbD 57)
    (r <<< 1) ||| (if s then 1#58 else 0#58)) hist

/-- CRC-8 of payload bits 0 to 55 in transmission order (R143). -/
def crc8 (p : BitVec 64) : BitVec 8 :=
  (List.range 56).foldl (fun c i =>
    let fb := (c.getLsbD 7).xor (p.getLsbD i)
    let c := c <<< 1
    if fb then c ^^^ 0x07#8 else c) 0

/-- CRC-16 of superframe bits 0 to 1007 (R146). -/
def crc16 (sf : List (BitVec 64)) : BitVec 16 :=
  (List.range 1008).foldl (fun c b =>
    let fb := (c.getLsbD 15).xor ((lget 0 sf (b / 64)).getLsbD (b % 64))
    let c := c <<< 1
    if fb then c ^^^ 0x1021#16 else c) 0xFFFF

/-- The payload of a control block (R143). -/
def controlPayload (type : Nat) (body : BitVec 48) (check : BitVec 8) : BitVec 64 :=
  BitVec.ofNat 64 (type + body.toNat * 2 ^ 8 + check.toNat * 2 ^ 56)

/-- Word `i` of a superframe (R145). -/
def sfWord (sf : List (BitVec 64)) (i : Nat) : BitVec 36 :=
  let b := 36 * i / 64
  BitVec.ofNat 36 (((lget 0 sf b).toNat + (lget 0 sf (b + 1)).toNat * 2 ^ 64) / 2 ^ (36 * i % 64))

/-- The words that the `n`-th block of a superframe completes (R145). -/
def wordsDone (n : Nat) : List Nat :=
  (List.range 28).filter fun i => decide (36 * i + 36 ≤ 64 * n) && decide (64 * (n - 1) < 36 * i + 36)

/-! ### Boulevard bundles going down (R502, R516) -/

/-- Whether a packet is a TC1 write. -/
def isTc1 (p : BPacket) : Bool := bits p.start 25 24 == 1

/-- A bundle goes DOWN: its partial packets and replay buffer are discarded, lost writes counted, a corrected record names it, its
source is raised, and training restarts where its gate stays in service (R502, R516). -/
def bundleDown (h : Hw) (g b : Nat) (again : Bool) : Hw :=
  if fget h F_BLVD_BUNDLE_STATE g b == 0 then h
  else
    let v := bundleOf h g b
    let h := fadd h F_BLVD_BUNDLE_DOWNS 1 g b
    let h := fadd h F_BLVD_BUNDLE_WR_LOST (v.replay.filter isTc1).length g b
    let h := fset (fset h F_BLVD_BUNDLE_STATE (b2n again) g b) F_BLVD_NBR_VALID 0 g b
    let h := setBundle h g b { txq := v.txq }
    raiseSource (logReg h 0 blkGate g R_BLVD_BUNDLE g b) (srcGate g 0)

/-- A bundle whose four lanes are in LANE_MASK trains with them (R494, R502). -/
def bundleTrain (h : Hw) (g b : Nat) : Hw :=
  if boulevard h g && fget h F_BLVD_BUNDLE_STATE g b == 0 && (List.range 4).all (fun j => fon h F_LANE_CONFIG_IN_USE g (4 * b + j)) then
    fset h F_BLVD_BUNDLE_STATE 1 g b
  else h

/-! ### The holding buffer (R168 to R170) -/

/-- A crossing whose words the gate still needs: not final, or accepted and not yet written or dropped (R168, R169). -/
def wordNeeded (h : Hw) (g : Nat) (s : Stamp) : Bool :=
  let v := gateOf h g
  !isFinal h s || (copies.any fun c => (copyOf h c).acc.any fun r => r.stamp == s) || (h.ave.accFinal.any fun r => r.stamp == s) ||
    (v.msgs.any fun m => match m with | .opn t _ _ => t == s | .drop t => t == s | .cancel _ => false) ||
    (match v.frag with | some f => f.stamp == s | none => false)

/-- Records in use. -/
def setUsed (h : Hw) (g : Nat) : Hw :=
  let n := (gateOf h g).hb.length
  let h := fset h F_GATE_HB_STATUS_USED n g
  if fget h F_GATE_HB_STATUS_PEAK g < n then fset h F_GATE_HB_STATUS_PEAK n g else h

/-- Free the records none of whose words is needed any more (R169). -/
def purgeGate (h : Hw) (g : Nat) : Hw :=
  let v := gateOf h g
  let h := setGate h g { v with hb := v.hb.filter (fun r => r.words.any fun w => wordNeeded h g w.stamp),
                                hdrs := v.hdrs.filter (fun x => wordNeeded h g x.stamp),
                                lostWords := v.lostWords.filter (wordNeeded h g) }
  setUsed h g

/-- Records the holding buffer has (R168). -/
def hbRecords : Nat := 5002

/-- A complete superframe is stored, or lost where no record is free (R168, R170). -/
def storeSf (h : Hw) (g ln : Nat) (kept : List KWord) : Hw :=
  let h := purgeGate h g
  let ws := kept.filter fun w => wordNeeded h g w.stamp
  if !fon h F_GATE_STATUS_RUN g || ws.isEmpty then h
  else
    let v := gateOf h g
    if v.hb.length < hbRecords then
      let h := setUsed (setGate h g { v with hb := v.hb ++ [{ lane := ln, words := ws }], ovf := false }) g
      let h := pmu pmuGate h g 5 1 (ownerGate h g)
      if (v.hb.length + 1) == fget h F_GATE_CONFIG_HB_HIGH g then raiseSource h (srcGate g 2) else h
    else
      let h := fadd h F_GATE_HB_STATUS_OVF_SF 1 g
      let h := setGate h g { v with lostWords := (v.lostWords ++ ws.map (·.stamp)).eraseDups, ovf := true }
      if v.ovf then h else raiseSource h (srcGate g 3)

/-! ### Words, headers and stamps (R149 to R154) -/

/-- The record of words passed on with T1: deferred class (R11, R12, R549). -/
def recordMarked (h : Hw) (g k : Nat) : Hw := logReg h 1 blkGate g R_LANE_ERR g k

/-- Set T1 on the last word of a crossing on one lane, in the current superframe or in the holding buffer. -/
def markLast (s : Stamp) : List KWord → List KWord
  | [] => []
  | w :: r => if w.stamp == s && !(r.any fun x => x.stamp == s) then { w with word := w.word ||| (1#36 <<< 33) } :: r else w :: markLast s r

/-- The crossing of the header in force ends short on a lane: the gate's fragment is SHORT, and a last word with PAIR gets T1 and
counts a HDR_ERR (R153, R217). -/
def endHeader (h : Hw) (g k : Nat) : Hw :=
  let l := laneOf h g k
  match l.hdr with
  | none => h
  | some d =>
    let h := setLane h g k { l with hdr := none }
    if d.remaining == 0 then h
    else
      match logicGate h g with
      | none => h
      | some lg =>
        let ln := laneNo g k lg
        let v := gateOf h lg
        let h := setGate h lg { v with hdrs := v.hdrs.map fun x =>
          if x.lane == ln && x.stamp == d.stamp then { x with short := true } else x }
        if d.pair then
          let h := fadd h F_LANE_ERR_HDR_ERR 1 g k
          let l := laneOf h g k
          if l.kept.any fun w => w.stamp == d.stamp then setLane (recordMarked h g k) g k { l with kept := markLast d.stamp l.kept }
          else
            let v := gateOf h lg
            let recs := v.hb.zipIdx
            match recs.reverse.find? fun r => r.1.lane == ln && r.1.words.any fun w => w.stamp == d.stamp with
            | some (_, n) => setGate (recordMarked h g k) lg { v with hb := recs.map fun r =>
                if r.2 == n then { r.1 with words := markLast d.stamp r.1.words } else r.1 }
            | none => h
        else h

/-- Crossings by which a header misses the expected crossing, counted modulo CROSSINGS_PER_TURN (R152). -/
def slip (h : Hw) (g k crossing : Nat) : Nat :=
  let n := perTurn h
  let e := (fget h F_TIMING_STATUS_CROSSING + n - fget h F_LANE_CONFIG_XOFFSET g k % n) % n
  let d := (crossing + n - e) % n
  min d (n - d)

/-- A word at the framer of gate `lg`, lane `k` of gate `g`: the word and stamp that are searched, if any (R149 to R153, R177). DESIGN CHOICE:
the words of a header accepted before a loss of the CLK_X lock keep its stamp, and are kept and searched while the lock is absent; R167
says only that nothing is stamped then (log 78). -/
def frameWord (h : Hw) (g k lg : Nat) (w : BitVec 36) : Hw × Option (BitVec 36 × Stamp) :=
  let own := ownerGate h lg
  let h := pmu pmuGate h lg 1 1 own
  let keep := fun (h : Hw) (w : BitVec 36) (s : Stamp) =>
    setLane h g k { laneOf h g k with kept := (laneOf h g k).kept ++ [{ word := w, stamp := s }] }
  if w.getLsbD 32 then (pmu pmuGate h lg 2 1 own, none)
  else if w.getLsbD 34 then
    let short := match (laneOf h g k).hdr with | some d => d.remaining != 0 | none => false
    let h := endHeader (if short then fadd h F_LANE_ERR_HDR_ERR 1 g k else h) g k
    let c := bits w.toNat 31 16
    if !fon h F_TIMING_STATUS_LOCKED || perTurn h ≤ c then (fadd h F_LANE_ERR_HDR_ERR 1 g k, none)
    else
      let now := stampNow h
      let s : Stamp := { turn := if now.crossing < c then (now.turn + 2 ^ 32 - 1) % 2 ^ 32 else now.turn, crossing := c }
      let h := if fget h F_GATE_CONFIG_XTOL lg < slip h g k c then
          raiseSource (fadd h F_LANE_ERR_STAMP_SLIP 1 g k) (srcGate lg 0) else h
      let late := isFinal h s
      let h := setLane h g k { laneOf h g k with hdr := some { stamp := s, remaining := bits w.toNat 15 8, late := late } }
      if late then (fadd h F_LANE_ERR_HDR_ERR 1 g k, some (w, s))
      else
        let v := gateOf h lg
        let x : LaneHdr := { lane := laneNo g k lg, stamp := s, fe := bits w.toNat 7 0, poison := w.getLsbD 33 }
        (keep (setGate h lg { v with hdrs := v.hdrs ++ [x] }) w s, some (w, s))
  else
    match (laneOf h g k).hdr with
    | none => (fadd h F_LANE_ERR_HDR_ERR 1 g k, none)
    | some d =>
      if d.remaining == 0 then (fadd h F_LANE_ERR_HDR_ERR 1 g k, none)
      else
        let last := d.remaining == 1 && w.getLsbD 35
        let h := if last then recordMarked (fadd h F_LANE_ERR_HDR_ERR 1 g k) g k else h
        let w := if last then w ||| (1#36 <<< 33) else w
        let h := setLane h g k { laneOf h g k with hdr := some { d with remaining := d.remaining - 1, pair := w.getLsbD 35 } }
        (if d.late then h else keep h w d.stamp, some (w, d.stamp))

/-- Frame several words in order. -/
def frameWords (h : Hw) (g k lg : Nat) : List (BitVec 36) → Hw × List (BitVec 36 × Stamp)
  | [] => (h, [])
  | w :: r =>
    let (h, o) := frameWord h g k lg w
    let (h, l) := frameWords h g k lg r
    (h, o.toList ++ l)

/-- Words whose stamp does not come before the crossing at which Avenue started (R177). -/
def searchable (h : Hw) (ws : List (BitVec 36 × Stamp)) : List (BitVec 36 × Stamp) :=
  match h.tim.aveStart with
  | some a => if fon h F_AVE_STATUS_RUNNING then ws.filter fun w => !earlier h w.2 a else []
  | none => if fon h F_AVE_STATUS_RUNNING then ws else []

/-- The gate searches its words and the primitives raise their inputs; a gate that was reset raises none until it has realigned (R88, R175 to
R177, R184). -/
def searchWords (h : Hw) (g k lg : Nat) (ws : List (BitVec 36 × Stamp)) : Hw :=
  let ws := if (gateOf h lg).realign then [] else searchable h ws
  let sf := (16 * g + k, (laneOf h g k).sfNum)
  let raises := fun c => ws.filterMap fun w => (mtSearch h c lg w.1.toNat).map fun p => (p, w.2)
  let own := ownerGate h lg
  let h' := pmu pmuGate h lg 3 ws.length own
  let hits := ws.filter fun w => (mtSearch h 0 lg w.1.toNat).isSome
  let h' := pmu pmuGate h' lg 4 hits.length own
  if copies.all fun c => (raises c).isEmpty then h' else launch h' lg raises sf

/-! ### Superframes (R144 to R148, R154, R201) -/

/-- The current superframe of a lane ends with a verdict: a passing one proves its words, a failing one marks them, in one deferred
record (R12, R146, R147, R154). -/
def endSf (h : Hw) (g k : Nat) (ok : Bool) : Hw :=
  let l := laneOf h g k
  let kept := if ok then l.kept else l.kept.map fun w => { w with word := w.word ||| (1#36 <<< 33) }
  let num := l.sfNum
  let h := setLane h g k { l with sf := [], sfBad := false, kept := [], sfNum := l.sfNum + 1 }
  let h := if ok then passSf h (16 * g + k, num)
           else (fun h => if kept.isEmpty then h else recordMarked h g k) (fadd h F_LANE_ERR_CRC_FAIL 1 g k)
  match logicGate h g with
  | some lg => storeSf h lg (laneNo g k lg) kept
  | none => h

/-- A control block ends the current superframe; 1 to 15 data blocks make a truncated one (R147). -/
def cutSf (h : Hw) (g k : Nat) : Hw :=
  if (laneOf h g k).sf.isEmpty then h else endSf (fadd h F_LANE_ERR_BLOCK_ERR 1 g k) g k false

/-! ### Lanes entering and leaving their states (R144, R158, R160, R569) -/

/-- A command that waits for an ACK ends with a result; RESULT belongs to the latest write (R158, R174; DEDUCED, log 18). -/
def endCmd (h : Hw) (g code : Nat) : Hw :=
  match (gateOf h g).dlLane with
  | none => h
  | some (_, tag) =>
    let h := setGate h g { gateOf h g with dlLane := none, dl := (gateOf h g).dl.filter fun c => c.tag != tag || c.lanes == 0 }
    if fget h F_GATE_DL_CMD_SEQ g == tag then fset h F_GATE_DL_CMD_RESULT code g else h

/-- The lane is no longer ALIGNED: its crossing ends short, the verdict of its superframe never comes, and its pending command
ends LANE_DOWN (R158, R201, R217). -/
def leaveAligned (h : Hw) (g k : Nat) : Hw :=
  if !laneUp h g k then h
  else
    let h := endHeader h g k
    let l := laneOf h g k
    let h := setLane h g k { l with sf := [], sfBad := false, kept := [], sfNum := l.sfNum + 1, aligned := false }
    let h := fset h F_GATE_STATUS_LANES_READY (setBit (fget h F_GATE_STATUS_LANES_READY g) k false) g
    match (gateOf h g).dlLane with
    | some (j, _) => if j == k then endCmd h g 7 else h
    | none => h

/-- Note what the latest GATE_CTRL command of a gate runs. -/
def setCtrl (h : Hw) (g : Nat) (c : Option Nat) : Hw := setGate h g { gateOf h g with ctrlRun := c }

/-- The GATE_CTRL command that runs as `c` ends with a result, which is shown where it is the latest one (R174). -/
def endCtrl (h : Hw) (g c code : Nat) : Hw :=
  if (gateOf h g).ctrlRun == some c then setCtrl (fset h F_GATE_CTRL_RESULT code g) g none else h

/-- A lane that loses block lock or retrains is in DL_ONLY, and its training window runs on; a RECAL of it ends FAILED (log 56); a bundle
of a Boulevard gate goes DOWN with the block lock (R160, R502, R569). -/
def toDlOnly (h : Hw) (g k : Nat) : Hw :=
  let locked := decide (2 ≤ laneState h g k)
  let h := endCtrl (leaveAligned h g k) g k rcFailed
  let h := fset h F_LANE_STATUS_STATE 1 g k
  let l := laneOf h g k
  let h := setLane h g k { l with goodRun := 0, blocks := 0, badAt := [], aligned := false, sendAlign := false }
  if boulevard h g && locked then bundleDown h g (k / 4) true else h

/-- A sync header in a lane's block stream: gain and loss of block lock (R144). -/
def syncHeader (h : Hw) (g k : Nat) (good : Bool) : Hw :=
  let st := laneState h g k
  let l := laneOf h g k
  if st == 0 then h
  else if st == 1 then
    if !good then setLane h g k { l with goodRun := 0 }
    else if l.goodRun + 1 < 64 then setLane h g k { l with goodRun := l.goodRun + 1 }
    else
      let b := boulevard h g
      let l := { l with goodRun := 0, blocks := 0, badAt := [], aligned := false, trainWin := !b, winTimer := false, sendAlign := !b, sf := [], kept := [] }
      fset (setLane h g k l) F_LANE_STATUS_STATE 2 g k
  else if good then setLane h g k { l with blocks := l.blocks + 1 }
  else
    let n := l.blocks + 1
    let at' := n :: l.badAt.filter fun x => decide (n < x + 1024)
    let h := fadd (setLane h g k { l with blocks := n, badAt := at' }) F_LANE_ERR_BLOCK_ERR 1 g k
    if 16 ≤ at'.length then toDlOnly h g k else h

/-- The lanes of a gate in use that pass a test, as a mask. -/
def lanesWhere (h : Hw) (g : Nat) (test : Nat → Bool) : Nat :=
  (List.range 16).foldl (fun a k => setBit a k (fon h F_LANE_CONFIG_IN_USE g k && test k)) 0

/-! ### HALF_RATE and the end of a takeover (R172) -/

/-- The lanes of a gate that did not acknowledge HALF_RATE are left DOWN; a RECAL of one ends FAILED (R172, R174). -/
def dropLanes (h : Hw) (g lanes : Nat) : Hw :=
  (onesOf 16 lanes).foldl (fun h k => fset (endCtrl (leaveAligned h g k) g k rcFailed) F_LANE_STATUS_STATE 0 g k) h

/-- Lanes of a gate and of its partner that did not acknowledge HALF_RATE are left DOWN and counted, and no ACK is awaited any more (R172). -/
def failHalfRate (h : Hw) (g lost plost : Nat) : Hw :=
  let p := partner g
  let h := dropLanes (dropLanes h g lost) p plost
  let h := setGate h g { gateOf h g with takeoverFails := (gateOf h g).takeoverFails + popcount 16 lost + popcount 16 plost,
                                         halfRate := ((gateOf h g).halfRate.1, 0) }
  setGate h p { gateOf h p with halfRate := ((gateOf h p).halfRate.1, 0) }

/-- A lane in block lock that changes its framer waits for an ALIGN there, and SEND_ALIGN asks for one; a RECAL of it ends FAILED (R160,
R172, R174). -/
def connectLane (h : Hw) (g k : Nat) : Hw :=
  let h := fset (endCtrl (leaveAligned h g k) g k rcFailed) F_LANE_STATUS_STATE 2 g k
  setLane h g k { laneOf h g k with aligned := false, sendAlign := true, trainWin := true, winTimer := false }

/-- A RELEASE of a gate ends: lanes that did not acknowledge are left DOWN, the partner's others are connected to their own framer again and
wait for their ALIGN there, and the takeover is reported no more (R172). -/
def releaseDone (h : Hw) (g : Nat) : Hw :=
  let p := partner g
  let h := failHalfRate h g (gateOf h g).halfRate.2 (gateOf h p).halfRate.2
  let h := setGate h g { gateOf h g with release := none }
  let h := (List.range 16).foldl (fun h k => if laneState h p k == 5 then connectLane h p k else h) h
  let h := fset (fset h F_GATE_STATUS_TAKEOVER 0 g) F_GATE_STATUS_TAKEOVER 0 p
  endCtrl (fset (fset h F_GATE_STATUS_HALF_RATE 0 g) F_GATE_STATUS_HALF_RATE 0 p) g 16 rcDone

/-- The gate of a pair whose RELEASE runs. -/
def releasing (h : Hw) (g : Nat) : Option Nat :=
  if (gateOf h g).release.isSome then some g else if (gateOf h (partner g)).release.isSome then some (partner g) else none

/-- A HALF_RATE of the RELEASE of a gate has still to go out. -/
def halfRateDue (h : Hw) (g : Nat) : Bool := [g, partner g].any fun x => (gateOf h x).dl.any fun c => c.opcode == 4 && c.tag == (gateOf h x).halfRate.1

/-- A RELEASE whose ACKs have all come ends (R172). -/
def releaseIfDone (h : Hw) (g : Nat) : Hw :=
  match releasing h g with
  | some r => if (gateOf h r).halfRate.2 == 0 && (gateOf h (partner r)).halfRate.2 == 0 then releaseDone h r else h
  | none => h

/-! ### Control blocks of the uplink (R147, R148, R155, R158, R569) -/

/-- Trained equaliser values and the eye are measured, and stored in NOR (R161). -/
def storeTraining (h : Hw) (g k : Nat) : Hw :=
  let (v, h) := freeNats h 14
  let eq := (v.take 12).zipIdx.map fun (x, i) => if i == 0 then Int.ofNat (x % 16) else Int.ofNat x
  let h := setLane h g k { laneOf h g k with eq := eq }
  let h := { h with lan := { h.lan with eqStored := tset [] h.lan.eqStored (16 * g + k) eq } }
  fset (fset h F_LANE_STATUS_EYE_H (lget 0 v 12) g k) F_LANE_STATUS_EYE_V (lget 0 v 13) g k

/-- ALIGN (R148, R155, R160): the first one aligns the lane, a later one whose SF_COUNT differs realigns it. DESIGN CHOICE: a gate that
was reset has regained alignment with its first lane (R88; log 65). -/
def onAlign (h : Hw) (g k : Nat) (body : BitVec 48) (phase : Nat) : Hw :=
  let b := body.toNat
  let tag := bits b 23 16
  let want := fget h F_LANE_CONFIG_FE_TAG g k
  let h := if want != 0xFF && tag != want then fset (fadd h F_LANE_ERR_BLOCK_ERR 1 g k) F_LANE_STATUS_SWAPPED 1 g k else h
  let l := laneOf h g k
  if l.aligned then
    let h := if bits b 47 32 == l.sfCount then h else fadd h F_LANE_ERR_BLOCK_ERR 1 g k
    setLane h g k { laneOf h g k with sfCount := 0 }
  else
    let h := setLane h g k { l with aligned := true, sfCount := 0, sf := [], kept := [], sfBad := false, timedOut := false, sendAlign := false,
                                    winTimer := l.trainWin }
    let h := fset h F_LANE_STATUS_STATE (if fget h F_GATE_STATUS_TAKEOVER g == 2 then 5 else 3) g k
    let h := fset h F_LANE_STATUS_PHASE phase g k
    let h := fset h F_GATE_STATUS_LANES_READY (setBit (fget h F_GATE_STATUS_LANES_READY g) k true) g
    let h := match logicGate h g with
      | some lg => setGate h lg { gateOf h lg with realign := false }
      | none => h
    storeTraining h g k

/-- STATUS: the last CODE is kept and the front-end source raised (R155). -/
def onStatus (h : Hw) (g k : Nat) (body : BitVec 48) : Hw :=
  raiseSource (fset h F_LANE_STATUS_FE_CODE (bits body.toNat 15 0) g k) (srcGate g 1)

/-- ACK: of the pending command, of HALF_RATE, of the SEND_ALIGN of training, of the latest broadcast, or a late one (R158, R172, R569). -/
def onAck (h : Hw) (g k : Nat) (body : BitVec 48) : Hw :=
  let b := body.toNat
  let tag := bits b 7 0
  let l := laneOf h g k
  let v := gateOf h g
  if v.dlLane == some (k, tag) then
    let h := fset (fset h F_GATE_DL_ACK_TAG tag g) F_GATE_DL_ACK_FE_RESULT (bits b 15 8) g
    endCmd (fset h F_GATE_DL_ACK_DATA (bits b 47 16) g) g 3
  else if bit v.halfRate.2 k && v.halfRate.1 == tag then
    releaseIfDone (setGate h g { v with halfRate := (tag, setBit v.halfRate.2 k false) }) g
  else if l.trainWin && tag == 0 then setLane h g k { l with trainWin := false, winTimer := false }
  else if v.bcast == some tag then h
  else fadd h F_GATE_DL_ACK_LATE_ACKS 1 g

/-- A control block with its CHECK, by TYPE: a bad or unknown one is discarded and counted, and every one ends the current
superframe (R144, R147, R148, R155). On a Boulevard lane the readout types are bad control blocks (R497). -/
def onControl (h : Hw) (g k : Nat) (type : Nat) (body : BitVec 48) (good : Bool) (phase : Nat) : Hw :=
  let st := laneState h g k
  if st < 2 then h
  else
    let known := [0x1E, 0x2D, 0x33, 0x4B, 0x55].contains type
    if boulevard h g then
      if good && (type == 0x1E || [0x96, 0xA5, 0xB4, 0xC3, 0xD2, 0xE1].contains type) then h else fadd h F_LANE_ERR_BLOCK_ERR 1 g k
    else
      let h := if laneUp h g k then cutSf h g k else h
      if !good || !known then fadd h F_LANE_ERR_BLOCK_ERR 1 g k
      else if type == 0x2D then onAlign h g k body phase
      else if !laneUp h g k then h
      else if type == 0x33 then onStatus h g k body
      else if type == 0x4B then onAck h g k body
      else if type == 0x55 then fadd h F_LANE_ERR_HDR_ERR 1 g k
      else h

/-- A received control block: descrambler, sync header, then its handling. The lane must have been in block lock before it. The inputs of a gate
that is not in use are ignored (R34). -/
def controlBlock (h : Hw) (g k : Nat) (type : Nat) (body : BitVec 48) (check : BitVec 8) (phase : Nat := 0) : Hw :=
  let was := laneState h g k
  let p := controlPayload type body check
  let l := laneOf h g k
  if was == 0 || !gateInUse h g then h
  else
    let h := syncHeader (setLane h g k { l with hist := scrambleHist l.hist p }) g k true
    if was < 2 then h else onControl h g k type body (check == crc8 p) phase

/-- Words a gate's framer has taken in the present gate cycle (R173). -/
def framedNow (h : Hw) (lg : Nat) : Nat :=
  let v := gateOf h lg
  if v.framed.1 == h.now / 64 then v.framed.2 else 0

/-- In a takeover the words beyond 8 in one gate cycle are discarded and counted; NULL words are filler and take no place (R173). -/
def overrunWords (h : Hw) (lg : Nat) (sf : List (BitVec 64)) : List Nat → Hw × List (BitVec 36)
  | [] => (h, [])
  | i :: r =>
    let w := sfWord sf i
    if fget h F_GATE_STATUS_TAKEOVER lg == 1 && !w.getLsbD 32 then
      let n := framedNow h lg
      if 8 ≤ n then overrunWords (fadd h F_GATE_HB_STATUS_OVERRUN 1 lg) lg sf r
      else
        let (h, l) := overrunWords (setGate h lg { gateOf h lg with framed := (h.now / 64, n + 1) }) lg sf r
        (h, w :: l)
    else
      let (h, l) := overrunWords h lg sf r
      (h, w :: l)

/-- A data block of a superframe (R144 to R146, R148). -/
def dataPayload (h : Hw) (g k : Nat) (p : BitVec 64) (good : Bool) : Hw :=
  if !laneUp h g k || boulevard h g then h
  else
    let l := laneOf h g k
    let l := { l with sf := l.sf ++ [p], sfBad := l.sfBad || !good, sfCount := if l.sf.isEmpty then (l.sfCount + 1) % 65536 else l.sfCount }
    let h := setLane h g k l
    let n := l.sf.length
    let h := match logicGate h g with
      | some lg =>
        let (h, words) := overrunWords h lg l.sf (wordsDone n)
        let (h, ws) := frameWords h g k lg words
        searchWords h g k lg ws
      | none => h
    if n == 16 then
      let sf := (laneOf h g k).sf
      endSf h g k (crc16 sf == BitVec.ofNat 16 ((lget 0 sf 15).toNat / 2 ^ 48) && !(laneOf h g k).sfBad)
    else h

/-- DATA_BLOCK: a block with its sync header, bit 1 sent first. A valid control header delivers a control block, whose arrival phase is
open (R140; log 7); an invalid header counts as a data block of a superframe that fails (R142, R144). The inputs of a gate that is not in
use are ignored (R34). -/
def execDataBlock (g : Fin 64) (k : Fin 16) (sync : BitVec 2) (raw : BitVec 64) (s : State) : Host.Outcome State Fault Refusal :=
  .next (s.upd fun h =>
    let g := g.val
    let k := k.val
    let was := laneState h g k
    if was == 0 || !gateInUse h g then h
    else
      let l := laneOf h g k
      let (p, hist) := descramble l.hist raw
      let h := setLane h g k { l with hist := hist }
      let good := sync == 1#2 || sync == 2#2
      let h := syncHeader h g k good
      if was < 2 || laneState h g k < 2 then h
      else if sync == 2#2 then
        let (n, h) := takeFree h
        onControl h g k (p.toNat % 2 ^ 8) (BitVec.ofNat 48 (p.toNat / 2 ^ 8)) (BitVec.ofNat 8 (p.toNat / 2 ^ 56) == crc8 p)
          (Config.freeNat n % 64)
      else dataPayload h g k p good)

/-- UPLINK_IDLE (R147, R155). -/
def execUplinkIdle (g : Fin 64) (k : Fin 16) (check : BitVec 8) (s : State) : Host.Outcome State Fault Refusal :=
  .next (s.upd fun h => controlBlock h g.val k.val 0x1E 0 check)

/-- ALIGN (R148, R155, R160). -/
def execAlign (g : Fin 64) (k : Fin 16) (body : BitVec 48) (check : BitVec 8) (phase : BitVec 6) (s : State) :
    Host.Outcome State Fault Refusal :=
  .next (s.upd fun h => controlBlock h g.val k.val 0x2D body check phase.toNat)

/-- STATUS (R155). -/
def execStatus (g : Fin 64) (k : Fin 16) (body : BitVec 48) (check : BitVec 8) (s : State) : Host.Outcome State Fault Refusal :=
  .next (s.upd fun h => controlBlock h g.val k.val 0x33 body check)

/-- ACK (R158, R569). -/
def execAck (g : Fin 64) (k : Fin 16) (body : BitVec 48) (check : BitVec 8) (s : State) : Host.Outcome State Fault Refusal :=
  .next (s.upd fun h => controlBlock h g.val k.val 0x4B body check)

/-- FE_LOSS (R155). -/
def execFeLoss (g : Fin 64) (k : Fin 16) (body : BitVec 48) (check : BitVec 8) (s : State) : Host.Outcome State Fault Refusal :=
  .next (s.upd fun h => controlBlock h g.val k.val 0x55 body check)

/-! ### The downlink (R156 to R158) -/

/-- The lanes of a gate in use (R22, R114, R160). -/
def usedLanes (h : Hw) (g : Nat) : List Nat := (List.range 16).filter fun k => gateInUse h g && fon h F_LANE_CONFIG_IN_USE g k

/-- Markers that every sending lane has sent, or whose boundary has passed by four block periods, are forgotten. -/
def tidyMarkers (h : Hw) (g : Nat) : Hw :=
  let v := gateOf h g
  let all := lanesWhere h g fun k => decide (1 ≤ laneState h g k)
  let u := blockUnits (fget h F_GATE_CONFIG_RATE g)
  setGate h g { v with markers := v.markers.filter fun m => m.sent.land all != all && decide (h.now * 125 < m.due + 4 * u) }

/-- The body of a TURN or MARK block (R155). -/
def markerBody (m : Marker) : Nat × Nat :=
  if m.isTurn then (0x78, m.turn + m.phase * 2 ^ 32) else (0x66, m.crossing + m.turn % 2 ^ 24 * 2 ^ 16 + m.phase * 2 ^ 40)

/-- A lane sends a control block: its TYPE, BODY and CHECK, scrambled behind a sync header of 1 then 0 (R142, R143). -/
def sendBlock (h : Hw) (g k : Nat) (b : Nat × Nat) : Hw :=
  let l := laneOf h g k
  let body := BitVec.ofNat 48 b.2
  let w := scramble l.txHist (controlPayload b.1 body (crc8 (controlPayload b.1 body 0)))
  setLane h g k { l with sent := some b, wire := some (2#2, w.1), txHist := w.2 }

/-- DOWNLINK_BLOCK_SLOT: TURN, then MARK, then CMD, then IDLE; nothing where the gate does not send (R47, R156). -/
def execDownlinkBlockSlot (g : Fin 64) (k : Fin 16) (s : State) : Host.Outcome State Fault Refusal :=
  .next (s.upd fun h =>
    let g := g.val
    let k := k.val
    if laneState h g k == 0 || boulevard h g || !gateSends h g then h
    else
      let v := gateOf h g
      let l := laneOf h g k
      let due := v.markers.filter fun m => decide (m.due ≤ h.now * 125) && !bit m.sent k
      match ((due.find? (·.isTurn)).or due.head?) with
      | some m =>
        let h := setGate h g { v with markers := v.markers.map fun x => if x == m then { x with sent := setBit x.sent k true } else x,
                                      lastTurn := if m.isTurn then some m.due else v.lastTurn }
        tidyMarkers (sendBlock h g k (markerBody m)) g
      | none =>
        match v.dl.find? fun c => bit c.lanes k with
        | some c =>
          let dl := (v.dl.map fun x => if x == c then { x with lanes := setBit x.lanes k false } else x).filter fun x => x.lanes != 0
          sendBlock (setGate h g { v with dl := dl }) g k (0x87, c.tag + c.opcode * 2 ^ 8 + c.arg * 2 ^ 16)
        | none =>
          if l.sendAlign then sendBlock (setLane h g k { l with sendAlign := false }) g k (0x87, 2 * 2 ^ 8)
          else sendBlock h g k (0x1E, 0))

/-- A write to GATE_DL_CMD; BUSY while a command is pending, the sequencer is held, or the lane is in its training window (R134, R158,
R569). DESIGN CHOICE: LANE 16 to 30, which the table of GATE_DL_CMD does not define, names no lane and ends LANE_DOWN (log 79). -/
def writeDlCmd (h : Hw) (g lane opcode arg : Nat) : Hw :=
  let h := fset h F_GATE_DL_CMD_SEQ (fget h F_GATE_DL_CMD_SEQ g + 1) g
  let tag := fget h F_GATE_DL_CMD_SEQ g
  let v := gateOf h g
  let cmd := fun lanes => ({ tag := tag, opcode := opcode, arg := arg, lanes := lanes } : DlCmd)
  let busy := v.dlLane.isSome || seqHeld h g || (decide (lane < 16) && (laneOf h g lane).trainWin)
  if busy then fset h F_GATE_DL_CMD_RESULT 5 g
  else if lane == 31 then
    let sel := lanesWhere h g (laneUp h g)
    let h := setGate h g { v with dl := if sel == 0 then v.dl else v.dl ++ [cmd sel], bcast := some tag }
    fset h F_GATE_DL_CMD_RESULT 1 g
  else if 16 ≤ lane || !laneUp h g lane then fset h F_GATE_DL_CMD_RESULT 7 g
  else
    let h := setGate h g { v with dl := v.dl ++ [cmd (2 ^ lane)], dlLane := some (lane, tag) }
    fset h F_GATE_DL_CMD_RESULT 2 g

def execGateDlCmd (who : Requester) (g : Fin 64) (lane : BitVec 5) (opcode : BitVec 8) (arg : BitVec 32) (s : State) :
    Host.Outcome State Fault Refusal :=
  .next (s.upd fun h => ifMay h who R_GATE_DL_CMD g.val 0 fun h => writeDlCmd h g.val lane.toNat opcode.toNat arg.toNat)

/-- DL_TIMEOUT: no ACK came in time after the CMD block left: the pending command ends, or else a RELEASE that waits for ACKs of HALF_RATE goes
on without them (R158, R172). -/
def execDlTimeout (g : Fin 64) (s : State) : Host.Outcome State Fault Refusal :=
  .next (s.upd fun h =>
    let v := gateOf h g.val
    match v.dlLane with
    | some (_, tag) => if v.dl.any fun c => c.tag == tag then h else endCmd h g.val 4
    | none =>
      match releasing h g.val with
      | some r => if halfRateDue h r then h else releaseDone h r
      | none => h)

/-! ### Training and equalisation (R160 to R162, R569) -/

/-- TRAINING_SEND_ALIGN: a lane in BLOCK_LOCK is sent SEND_ALIGN again (R569). -/
def execTrainingSendAlign (g : Fin 64) (k : Fin 16) (s : State) : Host.Outcome State Fault Refusal :=
  .next (s.upd fun h =>
    if laneState h g.val k.val == 2 && !boulevard h g.val then setLane h g.val k.val { laneOf h g.val k.val with sendAlign := true } else h)

/-- TRAINING_WINDOW_END: DL_TIMEOUT has passed since the lane entered ALIGNED in this window (R569). -/
def execTrainingWindowEnd (g : Fin 64) (k : Fin 16) (s : State) : Host.Outcome State Fault Refusal :=
  .next (s.upd fun h =>
    let l := laneOf h g.val k.val
    if l.trainWin && l.winTimer then setLane h g.val k.val { l with trainWin := false, winTimer := false } else h)

/-- TRAINING_TIMEOUT: a lane that has not aligned stays in DL_ONLY (R160). -/
def execTrainingTimeout (g : Fin 64) (k : Fin 16) (s : State) : Host.Outcome State Fault Refusal :=
  .next (s.upd fun h =>
    let g := g.val
    let k := k.val
    if laneState h g k == 1 || laneState h g k == 2 then
      let h := toDlOnly h g k
      setLane h g k { laneOf h g k with timedOut := true }
    else h)

/-- The receiver begins training from the stored values or from defaults (R161). DESIGN CHOICE: the default coefficients are 0, which the spec
leaves open (log 80). -/
def startTraining (h : Hw) (g k : Nat) : Hw :=
  let eq := if fon h F_LANE_CONFIG_EQ_STORED g k then tget [] h.lan.eqStored (16 * g + k) else []
  let h := fset h F_LANE_STATUS_STATE 1 g k
  bundleTrain (setLane h g k { laneOf h g k with goodRun := 0, eq := if eq.length == 12 then eq else List.replicate 12 0 }) g (k / 4)

/-- TRAINING_RETRY (R160). -/
def execTrainingRetry (g : Fin 64) (k : Fin 16) (s : State) : Host.Outcome State Fault Refusal :=
  .next (s.upd fun h =>
    if laneState h g.val k.val == 1 && (laneOf h g.val k.val).timedOut then startTraining h g.val k.val else h)

/-- A command of GATE_CTRL with its result; RESULT is that of the latest one, which `own` numbers while it runs (R162, R172, R174). -/
def gateCtrl (who : Requester) (g own : Nat) (run : Hw → Hw × Nat) (h : Hw) : Hw :=
  ifMay h who R_GATE_CTRL g 0 fun h =>
    let (h, code) := run h
    setCtrl (answer h F_GATE_CTRL_RESULT F_GATE_CTRL_SEQ code g) g (if code == rcRunning then some own else none)

/-- RECAL (R162). A lane that is DOWN or served by the partner is not ALIGNED: REFUSED. -/
def execRecal (who : Requester) (g : Fin 64) (k : Fin 16) (s : State) : Host.Outcome State Fault Refusal :=
  .next (s.upd (gateCtrl who g.val k.val fun h =>
    let st := laneState h g.val k.val
    if st == 3 then (fset h F_LANE_STATUS_STATE 4 g.val k.val, rcRunning)
    else if st == 1 || st == 2 || st == 4 then (h, rcBusy) else (h, rcRefused)))

/-- RECAL_DONE (R162). -/
def execRecalDone (g : Fin 64) (k : Fin 16) (s : State) : Host.Outcome State Fault Refusal :=
  .next (s.upd fun h =>
    let g := g.val
    if laneState h g k.val == 4 then
      endCtrl (storeTraining (fset h F_LANE_STATUS_STATE 3 g k.val) g k.val) g k.val rcDone
    else h)

/-- RETRAIN: the lane goes through DOWN and trains afresh; REFUSED for a lane of a gate that is not in use, and while the gate's partition is in
reset (R22, R87, R162; log 56). DESIGN CHOICE: RESULT reads DONE at once, not RUNNING until the lane is ALIGNED again, which the spec
leaves open (log 81). -/
def execRetrain (who : Requester) (g : Fin 64) (k : Fin 16) (s : State) : Host.Outcome State Fault Refusal :=
  .next (s.upd (gateCtrl who g.val k.val fun h =>
    let st := laneState h g.val k.val
    if st == 1 || st == 2 || st == 4 then (h, rcBusy)
    else if gateInUse h g.val && fon h F_LANE_CONFIG_IN_USE g.val k.val && !ownerResets h g.val then (startTraining (toDlOnly h g.val k.val) g.val k.val, rcDone)
    else (h, rcRefused)))

/-- A coefficient moved by at most one step; the CTLE keeps within its 16 steps (R161, R162). -/
def stepCoeff (i : Nat) (e m : Int) : Int :=
  let v := e + max (-1) (min 1 m)
  if i == 0 then max 0 (min 15 v) else v

/-- BG_ADAPT_STEP: each coefficient moves by at most one step (R162). -/
def execBgAdaptStep (g : Fin 64) (k : Fin 16) (moves : List Int) (s : State) : Host.Outcome State Fault Refusal :=
  .next (s.upd fun h =>
    let l := laneOf h g.val k.val
    if fon h F_LANE_CONFIG_BG_ADAPT g.val k.val && laneUp h g.val k.val then
      setLane h g.val k.val { l with eq := l.eq.zipIdx.map fun (e, i) => stepCoeff i e (lget 0 moves i) }
    else h)

/-! ### Takeover (R171 to R173) -/

/-- What R171 asks of a takeover by gate `g`. -/
def mayTakeOver (h : Hw) (g : Nat) : Bool :=
  let p := partner g
  (gateOf h p).retired && (ownerGate h g).isSome && ownerGate h g == ownerGate h p && fget h F_GATE_CONFIG_PERSONALITY g == 1 &&
    fget h F_GATE_CONFIG_PERSONALITY p == 1 && fon h F_GATE_CONFIG_TAKEOVER_EN g && fget h F_GATE_STATUS_TAKEOVER g == 0 &&
    fget h F_GATE_STATUS_TAKEOVER p == 0

/-- HALF_RATE goes to every ALIGNED lane of a gate, which are noted as those that must ACK it (R159, R172). DESIGN CHOICE: the module sends it,
no write numbers it, and the spec gives it no TAG; it carries TAG 0 as the SEND_ALIGN of training does, or 0xFF while a command with TAG 0 is
pending, so that its ACK ends no command and the latest broadcast keeps its TAG (log 82). -/
def sendHalfRate (h : Hw) (g arg : Nat) : Hw :=
  let sel := lanesWhere h g (laneUp h g)
  let v := gateOf h g
  let tag := match v.dlLane with | some (_, 0) => 0xFF | _ => 0
  setGate h g { v with dl := if sel == 0 then v.dl else v.dl ++ [{ tag := tag, opcode := 4, arg := arg, lanes := sel }], halfRate := (tag, sel) }

/-- TAKEOVER (R171, R172). -/
def execTakeover (who : Requester) (g : Fin 64) (s : State) : Host.Outcome State Fault Refusal :=
  .next (s.upd (gateCtrl who g.val 16 fun h =>
    let g := g.val
    if (gateOf h g).takeover.isSome || (gateOf h g).release.isSome then (h, rcBusy)
    else if !mayTakeOver h g then (h, rcRefused)
    else
      let own := lanesWhere h g (laneUp h g)
      let oth := lanesWhere h (partner g) (laneUp h (partner g))
      let h := sendHalfRate (sendHalfRate h g 1) (partner g) 1
      (setGate h g { gateOf h g with takeover := some (own, oth) }, rcRunning)))

/-- TAKEOVER_COMPLETE: lanes that did not acknowledge, neither by the operands nor by an ACK before, are left DOWN and counted, the partner's
others are connected to this gate's framer and wait for their ALIGN, and the takeover is reported (R172). -/
def execTakeoverComplete (g : Fin 64) (ownAcks partnerAcks : BitVec 16) (s : State) : Host.Outcome State Fault Refusal :=
  .next (s.upd fun h =>
    let g := g.val
    let p := partner g
    match (gateOf h g).takeover with
    | none => h
    | some (own, oth) =>
      let lost := (own.land (gateOf h g).halfRate.2) - (own.land (gateOf h g).halfRate.2).land ownAcks.toNat
      let plost := (oth.land (gateOf h p).halfRate.2) - (oth.land (gateOf h p).halfRate.2).land partnerAcks.toNat
      let h := failHalfRate h g lost plost
      let h := setGate h g { gateOf h g with takeover := none }
      let h := (onesOf 16 (oth - oth.land plost)).foldl (fun h k => if laneUp h p k then connectLane h p k else h) h
      let h := fset (fset h F_GATE_STATUS_TAKEOVER 1 g) F_GATE_STATUS_TAKEOVER 2 p
      let h := fset (fset h F_GATE_STATUS_HALF_RATE 1 g) F_GATE_STATUS_HALF_RATE 1 p
      endCtrl h g 16 rcDone)

/-- RELEASE reverses the steps of a takeover: HALF_RATE with ARG 0 goes to all ALIGNED lanes of both gates and its ACKs are awaited, and
`releaseDone` follows; refused unless the partner's gate logic is back in service (R172). -/
def execRelease (who : Requester) (g : Fin 64) (s : State) : Host.Outcome State Fault Refusal :=
  .next (s.upd (gateCtrl who g.val 16 fun h =>
    let g := g.val
    let p := partner g
    if (gateOf h g).release.isSome then (h, rcBusy)
    else if fget h F_GATE_STATUS_TAKEOVER g != 1 || (gateOf h p).retired then (h, rcRefused)
    else
      let sel := (lanesWhere h g (laneUp h g), lanesWhere h p (laneUp h p))
      let h := sendHalfRate (sendHalfRate h g 0) p 0
      let h := setGate h g { gateOf h g with release := some sel }
      if sel == (0, 0) then (releaseDone h g, rcDone) else (h, rcRunning)))

end Sys2Proof.Machine
end

