-- ==== Sys2Proof/Machine/Assembly.lean ====
section
/-!
DEFINITION. From a final acceptance to an enqueued event: stamps, OPEN and DROP, fragments, assembly entries and event records.
-/

namespace Sys2Proof.Machine

/-! ### Results of operations (R245) -/

def rbOk : Nat := 0
def rbNone : Nat := 1
def rbFull : Nat := 2
def rbQuota : Nat := 3
def rbDisabled : Nat := 4
def rbHeld : Nat := 5
def rbBadHandle : Nat := 6
def rbForeign : Nat := 7
def rbTooLate : Nat := 8
def rbCancelled : Nat := 9

/-- Roundabout is held: M3 and M7, and every mode below (R71). -/
def rbtHeld (h : Hw) : Bool := fon h F_RBT_STATUS_HELD

/-- Partition `p` is in reset. -/
def inReset (h : Hw) (p : Nat) : Bool := bit (fget h F_PART_RESET_BUSY) p

/-! ### Enqueue and spill (R230, R236, R238) -/

/-- Whether an item is enqueued and not released. -/
def unreleased (fl : Flow) : Nat := (fl.items.filter fun i => !isReleased i).length

/-- Blocks of 63 items that a partition's overflow segments take, with `extra` items more on flow `f` (R238). -/
def blocksUsed (h : Hw) (p f extra : Nat) : Nat :=
  let fs := flowsOf h p
  let n := fun (e : Nat × Flow) => overflowItems e.2 + (if e.1 == f then extra else 0)
  ((fs.map fun e => (n e + 62) / 63).sum) + (if fs.any fun e => e.1 == f then 0 else (extra + 62) / 63)

/-- The next on-chip entry is not for this flow: it spills already, or a limit is reached (R236). -/
def mustSpill (h : Hw) (p : Nat) (fl : Flow) : Bool :=
  decide (0 < overflowItems fl) || decide (fget h F_RBT_PART_LIMITS_ONCHIP 0 p * 64 ≤ fget h F_RBT_PART_USE_ONCHIP_USED 0 p) ||
    decide (65536 ≤ fget h F_RBT_STATUS_ONCHIP_USED)

/-- Enqueue an item of partition `p` on flow `f`, with the result of R245 (R230, R236, R238). -/
def enqueue (h : Hw) (p f : Nat) (it : Item) : Hw × Nat :=
  if rbtHeld h then (h, rbHeld)
  else if ownerFlow h f != some p then (h, rbForeign)
  else if flowGet h F_RBT_FLOW_CFG_EN f == 0 then (h, rbDisabled)
  else
    let fl := flowOf h f
    if 1048575 ≤ unreleased fl then (h, rbFull)
    else
      let spill := mustSpill h p fl
      if spill && decide (quotaOf h p 2 ≤ fget h F_RBT_PART_USE_OVF_USED 0 p) then (h, rbQuota)
      else if spill && decide (fget h F_RBT_PART_OVF_BLOCKS 0 p < blocksUsed h p f 1) then (h, rbFull)
      else
        let new := { it with seq := fl.enq, at_ := h.now, onChip := !spill, st := .waiting, keep := false }
        let h := setFlow h f { fl with enq := (fl.enq + 1) % 2 ^ 20, items := fl.items ++ [new] }
        let h := pmu pmuRbt h 0 1 1 (some p)
        let h := if spill then pmu pmuRbt h 0 4 1 (some p) else h
        (refreshItems h f, rbOk)

/-- The handle of the item enqueued last on a flow (R229). -/
def lastHandle (h : Hw) (f : Nat) : Nat := f % 4096 * 2 ^ 20 + ((flowOf h f).enq + 2 ^ 20 - 1) % 2 ^ 20

/-! ### The fragment ring (R218) -/

/-- The tail passes freed fragments in ring order (R218). -/
def advanceTail (h : Hw) (g : Nat) : Hw :=
  let v := gateOf h g
  let ring := v.ring.dropWhile (·.freed)
  let h := setGate h g { v with ring := ring }
  fset h F_GATE_FRAG_STATUS_TAIL (match ring with | r :: _ => r.offset | [] => fget h F_GATE_FRAG_STATUS_HEAD g) g

/-- Free the fragment of a gate at a ring offset. -/
def freeFragment (h : Hw) (g off : Nat) : Hw :=
  let v := gateOf h g
  advanceTail (setGate h g { v with ring := v.ring.map fun r => if r.offset == off && !r.freed then { r with freed := true } else r }) g

/-- Ring offset in 64 B units of a fragment address. -/
def ringOffset (h : Hw) (g addr : Nat) : Nat := (addr - fget h F_GATE_FRAG_RING_BASE_4K g * 4096) / 64

/-! ### Event records (R222, R223, R227) -/

/-- Address of the directory slot of an event (R227). -/
def slotAddr (h : Hw) (p evseq : Nat) : Nat :=
  fget h F_RBT_PART_EVD_BASE_4K 0 p * 4096 +
    fget h F_RBT_PART_EVCFG_SLOT_LINES 0 p * 64 * (evseq % 2 ^ (min 24 (max 8 (fget h F_RBT_PART_EVD_SLOTS_LOG2 0 p))))

/-- The slot number of an event. -/
def slotNo (h : Hw) (p evseq : Nat) : Nat := evseq % 2 ^ (min 24 (max 8 (fget h F_RBT_PART_EVD_SLOTS_LOG2 0 p)))

/-- The report of a gate in an entry. -/
def reportOf (e : AsmEntry) (g : Nat) : Option Report := tfind e.reports g

/-- One gate's descriptor (R227). -/
def descriptor : Option Report → Nat
  | some (.frag a len fl) => a / 64 % 2 ^ 46 * 2 ^ 18 + len / 64 * 2 ^ 6 + 32 + (if bit fl 0 then 16 else 0) + (if bit fl 1 then 8 else 0)
  | some (.empty inc) => 2 + (if inc then 16 else 0)
  | some .partner => 4
  | none => 0

/-- Whether any report passes a test. -/
def anyReport (e : AsmEntry) (t : Report → Bool) : Bool := e.reports.any fun r => t r.2

def isFrag : Report → Bool | .frag _ _ _ => true | _ => false
def isIncomplete : Report → Bool | .frag _ _ f => bit f 0 | .empty i => i | .partner => false
def isPoison : Report → Bool | .frag _ _ f => bit f 1 | _ => false
def isTakeover : Report → Bool | .frag _ _ f => bit f 3 | _ => false

/-- The crossing has no event: no fragment, and no EMPTY with INCOMPLETE (R223). -/
def noEvent (e : AsmEntry) : Bool := !anyReport e fun r => match r with | .frag _ _ _ => true | .empty i => i | .partner => false

/-- A stamp as 48 bits. -/
def stampBits (s : Stamp) : Nat := s.turn % 2 ^ 32 * 2 ^ 16 + s.crossing % 2 ^ 16

/-- STATUS of an event record (R227). -/
def eventStatus (e : AsmEntry) : Nat :=
  b2n (e.closed == some true) + 2 * b2n (e.closed == some false) + 4 * b2n (anyReport e isIncomplete) + 8 * b2n (anyReport e isPoison) +
    16 * b2n (anyReport e isTakeover)

/-- The bytes of an event record (R227). -/
def eventRecord (e : AsmEntry) : List Byte :=
  let frags := e.reports.filter fun r => isFrag r.2
  let total := (frags.map fun r => match r.2 with | .frag _ l _ => l | _ => 0).sum
  leBytes 8 (stampBits e.stamp) ++ leBytes 8 e.evseq ++ leBytes 8 e.expect ++
    leBytes 8 (e.reports.foldl (fun a r => setBit a r.1 true) 0) ++ leBytes 8 e.openTime ++ leBytes 8 e.closeTime ++
    leBytes 4 total ++ leBytes 2 frags.length ++ leBytes 1 (eventStatus e) ++ zeros 9 ++
    (onesOf 64 e.expect).flatMap fun g => leBytes 8 (descriptor (reportOf e g))

/-- The entry of an event. -/
def entryOf (h : Hw) (p evseq : Nat) : Option AsmEntry := h.rbt.entries.find? fun e => e.part == p && e.evseq == evseq

/-- Replace the entry of an event. -/
def putEntry (h : Hw) (e : AsmEntry) : Hw :=
  let l := h.rbt.entries.map fun x => if x.part == e.part && x.evseq == e.evseq then e else x
  { h with rbt := { h.rbt with entries := l } }

/-- Remove the entry of an event. -/
def dropEntry (h : Hw) (p evseq : Nat) : Hw :=
  refreshUse { h with rbt := { h.rbt with entries := h.rbt.entries.filter fun e => !(e.part == p && e.evseq == evseq) } } p

/-- An entry closes: its record is written in the directory slot unless the crossing has no event (R220, R222, R223). -/
def closeEntry (h : Hw) (m : Mem) (e : AsmEntry) (complete : Bool) : Eff :=
  let e := { e with closed := some complete, closeTime := gateTime h }
  if noEvent e then { hw := putEntry h e }
  else
    let r := agentStore h m (ioAsker h (.roundabout (Fin.ofNat 8 e.part))) (slotAddr h e.part e.evseq) (eventRecord e)
    r.map fun h => putEntry h e

/-- Handle a gate's report: the entry takes it, and closes COMPLETE once every expected gate has reported; a FRAG of a closed
entry is late and freed at once (R217, R220, R221). -/
def report (h : Hw) (m : Mem) (p evseq g : Nat) (r : Report) : Eff :=
  let late : Eff := { hw := match r with
    | .frag a _ _ => freeFragment (fadd h F_RBT_PART_DROPS_LATE_FRAG 1 0 p) g (ringOffset h g a)
    | _ => h }
  match entryOf h p evseq with
  | none => late
  | some e =>
    if e.closed.isSome then late
    else
      let e := { e with reports := tins e.reports g r }
      let h := putEntry h e
      if (onesOf 64 e.expect).all fun g => (reportOf e g).isSome then closeEntry h m e true else { hw := h }

/-- Roundabout handles a gate's report: for the gate itself, and in takeover for its partner (R217, R225). -/
def takeReport (h : Hw) (m : Mem) (g evseq : Nat) (r : Report) : Eff :=
  match ownerGate h g with
  | none => { hw := h }
  | some p =>
    let e := report h m p evseq g r
    if fget h F_GATE_STATUS_TAKEOVER g == 1 then
      e.next m fun h m => match entryOf h p evseq with
        | some x => if bit x.expect (partner g) then
            report h m p evseq (partner g) (match r with | .frag _ _ _ => .partner | r => r) else { hw := h }
        | none => { hw := h }
    else e

/-- A gate's report arrives at H1; while Roundabout is held it waits there (R217, R249). -/
def gateReport (h : Hw) (m : Mem) (g evseq : Nat) (r : Report) : Eff :=
  if rbtHeld h then { hw := { h with rbt := { h.rbt with waitReports := h.rbt.waitReports ++ [(g, evseq, r)] } } }
  else takeReport h m g evseq r

/-- Roundabout runs again and handles the reports that waited, in arrival order (R249). -/
def takeReports (h : Hw) (m : Mem) : Eff :=
  if rbtHeld h then { hw := h }
  else effFold { h with rbt := { h.rbt with waitReports := [] } } m (fun h m x => takeReport h m x.1 x.2.1 x.2.2) h.rbt.waitReports

/-! ### Final acceptances (R197, R215 to R217) -/

/-- Insert a record before the first later stamp. -/
def insertAcc (h : Hw) (a : AccRec) : List AccRec → List AccRec
  | [] => [a]
  | b :: r => if earlier h a.stamp b.stamp then a :: b :: r else b :: insertAcc h a r

/-- Every gate frees the records that it no longer needs (R169). -/
def purgeGates (h : Hw) : Hw :=
  (List.range 64).foldl (fun h g => if (gateOf h g).hb.isEmpty && (gateOf h g).hdrs.isEmpty then h else purgeGate h g) h

/-- ACCEPTANCE_FINAL: final acceptances go to Roundabout in crossing order; gates free what nobody accepted (R169, R197, R215). -/
def execAcceptanceFinal (s : State) : Host.Outcome State Fault Refusal :=
  .next (s.upd fun h =>
    let (h, fin) := finalSet h
    let sorted := fin.foldl (fun l a => insertAcc h a l) []
    purgeGates { h with ave := { h.ave with accFinal := h.ave.accFinal ++ sorted } })

/-- Send a message to the gates of a set; a gate served by its partner has none of its own, and one that has been reset and has not
regained superframe alignment takes none (R88, R225). -/
def sendGates (h : Hw) (gates : Nat) (m : GateMsg) : Hw :=
  (onesOf 64 gates).foldl (fun h g =>
    if fget h F_GATE_STATUS_TAKEOVER g == 2 || (gateOf h g).realign then h else setGate h g { gateOf h g with msgs := (gateOf h g).msgs ++ [m] }) h

/-- The directory slot of an event is held by an unfreed event or an entry (R215, R227). -/
def slotHeld (h : Hw) (p evseq : Nat) : Bool :=
  let n := slotNo h p evseq
  (h.rbt.events.any fun e => e.part == p && e.slot == n) ||
    h.rbt.entries.any fun e => e.part == p && slotNo h p e.evseq == n

/-- The three tests of R215 in order; none: an entry may open. -/
def dropReason (h : Hw) (p : Nat) : Option Field :=
  if quotaOf h p 1 ≤ (entriesOf h p).length then some F_RBT_PART_DROPS_DROP_QUOTA
  else if 2048 ≤ h.rbt.entries.length then some F_RBT_PART_DROPS_DROP_FULL
  else if slotHeld h p (tget 0 h.rbt.evseq p) then some F_RBT_PART_DROPS_DROP_EVD
  else none

/-- Handle one final stamp for one partition (R215, R216, R220). -/
def stampFor (h : Hw) (a : AccRec) (p : Nat) : Hw :=
  let expect := fget h F_RBT_PART_EXPECT_GATES 0 p
  if inReset h p || partDown h p || expect == 0 then h
  else
    match dropReason h p with
    | some f => raiseSource (sendGates (fadd h f 1 0 p) expect (.drop a.stamp)) (srcPart p 0)
    | none =>
      let n := tget 0 h.rbt.evseq p
      let tmo := max 1 (fget h F_RBT_PART_EVCFG_TMO_TICKS 0 p)
      let e : AsmEntry := { part := p, stamp := a.stamp, evseq := n, expect := expect, openTime := gateTime h,
                            due := h.rbt.tick + 1 + tmo }
      let r := { h.rbt with entries := h.rbt.entries ++ [e], evseq := tset 0 h.rbt.evseq p ((n + 1) % 2 ^ 64) }
      let h := pmu pmuRbt { h with rbt := r } 0 8 1 (some p)
      refreshUse (sendGates h expect (.opn a.stamp n a.marked)) p

/-- ACCEPTANCE_STAMP: Roundabout handles the oldest final stamp, unless it is held; gates that get neither OPEN nor DROP for it free the
crossing (R215, R217, R249). -/
def execAcceptanceStamp (s : State) : Host.Outcome State Fault Refusal :=
  .next (s.upd fun h =>
    match h.ave.accFinal with
    | a :: r =>
      if rbtHeld h then h
      else purgeGates ((List.range 8).foldl (fun h p => stampFor h a p) { h with ave := { h.ave with accFinal := r } })
    | [] => h)

/-! ### Fragments (R217 to R219, R226, R570) -/

/-- Lanes a gate serves, as (gate, lane, its number in the fragment). -/
def servedLanes (h : Hw) (g : Nat) : List (Nat × Nat × Nat) :=
  (List.range 16).map (fun k => (g, k, k)) ++
    (if fget h F_GATE_STATUS_TAKEOVER g == 1 then (List.range 16).map fun k => (partner g, k, 16 + k) else [])

/-- Every lane is complete for a crossing; a late header does not hold it up (R153, R217). -/
def crossingComplete (h : Hw) (g : Nat) (s : Stamp) : Bool :=
  (servedLanes h g).all fun l =>
    let v := laneOf h l.1 l.2.1
    !(match v.hdr with | some d => d.stamp == s && !d.late && d.remaining != 0 | none => false) && !v.kept.any fun w => w.stamp == s

/-- The stored words of a crossing on one lane, in arrival order; fragment headers are not words of a fragment (R226). -/
def storedWords (v : Gate) (s : Stamp) (ln : Nat) : List (BitVec 36) :=
  ((v.hb.filter fun r => r.lane == ln).flatMap fun r => r.words.filter fun w => w.stamp == s && !w.word.getLsbD 34).map (·.word)

/-- Two bytes of a lane table: COUNT and FE_STATUS (R226). -/
def laneEntry (v : Gate) (s : Stamp) (ln : Nat) : List Byte :=
  let fe := match v.hdrs.reverse.find? fun x => x.lane == ln && x.stamp == s with | some x => x.fe | none => 0
  leBytes 1 (min 255 (storedWords v s ln).length) ++ leBytes 1 fe

/-- Pad with zeros to a multiple of 64 bytes. -/
def pad64 (l : List Byte) : List Byte := l ++ zeros ((64 - l.length % 64) % 64)

/-- Pairs of tag nibbles, the even one low (R226). -/
def tagBytes : List Nat → List Byte
  | [] => []
  | [a] => leBytes 1 a
  | a :: b :: r => leBytes 1 (a + 16 * b) ++ tagBytes r

/-- FLAGS and bytes of the fragment of a crossing (R226). -/
def buildFragment (h : Hw) (g : Nat) (s : Stamp) (evseq : Nat) (marked : Bool) : Nat × List Byte :=
  let v := gateOf h g
  let both := fget h F_GATE_STATUS_TAKEOVER g == 1
  let n := if both then 32 else 16
  let ws := (List.range n).flatMap (storedWords v s)
  let hs := v.hdrs.filter fun x => x.stamp == s
  let tz := ws.all fun w => w.toNat / 2 ^ 32 == 0
  let flags := b2n (v.lostWords.contains s) + 2 * b2n (marked || hs.any (·.poison)) + 4 * b2n tz + 8 * b2n both +
    16 * b2n (hs.any (·.short))
  let pay := pad64 (ws.flatMap fun w => leBytes 4 (w.toNat % 2 ^ 32))
  let tags := if tz then [] else pad64 (tagBytes (ws.map fun w => w.toNat / 2 ^ 32))
  let len := 64 * (1 + b2n both) + pay.length + tags.length
  let table := (List.range 16).flatMap (laneEntry v s)
  let ext := if both then (List.range 16).flatMap (fun k => laneEntry v s (16 + k)) ++ zeros 32 else []
  (flags, leBytes 8 (stampBits s + g * 2 ^ 48) ++ leBytes 8 evseq ++ leBytes 2 ws.length ++ leBytes 1 flags ++ leBytes 1 n ++
    leBytes 4 len ++ zeros 8 ++ table ++ ext ++ pay ++ tags)

/-- The gate takes the front message off its queue. -/
def popMsg (h : Hw) (g : Nat) : Hw := setGate h g { gateOf h g with msgs := (gateOf h g).msgs.tail }

/-- M7 holds the gates, which then answer no message, build no fragment and report nothing (R94). -/
def gatesHeld (h : Hw) : Bool := modeNow h == 7

/-- OPEN: once the crossing is complete the gate holds a fragment to write, or reports EMPTY; a held gate does neither (R94, R217, R219). -/
def execOpenMsg (g : Fin 64) (s : State) : Host.Outcome State Fault Refusal :=
  .next (s.act fun h m =>
    let g := g.val
    let v := gateOf h g
    match v.msgs with
    | .opn st evseq marked :: _ =>
      if gatesHeld h || v.frag.isSome || !crossingComplete h g st || (logicGate h g) != some g then { hw := h }
      else
        let any := (v.hdrs.any fun x => x.stamp == st) || v.hb.any fun r => r.words.any fun w => w.stamp == st
        if !any then (gateReport (popMsg h g) m g evseq (.empty false)).map fun h => purgeGate h g
        else
          let (flags, bytes) := buildFragment h g st evseq marked
          let size := fget h F_GATE_FRAG_RING_SIZE_4K g * 4096
          if size == 0 || decide (size < bytes.length) then
            let h := raiseSource (fadd (popMsg h g) F_GATE_FRAG_ERR_OVERSIZE 1 g) (srcGate g 3)
            (gateReport h m g evseq (.empty true)).map fun h => purgeGate h g
          else
            let h := popMsg h g
            { hw := setGate h g { gateOf h g with frag := some { stamp := st, evseq := evseq, bytes := bytes, flags := flags } } }
    | _ => { hw := h })

/-- DROP: the crossing's records are freed, by a gate that is not held (R94, R217). -/
def execDropMsg (g : Fin 64) (s : State) : Host.Outcome State Fault Refusal :=
  .next (s.upd fun h =>
    match (gateOf h g.val).msgs with
    | .drop _ :: _ => if gatesHeld h then h else purgeGate (popMsg h g.val) g.val
    | _ => h)

/-- Where a fragment of `len` units goes: at the head, or at the base where it does not fit before the end; none while the place is
taken (R218). -/
def ringPlace (h : Hw) (g len : Nat) : Option Nat :=
  let size := fget h F_GATE_FRAG_RING_SIZE_4K g * 64
  let head := fget h F_GATE_FRAG_STATUS_HEAD g
  let s := if head + len ≤ size then head else 0
  if (gateOf h g).ring.any fun r => decide (s < r.offset + r.len) && decide (r.offset < s + len) then none else some s

/-- The lines of a fragment as separate writes: a write that is refused or falls outside DRAM changes nothing, and the others go on
(R570). -/
def writeLines (h : Hw) (m : Mem) (w : Asker) (a : Nat) : Nat → List Byte → Eff × Bool
  | 0, _ => ({ hw := h }, true)
  | n + 1, bs =>
    let (e, ok) := match placeOf h a with
      | .dram _ _ _ => agentWrite h m w a (bs.take 64)
      | _ => ({ hw := h }, false)
    let (e2, ok2) := writeLines e.hw (m.applyAll e.ops) w (a + 64) n (bs.drop 64)
    ({ hw := e2.hw, ops := e.ops ++ e2.ops }, ok && ok2)

/-- The budget a limit gives each readout gate of a partition in a window; none: no limit (R453). -/
def budgetOf (h : Hw) (p l : Nat) : Option Nat :=
  if l == 0 then none else some (max 1 (l / max 1 (popcount 64 (partOf h p).gates)))

/-- The budget of a readout gate in the present window (R453, R454). -/
def gateBudget (h : Hw) (p : Nat) : Option Nat := budgetOf h p (tget 0 h.par.nextLimit p)

/-- Writes a gate issues from address `a`, offset `o` of its fragment, with `left` bytes to write: a quad-line each, while its count `c` is
below the budget (R256, R453). -/
def issuePieces (b : Option Nat) : Nat → Nat → Nat → Nat → Nat → List (Nat × Nat)
  | 0, _, _, _, _ => []
  | k + 1, a, o, left, c =>
    if left == 0 || (match b with | some b => decide (b ≤ c) | none => false) then []
    else
      let n := min left (256 - a % 256)
      (o, n) :: issuePieces b k (a + n) (o + n) (left - n) (c + n)

/-- Every write of a fragment has been issued. -/
def fragIssued (f : FragOut) : Bool := f.sent == some f.bytes.length

/-- Every write of a fragment has been made. -/
def fragWritten (f : FragOut) : Bool := fragIssued f && f.waits.isEmpty

/-- Address of byte `o` of a gate's fragment. -/
def fragAddr (h : Hw) (g : Nat) (f : FragOut) (o : Nat) : Nat := fget h F_GATE_FRAG_RING_BASE_4K g * 4096 + 64 * f.offset + o

/-- The quarter an address lies in. -/
def quarterAt (h : Hw) (a : Nat) : Option Nat := match placeOf h a with | .dram _ q _ => some q | _ => none

/-- The gate takes ring space for a fragment (R218). -/
def takeSpace (h : Hw) (g o : Nat) (f : FragOut) : Hw :=
  let v := gateOf h g
  let len := f.bytes.length / 64
  let ring := v.ring ++ [{ offset := o, len := len, freed := false }]
  let h := setGate h g { v with frag := some { f with offset := o, sent := some 0 }, ring := ring, stalled := false }
  advanceTail (fset h F_GATE_FRAG_STATUS_HEAD ((o + len) % (fget h F_GATE_FRAG_RING_SIZE_4K g * 64)) g) g

/-- Writes issued one after the other, each with its place in the order of arrival from `n` on (DESIGN CHOICE, log 71). -/
def arriveInOrder (n : Nat) (ws : List (Nat × Nat)) : List (Nat × Nat × Nat) := ws.zipIdx.map fun (w, i) => (w.1, w.2, n + i)

/-- The gate issues what its budget allows of the fragment in hand, and each write waits for a slot of its quarter; one outside DRAM is
refused. The gate is held where data stay behind (R20, R453, R570). -/
def issueFragment (h : Hw) (g p : Nat) (f : FragOut) : Hw :=
  let at' := f.sent.getD 0
  let c := tget 0 h.par.budget g
  let ws := issuePieces (gateBudget h p) f.bytes.length (fragAddr h g f at') at' (f.bytes.length - at') c
  let n := (ws.map (·.2)).sum
  let inDram := fun (w : Nat × Nat) => (quarterAt h (fragAddr h g f w.1)).isSome
  let arrive := arriveInOrder h.par.fragSeq (ws.filter inDram)
  let f := { f with sent := some (at' + n), waits := f.waits ++ arrive, refused := f.refused || !ws.all inDram }
  let h := setGate h g { gateOf h g with frag := some f }
  let h := { h with par := { h.par with budget := tset 0 h.par.budget g (c + n), fragSeq := h.par.fragSeq + arrive.length } }
  if fragIssued f then h
  else { h with par := { h.par with heldGate := tset 0 h.par.heldGate g 1 } }

/-- FRAGMENT_WRITE: the gate places the fragment in its ring and issues its writes, in M4 and M6 and not during a power-fail sequence, as
far as its budget lasts (R20, R60, R218, R453, R570). -/
def execFragmentWrite (g : Fin 64) (s : State) : Host.Outcome State Fault Refusal :=
  .next (s.upd fun h =>
    let g := g.val
    let v := gateOf h g
    match v.frag, ownerGate h g with
    | some f, some p =>
      if fragIssued f || h.sup.powerFail || !(modeNow h == 4 || modeNow h == 6) then h
      else if f.sent.isSome then issueFragment h g p f
      else
        match ringPlace h g (f.bytes.length / 64) with
        | none =>
          if v.stalled then h else fadd (setGate h g { v with stalled := true }) F_GATE_FRAG_STATUS_FRAG_STALLS 1 g
        | some o => issueFragment (takeSpace h g o f) g p { f with offset := o, sent := some 0 }
    | _, _ => h)

/-- The ring space of the fragment in hand returns to the head (R225, R570). -/
def returnSpace (h : Hw) (g off : Nat) : Hw :=
  let v := gateOf h g
  advanceTail (fset (setGate h g { v with ring := v.ring.filter fun r => r.offset != off }) F_GATE_FRAG_STATUS_HEAD off g) g

/-- FRAG: every write is acknowledged and the gate reports; a refused fragment is EMPTY with INCOMPLETE; the report waits at H1 while
Roundabout is held, and a held gate makes none (R94, R217, R221, R249, R570). -/
def execFrag (g : Fin 64) (s : State) : Host.Outcome State Fault Refusal :=
  .next (s.act fun h m =>
    let g := g.val
    let v := gateOf h g
    match v.frag with
    | some f =>
      if gatesHeld h || !fragWritten f then { hw := h }
      else
        let h := setGate h g { v with frag := none }
        let e := if f.refused then
            let h := raiseSource (fadd (returnSpace h g f.offset) F_GATE_FRAG_ERR_REFUSED 1 g) (srcGate g 3)
            gateReport h m g f.evseq (.empty true)
          else gateReport h m g f.evseq (.frag (fget h F_GATE_FRAG_RING_BASE_4K g * 4096 + 64 * f.offset) f.bytes.length f.flags)
        e.map fun h => purgeGate h g
    | none => { hw := h })

/-- The oldest write of a gate that waits for a slot of quarter `q`. -/
def waitingWrite (h : Hw) (q g : Nat) : Option (Nat × Nat × Nat) :=
  match (gateOf h g).frag with
  | some f => f.waits.find? fun w => quarterAt h (fragAddr h g f w.1) == some q
  | none => none

/-- The gates of a partition with a write waiting at quarter `q`. -/
def waitingGates (h : Hw) (q p : Nat) : List Nat :=
  (List.range 64).filter fun g => ownerGate h g == some p && (waitingWrite h q g).isSome

/-- The gate of a partition whose write came to quarter `q` first (R453; DESIGN CHOICE, log 71). -/
def firstWaiting (h : Hw) (q p : Nat) : Option Nat :=
  (waitingGates h q p).foldl (fun best g =>
    let at' := fun g => ((waitingWrite h q g).getD (0, 0, 0)).2.2
    match best with | some b => if at' g < at' b then some g else best | none => some g) none

/-- Gate cycle `t` starts a fragment slot: slot 0, 3, 6, 9 or 12 of a frame of 96 gate cycles (R20). -/
def startsFragSlot (t : Nat) : Bool := t % 96 % 18 == 0 && decide (t % 96 ≤ 72)

/-- The gate cycle at which the next fragment slot of quarter `q` starts (R20). -/
def nextFragSlot (h : Hw) (q : Nat) : Nat :=
  let lo := max (quarterOf h q).slotNext ((h.now + 63) / 64)
  lo + ((List.range 25).find? fun d => startsFragSlot (lo + d)).getD 0

/-- The quarter grants fragment slots: in M4 and M6, not in LOST, and not in a power-fail sequence (R20, R60, R261). -/
def slotsGranted (h : Hw) (q : Nat) : Bool :=
  (modeNow h == 4 || modeNow h == 6) && fget h F_QMC_STATUS_STATE q != qLost && !h.sup.powerFail

/-- One write of a gate takes a slot: its lines are written or refused (R20, R278, R570). -/
def grantWrite (h : Hw) (m : Mem) (g p : Nat) (f : FragOut) (w : Nat × Nat × Nat) : Eff :=
  let (e, ok) := writeLines h m (ioAsker h (.gate (Fin.ofNat 64 g))) (fragAddr h g f w.1) (w.2.1 / 64) (sub f.bytes w.1 w.2.1)
  e.map fun h =>
    let f := { f with waits := f.waits.erase w, refused := f.refused || !ok }
    let h := pmu pmuGate (setGate h g { gateOf h g with frag := some f }) g 7 (w.2.1 / 64) (some p)
    if fragWritten f then pmu pmuGate h g 6 1 (some p) else h

/-- FRAGMENT_SLOT: module time reaches the next fragment slot of the quarter, which goes to the next partition in rotation with a fragment
write waiting, and there to the write that arrived first, else to other traffic (R20, R261, R453). -/
def execFragmentSlot (q : Fin 24) (s : State) : Host.Outcome State Fault Refusal :=
  .next (s.act fun h m =>
    let q := q.val
    let t := nextFragSlot h q
    let h := runTo h (64 * t)
    let h := setQuarter h q { quarterOf h q with slotNext := t + 1 }
    if !slotsGranted h q then { hw := h }
    else
      match ((List.range 8).map fun i => (tget 0 h.par.served q + 1 + i) % 8).find? fun p => !(waitingGates h q p).isEmpty with
      | none => { hw := pmu pmuQmc h q 5 1 }
      | some p =>
        let g := (firstWaiting h q p).getD 0
        let h := pmu pmuQmc { h with par := { h.par with served := tset 0 h.par.served q p } } q 4 1 (some p)
        match (gateOf h g).frag, waitingWrite h q g with
        | some f, some w => grantWrite h m g p f w
        | _, _ => { hw := h })

/-! ### Timeouts, cancels and the enqueue of events (R220 to R225, R248) -/

/-- An entry closes TIMEOUT: CANCEL goes to each expected gate that has not reported (R220, R221). -/
def closeTimeout (h : Hw) (m : Mem) (e : AsmEntry) : Eff :=
  let h := pmu pmuRbt h 0 9 1 (some e.part)
  let silent := (onesOf 64 e.expect).foldl (fun a g => if (reportOf e g).isSome then a else setBit a g true) 0
  closeEntry (sendGates h silent (.cancel e.evseq)) m e false

/-- ASSEMBLY_TIMEOUT (R220, R221). -/
def execAssemblyTimeout (p : Fin 8) (evseq : Nat) (s : State) : Host.Outcome State Fault Refusal :=
  .next (s.act fun h m =>
    match entryOf h p.val evseq with
    | some e => if rbtHeld h || e.closed.isSome || decide (h.rbt.tick < e.due) then { hw := h } else closeTimeout h m e
    | none => { hw := h })

/-- The event number of the first CANCEL in a queue of messages. -/
def firstCancel : List GateMsg → Option Nat
  | [] => none
  | .cancel n :: _ => some n
  | _ :: r => firstCancel r

/-- ASSEMBLY_CANCEL: a gate that has not started the fragment writes nothing and frees the records; a held gate takes no CANCEL (R94,
R221). -/
def execAssemblyCancel (g : Fin 64) (s : State) : Host.Outcome State Fault Refusal :=
  .next (s.upd fun h =>
    let g := g.val
    let v := gateOf h g
    match firstCancel v.msgs with
    | none => h
    | some n => if gatesHeld h then h else
      let msgs := (v.msgs.erase (.cancel n)).filter fun m => match m with | .opn _ e _ => e != n | _ => true
      let frag := match v.frag with | some f => if f.evseq == n && f.sent.isNone then none else some f | none => none
      purgeGate (setGate h g { v with msgs := msgs, frag := frag, stalled := v.stalled && frag.isSome }) g)

/-- The flow of an event item (R225). -/
def eventFlow (h : Hw) (e : AsmEntry) : Nat :=
  let base := fget h F_RBT_PART_EVCFG_EVFLOW_BASE 0 e.part
  let n := 2 ^ (min 12 (fget h F_RBT_PART_EVCFG_EVFLOW_LOG2 0 e.part))
  match fget h F_RBT_PART_EVCFG_EVFLOW_MODE 0 e.part with
  | 1 => base + e.evseq % n
  | 2 => base + e.stamp.crossing % n
  | _ => base

/-- The item of a closed event (R229). -/
def eventItem (h : Hw) (e : AsmEntry) : Item :=
  { arg0 := BitVec.ofNat 64 (stampBits e.stamp), arg1 := BitVec.ofNat 64 e.evseq, arg2 := BitVec.ofNat 64 (slotAddr h e.part e.evseq),
    seq := 0, kind := 1, user := 0,
    flags := 4 * b2n (e.closed == some false) + 2 * b2n (anyReport e isIncomplete) + b2n (anyReport e isPoison) }

/-- The fragments an entry names, as (gate, ring offset). -/
def entryFrags (h : Hw) (e : AsmEntry) : List (Nat × Nat) :=
  e.reports.filterMap fun r => match r.2 with | .frag a _ _ => some (r.1, ringOffset h r.1 a) | _ => none

/-- STALLED: a closed event of the partition was refused by its flow (R225). -/
def refreshStalled (h : Hw) (p : Nat) : Hw := fset h F_RBT_PART_USE_STALLED (b2n ((entriesOf h p).any (·.refused))) 0 p

/-- Enqueue a closed event, or discard a crossing without one (R222 to R225, R227). -/
def tryEvent (h : Hw) (p evseq : Nat) : Hw :=
  match entryOf h p evseq with
  | none => h
  | some e =>
    if rbtHeld h || e.closed.isNone then h
    else if noEvent e then refreshStalled (fadd (dropEntry h p evseq) F_RBT_PART_DROPS_EMPTY 1 0 p) p
    else if fon h F_RBT_PART_EVCFG_EVORDER 0 p && (entriesOf h p).any fun x => decide (x.evseq < evseq) then h
    else
      let (h', code) := enqueue h p (eventFlow h e) (eventItem h e)
      if code == rbOk then
        let ev : Event := { part := p, evseq := evseq, slot := slotNo h p evseq, frags := entryFrags h e }
        refreshStalled (dropEntry { h' with rbt := { h'.rbt with events := h'.rbt.events ++ [ev] } } p evseq) p
      else refreshStalled (putEntry h' { e with refused := true }) p

/-- EVENT_ENQUEUE (R222 to R225). -/
def execEventEnqueue (p : Fin 8) (evseq : Nat) (s : State) : Host.Outcome State Fault Refusal :=
  .next (s.upd fun h => tryEvent h p.val evseq)

/-- Try the waiting items of a partition again, each that is refused again stays (R239). -/
def retryItems (h : Hw) (p : Nat) : Hw :=
  let mine := h.rbt.waitItems.filter (·.part == p)
  let h := { h with rbt := { h.rbt with waitItems := h.rbt.waitItems.filter (·.part != p) } }
  mine.foldl (fun h w =>
    let (h, code) := enqueue h p w.flow w.item
    if code == rbOk then h else { h with rbt := { h.rbt with waitItems := h.rbt.waitItems ++ [w] } }) h

/-- An item that Roundabout generates is enqueued, or waits and is retried (R239). -/
def produce (h : Hw) (p f : Nat) (it : Item) : Hw :=
  let (h, code) := enqueue h p f it
  if code == rbOk then h else { h with rbt := { h.rbt with waitItems := h.rbt.waitItems ++ [{ part := p, flow := f, item := it }] } }

/-- ENQUEUE_RETRY: refused events in event order, then refused items (R225, R239). -/
def execEnqueueRetry (p : Fin 8) (s : State) : Host.Outcome State Fault Refusal :=
  .next (s.upd fun h =>
    if rbtHeld h then h
    else
      let es := ((entriesOf h p.val).filter (·.refused)).map (·.evseq)
      retryItems (es.mergeSort.foldl (fun h n => tryEvent h p.val n) h) p.val)

/-- RECLAIM: open entries close by timeout in event order until OPEN equals the quota (R248, R250). -/
def execReclaim (who : Requester) (p : Fin 8) (s : State) : Host.Outcome State Fault Refusal :=
  .next (s.act fun h m =>
    let p := p.val
    ifMayE h who R_RBT_PART_CMD 0 p fun h =>
      let done := fun code h => answer h F_RBT_PART_CMD_RESULT F_RBT_PART_CMD_SEQ code 0 p
      if rbtHeld h then { hw := done rbHeld h }
      else
        let above := (entriesOf h p).length - quotaOf h p 1
        let open' := ((entriesOf h p).filter fun e => e.closed.isNone).mergeSort fun a b => decide (a.evseq ≤ b.evseq)
        (effFold h m (fun h m e => closeTimeout h m e) (open'.take above)).map (done rbOk))

end Sys2Proof.Machine
end

