-- ==== Sys2Proof/Machine/Pipeline.lean ====
section
/-!
DEFINITION. Job and pipeline descriptors of the column engines, and the checks made when a job starts.
-/

namespace Sys2Proof.Machine

/-! ### Causes of a FAULT record (R312) -/

def cDesc : Nat := 0x10
def cDescPoison : Nat := 0x11
def cMicrocode : Nat := 0x12
def cBus : Nat := 0x13
def cPageHdr : Nat := 0x14
def cPagePoison : Nat := 0x15
def cExchBind : Nat := 0x16
def cExchDup : Nat := 0x17
def cExchPeer : Nat := 0x18
def cOperator : Nat := 0x19

/-- Why a job faults: cause, operator index, RESULT. -/
structure JFault where
  cause : Nat
  op : Nat := 0xFF
  result : Nat := 0
  deriving DecidableEq, Repr

/-! ### Descriptors (R293 to R298, R307) -/

/-- A stream entry (R295). -/
structure StreamEntry where
  width : Nat
  pair : Nat
  deriving DecidableEq, Repr

/-- An operator entry (R294); SRAM range in KiB. -/
structure OpEntry where
  code : Nat
  flags : Nat
  inA : Nat
  inB : Nat
  outA : Nat
  outB : Nat
  off : Nat
  len : Nat
  par : List Byte
  deriving DecidableEq, Repr

/-- An exchange entry (R298), with its effective GROUP. -/
structure ExEntry where
  role : Nat
  ch : Nat
  peer : Nat
  peerCh : Nat
  group : Nat
  deriving DecidableEq, Repr

/-- A pipeline descriptor, with the arguments of its job. -/
structure Pipe where
  ops : List OpEntry
  streams : List StreamEntry
  exch : List ExEntry
  bindUs : Nat
  sramKib : Nat
  microMin : Nat
  args : List Nat
  deriving DecidableEq, Repr

/-- The arguments of a job descriptor. -/
def jobArgs (d : List Byte) : List Nat := (List.range 5).map fun n => num d (0x10 + 8 * n) 8

/-- A job descriptor obeys R307. -/
def jobDescOk (d : List Byte) : Bool :=
  num d 0 1 == 1 && num d 1 1 < 4 && num d 2 2 == 0 && num d 0x38 8 == 0 && num d 8 8 % 64 == 0 && num d 8 8 < 2 ^ 52

/-- LEN that the counts of a pipeline header give (R293). -/
def pipeLen (d : List Byte) : Nat := 64 + 128 * num d 3 1 + 8 * num d 4 1 + 16 * num d 5 1

/-- A pipeline header obeys R293. -/
def pipeHdrOk (d : List Byte) : Bool :=
  num d 0 2 == 0x4C50 && num d 2 1 == 1 && 1 ≤ num d 3 1 && num d 3 1 ≤ 16 && 1 ≤ num d 4 1 && num d 4 1 ≤ 32 &&
    num d 5 1 ≤ 8 && num d 8 4 == pipeLen d && num d 8 4 ≤ 2496 && num d 0x0C 4 ≤ 1856 && num d 0x14 44 == 0

/-- Working SRAM of a pipeline in 8 KiB units (R290, R293). -/
def sramUnits (kib : Nat) : Nat := (kib + 7) / 8

/-- The parts of a pipeline descriptor. -/
def parsePipe (d : List Byte) (args : List Nat) : Pipe :=
  let nops := num d 3 1
  let nst := num d 4 1
  let so := 64 + 128 * nops
  { ops := (List.range nops).map fun i =>
      let e := sub d (64 + 128 * i) 128
      { code := num e 0 1, flags := num e 1 1, inA := num e 2 1, inB := num e 3 1, outA := num e 4 1, outB := num e 5 1,
        off := num e 8 4, len := num e 0x0C 4, par := sub e 0x10 112 },
    streams := (List.range nst).map fun n => { width := num d (so + 8 * n) 1, pair := num d (so + 8 * n + 2) 2 },
    exch := (List.range (num d 5 1)).map fun n =>
      let e := sub d (so + 8 * nst + 16 * n) 16
      let src := num e 4 1
      { role := num e 0 1, ch := num e 1 1, peer := num e 2 1, peerCh := num e 3 1,
        group := (num e 8 4).xor (if src == 0 then 0 else lget 0 args (src - 1) % 2 ^ 32) },
    bindUs := max 1 (num d 6 2), sramKib := num d 0x0C 4, microMin := num d 0x10 4, args := args }

/-! ### Streams and lanes (R295, R323) -/

/-- Stream `n` of a pipeline. -/
def Pipe.stream (p : Pipe) (n : Nat) : StreamEntry := lget ⟨0, 0⟩ p.streams n

/-- Whether lane `k` names a 64-bit value. -/
def StreamEntry.wide (s : StreamEntry) (k : Nat) : Bool := bit s.pair k

/-- Lane `k` may be named in parameters: below WIDTH and no high half (R323). -/
def StreamEntry.lane (s : StreamEntry) (k : Nat) : Bool := k < s.width && !(0 < k && bit s.pair (k - 1))

/-- A stream entry obeys R295. -/
def streamOk (d : List Byte) : Bool :=
  let w := num d 0 1
  let pm := num d 2 2
  1 ≤ w && w ≤ 16 && num d 1 1 == 0 && num d 4 4 == 0 && pm / 2 ^ (w - 1) == 0 && pm.land (2 * pm) == 0

/-- Bytes a to b − 1 of an operator's parameters are zero (R322). -/
def OpEntry.zero (o : OpEntry) (a b : Nat) : Bool := (sub o.par a (b - a)).all (· == 0)

/-- A number of `n` bytes in an operator's parameters. -/
def OpEntry.p (o : OpEntry) (a n : Nat) : Nat := num o.par a n

/-! ### Address words (R297) -/

/-- Where an address word points. -/
inductive Loc where
  | phys (a : Nat)
  | sram (o : Nat)
  deriving DecidableEq, Repr

/-- The start of the scratchpad window. -/
def scratchBase : Nat := 0xE000000000

/-- An address word: where it points, or the cause that ends the job. -/
def Pipe.addr (p : Pipe) (w : Nat) : Except Nat Loc :=
  match bits w 63 62 with
  | 0 => if bits w 61 52 == 0 then .ok (.phys w) else .error cDesc
  | 1 =>
    let n := bits w 58 56
    if bits w 61 59 != 0 || bits w 55 48 != 0 || 4 < n then .error cDesc
    else
      let o := bits w 47 0
      .ok (.phys ((lget 0 p.args n + (if bit w 47 then 2 ^ 64 - 2 ^ 48 + o else o)) % 2 ^ 64))
  | 2 =>
    if bits w 61 21 != 0 then .error cDesc
    else if p.sramKib * 1024 < bits w 20 0 then .error cBus
    else .ok (.sram (bits w 20 0))
  | _ => if bits w 61 27 != 0 then .error cDesc else .ok (.phys (scratchBase + bits w 26 0))

/-- Where an address word that has been checked points. -/
def Pipe.loc (p : Pipe) (w : Nat) : Loc := match p.addr w with | .ok l => l | .error _ => .sram 0

/-! ### Checks of one operator at start (R296, R310, R322, R323 and each operator's rule); 0: none fails -/

/-- The cause of a failed condition. -/
def need (b : Bool) : Nat := if b then 0 else cDesc

/-- The cause of a bad address word. -/
def needAddr (p : Pipe) (w : Nat) : Nat := match p.addr w with | .ok _ => 0 | .error c => c

/-- The first cause in a list. -/
def firstCause (l : List Nat) : Nat := (l.find? (· != 0)).getD 0

/-- Bytes of a table entry of L lanes (R345). -/
def entrySize (l : Nat) : Nat := 8 + 8 * ((4 * l + (l + 1) / 2 + 7) / 8)

/-- Bytes of a table (R345). -/
def tableSize (log2 cap l : Nat) : Nat := 64 + 4 * 2 ^ log2 + entrySize l * cap

/-- The check of a TABLE address word: the SRAM or SCRATCH form, an SRAM table inside the range of the operator that owns it
(R345). -/
def tableCheck (p : Pipe) (o : OpEntry) (w size : Nat) : Nat :=
  match bits w 63 62 with
  | 2 => firstCause [need (bits w 61 21 == 0 && o.off * 1024 ≤ bits w 20 0 && bits w 20 0 + size ≤ (o.off + o.len) * 1024), needAddr p w]
  | 3 => needAddr p w
  | _ => cDesc

/-- Output lanes of AGGREGATE and their pair mask: keys, then aggregates (R351, R352). -/
def aggShape (s : StreamEntry) (o : OpEntry) : StreamEntry :=
  let add := fun (a : StreamEntry) (w : Bool) => if w then ⟨a.width + 2, a.pair + 2 ^ a.width⟩ else ⟨a.width + 1, a.pair⟩
  let k := (List.range (o.p 0x15 1)).foldl (fun a i => add a (s.wide (o.p (0x18 + i) 1))) ⟨0, 0⟩
  (List.range (o.p 0x16 1)).foldl (fun a i =>
    add a (o.p (0x20 + 4 * i) 1 ≤ 2 || s.wide (o.p (0x21 + 4 * i) 1))) k

/-- The shape SELECT gives its output: the pairs MAP places; none where MAP splits a pair (R341). -/
def selectPairs (s : StreamEntry) : List Nat → Nat → Option Nat
  | [], _ => some 0
  | [m], _ => if m != 0xFE && s.wide m then none else some 0
  | m :: n :: r, j =>
    if m != 0xFE && s.wide m then
      if n == m + 1 then (selectPairs s r (j + 2)).map (2 ^ j + ·) else none
    else selectPairs s (n :: r) (j + 1)

/-- Every lane MAP names may be named, the high half of a placed pair apart (R323, R341). -/
def mapLanesOk (s : StreamEntry) : List Nat → Bool
  | [] => true
  | [m] => m == 0xFE || s.lane m
  | m :: n :: r =>
    if m != 0xFE && s.wide m then s.lane m && n == m + 1 && mapLanesOk s r else (m == 0xFE || s.lane m) && mapLanesOk s (n :: r)

/-- Operations of PROJECT with a second operand that B_CONST chooses (R343). -/
def binOp (c : Nat) : Bool := (1 ≤ c && c ≤ 0x0A) || c == 0x0C

/-- One expression of PROJECT (R342, R343). -/
def exprOk (s t : StreamEntry) (e : List Byte) : Bool :=
  let c := num e 0 1 % 64
  let out := num e 1 1
  let a := num e 2 1
  let wide := s.wide a
  c ≤ 0x0F && out < t.width && (c == 0x0E || s.lane a) &&
    (!(c == 0x0F || (binOp c && !bit (num e 0 1) 7)) || s.lane (num e 3 1)) && !(wide && c == 0x0B) &&
    (c != 0x0F || num e 4 4 % 16 ≤ 7) && (t.wide out || !wide || c == 0x0D || c == 0x0F)

/-- One term of FILTER (R338). -/
def termOk (s : StreamEntry) (e : List Byte) : Bool :=
  let mode := num e 2 1
  s.lane (num e 0 1) && num e 1 1 ≤ 11 && mode < 8 && num e 4 4 == 0 &&
    (if bit mode 1 then s.lane (num e 3 1) else num e 3 1 == 0 && (s.wide (num e 0 1) || num e 0x0C 4 == 0))

/-- A key specification (R348). -/
def keySpecOk (s : StreamEntry) (o : OpEntry) : Bool :=
  1 ≤ o.p 0 1 && o.p 0 1 ≤ 4 && o.zero 1 4 && o.zero (8 + 4 * o.p 0 1) 112 &&
    (List.range (o.p 0 1)).all fun i => s.lane (o.p (8 + 4 * i) 1) && o.p (9 + 4 * i) 1 < 8 && o.p (10 + 4 * i) 2 == 0

/-- Bytes of SRAM a row of W lanes takes in SORT_RUN, and the capacity in rows (R349). -/
def sortCapacity (w : Nat) (o : OpEntry) : Nat := o.len * 1024 / (4 * ((9 * w + 8 + 7) / 8))

/-- The channel entries of SEND (R354). -/
def sendChannels (o : OpEntry) : List Nat := (List.range (o.p 0 1)).map fun i => o.p (8 + i) 1

/-- The exchange endpoint of a role and local channel. -/
def Pipe.endpoint (p : Pipe) (role ch : Nat) : Option ExEntry := p.exch.find? fun e => e.role == role && e.ch == ch

/-- Flits of credit of each sender of a RECV operator (R337). -/
def recvShare (o : OpEntry) (peer : Nat) : Nat := o.len * 1024 / (64 * peer)

/-- The parameter checks of one operator. -/
def opCheck (p : Pipe) (o : OpEntry) : Nat :=
  let si := p.stream o.inA
  let so := p.stream o.outA
  match o.code with
  | 0x01 => firstCause ([need (o.flags ≤ 1 && 1 ≤ o.p 0 1 && o.p 0 1 ≤ 8 && (o.p 1 1 == 0xFF || o.p 1 1 < o.p 0 1) && o.p 2 1 ≤ 1 &&
        o.p 3 1 == 0 && o.zero (0x10 + 8 * o.p 0 1) 112)] ++
      (List.range (o.p 0 1)).map fun c => needAddr p (o.p (0x10 + 8 * c) 8))
  | 0x02 => firstCause [need (o.flags == 0 && o.p 8 1 < 16 && popcount 4 (o.p 8 1) == so.width && so.pair == 0 && o.zero 9 0x10 &&
        o.zero 0x18 112), needAddr p (o.p 0 8)]
  | 0x03 => need (o.flags == 0 && o.zero 1 112 && so.width ≤ 14 && match p.endpoint 2 (o.p 0 1) with
      | some e => 1 ≤ recvShare o e.peer
      | none => false)
  | 0x04 => need (o.flags == 0 && 1 ≤ o.p 0 1 && o.p 0 1 ≤ 6 && o.p 1 1 ≤ 1 && o.p 2 1 ≤ 2 && o.zero 4 16 && o.zero (16 + 16 * o.p 0 1) 112 && si == so &&
      (o.p 2 1 == 0 || si.lane (o.p 3 1)) && (List.range (o.p 0 1)).all fun t => termOk si (sub o.par (16 + 16 * t) 16))
  | 0x05 =>
    let map := (List.range (o.p 1 1)).map fun j => o.p (0x10 + j) 1
    need (o.flags ≤ 1 && o.p 1 1 == so.width && o.zero 2 16 && o.zero (0x10 + so.width) 112 && (o.p 0 1 == 0xFF || si.lane (o.p 0 1)) &&
      mapLanesOk si map && (match selectPairs si map 0 with | some m => m.land so.pair == m | none => false))
  | 0x06 => need (o.flags == 0 && o.p 0 1 ≤ 13 && o.zero 1 8 && o.zero (8 + 8 * o.p 0 1) 112 && (List.range (o.p 0 1)).all fun e => exprOk si so (sub o.par (8 + 8 * e) 8))
  | 0x07 => firstCause [need (o.flags ≤ 3 && 1 ≤ o.p 0x0D 1 && o.p 0x0D 1 ≤ 8 && o.p 0x0D 1 ≤ si.width && 4 ≤ o.p 0x0C 1 &&
        o.p 0x0C 1 ≤ 24 && o.zero 0x0E 112), tableCheck p o (o.p 0 8) (tableSize (o.p 0x0C 1) (o.p 8 4) si.width)]
  | 0x08 =>
    let b := o.p 0x0C 1
    let owner := if b == 0xFF then o else lget o p.ops b
    firstCause [need (o.flags == 0 && o.p 0x0A 1 ≤ 3 && 1 ≤ o.p 0x0B 1 && o.p 0x0B 1 ≤ 8 && o.p 0x0B 1 ≤ si.width && o.zero 0x0D 112 &&
        (b == 0xFF || (b < p.ops.length && owner.code == 7)) && (o.p 0x0A 1 == 0 || so == si) &&
        (b == 0xFF || o.p 0x0A 1 != 0 || so.width + o.p 0x0B 1 == si.width + (p.stream owner.inA).width)),
      tableCheck p owner (o.p 0 8) (if b == 0xFF then 64 else tableSize (owner.p 0x0C 1) (owner.p 8 4) (p.stream owner.inA).width)]
  | 0x09 => need (o.flags == 0 && keySpecOk si o && si == so && 1 ≤ sortCapacity si.width o && o.p 4 4 ≤ sortCapacity si.width o)
  | 0x0A => need (o.flags == 0 && keySpecOk si o && o.zero 4 8 && si == so && p.stream o.inB == so)
  | 0x0B =>
    let sh := aggShape si o
    let sink := o.outA == 0xFF
    firstCause ([need (o.flags ≤ 1 && o.p 0x15 1 ≤ 8 && 1 ≤ o.p 0x16 1 && o.p 0x16 1 ≤ 8 && o.p 0x17 1 == 0 && 4 ≤ o.p 0x14 1 &&
        o.p 0x14 1 ≤ 24 && o.zero (0x18 + o.p 0x15 1) 0x20 && o.zero (0x20 + 4 * o.p 0x16 1) 0x40 && o.zero 0x50 112 && (List.range (o.p 0x15 1)).all (fun i => si.lane (o.p (0x18 + i) 1)) &&
        (List.range (o.p 0x16 1)).all (fun i => o.p (0x20 + 4 * i) 1 ≤ 6 && (o.p (0x20 + 4 * i) 1 == 0 || si.lane (o.p (0x21 + 4 * i) 1)) &&
          o.p (0x22 + 4 * i) 1 ≤ 1 && o.p (0x23 + 4 * i) 1 == 0) && sh.width ≤ 16 && (sink || so == sh) &&
        (!sink || o.flags == 0 || (o.p 8 8 == 0 && o.p 0x40 8 == 0 && o.p 0x48 8 == 0)))] ++
      (if sink && o.flags == 0 then [needAddr p (o.p 8 8), needAddr p (o.p 0x40 8)] else []) ++
      [if o.p 0x15 1 == 0 then need (o.p 0 8 == 0) else tableCheck p o (o.p 0 8) (tableSize (o.p 0x14 1) (o.p 0x10 4) sh.width)])
  | 0x0C => need (o.flags ≤ 1 && o.p 0 1 ≤ 1 && 1 ≤ o.p 1 1 && o.p 1 1 ≤ 8 && o.zero 4 8 && o.zero 0x24 112 &&
      so == { width := si.width + 1, pair := si.pair } &&
      (if o.p 0 1 == 0 then 1 ≤ o.p 2 1 && o.p 2 1 ≤ si.width && o.p 3 1 == 0 else o.p 2 1 == 0 && si.lane (o.p 3 1)))
  | 0x0D => need (o.flags == 0 && 1 ≤ o.p 0 1 && o.p 0 1 ≤ 8 && o.zero 2 8 && o.zero (8 + o.p 0 1) 112 &&
      (o.p 1 1 == 0xFF) == (o.p 0 1 == 1) && (o.p 1 1 == 0xFF || si.lane (o.p 1 1) && !si.wide (o.p 1 1)) &&
      si.width - (if o.p 1 1 == 0xFF then 0 else 1) ≤ 14 && (sendChannels o).all fun c => (p.endpoint 1 c).isSome)
  | 0x0E => firstCause ([need (o.flags ≤ 1 && o.p 0 1 ≤ 1 && o.p 1 1 ≤ 64 && o.zero 2 8 && o.zero 0x28 112 &&
        (o.p 0 1 == 0 || si.width == 1 || (si.width == 2 && si.pair == 1))), needAddr p (o.p 8 8), needAddr p (o.p 0x18 8)])
  | 0x0F =>
    let pages := o.p 0 1 == 0
    firstCause ([need (o.flags ≤ 3 && o.p 0 1 ≤ 1 && o.zero 1 4 && o.zero 0x22 0x28 && o.zero 0x30 112 &&
        (!bit o.flags 1 || o.p 0x18 8 == 0) && (!pages || (1 ≤ o.p 4 4 && o.p 4 4 ≤ 1048576 && 9 * si.width * o.p 4 4 ≤ 2 * 1024 * o.len))),
      needAddr p (o.p 8 8), needAddr p (o.p 0x18 8)])
  | _ => cDesc

/-! ### Checks of the whole pipeline (R296, R298) -/

/-- Inputs of an operator, and whether it has an output (none: either). -/
def opShape (code : Nat) : Nat × Option Bool :=
  match code with
  | 1 | 2 | 3 => (0, some true)
  | 0x0A => (2, some true)
  | 0x0B => (1, none)
  | 7 | 0x0D | 0x0E | 0x0F => (1, some false)
  | _ => (1, some true)

/-- The streams an operator names fit its shape. -/
def shapeOk (n : Nat) (o : OpEntry) : Bool :=
  let ins := (opShape o.code).1
  let known := fun s => s == 0xFF || s < n
  1 ≤ o.code && o.code ≤ 0x0F && known o.inA && known o.inB && known o.outA && o.outB == 0xFF &&
    (o.inA != 0xFF) == (1 ≤ ins) && (o.inB != 0xFF) == (2 ≤ ins) &&
    (match (opShape o.code).2 with | some b => (o.outA != 0xFF) == b | none => true)

/-- Stream `n` has one producer and one consumer, the producer first. -/
def streamUse (p : Pipe) (n : Nat) : Bool :=
  let prod := (List.range p.ops.length).filter fun i => match p.ops[i]? with | some o => o.outA == n | none => false
  let cons := (List.range p.ops.length).flatMap fun i => match p.ops[i]? with
    | some o => (if o.inA == n then [i] else []) ++ (if o.inB == n then [i] else [])
    | none => []
  match prod, cons with
  | [a], [b] => a < b
  | _, _ => false

/-- SRAM ranges of different operators do not overlap. -/
def rangesApart : List OpEntry → Bool
  | [] => true
  | o :: r => (o.len == 0 || r.all fun x => x.len == 0 || x.off + x.len ≤ o.off || o.off + o.len ≤ x.off) && rangesApart r

/-- An exchange entry obeys R298. -/
def exchOk (d : List Byte) : Bool :=
  let role := num d 0 1
  num d 1 1 < 8 && num d 4 1 ≤ 5 && num d 5 3 == 0 && num d 0x0C 4 == 0 &&
    ((role == 1 && num d 2 1 < 24 && num d 3 1 < 8) || (role == 2 && 1 ≤ num d 2 1 && num d 2 1 ≤ 24 && num d 3 1 == 0))

/-- Channels are unique within their role. -/
def chUnique : List ExEntry → Bool
  | [] => true
  | e :: r => !(r.any fun x => x.role == e.role && x.ch == e.ch) && chUnique r

/-- An operator uses the DEFLATE unit (R290, R333). -/
def usesDeflate (o : OpEntry) : Bool := (o.code == 1 && bit o.flags 0) || o.code == 0x0E

/-- The fault that the checks at start give a job, if any (R296, R310, R322, R323, R333). -/
def startFault (jd : List Byte) (jpz : Bool) (d : List Byte) (ppz : Bool) (micro : Nat) : Option JFault :=
  if jd.length != 64 then some { cause := cBus }
  else if jpz then some { cause := cDescPoison }
  else if !jobDescOk jd then some { cause := cDesc }
  else if d.length < 64 then some { cause := cBus }
  else if ppz then some { cause := cDescPoison }
  else if !pipeHdrOk d then some { cause := cDesc }
  else if d.length < pipeLen d then some { cause := cBus }
  else
    let p := parsePipe d (jobArgs jd)
    let so := 64 + 128 * p.ops.length
    let xo := so + 8 * p.streams.length
    let whole := (List.range p.streams.length).all (fun n => streamOk (sub d (so + 8 * n) 8) && streamUse p n) &&
      (List.range p.exch.length).all (fun n => exchOk (sub d (xo + 16 * n) 16)) && chUnique p.exch &&
      p.ops.any (fun o => o.outA == 0xFF) && rangesApart p.ops && (p.ops.filter usesDeflate).length ≤ 1 &&
      (d.drop (pipeLen d)).all (· == 0)
    let bad := (List.range p.ops.length).find? fun i => match p.ops[i]? with
      | some o => !shapeOk p.streams.length o || num d (64 + 128 * i + 6) 2 != 0 || p.sramKib < o.off + o.len
      | none => false
    match bad with
    | some i => some { cause := cDesc, op := i }
    | none =>
      if !whole then some { cause := cDesc }
      else
        match (List.range p.ops.length).find? fun i => match p.ops[i]? with | some o => opCheck p o != 0 | none => false with
        | some i => some { cause := match p.ops[i]? with | some o => opCheck p o | none => cDesc, op := i }
        | none => if micro < p.microMin then some { cause := cMicrocode } else none

end Sys2Proof.Machine
end

