-- ==== Sys2Proof/Machine/Operators.lean ====
section
/-!
DEFINITION. What the operators of a column engine compute: sources, selection, arithmetic, tables, sorting, exchange and sinks.
-/

namespace Sys2Proof.Machine

/-! ### Lanes and rows (R282 to R284) -/

/-- A row of lanes. -/
abbrev Row := List Lane36

/-- An element of a stream before its END: a row or a BREAK (R324). -/
inductive Tok where
  | row (r : Row)
  | brk
  deriving DecidableEq, Repr

/-- A lane of a payload and a tag nibble. -/
def mkLane (v t : Nat) : Lane36 := ⟨BitVec.ofNat 32 v, BitVec.ofNat 4 t⟩

def Lane36.null (l : Lane36) : Bool := l.t.getLsbD 0
def Lane36.pz (l : Lane36) : Bool := l.t.getLsbD 1
def Lane36.mark (l : Lane36) : Bool := l.t.getLsbD 2
def Lane36.low (l : Lane36) : Bool := l.t.getLsbD 3

/-- A lane with T1 set. -/
def Lane36.withPz (l : Lane36) : Lane36 := { l with t := l.t ||| 2 }

/-- A lane with T2 set or cleared. -/
def Lane36.withMark (l : Lane36) (b : Bool) : Lane36 := { l with t := if b then l.t ||| 4 else l.t &&& 11 }

/-- A NULL lane. -/
def nullLane : Lane36 := mkLane 0 1

/-- The payload an output writes: 0 for a NULL lane (R282). -/
def Lane36.out (l : Lane36) : Nat := if l.null then 0 else l.v.toNat

/-- Lane `k` of a row. -/
def lane (r : Row) (k : Nat) : Lane36 := lget nullLane r k

/-- Value and T0 to T2 of a lane or of a pair (R282). -/
def valueAt (s : StreamEntry) (r : Row) (k : Nat) : Nat × Nat :=
  let a := lane r k
  if s.wide k then
    let b := lane r (k + 1)
    (a.v.toNat + b.v.toNat * 2 ^ 32, (a.t.toNat % 8).lor (b.t.toNat % 4))
  else (a.v.toNat, a.t.toNat % 8)

/-- The lanes of a value with T0 to T2; a pair carries T3 on its low half, and T2 there only (R282). -/
def putValue (wide : Bool) (v t : Nat) : Row :=
  if wide then [mkLane v (t % 8 + 8), mkLane (v / 2 ^ 32) (t % 4)] else [mkLane v (t % 8)]

/-- A row with lanes from `k` on replaced. -/
def setLanes (r : Row) (k : Nat) (ls : List Lane36) : Row := r.zipIdx.map fun (l, i) => if k ≤ i then (ls[i - k]?).getD l else l

/-- T1 on either half of a pair is set on both (R283). -/
def fixPairs (s : StreamEntry) (r : Row) : Row :=
  r.zipIdx.map fun (l, i) =>
    if (s.wide i && (lane r (i + 1)).pz) || (0 < i && s.wide (i - 1) && (lane r (i - 1)).pz) then l.withPz else l

/-- A source passes an incomplete pair on with T1 on both lanes, and a low half directly after another likewise (R284). -/
def fixSource (s : StreamEntry) (r : Row) : Row :=
  let low := fun i => (lane r i).low
  let bad := fun i => low i && (!s.wide i || low (i + 1))
  fixPairs s (r.zipIdx.map fun (l, i) =>
    if bad i || (0 < i && ((low (i - 1) && low i) || (s.wide (i - 1) && bad (i - 1)))) then l.withPz else l)

/-- The words of a fragment as SCAN_FRAG passes them on: a pair takes two words of one serial lane, `next` after each other, and what R283 and R284 say of
its halves holds of them. -/
def fixWords (next : Nat → Bool) (ws : List Lane36) : List Lane36 :=
  let low := fun k => (lane ws k).low
  let whole := fun k => low k && next k && !low (k + 1)
  ws.zipIdx.map fun (l, k) =>
    let after := 0 < k && next (k - 1) && low (k - 1)
    if (low k && !whole k) || (after && low k) || (whole k && (lane ws (k + 1)).pz) || (after && whole (k - 1) && (lane ws (k - 1)).pz) then l.withPz
    else l

/-- Two's-complement value of `n` bits. -/
def sx (n v : Nat) : Int := if bit v (n - 1) then (v % 2 ^ n : Nat) - (2 ^ n : Nat) else ((v % 2 ^ n : Nat) : Int)

/-- A 32-bit value extended to 64 bits (R323). -/
def ext64 (signed : Bool) (v : Nat) : Nat := if signed && bit v 31 then v % 2 ^ 32 + 2 ^ 64 - 2 ^ 32 else v % 2 ^ 32

/-- Whether x < y, unsigned or as two's complement of `n` bits. -/
def valueLt (signed : Bool) (n x y : Nat) : Bool := if signed then sx n x < sx n y else x < y

/-- Comparison codes 0 to 7 (R338). -/
def compareOp (op : Nat) (signed : Bool) (n x y : Nat) : Bool :=
  match op with
  | 0 => x == y
  | 1 => x != y
  | 2 => valueLt signed n x y
  | 3 => !valueLt signed n y x
  | 4 => valueLt signed n y x
  | 5 => !valueLt signed n x y
  | 6 => x.land y != 0
  | _ => x.land y == y

/-- The row hash over lanes (R327). -/
def laneHash (l : Row) : Nat := rowHash (l.map Lane36.out)

/-! ### A running evaluation -/

/-- What the evaluation of a job's pipeline has done so far. `mixed`: the job does not commit, so each byte it writes may be new or
old (R316). -/
structure Run where
  hw : Hw
  mem : Mem
  ops : List MemOp := []
  pipe : Pipe
  asker : Asker
  recv : List RecvCh := []
  mixed : Bool := false
  /-- in a job that does not commit: output writes had been issued when it ended (R312, R316) -/
  issued : Bool := true
  sram : Tab Byte := []
  lanesIn : Nat := 0
  lanesOut : Nat := 0
  inflIn : Nat := 0
  inflOut : Nat := 0
  poison : Bool := false
  limit : Bool := false
  wrote : Bool := false
  results : List (Nat × Nat) := []
  fault : Option JFault := none
  strm : Tab (List Tok) := []
  ran : List Nat := []
  flits : List (Nat × List Row) := []

/-- The run ends with a fault, unless it has one. -/
def Run.fail (r : Run) (f : JFault) : Run := if r.fault.isSome then r else { r with fault := some f }

/-- An operator's own fault: cause OPERATOR with a detail code and the index it names (R325). -/
def Run.opFail (r : Run) (i code : Nat) (idx : Nat := 0) : Run :=
  r.fail { cause := cOperator, op := i, result := idx % 2 ^ 16 * 2 ^ 16 + code }

/-- Read bytes: the bytes and, for each, whether its line is poisoned; a refused access is a fault (R283, R297). -/
def Run.rd (r : Run) (i : Nat) (l : Loc) (o n : Nat) : Run × List Byte × List Bool :=
  let none' := (zeros n, List.replicate n false)
  if r.fault.isSome then (r, none')
  else
    match l with
    | .sram a =>
      if r.pipe.sramKib * 1024 < a + o + n then (r.fail { cause := cBus, op := i }, none')
      else (r, (List.range n).map fun k => tget 0 r.sram (a + o + k), List.replicate n false)
    | .phys a =>
      let (h, ok, bs, ps) := agentRead r.hw r.mem r.asker (a + o) n
      if ok then ({ r with hw := h }, bs, ps) else ({ r with hw := h }.fail { cause := cBus, op := i }, none')

/-- The bytes of a write that land: all, or in a job that does not commit any of them (R316). -/
def landing (h : Hw) (mixed : Bool) (d : List Byte) : List (Option Byte) × Hw :=
  if mixed then
    (d.zipIdx.map fun (b, k) => if Config.freeBool (h.freeCtr + k) then some b else none, { h with freeCtr := h.freeCtr + d.length })
  else (d.map some, h)

/-- Write bytes; a refused access is a fault (R297). `sure`: the write lands whatever becomes of the job. -/
def Run.wr (r : Run) (i : Nat) (l : Loc) (o : Nat) (d : List Byte) (sure : Bool := false) : Run :=
  if r.fault.isSome || d.isEmpty || !(r.issued || sure) then r
  else
    match l with
    | .sram a =>
      if r.pipe.sramKib * 1024 < a + o + d.length then r.fail { cause := cBus, op := i }
      else { r with sram := d.zipIdx.foldl (fun t (b, k) => tset 0 t (a + o + k) b) r.sram }
    | .phys a =>
      let (data, h) := landing r.hw (r.mixed && !sure) d
      let (e, ok) := writePieces h r.mem r.asker data false (pieces (a + o) d.length)
      let r := { r with hw := e.hw, mem := r.mem.applyAll e.ops, ops := r.ops ++ e.ops, wrote := true }
      if ok then r else r.fail { cause := cBus, op := i }

/-- Read at most one header of `n` bytes; a poisoned line is a fault of a given kind. -/
def Run.rdHdr (r : Run) (i : Nat) (l : Loc) (o n : Nat) (f : JFault) : Run × List Byte :=
  let (r, bs, ps) := r.rd i l o n
  (if ps.any id then r.fail f else r, bs)

/-! ### Sources: SCAN (R288, R289, R329 to R333) -/

/-- A page header passes the checks of a scan (R288). -/
def pageOk (d : List Byte) : Bool :=
  let rows := num d 4 4
  num d 0 2 == 0x4750 && num d 2 1 == 1 && num d 0x3C 4 == crc32 (sub d 0 0x3C) && 1 ≤ rows && rows ≤ 1048576 && num d 8 1 ≤ 4 &&
    num d 0x10 4 == (if bit (num d 3 1) 0 then 0 else (rows + 1) / 2) && (num d 8 1 != 0 || 4 * rows ≤ num d 0x14 4)

/-- Packed field of `b` bits from plane bit `n` on (R332). -/
def field (pl : List Byte) (n b : Nat) : Nat := num pl (n / 8) ((n % 8 + b + 7) / 8) / 2 ^ (n % 8) % 2 ^ b

/-- Run-length pairs: none where one is cut or has COUNT 0 (R332). -/
def runs : Nat → List Byte → Option (List Nat)
  | _, [] => some []
  | 0, _ => none
  | k + 1, pl =>
    let c := num pl 0 4
    if pl.length < 8 || c == 0 then none else (runs k (pl.drop 8)).map (List.replicate c (num pl 4 4) ++ ·)

/-- Running sums of a delta plane (R332). -/
def deltas (b : Nat) : Nat → List Nat → List Nat
  | _, [] => []
  | v, f :: r => let n := (v + (if bit f (b - 1) then f + 2 ^ 32 - 2 ^ b else f)) % 2 ^ 32; n :: deltas b n r

/-- The values of an encoded plane; none where it does not fit ROWS (R332). -/
def decodePlane (enc b rows : Nat) (pl : List Byte) : Option (List Nat) :=
  let fits := fun o n => 8 * o + n ≤ 8 * pl.length
  match enc with
  | 0 => if fits 0 (32 * rows) then some ((List.range rows).map fun i => num pl (4 * i) 4) else none
  | 1 => if b ≤ 32 && fits 4 (rows * b) then some ((List.range rows).map fun i => (num pl 0 4 + field pl (32 + i * b) b) % 2 ^ 32) else none
  | 2 =>
    let n := num pl 0 4
    let o := 4 + 4 * n
    if 1 ≤ b && b ≤ 16 && 1 ≤ n && n ≤ 65536 && fits o (rows * b) then
      let fs := (List.range rows).map fun i => field pl (8 * o + i * b) b
      if fs.all fun f => f < n then some (fs.map fun f => num pl (4 + 4 * f) 4) else none
    else none
  | 3 => (runs (pl.length + 1) pl).bind fun l => if l.length == rows then some l else none
  | _ =>
    if 1 ≤ b && b ≤ 32 && fits 4 ((rows - 1) * b) then
      some (num pl 0 4 :: deltas b (num pl 0 4) ((List.range (rows - 1)).map fun i => field pl (32 + i * b) b))
    else none

/-- Round up to a multiple of 64. -/
def up64 (n : Nat) : Nat := (n + 63) / 64 * 64

/-- The plane of a page after inflation and whether each byte is poisoned, or the detail that ends the job; an inflated byte is made from all of the
stream before it (R283, R333; log 97). -/
def inflatePage (o : OpEntry) (d pl : List Byte) (pz : List Bool) : Except Nat (List Byte × List Bool) :=
  if num d 0x0A 1 != 1 then .ok (pl, pz)
  else if !bit o.flags 0 then .error 5
  else if o.len * 1024 / o.p 0 1 < num d 0x14 4 then .error inflLimit
  else (inflate (num d 0x14 4) pl).map fun out => (out.map (·.1), out.map fun x => (pz.take x.2).any id)

/-- The run that holds a row, by the COUNTs. -/
def runOf : List Nat → Nat → Nat
  | [], _ => 0
  | c :: cs, k => if k < c then 0 else 1 + runOf cs (k - c)

/-- Lane `k` of a plane lies in a poisoned line: the bytes of its own field, and those that its value is reckoned from (R283, R332). DEDUCED: R283
names the lane's payload; BASE, the dictionary, the COUNTs up to a run and the fields that a delta adds up are inputs of the value (R282; log
97). -/
def laneBad (enc b : Nat) (pl : List Byte) (pz : List Bool) (k : Nat) : Bool :=
  let hit := fun o n => ((pz.drop o).take n).any id
  let fields := fun n b => b != 0 && hit (n / 8) ((n % 8 + b + 7) / 8)
  match enc with
  | 0 => hit (4 * k) 4
  | 1 => hit 0 4 || fields (32 + k * b) b
  | 2 =>
    let o := 8 * (4 + 4 * num pl 0 4) + k * b
    hit 0 4 || fields o b || hit (4 + 4 * field pl o b) 4
  | 3 => hit 0 (8 * (runOf ((List.range (pl.length / 8)).map fun r => num pl (8 * r) 4) k + 1))
  | _ => hit 0 4 || fields 32 (k * b)

/-- The lanes of column `c`'s page at an address with its header (R283, R330, R332). A dictionary plane takes its place beside the staging
of the `staged` DEFLATED pages of the group; one that is inflated lies in its own. DEDUCED: R332 does not say whose staging counts (log
73). -/
def readPage (r : Run) (i : Nat) (o : OpEntry) (staged c : Nat) (l : Loc) (d : List Byte) : Run × List Lane36 :=
  let rows := num d 4 4
  let plen := num d 0x0C 4
  let (r, stored, pz) := r.rd i l 64 plen
  let (r, tags, tz) := r.rd i l (64 + up64 plen) (num d 0x10 4)
  if r.fault.isSome then (r, [])
  else
    match inflatePage o d stored pz with
    | .error e => (r.opFail i e c, [])
    | .ok (pl, pz) =>
      let infl := num d 0x0A 1 == 1
      let r := if infl then { r with inflIn := r.inflIn + stored.length, inflOut := r.inflOut + pl.length } else r
      let big := num d 8 1 == 2 && o.len * 1024 < (if infl then 0 else pl.length) + staged * (o.len * 1024 / o.p 0 1)
      match if big then none else decodePlane (num d 8 1) (num d 9 1) rows pl with
      | none => (r.opFail i 1 c, [])
      | some vs =>
        (r, vs.zipIdx.map fun (v, k) =>
          let t := if num d 0x10 4 == 0 then 0 else num tags (k / 2) 1 / 16 ^ (k % 2) % 16
          let bad := laneBad (num d 8 1) (num d 9 1) pl pz k || lget false tz (k / 2)
          let x := mkLane v t
          if bad then x.withPz else x)

/-- The rows of a group: `w` lanes of each column at a time (R330). -/
def zipColumns (n : Nat) (cols : List (Nat × List Lane36)) : List Row :=
  (List.range n).map fun k => cols.flatMap fun (w, ls) => if w == 2 then [lane ls (2 * k), lget (nullLane.withPz) ls (2 * k + 1)] else [lane ls k]

/-- A location moved on by some bytes. -/
def Loc.plus (l : Loc) (n : Nat) : Loc := match l with | .phys a => .phys (a + n) | .sram a => .sram (a + n)

/-- The headers of a group of pages. -/
def readHdrs (r : Run) (i : Nat) : List Loc → Run × List (List Byte)
  | [] => (r, [])
  | l :: ls =>
    let (r, d) := r.rdHdr i l 0 64 { cause := cPagePoison, op := i }
    let r := if r.fault.isNone && !pageOk d then r.fail { cause := cPageHdr, op := i } else r
    let (r, ds) := readHdrs r i ls
    (r, d :: ds)

/-- Whether PRUNE skips a group (R331). -/
def pruned (o : OpEntry) (ds : List (List Byte)) : Bool :=
  if o.p 1 1 == 0xFF then false
  else
    let d := lget [] ds (o.p 1 1)
    let lt := valueLt (bit (o.p 2 1) 0) 32
    bit (num d 3 1) 2 && num d 0x20 4 == 0 && num d 0x24 4 == 0 && (lt (num d 0x1C 4) (o.p 4 4) || lt (o.p 8 4) (num d 0x18 4))

/-- The columns of one group. -/
def readCols (r : Run) (i : Nat) (o : OpEntry) (staged : Nat) : Nat → List (Nat × Loc × List Byte) → Run × List (Nat × List Lane36)
  | _, [] => (r, [])
  | c, (w, l, d) :: rest =>
    let (r, ls) := readPage r i o staged c l d
    let (r, cs) := readCols r i o staged (c + 1) rest
    (r, (w, ls) :: cs)

/-- The rows of a group: a PAIR page of ROWS lanes holds half as many rows (R284, R286, R330). -/
def groupRows (ws : List Nat) (rows : Nat) : Nat := if ws.all (· == 2) then (rows + 1) / 2 else rows

/-- The columns of a group of `n` rows, its PAIR columns continued with open values where they stand beside single ones and hold fewer
rows. DESIGN CHOICE: R330 gives row r lane r of every page and says nothing of a PAIR page's rows past its last pair (log 68). -/
def fillCols (r : Run) (n : Nat) : List (Nat × List Lane36) → Run × List (Nat × List Lane36)
  | [] => (r, [])
  | (w, ls) :: cs =>
    let (r, rest) := fillCols r n cs
    if w != 2 || 2 * n ≤ ls.length + 1 then (r, (w, ls) :: rest)
    else
      let ls := if ls.length % 2 == 1 then ls ++ [nullLane.withPz] else ls
      let (vs, h) := freeNats r.hw (2 * n - ls.length)
      ({ r with hw := h }, (w, ls ++ vs.map fun v => mkLane v (v / 2 ^ 32)) :: rest)

/-- Follow the columns of a SCAN group by group; `want` is FIRST_ROW of the next group, `ws` the column widths of the first
(R289, R329 to R331). -/
def scanGroups (r : Run) (i : Nat) (o : OpEntry) (width : Nat) : Nat → List Loc → Option Nat → List Nat → List Row → Run × List Row
  | 0, _, _, _, acc => (r, acc)
  | k + 1, ls, want, ws, acc =>
    let (r, ds) := readHdrs r i ls
    if r.fault.isSome then (r, acc)
    else
      let first := ds.headD []
      let ws := if want.isNone then ds.map fun d => if bit (num d 3 1) 1 then 2 else 1 else ws
      let n := groupRows ws (num first 4 4)
      let same := ds.all fun d => num d 4 4 == num first 4 4 && num d 0x30 8 == num first 0x30 8 && (num d 0x38 4 == 0) == (num first 0x38 4 == 0)
      let good := same && ws.sum == width && match want with | some f => num first 0x30 8 == f | none => true
      if !good then (r.fail { cause := cPageHdr, op := i }, acc)
      else
        let (r, rows) := if pruned o ds then (r, [])
          else
            let (r, cs) := readCols r i o (ds.filter fun d => num d 0x0A 1 == 1).length 0 (ws.zip (ls.zip ds))
            let (r, cs) := fillCols r n cs
            (r, if r.fault.isSome then [] else zipColumns n cs)
        let acc := acc ++ rows
        if num first 0x38 4 == 0 then (r, acc)
        else scanGroups r i o width k ((ls.zip ds).map fun (l, d) => l.plus (num d 0x38 4)) (some (num first 0x30 8 + num first 4 4)) ws acc

/-- SCAN (R329 to R333). -/
def runScan (r : Run) (i : Nat) (o : OpEntry) : Run × List Tok :=
  let so := r.pipe.stream o.outA
  let ls := (List.range (o.p 0 1)).map fun c => r.pipe.loc (o.p (0x10 + 8 * c) 8)
  let (r, rows) := scanGroups r i o so.width (2 ^ 46) ls none [] []
  let r := { r with lanesIn := r.lanesIn + rows.length * so.width }
  let max := o.p 0x0C 4
  let r := if max != 0 && max < rows.length then { r with limit := true } else r
  (r, ((if max == 0 then rows else rows.take max).map (fixSource so)).map .row)

/-! ### SCAN_FRAG (R334 to R336) and RECV (R337) -/

/-- Serial lane and index of each word of a fragment, as its lane tables give them (R335). -/
def laneSpots (g : Nat) (both : Bool) (hd ext : List Byte) : List (Nat × Nat) :=
  let spots := fun (base : Nat) (tab : List Byte) =>
    (List.range 16).flatMap fun k => (List.range (num tab (2 * k) 1)).map fun n => (base + k, n)
  spots (16 * g) (sub hd 0x20 32) ++ (if both then spots (16 * g.xor 1) (sub ext 0 32) else [])

/-- The rows of one fragment (R335, R336). -/
def readFragment (r : Run) (i : Nat) (o : OpEntry) (evseq g d : Nat) : Run × List Row :=
  let l := Loc.phys (d / 2 ^ 18 * 64)
  let pzf : JFault := { cause := cOperator, op := i, result := 0x0A }
  let (r, hd) := r.rdHdr i l 0 64 pzf
  let words := num hd 0x10 2
  let fl := num hd 0x12 1
  let both := bit fl 3
  let tz := bit fl 2
  let po := 64 * (1 + b2n both)
  let tagAt := po + up64 (4 * words)
  let len := tagAt + (if tz then 0 else 64 * ((words + 127) / 128))
  if r.fault.isSome then (r, [])
  else if num hd 8 8 != evseq || num hd 0x14 4 != len || bits d 17 6 * 64 != len then (r.opFail i 9 g, [])
  else
    let (r, ext) := if both then r.rdHdr i l 64 64 pzf else (r, [])
    let (r, pay, pp) := r.rd i l po (4 * words)
    let (r, tag, tp) := if tz then (r, [], []) else r.rd i l tagAt ((words + 1) / 2)
    if r.fault.isSome then (r, [])
    else
      let spots := laneSpots g both hd ext
      let fs := o.p 8 1
      let ws := (List.range words).map fun k =>
        let t := if tz then 0 else num tag (k / 2) 1 / 16 ^ (k % 2) % 16
        let w := mkLane (num pay (4 * k) 4) t
        if bit fl 1 || lget false pp (4 * k) || lget false tp (k / 2) then w.withPz else w
      let next := fun k => (spots[k]?).map (·.1) == (spots[k + 1]?).map (·.1) && (spots[k + 1]?).isSome && k + 1 < words
      (r, (fixWords next ws).zipIdx.map fun (w, k) =>
        let spot := spots[k]?
        (if bit fs 0 then [w] else []) ++ (if bit fs 1 then [match spot with | some x => mkLane x.1 0 | none => nullLane] else []) ++
          (if bit fs 2 then [mkLane g 0] else []) ++ (if bit fs 3 then [match spot with | some x => mkLane x.2 0 | none => nullLane] else []))

/-- The fragments that descriptors name, in order. -/
def readFragments (r : Run) (i : Nat) (o : OpEntry) (evseq : Nat) : List (Nat × Nat) → Run × List Row
  | [] => (r, [])
  | (g, d) :: rest =>
    let sel := o.p 0x10 8
    let skip := !bit d 5 || bit d 2 || (sel != 0 && !bit sel g)
    let (r, a) := if skip then (r, []) else readFragment r i o evseq g d
    let (r, b) := readFragments r i o evseq rest
    (r, a ++ b)

/-- SCAN_FRAG. -/
def runScanFrag (r : Run) (i : Nat) (o : OpEntry) : Run × List Tok :=
  let so := r.pipe.stream o.outA
  let l := r.pipe.loc (o.p 0 8)
  let pzf : JFault := { cause := cOperator, op := i, result := 0x0A }
  let (r, rec') := r.rdHdr i l 0 64 pzf
  let gs := onesOf 64 (num rec' 0x10 8)
  let (r, ds) := r.rdHdr i l 64 (8 * gs.length) pzf
  let (r, rows) := readFragments r i o (num rec' 8 8) (gs.zipIdx.map fun (g, k) => (g, num ds (8 * k) 8))
  ({ r with lanesIn := r.lanesIn + rows.length * so.width }, rows.map .row)

/-- Lanes cut into rows of a width. -/
def cutRows (w : Nat) : Nat → List Lane36 → List Row
  | 0, _ => []
  | k + 1, l => if l.length < w || w == 0 then [] else l.take w :: cutRows w k (l.drop w)

/-- RECV: the rows of its channel in the order their flits came (R301, R337). -/
def runRecv (r : Run) (o : OpEntry) : Run × List Tok :=
  let so := r.pipe.stream o.outA
  let ls := match r.recv.find? fun c => c.ch == o.p 0 1 with | some c => c.lanes | none => []
  let rows := cutRows so.width ls.length ls
  ({ r with lanesIn := r.lanesIn + rows.length * so.width }, (rows.map (fixSource so)).map .row)

/-! ### Selection and arithmetic (R338 to R344) -/

/-- A function on the rows of a stream; BREAK passes (R324). -/
def onRows (f : Row → List Row) (l : List Tok) : List Tok :=
  l.flatMap fun t => match t with | .row r => (f r).map .row | .brk => [.brk]

/-- A comparison term: true, false, or unknown (R339). -/
def term (s : StreamEntry) (e : List Byte) (r : Row) : Option Bool :=
  let k := num e 0 1
  let mode := num e 2 1
  let op := num e 1 1
  let (x, tx) := valueAt s r k
  if 8 ≤ op then
    let b := match op with | 8 => bit tx 0 | 9 => bit tx 2 | 10 => bit tx 1 | _ => true
    some (b != bit mode 2)
  else
    let rhs := bit mode 1
    let wx := s.wide k
    let wy := if rhs then s.wide (num e 3 1) else wx
    let (y, ty) := if rhs then valueAt s r (num e 3 1) else (num e 8 8, 0)
    if bit tx 0 || bit ty 0 then some false
    else if bit tx 1 || bit ty 1 then none
    else
      let sg := bit mode 0
      let n := if wx || wy then 64 else 32
      let x := if n == 64 && !wx then ext64 sg x else x
      let y := if n == 64 && !wy then ext64 sg y else y
      some (compareOp op sg n x y != bit mode 2)

/-- AND and OR of terms (R339). -/
def combine (isOr : Bool) (l : List (Option Bool)) : Option Bool :=
  if isOr then (if l.contains (some true) then some true else if l.contains none then none else some false)
  else (if l.contains (some false) then some false else if l.contains none then none else some true)

/-- FILTER (R340). -/
def filterRow (s : StreamEntry) (o : OpEntry) (r : Row) : List Row :=
  let v := combine (o.p 1 1 == 1) ((List.range (o.p 0 1)).map fun t => term s (sub o.par (16 + 16 * t) 16) r)
  let k := o.p 3 1
  let at' := fun (f : Lane36 → Lane36) => [setLanes r k [f (lane r k)]]
  match o.p 2 1, v with
  | 0, some true => [r]
  | 0, some false => []
  | 0, none => [r.map Lane36.withPz]
  | _, some true => at' fun l => l.withMark true
  | 1, some false => at' fun l => l.withMark false
  | _, some false => [r]
  | _, none => at' fun l => (l.withMark true).withPz

/-- SELECT (R341). -/
def selectRow (o : OpEntry) (r : Row) : List Row :=
  let m := o.p 0 1
  if m != 0xFF && !(lane r m).mark then []
  else
    let out := (List.range (o.p 1 1)).map fun j => let k := o.p (0x10 + j) 1; if k == 0xFE then nullLane else lane r k
    [if bit o.flags 0 then out.map fun l => l.withMark false else out]

/-- The result of an arithmetic operation of PROJECT over `n` bits (R343). -/
def arith (op : Nat) (sg : Bool) (n a b : Nat) : Nat :=
  let m := 2 ^ n
  match op with
  | 1 => (a + b) % m
  | 2 => (a + m - b % m) % m
  | 3 => a * b % m
  | 4 => if valueLt sg n b a then b else a
  | 5 => if valueLt sg n a b then b else a
  | 6 => a.land b
  | 7 => a.lor b
  | 8 => a.xor b
  | 9 => a * 2 ^ (b % n) % m
  | 0x0A => if sg then ((sx n a).shiftRight (b % n) % (m : Int)).toNat else a / 2 ^ (b % n)
  | _ => if sg then ((sx n a) - (sx n b)).natAbs % m else max a b - min a b

/-- EXTRACT (R343). -/
def extract (sg : Bool) (a c : Nat) : Nat :=
  let w := bits c 12 8 + 1
  let f := a / 2 ^ (c % 32) % 2 ^ w
  if sg && bit f (w - 1) then f + 2 ^ 32 - 2 ^ (min w 32) else f

/-- One expression of PROJECT: the lane it writes and what it writes; T3 of what it computes follows the output's PAIR_MASK (R342 to R344). DEDUCED: so
does T3 of CONST, whose other tags are 0 (log 98). -/
def expr (s t : StreamEntry) (e : List Byte) (r : Row) : Nat × List Lane36 :=
  let opc := num e 0 1
  let op := opc % 64
  let sg := bit opc 6
  let k := num e 2 1
  let c := num e 4 4
  let out := num e 1 1
  let put := fun (wide : Bool) (v tg : Nat) => if wide then putValue true v tg else [mkLane v (tg % 8 + 8 * b2n (t.wide out))]
  if op == 0x0E then (out, put (s.wide k) (if s.wide k then ext64 sg c else c) 0)
  else if op == 0 then (out, if s.wide k then [lane r k, lane r (k + 1)] else [lane r k])
  else
    let wide := s.wide k
    let (a, ta) := valueAt s r k
    let useB := op == 0x0F || (binOp op && !bit opc 7)
    let kb := num e 3 1
    let wb := useB && s.wide kb
    let (b, tb) := if useB then valueAt s r kb else (c, 0)
    let low := (ta % 4).lor (tb % 4)
    let ow := wide && op != 0x0D && op != 0x0F
    let tags := low + (if bit ta 2 then 4 else 0)
    if bit low 0 then (out, put ow 0 tags)
    else
      let n := if wide then 64 else 32
      let v :=
        if op == 0x0B then extract sg a c
        else if op == 0x0D then rowHash (if wide then [a % 2 ^ 32, a / 2 ^ 32] else [a])
        else if op == 0x0F then
          let n := if wide || wb then 64 else 32
          let x := if n == 64 && !wide then ext64 sg a else a
          let y := if n == 64 && !wb then ext64 sg b else b
          b2n (compareOp (c % 16) sg n x y)
        else arith op sg n a ((if wide && !wb then ext64 sg b else b) % 2 ^ n)
      (out, put ow v tags)

/-- PROJECT (R342). -/
def projectRow (s t : StreamEntry) (o : OpEntry) (r : Row) : Row :=
  let base := (List.range t.width).map fun j => if j < s.width then lane r j else nullLane
  (List.range (o.p 0 1)).foldl (fun out k => let (j, ls) := expr s t (sub o.par (8 + 8 * k) 8) r; setLanes out j ls) base

/-! ### Hash tables (R345 to R347) -/

/-- Tag bytes of lanes, packed as in a tag plane (R285). -/
def laneTags (l : List Lane36) : List Byte := tagBytes (l.map fun x => x.t.toNat)

/-- A table header (R345). -/
def tableHdr (flags log2 l keys cap count pair : Nat) : List Byte :=
  leBytes 2 0x4854 ++ leBytes 1 1 ++ leBytes 1 flags ++ leBytes 1 log2 ++ leBytes 1 l ++ leBytes 1 keys ++ leBytes 1 0 ++
    leBytes 4 cap ++ leBytes 4 count ++ leBytes 2 pair ++ zeros 46

/-- A table entry (R345). -/
def tableEntry (next hash : Nat) (r : Row) : List Byte :=
  let b := leBytes 4 next ++ leBytes 4 hash ++ (r.flatMap fun l => leBytes 4 l.out) ++ laneTags r
  b ++ zeros (entrySize r.length - b.length)

/-- The entries of a bucket's chain, newest first: payloads and tags of L lanes, with the HASH (R345). -/
def chain (r : Run) (i : Nat) (l : Loc) (log2 n : Nat) : Nat → Nat → Run × List (Nat × Row)
  | 0, _ => (r, [])
  | k + 1, idx =>
    if idx == 0 then (r, [])
    else
      let (r, d, pz) := r.rd i l (64 + 4 * 2 ^ log2 + entrySize n * (idx - 1)) (entrySize n)
      if r.fault.isSome then (r, [])
      else
        let row := (List.range n).map fun j =>
          let x := mkLane (num d (8 + 4 * j) 4) (num d (8 + 4 * n + j / 2) 1 / 16 ^ (j % 2) % 16)
          if lget false pz (8 + 4 * j) || lget false pz (8 + 4 * n + j / 2) then x.withPz else x
        let (r, rest) := chain r i l log2 n k (num d 0 4)
        (r, (num d 4 4, row) :: rest)

/-- The chain of a hash. -/
def bucket (r : Run) (i : Nat) (l : Loc) (log2 n cap hash : Nat) : Run × List (Nat × Row) :=
  let (r, d, _) := r.rd i l (64 + 4 * (hash % 2 ^ log2)) 4
  chain r i l log2 n (cap + 1) (num d 0 4)

/-- The first `k` payloads of two rows are equal bit for bit. -/
def sameKeys (k : Nat) (a b : Row) : Bool := (a.take k).map Lane36.out == (b.take k).map Lane36.out

/-- Insert rows in a table that holds `count` entries (R346). -/
def insertRows (r : Run) (i : Nat) (o : OpEntry) (l : Loc) (n : Nat) : Nat → List Row → Run × Nat
  | count, [] => (r, count)
  | count, row :: rest =>
    let keys := o.p 0x0D 1
    let log2 := o.p 0x0C 1
    let cap := o.p 8 4
    let hash := laneHash (row.take keys)
    if r.fault.isSome then (r, count)
    else if (row.take keys).any Lane36.null then insertRows r i o l n count rest
    else
      let (r, dup) := if bit o.flags 1 then
          let (r, c) := bucket r i l log2 n cap hash
          (r, c.any fun e => e.1 == hash && sameKeys keys e.2 row)
        else (r, false)
      if dup then insertRows r i o l n count rest
      else if cap ≤ count then (r.opFail i 6, count)
      else
        let (r, d, _) := r.rd i l (64 + 4 * (hash % 2 ^ log2)) 4
        let r := r.wr i l (64 + 4 * 2 ^ log2 + entrySize n * count) (tableEntry (num d 0 4) hash row)
        let r := r.wr i l (64 + 4 * (hash % 2 ^ log2)) (leBytes 4 (count + 1))
        let r := { r with lanesOut := r.lanesOut + n }
        insertRows r i o l n (count + 1) rest

/-- The rows of a stream, its BREAKs left out. -/
def rowsOf (l : List Tok) : List Row := l.filterMap fun t => match t with | .row r => some r | .brk => none

/-- The start of HASH_BUILD: a new table's header with BUILDING and its empty buckets, or BUILDING in the header of the table it appends to (R346). -/
def startBuild (r : Run) (i : Nat) (o : OpEntry) : Run :=
  let s := r.pipe.stream o.inA
  let l := r.pipe.loc (o.p 0 8)
  let cap := o.p 8 4
  let log2 := o.p 0x0C 1
  let keys := o.p 0x0D 1
  if bit o.flags 0 then
    let (r, d, _) := r.rd i l 0 64
    if num d 0 2 != 0x4854 || num d 4 1 != log2 || num d 5 1 != s.width || num d 6 1 != keys || num d 8 4 != cap ||
        num d 0x10 2 != s.pair then r.opFail i 8
    else if bit (num d 3 1) 0 then r.opFail i 7
    else r.wr i l 3 (leBytes 1 (num d 3 1 + 1))
  else (r.wr i l 0 (tableHdr 1 log2 s.width keys cap 0 s.pair)).wr i l 64 (zeros (4 * 2 ^ log2))

/-- The operator builds a table outside its job's working SRAM. -/
def buildsOutside (p : Pipe) (o : OpEntry) : Bool := o.code == 7 && (match p.loc (o.p 0 8) with | .phys _ => true | .sram _ => false)

/-- What a job's HASH_BUILD operators do at its start to tables that others see (R346, R347). -/
def startTables (r : Run) : Run := r.pipe.ops.zipIdx.foldl (fun r (o, i) => if buildsOutside r.pipe o then startBuild r i o else r) r

/-- HASH_BUILD: the rows join the table that the operator has started, and at END the count is written and BUILDING cleared (R346). A table in working
SRAM is started here, since nothing else sees it. -/
def runHashBuild (r : Run) (i : Nat) (o : OpEntry) (toks : List Tok) : Run :=
  let s := r.pipe.stream o.inA
  let l := r.pipe.loc (o.p 0 8)
  let r := if buildsOutside r.pipe o then r else startBuild r i o
  let (r, d, _) := r.rd i l 0 64
  let append := bit o.flags 0
  let rest := if append then num d 3 1 / 2 * 2 else 0
  let (r, count) := insertRows r i o l s.width (if append then num d 0x0C 4 else 0) (rowsOf toks)
  if r.fault.isSome then r
  else
    let r := if r.mixed then r else (r.wr i l 0x0C (leBytes 4 count)).wr i l 3 (leBytes 1 rest)
    { r with results := (i, count) :: r.results }

/-- The output rows of one probe row (R347). -/
def probeRow (o : OpEntry) (r : Row) (ms : List Row) : List Row × Bool :=
  let keys := o.p 0x0B 1
  let max := if o.p 8 2 == 0 then 1 else o.p 8 2
  let pz := fun (e : Row) (x : Row) => if (r.take keys).any Lane36.pz || (e.take keys).any Lane36.pz then x.map Lane36.withPz else x
  match o.p 0x0A 1 with
  | 0 => ((ms.take max).map fun e => pz e (r ++ e.drop keys), decide (max < ms.length))
  | 1 => ((ms.take 1).map fun e => pz e r, false)
  | 2 => (if ms.isEmpty then [r] else [], false)
  | _ => ([setLanes r 0 [(lane r 0).withMark (!ms.isEmpty)]], false)

/-- Probe the rows of a stream in order. -/
def probeRows (r : Run) (i : Nat) (o : OpEntry) (l : Loc) (log2 n cap : Nat) : List Tok → Run × List Tok
  | [] => (r, [])
  | .brk :: rest => let (r, out) := probeRows r i o l log2 n cap rest; (r, .brk :: out)
  | .row row :: rest =>
    let keys := o.p 0x0B 1
    let hash := laneHash (row.take keys)
    let (r, es) := if (row.take keys).any Lane36.null then (r, []) else bucket r i l log2 n cap hash
    let ms := (es.filter fun e => e.1 == hash && sameKeys keys e.2 row).map (·.2)
    let (out, cut) := probeRow o row ms
    let r := if cut then { r with limit := true } else r
    if r.fault.isSome then (r, [])
    else
      let (r, more) := probeRows r i o l log2 n cap rest
      (r, out.map .row ++ more)

/-- HASH_PROBE (R347): the header is checked at the first input row. -/
def runHashProbe (r : Run) (i : Nat) (o : OpEntry) (toks : List Tok) : Run × List Tok :=
  if (rowsOf toks).isEmpty then (r, toks)
  else
    let l := r.pipe.loc (o.p 0 8)
    let (r, d, _) := r.rd i l 0 64
    let n := num d 5 1
    let fit := o.p 0x0A 1 != 0 || (r.pipe.stream o.outA).width + o.p 0x0B 1 == (r.pipe.stream o.inA).width + n
    if num d 0 2 != 0x4854 || num d 2 1 != 1 || num d 6 1 != o.p 0x0B 1 || bit (num d 3 1) 1 || !fit then (r.opFail i 8, [])
    else if bit (num d 3 1) 0 then (r.opFail i 7, [])
    else probeRows r i o l (num d 4 1) n (num d 8 4) toks

/-! ### Sorting (R348 to R350) -/

/-- Whether row a orders before row b under the keys from `i` on. -/
def rowLt (s : StreamEntry) (o : OpEntry) (a b : Row) : Nat → Nat → Bool
  | 0, _ => false
  | k + 1, i =>
    let ln := o.p (8 + 4 * i) 1
    let fl := o.p (9 + 4 * i) 1
    let (x, tx) := valueAt s a ln
    let (y, ty) := valueAt s b ln
    let lt := fun u v => valueLt (bit fl 1) (if s.wide ln then 64 else 32) u v
    let first := bit fl 2
    if bit tx 0 || bit ty 0 then
      if bit tx 0 && bit ty 0 then rowLt s o a b k (i + 1) else if bit tx 0 then first else !first
    else
      let (u, v) := if bit fl 0 then (y, x) else (x, y)
      if lt u v then true else if lt v u then false else rowLt s o a b k (i + 1)

/-- Whether a orders before b. -/
def before (s : StreamEntry) (o : OpEntry) (a b : Row) : Bool := rowLt s o a b (o.p 0 1) 0

/-- Put a row behind every row that does not order after it. -/
def insertRow (s : StreamEntry) (o : OpEntry) (x : Row) : List Row → List Row
  | [] => [x]
  | y :: r => if before s o x y then x :: y :: r else y :: insertRow s o x r

/-- Sort rows; rows with equal keys keep their order (R348). -/
def sortRows (s : StreamEntry) (o : OpEntry) (l : List Row) : List Row := l.foldl (fun a x => insertRow s o x a) []

/-- The segments between BREAKs. -/
def segments : List Tok → List (List Row)
  | [] => [[]]
  | .brk :: r => [] :: segments r
  | .row x :: r => match segments r with | a :: b => (x :: a) :: b | [] => [[x]]

/-- Lists joined by BREAK. -/
def joinBreak : List (List Tok) → List Tok
  | [] => []
  | [a] => a
  | a :: r => a ++ .brk :: joinBreak r

/-- Rows cut into runs of at most n. -/
def cutRuns (n : Nat) : Nat → List Row → List (List Row)
  | 0, _ => []
  | k + 1, l => if l.isEmpty then [] else l.take n :: cutRuns n k (l.drop n)

/-- SORT_RUN (R349). -/
def runSort (r : Run) (o : OpEntry) (toks : List Tok) : List Tok :=
  let s := r.pipe.stream o.inA
  let n := if o.p 4 4 == 0 then sortCapacity s.width o else o.p 4 4
  joinBreak ((segments toks).map fun seg => joinBreak ((cutRuns (max 1 n) seg.length seg).map fun run => (sortRows s o run).map .row))

/-- Rows in key order throughout. -/
def inOrder (s : StreamEntry) (o : OpEntry) : List Row → Bool
  | a :: b :: r => !before s o b a && inOrder s o (b :: r)
  | _ => true

/-- Merge two lists; on equal keys the first list's row comes first. -/
def mergeRows (s : StreamEntry) (o : OpEntry) : Nat → List Row → List Row → List Row
  | 0, _, _ => []
  | _ + 1, [], b => b
  | _ + 1, a, [] => a
  | k + 1, x :: a, y :: b => if before s o y x then y :: mergeRows s o k (x :: a) b else x :: mergeRows s o k a (y :: b)

/-- MERGE (R350). DESIGN CHOICE: where both inputs are out of order it names A, since R350 does not say which is met first (log 73). -/
def runMerge (r : Run) (i : Nat) (o : OpEntry) (ta tb : List Tok) : Run × List Tok :=
  let s := r.pipe.stream o.inA
  let a := rowsOf ta
  let b := rowsOf tb
  if !inOrder s o a then (r.opFail i 0x0B 0, [])
  else if !inOrder s o b then (r.opFail i 0x0B 1, [])
  else (r, (mergeRows s o (a.length + b.length) a b).map .row)

/-! ### AGGREGATE (R351, R352) -/

/-- What a group holds: key lanes, and for each aggregate its value and whether it took in a T1 lane. -/
structure Group where
  keys : Row
  aggs : List (Option Nat × Bool)

/-- An aggregate takes one row in (R352). -/
def aggStep (s : StreamEntry) (a : List Byte) (row : Row) (v : Option Nat × Bool) : Option Nat × Bool :=
  let fn := num a 0 1
  let k := num a 1 1
  let sg := bit (num a 2 1) 0
  if fn == 0 then (some ((v.1.getD 0 + 1) % 2 ^ 64), v.2)
  else
    let (x, t) := valueAt s row k
    if bit t 0 then v
    else
      let pz := v.2 || bit t 1
      let n := if s.wide k then 64 else 32
      let first := fun (f : Nat → Nat) => match v.1 with | some c => f c | none => x
      let y := match fn with
        | 1 => (v.1.getD 0 + 1) % 2 ^ 64
        | 2 => (v.1.getD 0 + (if s.wide k then x else ext64 sg x)) % 2 ^ 64
        | 3 => first fun c => if valueLt sg n x c then x else c
        | 4 => first fun c => if valueLt sg n c x then x else c
        | 5 => first fun c => c.land x
        | _ => first fun c => c.lor x
      (some y, pz)

/-- The key lanes of a row: payload 0 where NULL, T0 and T1 kept (R352). -/
def keyLanes (s : StreamEntry) (o : OpEntry) (row : Row) : Row :=
  (List.range (o.p 0x15 1)).flatMap fun j =>
    let k := o.p (0x18 + j) 1
    let (v, t) := valueAt s row k
    putValue (s.wide k) (if bit t 0 then 0 else v) (t % 4)

/-- Equal payloads and equal T0. -/
def sameGroup (a b : Row) : Bool := a.map (fun l => (l.v, l.null)) == b.map (fun l => (l.v, l.null))

/-- A row joins its group; none: a new group finds CAPACITY full. -/
def groupRow (s : StreamEntry) (o : OpEntry) (gs : List Group) (row : Row) : Option (List Group) :=
  let key := keyLanes s o row
  let poisoned := key.any Lane36.pz
  let step := fun (g : Group) => { g with
    keys := if poisoned then g.keys.map Lane36.withPz else g.keys,
    aggs := g.aggs.zipIdx.map fun (v, j) => aggStep s (sub o.par (0x20 + 4 * j) 4) row v }
  if gs.any fun g => sameGroup g.keys key then some (gs.map fun g => if sameGroup g.keys key then step g else g)
  else if o.p 0x15 1 != 0 && o.p 0x10 4 ≤ gs.length then none
  else some (gs ++ [step { keys := key, aggs := List.replicate (o.p 0x16 1) (none, false) }])

/-- The output row of a group (R351, R352). -/
def groupOut (s : StreamEntry) (o : OpEntry) (g : Group) : Row :=
  g.keys ++ g.aggs.zipIdx.flatMap fun (v, j) =>
    let fn := o.p (0x20 + 4 * j) 1
    let wide := fn ≤ 2 || s.wide (o.p (0x21 + 4 * j) 1)
    match v.1 with
    | some x => putValue wide x (if v.2 then 2 else 0)
    | none => if fn == 0 then putValue wide 0 0 else putValue wide 0 1

/-- Planes of lanes: payloads, and tags where a tag plane is given; counted as written (R282, R285). -/
def writePlanes (r : Run) (i : Nat) (out : Loc) (tags : Option Loc) (ls : List Lane36) : Run :=
  let r := r.wr i out 0 (ls.flatMap fun l => leBytes 4 l.out)
  let r := match tags with | some t => r.wr i t 0 (laneTags ls) | none => r
  { r with lanesOut := r.lanesOut + ls.length }

/-- Bucket words after the entries: for each entry the index of the next older one. -/
def chains (log2 : Nat) : List Nat → Nat → Tab Nat → List Nat × Tab Nat
  | [], _, t => ([], t)
  | hsh :: r, k, t =>
    let b := hsh % 2 ^ log2
    let (ns, t') := chains log2 r (k + 1) (tset 0 t b (k + 1))
    (tget 0 t b :: ns, t')

/-- The group table in memory (R345, R351). -/
def writeGroups (r : Run) (i : Nat) (o : OpEntry) (sh : StreamEntry) (keyLen : Nat) (rows : List Row) : Run :=
  let l := r.pipe.loc (o.p 0 8)
  let log2 := o.p 0x14 1
  let hs := rows.map fun x => laneHash (x.take keyLen)
  let (ns, bs) := chains log2 hs 0 []
  let r := r.wr i l 64 ((List.range (2 ^ log2)).flatMap fun b => leBytes 4 (tget 0 bs b))
  let r := r.wr i l (64 + 4 * 2 ^ log2) (((rows.zip hs).zip ns).flatMap fun x => tableEntry x.2 x.1.2 x.1.1)
  if r.mixed then r else r.wr i l 0 (tableHdr 2 log2 sh.width keyLen (o.p 0x10 4) rows.length sh.pair)

/-- AGGREGATE. -/
def runAggregate (r : Run) (i : Nat) (o : OpEntry) (toks : List Tok) : Run × List Tok :=
  let s := r.pipe.stream o.inA
  let sh := aggShape s o
  let keyLen := (keyLanes s o []).length
  let r := if o.p 0x15 1 == 0 then r
    else r.wr i (r.pipe.loc (o.p 0 8)) 0 (tableHdr 3 (o.p 0x14 1) sh.width keyLen (o.p 0x10 4) 0 sh.pair) true
  let gs := (rowsOf toks).foldl (fun (a : Option (List Group)) row => a.bind fun gs => groupRow s o gs row) (some [])
  match gs with
  | none => (r.opFail i 6, [])
  | some gs =>
    let gs := if o.p 0x15 1 == 0 && gs.isEmpty then [{ keys := [], aggs := List.replicate (o.p 0x16 1) (none, false) }] else gs
    let rows := gs.map (groupOut s o)
    let r := if o.p 0x15 1 == 0 then r else writeGroups r i o sh keyLen rows
    if o.outA != 0xFF then (r, (toks.filter (· == .brk)) ++ rows.map .row)
    else
      let r := { r with results := (i, rows.length) :: r.results }
      if bit o.flags 0 then (r, [])
      else
        let max := o.p 0x48 8
        let r := if max < rows.length then { r with limit := true } else r
        (writePlanes r i (r.pipe.loc (o.p 8 8)) (some (r.pipe.loc (o.p 0x40 8))) (rows.take max).flatten, [])

/-! ### PARTITION and SEND (R353, R354) -/

/-- PARTITION: a row with its DEST lane. -/
def partitionRow (s : StreamEntry) (o : OpEntry) (r : Row) : Row :=
  if o.p 0 1 == 0 then
    let ks := r.take (o.p 2 1)
    r ++ [mkLane (laneHash ks % o.p 1 1) (if ks.any Lane36.pz then 2 else 0)]
  else
    let k := o.p 3 1
    let (v, t) := valueAt s r k
    let n := if s.wide k then 64 else 32
    let sg := bit o.flags 0
    let d := ((List.range (o.p 1 1 - 1)).filter fun j =>
      let b := o.p (8 + 4 * j) 4
      !valueLt sg n v (if s.wide k then ext64 sg b else b)).length
    r ++ [mkLane (if bit t 0 then 0 else d) (if bit t 1 then 2 else 0)]

/-- The channel of a row and the row as SEND sends it (R354). -/
def sendRow (o : OpEntry) (r : Row) : Nat × Row :=
  let chs := sendChannels o
  if o.p 1 1 == 0xFF then (lget 0 chs 0, r)
  else
    let d := lane r (o.p 1 1)
    let out := r.eraseIdx (o.p 1 1)
    if d.null || d.pz || chs.length ≤ d.v.toNat then (lget 0 chs 0, out.map Lane36.withPz) else (lget 0 chs d.v.toNat, out)

/-- SEND: the rows of each channel. -/
def runSend (r : Run) (o : OpEntry) (toks : List Tok) : Run :=
  let rs := (rowsOf toks).map (sendRow o)
  { r with flits := r.flits ++ (sendChannels o).eraseDups.map fun c => (c, (rs.filter fun x => x.1 == c).map (·.2)) }

/-! ### WRITE (R355 to R357) -/

/-- The fewest bits that hold a number. -/
def bitLen (n : Nat) : Nat := if n == 0 then 0 else n.log2 + 1

/-- Fields of `b` bits packed least significant first. -/
def packBits (b : Nat) (l : List Nat) : List Byte :=
  leBytes ((l.length * b + 7) / 8) (l.zipIdx.foldl (fun a (v, k) => a + v % 2 ^ b * 2 ^ (b * k)) 0)

/-- The encoded plane of a page: ENCODING, ENC_PARAM and bytes (R356). -/
def encodePlane (auto pair : Bool) (ls : List Lane36) : Nat × Nat × List Byte :=
  let plain := ls.flatMap fun l => leBytes 4 l.out
  if !auto || pair then (0, 0, plain)
  else
    let vs := (ls.filter fun l => !l.null).map fun l => l.v.toNat
    let base := vs.foldl min (vs.headD 0)
    let b := bitLen (vs.foldl max base - base)
    let packed := leBytes 4 base ++ packBits b (ls.map fun l => if l.null then 0 else l.v.toNat - base)
    if packed.length < plain.length then (1, b, packed) else (0, 0, plain)

/-- Ascending payloads. -/
def ascends (sg : Bool) : List Nat → Bool
  | a :: b :: r => !valueLt sg 32 b a && ascends sg (b :: r)
  | _ => true

/-- A writer sets TAGS_ZERO: every tag is 0 and the page is no PAIR page (R287). -/
def tagsZero (pair : Bool) (ls : List Lane36) : Bool := !pair && ls.all fun l => l.t == 0

/-- The tag plane of a page (R285 to R287). -/
def pageTags (pair : Bool) (ls : List Lane36) : List Byte := if tagsZero pair ls then [] else pad64 (laneTags ls)

/-- The header of a page (R286, R287, R356); `mn`, `mx` stand for MIN and MAX where no lane gives them. -/
def pageHdr (pair sg : Bool) (enc b defl plen raw : Nat) (ls : List Lane36) (firstRow next mn mx : Nat) : List Byte :=
  let good := (ls.filter fun l => !l.null && !l.pz).map fun l => l.v.toNat
  let lo := good.foldl (fun a v => if valueLt sg 32 v a then v else a) (good.headD mn)
  let hi := good.foldl (fun a v => if valueLt sg 32 a v then v else a) (good.headD mx)
  let tz := tagsZero pair ls
  let fl := b2n tz + 2 * b2n pair + (if pair then 0 else 4 + 8 * b2n sg + 16 * b2n (ascends sg good))
  let n := fun (f : Lane36 → Bool) => leBytes 4 (ls.filter f).length
  let d := leBytes 2 0x4750 ++ leBytes 1 1 ++ leBytes 1 fl ++ leBytes 4 ls.length ++ leBytes 1 enc ++ leBytes 1 b ++ leBytes 1 defl ++
    leBytes 1 0 ++ leBytes 4 plen ++ leBytes 4 (if tz then 0 else (ls.length + 1) / 2) ++ leBytes 4 raw ++
    leBytes 4 (if pair then 0 else lo) ++ leBytes 4 (if pair then 0 else hi) ++ n Lane36.null ++ n Lane36.pz ++ n Lane36.mark ++
    leBytes 4 0 ++ leBytes 8 firstRow ++ leBytes 4 next
  d ++ leBytes 4 (crc32 d)

/-- The columns of a stream: first lane and whether it is a pair. -/
def columns (s : StreamEntry) : List (Nat × Bool) :=
  (List.range s.width).filterMap fun k => if 0 < k && s.wide (k - 1) then none else some (k, s.wide k)

/-- Rows of a group of pages: ROWS_PER_PAGE counts the lanes of a page, and a PAIR page has two for each row. DEDUCED: beside a PAIR column the single
ones have half as many lanes (R286, R355; log 68). -/
def groupSize (s : StreamEntry) (perPage : Nat) : Nat := if s.pair == 0 then perPage else max 1 (perPage / 2)

/-- The lanes of a column in rows. -/
def columnLanes (rows : List Row) (c : Nat × Bool) : List Lane36 :=
  rows.flatMap fun r => if c.2 then [lane r c.1, lane r (c.1 + 1)] else [lane r c.1]

/-- A page of a group that has been placed: its offset from OUT, its lanes and its encoded plane. -/
structure PlacedPage where
  at_ : Nat
  firstRow : Nat
  pair : Bool
  lanes : List Lane36
  enc : Nat × Nat × List Byte

/-- Length of a page. -/
def PlacedPage.len (p : PlacedPage) : Nat :=
  64 + up64 p.enc.2.2.length + (if tagsZero p.pair p.lanes then 0 else up64 ((p.lanes.length + 1) / 2))

/-- Place the pages of one group from an offset on: the pages and the end. FIRST_ROW counts the lanes of a column from `base`, `before'`
rows behind it, so two for a pair (R286, R355, R356). -/
def placeGroup (auto : Bool) (align base before' : Nat) (rows : List Row) : Nat → List (Nat × Bool) → List PlacedPage × Nat
  | o, [] => ([], o)
  | o, c :: cs =>
    let ls := columnLanes rows c
    let o := o + (64 - (align + o) % 64) % 64
    let pg : PlacedPage := { at_ := o, firstRow := base + (if c.2 then 2 * before' else before'), pair := c.2, lanes := ls, enc := encodePlane auto c.2 ls }
    let (ps, e) := placeGroup auto align base before' rows (o + pg.len) cs
    (pg :: ps, e)

/-- Place groups while they fit AREA_LEN: the placed groups, the end, and whether one did not fit (R357). -/
def placeGroups (auto : Bool) (align area base : Nat) (cols : List (Nat × Bool)) : Nat → Nat → List (List Row) → List (List PlacedPage) × Nat × Bool
  | o, _, [] => ([], o, false)
  | o, fr, g :: gs =>
    let (ps, e) := placeGroup auto align base fr g o cols
    if area < e then ([], o, true)
    else
      let (more, e', cut) := placeGroups auto align area base cols e (fr + g.length) gs
      (ps :: more, e', cut)

/-- A placed segment: the offset of its directory, its rows and its groups. -/
structure PlacedSeg where
  at_ : Nat
  rows : Nat
  groups : List (List PlacedPage)

/-- Place segments one after another (R356, R357). -/
def placeSegs (auto : Bool) (align area per firstRow : Nat) (cols : List (Nat × Bool)) : Nat → List (List Row) → List PlacedSeg × Bool
  | _, [] => ([], false)
  | o, s :: ss =>
    let gs := cutRuns per s.length s
    let (ps, e, cut) := placeGroups auto align area firstRow cols (o + 128) 0 gs
    if ps.isEmpty then ([], true)
    else
      let seg : PlacedSeg := { at_ := o, rows := min s.length (per * ps.length), groups := ps }
      if cut then ([seg], true) else let (more, c) := placeSegs auto align area per firstRow cols e ss; (seg :: more, c)

/-- Write the bytes of one page. -/
def writePage (r : Run) (i : Nat) (l : Loc) (sg : Bool) (p : PlacedPage) (next : Nat) : Run :=
  let (ns, h) := freeNats r.hw 2
  let r := { r with hw := h }
  let pl := p.enc.2.2
  let hd := pageHdr p.pair sg p.enc.1 p.enc.2.1 0 pl.length pl.length p.lanes p.firstRow next (lget 0 ns 0) (lget 0 ns 1)
  let r := r.wr i l (p.at_ + 64) (pad64 pl ++ pageTags p.pair p.lanes)
  { r.wr i l p.at_ hd with lanesOut := r.lanesOut + p.lanes.length }

/-- Write the pages of a segment's groups; each page links to its column's page in the next group. -/
def writeGroupsOf (r : Run) (i : Nat) (l : Loc) (cols : List (Nat × Bool)) (mask : Nat) : List (List PlacedPage) → Run
  | [] => r
  | g :: gs =>
    let nxt := gs.headD []
    let r := (g.zip cols).zipIdx.foldl (fun r (x, k) =>
      let next := match nxt[k]? with | some n => n.at_ - x.1.at_ | none => 0
      writePage r i l (bit mask x.2.1) x.1 next) r
    writeGroupsOf r i l cols mask gs

/-- Write the segments with their directories (R356). -/
def writeSegs (r : Run) (i : Nat) (l : Loc) (cols : List (Nat × Bool)) (mask : Nat) : List PlacedSeg → Run
  | [] => r
  | s :: ss =>
    let r := writeGroupsOf r i l cols mask s.groups
    let next := match ss with | n :: _ => n.at_ - s.at_ | [] => 0
    let firsts := (s.groups.headD []).flatMap fun p => leBytes 4 (p.at_ - s.at_)
    let dir := leBytes 2 0x5344 ++ leBytes 1 1 ++ leBytes 1 cols.length ++ leBytes 4 s.groups.length ++ leBytes 8 s.rows ++
      leBytes 4 next ++ zeros 44 ++ firsts ++ zeros (64 - firsts.length)
    writeSegs (r.wr i l s.at_ dir) i l cols mask ss

/-- WRITE. -/
def runWrite (r : Run) (i : Nat) (o : OpEntry) (toks : List Tok) : Run :=
  let s := r.pipe.stream o.inA
  let out := r.pipe.loc (o.p 8 8)
  let area := o.p 0x10 8
  if o.p 0 1 == 1 then
    let rows := rowsOf toks
    let cap := area / (4 * s.width)
    let r := if cap < rows.length then { r with limit := true } else r
    let tags := if bit o.flags 1 then none else some (r.pipe.loc (o.p 0x18 8))
    let r := writePlanes r i out tags (rows.take cap).flatten
    { r with results := (i, min cap rows.length) :: r.results }
  else
    let align := match out with | .phys a => a | .sram a => a
    let segs := (segments toks).filter fun x => !x.isEmpty
    let (ps, cut) := placeSegs (bit o.flags 0) align area (groupSize s (o.p 4 4)) (o.p 0x28 8) (columns s) 0 segs
    let r := if cut then { r with limit := true } else r
    let r := writeSegs r i out (columns s) (o.p 0x20 2) ps
    { r with results := (i, ps.length) :: r.results }

/-! ### COMPRESS (R358) -/

/-- COMPRESS. -/
def runCompress (r : Run) (i : Nat) (o : OpEntry) (toks : List Tok) : Run :=
  let s := r.pipe.stream o.inA
  let out := r.pipe.loc (o.p 8 8)
  let max := o.p 0x10 8
  let depth := Nat.max 1 (o.p 1 1)
  let all := (rowsOf toks).flatten
  let bytes := fun (ls : List Lane36) => ls.flatMap fun l => leBytes 4 l.out
  if o.p 0 1 == 0 then
    let st := deflate depth (bytes all)
    let r := { r with inflIn := r.inflIn + 4 * all.length, inflOut := r.inflOut + st.length, limit := r.limit || decide (max < st.length) }
    let r := r.wr i out 0 (st.take max)
    let r := if bit o.flags 0 then r else r.wr i (r.pipe.loc (o.p 0x18 8)) 0 (laneTags all)
    { r with lanesOut := r.lanesOut + all.length, results := (i, min (min max st.length) 0xFFFFFFFF) :: r.results }
  else
    let ls := all.take 1048576
    let st := deflate depth (bytes ls)
    let tags := pageTags (s.width == 2) ls
    let len := 64 + up64 st.length + tags.length
    let r := { r with inflIn := r.inflIn + 4 * ls.length, inflOut := r.inflOut + st.length,
                      limit := r.limit || decide (ls.length < all.length) || decide (max < len) }
    let (ns, h) := freeNats r.hw 3
    let r := { r with hw := h }
    let r := r.wr i out 64 ((pad64 st ++ tags).take (max - 64))
    let r := if max < len then r
      else r.wr i out 0 (pageHdr (s.width == 2) false 0 0 1 st.length (4 * ls.length) ls (o.p 0x20 8) 0 (lget 0 ns 0) (lget 0 ns 1))
    { r with lanesOut := r.lanesOut + ls.length, results := (i, if max < len then lget 0 ns 2 % 2 ^ 32 else len) :: r.results }

/-! ### Running a pipeline (R296, R324, R325) -/

/-- The input of an operator is there: its streams have been produced, a RECV channel has ended, and the table it waits for has
been built (R301, R347). -/
def Run.ready (r : Run) (o : OpEntry) : Bool :=
  let has := fun s => s == 0xFF || (tfind r.strm s).isSome
  has o.inA && has o.inB &&
    (match o.code with
     | 3 => r.mixed || r.recv.any fun c => c.ch == o.p 0 1 && c.senders.length == c.peers && c.senders.all (·.ended)
     | 8 => o.p 0x0C 1 == 0xFF || r.ran.contains (o.p 0x0C 1)
     | _ => true)

/-- Run operator `i`: its inputs are used up, its output rows keep pairs whole, and a T1 lane at a sink sets POISON (R283). -/
def Run.step (r : Run) (i : Nat) (o : OpEntry) : Run :=
  let a := (tfind r.strm o.inA).getD []
  let b := (tfind r.strm o.inB).getD []
  let r := if o.outA == 0xFF && (rowsOf a).any (·.any Lane36.pz) then { r with poison := true } else r
  let si := r.pipe.stream o.inA
  let so := r.pipe.stream o.outA
  let (r, out) := match o.code with
    | 1 => runScan r i o
    | 2 => runScanFrag r i o
    | 3 => runRecv r o
    | 4 => (r, onRows (filterRow si o) a)
    | 5 => (r, onRows (selectRow o) a)
    | 6 => (r, onRows (fun x => [projectRow si so o x]) a)
    | 7 => (runHashBuild r i o a, [])
    | 8 => runHashProbe r i o a
    | 9 => (r, runSort r o a)
    | 0x0A => runMerge r i o a b
    | 0x0B => runAggregate r i o a
    | 0x0C => (r, onRows (fun x => [partitionRow si o x]) a)
    | 0x0D => (runSend r o a, [])
    | 0x0E => (runCompress r i o a, [])
    | _ => (runWrite r i o a, [])
  let r := { r with ran := i :: r.ran }
  if o.outA == 0xFF then r else { r with strm := tins r.strm o.outA (onRows (fun x => [fixPairs so x]) out) }

/-- One pass over the operators: each that has not run and is ready runs; a fault ends the run. In a job that does not commit the
operators after one that stopped have taken what it had sent (R316). -/
def Run.pass (r : Run) : Run :=
  r.pipe.ops.zipIdx.foldl (fun r (o, i) =>
    if r.fault.isSome || r.ran.contains i || !r.ready o then r
    else
      let r := r.step i o
      if r.mixed then { r with fault := none } else r) r

/-- Run every operator that can run. -/
def Run.all (r : Run) : Run := (List.range r.pipe.ops.length).foldl (fun r _ => r.pass) r

/-- RESULT of a job that commits: of the sink with the highest index that defines one (R325). -/
def Run.result (r : Run) : Nat :=
  (r.results.foldl (fun (a : Nat × Nat) x => if a.1 ≤ x.1 then x else a) (0, 0)).2 % 2 ^ 32

end Sys2Proof.Machine
end

