-- ==== Sys2Proof/Machine/Engine.lean ====
section
/-!
DEFINITION. Queue pairs and jobs of the column engines: submission, start, exchange, commit, abort, timeout and reset.
-/

namespace Sys2Proof.Machine

/-! ### What an engine shows of its jobs (R290, R304, R321) -/

/-- Result codes of ENG_QP_TICKET and of ENG_QP_ABORT (R321). -/
def tkOk : Nat := 1
def tkFull : Nat := 2
def tkDisabled : Nat := 3
def tkForeign : Nat := 4
def tkResetting : Nat := 5
def abAccepted : Nat := 1
def abTooLate : Nat := 2
def abBadHandle : Nat := 3
def abForeign : Nat := 4

/-- STATUS codes of a completion record (R312). -/
def stCompleted : Nat := 1
def stAborted : Nat := 2
def stTimeout : Nat := 3
def stFault : Nat := 4
def stReset : Nat := 5

/-- Engines run in M4, M5 and M6, with their clock on and no reset or load under way (R134, R318, R320, R449). -/
def engineRuns (h : Hw) (q : Nat) : Bool :=
  decide (4 ≤ modeNow h) && decide (modeNow h ≤ 6) && !fon h F_ENG_STATUS_HELD q && !fon h F_ENG_STATUS_RESETTING q &&
    !bit h.par.engSlept q

def runningJobs (e : Engine) : List Job := e.jobs.filter (·.st == .running)
def jobsOfQp (e : Engine) (n : Nat) : List Job := e.jobs.filter (·.qp == n)
def jobAt (h : Hw) (q handle : Nat) : Option Job := (engineOf h q).jobs.find? (·.handle == handle)

/-- Replace a job. -/
def putJob (h : Hw) (q : Nat) (j : Job) : Hw :=
  let e := engineOf h q
  setEngine h q { e with jobs := e.jobs.map fun x => if x.handle == j.handle then j else x }

/-- The partition and world of a queue pair (R303). -/
def qpAsker (h : Hw) (q n : Nat) : Asker := ioAsker h (.engine (Fin.ofNat 24 q) (Fin.ofNat 64 n))

/-- The engine's registers follow its jobs; an engine asked to sleep stops its clock once it has none (R321, R449). -/
def refreshEngine (h : Hw) (q n : Nat) : Hw :=
  let e := engineOf h q
  let run := runningJobs e
  let h := fset h F_ENG_STATUS_JOBS run.length q
  let h := fset h F_ENG_STATUS_STAGES (run.map (·.ops)).sum q
  let h := fset h F_ENG_STATUS_SRAM_FREE (1856 - 8 * (run.map (·.sramUnits)).sum) q
  let h := fset h F_ENG_STATUS_DEFLATE_BUSY (b2n (run.any (·.deflate))) q
  let js := jobsOfQp e n
  let h := fset h F_ENG_QP_STATUS_OUTSTANDING js.length q n
  let h := fset h F_ENG_QP_STATUS_RUNNING (js.filter (·.st == .running)).length q n
  let h := fset h F_ENG_QP_STATUS_OLDEST_SEQ (match js with | j :: _ => j.seq | [] => fget h F_ENG_QP_CFG_NEXT_SEQ q n) q n
  if e.jobs.isEmpty && bit h.par.engSleepWait q then
    { h with par := { h.par with engSlept := setBit h.par.engSlept q true, engSleepWait := setBit h.par.engSleepWait q false } }
  else h

/-! ### Submission (R303 to R308) -/

/-- A handle (R305). -/
def handleOf (q n seq : Nat) : Nat := q * 2 ^ 27 + n * 2 ^ 21 + seq % 2 ^ 21

/-- Bytes `o` to `o + n − 1` of a list replaced. -/
def patch (l : List Byte) (o : Nat) (d : List Byte) : List Byte := l.take o ++ d ++ l.drop (o + d.length)

/-- Why a submission is refused, if it is (R22, R304). DESIGN CHOICE: a queue pair that no partition owns is idle and answers DISABLED
(log 66). -/
def submitRefusal (h : Hw) (q n : Nat) : Option Nat :=
  if fon h F_ENG_STATUS_RESETTING q then some tkResetting
  else if fget h F_ENG_QP_CFG_EN q n == 0 || (ownerQp h q n).isNone then some tkDisabled
  else if 32 ≤ (jobsOfQp (engineOf h q) n).length then some tkFull
  else none

/-- An accepted submission: the descriptor at an address, read as `w` may read it, its ARG0 to ARG2 replaced where a release action
submits it (R304, R306, R308). -/
def acceptJob (h : Hw) (m : Mem) (q n addr : Nat) (w : Asker) (args : Option (List Byte)) (origin : Option (Nat × Nat × Nat)) : Hw :=
    let (h, ok, d, pz) := agentRead h m w (addr / 64 * 64) 64
    let d := if ok then (match args with | some a => patch d 0x10 a | none => d) else []
    let seq := fget h F_ENG_QP_CFG_NEXT_SEQ q n
    let j : Job := { handle := handleOf q n seq, qp := n, seq := seq, desc := d, descPoison := pz.any id, origin := origin }
    let e := engineOf h q
    let h := setEngine h q { e with jobs := e.jobs ++ [j] }
    let h := fset h F_ENG_QP_CFG_NEXT_SEQ (seq + 1) q n
    let h := fset h F_ENG_QP_TICKET_HANDLE j.handle q n
    refreshEngine { h with par := { h.par with engSlept := setBit h.par.engSlept q false } } q n

/-- Submit a job; ENG_QP_TICKET.RESULT is the outcome of the latest submission (R304, R306, R321). -/
def submit (h : Hw) (m : Mem) (q n addr : Nat) (w : Asker) (args : Option (List Byte)) (origin : Option (Nat × Nat × Nat)) : Hw × Nat :=
  let r := match submitRefusal h q n with
    | some c => (h, c)
    | none => (acceptJob h m q n addr w args origin, tkOk)
  (fset r.1 F_ENG_QP_TICKET_RESULT r.2 q n, r.2)

/-- The requester is of the queue pair's partition but its world may not use it (R303). -/
def wrongWorld (h : Hw) (who : Requester) (q n : Nat) : Bool :=
  match ownerQp h q n with
  | some p => isOf h who p && !mayWrite h who R_ENG_QP_SUBMIT q n
  | none => false

/-- ENG_QP_SUBMIT (R303, R304, R308). -/
def execEngQpSubmit (who : Requester) (q : Fin 24) (qp : Fin 64) (addr : BitVec 52) (s : State) : Host.Outcome State Fault Refusal :=
  .next (s.act fun h m =>
    let q := q.val
    let n := qp.val
    if !served h who R_ENG_QP_SUBMIT then { hw := setBusErr h true }
    else
    let h := setBusErr h false
    if mayWrite h who R_ENG_QP_SUBMIT q n then
      { hw := (submit h m q n addr.toNat (qpAsker h q n) none none).1 }
    else
      let h := logRefusedWrite h who R_ENG_QP_SUBMIT q n
      { hw := if wrongWorld h who q n then fset h F_ENG_QP_TICKET_RESULT tkForeign q n else h })

/-! ### The end of a job (R302, R311 to R313, R316) -/

/-- The flow's release action has completed at its target (R234). -/
def completeAction (h : Hw) (f seq : Nat) : Hw :=
  let fl := flowOf h f
  let done := fun (i : Item) => if i.seq == seq && i.st == .acting then { i with st := .complete } else i
  setFlow h f { fl with items := fl.items.map done }

/-- A job's record has been written: its source, its release action, and its JOB_DONE item (R234, R239, R311). -/
def recorded (h : Hw) (q : Nat) (j : Job) (slot : Nat) : Hw :=
  let p := (ownerQp h q j.qp).getD 0
  let h := if bit (num j.desc 1 1) 0 && fon h F_ENG_QP_CFG_IRQ_EN q j.qp then raiseSource h (srcEngine q p) else h
  match j.origin with
  | none => h
  | some (f, seq, arg2) =>
    let h := completeAction h f seq
    if flowGet h F_RBT_FLOW_ACT_DONE_EN f == 1 then
      produce h p (flowGet h F_RBT_FLOW_ACT_DONE_FLOW f)
        { arg0 := BitVec.ofNat 64 j.handle, arg1 := BitVec.ofNat 64 slot, arg2 := BitVec.ofNat 64 arg2, seq := 0, kind := 2, flags := 0,
          user := 0 }
    else h

/-- Engine cycles since a job's start, in units of 256: an engine cycle is 51.2/64 gate cycle (R312). -/
def jobCycles (h : Hw) (j : Job) : Nat := if j.st == .running then min 0xFFFFFFFF ((h.now - j.startTime) * 10 / 512 / 256) else 0

/-- Address of a job's record (R311). -/
def recordAddr (h : Hw) (q : Nat) (j : Job) : Nat :=
  let n := min 16 (max 5 (fget h F_ENG_QP_CQ_CQ_LOG2 q j.qp))
  fget h F_ENG_QP_CQ_BASE_4K q j.qp * 4096 + 32 * (j.seq % 2 ^ n)

/-- What a record says beside its handle and CYCLES (R312). -/
structure RecordBody where
  status : Nat
  cause : Nat := 0
  op : Nat := 0xFF
  flags : Nat := 0
  lanesIn : Nat := 0
  lanesOut : Nat := 0
  result : Nat := 0

/-- The 32 bytes of a record (R312). -/
def recordBytes (handle cycles : Nat) (b : RecordBody) : List Byte :=
  leBytes 4 handle ++ leBytes 1 b.status ++ leBytes 1 b.cause ++ leBytes 1 b.op ++ leBytes 1 b.flags ++ leBytes 8 b.lanesIn ++
    leBytes 8 b.lanesOut ++ leBytes 4 b.result ++ leBytes 4 cycles

/-- BROKEN flits of a job that does not complete; its flits that have not arrived are dropped (R302). -/
def breakChannels (h : Hw) (q : Nat) (j : Job) : Hw :=
  let e := engineOf h q
  let pending := fun (c : SendCh) => !c.made || e.out.any fun f => f.source == j.handle && f.srcCh == c.ch && !f.back
  let fwd := j.send.filterMap fun c => match c.bound with
    | some t => if pending c then
        some { src := q, dst := c.peer, ch := c.peerCh, target := t, source := j.handle, srcCh := c.ch, lanes := [], fin := false, broken := true : ExFlit }
      else none
    | none => none
  let back := j.recv.flatMap fun c => (c.senders.filter (!·.ended)).map fun s =>
    ({ src := q, dst := s.engine, ch := s.ch, target := s.handle, source := j.handle, srcCh := c.ch, back := true, lanes := [],
       fin := false, broken := true } : ExFlit)
  setEngine h q { e with out := (e.out.filter fun f => f.source != j.handle || f.back) ++ fwd ++ back }

/-- A job leaves its queue pair with a record: the record is one aligned write; one that fails is counted in RECORD_LOST and has
no further effect (R304, R311, R313). -/
def leave (h : Hw) (m : Mem) (q : Nat) (j : Job) (b : RecordBody) : Eff :=
  let e := engineOf h q
  let h := if b.status == stCompleted then h else breakChannels h q j
  let h := setEngine h q { engineOf h q with jobs := e.jobs.filter (·.handle != j.handle) }
  let h := refreshEngine h q j.qp
  let h := if b.status == stFault then
      fadd (fset (fset (fset h F_ENG_FAULT_HANDLE j.handle q) F_ENG_FAULT_CAUSE b.cause q) F_ENG_FAULT_OP b.op q) F_ENG_FAULT_FAULTS 1 q
    else h
  let a := recordAddr h q j
  let (w, ok) := agentWrite h m (qpAsker h q j.qp) a (recordBytes j.handle (jobCycles h j) b)
  if ok then w.map fun h => recorded h q j a else { hw := fadd w.hw F_ENG_STATUS_RECORD_LOST 1 q }

/-- A running job's pipeline before any operator has run; one that builds a table in scratchpad has written its header (R346). -/
def startState (h : Hw) (m : Mem) (q : Nat) (j : Job) : Run :=
  let p := parsePipe j.pipe (jobArgs j.desc)
  { hw := h, mem := m, pipe := p, asker := qpAsker h q j.qp, recv := j.recv, wrote := p.ops.any (buildsOutside p) }

/-- The evaluation of a running job's pipeline from its start. -/
def startRun (h : Hw) (m : Mem) (q : Nat) (j : Job) : Run := (startState h m q j).all

/-- A job ends without committing: a running job's output areas hold any mix of old and new data. How far it had come is open: whether it had issued a
write, which PARTIAL shows and without which LANES_OUT is 0, and LANES_IN, LANES_OUT, POISON and LIMIT, which are no more than the whole job would
have given; one that never ran has no effect but its record (R283, R312, R316). -/
def endJob (h : Hw) (m : Mem) (q : Nat) (j : Job) (status cause op result : Nat) : Eff :=
  if j.st == .running then
    let (issued, h) := let (n, h) := takeFree h; (Config.freeBool n, h)
    let r := Run.all { startState h m q j with mixed := true, issued := issued }
    let (ns, h) := freeNats r.hw 4
    let upTo := fun k most => lget 0 ns k % (most + 1)
    let flags := upTo 2 (b2n r.poison) + 2 * upTo 3 (b2n r.limit) + 4 * b2n r.wrote
    let b : RecordBody := { status := status, cause := cause, op := op, flags := flags, lanesIn := upTo 0 r.lanesIn,
                            lanesOut := if issued then upTo 1 r.lanesOut else 0, result := result }
    (({ hw := h, ops := r.ops } : Eff).next m fun h m => leave h m q j b)
  else leave h m q j { status := status, cause := cause, op := op, result := result }

/-- A job ends with a FAULT record. -/
def faultJob (h : Hw) (m : Mem) (q : Nat) (j : Job) (f : JFault) : Eff := endJob h m q j stFault f.cause f.op f.result

/-! ### Exchange: binding and flits (R299 to R302) -/

/-- Every bound or bindable endpoint in the module: engine and job. -/
def allRunning (h : Hw) : List (Nat × Job) := (List.range 24).flatMap fun q => (runningJobs (engineOf h q)).map fun j => (q, j)

/-- Two jobs carry the same partition and world. -/
def sameDomain (h : Hw) (q n q2 n2 : Nat) : Bool := qpAsker h q n == qpAsker h q2 n2

/-- The job that holds the key a SEND endpoint looks for, with the channel. -/
def receiverOf (h : Hw) (q : Nat) (j : Job) (c : SendCh) : Option (Job × RecvCh) :=
  (runningJobs (engineOf h c.peer)).findSome? fun t =>
    (t.recv.find? fun r => r.ch == c.peerCh && r.group == c.group && sameDomain h q j.qp c.peer t.qp).map fun r => (t, r)

/-- The first endpoint that can be bound, or that finds its receiver full; a job whose abort or expiry has won binds no more (R315). -/
def nextBind (h : Hw) : Option (Nat × Job × SendCh × Job × RecvCh) :=
  (allRunning h).findSome? fun (q, j) => j.send.findSome? fun c =>
    if c.bound.isSome || j.ending.isSome then none else (receiverOf h q j c).map fun (t, r) => (q, j, c, t, r)

/-- Bind endpoints while there is one; a binding beyond PEER senders ends its sender (R299). -/
def bindAll (h : Hw) (m : Mem) : Nat → Eff
  | 0 => { hw := h }
  | k + 1 =>
    match nextBind h with
    | none => { hw := h }
    | some (q, j, c, t, r) =>
      if r.peers ≤ r.senders.length then
        let e := faultJob h m q j { cause := cExchBind }
        let e2 := bindAll e.hw (m.applyAll e.ops) k
        { hw := e2.hw, ops := e.ops ++ e2.ops }
      else
        let h := putJob h q { j with send := j.send.map fun x => if x.ch == c.ch then { x with bound := some t.handle } else x }
        let t := (jobAt h c.peer t.handle).getD t
        let s : ExSender := { engine := q, handle := j.handle, ch := c.ch, credit := r.share }
        let h := putJob h c.peer { t with recv := t.recv.map fun x => if x.ch == r.ch then { x with senders := x.senders ++ [s] } else x }
        bindAll h m k

/-- Flits of a channel's rows: whole rows, as many as fit 14 lanes; the last flit carries END (R300, R354). -/
def makeFlits (q handle : Nat) (c : SendCh) (w : Nat) : Nat → List Row → List ExFlit
  | 0, _ => []
  | k + 1, rows =>
    let per := 14 / max 1 w
    let mk := fun (rs : List Row) (fin : Bool) =>
      ({ src := q, dst := c.peer, ch := c.peerCh, target := c.bound.getD 0, source := handle, srcCh := c.ch, lanes := rs.flatten, fin := fin,
         broken := false } : ExFlit)
    if rows.length < per || per == 0 then [mk rows true] else mk (rows.take per) false :: makeFlits q handle c w k (rows.drop per)

/-- The endpoints that a SEND operator of the job names (R298, R354). -/
def namedSends (j : Job) : List SendCh :=
  let p := parsePipe j.pipe (jobArgs j.desc)
  j.send.filter fun c => p.ops.any fun o => o.code == 0x0D && (sendChannels o).contains c.ch

/-- The flits of a job whose SEND operators have their whole input (R301, R354). -/
def pumpJob (h : Hw) (m : Mem) (q : Nat) (j : Job) : Hw :=
  if (namedSends j).all (·.made) || (namedSends j).any (·.bound.isNone) || j.ending.isSome then h
  else
    let r := startRun h m q j
    let made := fun (c : SendCh) => !c.made && r.flits.any fun x => x.1 == c.ch
    let flits := (j.send.filter made).flatMap fun c =>
      let rows := (r.flits.filter fun x => x.1 == c.ch).flatMap (·.2)
      makeFlits q j.handle c ((rows.headD []).length) (rows.length + 1) rows
    let e := engineOf h q
    let h := setEngine h q { e with out := e.out ++ flits }
    putJob h q { j with send := j.send.map fun c => if made c then { c with made := true } else c }

/-- The flits of every job that can send. -/
def pump (h : Hw) (m : Mem) : Hw := (allRunning h).foldl (fun h (q, j) => pumpJob h m q ((jobAt h q j.handle).getD j)) h

/-- A flit as it travels (R300). -/
def flitBits (f : ExFlit) : BitVec 512 :=
  let ls := f.lanes.zipIdx.foldl (fun a (l, i) => a + (l.v.toNat + l.t.toNat * 2 ^ 32) * 2 ^ (36 * i)) 0
  BitVec.ofNat 512 (ls + (f.lanes.length + 16 * b2n f.fin + 32 * b2n f.broken) * 2 ^ 504)

/-- The flit comes from this sender: the endpoint of a job, by its local channel (R301). -/
def sentBy (f : ExFlit) (s : ExSender) : Bool := s.engine == f.src && s.handle == f.source && s.ch == f.srcCh

/-- A receiver takes a flit (R301, R302, R337). -/
def takeFlit (h : Hw) (m : Mem) (q : Nat) (j : Job) (f : ExFlit) : Eff :=
  if f.back then faultJob h m q j { cause := cExchPeer }
  else
    match j.recv.find? (·.ch == f.ch) with
    | none => { hw := h }
    | some c =>
      match c.senders.find? (sentBy f) with
      | none => { hw := h }
      | some s =>
        if f.broken then (if s.ended then { hw := h } else faultJob h m q j { cause := cExchPeer })
        else if c.width == 0 || f.lanes.length % c.width != 0 then
          let i := (parsePipe j.pipe (jobArgs j.desc)).ops.findIdx fun o => o.code == 3 && o.p 0 1 == c.ch
          faultJob h m q j { cause := cOperator, op := i, result := c.ch * 2 ^ 16 + 0x0C }
        else
          let s' := { s with ended := f.fin, credit := s.credit - 1 }
          let c' := { c with lanes := c.lanes ++ f.lanes, senders := c.senders.map fun x => if x == s then s' else x }
          let h := putJob h q { j with recv := j.recv.map fun x => if x.ch == c.ch then c' else x }
          { hw := pump h m }

/-- The sender of a flit holds credit for it; BROKEN needs none (R301). -/
def hasCredit (h : Hw) (f : ExFlit) : Bool :=
  f.broken ||
    match jobAt h f.dst f.target with
    | some j => (match j.recv.find? (·.ch == f.ch) with
      | some c => c.senders.any fun s => sentBy f s && 1 ≤ s.credit
      | none => true)
    | none => true

/-- The flit with these bits that can travel next to a channel: its sender holds credit, and no earlier flit of that sender waits; flits of several
senders interleave (R301). -/
def nextFlit (h : Hw) (out : List ExFlit) (q ch : Nat) (flit : BitVec 512) : Option ExFlit :=
  let same := fun (f g : ExFlit) => g.source == f.source && g.target == f.target && g.dst == f.dst && g.ch == f.ch && g.srcCh == f.srcCh && g.back == f.back
  out.find? fun f => f.dst == q && f.ch == ch && flitBits f == flit && hasCredit h f && out.find? (same f) == some f

/-- A flit has been sent and received (R301; the engines' counters). -/
def countFlit (h : Hw) (f : ExFlit) : Hw :=
  let part := fun q handle => (qpAsker h q (bits handle 26 21)).part
  pmu pmuEng (pmu pmuEng h f.src 9 1 (part f.src f.source)) f.dst 0x0A 1 (part f.dst f.target)

/-- EXCH_FLIT: a flit from the sender to the channel arrives; a job that is ending takes no more input (R301, R302, R315). -/
def execExchFlit (q : Fin 24) (sender : Fin 24) (ch : Fin 8) (flit : BitVec 512) (s : State) : Host.Outcome State Fault Refusal :=
  .next (s.act fun h m =>
    let e := engineOf h sender.val
    match nextFlit h e.out q.val ch.val flit with
    | some f =>
      if !engineRuns h q.val then { hw := h }
      else
        let h := countFlit (setEngine h sender.val { e with out := e.out.erase f }) f
        match jobAt h q.val f.target with
        | some j => if j.st == .running && j.ending.isNone then takeFlit h m q.val j f else { hw := h }
        | none => { hw := h }
    | none => { hw := h })

/-- EXCH_CREDIT: credit for consumed flits comes back, up to the sender's share (R301). -/
def execExchCredit (q : Fin 24) (ch : Fin 8) (flits : Nat) (s : State) : Host.Outcome State Fault Refusal :=
  .next (s.upd fun h =>
    let short := fun (j : Job) => (j.send.find? fun c => c.ch == ch.val && c.bound.isSome).bind fun c =>
      (jobAt h c.peer (c.bound.getD 0)).bind fun t => (t.recv.find? (·.ch == c.peerCh)).bind fun r =>
        (r.senders.find? fun s => s.engine == q.val && s.handle == j.handle && s.ch == c.ch && s.credit < r.share).map fun s => (c.peer, t, r, s)
    match (runningJobs (engineOf h q.val)).findSome? short with
    | some (peer, t, r, s) =>
      let s' := { s with credit := min r.share (s.credit + flits) }
      putJob h peer { t with recv := t.recv.map fun x => if x.ch == r.ch then { x with senders := x.senders.map fun y => if y == s then s' else y } else x }
    | none => h)

/-- EXCH_BIND_TIMEOUT: a job whose endpoints are not all bound ends (R299). -/
def execExchBindTimeout (q : Fin 24) (handle : BitVec 32) (s : State) : Host.Outcome State Fault Refusal :=
  .next (s.act fun h m =>
    match jobAt h q.val handle.toNat with
    | some j =>
      let open' := (j.send.any (·.bound.isNone)) || j.recv.any fun c => c.senders.length < c.peers
      if j.st == .running && engineRuns h q.val && j.ending.isNone && open' then faultJob h m q.val j { cause := cExchBind }
      else { hw := h }
    | none => { hw := h })

/-! ### Start (R290, R299, R308 to R310) -/

/-- The pipeline descriptor a job names, as its queue pair may read it: bytes and whether a line was poisoned (R308). -/
def readPipe (h : Hw) (m : Mem) (q : Nat) (j : Job) : Hw × List Byte × Bool :=
  if j.desc.length != 64 || !jobDescOk j.desc then (h, [], false)
  else
    let a := num j.desc 8 8
    let w := qpAsker h q j.qp
    let (h, ok, hd, pz) := agentRead h m w a 64
    if !ok then (h, [], false)
    else if pz.any id || !pipeHdrOk hd then (h, hd, pz.any id)
    else
      let (h, ok, rest, pz2) := agentRead h m w (a + 64) (up64 (pipeLen hd) - 64)
      (h, if ok then hd ++ rest else hd, pz2.any id)

/-- The oldest job of a queue pair that has not started. -/
def oldestUnstarted (e : Engine) (n : Nat) : Option Job := (jobsOfQp e n).find? fun j => j.st == .queued && j.ending.isNone

/-- The start conditions of R309 beside those of the engine: the state with the pipeline read, the job, and its fault if any. -/
def canStart (h : Hw) (m : Mem) (q n : Nat) : Option (Hw × Job × Option JFault) :=
  let e := engineOf h q
  let run := runningJobs e
  (oldestUnstarted e n).bind fun j =>
    let fence := bit (num j.desc 1 1) 1 && ((jobsOfQp e n).head?.map (·.handle)) != some j.handle
    if fence || 8 ≤ run.length then none
    else
      let (h, d, pz) := readPipe h m q j
      let f := startFault j.desc j.descPoison d pz (fget h F_ENG_INFO_MICROCODE q)
      let p := parsePipe d (jobArgs j.desc)
      let j := { j with pipe := d, ops := p.ops.length, sramUnits := sramUnits p.sramKib, deflate := p.ops.any usesDeflate }
      if f.isSome then some (h, j, f)
      else if 16 < (run.map (·.ops)).sum + j.ops || 232 < (run.map (·.sramUnits)).sum + j.sramUnits || (j.deflate && run.any (·.deflate)) then none
      else some (h, j, none)

/-- The queue pair that starts next: highest PRIORITY, then the next one after the last (R309). -/
def pickQp (h : Hw) (m : Mem) (q : Nat) : Option Nat :=
  let last := (engineOf h q).lastQp
  let able := ((List.range 64).map fun i => (last + 1 + i) % 64).filter fun n => (canStart h m q n).isSome
  let top := able.foldl (fun a n => max a (fget h F_ENG_QP_CFG_PRIORITY q n)) 0
  able.find? fun n => fget h F_ENG_QP_CFG_PRIORITY q n == top

/-- The exchange endpoints of a starting job (R298, R299, R301, R337). -/
def openEndpoints (p : Pipe) : List RecvCh × List SendCh :=
  (p.exch.filterMap fun e =>
      if e.role == 2 then
        let o := p.ops.find? fun o => o.code == 3 && o.p 0 1 == e.ch
        some { ch := e.ch, group := e.group, peers := e.peer, share := (match o with | some o => recvShare o e.peer | none => 0),
               width := (match o with | some o => (p.stream o.outA).width | none => 0) : RecvCh }
      else none,
   p.exch.filterMap fun e => if e.role == 1 then some { ch := e.ch, peer := e.peer, peerCh := e.peerCh, group := e.group } else none)

/-- A key of a starting job is already held on its engine (R299). -/
def keyHeld (h : Hw) (q : Nat) (j : Job) : Bool :=
  (runningJobs (engineOf h q)).any fun t => t.handle != j.handle && sameDomain h q j.qp q t.qp &&
    t.recv.any fun r => j.recv.any fun x => x.ch == r.ch && x.group == r.group

/-- A job's operators start: the tables it builds in scratchpad take their headers, which may end it, and its endpoints bind (R299, R346). -/
def startOps (h : Hw) (m : Mem) (q : Nat) (j : Job) : Eff :=
  let r := startTables { startState h m q j with wrote := false }
  let e : Eff := { hw := r.hw, ops := r.ops }
  match r.fault with
  | some f => e.next m fun h m => leave h m q j { status := stFault, cause := f.cause, op := f.op, flags := 4 * b2n r.wrote, result := f.result }
  | none => (e.next m fun h m => bindAll h m 1536).next m fun h m => { hw := pump h m }

/-- JOB_START (R309, R310). -/
def execJobStart (q : Fin 24) (s : State) : Host.Outcome State Fault Refusal :=
  .next (s.act fun h m =>
    let q := q.val
    if !engineRuns h q || fon h F_ENG_STATUS_LOADING q || (engineOf h q).loadWait.isSome then { hw := h }
    else
      match (pickQp h m q).bind fun n => (canStart h m q n).map fun x => (n, x) with
      | none => { hw := h }
      | some (n, h, j, f) =>
        let h := setEngine h q { engineOf h q with lastQp := n }
        match f with
        | some f => faultJob (putJob h q j) m q j f
        | none =>
          let (rs, ss) := openEndpoints (parsePipe j.pipe (jobArgs j.desc))
          let j := { j with recv := rs, send := ss }
          if keyHeld h q j then faultJob (putJob h q j) m q j { cause := cExchDup }
          else
            let j := { j with st := .running, startTime := h.now }
            startOps (pmu pmuEng (refreshEngine (putJob h q j) q n) q 3 1 (qpAsker h q n).part) m q j)

/-! ### Commit, abort and timeout (R311, R314 to R317) -/

/-- The SEND operators of a job have sent all their flits (R311). -/
def sendsDone (h : Hw) (q : Nat) (j : Job) : Bool :=
  ((namedSends j).all (·.made)) && !(engineOf h q).out.any fun f => f.source == j.handle && !f.back

/-- JOB_COMMIT: a job whose operators have all ended commits; one whose operators meet a fault ends with it, sent or not (R288, R289,
R297, R311, R312). -/
def execJobCommit (q : Fin 24) (handle : BitVec 32) (s : State) : Host.Outcome State Fault Refusal :=
  .next (s.act fun h m =>
    let q := q.val
    match jobAt h q handle.toNat with
    | some j =>
      if j.st != .running || j.ending.isSome || !engineRuns h q then { hw := h }
      else
        let r := startRun h m q j
        match r.fault with
        | some f => faultJob h m q j f
        | none =>
          if !sendsDone h q j || r.ran.length < r.pipe.ops.length then { hw := h }
          else
            let part := (qpAsker h q j.qp).part
            let n := fun code k h => pmu pmuEng h q code k part
            let h := n 8 r.inflOut (n 7 r.inflIn (n 4 1 (n 2 r.lanesOut (n 1 r.lanesIn r.hw))))
            let b : RecordBody := { status := stCompleted, flags := b2n r.poison + 2 * b2n r.limit, lanesIn := r.lanesIn,
                                    lanesOut := r.lanesOut, result := r.result }
            (({ hw := h, ops := r.ops } : Eff).next m fun h m => leave h m q j b)
    | none => { hw := h })

/-- The result of an abort and the state after it (R314 to R316, R318). -/
def abortJob (h : Hw) (q n handle : Nat) : Hw × Nat :=
  let ahead := (handle % 2 ^ 21 + 2 ^ 21 - fget h F_ENG_QP_CFG_NEXT_SEQ q n) % 2 ^ 21
  if handle / 2 ^ 27 != q || bits handle 26 21 != n || ahead < 2 ^ 20 then (h, abBadHandle)
  else if fon h F_ENG_STATUS_RESETTING q then (h, abTooLate)
  else
    match jobAt h q handle with
    | none => (h, abTooLate)
    | some j => (if j.ending.isSome then h else putJob h q { j with ending := some (stAborted, 0) }, abAccepted)

/-- ABORT (R303, R314). -/
def execAbort (who : Requester) (q : Fin 24) (qp : Fin 64) (handle : BitVec 32) (s : State) : Host.Outcome State Fault Refusal :=
  .next (s.upd fun h =>
    let q := q.val
    let n := qp.val
    if !served h who R_ENG_QP_ABORT then setBusErr h true
    else
    let h := setBusErr h false
    if mayWrite h who R_ENG_QP_ABORT q n then
      let (h, code) := abortJob h q n handle.toNat
      answer h F_ENG_QP_ABORT_RESULT F_ENG_QP_ABORT_SEQ code q n
    else
      let h := logRefusedWrite h who R_ENG_QP_ABORT q n
      if wrongWorld h who q n then answer h F_ENG_QP_ABORT_RESULT F_ENG_QP_ABORT_SEQ abForeign q n else h)

/-- JOB_ABORT_COMPLETE: the record of an aborted or timed-out job (R316, R317, R320). -/
def execJobAbortComplete (q : Fin 24) (handle : BitVec 32) (s : State) : Host.Outcome State Fault Refusal :=
  .next (s.act fun h m =>
    match jobAt h q.val handle.toNat with
    | some j =>
      match j.ending with
      | some (st, cause) => if engineRuns h q.val then endJob h m q.val j st cause 0xFF 0 else { hw := h }
      | none => { hw := h }
    | none => { hw := h })

/-- JOB_TIMEOUT: a running job's TIMEOUT expires (R315, R317). -/
def execJobTimeout (q : Fin 24) (handle : BitVec 32) (s : State) : Host.Outcome State Fault Refusal :=
  .next (s.upd fun h =>
    match jobAt h q.val handle.toNat with
    | some j =>
      if j.st == .running && j.ending.isNone && engineRuns h q.val && num j.desc 4 4 != 0 then
        putJob h q.val { j with ending := some (stTimeout, 0) }
      else h
    | none => h)

/-! ### Resets and supply (R135, R318 to R320) -/

/-- End every outstanding job of an engine in ascending queue-pair order and then SEQ order, with the STATUS and CAUSE of its
accepted abort or expiry where it has one. -/
def endAll (h : Hw) (m : Mem) (q status cause : Nat) (keep : Bool) : Eff :=
  let js := (List.range 64).flatMap fun n => jobsOfQp (engineOf h q) n
  effFold h m (fun h m (j : Job) =>
    let j := (jobAt h q j.handle).getD j
    let (st, c) := if keep then j.ending.getD (status, cause) else (status, cause)
    endJob h m q j st c 0xFF 0) js

/-- An engine reset takes place: records, then the ENG domain clears; RESETTING stays until it ends (R318). -/
def resetEngine (h : Hw) (m : Mem) (q : Nat) : Eff :=
  let h := fset h F_ENG_STATUS_RESETTING 1 q
  (endAll h m q stReset 0 true).map fun h =>
    let held := fget h F_ENG_STATUS_HELD q
    let h := clearRegs h fun r i _ => r.dom == .eng && r.n0 == 0x40 && i == q
    let h := setEngine h q { lastQp := 63, out := (engineOf h q).out }
    let h := fset (fset h F_ENG_STATUS_RESETTING 1 q) F_ENG_STATUS_HELD held q
    (List.range 64).foldl (fun h n => refreshEngine h q n) h

/-- ENGINE_RESET: RESET starts an engine reset, which waits for a load (R135, R318). -/
def execEngineReset (who : Requester) (q : Fin 24) (s : State) : Host.Outcome State Fault Refusal :=
  .next (s.act fun h m =>
    let q := q.val
    ifMayE h who R_ENG_RESET q 0 fun h =>
      let done := fun code h => answer h F_ENG_RESET_RESULT F_ENG_RESET_SEQ code q
      if fon h F_ENG_STATUS_RESETTING q || (engineOf h q).resetWait then { hw := done rcBusy h }
      else if fon h F_ENG_STATUS_LOADING q then { hw := done rcRunning (setEngine h q { engineOf h q with resetWait := true }) }
      else resetEngine (done rcRunning h) m q)

/-- ENGINE_RESET_COMPLETE: the engine takes submissions again (R318). -/
def execEngineResetComplete (q : Fin 24) (s : State) : Host.Outcome State Fault Refusal :=
  .next (s.upd fun h =>
    if fon h F_ENG_STATUS_RESETTING q.val then
      fset (fset h F_ENG_STATUS_RESETTING 0 q.val) F_ENG_RESET_RESULT rcDone q.val
    else h)

/-- Before entry to M1 for a fall in voltage every outstanding job ends ABORTED with CAUSE 0x01 (R320). -/
def supplyAbort (h : Hw) (m : Mem) : Eff := effFold h m (fun h m q => endAll h m q stAborted 1 false) (List.range 24)

/-- The bound channels of a partition's running jobs break: the BROKEN flits arrive during the reset (R302, R319). -/
def breakAll (h : Hw) (p : Nat) : Hw :=
  let mine := (allRunning h).filter fun x => ownerQp h x.1 x.2.qp == some p
  let h := mine.foldl (fun h x => breakChannels h x.1 x.2) h
  let flits := (List.range 24).flatMap fun q => (engineOf h q).out.filter fun f => f.broken && ownerQp h f.src (bits f.source 26 21) == some p
  flits.foldl countFlit h

/-- A partition reset discards the jobs of its queue pairs without a record; their channels break, and every job that takes a BROKEN flit
is one of them (R299, R319). -/
def dropJobs (h : Hw) (p : Nat) : Hw :=
  (List.range 24).foldl (fun h q =>
    let e := engineOf h q
    let mine := fun (j : Job) => ownerQp h q j.qp == some p
    if e.jobs.any mine || e.out.any fun f => ownerQp h f.src (bits f.source 26 21) == some p then
      let gone := (e.jobs.filter mine).map (·.qp)
      let h := setEngine h q { e with jobs := e.jobs.filter (!mine ·), out := e.out.filter fun f => ownerQp h f.src (bits f.source 26 21) != some p }
      gone.foldl (fun h n => refreshEngine h q n) h
    else h) (breakAll h p)

end Sys2Proof.Machine
end

