-- ==== Sys2Proof/Machine/Host.lean ====
section
/-!
DEFINITION. The host endpoint: readiness, configuration space, windows, outbound accesses, hand-offs, MSI-X, quiesce and resets.
-/

namespace Sys2Proof.Machine

/-! ### Functions (R469 to R472) -/

/-- A physical function. -/
def isPf (n : Nat) : Bool := n < 8

/-- Function FUNC of a partition: 0 its physical function, n its virtual function n (R469). -/
def fnNumber (p func : Nat) : Nat := if func == 0 then p else 8 + 31 * p + func - 1

/-- A function exists (R469, R493). -/
def fnPresent (h : Hw) (n : Nat) : Bool := fon h F_HOSTFN_STATUS_PRESENT n

/-- The dword of the PCI Express capability of a function (R471). -/
def pcieCap (n : Nat) : Nat := if isPf n then 0x1C else 0x10
/-- The dword of the MSI-X capability of a function (R471). -/
def msixCap (n : Nat) : Nat := if isPf n then 0x14 else 0x20

/-- What a dword of configuration space holds after a reset: Device Control asks reads of at most 512 B and enables Relaxed Ordering and
No Snoop (PRESUMED from the base specification, log 11). -/
def cfgDefault (n dw : Nat) : BitVec 32 := if dw == pcieCap n + 2 then 0x2810 else 0

/-- A dword of configuration space, as software has written it. -/
def cfgWord (h : Hw) (n dw : Nat) : Nat := (tget 0 (fnOf h n).cfg dw ^^^ cfgDefault n dw).toNat

def setCfgWord (h : Hw) (n dw v : Nat) : Hw :=
  let f := fnOf h n
  setFn h n { f with cfg := tset 0 f.cfg dw (BitVec.ofNat 32 v ^^^ cfgDefault n dw) }

/-- Max_Payload_Size in bytes: Device Control bits 7:5, at most 512 (R470; the field is PRESUMED from the base specification, log 11). -/
def maxPayload (h : Hw) (n : Nat) : Nat := min 512 (128 * 2 ^ bits (cfgWord h n (pcieCap n + 2)) 7 5)

/-- Tags a function may use (R478; the enables are PRESUMED from the base specification, log 11). -/
def tagLimit (h : Hw) (n : Nat) : Nat :=
  if bit (cfgWord h n (pcieCap n + 10)) 12 then 1024 else if bit (cfgWord h n (pcieCap n + 2)) 8 then 256 else 32

/-- The largest read request in bytes: Device Control bits 14:12 (the field is PRESUMED from the base specification, log 11). -/
def maxRead (h : Hw) (n : Nat) : Nat := min 4096 (128 * 2 ^ bits (cfgWord h n (pcieCap n + 2)) 14 12)

/-- Set a bit of the AER Uncorrectable Error Status (R479 to R481; bit numbers PRESUMED from the base specification, log 11). -/
def aerSet (h : Hw) (n b : Nat) : Hw := setCfgWord h n 0x41 (setBit (cfgWord h n 0x41) b true)

/-- Set the Advisory Non-Fatal bit of the AER Correctable Error Status (R480; PRESUMED as above, log 11). -/
def aerAdvisory (h : Hw) (n : Nat) : Hw := setCfgWord h n 0x44 (setBit (cfgWord h n 0x44) 13 true)

def aerPoison : Nat := 12
def aerCplTimeout : Nat := 14
def aerUnexpCpl : Nat := 16
def aerUnsupported : Nat := 20

/-- Send a TLP. -/
def sendTlp (h : Hw) (t : HostTlp) : Hw := { h with host := { h.host with out := t :: h.host.out } }

/-- Size of a BAR pair of a function in bytes; 0: absent (R469, R472). -/
def barSize (h : Hw) (n : Nat) (bar2 : Bool) : Nat :=
  if !(partOf h (partOfFn n)).present then 0
  else if !bar2 then 65536
  else
    let k := if isPf n then fget h F_HOST_PF_CFG_BAR2_LOG2 0 n else fget h F_HOST_PF_CFG_VF_BAR2_LOG2 0 (partOfFn n)
    if 16 ≤ k && k ≤ 40 then 2 ^ k else 0

/-- The BARs of a function answer: it exists, has BARs, decodes memory, is in D0 and runs no FLR (R469, R476, R490). -/
def fnDecodes (h : Hw) (n : Nat) : Bool :=
  fnPresent h n && fon h F_HOSTFN_STATUS_MSE n && !fon h F_HOSTFN_STATUS_D3 n && !fon h F_HOSTFN_STATUS_FLR n && barSize h n false != 0

/-- Unsupported Request: it is logged, a read gets its status, and a write is discarded (R5, R474, R481). -/
def unsupported (h : Hw) (n : Nat) (write : Bool) : Hw :=
  let h := setBusErr (aerSet h n aerUnsupported) true
  let h := logCode h 4 blkHost n (Config.openCode blkHost).toNat n (partByte (partOfFn n) false)
  if write then h else sendTlp h (.cpl n [] false false)

/-- A function may take hand-offs and outbound accesses (R477, R483, R490). -/
def fnServes (h : Hw) (n : Nat) : Bool :=
  fnPresent h n && !fon h F_HOSTFN_STATUS_D3 n && fon h F_HOSTFN_STATUS_BME n && !fon h F_HOSTFN_STATUS_QUIESCED n &&
    !fon h F_HOSTFN_STATUS_QUIESCING n && !fon h F_HOSTFN_STATUS_FLR n

/-! ### Posted writes and the dirty log (R477, R480, R491, R492) -/

/-- Append a page to a virtual function's log unless its filter holds it; a full ring loses the entry (R491, R492). -/
def logPage (h : Hw) (n page : Nat) : Hw :=
  let f := fnOf h n
  if f.dlog.contains page then h
  else
    let h := setFn h n { f with dlog := (page :: f.dlog).take 64 }
    let size := 2 ^ (min 20 (max 8 (fget h F_HOSTFN_DLOG_CFG_SIZE_LOG2 n)))
    let head := fget h F_HOSTFN_DLOG_PTR_HEAD n
    if (head + 1) % size == fget h F_HOSTFN_DLOG_PTR_TAIL n % size then fset h F_HOSTFN_DLOG_CFG_OVERFLOW 1 n
    else
      let h := sendTlp h (.write (partOfFn n) (fget h F_HOSTFN_DLOG_BASE_BASE n * 4096 + 8 * head) (leBytes 8 page) false 0)
      fset h F_HOSTFN_DLOG_PTR_HEAD ((head + 1) % size) n

/-- The dirty log of a posted write (R491). -/
def dirtyLog (h : Hw) (n a len : Nat) : Hw :=
  if isPf n || !fon h F_HOSTFN_DLOG_CFG_EN n || len == 0 then h
  else
    let pg := if fon h F_HOSTFN_DLOG_CFG_PAGE n then 2 ^ 21 else 4096
    (List.range ((a + len - 1) / pg - a / pg + 1)).foldl (fun h i => logPage h n ((a / pg + i) * pg)) h

/-- The bytes of a posted write cut at `mps` bytes and at 4 KiB boundaries. -/
def tlpPieces (mps : Nat) : Nat → Nat → Nat → List (Nat × Nat)
  | 0, _, _ => []
  | k + 1, a, n =>
    if n == 0 then []
    else
      let c := min n (min mps (4096 - a % 4096))
      (a, c) :: tlpPieces mps k (a + c) (n - c)

/-- Posted writes of a function: TLPs of at most Max_Payload_Size, none across a 4 KiB boundary; a TLP with a poisoned byte carries
EP (R477, R480). -/
def postWrites (h : Hw) (n a : Nat) (d : List Byte) (pz : List Bool) (attr : Nat := 0) : Hw :=
  (tlpPieces (maxPayload h n) d.length a d.length).foldl (fun h (x, c) =>
    let o := x - a
    dirtyLog (sendTlp h (.write n x (sub d o c) (((pz.drop o).take c).any id) attr)) n x c) h

/-! ### MSI-X (R485; the table and its masking are PRESUMED from the base specification, log 11) -/

/-- Vectors of a function (R472). -/
def vectorsOf (n : Nat) : Nat := if isPf n then 64 else 16

/-- A function may initiate requests: it is in D0 with Bus Master Enable (R490). -/
def mayInitiate (h : Hw) (n : Nat) : Bool := fon h F_HOSTFN_STATUS_BME n && !fon h F_HOSTFN_STATUS_D3 n

/-- Send a vector, or set its pending bit where it is masked. DESIGN CHOICE: so is one of a function that may initiate no request, which
sends it once it may (R490, log 99). -/
def msixSend (h : Hw) (n v : Nat) : Hw :=
  let c := cfgWord h n (msixCap n)
  if vectorsOf n ≤ v || !bit c 31 then h
  else
    let f := fnOf h n
    if bit c 30 || tget true f.msixMask v || !mayInitiate h n then setFn h n { f with msixPend := tset false f.msixPend v true }
    else sendTlp h (.msix n v)

/-- Pending vectors that are no longer masked are sent. -/
def msixFlush (h : Hw) (n : Nat) : Hw :=
  let f := fnOf h n
  let c := cfgWord h n (msixCap n)
  if !bit c 31 || bit c 30 || !mayInitiate h n then h
  else
    let go := (f.msixPend.filter fun e => e.2 && !tget true f.msixMask e.1).map (·.1)
    let h := setFn h n { f with msixPend := f.msixPend.filter fun e => !go.contains e.1 }
    go.foldl (fun h v => sendTlp h (.msix n v)) h

/-- MSIX_RAISE (R485). -/
def execMsixRaise (who : Requester) (fn : Fin 256) (vector : BitVec 8) (s : State) : Host.Outcome State Fault Refusal :=
  .next (s.upd fun h => ifMay h who R_HOSTFN_MSIX_RAISE fn.val 0 fun h => msixSend h fn.val vector.toNat)

/-! ### Readiness (R468) -/

/-- PERST# deasserts; link training begins within 20 ms (R468). -/
def execPerstDeassert (s : State) : Host.Outcome State Fault Refusal :=
  .next (s.upd fun h => fset h F_HOST_LINK_STATUS_PERST 0)

/-- Every function becomes ready: Device Readiness Status is sent (R468). -/
def functionsReady (h : Hw) : Hw :=
  if fon h F_HOST_LINK_STATUS_DL_UP && !fon h F_HOST_LINK_STATUS_READY && (decide (3 ≤ modeNow h) || h.boot.recordsDone) then
    let h := fset h F_HOST_LINK_STATUS_READY 1
    sendTlp h .drs
  else h

/-- FUNCTIONS_READY. -/
def execFunctionsReady (s : State) : Host.Outcome State Fault Refusal := .next (s.upd functionsReady)

/-- The highest speed the endpoint advertises: 8.0, 16.0 or 32.0 GT/s (R466, R493). -/
def maxSpeed (h : Hw) : Nat :=
  let v := fget h F_HOST_LINK_CFG_MAX_SPEED
  if v == 3 || v == 4 then v else 5

/-- A width and a speed that link training can end with (R466). -/
def linkTrains (h : Hw) (width speed : Nat) : Bool := [1, 2, 4, 8, 16].contains width && decide (1 ≤ speed) && decide (speed ≤ maxSpeed h)

/-- DATA_LINK_UP: link training completes, with the reference-clock arrangement of SRIS; in M3 to M7 the functions become ready within
20 ms (R466 to R468). -/
def execDataLinkUp (width : BitVec 5) (speed : BitVec 3) (s : State) : Host.Outcome State Fault Refusal :=
  .next (s.upd fun h =>
    if modeNow h == 0 || fon h F_HOST_LINK_STATUS_PERST || !linkTrains h width.toNat speed.toNat then h
    else
      let h := { h with host := { h.host with sris := fon h F_HOST_LINK_CFG_SRIS } }
      fset (fset (fset h F_HOST_LINK_STATUS_DL_UP 1) F_HOST_LINK_STATUS_WIDTH width.toNat) F_HOST_LINK_STATUS_SPEED speed.toNat)

/-! ### Quiesce (R487) -/

/-- Reads of a partition that are outstanding (R478). -/
def partReads (h : Hw) (p : Nat) : Nat := (h.host.reads.filter fun r => partOfFn r.fn == p).length

/-- The reads of a function as HOSTFN_STATUS shows them, and the OVER bit of its partition's read quota (R454). -/
def refreshReads (h : Hw) (n : Nat) : Hw :=
  let p := partOfFn n
  setOver (fset h F_HOSTFN_STATUS_RD_OUT ((h.host.reads.filter (·.fn == n)).length) n) p 5 (decide (quotaOf h p 5 < partReads h p))

/-- QUIESCE (R487). -/
def execQuiesce (who : Requester) (fn : Fin 256) (s : State) : Host.Outcome State Fault Refusal :=
  .next (s.upd fun h => ifMay h who R_HOSTFN_CTRL fn.val 0 fun h =>
    let h := fset h F_HOSTFN_STATUS_QUIESCING 1 fn.val
    answer h F_HOSTFN_CTRL_RESULT F_HOSTFN_CTRL_SEQ rcRunning fn.val)

/-- QUIESCE_DONE: no hand-off and no read is left (R487). -/
def execQuiesceDone (fn : Fin 256) (s : State) : Host.Outcome State Fault Refusal :=
  .next (s.upd fun h =>
    let n := fn.val
    if fon h F_HOSTFN_STATUS_QUIESCING n && (fnOf h n).hof.isEmpty && (fnOf h n).readWait.isEmpty && !h.host.reads.any (·.fn == n) then
      let h := fset (fset h F_HOSTFN_STATUS_QUIESCING 0 n) F_HOSTFN_STATUS_QUIESCED 1 n
      fset h F_HOSTFN_CTRL_RESULT rcDone n
    else h)

/-- RESUME (R487). -/
def execResume (who : Requester) (fn : Fin 256) (s : State) : Host.Outcome State Fault Refusal :=
  .next (s.upd fun h => ifMay h who R_HOSTFN_CTRL fn.val 0 fun h =>
    let h := fset (fset h F_HOSTFN_STATUS_QUIESCING 0 fn.val) F_HOSTFN_STATUS_QUIESCED 0 fn.val
    answer h F_HOSTFN_CTRL_RESULT F_HOSTFN_CTRL_SEQ rcDone fn.val)

/-- SYNC: the filter empties; the log already holds every page of an earlier write (R492). -/
def execSync (who : Requester) (fn : Fin 256) (s : State) : Host.Outcome State Fault Refusal :=
  .next (s.upd fun h =>
    let n := fn.val
    if isPf n then h
    else ifMay h who R_HOSTFN_DLOG_CFG n 0 fun h =>
      answer (setFn h n { fnOf h n with dlog := [] }) F_HOSTFN_DLOG_CFG_RESULT F_HOSTFN_DLOG_CFG_SEQ rcDone n)

/-! ### Windows (R475) -/

/-- An enabled window of the shadow set is valid: a size, and a target inside DRAM or the scratchpad window (R3, R475). -/
def windowOk (h : Hw) (n w : Nat) : Bool :=
  if !fon h F_HOSTFN_WIN_MAP_EN n w then true
  else
    let size := fget h F_HOSTFN_WIN_MAP_SIZE_4K n w * 4096
    let a := fget h F_HOSTFN_WIN_TGT_TGT_4K n w * 4096
    size != 0 && (decide (a + size ≤ dramEnd h) || (decide (scratchBase ≤ a) && decide (a + size ≤ scratchBase + 2 ^ 27)))

/-- The fields of a window: shadow and active. -/
def windowFields : List (Field × Field) :=
  [(F_HOSTFN_WIN_MAP_EN, F_HOSTFN_WINA_MAP_EN), (F_HOSTFN_WIN_MAP_SECURE, F_HOSTFN_WINA_MAP_SECURE),
   (F_HOSTFN_WIN_MAP_READ, F_HOSTFN_WINA_MAP_READ), (F_HOSTFN_WIN_MAP_WRITE, F_HOSTFN_WINA_MAP_WRITE),
   (F_HOSTFN_WIN_MAP_SIZE_4K, F_HOSTFN_WINA_MAP_SIZE_4K), (F_HOSTFN_WIN_MAP_OFFSET_4K, F_HOSTFN_WINA_MAP_OFFSET_4K),
   (F_HOSTFN_WIN_TGT_TGT_4K, F_HOSTFN_WINA_TGT_TGT_4K)]

/-- Copy one set of windows over the other. -/
def copyWindows (h : Hw) (n : Nat) (toActive : Bool) : Hw :=
  (List.range 8).foldl (fun h w => windowFields.foldl (fun h (sh, ac) =>
    if toActive then fset h ac (fget h sh n w) n w else fset h sh (fget h ac n w) n w) h) h

/-- WIN_COMMIT: TLPs are handled whole, so the next header boundary is at once (R474, R475; DEDUCED, log 74). -/
def execWinCommit (who : Requester) (fn : Fin 256) (s : State) : Host.Outcome State Fault Refusal :=
  .next (s.upd fun h => ifMay h who R_HOSTFN_WIN_COMMIT fn.val 0 fun h =>
    let done := fun code h => answer h F_HOSTFN_WIN_COMMIT_RESULT F_HOSTFN_WIN_COMMIT_SEQ code fn.val
    if (List.range 8).all (windowOk h fn.val) then done acDone (copyWindows h fn.val true) else done acInvalid h)

/-- WIN_DISCARD (R475). -/
def execWinDiscard (who : Requester) (fn : Fin 256) (s : State) : Host.Outcome State Fault Refusal :=
  .next (s.upd fun h => ifMay h who R_HOSTFN_WIN_COMMIT fn.val 0 fun h =>
    answer (copyWindows h fn.val false) F_HOSTFN_WIN_COMMIT_RESULT F_HOSTFN_WIN_COMMIT_SEQ acDone fn.val)

/-- The lowest-numbered active window that matches a TLP at BAR2, with the physical address (R473). -/
def matchWindow (h : Hw) (n : Nat) (write : Bool) (o len : Nat) : Option (Nat × Nat) :=
  ((List.range 8).find? fun w =>
    let lo := fget h F_HOSTFN_WINA_MAP_OFFSET_4K n w * 4096
    fon h F_HOSTFN_WINA_MAP_EN n w && decide (lo ≤ o) && decide (o + len ≤ lo + fget h F_HOSTFN_WINA_MAP_SIZE_4K n w * 4096) &&
      (if write then fon h F_HOSTFN_WINA_MAP_WRITE n w else fon h F_HOSTFN_WINA_MAP_READ n w)).map fun w =>
    (w, fget h F_HOSTFN_WINA_TGT_TGT_4K n w * 4096 + (o - fget h F_HOSTFN_WINA_MAP_OFFSET_4K n w * 4096))

/-! ### Outbound accesses (R477 to R480) -/

/-- The partition of a requester that may use outbound windows. -/
def outboundPart (h : Hw) (who : Requester) : Option Nat :=
  match who with
  | .core _ | .part _ _ => (askerOf h who).part
  | _ => none

/-- The window an outbound address lies in, with the function, the host address and the attributes of its TLPs; none where the access ends in a bus error
(R477). -/
def outboundTarget (h : Hw) (p o : Nat) : Option (Nat × Nat × Nat) :=
  let rp := o / 2 ^ 37
  let j := o % 2 ^ 37 / 2 ^ 32
  let k := 32 * p + j
  if rp != p || p ≥ 8 || !fon h F_HOST_OUT_EN 0 k then none
  else
    let n := fnNumber p (fget h F_HOST_OUT_FUNC 0 k)
    if fnServes h n then some (n, fget h F_HOST_OUT_HOST_4G 0 k * 2 ^ 32 + o % 2 ^ 32, 2 * fget h F_HOST_OUT_NOSNOOP 0 k + fget h F_HOST_OUT_RELAXED 0 k) else none

/-- The reads that an outbound access becomes, none across a 4 KiB boundary (R477); an access of no bytes is one read. -/
def readPieces' (mrrs len a : Nat) : List (Nat × Nat) := if len == 0 then [(a, 0)] else tlpPieces mrrs len a len

/-- An outbound read joins the reads that wait at H0 (R477, R478). -/
def queueRead (h : Hw) (n a len attr : Nat) : Hw :=
  let f := fnOf h n
  let id := h.host.accNext
  let rs := (readPieces' (maxRead h n) len a).map fun (x, c) =>
    ({ fn := n, addr := x, len := c, attr := attr, acc := id, off := x - a, total := len } : HostRead)
  let h := setFn h n { f with readWait := f.readWait ++ rs }
  { h with host := { h.host with accNext := id + 1 } }

/-- OUTBOUND_ACCESS (R477, R480). -/
def execOutboundAccess (who : Requester) (addr : BitVec 52) (write : Bool) (len : Nat) (data : List (BitVec 8)) (ep : Bool) (s : State) :
    Host.Outcome State Fault Refusal :=
  .next (s.upd fun h =>
    match placeOf h addr.toNat, outboundPart h who with
    | .outbound o, some p =>
      match outboundTarget h p o with
      | none => setBusErr h true
      | some (n, a, attr) =>
        let h := setBusErr h false
        if write then postWrites h n a (data.take len) (List.replicate len ep) attr
        else queueRead h n a len attr
    | _, _ => setBusErr h true)

/-- OUTBOUND_READ_ISSUE: not while the function may initiate no request (R478, R452, R490). -/
def execOutboundReadIssue (fn : Fin 256) (s : State) : Host.Outcome State Fault Refusal :=
  .next (s.upd fun h =>
    let n := fn.val
    let f := fnOf h n
    let p := partOfFn n
    match f.readWait with
    | [] => h
    | r :: rest =>
      let tag := (List.range (tagLimit h n)).find? fun t => !(h.host.reads.any (·.tag == t)) && !h.host.quarantine.contains t
      match tag with
      | none => h
      | some t =>
        if (h.host.reads.filter (·.fn == n)).length < fget h F_HOSTFN_CFG_RD_MAX n && partReads h p < quotaOf h p 5 &&
            h.host.reads.length < 512 && mayInitiate h n then
          let h := setFn h n { f with readWait := rest }
          let h := { h with host := { h.host with reads := h.host.reads ++ [{ r with tag := t }] } }
          refreshReads (sendTlp h (.read n r.addr r.len t r.attr)) n
        else h)

/-- A read leaves the outstanding ones. -/
def endRead (h : Hw) (r : HostRead) : Hw :=
  refreshReads { h with host := { h.host with reads := h.host.reads.filter (·.tag != r.tag) } } r.fn

/-- An outbound access ends: its other reads answer nobody, and those that have not been sent never are (R477, R479). -/
def endAccess (h : Hw) (r : HostRead) : Hw :=
  let f := fnOf h r.fn
  let h := setFn h r.fn { f with readWait := f.readWait.filter (·.acc != r.acc) }
  { h with host := { h.host with
      reads := h.host.reads.map fun x => if x.acc == r.acc then { x with acc := 0 } else x
      got := h.host.got.filter (·.acc != r.acc) } }

/-- A read of an access has its data: the access ends with its last one (R477). -/
def takeRead (h : Hw) (r : HostRead) (d : List Byte) (ep : Bool) : Hw :=
  if r.acc == 0 then h
  else
    let g : HostGot := { acc := r.acc, off := r.off, data := d.take r.len, ep := ep }
    if (h.host.reads ++ (fnOf h r.fn).readWait).any (·.acc == r.acc) then { h with host := { h.host with got := h.host.got ++ [g] } }
    else
      let parts := h.host.got.filter (·.acc == r.acc) ++ [g]
      let whole := if g.off == 0 && r.len == r.total then g.data else parts.foldl (fun l p => patch l p.off p.data) (zeros r.total)
      let h := endAccess h r
      { h with busErr := false, lastResult := whole, lastPoison := parts.any (·.ep) }

/-- Poison came in over the link; it is reported as Advisory Non-Fatal (R480, R481). -/
def poisonIn (h : Hw) (n : Nat) : Hw :=
  logReg (aerAdvisory (aerSet (fadd h F_HOST_ERR_POISON_IN 1) n aerPoison) n) 1 blkHost n R_HOST_ERR 0 0 (partByte (partOfFn n) false)

/-- COMPLETION_TLP (R479 to R481). -/
def execCompletionTlp (tag : BitVec 10) (status : CplStatus) (data : List (BitVec 8)) (ep : Bool) (s : State) : Host.Outcome State Fault Refusal :=
  .next (s.upd fun h =>
    match h.host.reads.find? (·.tag == tag.toNat) with
    | none => logReg (aerSet (fadd h F_HOST_ERR_UNEXP_CPL 1) 0 aerUnexpCpl) 4 blkHost 0 R_HOST_ERR
    | some r =>
      let h := endRead h r
      match status with
      | .ok =>
        takeRead (if ep then poisonIn h r.fn else h) r data ep
      | _ => if r.acc == 0 then h else setBusErr (endAccess h r) true)

/-- A read's access answers with poisoned data as a whole, whose value the spec does not give (R479, R488). -/
def answerPoison (h : Hw) (r : HostRead) : Hw :=
  if r.acc == 0 then h
  else
    let (ns, h) := freeNats (endAccess h r) r.total
    { h with busErr := false, lastPoison := true, lastResult := ns.map fun v => BitVec.ofNat 8 v }

/-- An outstanding read ends, and its access with poisoned data. -/
def poisonRead (h : Hw) (r : HostRead) : Hw := answerPoison (endRead h r) r

/-- COMPLETION_TIMEOUT (R479). -/
def execCompletionTimeout (tag : BitVec 10) (s : State) : Host.Outcome State Fault Refusal :=
  .next (s.upd fun h =>
    match h.host.reads.find? (·.tag == tag.toNat) with
    | none => h
    | some r =>
      let h := aerSet (poisonRead h r) r.fn aerCplTimeout
      let h := logCode h 1 blkHost r.fn (Config.openCode blkHost).toNat r.tag (partByte (partOfFn r.fn) false)
      { h with host := { h.host with quarantine := drop1 h.host.quarantine r.tag ++ [r.tag] } })

/-- TAG_QUARANTINE_END (R479). -/
def execTagQuarantineEnd (tag : BitVec 10) (s : State) : Host.Outcome State Fault Refusal :=
  .next (s.upd fun h => { h with host := { h.host with quarantine := drop1 h.host.quarantine tag.toNat } })

/-! ### Hand-offs (R482 to R484) -/

/-- The rings of a function: entries of the completion ring, entries and buffer length of the buffer ring. -/
def cplEntries (h : Hw) (n : Nat) : Nat := 2 ^ (min 16 (max 4 (fget h F_HOSTFN_HOF_CFG_CPL_LOG2 n)))
def bufEntries (h : Hw) (n : Nat) : Nat := 2 ^ (min 16 (max 4 (fget h F_HOSTFN_HOF_CFG_BUF_LOG2 n)))
def bufLen (h : Hw) (n : Nat) : Nat := 4096 * 2 ^ (min 8 (fget h F_HOSTFN_HOF_CFG_BUF_LEN n))

/-- Buffers posted and not used. -/
def postedBufs (h : Hw) (n : Nat) : Nat :=
  let e := bufEntries h n
  (fget h F_HOSTFN_HOF_PTR_BUF_TAIL n + e - fget h F_HOSTFN_HOF_PTR_BUF_HEAD n % e) % e

/-- The completion ring is full (R483). -/
def cplFull (h : Hw) (n : Nat) : Bool :=
  let e := cplEntries h n
  (fget h F_HOSTFN_HOF_PTR_CPL_TAIL n + 1) % e == fget h F_HOSTFN_HOF_PTR_CPL_HEAD n % e

/-- The asker of a read that the endpoint makes for an item of a flow. -/
def flowAsker (h : Hw) (f : Nat) : Asker :=
  askerIn h ((ownerFlow h f).getD 8) (flowGet h F_RBT_FLOW_CFG_WORLD f == 1)

/-- Bytes read for a copy; bytes whose read is refused are open. -/
def readOpen (h : Hw) (m : Mem) (w : Asker) (a n : Nat) : Hw × List Byte × List Bool :=
  let (h, ok, d, pz) := agentRead h m w a n
  if ok then (h, d, pz)
  else
    let (ns, h) := freeNats h n
    (h, ns.map fun v => BitVec.ofNat 8 v, List.replicate n true)

/-- The present fragments of an event record: descriptor number, address and length (R227). -/
def presentFrags (d : List Byte) : List (Nat × Nat × Nat) :=
  (List.range (popcount 64 (num d 0x10 8))).filterMap fun j =>
    let x := num d (0x40 + 8 * j) 8
    if bit x 5 then some (j, x / 2 ^ 18 * 64, bits x 17 6 * 64) else none

/-- The event record of an item, 64 + 8E bytes. -/
def readRecord (h : Hw) (m : Mem) (w : Asker) (a : Nat) : Hw × List Byte × List Bool :=
  let (h, hd, p) := readOpen h m w a 64
  let (h, ds, p2) := readOpen h m w (a + 64) (8 * popcount 64 (num hd 0x10 8))
  (h, hd ++ ds, p ++ p2)

/-- Copy fragments behind a stream that has `o` bytes: the record with each ADDR as a stream offset, and the bytes (R482). -/
def copyFrags (h : Hw) (m : Mem) (w : Asker) (rec' : List Byte) : Nat → List (Nat × Nat × Nat) → Hw × List Byte × List Byte × List Bool
  | _, [] => (h, rec', [], [])
  | o, (j, a, n) :: r =>
    let x := num rec' (0x40 + 8 * j) 8
    let rec' := patch rec' (0x40 + 8 * j) (leBytes 8 (o / 64 * 2 ^ 18 + x % 2 ^ 18))
    let (h, d, p) := readOpen h m w a n
    let (h, rec', ds, ps) := copyFrags h m w rec' (o + n) r
    (h, rec', d ++ ds, p ++ ps)

/-- The byte stream of an EVENT item, with the poison of each byte (R482). -/
def eventStream (h : Hw) (m : Mem) (w : Asker) (a : Nat) : Hw × List Byte × List Bool :=
  let (h, rec', p) := readRecord h m w a
  let n := up64 rec'.length
  let (h, rec', ds, ps) := copyFrags h m w rec' n (presentFrags rec')
  (h, pad64 rec' ++ ds, p ++ List.replicate (n - rec'.length) false ++ ps)

/-- Buffers that an item's stream needs (R482). -/
def bufsNeeded (h : Hw) (m : Mem) (n f : Nat) (it : Item) : Nat :=
  if it.kind != 1 then 0
  else
    let (_, d, _) := eventStream h m (flowAsker h f) it.arg2.toNat
    (d.length + bufLen h n - 1) / bufLen h n

/-- The control word of an item (R229). -/
def itemWord (f : Nat) (i : Item) : Nat :=
  f % 4096 * 2 ^ 52 + i.seq % 2 ^ 20 * 2 ^ 32 + i.kind % 16 * 2 ^ 28 + i.flags % 16 * 2 ^ 24 + i.user % 2 ^ 24

/-- The four words of an item. -/
def itemWords (f : Nat) (i : Item) : List Nat := [i.arg0.toNat, i.arg1.toNat, i.arg2.toNat, itemWord f i]

/-- Offer an item to a function's hand-off queue: the state with it taken, or none (R483). -/
def takeHandoff (h : Hw) (m : Mem) (n f : Nat) (it : Item) : Option Hw :=
  if !fon h F_HOSTFN_HOF_CFG_EN n || !fnServes h n || cplFull h n || decide (postedBufs h n < bufsNeeded h m n f it) then none
  else
    let v := fnOf h n
    some (setFn h n { v with hof := v.hof ++ [{ flow := f, seq := it.seq, item := itemWords f it }] })

/-- Write a stream into buffers; each buffer takes BUF_LEN bytes. -/
def fillBufs (h : Hw) (n len : Nat) : List (BitVec 64) → List Byte → List Bool → Hw
  | [], _, _ => h
  | b :: bs, d, p => fillBufs (postWrites h n b.toNat (d.take len) (p.take len)) n len bs (d.drop len) (p.drop len)

/-- HOST_HANDOFF: the buffers named by the ring entries from BUF_HEAD take the stream; completion entry and MSI-X message follow
(R482, R484); it waits while the function may initiate no request (R490). -/
def execHostHandoff (fn : Fin 256) (bufs : List (BitVec 64)) (s : State) : Host.Outcome State Fault Refusal :=
  .next (s.upd fun h =>
    let n := fn.val
    let v := fnOf h n
    match v.hof with
    | [] => h
    | x :: _ =>
      if v.hofSent || !fnPresent h n || !mayInitiate h n then h
      else
        let m := s.mem
        let event := bits (lget 0 x.item 3) 31 28 == 1
        let (h', d, p) := if event then eventStream h m (flowAsker h x.flow) (lget 0 x.item 2) else (h, [], [])
        let need := (d.length + bufLen h n - 1) / bufLen h n
        if cplFull h n || decide (postedBufs h n < need) || decide (bufs.length < need) then h
        else
          let h := fillBufs h' n (bufLen h n) (bufs.take need) d p
          let head := fget h F_HOSTFN_HOF_PTR_BUF_HEAD n
          let tail := fget h F_HOSTFN_HOF_PTR_CPL_TAIL n
          let entry := x.item.flatMap (leBytes 8) ++ leBytes 4 d.length ++ leBytes 2 head ++ leBytes 2 need ++
            leBytes 1 (b2n v.phase + 2 * b2n (p.any id)) ++ zeros 23
          let h := sendTlp h (.write n (fget h F_HOSTFN_HOF_CPL_BASE n * 64 + 64 * tail) entry false 0)
          let h := dirtyLog h n (fget h F_HOSTFN_HOF_CPL_BASE n * 64 + 64 * tail) 64
          let vec := fget h F_HOSTFN_HOF_CFG_VECTOR n
          let h := if vec == 0xFF then h else msixSend h n vec
          let next := (tail + 1) % cplEntries h n
          let h := fset (fset h F_HOSTFN_HOF_PTR_BUF_HEAD ((head + need) % bufEntries h n) n) F_HOSTFN_HOF_PTR_CPL_TAIL next n
          setFn h n { fnOf h n with hofSent := true, phase := if next == 0 then !v.phase else v.phase })

/-- HANDOFF_ACK: the completion entry is acknowledged and the action completes (R483). -/
def execHandoffAck (fn : Fin 256) (s : State) : Host.Outcome State Fault Refusal :=
  .next (s.upd fun h =>
    let n := fn.val
    let v := fnOf h n
    match v.hof with
    | x :: rest => if v.hofSent then completeAction (setFn h n { v with hof := rest, hofSent := false }) x.flow x.seq else h
    | [] => h)

/-! ### Doorbell (R486) -/

/-- DOORBELL: bits are set and the function's source is raised; a function whose BARs do not answer gives Unsupported Request
(R476, R486, R490). -/
def execDoorbell (fn : Fin 256) (bits : BitVec 64) (s : State) : Host.Outcome State Fault Refusal :=
  .next (s.upd fun h =>
    if !fnDecodes h fn.val then unsupported h fn.val true
    else if bits == 0 then h
    else raiseSource (fset h F_HOSTFN_DOORBELL_BITS ((fget h F_HOSTFN_DOORBELL_BITS fn.val).lor bits.toNat) fn.val) (srcDoorbell fn.val))

/-! ### Resets and power states (R488 to R490) -/

/-- A reset that meets a function that is not quiesced: its hand-off stops, its reads return poisoned data, and a deferred record
names it (R488). -/
def forceFn (h : Hw) (n : Nat) : Hw :=
  if !fnPresent h n || fon h F_HOSTFN_STATUS_QUIESCED n then h
  else
    let waits := (fnOf h n).readWait
    let h := (h.host.reads.filter (·.fn == n)).foldl poisonRead h
    let h := waits.foldl (fun h r => if (fnOf h n).readWait.any (·.acc == r.acc) then answerPoison h r else h) h
    let h := fadd h F_HOST_ERR_FORCED 1
    logReg h 1 blkHost n R_HOST_ERR 0 0 (partByte (partOfFn n) false)

/-- HOSTFN_STATUS shows what configuration space holds: Bus Master Enable, Memory Space Enable (a virtual function's lies in its
physical function's SR-IOV control) and D3hot (R490, R493; DEDUCED, log 55). -/
def showCfg (h : Hw) (n : Nat) : Hw :=
  let p := partOfFn n
  let mse := if isPf n then bit (cfgWord h n 1) 1 else bit (cfgWord h p 0x56) 3
  let h := fset (fset h F_HOSTFN_STATUS_BME (b2n (bit (cfgWord h n 1) 2)) n) F_HOSTFN_STATUS_MSE (b2n mse) n
  fset h F_HOSTFN_STATUS_D3 (b2n (isPf n && cfgWord h n 0x11 % 4 == 3)) n

/-- The FUNC domain of a function clears; its configuration space is of the HOST domain and stays, and so does its existence (R83, R84,
R489). -/
def clearFn (h : Hw) (n : Nat) : Hw :=
  let present := fget h F_HOSTFN_STATUS_PRESENT n
  let cfg := (fnOf h n).cfg
  let h := clearRegs h fun r i _ => r.dom == .func && i == n
  showCfg (fset (setFn h n { cfg := cfg }) F_HOSTFN_STATUS_PRESENT present n) n

/-- A function that is removed: nothing of it stays. -/
def removeFn (h : Hw) (n : Nat) : Hw :=
  let h := clearRegs (forceFn h n) fun r i _ => r.dom == .func && i == n
  setFn h n {}

/-- The virtual functions of a physical function that exist: VF Enable and NumVFs (R469, R493). -/
def refreshVfs (h : Hw) (p : Nat) : Hw :=
  let en := bit (cfgWord h p 0x56) 0
  let k := cfgWord h p 0x58 % 2 ^ 16
  (List.range 31).foldl (fun h i =>
    let n := 8 + 31 * p + i
    let on := en && i < k && i < (partOf h p).numVf
    if fnPresent h n == on then h
    else if on then fset h F_HOSTFN_STATUS_PRESENT 1 n
    else removeFn h n) h

/-- A function-level reset; that of a physical function clears VF Enable, which removes its virtual functions (R84, R488, R489). -/
def resetFn (h : Hw) (n : Nat) : Hw :=
  let h := clearFn (forceFn h n) n
  if isPf n then refreshVfs (setCfgWord h n 0x56 (setBit (cfgWord h n 0x56) 0 false)) n else h

/-- The functions of a partition that exist. -/
def fnsOf (h : Hw) (p : Nat) : List Nat := (List.range 256).filter fun n => partOfFn n == p && fnPresent h n

/-- A partition reset clears FUNC of its physical and virtual functions, which go on to exist (R84, R488). -/
def resetPartFns (h : Hw) (p : Nat) : Hw := (fnsOf h p).foldl (fun h n => clearFn (forceFn h n) n) h

/-- FLR (R489). -/
def execFlr (fn : Fin 256) (s : State) : Host.Outcome State Fault Refusal :=
  .next (s.upd fun h => if fnPresent h fn.val then resetFn h fn.val else h)

/-- A forced reset of every function, with its configuration space: virtual functions are gone, physical ones stay (R84, R489). -/
def resetAllFns (h : Hw) : Hw :=
  let h := (List.range 256).foldl (fun h n => if fnPresent h n then removeFn h n else h) h
  (List.range 8).foldl (fun h p => fset h F_HOSTFN_STATUS_PRESENT 1 p) h

/-- FUNDAMENTAL_RESET: PERST#, hot reset or link down: every function is reset, and the link state of H0 clears (R84, R489).
DEDUCED: a hot reset of a link that is up counts as a link-down event (log 55). -/
def execFundamentalReset (kind : FundKind) (s : State) : Host.Outcome State Fault Refusal :=
  .next (s.upd fun h =>
    let h := resetAllFns h
    let down := fun h =>
      let h := if fon h F_HOST_LINK_STATUS_DL_UP then fadd h F_HOST_LINK_STATUS_DOWN_COUNT 1 else h
      fset (fset (fset (fset h F_HOST_LINK_STATUS_DL_UP 0) F_HOST_LINK_STATUS_READY 0) F_HOST_LINK_STATUS_WIDTH 0) F_HOST_LINK_STATUS_SPEED 0
    match kind with
    | .perst => fset (down h) F_HOST_LINK_STATUS_PERST 1
    | .hot | .linkDown => down h)

/-- A function enters or leaves D3hot; back in D0 it sends the vectors that waited. Virtual functions have no Power Management capability
(R471, R490). -/
def setPower (h : Hw) (n : Nat) (d3 : Bool) : Hw :=
  if isPf n then
    msixFlush (fset (setCfgWord h n 0x11 (cfgWord h n 0x11 / 4 * 4 + (if d3 then 3 else 0))) F_HOSTFN_STATUS_D3 (b2n d3) n) n
  else h

/-- POWER_STATE_CHANGE (R490). -/
def execPowerStateChange (fn : Fin 256) (d3 : Bool) (s : State) : Host.Outcome State Fault Refusal :=
  .next (s.upd fun h => setPower h fn.val d3)

/-! ### Configuration requests (R468 to R472); register layouts are PRESUMED from the base specification (log 11) -/

/-- The address bits of a BAR pair, low or high half. -/
def barMask (size : Nat) (high : Bool) : Nat :=
  if size == 0 then 0 else if high then 2 ^ 32 - (size + 2 ^ 32 - 1) / 2 ^ 32 else if size < 2 ^ 32 then 2 ^ 32 - size else 0

/-- Bits of a configuration dword that software may write. -/
def cfgMask (h : Hw) (n dw : Nat) : Nat :=
  if isPf n then
    match dw with
    | 0x01 => 0x0546
    | 0x04 => barMask (barSize h n false) false
    | 0x05 => barMask (barSize h n false) true
    | 0x06 => barMask (barSize h n true) false
    | 0x07 => barMask (barSize h n true) true
    | 0x11 => 0x8103
    | 0x14 => 0xC0000000
    | 0x1E => 0x7FFF
    | 0x26 => 0xFFFF
    | 0x56 => 0x1F
    | 0x58 => 0xFFFF
    | 0x5D => barMask (barSize h (fnNumber n 1) false) false
    | 0x5E => barMask (barSize h (fnNumber n 1) false) true
    | 0x5F => barMask (barSize h (fnNumber n 1) true) false
    | 0x60 => barMask (barSize h (fnNumber n 1) true) true
    | _ => 0
  else
    match dw with
    | 0x01 => 0x0004
    | 0x12 => 0x7FFF
    | 0x1A => 0xFFFF
    | 0x20 => 0xC0000000
    | _ => 0

/-- The header of a capability in the first 256 bytes: its identity, where the next one starts, and the bits above (R471). -/
def capHead (id next v : Nat) : Nat := id + next * 2 ^ 8 + v * 2 ^ 16
/-- The header of an extended capability (R471). -/
def extHead (id version next : Nat) : Nat := id + version * 2 ^ 16 + next * 2 ^ 20

/-- A dword of the PCI Express capability, by its place in it: the bits that the spec fixes, and their values (R466, R467, R470). -/
def pcieFixed (h : Hw) (n k : Nat) : Nat × Nat :=
  let speeds := (2 ^ maxSpeed h - 1) * 2
  match k with
  | 0 => (0x00FFFFFF, capHead 0x10 (if isPf n then 0 else 0x80) 2)
  | 1 => (0x1000003F, 0x10000022)
  | 3 => (0xFFF, maxSpeed h + 0x100 + 0x800)
  | 4 => (0x03FF0008, fget h F_HOST_LINK_STATUS_SPEED * 2 ^ 16 + fget h F_HOST_LINK_STATUS_WIDTH * 2 ^ 20)
  | 9 => (0x33BDF, 0x30007)
  | 11 => (0x007FFEFE, speeds + speeds * 2 ^ 8 + speeds * 2 ^ 15)
  | _ => (0, 0)

/-- A dword of the MSI-X capability, by its place in it: the size and the places in BAR0 of the table and of the pending bits (R472). -/
def msixFixed (n k : Nat) : Nat × Nat :=
  match k with
  | 0 => (0x3FFFFFFF, capHead 0x11 (if isPf n then 0x70 else 0) (vectorsOf n - 1))
  | 1 => (2 ^ 32 - 1, 0x8000)
  | _ => (2 ^ 32 - 1, 0x9000)

/-- A dword of the SR-IOV capability of a physical function, by its place in it (R469, R470, R472). -/
def sriovFixed (h : Hw) (n k : Nat) : Nat × Nat :=
  let all := fun v => (2 ^ 32 - 1, v)
  let vf := fnNumber n 1
  match k with
  | 0 => all (extHead 0x10 1 (if n == 0 then 0x190 else 0x270))
  | 1 => all 0
  | 3 => all ((partOf h n).numVf * 2 ^ 16 + (partOf h n).numVf)
  | 5 => all (2 ^ 16 + 8 + 30 * n)
  | 6 => all (0x1025 * 2 ^ 16)
  | 7 | 8 => all 1
  | 9 => all (if barSize h vf false != 0 then cfgWord h n 0x5D + 4 else 0)
  | 11 => all (if barSize h vf true != 0 then cfgWord h n 0x5F + 0xC else 0)
  | 10 | 12 => all (cfgWord h n (0x54 + k))
  | _ => (0, 0)

/-- The bits of a dword that the spec fixes, and their values (R466 to R472; the layouts, and that dwords outside every capability read 0,
are PRESUMED from the base specification, and that capabilities are linked in the order of their offsets is a DESIGN CHOICE, log 11). -/
def cfgFixed (h : Hw) (n dw : Nat) : Nat × Nat :=
  let all := fun v => (2 ^ 32 - 1, v)
  let pf := isPf n
  match dw with
  | 0x00 => all ((if pf then 0x1024 else 0x1025) * 2 ^ 16 + Config.vendorId.toNat)
  | 0x01 => all (0x00100000 + cfgWord h n 1)
  | 0x02 => all (0x11800000 + Config.revisionId.toNat)
  | 0x03 => (0x007F0000, 0)
  | 0x04 => all (if pf && barSize h n false != 0 then cfgWord h n 4 + 4 else 0)
  | 0x06 => all (if pf && barSize h n true != 0 then cfgWord h n 6 + 0xC else 0)
  | 0x05 | 0x07 => all (cfgWord h n dw)
  | 0x08 | 0x09 | 0x0C | 0x0E => all 0
  | 0x0D => all 0x40
  | 0x0F => (0xFF00, 0)
  | 0x40 => all (extHead 1 2 (if pf then 0x148 else 0))
  | 0x41 | 0x44 => all (cfgWord h n dw)
  | _ =>
    if pcieCap n ≤ dw && dw < pcieCap n + 15 then pcieFixed h n (dw - pcieCap n)
    else if msixCap n ≤ dw && dw < msixCap n + 3 then msixFixed n (dw - msixCap n)
    else if pf && 0x54 ≤ dw && dw < 0x64 then sriovFixed h n (dw - 0x54)
    else if pf then
      match dw with
      | 0x10 => (0x0607FFFF, capHead 1 0x50 3)
      | 0x11 => (8, 8)
      | 0x52 => all (extHead 0x0E 1 0x150)
      | 0x53 => (0xFF03, (n + 1) % 8 * 2 ^ 8)
      | 0x9C => all (extHead 3 1 0x280)
      | 0x9D => all (h.blvd.serial % 2 ^ 32)
      | 0x9E => all (h.blvd.serial / 2 ^ 32 % 2 ^ 32)
      | 0xA0 => all (extHead 0x22 1 0x290)
      | 0xA2 => (0xFFFFFF, (3 * 2 ^ 9 + 306) * (2 ^ 12 + 1))
      | 0xA4 => all (extHead 0x0D 1 0)
      | 0x64 => all (if n == 0 then extHead 0x19 1 0x1C0 else 0)
      | 0x70 => all (if n == 0 then extHead 0x26 1 0x1F0 else 0)
      | 0x7C => all (if n == 0 then extHead 0x2A 1 0x220 else 0)
      | 0x88 => all (if n == 0 then extHead 0x27 1 0x270 else 0)
      | _ =>
        if (0x12 ≤ dw && dw < 0x1C) || (0x2B ≤ dw && dw < 0x40) || (n != 0 && 0x64 ≤ dw && dw < 0x9C) then all 0 else (0, 0)
    else if (0x23 ≤ dw && dw < 0x40) || 0x52 ≤ dw then all 0
    else (0, 0)

/-- What a configuration read answers: the fixed and the writable bits; a bit that the spec leaves to the base specification is open
(log 8). -/
def cfgRead (h : Hw) (n dw : Nat) : Nat × Hw :=
  let (m, v) := cfgFixed h n dw
  let w := (cfgMask h n dw).land (2 ^ 32 - 1 - m)
  let known := v + (cfgWord h n dw).land w
  let opens := 2 ^ 32 - 1 - m - w
  if opens == 0 then (known, h)
  else
    let (k, h) := takeFree h
    (known + (Config.freeNat k % 2 ^ 32).land opens, h)

/-- A write of configuration space: the writable bits, and what they control. -/
def cfgWrite (h : Hw) (n dw v : Nat) : Hw :=
  if dw == 0x41 || dw == 0x44 then setCfgWord h n dw ((cfgWord h n dw).land (2 ^ 32 - 1 - v))
  else
    let h := setCfgWord h n dw (v.land (cfgMask h n dw))
    let pf := isPf n
    if dw == 0x01 then
      let h := fset h F_HOSTFN_STATUS_BME (b2n (bit v 2)) n
      msixFlush (if pf then fset h F_HOSTFN_STATUS_MSE (b2n (bit v 1)) n else h) n
    else if pf && dw == 0x11 then setPower h n (v % 4 == 3)
    else if dw == pcieCap n + 2 then (if bit v 15 then resetFn h n else h)
    else if dw == msixCap n then msixFlush h n
    else if pf && (dw == 0x56 || dw == 0x58) then
      let h := refreshVfs h n
      (List.range 31).foldl (fun h i => fset h F_HOSTFN_STATUS_MSE (b2n (bit (cfgWord h n 0x56) 3)) (8 + 31 * n + i)) h
    else h

/-- CONFIG_REQUEST: Request Retry Status before readiness, Unsupported Request for an absent function (R468, R469). -/
def execConfigRequest (fn : Fin 256) (write : Bool) (dword : BitVec 10) (data : BitVec 32) (s : State) : Host.Outcome State Fault Refusal :=
  .next (s.upd fun h =>
    let n := fn.val
    if !fon h F_HOST_LINK_STATUS_DL_UP then h
    else if !fon h F_HOST_LINK_STATUS_READY then sendTlp h (.cfgCpl n 0 2)
    else if !fnPresent h n then sendTlp h (.cfgCpl n 0 1)
    else if write then sendTlp (cfgWrite h n dword.toNat data.toNat) (.cfgCpl n 0 0)
    else
      let (v, h) := cfgRead h n dword.toNat
      sendTlp h (.cfgCpl n (BitVec.ofNat 32 v) 0))

end Sys2Proof.Machine
end

