-- ==== Sys2Proof/Machine/BlvdLink.lean ====
section
/-!
DEFINITION. The Boulevard fabric: packets, routes, remote writes and their receive windows, the landing ring, forwarded items.
-/

namespace Sys2Proof.Machine

/-! ### Packets (R498, R509) -/

def tcFragment : Nat := 0
def tcWrite : Nat := 1
def tcItem : Nat := 2
def tcMgmt : Nat := 3

/-- Fields of a START body (R498). -/
def stSr (s : Nat) : Bool := bit s 47
def stHops (s : Nat) : Nat := bits s 44 41
def stSeq (s : Nat) : Nat := bits s 40 31
def stUnits (s : Nat) : Nat := bits s 30 26 + 1
def stTc (s : Nat) : Nat := bits s 25 24
def stSrc (s : Nat) : Nat := bits s 23 12
def stDest (s : Nat) : Nat := bits s 11 0

/-- A START body without its SEQ, which the bundle gives (R498, R499). -/
def startBody (sr : Bool) (hops units tc src dest : Nat) : Nat :=
  b2n sr * 2 ^ 47 + hops % 16 * 2 ^ 41 + (units - 1) % 32 * 2 ^ 26 + tc % 4 * 2 ^ 24 + src % 4096 * 2 ^ 12 + dest % 4096

/-- A START body with another HOPS, or with a SEQ. -/
def withHops (s n : Nat) : Nat := s - stHops s * 2 ^ 41 + n % 16 * 2 ^ 41
def withSeq (s n : Nat) : Nat := s - stSeq s * 2 ^ 31 + n % 1024 * 2 ^ 31

/-- The units of a byte string, the last one padded with zeros. -/
def unitsOf (d : List Byte) : List (BitVec 512) :=
  (List.range ((d.length + 63) / 64)).map fun i => BitVec.ofNat 512 (num d (64 * i) 64)

/-- The bytes of units. -/
def unitBytes (us : List (BitVec 512)) : List Byte := us.flatMap fun u => leBytes 64 u.toNat

/-! ### Address and routes (R503, R507) -/

/-- The module's address, if it has one (R503). -/
def myAddr (h : Hw) : Option Nat := if fget h F_BLVD_ADDR_SOURCE == 0 then none else some (fget h F_BLVD_ADDR_ADDR)

/-- The SRC of a packet the module sends; open while it has no address. -/
def srcField (h : Hw) : Nat × Hw :=
  match myAddr h with
  | some a => (a, h)
  | none => let (k, h) := takeFree h; (Config.freeNat k % 4096, h)

/-- A packet waits to be sent on a bundle, or is dropped where the bundle is not UP (R507). -/
def sendOn (h : Hw) (g b : Nat) (p : BPacket) : Hw :=
  if fget h F_BLVD_BUNDLE_STATE g b == 3 then
    let v := bundleOf h g b
    let h := setBundle h g b { v with txq := v.txq ++ [{ p with took := h.blvd.took }] }
    { h with blvd := { h.blvd with took := h.blvd.took + 1 } }
  else fadd h F_BLVD_ERR_NO_ROUTE 1

/-- A packet leaves on the bundle that the route table gives its DEST (R507). -/
def routeOut (h : Hw) (p : BPacket) : Hw :=
  let d := stDest p.start
  if fon h F_BLVD_ROUTE_VALID 0 d then sendOn h (fget h F_BLVD_ROUTE_GATE 0 d) (fget h F_BLVD_ROUTE_BUNDLE 0 d) p
  else fadd h F_BLVD_ERR_NO_ROUTE 1

/-- Send a packet of a class to a module. -/
def sendPacket (h : Hw) (tc dest : Nat) (bytes : List Byte) : Hw :=
  let us := unitsOf bytes
  let (src, h) := srcField h
  routeOut h { start := startBody false 0 us.length tc src dest, units := us, seq := 0 }

/-! ### Remote writes (R510 to R512) -/

/-- The lowest-numbered receive window that contains a write, and its physical address (R511, R473). -/
def rxWindow (h : Hw) (off len : Nat) : Option (Nat × Nat) :=
  ((List.range 8).find? fun w =>
    let lo := fget h F_BLVD_RXWIN_MAP_OFFSET_4K 0 w * 4096
    fon h F_BLVD_RXWIN_MAP_EN 0 w && decide (lo ≤ off) && decide (off + len ≤ lo + fget h F_BLVD_RXWIN_MAP_SIZE_4K 0 w * 4096)).map fun w =>
    (w, fget h F_BLVD_RXWIN_TGT_TGT_4K 0 w * 4096 + (off - fget h F_BLVD_RXWIN_MAP_OFFSET_4K 0 w * 4096))

/-- A TC1 write arrives from a module: the partition and world of its window make it, or it is discarded and counted (R511, R517; DEDUCED, log
74). -/
def rxWrite (h : Hw) (m : Mem) (src off : Nat) (d : List Byte) (pz : Bool) : Eff :=
  let refuse : Hw → Eff := fun h => { hw := fadd h F_BLVD_ERR_RX_REFUSED 1 }
  match rxWindow h off d.length with
  | none => refuse h
  | some (w, a) =>
    let p := fget h F_BLVD_RXWIN_MAP_PART 0 w
    if !fon h F_BLVD_RXWIN_MAP_SRC_ANY 0 w && fget h F_BLVD_RXWIN_MAP_SRC 0 w != src then refuse h
    else if modeNow h == 7 && (fget h F_PART_STATUS_STATE 0 p == 4 || partDown h p) then refuse h
    else
      let (e, ok) := agentWrite h m (askerIn h p (fon h F_BLVD_RXWIN_MAP_SECURE 0 w)) a d pz
      if ok then e else e.map fun h => fadd h F_BLVD_ERR_RX_REFUSED 1

/-- The write count of a destination: none before the first packet (R512). -/
def wcountOf (h : Hw) (dest : Nat) : Option Nat := (tfind h.blvd.wcount dest).map fun v => v % 2 ^ 16

/-- One TC1 packet of a remote write, or the write itself where the destination is this module (R509, R510, R512). -/
def sendWrite (h : Hw) (m : Mem) (part dest off : Nat) (d : List Byte) (pz : Bool) : Eff :=
  if myAddr h == some dest then rxWrite h m dest off d pz
  else
    let old := wcountOf h dest
    let n := (old.getD 0 + 1) % 2 ^ 16
    let h := { h with blvd := { h.blvd with wcount := tins h.blvd.wcount dest (2 ^ 16 + n) } }
    let unit0 := leBytes 4 off ++ leBytes 2 d.length ++ leBytes 1 (b2n pz + 2 * b2n old.isNone) ++ zeros 1 ++ leBytes 2 n ++
      leBytes 1 part ++ zeros 53
    { hw := sendPacket h tcWrite dest (unit0 ++ d) }

/-- A write to the remote window: packets of at most 1,984 bytes, none across a 4 KiB boundary of the aperture (R510). -/
def remoteStore (h : Hw) (m : Mem) (who : Requester) (o : Nat) (d : List Byte) (pz : Bool) : Eff :=
  let (part, h) := match (askerOf h who).part with
    | some p => (p, h)
    | none => let (k, h) := takeFree h; (Config.freeNat k % 256, h)
  effFold h m (fun h m (x, c) => sendWrite h m part (x / 2 ^ 32) (x % 2 ^ 32) (sub d (x - o) c) pz) (tlpPieces 1984 d.length o d.length)

/-- REMOTE_WRITE (R510, R512): the write completes once the local fabric has it. -/
def execRemoteWrite (who : Requester) (addr : BitVec 52) (data : List (BitVec 8)) (poison : Bool) (s : State) : Host.Outcome State Fault Refusal :=
  .next (s.act fun h m =>
    match placeOf h addr.toNat with
    | .remote o => (remoteStore h m who o data poison).map fun h => setBusErr h false
    | _ => { hw := setBusErr h true })

/-! ### Lost writes (R512) -/

/-- A write from a module has been lost: its next item is delivered with POISON, and a deferred record says so (R512, R11). -/
def lostWrite (h : Hw) (src : Nat) : Hw :=
  let h := { h with blvd := { h.blvd with gap := drop1 h.blvd.gap src ++ [src] } }
  logCode h 1 blkBlvd 0 (Config.openCode blkBlvd).toNat src

/-- The WSEQ of a TC1 packet; FIRST resynchronises (R512). -/
def noteWseq (h : Hw) (src n : Nat) (first : Bool) : Hw :=
  let h' := { h with blvd := { h.blvd with lastWseq := tins h.blvd.lastWseq src n } }
  if first || (tget 0 h.blvd.lastWseq src + 1) % 2 ^ 16 == n then h' else lostWrite h' src

/-- The WSEQ of an item: whether it is delivered with POISON (R512). -/
def itemGap (h : Hw) (src : Nat) (wseq : Option Nat) : Bool × Hw :=
  let h := match wseq with
    | some n => if tget 0 h.blvd.lastWseq src == n then h
        else lostWrite { h with blvd := { h.blvd with lastWseq := tins h.blvd.lastWseq src n } } src
    | none => h
  (h.blvd.gap.contains src, { h with blvd := { h.blvd with gap := drop1 h.blvd.gap src } })

/-! ### The landing ring (R513, R515) -/

/-- Landed copies of a partition, in ring order. -/
def landedOf (h : Hw) (p : Nat) : List Landed := h.blvd.landed.filter (·.part == p)

/-- The tail passes freed copies in ring order. -/
def advanceLanding (h : Hw) (p : Nat) : Hw :=
  let keep := (landedOf h p).dropWhile (·.freed)
  let h := { h with blvd := { h.blvd with landed := h.blvd.landed.filter (·.part != p) ++ keep } }
  fset h F_BLVD_LAND_STATUS_TAIL (match keep with | l :: _ => l.offset | [] => fget h F_BLVD_LAND_STATUS_HEAD 0 p) 0 p

/-- Free the landed copies of a partition that pass a test. -/
def freeWhere (h : Hw) (p : Nat) (t : Landed → Bool) : Hw :=
  let mark := fun (l : Landed) => if l.part == p && !l.freed && t l then { l with freed := true } else l
  advanceLanding { h with blvd := { h.blvd with landed := h.blvd.landed.map mark } } p

/-- Whether an unfreed copy starts at an address. -/
def landedAt (h : Hw) (p a : Nat) : Bool := (landedOf h p).any fun l => l.addr == a && !l.freed

/-- Free the landed copy at an address (R515). -/
def freeLanded (h : Hw) (p a : Nat) : Hw := freeWhere h p fun l => l.addr == a

/-- Where a copy of `len` units goes: at the head, or at the base where it does not fit before the end; none while the place is taken
or the ring is absent (R513, R218). -/
def landPlace (h : Hw) (p len : Nat) : Option Nat :=
  let size := fget h F_BLVD_LAND_SIZE_4K 0 p * 64
  let head := fget h F_BLVD_LAND_STATUS_HEAD 0 p
  let s := if head + len ≤ size then head else 0
  if size < len || len == 0 then none
  else if (landedOf h p).any fun r => decide (s < r.offset + r.len) && decide (r.offset < s + len) then none else some s

/-- Allocate a copy in the landing ring. -/
def allocLanded (h : Hw) (p src key len : Nat) : Option (Landed × Hw) :=
  let n := (len + 63) / 64
  match landPlace h p n with
  | none => none
  | some o =>
    let l : Landed := { part := p, addr := fget h F_BLVD_LAND_BASE_4K 0 p * 4096 + 64 * o, offset := o, len := n, src := src, key := key }
    let h := { h with blvd := { h.blvd with landed := h.blvd.landed ++ [l] } }
    let h := fset h F_BLVD_LAND_STATUS_HEAD ((o + n) % (fget h F_BLVD_LAND_SIZE_4K 0 p * 64)) 0 p
    some (l, advanceLanding h p)

/-- An event record whose present descriptors name the landing address (R227, R513). -/
def landRecord (d : List Byte) (addr : Nat) : List Byte :=
  (List.range (popcount 64 (num d 0x10 8))).foldl (fun d j =>
    let x := num d (0x40 + 8 * j) 8
    if bit x 5 then patch d (0x40 + 8 * j) (leBytes 8 ((addr / 64 + x / 2 ^ 18) % 2 ^ 46 * 2 ^ 18 + x % 2 ^ 18)) else d) d

/-! ### Items that arrive (R513, R514) -/

/-- What unit 0 of a TC0 or TC2 packet says (R509). -/
structure ItemHdr where
  item : List Byte
  destFlow : Nat
  last : Bool
  retry : Bool
  poison : Bool
  wseq : Option Nat
  off : Nat
  len : Nat

/-- Read unit 0 of an item packet. -/
def itemHdr (u : List Byte) : ItemHdr :=
  let f := num u 0x22 1
  { item := sub u 0 32, destFlow := num u 0x20 2 % 4096, last := bit f 0, retry := bit f 1, poison := bit f 2,
    wseq := if bit f 3 then some (num u 0x24 2) else none, off := num u 0x28 4, len := num u 0x2C 4 }

/-- FLOW and SEQ of the item of a packet, as E2E_ACK names it. -/
def hdrKey (x : ItemHdr) : Nat := num x.item 0x1C 4

/-- The REMOTE item that a forwarded item becomes (R513, R514). -/
def remoteItem (x : ItemHdr) (src arg2 : Nat) (poison : Bool) : Item :=
  let w := num x.item 0x18 8
  { arg0 := BitVec.ofNat 64 (num x.item 0 8), arg1 := BitVec.ofNat 64 (num x.item 8 8), arg2 := BitVec.ofNat 64 arg2, seq := 0, kind := 3,
    flags := (bits w 26 24).lor (b2n poison) + 8 * b2n x.retry, user := src }

/-- Enqueue the REMOTE item, and keep the acknowledgement of one that is OK (R513, R514). -/
def takeRemote (h : Hw) (src : Nat) (x : ItemHdr) (arg2 : Nat) : Hw × Nat :=
  let (poison, h) := itemGap h src x.wseq
  let keep := fun (h : Hw) => { h with blvd := { h.blvd with gap := if poison then drop1 h.blvd.gap src ++ [src] else h.blvd.gap } }
  match ownerFlow h x.destFlow with
  | none => (keep h, rbForeign)
  | some p =>
    let (h, code) := enqueue h p x.destFlow (remoteItem x src arg2 poison)
    if code == rbOk then ({ h with blvd := { h.blvd with acked := ((src, hdrKey x) :: h.blvd.acked).take 256 } }, code) else (keep h, code)

/-- The first packet of an event: the copy is allocated, or the result of a refusal (R513). -/
def landFirst (h : Hw) (src : Nat) (x : ItemHdr) : Hw × Nat :=
  match ownerFlow h x.destFlow with
  | none => (h, rbForeign)
  | some p =>
    let h := freeWhere h p fun l => l.src == src && l.key == hdrKey x && decide (l.got < 64 * l.len)
    match allocLanded h p src (hdrKey x) x.len with
    | none => (fadd h F_BLVD_LAND_STATUS_FULL 1 0 p, rbFull)
    | some (_, h) => (h, rbOk)

/-- Stream bytes of an event arrive: they are stored in the copy, and the last ones enqueue the item (R513). -/
def landBytes (h : Hw) (m : Mem) (src : Nat) (x : ItemHdr) (d : List Byte) : Eff × Option Nat :=
  match h.blvd.landed.find? fun l => l.src == src && l.key == hdrKey x && !l.freed && l.got == x.off && decide (l.got < 64 * l.len) with
  | none => ({ hw := h }, none)
  | some l =>
    let d := d.take (x.len - x.off)
    let d := if x.off == 0 then landRecord d l.addr else d
    let e := agentStore h m { part := some l.part } (l.addr + x.off) d x.poison
    let got := if x.last && x.len ≤ x.off + d.length then 64 * l.len else x.off + d.length
    let note := fun (y : Landed) => if y == l then { y with got := got } else y
    let h := { e.hw with blvd := { e.hw.blvd with landed := e.hw.blvd.landed.map note } }
    if !x.last then ({ hw := h, ops := e.ops }, none)
    else if x.off + d.length < x.len then ({ hw := h, ops := e.ops }, none)
    else
      let (h, code) := takeRemote h src x l.addr
      let h := if code == rbOk then h else freeLanded h l.part l.addr
      ({ hw := h, ops := e.ops }, some code)

/-- A TC0 or TC2 packet is delivered: the effect, and the result of R245 where the item is answered (R513, R514, R517). -/
def receiveItem (h : Hw) (m : Mem) (src tc : Nat) (bytes : List Byte) : Eff × Option Nat :=
  let x := itemHdr bytes
  let first := tc == tcItem || x.off == 0
  if x.retry && h.blvd.acked.contains (src, hdrKey x) then ({ hw := h }, if x.last then some rbOk else none)
  else if first && rbtHeld h then ({ hw := h }, some rbHeld)
  else if first && flowGet h F_RBT_FLOW_CFG_WORLD x.destFlow == 1 then ({ hw := h }, some rbForeign)
  else if tc == tcItem then
    let (h, code) := takeRemote h src x (num x.item 0x10 8)
    ({ hw := h }, some code)
  else
    let (h, code) := if first then landFirst h src x else (h, rbOk)
    if code != rbOk then ({ hw := h }, some code) else landBytes h m src x (bytes.drop 64)

/-! ### Items that leave (R508, R512 to R514) -/

/-- Unit 0 of an item packet. -/
def itemUnit (item : List Byte) (destFlow flags wseq off len : Nat) : List Byte :=
  item ++ leBytes 2 destFlow ++ leBytes 1 flags ++ zeros 1 ++ leBytes 2 wseq ++ zeros 2 ++ leBytes 4 off ++ leBytes 4 len ++ zeros 16

/-- The packets of an item: class and bytes of each (R513). `d` and `pz`: the stream of an EVENT item. -/
def itemPackets (h : Hw) (dest destFlow : Nat) (item : List Byte) (stream : Option (List Byte × List Bool)) (retry : Bool) :
    List (Nat × List Byte) :=
  let w := wcountOf h dest
  let flags := fun last pz => b2n last + 2 * b2n retry + 4 * b2n pz + 8 * b2n w.isSome
  match stream with
  | none => [(tcItem, itemUnit item destFlow (flags true false) (w.getD 0) 0 0)]
  | some (d, pz) =>
    let n := (d.length + 1983) / 1984
    (List.range n).map fun i =>
      (tcFragment, itemUnit item destFlow (flags (i + 1 == n) ((sub' pz (1984 * i)).any id)) (w.getD 0) (1984 * i) d.length ++
        sub d (1984 * i) 1984)
where
  /-- The poison of up to 1,984 bytes. -/
  sub' (l : List Bool) (o : Nat) : List Bool := (l.drop o).take 1984

/-- Deliver packets to this module itself, until one is answered. -/
def selfDeliver (h : Hw) (m : Mem) (src : Nat) : List (Nat × List Byte) → Eff × Option Nat
  | [] => ({ hw := h }, none)
  | (tc, b) :: r =>
    match receiveItem h m src tc b with
    | (e, some c) => (e, some c)
    | (e, none) => let (e2, c) := selfDeliver e.hw (m.applyAll e.ops) src r; ({ hw := e2.hw, ops := e.ops ++ e2.ops }, c)

/-- Forward an item for a BOULEVARD action: the effect, and the result where this module itself receives it (R513). -/
def forwardItem (h : Hw) (m : Mem) (f : Nat) (it : Item) (dest destFlow : Nat) (retry : Bool) : Eff × Option Nat :=
  let item := (itemWords f it).flatMap (leBytes 8)
  let (h, stream) := if it.kind == 1 then
      let (h, d, pz) := eventStream h m (flowAsker h f) it.arg2.toNat
      (h, some (d, pz))
    else (h, none)
  let ps := itemPackets h dest destFlow item stream retry
  if myAddr h == some dest then selfDeliver h m dest ps
  else
    let h := ps.foldl (fun h (tc, b) => sendPacket h tc dest b) h
    let w : E2eWait := { flow := f, seq := it.seq, dest := dest, destFlow := destFlow, retry := retry }
    ({ hw := { h with blvd := { h.blvd with e2e := h.blvd.e2e ++ [w] } } }, none)

/-- A forwarded item of a flow awaits its acknowledgement (R513). -/
def inFlight (h : Hw) (f : Nat) : Bool := h.blvd.e2e.any (·.flow == f)

end Sys2Proof.Machine
end

