-- ==== Sys2Proof/Machine/Work.lean ====
section
/-!
DEFINITION. Roundabout's operations: get, add, done, cancel, free and flush; release actions; refill; ticks and timed items; reset.
-/

namespace Sys2Proof.Machine

/-! ### Freeing events (R235, R515) -/

/-- Free the event of an EVSEQ: its slot and every fragment it names; none where no unfreed event has it (R235). -/
def freeEventNo (h : Hw) (p evseq : Nat) : Option Hw :=
  (h.rbt.events.find? fun e => e.part == p && e.evseq == evseq).map fun e =>
    let h := { h with rbt := { h.rbt with events := h.rbt.events.filter fun x => !(x.part == p && x.evseq == evseq) } }
    e.frags.foldl (fun h (g, o) => freeFragment h g o) h

/-- Free the event that an item refers to: an EVENT item's, or the landed copy of a REMOTE item (R235, R515). -/
def freeItemEvent (h : Hw) (p : Nat) (it : Item) : Hw :=
  if it.kind == 1 then (freeEventNo h p it.arg1.toNat).getD h
  else if it.kind == 3 && landedAt h p it.arg2.toNat then freeLanded h p it.arg2.toNat
  else h

/-! ### Release actions (R233 to R235) -/

def actionOf (h : Hw) (f : Nat) : Nat := let a := flowGet h F_RBT_FLOW_ACT_ACTION f; if a ≤ 4 then a else 0
def freeAtOf (h : Hw) (f : Nat) : Nat := let a := flowGet h F_RBT_FLOW_ACT_FREE_AT f; if a ≤ 2 then a else 0

/-- An item leaves its flow. -/
def removeItem (h : Hw) (f seq : Nat) : Hw :=
  let fl := flowOf h f
  setFlow h f { fl with items := fl.items.filter fun i => !(i.seq == seq && isReleased i) }

/-- What a target says of an action: refused, accepted, accepted and complete, or not yet answered. -/
inductive Taken where
  | refused | accepted | complete | waits
  deriving DecidableEq, Repr

/-- A request for a flow that the requester's world may not use: FOREIGN, and logged (R247). -/
def refuseWorld (h : Hw) (f p : Nat) : Hw := logCode h 4 blkRbt 0 (Config.openCode blkRbt).toNat f (partByte p false)

/-- A release action of flow `f` carries the flow's WORLD (R443). -/
def flowSecure (h : Hw) (f : Nat) : Bool := flowGet h F_RBT_FLOW_CFG_WORLD f == 1

/-- A CHAIN action: the item is enqueued on the target flow; a normal-world flow may not add to a secure one (R234, R247, R443). -/
def chainItem (h : Hw) (f p t : Nat) (it : Item) : Hw × Bool :=
  if ownerFlow h t == some p && flowSecure h t && !flowSecure h f then (refuseWorld h t p, false)
  else
    let (h, code) := enqueue h p t it
    (h, code == rbOk)

/-- An ENGINE action: a submission with the template read in the flow's world, accepted or refused as a write to ENG_QP_SUBMIT by a
requester of the flow's partition and world would be (R234, R303, R306, R443, R444). -/
def submitItem (h : Hw) (m : Mem) (f p q n : Nat) (it : Item) : Hw × Bool :=
  if 24 ≤ q then (h, false)
  else if ownerQp h q n != some p then (logRefused h blkEng q R_ENG_QP_SUBMIT q n (partByte p (flowSecure h f)), false)
  else if fon h F_ENG_QP_CFG_WORLD q n && !flowSecure h f then
    (fset (logRefused h blkEng q R_ENG_QP_SUBMIT q n (partByte p false)) F_ENG_QP_TICKET_RESULT tkForeign q n, false)
  else
    let args := leBytes 8 it.arg0.toNat ++ leBytes 8 it.arg1.toNat ++ leBytes 8 it.arg2.toNat
    let (h, code) := submit h m q n (flowGet h F_RBT_FLOW_ARG_ARG f) (flowAsker h f) (some args) (some (f, it.seq, it.arg2.toNat))
    (h, code == tkOk)

/-- Offer an item's action to its target (R234, R239). -/
def offerAction (h : Hw) (m : Mem) (f p : Nat) (it : Item) (retry : Bool) : Eff × Taken :=
  let t := flowGet h F_RBT_FLOW_ACT_TARGET f
  match actionOf h f with
  | 1 =>
    let (h, ok) := chainItem h f p t it
    ({ hw := h }, if ok then .complete else .refused)
  | 2 =>
    let (h, ok) := submitItem h m f p (t / 64 % 32) (t % 64) it
    ({ hw := h }, if ok then .accepted else .refused)
  | 3 =>
    if 32 ≤ t then ({ hw := h }, .refused)
    else
      match takeHandoff h m (fnNumber p t) f it with
      | some h => ({ hw := h }, .accepted)
      | none => ({ hw := h }, .refused)
  | 4 =>
    match forwardItem h m f it t (flowGet h F_RBT_FLOW_ARG_ARG f % 4096) retry with
    | (e, none) => (e, .waits)
    | (e, some c) => (e, if c == rbOk then .accepted else .refused)
  | _ => ({ hw := h }, .complete)

/-- What follows from the target's answer: a chained item leaves the flow, a delivered one completes, a refused one stalls it (R233,
R234). -/
def settle (h : Hw) (f seq : Nat) (t : Taken) : Hw :=
  let stall := fun b (h : Hw) => setFlow h f { flowOf h f with stalled := b }
  match t with
  | .refused => stall true h
  | .waits => stall false h
  | .complete => removeItem (stall false h) f seq
  | .accepted => if actionOf h f == 4 then completeAction (stall false h) f seq else stall false h

/-- Items of a flow that are done and may be released, from the oldest: each runs its action once the action before it has been
accepted (R233 to R235). -/
def releaseLoop (h : Hw) (m : Mem) (f p : Nat) : Nat → Eff
  | 0 => { hw := h }
  | k + 1 =>
    let fl := flowOf h f
    if fl.stalled || inFlight h f then { hw := h }
    else
      match fl.items.find? fun i => !isReleased i with
      | none => { hw := h }
      | some it =>
        match it.st with
        | .done skip =>
          let h := pmu pmuRbt h 0 3 1 (some p)
          let mark := fun (i : Item) => if i.seq == it.seq && !isReleased i then { i with st := .acting } else i
          let h := setFlow h f { fl with items := fl.items.map mark }
          let at' := freeAtOf h f
          if skip || actionOf h f == 0 then
            let h := if at' != 0 && !it.keep then freeItemEvent h p it else h
            releaseLoop (removeItem h f it.seq) m f p k
          else
            let h := if at' == 1 && !it.keep && actionOf h f != 1 then freeItemEvent h p it else h
            let (e, t) := offerAction h m f p it false
            let r := releaseLoop (settle e.hw f it.seq t) m f p k
            { hw := r.hw, ops := e.ops ++ r.ops }
        | _ => { hw := h }

/-- Release what a flow can release, and show it in its registers. -/
def releaseFlow (h : Hw) (m : Mem) (f : Nat) : Eff :=
  match ownerFlow h f with
  | none => { hw := h }
  | some p => (releaseLoop h m f p ((flowOf h f).items.length + 1)).map fun h => refreshItems h f

/-- RELEASE_ACTION_RETRY: a refused action is offered again (R233). -/
def execReleaseActionRetry (f : Fin 4096) (s : State) : Host.Outcome State Fault Refusal :=
  .next (s.act fun h m =>
    let f := f.val
    let fl := flowOf h f
    match (fl.items.filter fun i => i.st == .acting).getLast?, ownerFlow h f with
    | some it, some p =>
      if rbtHeld h || !fl.stalled || inFlight h f then { hw := h }
      else
        let (e, t) := offerAction (pmu pmuRbt h 0 7 1 (some p)) m f p it true
        let r := releaseFlow (settle e.hw f it.seq t) m f
        { hw := r.hw, ops := e.ops ++ r.ops }
    | _, _ => { hw := h })

/-- ACTION_COMPLETE: the oldest action that has completed at its target ends; FREE_AT 2 frees the event (R234, R235). -/
def execActionComplete (f : Fin 4096) (s : State) : Host.Outcome State Fault Refusal :=
  .next (s.upd fun h =>
    let f := f.val
    match (flowOf h f).items.find? fun i => i.st == .complete, ownerFlow h f with
    | some it, some p =>
      if rbtHeld h then h
      else
        let h := if freeAtOf h f == 2 && !it.keep then freeItemEvent h p it else h
        refreshItems (removeItem h f it.seq) f
    | _, _ => h)

/-! ### Get work (R231, R232) -/

/-- The number of no agent in LAST_AGENT. -/
def noAgent : Nat := 0x3FF

/-- Rank of a deliverable flow for an agent: priority, then affinity, then age, then number; a smaller key goes first (R232). -/
def getKey (h : Hw) (p agent f : Nat) (it : Item) : List Nat :=
  let g := flowGet h F_RBT_FLOW_CFG_GROUP f
  let pri := bits (fget h F_RBT_PART_LIMITS_GRP_PRI 0 p) (2 * g + 1) (2 * g)
  let last := flowGet h F_RBT_FLOW_STATUS_LAST_AGENT f
  let since := match (flowOf h f).readyAt with | some (_, t) => t | none => h.now
  let free := last == noAgent || decide (flowGet h F_RBT_FLOW_CFG_AFF_HOLD f * 1024 ≤ h.now - since)
  [3 - pri, if last == agent then 0 else if free then 1 else 2, it.at_, f]

/-- Lexicographic order of keys. -/
def keyLt : List Nat → List Nat → Bool
  | a :: r, b :: s => decide (a < b) || (a == b && keyLt r s)
  | _, _ => false

/-- The item that an agent's get-work takes (R232). -/
def chooseWork (h : Hw) (p agent groups : Nat) (secure : Bool) : Option (Nat × Item) :=
  let cands := (flowsOf h p).filterMap fun e =>
    if !bit groups (flowGet h F_RBT_FLOW_CFG_GROUP e.1) || (flowGet h F_RBT_FLOW_CFG_WORLD e.1 == 1 && !secure) then none
    else (deliverable h e.1).map fun it => (e.1, it)
  cands.foldl (fun best c => match best with
    | none => some c
    | some b => if keyLt (getKey h p agent c.1 c.2) (getKey h p agent b.1 b.2) then some c else some b) none

/-- Bin of a waiting time of `u` in 1/64 gate cycle: 20 ns are 2,048 of them (R250). -/
def waitBin (u : Nat) : Nat := if u < 2048 then 0 else min 15 (Nat.log2 (u / 1024))

/-- Count a delivery in the waiting-time histogram. -/
def countWait (h : Hw) (p u : Nat) : Hw :=
  let b := waitBin u
  fadd h (if b % 2 == 1 then F_RBT_PART_WAIT_BIN_ODD else F_RBT_PART_WAIT_BIN_EVEN) 1 0 (8 * p + b / 2)

/-- An item whose on-chip entry, or overflow block, came with an uncorrectable error has POISON set (R238). -/
def Item.marked (i : Item) (bad : Bool) : Item := if bad then { i with flags := setBit i.flags 0 true } else i

/-- The deferred record of such an item (R11, R238). -/
def logItem (h : Hw) (p f : Nat) (bad : Bool) : Hw :=
  if bad then logCode h 1 blkRbt 0 (Config.openCode blkRbt).toNat f (partByte p false) else h

/-- Get work: the item delivered, or the result; `bad`: its on-chip entry has an uncorrectable error (R232, R238, R243, R245). -/
def getItem (h : Hw) (p agent groups : Nat) (secure bad : Bool) : Hw × Nat × Option (Nat × Item) :=
  if rbtHeld h then (h, rbHeld, none)
  else
    match chooseWork h p agent groups secure with
    | none => (pmu pmuRbt h 0 6 1 (some p), rbNone, none)
    | some (f, it) =>
      let fl := flowOf h f
      let take := fun (i : Item) => if i.seq == it.seq && i.st == .waiting then { i.marked bad with st := .delivered agent } else i
      let h := setFlow (logItem h p f bad) f { fl with items := fl.items.map take, readyAt := none }
      let h := flowSet h F_RBT_FLOW_STATUS_LAST_AGENT f agent
      let h := pmu pmuRbt (countWait h p (h.now - it.at_)) 0 2 1 (some p)
      let h := if agent < 160 then refreshLoad (fadd h F_RBT_CORE_LOAD_DELIVERED 1 0 agent) agent else h
      (refreshItems h f, rbOk, some (f, it.marked bad))

/-! ### Add, cancel, free, flush, done (R242 to R247) -/

/-- Whether a requester of partition `p` may use a flow: none, or why not (R245, R247). -/
def flowRefuses (h : Hw) (f p : Nat) (secure : Bool) : Option Hw :=
  if ownerFlow h f != some p then some h
  else if flowGet h F_RBT_FLOW_CFG_WORLD f == 1 && !secure then some (refuseWorld h f p)
  else none

/-- Lowest free entry of a delay list. -/
def freeTimer (h : Hw) (l : Nat) : Option Nat :=
  let used := (h.rbt.timers.filter (·.list == l)).map (·.index)
  (List.range 4096).find? fun i => !used.contains i

/-- A timed item joins a delay list, and the identifier of its timer (R242). -/
def addTimer (h : Hw) (p f list ticks : Nat) (it : Item) : Hw × Nat × Nat :=
  match freeTimer h list with
  | none => (h, rbFull, 0)
  | some i =>
    let k := list * 4096 + i
    let gen := tget 0 h.rbt.timerGen k
    let t : Timer := { list := list, index := i, gen := gen, due := h.rbt.tick + 1 + ticks, part := p, flow := f, item := it }
    ({ h with rbt := { h.rbt with timers := h.rbt.timers ++ [t], timerGen := tset 0 h.rbt.timerGen k ((gen + 1) % 8192) } }, rbOk,
      list * 2 ^ 25 + gen * 2 ^ 12 + i)

/-- Add work: a SOFT item on a flow, or on a delay list where LIST and TICKS are not 0 (R242, R243). -/
def addItem (h : Hw) (p f : Nat) (secure : Bool) (args : List (BitVec 64)) (user list ticks : Nat) : Hw × Nat × Nat :=
  if rbtHeld h then (h, rbHeld, 0)
  else
    match flowRefuses h f p secure with
    | some h => (h, rbForeign, 0)
    | none =>
      let it : Item := { arg0 := lget 0 args 0, arg1 := lget 0 args 1, arg2 := lget 0 args 2, seq := 0, kind := 0, flags := 0,
                         user := user % 2 ^ 24 }
      if list != 0 && ticks != 0 then addTimer h p f list ticks it
      else
        let (h, code) := enqueue h p f it
        (h, code, if code == rbOk then lastHandle h f else 0)

/-- Done: a delivered item is done, and what can be released is (R233, R244, R247). -/
def doneItem (h : Hw) (m : Mem) (p agent : Nat) (secure : Bool) (handle : Nat) (keep skip : Bool) : Eff × Nat :=
  let f := bits handle 31 20
  let seq := bits handle 19 0
  if rbtHeld h then ({ hw := h }, rbHeld)
  else
    match flowRefuses h f p secure with
    | some h => ({ hw := h }, rbForeign)
    | none =>
      let fl := flowOf h f
      if !fl.items.any fun i => i.seq == seq && i.st == .delivered agent then ({ hw := h }, rbBadHandle)
      else
        let mark := fun (i : Item) => if i.seq == seq && i.st == .delivered agent then { i with st := .done skip, keep := keep } else i
        let h := refreshLoad (setFlow h f { fl with items := fl.items.map mark }) agent
        (releaseFlow h m f, rbOk)

/-- Cancel a pending timer (R242). -/
def cancelTimer (h : Hw) (p id : Nat) : Hw × Nat :=
  if rbtHeld h then (h, rbHeld)
  else
    let is := fun (t : Timer) => t.list == bits id 27 25 && t.gen == bits id 24 12 && t.index == bits id 11 0
    match h.rbt.timers.find? is with
    | none => (h, rbTooLate)
    | some t =>
      if t.part != p then (h, rbForeign)
      else ({ h with rbt := { h.rbt with timers := h.rbt.timers.filter fun x => !is x } }, rbCancelled)

/-- Free an event by EVSEQ (R235). -/
def freeBySeq (h : Hw) (p evseq : Nat) : Hw × Nat :=
  if rbtHeld h then (h, rbHeld)
  else
    match freeEventNo h p evseq with
    | some h => (h, rbOk)
    | none => (h, rbTooLate)

/-- Flush a flow: its undelivered items count as released without action, and their events are freed (R243). -/
def flushFlow (h : Hw) (m : Mem) (p f : Nat) (secure : Bool) : Eff × Nat :=
  if rbtHeld h then ({ hw := h }, rbHeld)
  else
    match (if 4096 ≤ f then some h else flowRefuses h f p secure) with
    | some h => ({ hw := h }, rbForeign)
    | none =>
      let fl := flowOf h f
      let gone := fl.items.filter fun i => i.st == .waiting
      let h := setFlow h f { fl with items := fl.items.filter fun i => i.st != .waiting }
      let h := gone.foldl (fun h it => freeItemEvent (pmu pmuRbt h 0 3 1 (some p)) p it) h
      (releaseFlow h m f, rbOk)

/-! ### Port commands (R243, R246, R250) -/

/-- A port's requester is secure: the secure world of the partition, or Kydin. -/
def portSecure (h : Hw) (who : Requester) (p : Nat) : Bool := who == .kydin || isSecureOf h who p

/-- Agent number of a port (R232). -/
def portAgent (p n : Nat) : Nat := 160 + 64 * p + n

/-- The result of a port command. -/
def portDone (h : Hw) (p n code : Nat) : Hw := answer h F_RBT_PORT_CMD_RESULT F_RBT_PORT_CMD_SEQ code p n

/-- GET: the item is loaded into the port's registers (R238, R243). -/
def execGetWork (who : Requester) (p : Fin 8) (n : GetAt (Fin 64)) (s : State) : Host.Outcome State Fault Refusal :=
  .next (s.upd fun h => ifMay h who R_RBT_PORT_CMD p.val n.at_.val fun h =>
    let p := p.val
    let bad := n.bad
    let n := n.at_.val
    let (h, code, it) := getItem h p (portAgent p n) (fget h F_RBT_PORT_SUB_GROUPS p n) (portSecure h who p) bad
    let h := match it with
      | some (f, i) =>
        let h := fset (fset h F_RBT_PORT_ARG0_VALUE i.arg0.toNat p n) F_RBT_PORT_ARG1_VALUE i.arg1.toNat p n
        fset (fset h F_RBT_PORT_ARG2_VALUE i.arg2.toNat p n) F_RBT_PORT_CTRLW_VALUE (itemWord f i) p n
      | none => h
    portDone h p n code)

/-- ADD: the item of the port's registers; the handle or timer identifier goes to RBT_PORT_OPND (R243, R250). -/
def execAddWork (who : Requester) (p : Fin 8) (n : Fin 64) (s : State) : Host.Outcome State Fault Refusal :=
  .next (s.upd fun h => ifMay h who R_RBT_PORT_CMD p.val n.val fun h =>
    let p := p.val
    let n := n.val
    let w := fget h F_RBT_PORT_CTRLW_VALUE p n
    let o := fget h F_RBT_PORT_OPND_OPND p n
    let args := [F_RBT_PORT_ARG0_VALUE, F_RBT_PORT_ARG1_VALUE, F_RBT_PORT_ARG2_VALUE].map fun x => BitVec.ofNat 64 (fget h x p n)
    let (h, code, ret) := addItem h p (bits w 63 52) (portSecure h who p) args (bits w 23 0) (bits o 18 16) (bits o 15 0)
    portDone (if code == rbOk then fset h F_RBT_PORT_OPND_OPND ret p n else h) p n code)

/-- DONE (R244). -/
def execDoneWork (who : Requester) (p : Fin 8) (n : Fin 64) (keep skip : Bool) (s : State) : Host.Outcome State Fault Refusal :=
  .next (s.act fun h m => ifMayE h who R_RBT_PORT_CMD p.val n.val fun h =>
    let p := p.val
    let n := n.val
    let (e, code) := doneItem h m p (portAgent p n) (portSecure h who p) (fget h F_RBT_PORT_OPND_OPND p n) keep skip
    e.map fun h => portDone h p n code)

/-- CANCEL (R242). -/
def execCancel (who : Requester) (p : Fin 8) (n : Fin 64) (s : State) : Host.Outcome State Fault Refusal :=
  .next (s.upd fun h => ifMay h who R_RBT_PORT_CMD p.val n.val fun h =>
    let (h, code) := cancelTimer h p.val (fget h F_RBT_PORT_OPND_OPND p.val n.val)
    portDone h p.val n.val code)

/-- FREE (R235). -/
def execFreeEvent (who : Requester) (p : Fin 8) (n : Fin 64) (s : State) : Host.Outcome State Fault Refusal :=
  .next (s.upd fun h => ifMay h who R_RBT_PORT_CMD p.val n.val fun h =>
    let (h, code) := freeBySeq h p.val (fget h F_RBT_PORT_OPND_OPND p.val n.val)
    portDone h p.val n.val code)

/-- FLUSH (R243). -/
def execFlush (who : Requester) (p : Fin 8) (n : Fin 64) (s : State) : Host.Outcome State Fault Refusal :=
  .next (s.act fun h m => ifMayE h who R_RBT_PORT_CMD p.val n.val fun h =>
    let p := p.val
    let n := n.val
    let (e, code) := flushFlow h m p (fget h F_RBT_PORT_OPND_OPND p n) (portSecure h who p)
    e.map fun h => portDone h p n code)

/-! ### Refill (R237, R238) -/

/-- Room for one more on-chip item of a partition. -/
def onChipRoom (h : Hw) (p : Nat) : Bool :=
  decide (fget h F_RBT_PART_USE_ONCHIP_USED 0 p < fget h F_RBT_PART_LIMITS_ONCHIP 0 p * 64) &&
    decide (fget h F_RBT_STATUS_ONCHIP_USED < 65536)

/-- Put on chip the oldest overflow item of a list, with POISON where the block it is read from may be poisoned (R237, R238). -/
def refillFirst (poison : Bool) : List Item → List Item
  | [] => []
  | i :: r => if i.onChip then i :: refillFirst poison r
    else { i.marked poison with onChip := true } :: r

/-- A beat of a partition's overflow area holds the poison marker (R238, R266). -/
def areaPoisoned (h : Hw) (m : Mem) (p : Nat) : Bool :=
  let base := fget h F_RBT_PART_OVF_BASE_4K 0 p * 4096
  !m.poison.isEmpty && (List.range (32 * fget h F_RBT_PART_OVF_BLOCKS 0 p)).any fun i =>
    match placeOf h (base + 64 * i) with
    | .dram _ q qa => m.linePoison (dkey q qa)
    | _ => false

/-- Move overflow items on chip while there is room. Where a line of the partition's overflow area is poisoned, whether the block read
for an item holds it is open: the layout is private to Roundabout (R238; log 7). -/
def refillLoop (h : Hw) (m : Mem) (f p : Nat) : Nat → Hw
  | 0 => h
  | k + 1 =>
    let fl := flowOf h f
    if overflowItems fl == 0 || !onChipRoom h p then h
    else
      let (pz, h) := if areaPoisoned h m p then let (n, h) := takeFree h; (Config.freeBool n, h) else (false, h)
      let h := setFlow (logItem h p f pz) f { fl with items := refillFirst pz fl.items }
      refillLoop (refreshItems (pmu pmuRbt h 0 5 1 (some p)) f) m f p k

/-- OVERFLOW_REFILL (R237). -/
def execOverflowRefill (f : Fin 4096) (s : State) : Host.Outcome State Fault Refusal :=
  .next (s.upd fun h =>
    match ownerFlow h f.val with
    | some p => if rbtHeld h then h else refillLoop h s.mem f.val p (overflowItems (flowOf h f.val))
    | none => h)

/-! ### Ticks and timed items (R240 to R242) -/

/-- TICK: a tick boundary falls while Roundabout runs (R240). -/
def execTick (s : State) : Host.Outcome State Fault Refusal :=
  .next (s.upd fun h => if rbtHeld h then h else { h with rbt := { h.rbt with tick := h.rbt.tick + 1 } })

/-- The timer of a list that falls due first; equal due times in the order of their ADDs. -/
def firstDue (l tick : Nat) : List Timer → Option Timer
  | [] => none
  | t :: r =>
    let rest := firstDue l tick r
    if t.list != l || tick < t.due then rest
    else match rest with
      | some u => if u.due < t.due then some u else some t
      | none => some t

/-- No timer of equal due time on another list was added before `t` and is still to be enqueued (R242). -/
def firstAdded (t : Timer) : List Timer → Bool
  | [] => true
  | u :: r => u == t || (u.due != t.due && firstAdded t r)

/-- TIMED_ITEM_DUE: an entry that is due is enqueued, or waits; entries of equal due time go in the order of their ADDs, whatever their
lists (R239, R242). -/
def execTimedItemDue (list : Fin 8) (s : State) : Host.Outcome State Fault Refusal :=
  .next (s.upd fun h =>
    if rbtHeld h then h
    else
      match firstDue list.val h.rbt.tick h.rbt.timers with
      | none => h
      | some t =>
        if firstAdded t h.rbt.timers then
          produce { h with rbt := { h.rbt with timers := h.rbt.timers.filter (· != t) } } t.part t.flow t.item
        else h)

/-! ### Partition reset (R249, R517) -/

/-- The fragment rings of a partition's gates restart at their base (R249). -/
def restartRings (h : Hw) (p : Nat) : Hw :=
  (List.range 64).foldl (fun h g =>
    if bit (partOf h p).gates g then setGate h g { gateOf h g with ring := [], frag := none, stalled := false, msgs := [] } else h) h

/-- A partition's assembly entries, events, items, timers and waiting items are discarded, and its rings restart (R249). -/
def rbtResetPart (h : Hw) (p : Nat) : Hw :=
  let fs := (flowsOf h p).map (·.1)
  let r := h.rbt
  let r := { r with entries := r.entries.filter (·.part != p), events := r.events.filter (·.part != p),
                    evseq := tdel r.evseq p, flows := r.flows.filter fun e => !fs.contains e.1,
                    timers := r.timers.filter (·.part != p), waitItems := r.waitItems.filter (·.part != p),
                    waitReports := r.waitReports.filter fun x => ownerGate h x.1 != some p }
  let b := h.blvd
  let b := { b with e2e := b.e2e.filter fun w => ownerFlow h w.flow != some p, landed := b.landed.filter (·.part != p) }
  refreshUse (restartRings { h with rbt := r, blvd := b } p) p

end Sys2Proof.Machine
end

