-- ==== Sys2Proof/Machine/Blvd.lean ====
section
/-!
DEFINITION. The Boulevard fabric: bundles, packets and their reliability, management operations, acknowledgements and landed copies.
-/

namespace Sys2Proof.Machine

/-! ### Bundle states (R494, R496, R502) -/

def bunDown : Nat := 0
def bunTraining : Nat := 1
def bunAligned : Nat := 2
def bunUp : Nat := 3

def bunState (h : Hw) (g b : Nat) : Nat := fget h F_BLVD_BUNDLE_STATE g b

/-- The four lanes of a bundle are in block lock (R494); a lane outside LANE_MASK is DOWN (R160). -/
def bundleLanes (h : Hw) (g b : Nat) : Bool :=
  boulevard h g && (List.range 4).all fun j => decide (2 ≤ laneState h g (4 * b + j)) && decide (laneState h g (4 * b + j) ≤ 4)

/-- An aligned bundle that has sent its HELLO and received three valid ones in a row is UP (R502). -/
def tryUp (h : Hw) (g b : Nat) : Hw :=
  let v := bundleOf h g b
  if bunState h g b == bunAligned && v.helloSent && decide (3 ≤ v.hellos) then fset h F_BLVD_BUNDLE_STATE bunUp g b else h

/-- B_ALIGN: the receiver deskews the bundle's lanes (R496, R502). -/
def execBAlign (g : Fin 64) (b : Fin 4) (count : BitVec 16) (s : State) : Host.Outcome State Fault Refusal :=
  .next (s.upd fun h =>
    let _ := count
    if bunState h g.val b.val < bunAligned && bundleLanes h g.val b.val then
      let h := fset h F_BLVD_BUNDLE_STATE bunAligned g.val b.val
      setBundle h g.val b.val { txq := (bundleOf h g.val b.val).txq, helloDue := true }
    else h)

/-- HELLO: it is recorded, brings the bundle toward UP, or takes it DOWN for another serial; an equal address is a conflict (R502,
R504). -/
def execHello (g : Fin 64) (b : Fin 4) (body : BitVec 48) (s : State) : Host.Outcome State Fault Refusal :=
  .next (s.upd fun h =>
    let g := g.val
    let b := b.val
    let x := body.toNat
    if bunState h g b < bunAligned then h
    else
      let v := bundleOf h g b
      if bits x 23 21 != 0 then setBundle h g b { v with hellos := 0 }
      else if fon h F_BLVD_NBR_VALID g b && bits (fget h F_BLVD_NBR_HELLO g b) 47 24 != bits x 47 24 then bundleDown h g b true
      else
        let h := fset (fset h F_BLVD_NBR_HELLO x g b) F_BLVD_NBR_VALID 1 g b
        let h := setBundle h g b { v with hellos := min 3 (v.hellos + 1) }
        let h := if bit x 12 && myAddr h == some (bits x 11 0) then raiseSource (fset h F_BLVD_ADDR_CONFLICT 1) srcAddr else h
        tryUp h g b)

/-- HELLO_PERIOD: a HELLO is due on an UP bundle (R502). -/
def execHelloPeriod (g : Fin 64) (b : Fin 4) (s : State) : Host.Outcome State Fault Refusal :=
  .next (s.upd fun h =>
    if bunState h g.val b.val == bunUp then setBundle h g.val b.val { bundleOf h g.val b.val with helloDue := true } else h)

/-- HELLO_TIMEOUT: no HELLO for 1 ms (R502, R516). -/
def execHelloTimeout (g : Fin 64) (b : Fin 4) (s : State) : Host.Outcome State Fault Refusal :=
  .next (s.upd fun h => if bunAligned ≤ bunState h g.val b.val then bundleDown h g.val b.val true else h)

/-! ### Acknowledgements and credit (R499, R500) -/

/-- Packets in front of and with a SEQ among those not acknowledged; none: the SEQ is not there. -/
def ackedBy (seq : Nat) : List BPacket → Option Nat
  | [] => none
  | p :: r => if p.seq == seq then some 1 else (ackedBy seq r).map (· + 1)

/-- A failed transfer: every packet not acknowledged is sent again, or the bundle goes DOWN after eight failed resends of the oldest
(R499). -/
def resendAll (h : Hw) (g b : Nat) : Hw :=
  let v := bundleOf h g b
  if v.replay.isEmpty then h
  else if 8 ≤ v.resends then bundleDown h g b true
  else fadd (setBundle h g b { v with resends := v.resends + 1, again := v.replay }) F_BLVD_BUNDLE_REPLAYS v.replay.length g b

/-- BLVD_ACK: the packets an ACK covers are freed; a NAK has the later ones sent again (R499). -/
def execBlvdAck (g : Fin 64) (b : Fin 4) (seq : BitVec 10) (nak : Bool) (s : State) : Host.Outcome State Fault Refusal :=
  .next (s.upd fun h =>
    let g := g.val
    let b := b.val
    if bunState h g b != bunUp then h
    else
      let v := bundleOf h g b
      let h := match ackedBy seq.toNat v.replay with
        | some n =>
          let left := v.replay.drop n
          setBundle h g b { v with replay := left, again := v.again.filter left.contains, resends := 0 }
        | none => h
      if nak then resendAll h g b else h)

/-- REPLAY_TIMEOUT: 8 µs without an ACK (R499). -/
def execReplayTimeout (g : Fin 64) (b : Fin 4) (s : State) : Host.Outcome State Fault Refusal :=
  .next (s.upd fun h => if bunState h g.val b.val == bunUp then resendAll h g.val b.val else h)

/-- The units of each class that a receive buffer holds (R500). -/
def bufUnits : List Nat := [384, 384, 128, 128]

/-- CREDIT: the receiver returns units (R500). -/
def execCredit (g : Fin 64) (b : Fin 4) (tc0 tc1 tc2 tc3 : BitVec 12) (s : State) : Host.Outcome State Fault Refusal :=
  .next (s.upd fun h =>
    if bunState h g.val b.val != bunUp then h
    else
      let v := bundleOf h g.val b.val
      let back := [tc0.toNat, tc1.toNat, tc2.toNat, tc3.toNat]
      setBundle h g.val b.val { v with credit := (List.range 4).map fun c => min (lget 0 bufUnits c) (lget 0 v.credit c + lget 0 back c) })

/-! ### Sending (R496, R499, R500, R508) -/

/-- Packets that wait on the other bundles: they stay behind after a change of route (R508). -/
def elsewhere (h : Hw) (g b : Nat) : List BPacket := (h.blvd.bundles.filter fun e => e.1 != 4 * g + b).flatMap fun e => e.2.txq

/-- Whether a packet may go ahead of those in front of it and of those on other bundles: credit for its units, no earlier packet of its
class in front, and for a TC0 or TC2 packet no TC1 packet for its DEST that was taken earlier (R500, R508). -/
def maySend (v : Bundle) (others before : List BPacket) (p : BPacket) : Bool :=
  let tc := stTc p.start
  let write := fun (q : BPacket) => stTc q.start == tcWrite && stDest q.start == stDest p.start
  decide (stUnits p.start ≤ lget 0 v.credit tc) && !(before.any fun q => stTc q.start == tc) &&
    !((tc == tcFragment || tc == tcItem) && (before.any write || others.any fun q => write q && decide (q.took < p.took)))

/-- The first packet that may go, with those in front of it. -/
def nextPacket (v : Bundle) (others before : List BPacket) : List BPacket → Option (BPacket × List BPacket)
  | [] => none
  | p :: r => if maySend v others before p then some (p, before ++ r) else nextPacket v others (before ++ [p]) r

/-- A control block of a bundle (R143, R497). -/
def ctlBlock (type body : Nat) : BBlock :=
  let b := BitVec.ofNat 48 body
  { ctl := true, payload := controlPayload type b (crc8 (controlPayload type b 0)) }

/-- A group of four IDLE blocks (R496). -/
def idleGroup : List BBlock := List.replicate 4 (ctlBlock 0x1E 0)

/-- Four blocks from the front of a sequence; between packets IDLE blocks fill a group up (R496, R498). -/
def slotGroup (l : List BBlock) : List BBlock := (l ++ idleGroup).take 4

/-- The consecutive blocks of a packet: START, eight data blocks a unit, END with the CRC and SEQ (R497, R498). -/
def packetBlocks (p : BPacket) : List BBlock :=
  let data := p.units.flatMap fun u => (List.range 8).map fun i => ({ ctl := false, payload := BitVec.ofNat 64 (u.toNat / 2 ^ (64 * i)) } : BBlock)
  ctlBlock 0xB4 p.start :: data ++ [ctlBlock 0xC3 (crc32 (leBytes 6 p.start ++ unitBytes p.units) + p.seq % 1024 * 2 ^ 32)]

/-- A packet's blocks end before the next B_ALIGN group and the next due IDLE group, between which no control block may fall (R496,
R498). -/
def packetFits (v : Bundle) (p : BPacket) : Bool :=
  let n := ((packetBlocks p).length + 3) / 4
  decide (v.sinceAlign + n ≤ 4096) && decide (v.sinceIdle + n ≤ 2047)

/-- A packet begins: its first four blocks go out, the others follow (R498). -/
def beginPacket (h : Hw) (g b : Nat) (v : Bundle) (p : BPacket) : Hw :=
  setBundle h g b { v with cur := (packetBlocks p).drop 4, sent := slotGroup (packetBlocks p) }

/-- Bytes of the replay buffer in use (R499). -/
def replayBytes (l : List BPacket) : Nat := (l.map fun p => 64 * stUnits p.start).sum

/-- The HELLO body of a bundle (R497, R503). -/
def helloBody (h : Hw) (g b : Nat) : Nat :=
  let a := match myAddr h with | some a => a + 4096 | none => 0
  a + g * 2 ^ 13 + b * 2 ^ 19 + h.blvd.serial % 2 ^ 24 * 2 ^ 24

/-- BUNDLE_SLOT_GROUP: the next four blocks of a packet that has begun; else B_ALIGN every 4,096 groups, IDLE once in 2,048, then a due
HELLO, ACK or CREDIT, then a packet that is sent again, then a new one, else IDLE; an ALIGNED bundle sends HELLOs; only while the gate
sends (R47, R496, R498 to R500, R502). -/
def execBundleSlotGroup (g : Fin 64) (b : Fin 4) (s : State) : Host.Outcome State Fault Refusal :=
  .next (s.upd fun h =>
    let g := g.val
    let b := b.val
    let st := bunState h g b
    if st == bunDown || !gateSends h g then h
    else
      let v := bundleOf h g b
      let v := { v with sinceAlign := v.sinceAlign + 1, sinceIdle := v.sinceIdle + 1 }
      let idle := fun h => setBundle h g b { v with sinceIdle := 0, sent := idleGroup }
      if !v.cur.isEmpty then setBundle h g b { v with cur := v.cur.drop 4, sent := slotGroup v.cur }
      else if 4096 ≤ v.sinceAlign then
        setBundle h g b { v with sinceAlign := 0, sent := (List.range 4).map fun j => ctlBlock 0x96 (j + v.sinceAlign % 2 ^ 16 * 4) }
      else if 2047 ≤ v.sinceIdle || st == bunTraining then idle h
      else if v.helloDue || st == bunAligned then
        tryUp (setBundle h g b { v with helloDue := false, helloSent := true, sent := slotGroup [ctlBlock 0xA5 (helloBody h g b)] }) g b
      else
        match v.ackDue with
        | some (q, nak) => setBundle h g b { v with ackDue := none, sent := slotGroup [ctlBlock 0xE1 (q % 1024 + 1024 * b2n nak)] }
        | none =>
          if v.owed.any (· != 0) then
            let body := (List.range 4).foldl (fun a c => a + lget 0 v.owed c % 4096 * 2 ^ (12 * c)) 0
            setBundle h g b { v with owed := [0, 0, 0, 0], sent := slotGroup [ctlBlock 0xD2 body] }
          else
            match v.again, nextPacket v (elsewhere h g b) [] v.txq with
            | p :: r, _ => if packetFits v p then beginPacket h g b { v with again := r } p else idle h
            | [], some (p, rest) =>
              if 131072 < replayBytes v.replay + 64 * stUnits p.start || !packetFits v p then idle h
              else
                let p := { p with start := withSeq p.start v.txNext, seq := v.txNext }
                let tc := stTc p.start
                let credit := v.credit.set tc (lget 0 v.credit tc - stUnits p.start)
                beginPacket h g b { v with txq := rest, replay := v.replay ++ [p], txNext := (v.txNext + 1) % 1024, credit := credit } p
            | [], none => idle h)

/-! ### Management operations (R505, R506) -/

/-- The effect of a TC3 operation with its RESULT, ARG0 and ARG1; none where the operation is not defined (R506). -/
def mgmtOp (h : Hw) (op arg0 arg1 : Nat) : Option (Hw × Nat × Nat × Nat) :=
  match op with
  | 0x01 =>
    let a := bits arg0 11 0
    let h := fset h F_BLVD_ROUTE_VALID (bits arg1 63 63) 0 a
    let h := fset (fset h F_BLVD_ROUTE_GATE (bits arg1 7 2) 0 a) F_BLVD_ROUTE_BUNDLE (bits arg1 1 0) 0 a
    some (h, rcDone, arg0, arg1)
  | 0x02 => some (h, rcDone, arg0, regVal h R_BLVD_ROUTE 0 (bits arg0 11 0))
  | 0x03 => some (h, rcDone, arg0, regVal h R_BLVD_NBR (bits arg0 7 2) (bits arg0 1 0))
  | 0x04 =>
    if fget h F_BLVD_ADDR_SOURCE == 1 || arg0 != h.blvd.serial then some (h, rcRefused, arg0, arg1)
    else some (fset (fset h F_BLVD_ADDR_SOURCE 2) F_BLVD_ADDR_ADDR (bits arg1 11 0), rcDone, arg0, arg1)
  | 0x05 => some (h, rcDone, arg0, arg1)
  | _ => none

/-- TC3 operations of a module are not acted on (R506). -/
def mgmtShut (h : Hw) (src : Nat) : Bool := myAddr h != some src && !fon h F_BLVD_CFG_MGMT_EN

/-- An operation from a module, refused while MGMT_EN is clear unless it is this module's own (R506). -/
def mgmtFrom (h : Hw) (src op arg0 arg1 : Nat) : Option (Hw × Nat × Nat × Nat) :=
  if mgmtShut h src then (mgmtOp h op arg0 arg1).map fun _ => (h, rcRefused, arg0, arg1)
  else mgmtOp h op arg0 arg1

/-- Unit 0 of a TC3 packet (R509). -/
def mgmtUnit (op result : Nat) (hops : List Nat) (arg0 arg1 : Nat) : List Byte :=
  leBytes 1 op ++ leBytes 1 result ++ leBytes 1 hops.length ++ zeros 5 ++ (List.range 8).flatMap (fun i => leBytes 1 (lget 0 hops i)) ++
    leBytes 8 arg0 ++ leBytes 8 arg1 ++ zeros 32

/-- A port as a byte (R505). -/
def portNo (g b : Nat) : Nat := 4 * g + b

/-- Send a source-routed packet by a list of ports, the first of them this module's (R505). -/
def sendByPath (h : Hw) (hops : List Nat) (dest : Nat) (unit : List Byte) : Hw :=
  match hops with
  | [] => h
  | p :: _ =>
    let (src, h) := srcField h
    sendOn h (p / 4) (p % 4) { start := startBody true 1 1 tcMgmt src dest, units := unitsOf unit, seq := 0 }

/-- A response goes back along a path, or by route where there is none. -/
def respond (h : Hw) (path : List Nat) (src op result arg0 arg1 : Nat) : Hw :=
  let u := mgmtUnit (op + 0x80) result path arg0 arg1
  if path.isEmpty then
    if myAddr h == some src then { h with blvd := { h.blvd with responses := [op + 0x80, result, arg0, arg1] :: h.blvd.responses } }
    else sendPacket h tcMgmt src u
  else sendByPath h path src u

/-- A TC3 operation of a neighbour arrives on a port: it acts and is answered on that port (R505, R506). -/
def mgmtRow (g b src op arg0 arg1 : Nat) (h : Hw) : Hw :=
  match mgmtFrom h src op arg0 arg1 with
  | some (h, result, a0, a1) => respond h [portNo g b] src op result a0 a1
  | none => h

/-- ROUTE_WRITE (R506). -/
def execRouteWrite (g : Fin 64) (b : Fin 4) (src : BitVec 12) (arg0 arg1 : BitVec 64) (s : State) : Host.Outcome State Fault Refusal :=
  .next (s.upd fun h => mgmtRow g.val b.val src.toNat 0x01 arg0.toNat arg1.toNat h)

/-- ROUTE_READ (R506). -/
def execRouteRead (g : Fin 64) (b : Fin 4) (src : BitVec 12) (arg0 : BitVec 64) (s : State) : Host.Outcome State Fault Refusal :=
  .next (s.upd fun h => mgmtRow g.val b.val src.toNat 0x02 arg0.toNat 0 h)

/-- NBR_READ (R506). -/
def execNbrRead (g : Fin 64) (b : Fin 4) (src : BitVec 12) (arg0 : BitVec 64) (s : State) : Host.Outcome State Fault Refusal :=
  .next (s.upd fun h => mgmtRow g.val b.val src.toNat 0x03 arg0.toNat 0 h)

/-- SET_ADDR (R503, R506). -/
def execSetAddr (g : Fin 64) (b : Fin 4) (src : BitVec 12) (arg0 arg1 : BitVec 64) (s : State) : Host.Outcome State Fault Refusal :=
  .next (s.upd fun h => mgmtRow g.val b.val src.toNat 0x04 arg0.toNat arg1.toNat h)

/-- ECHO (R506). -/
def execEcho (g : Fin 64) (b : Fin 4) (src : BitVec 12) (arg0 arg1 : BitVec 64) (s : State) : Host.Outcome State Fault Refusal :=
  .next (s.upd fun h => mgmtRow g.val b.val src.toNat 0x05 arg0.toNat arg1.toNat h)

/-! ### End-to-end acknowledgement (R513, R514) -/

/-- A forwarded delivery ends: the action completes on OK and is refused on any other result; an acknowledgement of no running
delivery is counted (R513, R514). -/
def endToEnd (h : Hw) (m : Mem) (src result arg0 arg1 : Nat) : Eff :=
  let f := bits arg0 31 20
  let seq := bits arg0 19 0
  match h.blvd.e2e.find? fun w => w.flow == f && w.seq == seq && w.dest == src && w.destFlow == bits arg1 11 0 with
  | none => { hw := fadd h F_BLVD_ERR_LATE_ACK 1 }
  | some w =>
    let h := { h with blvd := { h.blvd with e2e := h.blvd.e2e.filter (· != w) } }
    if result == rbOk then
      let h := settle h f seq .accepted
      if rbtHeld h then { hw := refreshItems h f } else releaseFlow h m f
    else { hw := refreshItems (settle h f seq .refused) f }

/-- An E2E_ACK arrives; like every TC3 operation of another module it is answered REFUSED while MGMT_EN is clear (R506, R513; DEDUCED,
log 43). -/
def takeAck (h : Hw) (m : Mem) (path : List Nat) (src result arg0 arg1 : Nat) : Eff :=
  if mgmtShut h src then { hw := respond h path src 0x10 rcRefused arg0 arg1 } else endToEnd h m src result arg0 arg1

/-- E2E_ACK (R513). -/
def execE2eAck (src : BitVec 12) (result : BitVec 8) (arg0 arg1 : BitVec 64) (s : State) : Host.Outcome State Fault Refusal :=
  .next (s.act fun h m => takeAck h m [] src.toNat result.toNat arg0.toNat arg1.toNat)

/-- E2E_TIMEOUT: no acknowledgement came (R513). -/
def execE2eTimeout (f : Fin 4096) (s : State) : Host.Outcome State Fault Refusal :=
  .next (s.upd fun h =>
    match h.blvd.e2e.find? (·.flow == f.val) with
    | none => h
    | some w => refreshItems (settle { h with blvd := { h.blvd with e2e := h.blvd.e2e.filter (· != w) } } f.val w.seq .refused) f.val)

/-! ### Packets that arrive (R498 to R500, R505 to R509, R517) -/

/-- The path back to the origin of a source-routed packet that came in on a port (R505). -/
def pathBack (port hopCount : Nat) (hops : List Nat) : List Nat := port :: ((hops.take hopCount).drop 1).reverse

/-- A TC3 packet is consumed: an operation acts and is answered, an E2E_ACK ends a delivery, and a response is kept (R505, R506). -/
def takeMgmt (h : Hw) (m : Mem) (port : Nat) (start : Nat) (u : List Byte) : Eff :=
  let op := num u 0 1
  let result := num u 1 1
  let arg0 := num u 0x10 8
  let arg1 := num u 0x18 8
  let src := stSrc start
  let path := if stSr start then pathBack port (num u 2 1) ((sub u 8 8).map fun b => b.toNat) else []
  if op == 0x10 then takeAck h m path src result arg0 arg1
  else if 0x80 ≤ op then { hw := { h with blvd := { h.blvd with responses := [op, result, arg0, arg1] :: h.blvd.responses } } }
  else
    match mgmtFrom h src op arg0 arg1 with
    | some (h, r, a0, a1) => { hw := respond h path src op r a0 a1 }
    | none => { hw := h }

/-- The answer to a delivered item: E2E_ACK to its source, with the item's FLOW and SEQ and its DEST_FLOW (R506, R513). The path
fields of a packet that is not source-routed are open. -/
def ackItem (h : Hw) (src : Nat) (u : List Byte) (code : Nat) : Hw :=
  let x := itemHdr u
  let (ns, h) := freeNats h 9
  let path := ns.map fun v => BitVec.ofNat 8 v
  sendPacket h tcMgmt src (leBytes 1 0x10 ++ leBytes 1 code ++ path.take 1 ++ zeros 5 ++ path.drop 1 ++ leBytes 8 (hdrKey x) ++
    leBytes 8 x.destFlow ++ zeros 32)

/-- A packet for this module is delivered by its class (R507, R509, R511 to R513). -/
def deliver (h : Hw) (m : Mem) (port : Nat) (start : Nat) (bytes : List Byte) : Eff :=
  let src := stSrc start
  let tc := stTc start
  if tc == tcMgmt then takeMgmt h m port start bytes
  else if tc == tcWrite then
    let f := num bytes 6 1
    rxWrite (noteWseq h src (num bytes 8 2) (bit f 1)) m src (num bytes 0 4) (sub bytes 64 (num bytes 4 2)) (bit f 0)
  else
    match receiveItem h m src tc bytes with
    | (e, some code) => e.map fun h => ackItem h src bytes code
    | (e, none) => e

/-- A source-routed packet travels on: out on HOP[HOPS], which takes the port of arrival (R505). -/
def relay (h : Hw) (port : Nat) (p : BPacket) (bytes : List Byte) : Hw :=
  let n := stHops p.start
  if 8 ≤ n then fadd h F_BLVD_ERR_HOPS_EXCEEDED 1
  else
    let out := num bytes (8 + n) 1
    let bytes := patch bytes (8 + n) (leBytes 1 port)
    sendOn h (out / 4) (out % 4) { p with start := withHops p.start (n + 1), units := unitsOf bytes }

/-- A good packet is passed on: consumed, delivered or forwarded (R505, R507). -/
def passOn (h : Hw) (m : Mem) (port : Nat) (p : BPacket) : Eff :=
  let bytes := unitBytes p.units
  if stSr p.start && stTc p.start == tcMgmt then
    if stHops p.start == num bytes 2 1 then takeMgmt h m port p.start bytes else { hw := relay h port p bytes }
  else if myAddr h == some (stDest p.start) then deliver h m port p.start bytes
  else if stHops p.start == 15 then { hw := fadd h F_BLVD_ERR_HOPS_EXCEEDED 1 }
  else { hw := routeOut h { p with start := withHops p.start (stHops p.start + 1) } }

/-- A packet's END agrees with it: its CRC, its SEQ and the number of its units (R497, R498). -/
def packetOk (start : Nat) (us : List (BitVec 512)) (fin : Nat) : Bool :=
  us.length == stUnits start && bits fin 41 32 == stSeq start && bits fin 31 0 == crc32 (leBytes 6 start ++ unitBytes us)

/-- BLVD_PACKET: a bad packet is counted, a bad or out-of-order one answered with NAK; the next in order is acknowledged, its units
are owed back, and it is passed on (R498 to R500). -/
def execBlvdPacket (g : Fin 64) (b : Fin 4) (start : BitVec 48) (units : List (BitVec 512)) (end_ : BitVec 48) (s : State) :
    Host.Outcome State Fault Refusal :=
  .next (s.act fun h m =>
    let g := g.val
    let b := b.val
    let st := start.toNat
    if bunState h g b != bunUp then { hw := h }
    else
      let v := bundleOf h g b
      let nak := some ((v.rxNext + 1023) % 1024, true)
      if !packetOk st units end_.toNat then { hw := fadd (setBundle h g b { v with ackDue := nak }) F_BLVD_BUNDLE_CRC_ERR 1 g b }
      else if stSeq st != v.rxNext then { hw := setBundle h g b { v with ackDue := nak } }
      else
        let owed := v.owed.set (stTc st) (lget 0 v.owed (stTc st) + stUnits st)
        let h := setBundle h g b { v with rxNext := (v.rxNext + 1) % 1024, ackDue := some (stSeq st, false), owed := owed }
        passOn h m (portNo g b) { start := st, units := units, seq := stSeq st })

/-! ### Landed copies (R515) -/

/-- BLVD_FREE: the landed copy at an address is freed; the last result says OK or TOO_LATE (R515). -/
def execBlvdFree (who : Requester) (p : Fin 8) (addr : BitVec 52) (s : State) : Host.Outcome State Fault Refusal :=
  .next (s.upd fun h => ifMay h who R_BLVD_FREE 0 p.val fun h =>
    let a := addr.toNat / 64 * 64
    let h' := if landedAt h p.val a then freeLanded h p.val a else h
    { h' with lastResult := leBytes 1 (if landedAt h p.val a then rbOk else rbTooLate) })

end Sys2Proof.Machine
end

