-- ==== Sys2Proof/Machine/Measure.lean ====
section
/-!
DEFINITION. The measurement value and log, and the measurements of partitions.
-/

namespace Sys2Proof.Machine

/-! ### The measurement log (R130 to R132) -/

def evFirmware : Nat := 1
def evHeader : Nat := 2
def evRecord : Nat := 3
def evChain : Nat := 4
def evComponent : Nat := 5
def evReapply : Nat := 6
def evSummary : Nat := 7

/-- BOOT_MEAS and LOG_COUNT follow the log (R136, R138). -/
def showLog (h : Hw) : Hw :=
  let h := (List.range 6).foldl (fun h n => fset h F_BOOT_MEAS_VALUE (leNat (sub h.boot.meas (8 * n) 8).reverse) 0 n) h
  fset h F_BOOT_STATUS_LOG_COUNT h.boot.log.length

/-- Entries after the first `n` become one summary entry whose DIGEST is M (R132). DESIGN CHOICE: its SOURCE and TYPE are 0 (log 87). -/
def foldLog (h : Hw) (n : Nat) : Hw :=
  let b := h.boot
  let e : LogEntry := { index := b.logIndex, event := evSummary, source := 0, type := 0, slot := 0xFF, digest := b.meas }
  { h with boot := { b with log := b.log.take n ++ [e], logIndex := b.logIndex + 1 } }

/-- Log an entry: a full log folds, M is extended by the digest, and the entry is added (R130, R132). DESIGN CHOICE: where the boot part
alone leaves less than two free places the log grows past 512 entries (log 88). -/
def logEntry (h : Hw) (event source type slot : Nat) (digest : List Byte) : Hw :=
  let b := h.boot
  let h :=
    if b.logClosed then (if 512 ≤ b.log.length then foldLog h b.bootLen else h)
    else if 511 ≤ b.log.length && event != evChain then foldLog h 2 else h
  let b := h.boot
  let e : LogEntry := { index := b.logIndex, event := event, source := source, type := type, slot := slot, digest := digest }
  showLog { h with boot := { b with log := b.log ++ [e], logIndex := b.logIndex + 1, meas := Config.sha384 (b.meas ++ digest) } }

/-- The 64 bytes of a log entry (R130). -/
def logBytes (e : LogEntry) : List Byte :=
  leBytes 4 e.index ++ leBytes 2 e.event ++ leBytes 2 e.source ++ leBytes 2 e.type ++ leBytes 1 e.slot ++ zeros 5 ++ e.digest

/-! ### Partition measurement (R463) -/

/-- The measurement of a partition; zero before anything extends it. -/
def pmOf (h : Hw) (p : Nat) : List Byte := (tfind h.par.pm p).getD (zeros 48)

/-- Extend a partition's measurement with a digest. -/
def extendPm (h : Hw) (p : Nat) (d : List Byte) : Hw :=
  { h with par := { h.par with pm := tins h.par.pm p (Config.sha384 (pmOf h p ++ d)) } }

/-- A partition's measurement is zero after its reset. -/
def clearPm (h : Hw) (p : Nat) : Hw := { h with par := { h.par with pm := tdel h.par.pm p } }

end Sys2Proof.Machine
end

