-- ==== Sys2Proof/Machine/Parts.lean ====
section
/-!
DEFINITION. Partitions and worlds: clock and power requests, bandwidth windows, quotas, and the trusted service.
-/

namespace Sys2Proof.Machine

/-! ### Clock and power requests (R448 to R450) -/

/-- The owner-world bit of a unit: kind 1 a square, 2 a gate, 3 an engine (R448). -/
def ownerWorld (h : Hw) (kind u : Nat) : Bool :=
  match kind with
  | 1 => if u < 64 then bit (fget h F_OWNW_SQ0_SQ) u else bit (fget h F_OWNW_SQ1_SQ) (u - 64)
  | 2 => bit (fget h F_OWNW_GATE_GATE) u
  | 3 => bit (fget h F_OWNW_ENG_ENG) u
  | _ => false

/-- Whether a partition owns a unit of a kind (R465). -/
def ownsUnit (h : Hw) (p kind u : Nat) : Bool :=
  match kind with
  | 1 => u < 80 && ownerSquare h u == some p
  | 2 => u < 64 && ownerGate h u == some p
  | 3 => u < 24 && bit (partOf h p).engines u
  | _ => false

/-- The outcome of a PART_PWR_REQ. -/
def pwrAnswer (h : Hw) (p code : Nat) : Hw := answer h F_PART_PWR_REQ_RESULT F_PART_PWR_REQ_SEQ code 0 p

/-- A gate's clocks and downlinks stop: its lanes are down, and so are the bundles of a Boulevard gate (R449, R502). -/
def sleepGate (h : Hw) (g : Nat) : Hw :=
  let h := if boulevard h g then (List.range 4).foldl (fun h b => bundleDown h g b false) h else h
  let h := (List.range 16).foldl (fun h k =>
    if laneState h g k == 0 then h else fset (leaveAligned h g k) F_LANE_STATUS_STATE 0 g k) h
  { h with par := { h.par with gateSlept := setBit h.par.gateSlept g true } }

/-- A gate restarts and retrains its serial lanes (R449, R160). -/
def wakeGate (h : Hw) (g : Nat) : Hw :=
  if bit h.par.gateSlept g then
    let h := { h with par := { h.par with gateSlept := setBit h.par.gateSlept g false } }
    (usedLanes h g).foldl (fun h k => startTraining h g k) h
  else h

/-- PWR_SLEEP: refused for a foreign unit, REFUSED_SECURE for a normal-world request that names a unit of the secure world, else as the
unit's kind says (R449, R450). -/
def execPwrSleep (who : Requester) (p : Fin 8) (kind : BitVec 4) (u : BitVec 8) (s : State) : Host.Outcome State Fault Refusal :=
  .next (s.upd fun h => ifMay h who R_PART_PWR_REQ 0 p.val fun h =>
    let p := p.val
    let k := kind.toNat
    let u := u.toNat
    if !ownsUnit h p k u then pwrAnswer h p rcRefused
    else if who != .kydin && !isSecureOf h who p && ownerWorld h k u then
      let h := fadd h F_PART_STATUS_SEC_REFUSALS 1 0 p
      logCode (pwrAnswer h p 7) 4 blkPart 0 0xFF05 u (whoByte h who)
    else
      match k with
      | 1 =>
        if h.grid.fence.isSome then
          pwrAnswer { h with grid := { h.grid with cmdWait := h.grid.cmdWait ++ [(routerOf u, 3)] } } p rcRunning
        else
          let (h, code) := sleepCommand h (routerOf u) 3
          pwrAnswer h p code
      | 2 => if modeNow h == 3 || modeNow h == 5 then pwrAnswer (sleepGate h u) p rcDone else pwrAnswer h p rcRefused
      | _ =>
        let par := if (engineOf h u).jobs.isEmpty then { h.par with engSlept := setBit h.par.engSlept u true }
          else { h.par with engSleepWait := setBit h.par.engSleepWait u true }
        pwrAnswer { h with par := par } p rcDone)

/-- PWR_WAKE (R449). -/
def execPwrWake (who : Requester) (p : Fin 8) (kind : BitVec 4) (u : BitVec 8) (s : State) : Host.Outcome State Fault Refusal :=
  .next (s.upd fun h => ifMay h who R_PART_PWR_REQ 0 p.val fun h =>
    let p := p.val
    let u := u.toNat
    if !ownsUnit h p kind.toNat u then pwrAnswer h p rcRefused
    else
      match kind.toNat with
      | 1 => pwrAnswer (wakeSquare h u) p rcDone
      | 2 => pwrAnswer (wakeGate h u) p rcDone
      | _ =>
        let par := { h.par with engSlept := setBit h.par.engSlept u false, engSleepWait := setBit h.par.engSleepWait u false }
        pwrAnswer { h with par := par } p rcDone)

/-! ### Bandwidth windows (R453, R454) -/

/-- One gate after `n` windows: its count carries over what passed the budgets, the first under the limit in force and the later ones under
the partition's LIMIT (R453, R454). -/
def carryGate (h : Hw) (p n g : Nat) : Hw :=
  let left := fun (b : Option Nat) (k c : Nat) => match b with | some b => c - k * b | none => if k == 0 then c else 0
  let c := left (budgetOf h p (quotaOf h p 3)) (n - 1) (left (gateBudget h p) 1 (tget 0 h.par.budget g))
  { h with par := { h.par with budget := tset 0 h.par.budget g c } }

/-- One partition at the start of a window, `n` windows after the last: gates held are counted, the OVER bit follows, and a new LIMIT takes
effect (R453, R454). -/
def windowOf (n : Nat) (h : Hw) (p : Nat) : Hw :=
  let gs := onesOf 64 (partOf h p).gates
  let held := (gs.filter fun g => tget 0 h.par.heldGate g == 1).length
  let h := fadd h F_PART_QUOTA_STATUS_FRAG_WAITS held 0 p
  let h := setOver h p 3 (held != 0)
  let h := gs.foldl (fun h g => carryGate h p n g) h
  { h with par := { h.par with heldGate := h.par.heldGate.filter fun e => !gs.contains e.1,
                               nextLimit := tset 0 h.par.nextLimit p (quotaOf h p 3) } }

/-- A window of fragment-write bandwidth, 1 us, in 1/64 gate cycle (R453). -/
def fragWindow : Nat := 64 * 1600

/-- BANDWIDTH_WINDOW: module time reaches the next window start, and the windows since the last start are accounted; a window start that has
just been reached is the one meant, once (R453, R454; log 4). -/
def execBandwidthWindow (s : State) : Host.Outcome State Fault Refusal :=
  .next (s.upd fun h =>
    let h := if h.now % fragWindow == 0 && h.par.windowAt != h.now / fragWindow then h
      else runTo h ((h.now / fragWindow + 1) * fragWindow)
    let i := h.now / fragWindow
    let h := (List.range 8).foldl (windowOf (i - h.par.windowAt)) h
    { h with par := { h.par with windowAt := i } })

/-! ### Quotas (R116, R454) -/

/-- The limits of a kind summed over the partitions, with one of them replaced. -/
def quotaSum (h : Hw) (p k limit : Nat) : Nat := ((List.range 8).map fun i => if i == p then limit else quotaOf h i k).sum

/-- A limit that keeps the module-wide sums (R116). -/
def quotaFits (h : Hw) (p k limit : Nat) : Bool :=
  match k with
  | 1 => decide (quotaSum h p 1 limit ≤ 2048)
  | 2 => decide (limit ≤ 16 * 2 ^ 20)
  | 5 => decide (quotaSum h p 5 limit ≤ 512)
  | _ => true

/-- OVER bits after a change of a limit (R454). -/
def refreshOver (h : Hw) (p k : Nat) : Hw :=
  match k with
  | 1 | 2 => refreshUse h p
  | 4 => refreshSpOver h p
  | 5 => setOver h p 5 (decide (quotaOf h p 5 < partReads h p))
  | _ => h

/-- A new limit, and whether it was taken (R454). -/
def writeQuota (h : Hw) (p k limit : Nat) : Hw × Bool :=
  if quotaFits h p k limit then (refreshOver (fset h F_PART_QUOTA_LIMIT limit 0 (8 * p + k - 1)) p k, true) else (h, false)

/-- QUOTA_WRITE (R454, R465). -/
def execQuotaWrite (who : Requester) (p : Fin 8) (kind : Fin 5) (limit : BitVec 40) (s : State) : Host.Outcome State Fault Refusal :=
  .next (s.upd fun h => ifMay h who R_PART_QUOTA 0 (8 * p.val + kind.val) fun h => (writeQuota h p.val (kind.val + 1) limit.toNat).1)

/-! ### The trusted service (R456 to R462) -/

def tsOk : Nat := 1
def tsUnavailable : Nat := 2
def tsRefused : Nat := 3
def tsBadRequest : Nat := 4
def tsBadKey : Nat := 5
def tsAuthFail : Nat := 6
def tsOutShort : Nat := 8

/-- H2's number among the small cores: gate sequencers 0 to 63, H0 to H3, Kydin (R386). -/
def coreH2 : Nat := 66
def coreKydin : Nat := 68

/-- The trusted side runs: not FAILED, and its firmware is loaded (R460, R462). -/
def tsRuns (h : Hw) : Bool := fget h F_TS_CONFIG_STATE == 0 && (tfind h.boot.fw 3).isSome

/-- The request that a port's requester makes (R457). -/
def tsAsker (n : Nat) : Asker := { part := some (n / 2), secure := n % 2 == 1 }

/-- Address of a port's pending request block. -/
def tsBlock (h : Hw) (n : Nat) : Option Nat := (tfind h.par.tsReq n).map fun a => a * 64

/-- The port is done: RESULT DONE and its interrupt source (R457). -/
def tsPortDone (h : Hw) (n : Nat) : Hw :=
  let h := { h with par := { h.par with tsReq := tdel h.par.tsReq n } }
  raiseSource (fset h F_TS_PORT_RESULT 2 0 n) (srcPart (n / 2) (3 + n % 2))

/-- Complete a request: OUT_LEN, VALUE and STATUS are written as the requester. A VALUE that the service does not give is open (R456,
R457). -/
def tsComplete (h : Hw) (m : Mem) (n status outLen : Nat) (value : Option Nat) : Eff :=
  match tsBlock h n with
  | none => { hw := h }
  | some a =>
    let (v, h) := match value with
      | some v => (v, h)
      | none => let (k, h) := takeFree h; (Config.freeNat k, h)
    (agentStore h m (tsAsker n) (a + 0x20) (leBytes 1 status ++ zeros 3 ++ leBytes 4 outLen ++ leBytes 8 v)).map fun h => tsPortDone h n

/-- A request as the service reads it (R456). -/
structure TsReq where
  port : Nat
  input : List Byte
  inLen : Nat
  outAddr : Nat
  outMax : Nat
  arg : Nat

/-- What a service answers: the state, STATUS, output, VALUE and scratchpad contents that are lost. -/
structure TsOut where
  hw : Hw
  status : Nat
  out : List Byte := []
  value : Option Nat := none
  ops : List MemOp := []

/-- Services of the table (R458). -/
def tsServices : List Nat := [0x0001, 0x0002, 0x0003, 0x0004, 0x0005, 0x0101, 0x0102, 0x0103, 0x0104, 0x0105]

/-- TS_REQUEST: the port takes the block's address, or ends BUSY or UNAVAILABLE; a block that names no service ends BAD_REQUEST
(R456, R460 to R462). -/
def execTsRequest (who : Requester) (n : Fin 16) (addr : BitVec 52) (s : State) : Host.Outcome State Fault Refusal :=
  .next (s.act fun h m => ifMayE h who R_TS_PORT 0 n.val fun h =>
    let n := n.val
    let port := fun (h : Hw) (code : Nat) => answer h F_TS_PORT_RESULT F_TS_PORT_SEQ code 0 n
    if (tsBlock h n).isSome then { hw := port h 3 }
    else if !tsRuns h then { hw := port h 4 }
    else
      let h := port { h with par := { h.par with tsReq := tins h.par.tsReq n (addr.toNat / 64) } } 1
      let (h', ok, b, _) := agentRead h m (tsAsker n) (addr.toNat / 64 * 64) 64
      if ok && !tsServices.contains (num b 0 2) then tsComplete h' m n tsBadRequest 0 none else { hw := h' })

/-- Run a service for a port whose pending request names it: malformed blocks end BAD_REQUEST, an output that does not fit OUT_SHORT
with nothing else done; an access that the region registers refuse leaves the STATUS open (R456, R457). -/
def tsServe (n svc : Nat) (run : Hw → TsReq → TsOut) (h : Hw) (m : Mem) : Eff :=
  match tsBlock h n with
  | none => { hw := h }
  | some a =>
    if !tsRuns h then { hw := h }
    else
      let w := tsAsker n
      let (h1, ok, b, _) := agentRead h m w a 64
      if !ok || num b 0 2 != svc then { hw := h1 }
      else
        let lost := fun (h : Hw) (m : Mem) => let (k, h) := takeFree h; tsComplete h m n (Config.freeNat k % 256) 0 none
        let inLen := num b 4 4
        if num b 2 2 != 0 || (b.drop 0x30).any (· != 0) || 65616 < inLen then tsComplete h1 m n tsBadRequest 0 none
        else
          let (h2, ok, inp, _) := agentRead h1 m w (num b 8 8) inLen
          if !ok then lost h2 m
          else
            let r := run h2 { port := n, input := inp, inLen := inLen, outAddr := num b 0x10 8, outMax := num b 0x18 4, arg := num b 0x1C 4 }
            if r.status != tsOk then tsComplete { h2 with freeCtr := r.hw.freeCtr } m n r.status 0 none
            else if num b 0x18 4 < r.out.length then tsComplete h2 m n tsOutShort 0 none
            else
              let (e, ok) := agentWrite r.hw m w (num b 0x10 8) r.out
              let e : Eff := { e with ops := r.ops ++ e.ops }
              if ok then e.next m fun h m => tsComplete h m n tsOk r.out.length r.value else e.next m lost

/-- A request that the service turns down. -/
def tsNo (h : Hw) (status : Nat) : TsOut := { hw := h, status := status }

/-- A service whose key comes from the fused device secret, while access to it is latched off: a status that is not OK (R561; which
one is open). -/
def tsNoSecret (h : Hw) : TsOut :=
  let (n, h) := takeFree h
  tsNo h (2 + Config.freeNat n % 254)

/-! #### Sealing (R459) -/

/-- The value that BIND selects (R459). -/
def boundValue (h : Hw) (p bind : Nat) : List Byte :=
  match bind with
  | 1 => h.boot.chain.getLastD []
  | 2 => pmOf h p
  | _ => []

/-- The sealing key of a port (R459). -/
def sealKey (h : Hw) (n bind svn : Nat) : List Byte :=
  Config.deviceKey ([n / 2, n % 2, bind, svn].flatMap (leBytes 1) ++ boundValue h (n / 2) bind)

/-- SEAL (R459). The IV is open. -/
def execSeal (n : Fin 16) (s : State) : Host.Outcome State Fault Refusal :=
  .next (s.act fun h m => tsServe n.val 0x0001 (fun h r =>
    if r.inLen == 0 || 65536 < r.inLen || 2 < r.arg then tsNo h tsBadRequest
    else if h.kyd.secretOff then tsNoSecret h
    else
      let (ns, h) := freeNats h 12
      let h := { h with par := { h.par with tsIv := h.par.tsIv + 1 } }
      let iv := ns.map fun v => BitVec.ofNat 8 v
      let hdr : List Byte := [0x4F, 0x4D, 0x56, 0x53, 1] ++ leBytes 1 r.arg ++ leBytes 1 (r.port / 2) ++ leBytes 1 (r.port % 2) ++
        leBytes 1 h.boot.fuseSvn ++ zeros 3 ++ leBytes 4 r.inLen ++ iv ++ zeros 36
      { hw := h, status := tsOk,
        out := hdr ++ Config.gcmSeal (sealKey h r.port r.arg h.boot.fuseSvn) iv hdr r.input }) h m)

/-- UNSEAL (R459). -/
def execUnseal (n : Fin 16) (s : State) : Host.Outcome State Fault Refusal :=
  .next (s.act fun h m => tsServe n.val 0x0002 (fun h r =>
    let b := r.input
    let len := num b 0x0C 4
    let bad := b.take 5 != [0x4F, 0x4D, 0x56, 0x53, 1] || 2 < num b 5 1 || num b 9 3 != 0 || num b 0x1C 36 != 0
    if r.inLen < 80 || bad || r.inLen != 80 + len then tsNo h tsBadRequest
    else if h.boot.fuseSvn < num b 8 1 then tsNo h tsRefused
    else if h.kyd.secretOff then tsNoSecret h
    else
      match Config.gcmOpen (sealKey h r.port (num b 5 1) (num b 8 1)) (sub b 0x10 12) (b.take 64) (b.drop 64) with
      | some d => { hw := h, status := tsOk, out := d }
      | none => tsNo h tsAuthFail) h m)

/-! #### Keys (R458) -/

/-- A port's key of a handle: port in bits 31:27, generation in bits 26:11, slot in bits 4:0. -/
def keyOf (h : Hw) (n handle : Nat) : Option TsKey :=
  if bits handle 31 27 != n || bits handle 10 5 != 0 then none
  else h.par.keys.find? fun k => k.port == n && k.slot == bits handle 4 0 && k.gen == bits handle 26 11

/-- KEY_GEN: the lowest free slot of the port takes a new key (R458). -/
def execKeyGen (n : Fin 16) (s : State) : Host.Outcome State Fault Refusal :=
  .next (s.act fun h m => tsServe n.val 0x0003 (fun h r =>
    if r.inLen != 0 then tsNo h tsBadRequest
    else
      match (List.range 32).find? fun i => !h.par.keys.any fun k => k.port == r.port && k.slot == i with
      | none => tsNo h tsRefused
      | some i =>
        let (c, h) := takeFree h
        let key : TsKey := { port := r.port, slot := i, gen := h.par.tsGen % 2 ^ 16, secret := Config.freeNat c }
        { hw := { h with par := { h.par with keys := h.par.keys ++ [key] } }, status := tsOk, out := Config.ecdsaPublic key.secret,
          value := some (r.port * 2 ^ 27 + key.gen * 2 ^ 11 + i) }) h m)

/-- KEY_SIGN (R458). -/
def execKeySign (n : Fin 16) (s : State) : Host.Outcome State Fault Refusal :=
  .next (s.act fun h m => tsServe n.val 0x0004 (fun h r =>
    if r.inLen != 48 then tsNo h tsBadRequest
    else
      match keyOf h r.port r.arg with
      | some k => { hw := h, status := tsOk, out := Config.ecdsaSign k.secret r.input }
      | none => tsNo h tsBadKey) h m)

/-- KEY_DEL (R458). -/
def execKeyDel (n : Fin 16) (s : State) : Host.Outcome State Fault Refusal :=
  .next (s.act fun h m => tsServe n.val 0x0005 (fun h r =>
    if r.inLen != 0 then tsNo h tsBadRequest
    else
      match keyOf h r.port r.arg with
      | some k => { hw := { h with par := { h.par with keys := h.par.keys.filter (· != k) } }, status := tsOk }
      | none => tsNo h tsBadKey) h m)

/-! #### Attestation (R463, R464) -/

/-- The first 0xB0 bytes of a quote (R464). -/
def quoteBody (h : Hw) (n : Nat) (nonce : List Byte) : List Byte :=
  [0x4F, 0x4D, 0x56, 0x51, 0x01, 0x00] ++ leBytes 1 (n / 2) ++ leBytes 1 (n % 2) ++ leBytes 4 (fget h F_BOOT_STATUS_LOG_COUNT) ++
    leBytes 1 h.boot.fuseSvn ++ leBytes 1 (fget h F_BOOT_STATUS_IMAGE_SVN) ++ leBytes 1 (fget h F_BOOT_STATUS_SLOT) ++
    leBytes 1 (fget h F_TS_CONFIG_RESTARTS) ++ leBytes 8 h.blvd.serial ++ leBytes 2 (fget h F_BLVD_ADDR_ADDR) ++ zeros 6 ++ nonce ++
    h.boot.meas ++ pmOf h (n / 2)

/-- ATTEST (R464). -/
def execAttest (n : Fin 16) (s : State) : Host.Outcome State Fault Refusal :=
  .next (s.act fun h m => tsServe n.val 0x0101 (fun h r =>
    if r.inLen != 48 then tsNo h tsBadRequest
    else if h.kyd.secretOff then tsNoSecret h
    else
      let q := quoteBody h r.port r.input
      { hw := h, status := tsOk, out := q ++ Config.ecdsaSign Config.attestKey (Config.sha384 q) }) h m)

/-- EXTEND (R463). -/
def execExtend (n : Fin 16) (s : State) : Host.Outcome State Fault Refusal :=
  .next (s.act fun h m => tsServe n.val 0x0102 (fun h r =>
    if r.inLen != 48 then tsNo h tsBadRequest
    else if r.port % 2 == 0 then tsNo h tsRefused
    else { hw := extendPm h (r.port / 2) r.input, status := tsOk }) h m)

/-- CERT (R458). -/
def execCert (n : Fin 16) (s : State) : Host.Outcome State Fault Refusal :=
  .next (s.act fun h m => tsServe n.val 0x0103 (fun h r =>
    if r.inLen != 0 then tsNo h tsBadRequest
    else if h.kyd.secretOff then tsNoSecret h
    else
      let k := Config.ecdsaPublic Config.attestKey
      { hw := h, status := tsOk, out := k ++ Config.makerSignature k }) h m)

/-! #### Manager services (R454, R455) -/

/-- The port of the manager: the secure world of MGR_PART (R458). -/
def isManager (h : Hw) (n : Nat) : Bool := n == 2 * mgrPart h + 1 && hasSecure h (mgrPart h)

/-- QUOTA_SET (R454). -/
def execQuotaSet (n : Fin 16) (s : State) : Host.Outcome State Fault Refusal :=
  .next (s.act fun h m => tsServe n.val 0x0104 (fun h r =>
    let p := bits r.arg 7 0
    let k := bits r.arg 15 8
    if !isManager h r.port then tsNo h tsRefused
    else if r.inLen != 8 || 8 ≤ p || k == 0 || 5 < k || 2 ^ 16 ≤ r.arg || 2 ^ 40 ≤ num r.input 0 8 then tsNo h tsBadRequest
    else
      match writeQuota h p k (num r.input 0 8) with
      | (h, true) => { hw := h, status := tsOk }
      | (h, false) => tsNo h tsRefused) h m)

/-- RECLAIM_SP: every slice of the partition above its LIMIT is set to it (R455). -/
def execReclaimSp (n : Fin 16) (s : State) : Host.Outcome State Fault Refusal :=
  .next (s.act fun h m => tsServe n.val 0x0105 (fun h r =>
    let p := bits r.arg 7 0
    if !isManager h r.port then tsNo h tsRefused
    else if r.inLen != 0 || 8 ≤ p || 256 ≤ r.arg then tsNo h tsBadRequest
    else
      let ks := (coresOf h p).filter fun k => decide (quotaOf h p 4 < fget h F_LLC_CFG_SP_WAYS k)
      let e := effFold h m (fun h m k => (setScratch h m k (quotaOf h p 4)).1) ks
      { hw := e.hw, status := tsOk, value := some ks.length, ops := e.ops }) h m)

/-! #### Restart (R461, R462) -/

/-- Kydin ends every pending request UNAVAILABLE (R461, step 1). -/
def tsDrain (h : Hw) (m : Mem) : Eff :=
  effFold h m (fun h m n =>
    match tsBlock h n with
    | some a => (agentStore h m .kydin (a + 0x20) (leBytes 1 tsUnavailable)).map fun h => tsPortDone h n
    | none => { hw := h }) (h.par.tsReq.map (·.1))

/-- The bytes of a firmware record placed in an instruction SRAM at LOAD, over what it held (R111, R386). -/
def loadSram (size load : Nat) (code : List Byte) (old : List (Nat × Byte)) : List (Nat × Byte) :=
  (code.zipIdx.filter fun e => load + e.2 < size).foldl (fun t e => tset 0 t (load + e.2) e.1) old

/-- Instruction SRAM of a small core in bytes (R386). -/
def isramSize (m : Nat) : Nat := if m < 64 then 65536 else 2 ^ 20

/-- Data SRAM of a small core in bytes (R386). -/
def dsramSize (m : Nat) : Nat := if m < 64 then 32768 else 262144

/-- A small core is held, loaded and restarted at ENTRY (R111, R134). -/
def loadSmall (h : Hw) (m load entry : Nat) (code : List Byte) : Hw :=
  setSmall h m { isram := loadSram (isramSize m) load code (smallOf h m).isram, pc := BitVec.ofNat 32 entry }

/-- The H2 core starts again at ENTRY with its data SRAM zeroed and its firmware loaded (R461). -/
def restartH2 (h : Hw) : Hw :=
  loadSmall h coreH2 (tget 0 h.boot.fwLoad 3) (tget 0 h.boot.fwEntry 3) (tget [] h.boot.fw 3)

/-- A class B restart: pending requests end, keys are lost, the firmware is measured and starts again (R461). DESIGN CHOICE: it is whole in
one step (log 103). -/
def tsRestart (h : Hw) (m : Mem) : Eff :=
  (tsDrain h m).map fun h =>
    let h := { h with par := { h.par with keys := [], tsGen := (h.par.tsGen + 1) % 2 ^ 16 } }
    let h := fadd (restartH2 h) F_TS_CONFIG_RESTARTS 1
    let src := tget 0 h.boot.fwFrom 3
    let h := logEntry h evComponent 0 (src / 256) (src % 256) (tget [] h.boot.fwChain 3)
    logCode h 4 blkTs 0 0xFF07 2

/-- The trusted side is declared hung: a restart, or FAILED at the third hang within 1 s of the first (R461, R462). -/
def tsHang (h : Hw) (m : Mem) : Eff :=
  let hs := (h.par.hangs.filter fun t => decide (gateTime h ≤ t + second)) ++ [gateTime h]
  let h := { h with par := { h.par with hangs := hs } }
  if 3 ≤ hs.length then
    (tsDrain h m).map fun h => raiseSource (setCause (fset h F_TS_CONFIG_STATE 2) F_KYD_STATUS_TS_FAILED) srcTsFailed
  else tsRestart h m

/-- TS_WATCHDOG (R461, R462). -/
def execTsWatchdog (s : State) : Host.Outcome State Fault Refusal :=
  .next (s.act fun h m => if tsRuns h then tsHang h m else { hw := h })

/-- TS_REQUEST_TIMEOUT: a pending request has had no STATUS for TIMEOUT_MS (R461). -/
def execTsRequestTimeout (n : Fin 16) (s : State) : Host.Outcome State Fault Refusal :=
  .next (s.act fun h m => if tsRuns h && (tsBlock h n.val).isSome then tsHang h m else { hw := h })

end Sys2Proof.Machine
end

