-- ==== Sys2Proof/Machine/Image.lean ====
section
/-!
DEFINITION. Images: their layout, their verification, the choice of a slot, and the boot commands.
-/

namespace Sys2Proof.Machine

/-! ### Bytes of a slot (R103) -/

/-- `n` bytes from address `k` of a list of programmed bytes in rising order; every other byte is erased. -/
def dense : Nat → Nat → List (Nat × Byte) → List Byte
  | 0, _, _ => []
  | n + 1, k, [] => 0xFF :: dense n (k + 1) []
  | n + 1, k, (j, b) :: r => if j = k then b :: dense n (k + 1) r else 0xFF :: dense n (k + 1) ((j, b) :: r)

/-- `n` bytes of a slot from offset `o`. -/
def slotRead (s : Slot) (o n : Nat) : List Byte := dense n o (s.bytes.filter fun e => o ≤ e.1)

def imageSlotSize : Nat := 32 * 2 ^ 20
def kydinSlotSize : Nat := 2 ^ 20

/-- The image in a slot: as many bytes as its IMAGE_LEN says; the header alone where that is more than the slot holds, which no check
of R119 passes (R107). -/
def slotImage (s : Slot) (size : Nat) : List Byte :=
  let hd := slotRead s 0 256
  if num hd 8 4 ≤ size then slotRead s 0 (max 256 (num hd 8 4)) else hd

/-! ### Layout (R106 to R110) -/

/-- One record of an image: its offset, header fields, body, and all its bytes (R110). -/
structure ImgRec where
  off : Nat
  type : Nat
  flags : Nat
  target : Nat
  body : List Byte
  raw : List Byte
  deriving DecidableEq, Repr

/-- Image types (R107) and record types (R111). -/
def imgKydin : Nat := 1
def imgModule : Nat := 2
def imgComponent : Nat := 3
def rtModule : Nat := 0x1
def rtPartition : Nat := 0x2
def rtShare : Nat := 0x3
def rtQuota : Nat := 0x4
def rtLaneGroup : Nat := 0x5
def rtMatchTable : Nat := 0x6
def rtRegWrite : Nat := 0x7
def rtMicrocode : Nat := 0x8
def rtSeqFirmware : Nat := 0x9
def rtFirmware : Nat := 0xA
def rtCoreImage : Nat := 0xB
def rtEnd : Nat := 0xFF

def imgLen (img : List Byte) : Nat := num img 0x08 4
def imgType (img : List Byte) : Nat := num img 0x0C 2
def imgSequence (img : List Byte) : Nat := num img 0x10 8
def imgSvn (img : List Byte) : Nat := num img 0x18 1
def imgTrailer (img : List Byte) : Nat := num img 0x28 4
/-- H0 and CHAIN of an image (R108). -/
def imgH0 (img : List Byte) : List Byte := Config.sha384 (sub img 0 256)
def imgChain (img : List Byte) : List Byte := sub img (imgTrailer img) 48

/-- The records from an offset to the trailer, which the last one must reach exactly (R106, R110). FLAGS bits 14:0 and the word at 0xC
are not checked (DESIGN CHOICE, log 61). -/
def parseRecs : Nat → List Byte → Nat → Nat → Option (List ImgRec)
  | 0, _, _, _ => none
  | fuel + 1, img, off, stop =>
    if off == stop then some []
    else
      let len := num img (off + 4) 4
      if stop < off + 16 + len || len % 8 != 0 then none
      else
        let r : ImgRec := { off := off, type := num img off 2, flags := num img (off + 2) 2, target := num img (off + 8) 4,
                            body := sub img (off + 16) len, raw := sub img off (16 + len) }
        (parseRecs fuel img (off + 16 + len) stop).map (r :: ·)

/-- The records of an image. -/
def imgRecs (img : List Byte) : Option (List ImgRec) := parseRecs (img.length / 16 + 1) img 0x100 (imgTrailer img)

/-- The chain values H0 to Hn (R108). -/
def chainFrom (h0 : List Byte) : List ImgRec → List (List Byte)
  | [] => [h0]
  | r :: l => h0 :: chainFrom (Config.sha384 (h0 ++ r.raw)) l

def imgChainValues (img : List Byte) (recs : List ImgRec) : List (List Byte) := chainFrom (imgH0 img) recs

/-! ### Bodies (R111 to R118) -/

/-- A PARTITION body (R112). -/
def partBody (b : List Byte) : PartCfg :=
  { present := true, squares := num b 0x00 16, quarters := num b 0x10 4, interleave := num b 0x14 1, numVf := num b 0x15 1,
    gates := num b 0x18 8, blvdGates := num b 0x20 8, flowFirst := num b 0x28 2, flowCount := num b 0x2A 2,
    engines := num b 0x2C 4, qpFirst := num b 0x30 1, qpCount := num b 0x31 1 }

/-- The 16-byte entries of a body. -/
def entries16 (b : List Byte) : List (List Byte) := (List.range (b.length / 16)).map fun i => sub b (16 * i) 16

/-- A MATCH_TABLE entry (R115). -/
def mtBody (e : List Byte) : MtEntry :=
  { key := BitVec.ofNat 36 (num e 0 5), mask := BitVec.ofNat 36 (num e 5 5), prio := num e 10 2 % 1024, prim := num e 12 1,
    valid := bit (num e 13 1) 0 }

/-- An address in control space (R3, R118). -/
def inControl (a : Nat) : Bool := decide (0xF000000000 ≤ a) && decide (a < 0xF000000000 + 2 ^ 30)

/-- What the partition records of an image say, in record order (R112, R117). -/
def cfgFold (t : Tab PartCfg) : List ImgRec → Tab PartCfg
  | [] => t
  | r :: l =>
    let c := tget {} t r.target
    let t :=
      if r.type == rtPartition then tset {} t r.target (partBody r.body)
      else if r.type == rtShare then tset {} t r.target { c with shares := c.shares ++ [(num r.body 0 1, num r.body 8 4, num r.body 12 4)] }
      else if r.type == rtCoreImage then
        (if num r.body 0x18 1 == 1 then tset {} t r.target { c with entryS := some (num r.body 8 8) }
         else tset {} t r.target { c with entryN := some (num r.body 8 8) })
      else t
    cfgFold t l

/-- 256 MiB units of one quarter of the part (R2, R251). -/
def quarterUnits (h : Hw) : Nat := if h.boot.partIs384 then 64 else 128

/-- The members of a partition: whole quarters and shares, by quarter and base (R262). -/
def cfgMembers (h : Hw) (c : PartCfg) : List (Nat × Nat × Nat) :=
  ((onesOf 24 c.quarters).map (fun q => (q, 0, quarterUnits h)) ++ c.shares).mergeSort
    fun a b => decide (a.1 < b.1) || (a.1 == b.1 && decide (a.2.1 ≤ b.2.1))

/-- PSIZE of a partition in 256 MiB units (R262). -/
def cfgSize (h : Hw) (c : PartCfg) : Nat := ((cfgMembers h c).map fun m => m.2.2).sum

/-- PBASE of partition `p` in 256 MiB units (R262). -/
def cfgBase (h : Hw) (t : Tab PartCfg) (p : Nat) : Nat := ((List.range p).map fun i => cfgSize h (tget {} t i)).sum

/-- Whether an OPTIONAL record of an unknown type (R110). -/
def knownType (t : Nat) : Bool := (decide (1 ≤ t) && decide (t ≤ 0xB)) || t == rtEnd

/-- Whether a record type and target may stand in an image of a type (R111). -/
def allowedIn (kind : Nat) (r : ImgRec) : Bool :=
  if r.type == rtEnd then true
  else if r.type == rtMatchTable || r.type == rtMicrocode || r.type == rtSeqFirmware then kind == imgModule || kind == imgComponent
  else if r.type == rtFirmware then (if r.target == 0 then kind == imgKydin else kind == imgModule || kind == imgComponent)
  else kind == imgModule

/-- Bytes a CORE_IMAGE places in DRAM (R117); none where it does not come to SIZE. DESIGN CHOICE: raw data past SIZE is dropped, and
fewer bytes than SIZE make the image invalid (log 86). -/
def coreData (b : List Byte) : Option (List Byte) :=
  let size := num b 0x10 8
  let data := b.drop 0x20
  if num b 0x19 1 == 0 then (if size ≤ data.length then some (data.take size) else none)
  else
    match inflate size data with
    | .ok out => some (out.map (·.1))
    | .error _ => none

/-- TARGET and body lie in the ranges of R111 to R118. DESIGN CHOICE: a SHARE of SIZE 0 lies outside them (log 85). -/
def recOk (h : Hw) (cfg : Tab PartCfg) (r : ImgRec) : Bool :=
  let n := r.body.length
  let v := num r.body
  if r.type == rtModule then
    r.target == 0 && n == 16 && decide (10000000 ≤ v 0 4) && decide (v 0 4 ≤ 125000000) && decide (1 ≤ v 4 4) &&
      decide (v 4 4 ≤ 65536) && (decide (v 8 1 ≤ 7) || v 8 1 == 0xFF)
  else if r.type == rtPartition then
    let c := partBody r.body
    decide (r.target ≤ 7) && n == 64 && decide (c.squares < 2 ^ 80) && decide (c.quarters < 2 ^ 24) && decide (c.interleave ≤ 2) &&
      decide (c.numVf ≤ 31) && decide (c.flowFirst + c.flowCount ≤ 4096) && decide (c.engines < 2 ^ 24) &&
      decide (c.qpFirst + c.qpCount ≤ 64)
  else if r.type == rtShare then decide (r.target ≤ 7) && n == 16 && decide (v 0 1 ≤ 23) && decide (1 ≤ v 12 4)
  else if r.type == rtQuota then
    decide (r.target ≤ 7) && n == 16 && decide (1 ≤ v 0 2) && decide (v 0 2 ≤ 5) && (v 0 2 != 4 || decide (v 8 8 ≤ 6))
  else if r.type == rtLaneGroup then
    let g := bits r.target 7 0
    let c := bits r.target 15 8
    let pers := v 0 1
    n == 16 && decide (r.target < 65536) && decide (1 ≤ c) && decide (c ≤ 64) && decide (g + c ≤ 64) && (pers == 1 || pers == 2) &&
      decide (v 1 1 ≤ 4) && decide (400 ≤ v 4 2) && decide (v 4 2 ≤ 1000) && decide (v 6 1 ≤ 1) &&
      (List.range c).all fun i =>
        (List.range 8).any fun p => bit (if pers == 1 then (tget {} cfg p).gates else (tget {} cfg p).blvdGates) (g + i)
  else if r.type == rtMatchTable then
    decide (bits r.target 7 0 ≤ 63) && bits r.target 15 8 == 0 && decide (r.target < 2 ^ 26) && n % 16 == 0 &&
      decide (bits r.target 25 16 + n / 16 ≤ 1024) &&
      (entries16 r.body).all fun e => decide (num e 0 5 < 2 ^ 36) && decide (num e 5 5 < 2 ^ 36)
  else if r.type == rtRegWrite then
    r.target == 0 && n % 16 == 0 && (entries16 r.body).all fun e => inControl (num e 0 8) && num e 0 8 % 8 == 0
  else if r.type == rtMicrocode then decide (r.target < 2 ^ 24) && decide (8 ≤ n) && decide (n ≤ 8 + 256 * 1024)
  else if r.type == rtSeqFirmware then r.target == 0 && decide (16 ≤ n) && decide (n ≤ 16 + 64 * 1024)
  else if r.type == rtFirmware then decide (r.target ≤ 4) && decide (8 ≤ n) && decide (n ≤ 8 + 960 * 1024)
  else if r.type == rtCoreImage then
    let base := cfgBase h cfg r.target * 2 ^ 28
    decide (r.target ≤ 7) && decide (32 ≤ n) && decide (v 0x18 1 ≤ 1) && decide (v 0x19 1 ≤ 1) && decide (base ≤ v 0 8) &&
      decide (v 0 8 + max 1 (v 0x10 8) ≤ base + cfgSize h (tget {} cfg r.target) * 2 ^ 28) && (coreData r.body).isSome
  else if r.type == rtEnd then r.target == 0 && n == 0
  else bit r.flags 15

/-! ### Verification (R119) -/

/-- No element of a list occurs twice. -/
def distinct (l : List Nat) : Bool := decide l.Nodup

/-- Check 6: MODULE first and once, END last and once; a PARTITION record once per partition and before every record of that
partition; at most one CORE_IMAGE per world (R111, R117, R119). -/
def orderOk (kind : Nat) (recs : List ImgRec) : Bool :=
  let types := recs.map (·.type)
  let parts := (recs.filter fun r => r.type == rtPartition).map (·.target)
  (types.getLast? == some rtEnd) && (types.filter (· == rtEnd)).length == 1 &&
    (kind != imgModule || (types.head? == some rtModule && (types.filter (· == rtModule)).length == 1)) &&
    distinct parts &&
    distinct ((recs.filter fun r => r.type == rtCoreImage).map fun r => 2 * r.target + num r.body 0x18 1) &&
    recs.zipIdx.all fun (r, i) =>
      !(r.type == rtShare || r.type == rtQuota || r.type == rtCoreImage) ||
        (recs.take i).any fun o => o.type == rtPartition && o.target == r.target

/-- Two shares of one quarter do not overlap. -/
def sharesApart : List (Nat × Nat × Nat) → Bool
  | [] => true
  | (q, b, s) :: l => l.all (fun (q', b', s') => q != q' || decide (b + s ≤ b') || decide (b' + s' ≤ b)) && sharesApart l

/-- Check 7: no unit is given to two partitions, no gate is named twice, SHARE ranges are apart and in no whole quarter, and the
limits of R263 hold. -/
def unitsOk (h : Hw) (cfg : Tab PartCfg) : Bool :=
  let cs := (List.range 8).map fun p => tget {} cfg p
  let shares := cs.flatMap (·.shares)
  let whole := cs.flatMap fun c => onesOf 24 c.quarters
  distinct (cs.flatMap fun c => onesOf 80 c.squares) && distinct whole &&
    distinct (cs.flatMap fun c => onesOf 64 c.gates ++ onesOf 64 c.blvdGates) &&
    distinct (cs.flatMap fun c => (List.range c.flowCount).map (c.flowFirst + ·)) &&
    distinct (cs.flatMap fun c => (onesOf 24 c.engines).flatMap fun q => (List.range c.qpCount).map fun n => 64 * q + (c.qpFirst + n)) &&
    sharesApart shares && shares.all (fun s => !whole.contains s.1) &&
    (List.range 24).all (fun q => decide ((shares.filter fun s => s.1 == q).length ≤ 8)) &&
    cs.all fun c =>
      let ms := cfgMembers h c
      decide (ms.length ≤ 32) && (c.interleave == 2 || ms.all fun m => m.2.2 == (ms.headD (0, 0, 0)).2.2)

/-- The quota limits of an image, by 8 p + KIND − 1; a later record replaces an earlier one (R116). -/
def quotaFold (t : Tab Nat) : List ImgRec → Tab Nat
  | [] => t
  | r :: l => quotaFold (if r.type == rtQuota then tset 0 t (8 * r.target + num r.body 0 2 - 1) (num r.body 8 8) else t) l

/-- Check 8: the module-wide quota sums hold, and every DRAM range lies below the limit of the part and in no retired quarter
(R2, R116, R555). -/
def limitsOk (h : Hw) (cfg : Tab PartCfg) (recs : List ImgRec) : Bool :=
  let q := quotaFold [] recs
  let sum := fun k => ((List.range 8).map fun p => tget 0 q (8 * p + k - 1)).sum
  decide (sum 1 ≤ 2048) && decide (sum 5 ≤ 512) && (List.range 8).all (fun p => decide (tget 0 q (8 * p + 1) ≤ 16 * 2 ^ 20)) &&
    (List.range 8).all fun p => (cfgMembers h (tget {} cfg p)).all fun m =>
      decide (m.2.1 + m.2.2 ≤ quarterUnits h) && !h.kyd.retired.contains (5, m.1)

/-- A signature is accepted: the key slot is not revoked, its digest is that of PUBKEY, and the signature with SHA-384 over the bytes
of CHAIN verifies (R108, R109). -/
def signatureOk (h : Hw) (img : List Byte) : Bool :=
  let k := num img 0x1A 1
  let pub := sub img 0x40 96
  decide (k ≤ 3) && !bit h.boot.keyRevoked k && lget [] h.boot.keyDigests k == Config.sha384 pub &&
    Config.ecdsaOk pub (sub img (imgTrailer img + 48) 96) (Config.sha384 (imgChain img))

/-- A component package holds exactly one record of the four types, followed by END (R134). -/
def packageOk (recs : List ImgRec) : Bool :=
  match recs with
  | [r, e] => [rtMatchTable, rtMicrocode, rtSeqFirmware, rtFirmware].contains r.type && e.type == rtEnd
  | _ => false

/-- The nine checks of R119 on an image of a type, in a slot of a size. None of them looks at FLAGS or at reserved bytes (DESIGN CHOICE,
log 61). -/
def imageOk (h : Hw) (kind size : Nat) (img : List Byte) : Bool :=
  num img 0 4 == 0x49564D4F && num img 4 2 == 1 && num img 6 2 == 0x100 && imgType img == kind &&
    bit (num img 0x19 1) (b2n h.boot.partIs384) &&
    decide (imgLen img ≤ size) && imgTrailer img + 144 == imgLen img && decide (imgLen img ≤ img.length) &&
    decide (h.boot.fuseSvn ≤ imgSvn img) && decide (imgSvn img ≤ 64) &&
    (match imgRecs img with
     | none => false
     | some recs =>
       let cfg := cfgFold [] recs
       recs.length == num img 0x1C 4 && recs.all (fun r => knownType r.type || bit r.flags 15) &&
         recs.all (fun r => !knownType r.type || allowedIn kind r) && orderOk kind recs && recs.all (recOk h cfg) &&
         unitsOk h cfg && limitsOk h cfg recs && (kind != imgComponent || packageOk recs) &&
         (imgChainValues img recs).getLast? == some (imgChain img) && signatureOk h img)

/-- Whether an image slot, or a Kydin slot, verifies. -/
def imageSlotOk (h : Hw) (s : Slot) : Bool := imageOk h imgModule imageSlotSize (slotImage s imageSlotSize)
def kydinSlotOk (h : Hw) (s : Slot) : Bool := imageOk h imgKydin kydinSlotSize (slotImage s kydinSlotSize)

/-! ### Slots and their states (R120, R121, R136) -/

/-- Image slot A or B (true: B). -/
def imgSlot (h : Hw) (b : Bool) : Slot := if b then h.boot.imgB else h.boot.imgA
def setImgSlot (h : Hw) (b : Bool) (s : Slot) : Hw :=
  if b then { h with boot := { h.boot with imgB := s } } else { h with boot := { h.boot with imgA := s } }
def kydSlot (h : Hw) (b : Bool) : Slot := if b then h.boot.kydB else h.boot.kydA
def setKydSlot (h : Hw) (b : Bool) (s : Slot) : Hw :=
  if b then { h with boot := { h.boot with kydB := s } } else { h with boot := { h.boot with kydA := s } }

/-- Codes of STATE_A and STATE_B (R136). -/
def slotCode : SlotState → Nat
  | .empty => 0
  | .new => 1
  | .trial => 2
  | .good => 3
  | .bad => 4
  | .invalid => 5

/-- STATE_A, STATE_B, TRIAL_COUNT and FUSE_SVN follow the slots and the fuses (R136). -/
def showSlots (h : Hw) : Hw :=
  let h := fset h F_BOOT_STATUS_STATE_A (slotCode h.boot.imgA.state)
  let h := fset h F_BOOT_STATUS_STATE_B (slotCode h.boot.imgB.state)
  let h := fset h F_BOOT_STATUS_FUSE_SVN h.boot.fuseSvn
  match h.boot.imgRunning with
  | some b => fset h F_BOOT_STATUS_TRIAL_COUNT (imgSlot h b).trials
  | none => h

/-- The slot that comes first: the one with the higher SEQUENCE where BOOT_SEL is open, else the lower; A on a tie (R120). -/
def firstBySeq (open_ : Bool) (seqA seqB : Nat) : Bool := if open_ then decide (seqA < seqB) else decide (seqB < seqA)

/-- A slot with an image that fails verification is INVALID (R120, R129). -/
def failSlot (h : Hw) (ok : Bool → Bool) (b : Bool) : Hw :=
  let s := imgSlot h b
  if [SlotState.new, .trial, .good, .bad].contains s.state && !ok b then setImgSlot h b { s with state := .invalid } else h

/-- The choice among slots in order: a TRIAL slot at three attempts turns BAD, the first verified slot in NEW, TRIAL or GOOD is
chosen, and a slot that fails verification turns INVALID; so does one after the chosen slot, since both are verified (R120, R129). -/
def chooseSlot (h : Hw) (ok : Bool → Bool) : List Bool → Hw × Option Bool
  | [] => (h, none)
  | b :: r =>
    let s := imgSlot h b
    let s := if s.state == .trial && s.trials == 3 then { s with state := SlotState.bad } else s
    let h := setImgSlot h b s
    if [SlotState.new, .trial, .good].contains s.state && ok b then (r.foldl (fun h b => failSlot h ok b) h, some b)
    else chooseSlot (if ok b then h else setImgSlot h b { s with state := .invalid }) ok r

/-- Booting a slot: NEW turns TRIAL with one attempt, TRIAL counts one more (R121). -/
def bootedSlot (s : Slot) : Slot :=
  match s.state with
  | .new => { s with state := .trial, trials := 1 }
  | .trial => { s with trials := s.trials + 1 }
  | _ => s

/-- A slot whose NOR sector is erased or programmed: the slot-state sector of its part (R103, R547). -/
def slotStates (h : Hw) : Hw := showSlots h

/-! ### BOOT_CTRL (R121, R128, R133, R137) -/

/-- The outcome of a command of BOOT_CTRL. -/
def bootAnswer (h : Hw) (code : Nat) : Hw := answer h F_BOOT_CTRL_RESULT F_BOOT_CTRL_SEQ code

/-- The result of a COMMIT: the running slot turns GOOD where it is in TRIAL, and the fuse counter rises step by step to the SVN of
the running image (R121, R128). -/
def commitSlot (h : Hw) : Hw × Nat :=
  match h.boot.imgRunning with
  | none => (h, rcRefused)
  | some b =>
    let s := imgSlot h b
    let h := if s.state == .trial then setImgSlot h b { s with state := .good, trials := 0 } else h
    let h := { h with boot := { h.boot with fuseSvn := max h.boot.fuseSvn (fget h F_BOOT_STATUS_IMAGE_SVN) } }
    (showSlots h, rcDone)

/-- BOOT_COMMIT (R121, R128, R137). -/
def execBootCommit (who : Requester) (s : State) : Host.Outcome State Fault Refusal :=
  .next (s.upd fun h => ifMay h who R_BOOT_CTRL 0 0 fun h =>
    let (h, code) := commitSlot h
    bootAnswer h code)

/-- The one-shot BOOT_ONCE (R120). -/
def setBootOnce (h : Hw) (b : Bool) : Hw := { h with boot := { h.boot with bootOnce := some b } }

/-- BOOT_ONCE_SLOT_A (R137). -/
def execBootOnceSlotA (who : Requester) (s : State) : Host.Outcome State Fault Refusal :=
  .next (s.upd fun h => ifMay h who R_BOOT_CTRL 0 0 fun h => bootAnswer (setBootOnce h false) rcDone)

/-- BOOT_ONCE_SLOT_B (R137). -/
def execBootOnceSlotB (who : Requester) (s : State) : Host.Outcome State Fault Refusal :=
  .next (s.upd fun h => ifMay h who R_BOOT_CTRL 0 0 fun h => bootAnswer (setBootOnce h true) rcDone)

/-- Verification of an image slot: NEW or INVALID, also where it was GOOD (DESIGN CHOICE, log 62); the running slot is refused (R133,
R137). -/
def verifySlot (h : Hw) (b : Bool) : Hw × Nat :=
  if h.boot.imgRunning == some b then (h, rcRefused)
  else
    let s := imgSlot h b
    let ok := imageSlotOk h s
    let h := setImgSlot h b { s with state := if ok then .new else .invalid, trials := 0 }
    (showSlots h, if ok then rcDone else rcFailed)

/-- VERIFY_SLOT_A (R137). -/
def execVerifySlotA (who : Requester) (s : State) : Host.Outcome State Fault Refusal :=
  .next (s.upd fun h => ifMay h who R_BOOT_CTRL 0 0 fun h =>
    let (h, code) := verifySlot h false
    bootAnswer h code)

/-- VERIFY_SLOT_B (R137). -/
def execVerifySlotB (who : Requester) (s : State) : Host.Outcome State Fault Refusal :=
  .next (s.upd fun h => ifMay h who R_BOOT_CTRL 0 0 fun h =>
    let (h, code) := verifySlot h true
    bootAnswer h code)

end Sys2Proof.Machine
end

