-- ==== Sys2Proof/Machine/CoreBase.lean ====
section
/-!
DEFINITION. Starting big cores, and the machine timer.
-/

namespace Sys2Proof.Machine

/-- The CSR numbers the model names, with the per-world copy of R364: in the secure world 4,096 is added. -/
def banked : List Nat := [0x180, 0x680, 0x280, 0x105, 0x140, 0x141, 0x142, 0x143, 0x305, 0x340, 0x341, 0x342, 0x343]

/-- A core starts at an address in M-mode in a world, from its reset state (R125, R384, R445). -/
def startCore (h : Hw) (c addr : Nat) (secure : Bool) : Hw :=
  let h := setCore h c { coreOf h c with pc := BitVec.ofNat 64 addr }
  let h := fset (fset h F_CORE_STATUS_STATE 1 c) F_CORE_STATUS_WORLD (b2n secure) c
  fset (fset h F_CORE_STATUS_PRIV 3 c) F_CORE_STATUS_V 0 c

/-- START: refused to the normal world for the secure world and in a partition without one, for a retired core or one in reset;
BUSY for a core that runs or waits (R384, R442). A core that no partition owns stays idle (R22); DESIGN CHOICE: its START ends REFUSED (log
66). -/
def execStart (who : Requester) (c : Fin 160) (secure : Bool) (s : State) : Host.Outcome State Fault Refusal :=
  .next (s.upd fun h => ifMay (wakeFor h R_CORE_CMD c.val) who R_CORE_CMD c.val 0 fun h =>
    let c := c.val
    let st := fget h F_CORE_STATUS_STATE c
    let sec := match ownerCore h c with | some p => hasSecure h p | none => false
    let give := fun (h : Hw) (code : Nat) => answer h F_CORE_CMD_RESULT F_CORE_CMD_SEQ code c
    if secure && (!sec || (who != .kydin && !(askerOf h who).secure)) then give h rcRefused
    else if st == stRunning || st == stWfi then give h rcBusy
    else if st == 3 || st == 4 || (ownerCore h c).isNone then give h rcRefused
    else give (startCore h c (4 * fget h F_CORE_START_ADDR_ADDR c) secure) rcDone)

/-- The machine timer interrupt of a core is pending (R360). -/
def timerPending (h : Hw) (c : Nat) : Bool := decide (fget h F_CORE_MTIMECMP_VALUE c ≤ gateTime h)

/-- MACHINE_TIMER: with module time at CORE_MTIMECMP the interrupt is pending; a sleeping square wakes and a waiting core goes on
(R360, R435). -/
def execMachineTimer (c : Fin 160) (s : State) : Host.Outcome State Fault Refusal :=
  .next (s.upd fun h =>
    if timerPending h c.val then
      (if pwrOf h (c.val / 2) != pwrOn then wakeSquare h (c.val / 2) else stirCore h c.val)
    else h)

/-- The lowest-numbered core of a partition that is not retired (R125). -/
def bootCore (h : Hw) (p : Nat) : Option Nat := (coresOf h p).find? fun c => fget h F_CORE_STATUS_STATE c != 3

/-- BOOT_CORE_START: in a mode where big cores run, the boot core of a partition that has not started starts at ENTRY of its
secure image, or else of its normal one; with every core retired none starts and Kydin logs it (R125). -/
def execBootCoreStart (p : Fin 8) (s : State) : Host.Outcome State Fault Refusal :=
  .next (s.upd fun h =>
    let p := p.val
    let c := partOf h p
    if !(decide (4 ≤ modeNow h) && decide (modeNow h ≤ 6) && c.present && !c.started && fget h F_PART_STATUS_STATE 0 p == 1) then h
    else
      match (match c.entryS with | some a => some (a, true) | none => c.entryN.map fun a => (a, false)) with
      | none => h
      | some (a, sec) =>
        match bootCore h p with
        | none => logCode (setPart h p { c with started := true }) 4 blkPart 0 (Config.openCode blkPart).toNat p (partByte p false)
        | some k =>
          if fget h F_CORE_STATUS_STATE k != 0 then h
          else startCore (setPart h p { c with started := true }) k a sec)

end Sys2Proof.Machine
end

