-- ==== Sys2Proof/Machine/Resets.lean ====
section
/-!
DEFINITION. The resets of a gate, of a partition and of the module, and what the straps and records restore.
-/

namespace Sys2Proof.Machine

/-! ### Gate reset (R84, R88, R158, R225, R517) -/

/-- A lane of a gate in reset: nothing is left but its equalisation (R84, R160). -/
def resetLane (h : Hw) (g k : Nat) : Hw :=
  let h := leaveAligned h g k
  let l := laneOf h g k
  setLane h g k { eq := l.eq, sfNum := l.sfNum }

/-- Lanes train: in M2 from the step of the startup sequence that trains them, and in M3 to M7 (R90, R160). -/
def lanesPowered (h : Hw) : Bool := decide (3 ≤ modeNow h) || (modeNow h == 2 && decide (5 ≤ h.mod.stepsDone))

/-- The lanes of a gate start to train with the equalisation they have (R88, R160). -/
def retrainGate (h : Hw) (g : Nat) : Hw :=
  if !lanesPowered h || bit h.par.gateSlept g || ownerResets h g then h
  else (usedLanes h g).foldl (fun h k => bundleTrain (fset h F_LANE_STATUS_STATE 1 g k) g (k / 4)) h

/-- A gate reset: a running INSERT completes, a pending command ends ABORTED, an interrupted fragment is abandoned and its ring
space returns, bundles go DOWN, the sequencer starts again at ENTRY, and the GATE domain clears; match tables and equalisation stay. Ingest
runs as the mode says, and not while the gate's partition is in reset (R84, R87, R88, R158, R225, R517). -/
def clearGate (h : Hw) (g : Nat) : Hw :=
  let h := drainMt h g
  let aborted := (gateOf h g).dlLane.isSome
  let h := match (gateOf h g).frag with
    | some f => if f.sent.isSome then returnSpace h g f.offset else h
    | none => h
  let h := if boulevard h g then (List.range 4).foldl (fun h b => bundleDown h g b false) h else h
  let h := (List.range 16).foldl (fun h k => resetLane h g k) h
  let v := gateOf h g
  let h := setGate h g { ring := v.ring, retired := v.retired, realign := !(usedLanes h g).isEmpty }
  let h := clearRegs h fun r i _ => r.dom == .gate && r.n0 == 0x80 && i == g
  let h := if boulevard h g then { h with blvd := { h.blvd with bundles := h.blvd.bundles.filter fun e => e.1 / 4 != g } } else h
  let h := setSmall h g { isram := (smallOf h g).isram, pc := BitVec.ofNat 32 (tget 0 h.boot.seqEntry g) }
  let h := countValid (if aborted then fset h F_GATE_DL_CMD_RESULT 6 g else h) g
  fset h F_GATE_STATUS_RUN (b2n (ingestRuns h && (readoutGates h).contains g && !ownerResets h g)) g

/-- A gate reset that stands alone: the gate realigns its lanes (R88). -/
def resetGate (h : Hw) (g : Nat) : Hw := retrainGate (clearGate h g) g

/-- Gate logic leaves service: entry, gate reset, and its lanes serve only a takeover (R555). -/
def retireGate (h : Hw) (g cause : Nat) : Hw :=
  let h := resetGate (lifeRetire h 4 g cause false) g
  setGate h g { gateOf h g with retired := true }

/-- Every lane of a gate that is in use is aligned. -/
def gateAligned (h : Hw) (g : Nat) : Bool := (usedLanes h g).all fun k => laneUp h g k

/-- The gate resets of the last second that have not realigned; with three of them the gate logic is retired (R555). A reset shows
that it failed to realign when the next one finds the lanes not aligned. -/
def gateResetFails (h : Hw) (g : Nat) : Hw × Bool :=
  let t := gateTime h
  let old := if gateAligned h g then [] else (tget [] h.kyd.gateFails g).filter fun x => decide (t ≤ x + second)
  ({ h with kyd := { h.kyd with gateFails := tset [] h.kyd.gateFails g (old ++ [t]) } }, decide (3 ≤ old.length))

/-- GATE_RESET: Kydin or the owner's secure world resets a gate; where its sequencer is to be loaded the reset waits for the load
(R84, R88, R135, R555). -/
def execGateReset (who : Requester) (g : Fin 64) (s : State) : Host.Outcome State Fault Refusal :=
  .next (s.upd fun h =>
    let g := g.val
    let ok := who == .kydin || (match ownerGate h g with | some p => isSecureOf h who p | none => false)
    if !served h who R_GATE_STATUS then setBusErr h true
    else if !ok then logRefusedWrite (setBusErr h false) who R_GATE_STATUS g 0
    else
      let (h, failed) := gateResetFails (setBusErr h false) g
      if failed && !(gateOf h g).retired then retireGate h g 1
      else if seqHeld h g then setGate h g { gateOf h g with resetWait := true }
      else resetGate h g)

/-- SEQUENCER_WATCHDOG_EXPIRY: the third expiry within 1 s retires the gate logic (R555). -/
def execSequencerWatchdogExpiry (g : Fin 64) (s : State) : Host.Outcome State Fault Refusal :=
  .next (s.upd fun h =>
    let g := g.val
    let t := gateTime h
    let l := ((tget [] h.kyd.gateFails (64 + g)).filter fun x => decide (t ≤ x + second)) ++ [t]
    let h := { h with kyd := { h.kyd with gateFails := tset [] h.kyd.gateFails (64 + g) l } }
    if 3 ≤ l.length && !(gateOf h g).retired then retireGate h g 1 else h)

/-! ### Values that reset restores from the image and the records (R112, R228, R405, R556) -/

/-- Flows, queue pairs, event slots, expected gates and quota limits of a partition, as its image gives them (R112, R116, R228). -/
def imageResets (h : Hw) (p : Nat) : Hw :=
  let c := partOf h p
  let h := (List.range c.flowCount).foldl (fun h i =>
    let f := c.flowFirst + i
    fset (fset h F_RBT_FLOW_CFG_PART p (f / 1024) (f % 1024)) F_RBT_FLOW_CFG_OWNED 1 (f / 1024) (f % 1024)) h
  let h := (onesOf 24 c.engines).foldl (fun h q => (List.range c.qpCount).foldl (fun h i =>
    fset (fset h F_ENG_QP_CFG_PART p q (c.qpFirst + i)) F_ENG_QP_CFG_OWNED 1 q (c.qpFirst + i)) h) h
  let n := popcount 64 c.gates
  let h := if c.present then fset h F_RBT_PART_EVCFG_SLOT_LINES (max 2 (1 + (n + 7) / 8)) 0 p else h
  let h := fset h F_RBT_PART_EXPECT_GATES c.gates 0 p
  (List.range 5).foldl (fun h k => fset h F_PART_QUOTA_LIMIT (tget 0 h.boot.quotaLimits (8 * p + k)) 0 (8 * p + k)) h

/-- The ways of a slice after a reset: those the records list are DISABLED, the others NORMAL (R405). -/
def recordWays (h : Hw) (k : Nat) : Hw :=
  countWays ((h.kyd.retired.filter fun u => u.1 == 3 && u.2 / 16 == k).foldl (fun h u => setWayMode h k (u.2 % 16) 3) h) k

/-- The slices the records list leave the home set of a partition at its reset (R556). -/
def recordHomes (h : Hw) (p : Nat) : Hw :=
  let mine := coresOf h p
  let out := h.hom.out.filter (!mine.contains ·) ++ mine.filter fun k => h.kyd.retired.contains (2, k)
  { h with hom := { h.hom with out := out.mergeSort } }

/-! ### Partition reset (R84, R87, R127, R249, R319, R463, R517, R529) -/

/-- Whether element `j` of instance `i` of a register in a PART or FUNC domain is partition `p`'s (R83, R127). -/
def partReg (h : Hw) (p : Nat) (r : Reg) (i j : Nat) : Bool :=
  let pair := ownerQp h i j == some p
  match r.dom with
  | .func => partOfFn i == p
  | .eng => r.n0 == 0x40 && 0x1000 ≤ r.base && pair
  | .part =>
    match r.n0 with
    | 0x5 => if r.id == R_RBT_PART_WAIT.id then j / 8 == p else j == p
    | 0x10 => ownerFlow h (1024 * i + j) == some p
    | 0x18 => i == p
    | 0x80 => ownerGate h i == some p
    | 0x20 => fget h F_QMC_RGN_PART i j == p && fon h F_QMC_RGN_EN i j
    | 0x40 => pair
    | 0x300 => ownerSquare h (i / 2) == some p
    | 0x7 => if r.id == R_PART_QUOTA.id then j / 8 == p else if r.id == R_TS_PORT.id then j / 2 == p else j == p
    | 0x8 => j / 32 == p
    | 0x400 => partOfFn i == p
    | 0x9 => j == p
    | 0xA => srcOwner h j == some p
    | _ => false
  | _ => false

/-- The owner-world bits of a partition's units, cleared (R448). -/
def clearOwnw (h : Hw) (p : Nat) : Hw :=
  let mask := fun (h : Hw) (f : Field) (keep : Nat → Bool) =>
    fset h f ((onesOf f.width (fget h f)).foldl (fun a u => if keep u then a + 2 ^ u else a) 0)
  let h := mask h F_OWNW_SQ0_SQ fun u => ownerSquare h u != some p
  let h := mask h F_OWNW_SQ1_SQ fun u => ownerSquare h (64 + u) != some p
  let h := mask h F_OWNW_GATE_GATE fun u => ownerGate h u != some p
  let h := mask h F_OWNW_ENG_ENG fun u => ownerQuarter h u != some p
  mask h F_OWNW_MISC_RBT fun u => u != p

/-- Messages of a partition's sources leave the queues, and the sources' timers stop (R529). -/
def clearSources (h : Hw) (p : Nat) : Hw :=
  let mine := fun (i : Nat) => srcOwner h i == some p
  let n := h.ints
  { h with ints := { n with
      queue := (n.queue.map fun e => (e.1, e.2.filter (!mine ·))).filter fun e => !e.2.isEmpty,
      flight := n.flight.filter fun f => !mine f.1, kydin := n.kydin.filter (!mine ·),
      firstAt := n.firstAt.filter fun e => !mine e.1, timeOut := n.timeOut.filter fun e => !mine e.1 } }

/-- The DRAM of a partition, zeroed with valid codewords (R87). -/
def clearMemOps (h : Hw) (p : Nat) : List MemOp :=
  (membersOf h p).map fun (q, b, n) => .clear (dkey q (b * 2 ^ 28)) (n * 2 ^ 28)

/-- The hand-offs of a partition's flows leave the endpoint (R249). -/
def dropHandoffs (h : Hw) (p : Nat) : Hw :=
  (List.range 256).foldl (fun h n =>
    let v := fnOf h n
    if v.hof.any fun x => ownerFlow h x.flow == some p then
      setFn h n { v with hof := v.hof.filter fun x => ownerFlow h x.flow != some p,
                         hofSent := v.hofSent && (match v.hof with | x :: _ => ownerFlow h x.flow != some p | [] => false) }
    else h) h

/-- A component update still has a gate or engine of a partition to load (R135). -/
def updateTouches (h : Hw) (p : Nat) : Bool :=
  match h.boot.update with
  | .idle => false
  | .microcode engines _ => (onesOf 24 engines).any fun q => bit (partOf h p).engines q || ownerQuarter h q == some p
  | .seqFirmware gates _ _ _ => (onesOf 64 gates).any fun g => ownerGate h g == some p

/-- A partition reset starts: cores, gates and jobs stop; items and open events are discarded; the domains of R84 clear; with
CLEAR_MEM all its DRAM is zeroed (R84, R87, R249, R319, R463, R529, R556). -/
def startPartReset (h : Hw) (p : Nat) (clear : Bool) : Eff :=
  let h := fset h F_PART_RESET_BUSY (setBit (fget h F_PART_RESET_BUSY) p true)
  let h := fset h F_PART_STATUS_STATE 2 0 p
  let h := if updateTouches h p then { h with boot := { h.boot with metUpdate := setBit h.boot.metUpdate p true } } else h
  let cs := coresOf h p
  let gs := (List.range 64).filter fun g => ownerGate h g == some p
  let ops := scratchOps h p ++ (if clear then clearMemOps h p else [])
  let h := if clear then (membersOf h p).foldl (fun h x => noteClear h x.1 (x.2.1 * 2 ^ 28) (x.2.2 * 2 ^ 28)) h else h
  let h := loseCaches (dropHandoffs h p) p
  let h := gs.foldl clearGate (dropJobs (rbtResetPart h p) p)
  let h := cs.foldl (fun h c =>
    let h := resetCore h c
    if fget h F_CORE_STATUS_STATE c == 3 then h else fset h F_CORE_STATUS_STATE 4 c) h
  let h := { h with hom := { h.hom with wayCe := h.hom.wayCe.filter fun e => !cs.contains (e.1 / 16) } }
  let h := resetPartFns h p
  let old := h
  let h := clearSources h p
  let h := clearRegs h fun r i j => r.dom != .func && partReg old p r i j
  let rgns := ((List.range 24).flatMap fun q => (List.range 8).map fun i => (p, q, i)).filter fun x => partReg old p R_QMC_RGN x.2.1 x.2.2
  let srcs := ((List.range 2064).filter fun i => fon old F_INT_SRC_CFG_OWNED 0 i && srcOwner old i == some p).map fun i => (p, i)
  let h := cs.foldl recordWays (recordHomes h p)
  let h := { h with par := { h.par with
    budget := h.par.budget.filter fun e => !gs.contains e.1, heldGate := h.par.heldGate.filter fun e => !gs.contains e.1,
    nextLimit := tdel h.par.nextLimit p, rgnReset := h.par.rgnReset ++ rgns, srcReset := h.par.srcReset ++ srcs, tsReq := h.par.tsReq.filter fun e => e.1 / 2 != p } }
  { hw := imageResets (clearOwnw (clearPm (setPart h p { partOf h p with started := false }) p) p) p, ops := ops }

/-- PARTITION_RESET: the write sets CLEAR_MEM, and each START bit whose BUSY bit is clear starts a reset (R87, R101). -/
def execPartitionReset (who : Requester) (clearMem start : BitVec 8) (s : State) : Host.Outcome State Fault Refusal :=
  .next (s.act fun h _ => ifMayE h who R_PART_RESET 0 0 fun h =>
    let h := fset h F_PART_RESET_CLEAR_MEM clearMem.toNat
    effEach ((onesOf 8 start.toNat).filter fun p => !bit (fget h F_PART_RESET_BUSY) p) h fun p h =>
      startPartReset h p (bit clearMem.toNat p))

/-! ### Straps and identity (R39, R503) -/

/-- The module address as MOD_ID last sampled gives it, where it is strapped (R39, R503). -/
def strapAddr (h : Hw) : Hw :=
  if h.sup.modId == 0xFFF then fset (fset h F_BLVD_ADDR_SOURCE 0) F_BLVD_ADDR_ADDR 0
  else fset (fset h F_BLVD_ADDR_SOURCE 1) F_BLVD_ADDR_ADDR h.sup.modId.toNat

/-- MOD_ID and BOOT_SEL are sampled (R39, R503). -/
def sampleStraps (h : Hw) (modId : BitVec 12) (bootSel : Bool) : Hw :=
  strapAddr (fset { h with sup := { h.sup with modId := modId, bootSel := bootSel } } F_BOOT_STATUS_STRAP (b2n bootSel))

/-! ### Module resets (R84 to R86, R93, R100, R249, R319, R517, R529) -/

/-- Fields of MOD registers that a module warm reset leaves: what the records hold of a quarter, the GPI levels and the level of
PERST# (R84, R281, R529). -/
def keptField (f : Field) : Bool :=
  [F_QMC_STATUS_STATE, F_QMC_STATUS_MARK1, F_QMC_STATUS_MARK2, F_INT_GPI_CFG_LEVEL, F_HOST_LINK_STATUS_PERST].contains f

/-- The register fields that stay: the AON domain and the fields the records restore. -/
def keptRegs (t : Tab Nat) : Tab Nat :=
  t.filter fun e => match keyReg e.1 with
    | some r => r.dom == .aon || (allFields.any fun f => f.id == e.1 / 2 ^ 32 && keptField f)
    | none => false

/-- What stays of a quarter: its re-silver numbers, journal, checkpoints and a mark that waits (R93, R273, R274). -/
def keptQuarter (v : Quarter) : Quarter :=
  { gen := v.gen, rsChannel := v.rsChannel, journal := v.journal, ckptA := v.ckptA, ckptB := v.ckptB, rsOpen := v.rsOpen,
    markWait := v.markWait, winAt := v.winAt }

/-- The boot state that stays: NOR slots, fuses, Kydin's own slot and firmware, BOOT_ONCE and the kind of the part. -/
def keptBoot (b : Boot) : Boot :=
  let fw0 := fun {α : Type} (t : Tab α) => t.filter fun e => e.1 == 0
  { imgA := b.imgA, imgB := b.imgB, kydA := b.kydA, kydB := b.kydB, kydRunning := b.kydRunning, bootOnce := b.bootOnce,
    partIs384 := b.partIs384, fuseSvn := b.fuseSvn, keyDigests := b.keyDigests, keyRevoked := b.keyRevoked,
    fw := fw0 b.fw, fwChain := fw0 b.fwChain, fwFrom := fw0 b.fwFrom, fwLoad := fw0 b.fwLoad, fwEntry := fw0 b.fwEntry }

/-- The cause bits of RESET_CAUSE (R100). -/
def noteCause (h : Hw) (cause : WarmCause) : Hw :=
  let h := fadd h F_RESET_CAUSE_WARM_COUNT 1
  match cause with
  | .resetPin => fset h F_RESET_CAUSE_RESET_PIN 1
  | .kydinCommand => fset h F_RESET_CAUSE_KYDIN_CMD 1
  | .thermalExit => fset h F_RESET_CAUSE_THERMAL_TRIP 1

/-- Whether a warm reset now ends the thermal trip: every junction is below 85 °C (R68). -/
def tripEnds (h : Hw) : Bool := h.sup.trip && decide (h.sup.junctionMc < 85000)

/-- BOOT_STATUS.FUSE_SVN reads the fuse counter (R136). -/
def fuseFields (h : Hw) : Hw := fset h F_BOOT_STATUS_FUSE_SVN h.boot.fuseSvn

/-- A module warm reset: every domain but AON clears, no cache line is written back, a running transition is abandoned without a
result, and active DRAM goes to self-refresh (R77, R84 to R86, R93, R100). DESIGN CHOICE: the TAP loses its instruction (log 54), and a
switch-over under way and its 1.1 ms wait end without effect (log 76); the spec leaves both open. The module is in M1 at its end; in M0 while a
thermal trip lasts and where no Kydin firmware has been verified (R68, R92, R122). -/
def warmReset (h : Hw) (cause : WarmCause) : Eff :=
  let ends := tripEnds h
  let h := noteCause h cause
  let h := if ends then fset h F_RESET_CAUSE_THERMAL_TRIP 1 else h
  let k := h.kyd
  let n : Hw :=
    { sup := { h.sup with trip := h.sup.trip && !ends, switchTo := none, avgWait := false,
                          jtagInsn := none, tap := .testLogicReset },
      mod := { serviceHold := h.mod.serviceHold, dramRefresh := h.mod.dramRefresh || h.mod.dramActive,
               fwVerified := h.mod.fwVerified, warmReset := true },
      boot := keptBoot h.boot, lan := { eqStored := h.lan.eqStored }, qu := { q := h.qu.q.map fun e => (e.1, keptQuarter e.2) },
      cor := { small := h.cor.small.filter fun e => e.1 == coreKydin },
      host := { out := h.host.out }, blvd := { serial := h.blvd.serial }, ints := { gpiHigh := h.ints.gpiHigh },
      kyd := { k with warmResets := k.warmResets + 1, retirePath := none, retireWait := none, sessionPath := none, mboxAddr := none, retireRun := none, nonce := none },
      now := h.now, freeCtr := h.freeCtr }
  let n := { n with regs := keptRegs h.regs }
  let n := (List.range 8).foldl (fun h p => fset h F_HOSTFN_STATUS_PRESENT 1 p) n
  let n := fset n F_MODE_STATUS_MODE (if n.sup.trip || !n.mod.fwVerified then 0 else 1)
  let n := refreshPermitted (fuseFields n)
  { hw := n, ops := [.scrClear 0 (2 ^ 27)] }

/-- MODULE_WARM_RESET (R84, R86). A reset named as the exit from a thermal trip is one only when it ends a trip (R68). -/
def execModuleWarmReset (cause : WarmCause) (s : State) : Host.Outcome State Fault Refusal :=
  .next (s.act fun h _ => if cause == .thermalExit && !tripEnds h then { hw := h } else warmReset h cause)

/-- RESET_N_PULSE: below 80 ns nothing happens, from 160 ns a module warm reset, between them either (R85; log 7). -/
def execResetNPulse (lenNs : Nat) (s : State) : Host.Outcome State Fault Refusal :=
  .next (s.act fun h _ =>
    if lenNs < 80 then { hw := h }
    else if 160 ≤ lenNs then warmReset h .resetPin
    else
      let (n, h) := takeFree h
      if Config.freeBool n then warmReset h .resetPin else { hw := h })

/-- PROGRESS of a quarter whose re-silver has ended or been abandoned, as its latest RESILVER entry of the lifetime records gives it (R269,
R281, R547). -/
def lifeProgress (h : Hw) (q : Nat) : Hw :=
  match h.kyd.life.find? fun e => e.type == 6 && lget 0 e.body 1 == q with
  | some e => if lget 0 e.body 3 == 1 then h else fset h F_QMC_RESILVER_PROGRESS (lget 0 e.body 4) q
  | none => h

/-- The totals of the latest SNAPSHOT (R548). -/
def lifeTotals (h : Hw) : Hw :=
  match h.kyd.life.find? fun e => e.type == 1 with
  | none => h
  | some e =>
    let b := fun i => lget 0 e.body i
    { h with kyd := { h.kyd with poweredMin := [b 0, b 1, b 2, b 3], thermCycles := b 4, trips := b 5, warmResets := b 8,
                                 erases := [b 9, b 10, b 11] },
             sup := { h.sup with surges := b 6, switchOvers := b 7 } }

/-- The state after a module cold reset: what NOR, fuses and the calendar on VBAT hold, and nothing else; open test modes are locked again,
with their entry (R84, R93, R166, R544, R547, R548, R561). -/
def coldState (h : Hw) : Hw :=
  let k := h.kyd
  let rtc := h.regs.filter fun e => match keyReg e.1 with | some r => r.id == R_KYD_RTC.id | none => false
  let boot := keptBoot h.boot
  let n : Hw :=
    { sup := { pinA := h.sup.pinA, pinB := h.sup.pinB, inserted := h.sup.inserted },
      boot := { boot with kydRunning := none, bootOnce := none, fw := [], fwChain := [], fwFrom := [], fwLoad := [], fwEntry := [] },
      lan := { eqStored := h.lan.eqStored },
      qu := { q := h.qu.q.map fun e => (e.1, { gen := e.2.gen, rsChannel := e.2.rsChannel, ckptA := e.2.ckptA, ckptB := e.2.ckptB,
                                               rsOpen := e.2.rsOpen, markWait := e.2.markWait }) },
      host := { out := h.host.out }, blvd := { serial := h.blvd.serial }, ints := { gpiHigh := h.ints.gpiHigh },
      kyd := { nor := k.nor, life := k.life, lifeSeq := k.lifeSeq, retired := k.retired, spares := k.spares, testFuse := k.testFuse,
               returnDone := k.returnDone },
      freeCtr := h.freeCtr }
  let kept := h.regs.filter fun e =>
    allFields.any fun f => f.id == e.1 / 2 ^ 32 && (keptField f || f == F_KYD_STATUS_RTC_VALID)
  let n := { n with regs := rtc.foldl (fun t e => tins t e.1 e.2) kept }
  let n := (List.range 8).foldl (fun h p => fset h F_HOSTFN_STATUS_PRESENT 1 p) n
  let n := lifeTotals ((List.range 24).foldl lifeProgress <| fuseFields <| if k.testFuse then fset n F_KYD_STATUS_TEST 2 else n)
  if fget h F_KYD_STATUS_TEST != 1 then n else addLife n 9 [fget n F_KYD_STATUS_TEST]

end Sys2Proof.Machine
end

