-- ==== Sys2Proof/Machine/Modes.lean ====
section
/-!
DEFINITION. Supplies, temperature, pins, the moves between modes, and the choice of firmware and image slots.
-/

namespace Sys2Proof.Machine

/-! ### Moves that Kydin drives (R71, R74, R79, R92) -/

/-- The windows that stay powered in a mode: KYD and MODE in M0; BOOT, HOST and HOSTFN too in M1 (R71, R566). -/
def windowStays (m : Nat) (r : Reg) : Bool :=
  r.dom == .aon || r.n0 == 0x0 || r.n0 == 0x1 || (m == 1 && [0x2, 0x8, 0x400].contains r.n0)

/-- Power leaves the dies that M0 or M1 does not run: their state is gone, DRAM goes to self-refresh on the way to M1 where it was
active, and is unpowered in M0; the module address of the straps, the measurement log and the fuse counter hold (R39, R71, R73, R74, R136,
R543). -/
def powerDown (h : Hw) (m : Nat) : Eff :=
  let k := h.kyd
  let n : Hw :=
    { sup := h.sup,
      mod := { transCause := h.mod.transCause, transReq := h.mod.transReq, queueSpill := h.mod.queueSpill, serviceHold := h.mod.serviceHold,
               m1Fall := h.mod.m1Fall, fwVerified := h.mod.fwVerified, pausedBySwitch := h.mod.pausedBySwitch,
               dramRefresh := m == 1 && (h.mod.dramRefresh || h.mod.dramActive), spillLevel := h.mod.spillLevel },
      boot := { keptBoot h.boot with imgRunning := h.boot.imgRunning, meas := h.boot.meas, log := h.boot.log, logIndex := h.boot.logIndex,
                                     logClosed := h.boot.logClosed, bootLen := h.boot.bootLen }, lan := { eqStored := h.lan.eqStored }, qu := { q := h.qu.q.map fun e => (e.1, keptQuarter e.2) },
      cor := { small := h.cor.small.filter fun e => e.1 == coreKydin || (m == 1 && e.1 == 64) },
      host := if m == 1 then h.host else { out := h.host.out }, blvd := { serial := h.blvd.serial },
      ints := { gpiHigh := h.ints.gpiHigh, retained := h.ints.retained, retValid := h.ints.retValid, kydin := h.ints.kydin },
      kyd := { k with mboxAddr := none, retireRun := none, retirePath := none, retireWait := none, sessionPath := none }, now := h.now, freeCtr := h.freeCtr,
      busErr := h.busErr, lastRead := h.lastRead, lastPoison := h.lastPoison, lastResult := h.lastResult }
  let regs := h.regs.filter fun e => match keyReg e.1 with
    | some r => windowStays m r || (allFields.any fun f => f.id == e.1 / 2 ^ 32 && keptField f)
    | none => false
  let n := { n with regs := regs }
  let n := if m == 1 then n else (List.range 8).foldl (fun h p => fset h F_HOSTFN_STATUS_PRESENT 1 p) n
  let n := fset (fset n F_PART_RESET_BUSY 0) F_BOOT_STATUS_LOCKED 0
  { hw := refreshPermitted (fuseFields (strapAddr (showLog n))), ops := .scrClear 0 (2 ^ 27) :: (if m == 0 then [.wipe] else []) }

/-- Kydin takes the module to M0 or M1: a running transition is abandoned, and a queued request ends as from the new mode (R74,
R75). -/
def enterMode (h : Hw) (m cause : Nat) : Eff :=
  let ran := fon h F_MODE_STATUS_IN_TRANSITION
  let h := abandonTransition h
  let h := { h with mod := { h.mod with transCause := cause, transReq := false } }
  let e := powerDown h m
  e.map fun h =>
    let h := reachMode h m
    if ran && !h.sup.avgWait then startQueued h else h

/-- M1 goes on to M2: the voltage permits M2, the service hold is clear, and no fall in voltage is being waited out (R74). The cause
that brought the module to M1 stays its cause. -/
def tryM2 (h : Hw) : Hw :=
  if modeNow h == 1 && permitted h 2 && !h.mod.serviceHold && !h.mod.m1Fall && !h.mod.warmReset && h.mod.fwVerified &&
      !fon h F_MODE_STATUS_IN_TRANSITION
  then startTransition h 2 (fget h F_MODE_STATUS_LAST_CAUSE) false else h

/-! ### Falling supply (R57, R78, R79, R320, R529) -/

/-- Every dirty line of the private caches and of the slices goes back to DRAM, and no line stays (R79). -/
def writeBackAll (h : Hw) (m : Mem) : Eff :=
  let e := effFold h m flushCore (List.range 160)
  let m := m.applyAll e.ops
  let e2 := effFold e.hw (m.applyAll e.ops) (fun h m (l : Nat × CacheLine) => evictLlc h m (l.1 / 2 ^ 46) (l.1 % 2 ^ 46) l.2) e.hw.hom.llc
  { hw := e2.hw, ops := e.ops ++ e2.ops }

/-- What comes before M1 for a fall in voltage: jobs end ABORTED with their records, dirty lines are written back, the interrupt
state is retained, and DRAM goes to self-refresh (R79, R320, R529). -/
def fallWork (h : Hw) (m : Mem) : Eff :=
  let e := supplyAbort h m
  let e2 := writeBackAll e.hw (m.applyAll e.ops)
  let h := retainInts e2.hw
  { hw := { h with mod := { h.mod with dramRefresh := h.mod.dramRefresh || h.mod.dramActive } }, ops := e.ops ++ e2.ops }

/-- The target mode when V_in no longer permits the current one (R78). -/
def fallTarget (h : Hw) : Nat :=
  match modeNow h with
  | 6 => if permitted h 4 then 4 else if bit h.sup.voltOk 3 then 3 else 1
  | 4 => if bit h.sup.voltOk 3 then 3 else 1
  | _ => 1

/-- The rule on falling below the current mode's threshold (R57, R78): a transition to the target starts. DESIGN CHOICE: it takes the
place of a running transition to another mode, permitted or not (log 84). -/
def fallRule (h : Hw) (m : Mem) : Eff :=
  if bit h.sup.voltOk (modeNow h) || modeNow h < 2 then { hw := h }
  else
    let t := fallTarget h
    if fon h F_MODE_STATUS_IN_TRANSITION && fget h F_MODE_STATUS_TARGET == t then { hw := h }
    else
      let h := startTransition (abandonTransition h) t 3 false
      if t == 1 then fallWork h m else { hw := h }

/-- SUPPLY_THRESHOLD_FALL: a lower V_in, and the transition its mode asks for (R56, R57, R78). -/
def execSupplyThresholdFall (vin : Nat) (s : State) : Host.Outcome State Fault Refusal :=
  .next (s.act fun h m => if h.sup.avgWait then { hw := h } else fallRule (setVin h vin) m)

/-- SUPPLY_THRESHOLD_RISE: a higher V_in permits more modes, and M1 goes on to M2 where it may (R56, R74). -/
def execSupplyThresholdRise (vin : Nat) (s : State) : Host.Outcome State Fault Refusal :=
  .next (s.upd fun h => if h.sup.avgWait then h else tryM2 (setVin h vin))

/-- SUPPLY_RECOVERED: 100 ms at 18.0 V or more end the wait after a fall to M1 (R74, R79). -/
def execSupplyRecovered (vin : Nat) (s : State) : Host.Outcome State Fault Refusal :=
  .next (s.upd fun h =>
    if modeNow h == 1 && h.mod.m1Fall && 18000 ≤ vin then
      let h := setVin h vin
      tryM2 { h with mod := { h.mod with m1Fall := false } }
    else h)

/-! ### Inputs, surge, power-fail and switch-over (R49 to R52, R58 to R62) -/

def otherInput : Input → Input
  | .a => .b
  | .b => .a

/-- Code of an input in records and commands (R547, R553). -/
def inputCode : Input → Nat
  | .a => 0
  | .b => 1

/-- A voltage in units of 10 mV; a reversed input reads 0. -/
def tenMv (mv : Int) : Nat := min (mv.toNat / 10) 0xFFFF

/-- A lifetime entry of the supply: kind, input left, V_in before and after, and a duration that no rule gives (R547; log 6). -/
def lifeSupply (h : Hw) (kind : Nat) (i : Input) (before after : Int) : Hw :=
  let (n, h) := takeFree h
  addLife h 4 [kind, inputCode i, tenMv before, tenMv after, Config.freeNat n % 2 ^ 32]

/-- Validity with its hysteresis: from 9.0 V up, until below 8.6 V (R49, R51). -/
def validNow (was : Bool) (mv : Int) : Bool := if 9000 ≤ mv then true else if mv < 8600 then false else was

/-- A switch-over to an input starts, and a running transition waits for it; the startup sequence is no such transition (R59,
R62). -/
def startSwitch (h : Hw) (i : Input) : Hw :=
  let h := { h with sup := { h.sup with switchTo := some i, avgWait := true } }
  if fon h F_MODE_STATUS_IN_TRANSITION then
    fset { h with mod := { h.mod with pausedBySwitch := true } } F_MODE_STATUS_WAIT_SUPPLY 1
  else h

/-- INPUT_VALID: an input becomes valid or invalid. One that becomes valid while the selected input is not is taken as in a
switch-over (R49, R51, R60). -/
def execInputValid (inp : Input) (mv : Int) (s : State) : Host.Outcome State Fault Refusal :=
  .next (s.upd fun h =>
    let p := pinOf h inp
    let v := validNow p.valid mv
    let avg := if h.sup.selected == some inp then p.avg else mv.toNat
    let h := setPin h inp { mv := mv, valid := v, surge := p.surge && decide (60000 < mv), avg := avg }
    let lost := match h.sup.selected with | some i => !(pinOf h i).valid || (i == inp && !p.valid) | none => false
    if powered h && h.sup.switchTo.isNone && v && !p.valid && lost then startSwitch h inp else h)

/-- The power-fail sequence starts: it is recorded, ALARM_N goes low, no crossing is accepted and no write into DRAM is made (R48, R60,
R549). It ends when the hold-up store is exhausted, which `powerLost` is. -/
def powerFail (h : Hw) : Eff :=
  if h.sup.powerFail then { hw := h }
  else
    let i := h.sup.selected.getD .a
    let h := logCode h 4 blkSupply 0 0xFF03 (inputCode i)
    let h := lifeSupply h 4 i h.sup.vin (pinOf h i).mv
    { hw := { h with sup := { h.sup with powerFail := true } } }

/-- SURGE: recorded, and the module leaves a surging selected input where the other is valid (R49, R52). DESIGN CHOICE: an input in surge
counts as valid, also as the target of a switch-over and at power-good, which the table of R49 leaves open (log 45). -/
def execSurge (inp : Input) (mv : Nat) (s : State) : Host.Outcome State Fault Refusal :=
  .next (s.upd fun h =>
    let p := pinOf h inp
    if mv ≤ 60500 || p.surge then h
    else
      let h := setPin h inp { mv := mv, valid := true, surge := true, avg := if h.sup.selected == some inp then p.avg else mv }
      if !powered h then h
      else
        let h := { h with sup := { h.sup with surges := h.sup.surges + 1 } }
        let h := logCode (lifeSupply h 1 inp p.mv mv) 4 blkSupply 0 0xFF02 (inputCode inp)
        if h.sup.selected == some inp && (pinOf h (otherInput inp)).valid && h.sup.switchTo.isNone then startSwitch h (otherInput inp)
        else h)

/-- SURGE_LIMIT_EXPIRY: a surge of the selected input with no other valid one has lasted 100 ms (R52). -/
def execSurgeLimitExpiry (s : State) : Host.Outcome State Fault Refusal :=
  .next (s.act fun h _ =>
    match h.sup.selected with
    | some i => if powered h && (pinOf h i).surge && !(pinOf h (otherInput i)).valid then powerFail h else { hw := h }
    | none => { hw := h })

/-- HOLD_UP_EXPIRY: neither input became valid within 20 µs (R60). -/
def execHoldUpExpiry (s : State) : Host.Outcome State Fault Refusal :=
  .next (s.act fun h _ => if powered h && !h.sup.pinA.valid && !h.sup.pinB.valid then powerFail h else { hw := h })

/-- A condition that starts a switch-over holds of the selected input: invalid, in surge, or below 85 % of its average (R59). -/
def mustSwitch (h : Hw) (i : Input) : Bool :=
  let p := pinOf h i
  !p.valid || p.surge || decide (100 * p.mv < 85 * (h.sup.vin : Int))

/-- SWITCH_OVER (R59, R62). -/
def execSwitchOver (s : State) : Host.Outcome State Fault Refusal :=
  .next (s.upd fun h =>
    match h.sup.selected with
    | some i =>
      if powered h && h.sup.switchTo.isNone && mustSwitch h i && (pinOf h (otherInput i)).valid then startSwitch h (otherInput i)
      else h
    | none => h)

/-- The load is on another input, whose own average is V_in from now on; the kind of change goes to the lifetime records (R53, R58,
R59). -/
def takeInput (h : Hw) (i : Input) (kind : Nat) : Hw :=
  let left := h.sup.selected.getD (otherInput i)
  let before : Int := h.sup.vin
  let h := { h with sup := { h.sup with selected := some i, switchTo := none, vin := (pinOf h i).avg } }
  lifeSupply h kind left before (pinOf h i).mv

/-- SWITCH_OVER_COMPLETE (R59, R61). -/
def execSwitchOverComplete (s : State) : Host.Outcome State Fault Refusal :=
  .next (s.upd fun h =>
    match h.sup.switchTo with
    | some i =>
      let h := { h with sup := { h.sup with switchOvers := h.sup.switchOvers + 1 } }
      raiseSource (logCode (takeInput h i 2) 4 blkSupply 0 0xFF01 (inputCode i)) srcSupply
    | none => h)

/-- SWITCH_OVER_WAIT_END: V_in is averaged; a waiting transition goes on where its target is permitted and is abandoned otherwise; a
queued request follows (R53, R62). -/
def execSwitchOverWaitEnd (vin : Nat) (s : State) : Host.Outcome State Fault Refusal :=
  .next (s.act fun h m =>
    if !(h.sup.avgWait && h.sup.switchTo.isNone) then { hw := h }
    else
      let h := setVin { h with sup := { h.sup with avgWait := false } } vin
      let waited := fon h F_MODE_STATUS_WAIT_SUPPLY
      let go := permitted h (fget h F_MODE_STATUS_TARGET)
      let h := fset { h with mod := { h.mod with pausedBySwitch := false } } F_MODE_STATUS_WAIT_SUPPLY 0
      let h := if waited && !go then abandonTransition h else h
      (fallRule h m).map fun h => if fon h F_MODE_STATUS_IN_TRANSITION then h else tryM2 (startQueued h))

/-! ### The power envelope, junction and inlet (R53, R54, R68, R70) -/

/-- A core clock between 0.8 GHz and a bound, which the limiter chooses (R54; log 7). -/
def chooseClock (h : Hw) (lo hi : Nat) : Hw :=
  let (n, h) := takeFree h
  { h with sup := { h.sup with coreMhz := lo + Config.freeNat n % (hi - lo + 1) } }

/-- A sample of the input power joins those of the last 100 ms, and the stretch above P_env goes on or ends (R53, R54). -/
def notePower (h : Hw) (p : Nat) : Hw :=
  { h with sup := { h.sup with samples := (p :: h.sup.samples).take 100000,
                               overFor := if envNow h < p then h.sup.overFor + 1 else 0 } }

/-- One of the three limits of R53 is passed: the last sample above P_peak, more than 10 ms above P_env, or the average of the last
100 ms above P_env. What the module drew before its first sample counts as 0. -/
def overLimit (h : Hw) (p : Nat) : Bool :=
  decide (powerPeak h.sup.vin < p) || decide (10000 < h.sup.overFor) || decide (100000 * envNow h < h.sup.samples.sum)

/-- The core clock that temperature allows (R68). -/
def clockTop (h : Hw) : Nat := if h.sup.hot100 then 800 else h.sup.thermCap

/-- LIMITER_SAMPLE: past a limit of R53 the limiter lowers core clocks and the engines' issue rate; within the limits and above P_env
it may lower or raise them, and below P_env it may raise them, as far as temperature lets it (R53, R54, R68). DESIGN CHOICE: which it
does in the 10 ms that R53 allows above P_env is open, since the spec does not say when the limiter acts there (log 49). -/
def execLimiterSample (powerMw : Nat) (s : State) : Host.Outcome State Fault Refusal :=
  .next (s.upd fun h =>
    if !powered h then h
    else
      let h := notePower h powerMw
      let top := clockTop h
      if overLimit h powerMw then
        let h := chooseClock h 800 (max 800 (min h.sup.coreMhz top))
        { h with sup := { h.sup with engLimited := true } }
      else
        let above := decide (envNow h < powerMw)
        let (n, h) := takeFree (chooseClock h (if above then min 800 top else min h.sup.coreMhz top) top)
        { h with sup := { h.sup with engLimited := (above || h.sup.engLimited) && Config.freeBool n } })

/-- The thermal trip: the module enters M0 with ALARM_N low; one that is in M0 stays there (R48, R68, R74). A trip that has not been
ended is the same trip. -/
def thermalTrip (h : Hw) : Eff :=
  if modeNow h == 0 && h.sup.trip then { hw := h }
  else
    let h := { h with sup := { h.sup with trip := true }, kyd := { h.kyd with trips := h.kyd.trips + 1 } }
    let h := logCode h 4 blkThermal 0 0xFF04 110
    if modeNow h == 0 then { hw := h } else enterMode h 0 5

/-- A junction reading: thermal cycles are counted, and the time since which it is below 98 °C is held (R96, R547). -/
def setJunction (h : Hw) (t : Int) : Hw :=
  let k := h.kyd
  let k := if t < 40000 then { k with cold40 := true }
    else if 85000 ≤ t && k.cold40 then { k with cold40 := false, thermCycles := k.thermCycles + 1 } else k
  let cool := if 98000 ≤ t then none else some (h.sup.coolSince.getD h.now)
  { h with sup := { h.sup with junctionMc := t, coolSince := cool }, kyd := k }

/-- JUNCTION_THRESHOLD: the actions at 95, 100, 105 and 110 °C and their ends at 93 and 98 °C (R68, R94). -/
def execJunctionThreshold (milliC : Int) (s : State) : Host.Outcome State Fault Refusal :=
  .next (s.act fun h _ =>
    let h := setJunction h milliC
    let warm := h.sup.throttle
    let hot := h.sup.hot100
    let throttle := if 95000 ≤ milliC then true else if milliC < 93000 then false else warm
    let hot100 := if 100000 ≤ milliC then true else if milliC < 98000 then false else hot
    let h := { h with sup := { h.sup with throttle := throttle, hot100 := hot100 } }
    let h := if throttle && !warm then
        logCode { h with sup := { h.sup with thermCap := min h.sup.thermCap h.sup.coreMhz } } 4 blkThermal 0 0xFF04 95
      else h
    let h := if hot100 then { h with sup := { h.sup with coreMhz := 800, thermCap := 800 } } else h
    let h := if hot100 && !hot then raiseSource (logCode h 4 blkThermal 0 0xFF04 100) srcThermal else h
    if 110000 ≤ milliC then thermalTrip h
    else if 105000 ≤ milliC && modeNow h != 7 then fatal h blkThermal 0 0xFF04 105 .junction []
    else { hw := h })

/-- THERMAL_STEP: core clocks move by 100 MHz, down to 0.8 GHz while throttled and back up afterwards; where nothing has been throttled
they stay (R68). DESIGN CHOICE: the way up is 100 MHz a step to 3.6 GHz, where R68 says only that they step back up every 1 ms
(log 50). -/
def execThermalStep (s : State) : Host.Outcome State Fault Refusal :=
  .next (s.upd fun h =>
    if h.sup.hot100 then { h with sup := { h.sup with coreMhz := 800, thermCap := 800 } }
    else if h.sup.throttle then
      let mhz := max 800 (h.sup.coreMhz - 100)
      { h with sup := { h.sup with coreMhz := mhz, thermCap := mhz } }
    else if h.sup.thermCap < 3600 then
      let cap := min 3600 (h.sup.thermCap + 100)
      { h with sup := { h.sup with coreMhz := min cap (h.sup.coreMhz + 100), thermCap := cap } }
    else h)

/-- THERMAL_TRIP: 105 °C for 100 ms after entry to M7, or 110 °C (R68). -/
def execThermalTrip (milliC : Int) (s : State) : Host.Outcome State Fault Refusal :=
  .next (s.act fun h _ =>
    if 110000 ≤ milliC || (105000 ≤ milliC && modeNow h == 7) then thermalTrip (setJunction h milliC) else { hw := h })

/-- INLET_WARNING: above 45 °C Kydin reports a warning, and nothing else follows (R70). DESIGN CHOICE: the source is raised once for each
rise through 45 °C, and the warning ends at 45 °C without hysteresis, which R70 leaves open (log 51). -/
def execInletWarning (milliC : Int) (s : State) : Host.Outcome State Fault Refusal :=
  .next (s.upd fun h =>
    let over' := decide (45000 < milliC)
    let was := h.sup.inletWarn
    let h := { h with sup := { h.sup with inletWarn := over' } }
    if over' && !was then raiseSource h srcInlet else h)

/-! ### Regulators, insertion and the TAP (R37, R40, R50, R95, R451, R559) -/

/-- The partition that alone owns the unit a rail feeds, and whether an owner-world bit of the unit is set; Roundabout serves every partition (R448). -/
def railOwner (h : Hw) : RailUnit → Option Nat × Bool
  | .square s => (ownerSquare h s, ownerWorld h 1 s)
  | .gate g => (ownerGate h g, ownerWorld h 2 g)
  | .engine q => (ownerQuarter h q, ownerWorld h 3 q)
  | .roundabout => (none, fget h F_OWNW_MISC_RBT != 0)
  | .avenue | .other => (none, false)

/-- BLOCK code and number of the unit a rail feeds. -/
def railBlock : RailUnit → Nat × Nat
  | .avenue => (blkAve, 0)
  | .square s => (blkCore, s)
  | .gate g => (blkGate, g)
  | .engine q => (blkEng, q)
  | .roundabout => (blkRbt, 0)
  | .other => (blkSupply, 0)

/-- Every partition whose secure world depends on the unit has its secure-fault source raised (R451). -/
def railSources (h : Hw) (u : RailUnit) : Hw :=
  match u with
  | .roundabout => (onesOf 8 (fget h F_OWNW_MISC_RBT)).foldl (fun h p => raiseSource h (srcPart p 2)) h
  | _ =>
    match railOwner h u with
    | (some p, true) => raiseSource h (srcPart p 2)
    | _ => h

/-- REGULATOR_FAULT: power-good ends. The Avenue rail and a rail of no single unit are fatal; the rail of a partition's unit takes
the partition down (R11, R12, R50, R95, R451). -/
def execRegulatorFault (rail : RailUnit) (s : State) : Host.Outcome State Fault Refusal :=
  .next (s.act fun h _ =>
    let (b, u) := railBlock rail
    let (p, sec) := railOwner h rail
    let code := if sec then 0xFF06 else (Config.openCode b).toNat
    let h := railSources h rail
    let e : Eff :=
      match rail, p with
      | .avenue, _ => fatal h b u code u .avenueRail []
      | .other, _ | _, none => fatal h b u code u .other []
      | _, some p => takeDown (logCode h 2 b u code u (partByte p sec)) p
    e.map fun h => { h with sup := { h.sup with powerGood := false, railFault := h.sup.railFault + 1 } })

/-- MODULE_INSERTION (R37). -/
def execModuleInsertion (inserted : Bool) (s : State) : Host.Outcome State Fault Refusal :=
  .next (s.upd fun h => { h with sup := { h.sup with inserted := inserted } })

/-- What an instruction puts into the boundary-scan register: EXTEST, another that drives pins and SAMPLE/PRELOAD update it, the others
leave it (R40). -/
def scanAfter (h : Hw) : BitVec 23 :=
  if tapBypass h then h.sup.scan
  else match h.sup.jtagInsn with
    | some (.extest c) | some (.drivesPins c) | some (.sample c) => c
    | _ => h.sup.scan

/-- JTAG_INSTRUCTION: the TAP holds the instruction and has updated the boundary-scan register with what was shifted in, where the
instruction selects it; `tapBypass` says whether it acts as BYPASS in the mode the module is in, and `outputOf` what it drives (R40,
R559). DESIGN CHOICE: the data shifted is the command's operand, and the TAP comes to rest in Run-Test/Idle (log 75). -/
def execJtagInstruction (i : JtagInsn) (s : State) : Host.Outcome State Fault Refusal :=
  .next (s.upd fun h =>
    let h := { h with sup := { h.sup with jtagInsn := some i, tap := .runTestIdle } }
    { h with sup := { h.sup with scan := scanAfter h } })

/-! ### Power-good and the firmware of Kydin (R39, R50, R58, R67, R74, R84, R90, R122) -/

/-- The store is exhausted: power-good ends, and all state but the calendar is lost (R50, R60). -/
def powerLost (h : Hw) : Eff :=
  let n := coldState h
  { hw := fset { n with sup := { n.sup with lostBoth := true } } F_MODE_STATUS_MODE 0, ops := [.wipe, .scrClear 0 (2 ^ 27)] }

/-- The calendar after a loss of power: on a good VBAT it has run on for a time that nothing measures; without VBAT it stands where it
was, and its time is invalid (R67; log 52). -/
def rtcAfterLoss (h : Hw) (vbatOk : Bool) : Hw :=
  if vbatOk then
    let (n, h) := takeFree h
    rtcAdd h (Config.freeNat n)
  else fset h F_KYD_STATUS_RTC_VALID 0

/-- POWER_GOOD: the module selects input A where it is valid and B otherwise, samples its straps and enters M0; after both inputs
were lost every domain clears. It comes after the end of a power-fail sequence that runs (R39, R50, R58, R60, R67, R84, R90). -/
def execPowerGood (modId : BitVec 12) (bootSel vbatOk : Bool) (s : State) : Host.Outcome State Fault Refusal :=
  .next (s.act fun h _ =>
    if (h.sup.powerGood && !h.sup.powerFail) || !(h.sup.pinA.valid || h.sup.pinB.valid) then { hw := h }
    else
      let cold := h.sup.lostBoth || h.sup.powerFail
      let e : Eff := if cold then { hw := coldState h, ops := [.wipe, .scrClear 0 (2 ^ 27)] } else powerDown (abandonTransition h) 0
      e.map fun h =>
        let sel := if h.sup.pinA.valid then Input.a else .b
        let h := { h with sup := { h.sup with powerGood := true, powerFail := false, lostBoth := false, railFault := 0, selected := some sel,
                                              switchTo := none, avgWait := false },
                          mod := { h.mod with fwVerified := false, warmReset := false },
                          boot := { h.boot with kydRunning := none, imgRunning := none } }
        let h := if cold then rtcAfterLoss h vbatOk else h
        let h := sampleStraps (setVin h (pinOf h sel).mv.toNat) modId bootSel
        fset (fset h F_MODE_STATUS_MODE 0) F_MODE_STATUS_LAST_CAUSE 0)

/-- KYDIN_FIRMWARE_VERIFIED: the ROM takes the first valid Kydin slot in the order of BOOT_SEL and M1 follows; with neither, the
module stays in M0 with ALARM_N low (R74, R122). -/
def execKydinFirmwareVerified (s : State) : Host.Outcome State Fault Refusal :=
  .next (s.act fun h _ =>
    if !(h.sup.powerGood && modeNow h == 0 && !h.mod.fwVerified && h.boot.kydRunning.isNone && !h.mod.warmReset && !h.sup.trip) then
      { hw := h }
    else
      let imgA := slotImage h.boot.kydA kydinSlotSize
      let imgB := slotImage h.boot.kydB kydinSlotSize
      let ok := fun b => imageOk h imgKydin kydinSlotSize (if b then imgB else imgA)
      let first := firstBySeq h.sup.bootSel (imgSequence imgA) (imgSequence imgB)
      match [first, !first].find? ok with
      | none => { hw := { h with sup := { h.sup with alarmKydin := 1 } } }
      | some b =>
        let img := if b then imgB else imgA
        let fw := (((imgRecs img).getD []).find? fun r => r.type == rtFirmware).getD
          { off := 0, type := 0, flags := 0, target := 0, body := [], raw := [] }
        let boot := { h.boot with kydRunning := some b, fw := tins h.boot.fw 0 (fw.body.drop 8),
                                  fwLoad := tset 0 h.boot.fwLoad 0 (num fw.body 0 4),
                                  fwEntry := tset 0 h.boot.fwEntry 0 (num fw.body 4 4),
                                  fwChain := tins h.boot.fwChain 0 (imgChain img),
                                  fwFrom := tset 0 h.boot.fwFrom 0 (256 * imgKydin + b2n b) }
        let h := loadSmall { h with boot := boot } coreKydin (num fw.body 0 4) (num fw.body 4 4) (fw.body.drop 8)
        let h := { h with mod := { h.mod with fwVerified := true }, sup := { h.sup with alarmKydin := 0 } }
        (enterMode h 1 (fget h F_MODE_STATUS_LAST_CAUSE)).map tryM2)

/-! ### IMAGE_SELECTION (R120, R121) -/

/-- The startup sequence runs and has done `n` steps. -/
def startupAt (h : Hw) (n : Nat) : Bool :=
  modeNow h == 2 && h.mod.stepsDone == n && !h.mod.warmReset && !fon h F_MODE_STATUS_IN_TRANSITION

/-- IMAGE_SELECTION: both slots are verified and the first one that boots is taken; the states go to the slot-state sectors and to
BOOT_STATUS. With none, the module goes to M1 with the service hold set (R74, R120, R121, R128, R136). -/
def execImageSelection (s : State) : Host.Outcome State Fault Refusal :=
  .next (s.act fun h _ =>
    if !startupAt h 0 then { hw := h }
    else
      let imgA := slotImage h.boot.imgA imageSlotSize
      let imgB := slotImage h.boot.imgB imageSlotSize
      let okA := imageOk h imgModule imageSlotSize imgA
      let okB := imageOk h imgModule imageSlotSize imgB
      let first := match h.boot.bootOnce with
        | some b => b
        | none => firstBySeq h.sup.bootSel (imgSequence imgA) (imgSequence imgB)
      let h := { h with boot := { h.boot with bootOnce := none } }
      let (h, chosen) := chooseSlot h (fun b => if b then okB else okA) [first, !first]
      let h := fset h F_BOOT_STATUS_STRAP (b2n h.sup.bootSel)
      match chosen with
      | none =>
        let h := showSlots { h with mod := { h.mod with serviceHold := true } }
        enterMode h 1 (fget h F_MODE_STATUS_LAST_CAUSE)
      | some b =>
        let img := if b then imgB else imgA
        let recs := (imgRecs img).getD []
        let h := setImgSlot h b (bootedSlot (imgSlot h b))
        let h := { h with boot := { h.boot with imgRunning := some b, chain := imgChainValues img recs, recordsDone := false },
                          mod := { h.mod with stepsDone := 1 } }
        let h := fset (fset h F_BOOT_STATUS_SLOT (b2n b)) F_BOOT_STATUS_FALLBACK (b2n (b != first))
        { hw := showSlots (fset h F_BOOT_STATUS_IMAGE_SVN (imgSvn img)) })

/-! ### Requests and the end of transitions (R74 to R81, R98) -/

/-- MODE_REQUEST: a write numbers the request and starts it, queues it, or ends it at once (R75, R76, R97, R98). -/
def execModeRequest (who : Requester) (mode : BitVec 3) (s : State) : Host.Outcome State Fault Refusal :=
  .next (s.upd fun h => ifMay h who R_MODE_REQUEST 0 0 fun h =>
    let (h, r) := requestMode h mode.toNat false
    answer h F_MODE_REQUEST_RESULT F_MODE_REQUEST_SEQ r)

/-- Nothing of the ingest that stopped is left to do: every accepted crossing is written and every event closed (R81). -/
def ingestDrained (h : Hw) : Bool :=
  h.ave.cp0.acc.isEmpty && h.ave.cp1.acc.isEmpty && h.ave.cp2.acc.isEmpty && h.ave.accFinal.isEmpty && (h.rbt.entries.all fun e => e.closed.isSome) &&
    (h.lan.gate.all fun e => e.2.msgs.isEmpty && e.2.frag.isNone)

/-- The module arrives at the target of a transition; from M7 the partitions that were held run again, and with the trigger partition
its configuration is no longer frozen (R25, R71, R80, R81, R90, R96). -/
def arrive' (h : Hw) (t : Nat) : Hw :=
  let was := modeNow h
  let h := reachMode h t
  if t == 2 then { h with mod := { h.mod with stepsDone := 0 } }
  else
    let h := holdBlocks h t
    if was == 7 then
      let h := (List.range 8).foldl (fun h p =>
        if fget h F_PART_STATUS_STATE 0 p == 4 then
          let h := fset h F_PART_STATUS_STATE 1 0 p
          if p == h.boot.trigPart then fset h F_AVE_STATUS_CFG_FROZEN 0 else h
        else h) h
      { h with mod := { h.mod with containTempOnly := false } }
    else h

/-- The queued request starts, where no transition and no switch-over wait runs (R62, R75). -/
def startIfFree (h : Hw) : Hw := if fon h F_MODE_STATUS_IN_TRANSITION || h.sup.avgWait then h else startQueued h

/-- MODE_TRANSITION_END: the running transition completes, a stop of ingest first draining, and the queued request starts; a switch-over
wait keeps the queue waiting (R62, R71, R74, R75, R81); gate reports that waited for Roundabout are handled (R249). DEDUCED: a target
that is no longer permitted is not entered: the transition is abandoned and the rule on falling follows (R56, R57, R73; log 53). -/
def execModeTransitionEnd (s : State) : Host.Outcome State Fault Refusal :=
  .next (s.act fun h m =>
    let t := fget h F_MODE_STATUS_TARGET
    if !fon h F_MODE_STATUS_IN_TRANSITION || fon h F_MODE_STATUS_WAIT_SUPPLY then { hw := h }
    else if t == 1 then
      let e := fallWork h m
      let e2 := powerDown e.hw 1
      let h1 := reachMode e2.hw 1
      { hw := startIfFree { h1 with mod := { h1.mod with m1Fall := true } }, ops := e.ops ++ e2.ops }
    else if h.mod.stopping && !ingestDrained h then { hw := h }
    else if !permitted h t then (fallRule (abandonTransition h) m).map startIfFree
    else (takeReports (arrive' h t) m).map startIfFree)

/-- Block whose fatal record names a cause of M7 (R94, R95). -/
def causeBlock : ContainCause → Nat
  | .avenueRail => blkAve
  | .linkDie _ => blkGate
  | .clkxLock => blkTiming
  | .junction => blkThermal
  | .chain => blkBoot
  | .gridLink => blkStr
  | .other => blkKydin

/-- CONTAIN_ENTRY: a fatal error takes the module to M7, and the partitions its record names down (R11, R94, R95). -/
def execContainEntry (f : FatalCause) (s : State) : Host.Outcome State Fault Refusal :=
  .next (s.act fun h _ =>
    let b := causeBlock f.cause
    let code := if f.cause == .junction then 0xFF04 else (Config.openCode b).toNat
    fatal h b 0 code 0 f.cause (onesOf 8 f.parts.toNat))

/-! ### The end of a module warm reset (R39, R92, R550) -/

/-- Sectors of 64 records of the NOR error log (R546, R550). -/
def norSectors : Nat := 7648

/-- Records that NOR does not hold yet go there; those that remain of them are in the ring. The log overwrites its oldest sector when it
wraps (R550). -/
def flushLog (h : Hw) : Hw :=
  let done := fget h F_KYD_ELOG_SEQ_FLUSHED
  let next := fget h F_KYD_ELOG_SEQ_NEXT
  let stored := h.kyd.nor.map fun o => ((h.kyd.ring.find? fun r => r.seq == o.seq).getD o)
  let new := h.kyd.ring.filter fun r => decide (done ≤ r.seq)
  let left := stored.filter fun o => decide (o.seq < done) && decide ((next - 1) / 64 < o.seq / 64 + norSectors)
  let erased := new.filter fun r => r.seq % 64 == 0 && decide (64 * norSectors ≤ r.seq)
  noteErases (fset { h with kyd := { h.kyd with nor := (new ++ left).take (64 * norSectors) } } F_KYD_ELOG_SEQ_FLUSHED next) erased.length

/-- WARM_RESET_END: records are flushed, straps sampled, and the module enters M1 and goes on; while a thermal trip lasts it stays in
M0 (R39, R68, R92, R550). -/
def execWarmResetEnd (modId : BitVec 12) (bootSel : Bool) (s : State) : Host.Outcome State Fault Refusal :=
  .next (s.upd fun h =>
    if !h.mod.warmReset then h
    else
      let h := sampleStraps (flushLog { h with mod := { h.mod with warmReset := false } }) modId bootSel
      if h.sup.trip || !h.mod.fwVerified then h
      else
        let h := { h with mod := { h.mod with transCause := 6 } }
        tryM2 (reachMode h 1))

end Sys2Proof.Machine
end

