-- ==== Sys2Proof/Machine/Quarters.lean ====
section
/-!
DEFINITION. The memory quarters: the code of a beat, reads and writes, scrub, marks, re-silver and retraining; and the window starts and the
coalescing time that module time goes on to.
-/

namespace Sys2Proof.Machine

/-! ### Marks and re-silver (R269 to R274, R277) -/

/-- A journal or a checkpoint of a re-silver: 28 bytes and their CRC-32 (R273). -/
def sealRec (b : List Byte) : List Byte := b ++ leBytes 4 (crc32 b)

/-- A record of 32 bytes with its MAGIC and a CRC that holds (R273, R274). -/
def resilverRecOk (magic : Nat) (b : List Byte) : Bool := b.length == 32 && num b 0 2 == magic && num b 28 4 == crc32 (b.take 28)

/-- The bytes of a journal (R273). -/
def journalBytes (q ch progress ckpt gen start : Nat) : List Byte :=
  sealRec (leBytes 2 0x4A51 ++ leBytes 1 q ++ leBytes 1 ch ++ leBytes 4 progress ++ leBytes 4 ckpt ++ leBytes 4 gen ++ leBytes 8 start ++
    zeros 4)

/-- The bytes of a checkpoint (R273). -/
def ckptBytes (q ch progress gen time : Nat) : List Byte :=
  sealRec (leBytes 2 0x4351 ++ leBytes 1 q ++ leBytes 1 ch ++ leBytes 4 progress ++ leBytes 4 gen ++ zeros 4 ++ leBytes 8 time ++ zeros 4)

/-- NOR offset of a quarter's checkpoint sector in either part (R273). -/
def ckptOffset (q : Nat) : Nat := 0x02101000 + 0x1000 * q

/-- Write the journal of a running re-silver; the module time at its start stays (R273). -/
def writeJournal (h : Hw) (q : Nat) : Hw :=
  let v := quarterOf h q
  let start := if resilverRecOk 0x4A51 v.journal then num v.journal 0x10 8 else gateTime h
  setQuarter h q { v with journal := journalBytes q (v.rsChannel.getD 0xF) (fget h F_QMC_RESILVER_PROGRESS q)
                                       (fget h F_QMC_RESILVER_CHECKPOINT q) v.gen start }

/-- A RESILVER lifetime entry: GEN, quarter, channel, event 1 start, 2 end or 3 abandoned, PROGRESS (R547). -/
def lifeResilver (h : Hw) (q event : Nat) : Hw :=
  let v := quarterOf h q
  addLife h 6 [v.gen, q, v.rsChannel.getD 0xF, event, fget h F_QMC_RESILVER_PROGRESS q]

/-- Start a re-silver of data channel `k` at PROGRESS 0 (R271, R571). -/
def startResilver (h : Hw) (q k : Nat) : Hw :=
  let h := fset h F_QMC_STATUS_STATE qResilver q
  let h := fset h F_QMC_STATUS_RS_PAUSED 0 q
  let h := fset h F_QMC_RESILVER_PROGRESS 0 q
  let h := fset h F_QMC_RESILVER_CHECKPOINT 0 q
  let v := quarterOf h q
  let h := setQuarter h q { v with gen := v.gen + 1, rsChannel := some k, rsOpen := true, journal := [] }
  lifeResilver (writeJournal h q) q 1

/-- Every partition that owns memory in a LOST quarter goes down. The event has one record, contained class, which names the
lowest-numbered of them (R12, R269). -/
def quarterLost (h : Hw) (q : Nat) : Eff :=
  let ps := (List.range 8).filter fun p => ownsIn h p q
  effEach ps (match ps with
    | p :: _ => logReg h 2 blkQmc q R_QMC_STATUS q 0 (partByte p false)
    | [] => logReg h 0 blkQmc q R_QMC_STATUS q) fun p h => takeDown h p

/-- DOUBLE: the quarter's unprotected source and the alarm cause (R269, R545, R563). -/
def unprotected (h : Hw) (q : Nat) : Hw := setCause (raiseSource h (srcQuarter q 0)) F_KYD_STATUS_UNPROTECTED

/-- A MARK lifetime entry: quarter, channel and cause, 1 threshold, 2 training, 3 command (R269, R547). -/
def listMark (h : Hw) (q k cause : Nat) : Hw := addLife h 5 [q, k, cause]

/-- A mark takes effect: record, lifetime entry where it is not `listed` yet, source, and the change of state of R269. A channel already
marked keeps its mark. -/
def applyMark (h : Hw) (q k cause : Nat) (listed : Bool := false) : Eff :=
  if mark1 h q == some k || mark2 h q == some k || qState h q == qLost then { hw := h } else
    let st := qState h q
    let h := if (mark1 h q).isNone then fset h F_QMC_STATUS_MARK1 k q
             else if (mark2 h q).isNone then fset h F_QMC_STATUS_MARK2 k q else h
    let note := fun (h : Hw) =>
      let h := raiseSource h (srcQuarter q 2)
      if listed then h else listMark h q k cause
    let fin := fun (h : Hw) => logReg (note h) 0 blkQmc q R_QMC_STATUS q
    if st == qNormal then
      if k < 8 then
        let h := fin (fset h F_QMC_STATUS_STATE qMarked q)
        if fon h F_QMC_CONFIG_RS_AUTO q then { hw := startResilver h q k } else { hw := h }
      else { hw := fin (fset h F_QMC_STATUS_STATE qSpared q) }
    else if st == qDouble then
      quarterLost (setCause (note (fset h F_QMC_STATUS_STATE qLost q)) F_KYD_STATUS_UNPROTECTED) q
    else
      let h := if st == qResilver then
          let h := lifeResilver h q 3
          setQuarter h q { quarterOf h q with rsOpen := false }
        else h
      { hw := unprotected (fin (fset h F_QMC_STATUS_STATE qDouble q)) q }

/-- The marks that waited take effect, in order; the lifetime records list them already (R269, R277). -/
def waitingMarks (h : Hw) (q : Nat) : Eff :=
  effEach (quarterOf h q).markWait (setQuarter h q { quarterOf h q with markWait := [] }) fun x h => applyMark h q x.1 x.2 true

/-- Catch-up ends: the channel is read again, and the marks that waited take effect (R276, R277). -/
def endCatchup (h : Hw) (q : Nat) : Eff :=
  let h := fset h F_QMC_STATUS_CATCHUP 0 q
  waitingMarks (fset h F_QMC_STATUS_RETRAIN_CH 0xF q) q

/-- Training has ended: catch-up runs over the dirty granules, or ends at once with none (R276). -/
def startCatchup (h : Hw) (q : Nat) : Eff :=
  let h := fset h F_QMC_STATUS_RETRAINING 0 q
  let h := fset h F_QMC_STATUS_CATCHUP 1 q
  if (quarterOf h q).dirty.isEmpty then endCatchup h q else { hw := h }

/-- The result of a RETRAIN command that still runs (R281). -/
def retrainResult (h : Hw) (q code : Nat) : Hw :=
  if fget h F_QMC_CTRL_RESULT q == rcRunning then fset h F_QMC_CTRL_RESULT code q else h

/-- A mark of a channel waits for the end of a catch-up; the lifetime records list it at once (R269, R277). -/
def waitMark (h : Hw) (q k cause : Nat) : Hw :=
  let v := quarterOf h q
  if (v.markWait.any fun x => x.1 == k) || mark1 h q == some k || mark2 h q == some k then h
  else listMark (setQuarter h q { v with markWait := v.markWait ++ [(k, cause)] }) q k cause

/-- A mark of channel `k`: during a retraining of another channel it ends that with ABANDONED and waits for catch-up; of the channel in
retraining or catch-up it ends both, since a marked channel is not retrained, and what waited takes effect before it (R269, R275,
R277; DEDUCED, log 90). -/
def markChannel (h : Hw) (q k cause : Nat) : Eff :=
  let training := fon h F_QMC_STATUS_RETRAINING q
  if !training && !fon h F_QMC_STATUS_CATCHUP q then applyMark h q k cause
  else if fget h F_QMC_STATUS_RETRAIN_CH q != k then
    if training then startCatchup (retrainResult (waitMark h q k cause) q 6) q else { hw := waitMark h q k cause }
  else
    let h := fset (if training then retrainResult h q 6 else h) F_QMC_STATUS_RETRAINING 0 q
    (endCatchup (setQuarter h q { quarterOf h q with dirty := [] }) q).bind fun h => applyMark h q k cause

/-- A mark of channel `k` takes effect at once: no other channel is read around in a retraining, and it holds no mark (R269, R277). -/
def markTakes (h : Hw) (q k : Nat) : Bool :=
  let busy := (fon h F_QMC_STATUS_RETRAINING q || fon h F_QMC_STATUS_CATCHUP q) && fget h F_QMC_STATUS_RETRAIN_CH q != k
  !busy && mark1 h q != some k && mark2 h q != some k && qState h q != qLost

/-- A symbol corrected on physical channel `ch`: counted, and a mark at the threshold; one record, which a mark that takes effect writes
(R12, R269, R270). -/
def countCorrected (h : Hw) (q ch : Nat) : Eff :=
  let h := fadd h F_QMC_CHERR_CE_TOTAL 1 q ch
  let h := fadd h F_QMC_CHERR_CE_WINDOW 1 q ch
  let h := pmu pmuQmc h q 0x08 1
  let note := fun (h : Hw) => logReg h 0 blkQmc q R_QMC_CHERR q ch
  let t := fget h F_QMC_CONFIG_MARK_THRESH q
  if t != 0 && decide (t ≤ fget h F_QMC_CHERR_CE_WINDOW q ch) then markChannel (if markTakes h q ch then h else note h) q ch 1
  else { hw := note h }

/-- The counts that the decoded beats of quad-line `n` bring (R255, R269). -/
def countBeats (h : Hw) (q n : Nat) (bs : List BeatRead) : Eff :=
  effEach bs.zipIdx h fun (b, i) h =>
    match b.out with
    | .intact | .marker => { hw := h }
    | .corrected j => countCorrected h q (channelOf h q n j)
    | .uncorrectable => { hw := countUncorrectable h q (256 * n + 16 * i) }

/-- The counts that a read of quad-line `n` brings, with the lines it finds a stored marker in (R255, R266, R269). -/
def countQuad (h : Hw) (q n : Nat) (bs : List BeatRead) : Eff :=
  (countBeats h q n bs).map fun h => fadd h F_QMC_UE_POISON_READS (markedLines bs) q

/-! ### Reads and writes (R256 to R260, R278, R279) -/

/-- The asker of a quarter request. -/
def reqAsker (h : Hw) : MemReq → Asker
  | .kydin => .kydin
  | .agent p s | .slice _ p s => askerIn h p.val s

def reqPart : MemReq → Option Nat
  | .kydin => none
  | .agent p _ => some p.val
  | .slice _ p _ => some p.val

/-- Bytes of a quarter (R251). -/
def quarterBytes (h : Hw) : Nat := 256 * quadLines h

/-- Why a quarter refuses an access: its address names no cell, or the region registers do not allow its first byte, or its last where that
lies in another 2 MiB unit; the state in which that has been counted (R5, R251, R265, R278, R279). DEDUCED: an address beyond the cells
of a 384 part is a bus error (log 72). -/
def refusesAt (h : Hw) (q : Nat) (req : MemReq) (a n : Nat) (write : Bool) : Option Hw :=
  if quarterBytes h < a + n then some (setBusErr h true)
  else ([a, a + (n - 1)].find? fun x => !regionAllows h (reqAsker h req) q x).map fun x =>
    setBusErr (pmu pmuQmc (violate h (reqAsker h req) q x write) q 0x0B 1 (reqPart req)) true

/-- The physical address of a quarter address of a partition: R264 the other way round. -/
def physOf (h : Hw) (p q qa : Nat) : Option Nat :=
  let ms := membersOf h p
  let base := fget h F_MEM_PART_BASE_256M 0 p * 2 ^ 28
  let il := fget h F_MEM_PART_INTERLEAVE 0 p
  let g := if il == 0 then 4096 else 256
  (ms.zipIdx.find? fun e => e.1.1 == q && decide (e.1.2.1 * 2 ^ 28 ≤ qa) && decide (qa < (e.1.2.1 + e.1.2.2) * 2 ^ 28)).map fun (x, j) =>
    let d := qa - x.2.1 * 2 ^ 28
    base + (if il == 2 then ((ms.take j).map (·.2.2)).sum * 2 ^ 28 + d else (d / g * ms.length + j) * g + d % g)

/-- DRAM_READ: one burst of the quad-line; region check, decode of each beat, counts, the line and its poison bit as the answer,
and offers of the other three lines to their homes where an LLC slice asks (R255, R257, R266, R278, R279). -/
def execDramRead (q : Fin 24) (req : MemReq) (qa : BitVec 35) (errs : List SymErr) (s : State) :
    Host.Outcome State Fault Refusal :=
  .next (s.act fun h m =>
    let a := qa.toNat
    match refusesAt h q.val req a 1 false with
    | some h => { hw := h }
    | none =>
      let n := a / 256
      let l := a % 256 / 64
      let bs := readQuad h m q.val n errs
      let e := countQuad (pmuBursts (setBusErr h false) q.val 0x01 1 (reqPart req)) q.val n bs
      e.map fun h =>
        let h := { h with lastResult := lineBytes bs l ++ [if linePoisoned bs l then 1 else 0] }
        match req with
        | .slice _ p _ =>
          match physOf h p.val q.val (256 * n) with
          | some x => sendOffers h q.val n l x (reqPart req) bs
          | none => h
        | _ => h)

/-- Lines of a DRAM_WRITE, in order: the enabled bytes of each, and the symbol errors that meet a read-modify-write of the first one
(R258, R266, R267). -/
def writeLinesOf (h : Hw) (m : Mem) (q : Nat) (bytes : List (Option Byte)) (poison : Bool) (part : Option Nat) (errs : List SymErr) :
    List (Nat × Nat) → Eff
  | [] => { hw := h }
  | (x, n) :: r =>
    let e := quarterTake h q x (bytes.take n) poison part errs fun h => countQuad h q (x / 256) (readQuad h m q (x / 256) errs)
    let e2 := writeLinesOf e.hw (m.applyAll e.ops) q (bytes.drop n) poison part [] r
    { hw := e2.hw, ops := e.ops ++ e2.ops }

/-- DRAM_WRITE: region check, then the enabled bytes, line by line; a beat written partly makes it a read-modify-write (R258, R267,
R278). While the power-fail sequence runs, no write is taken (R60). -/
def execDramWrite (q : Fin 24) (req : MemReq) (qa : BitVec 35) (data : WriteData) (mask : List Bool) (poison : Bool)
    (s : State) : Host.Outcome State Fault Refusal :=
  .next (s.act fun h m =>
    let a := qa.toNat
    if h.sup.powerFail then { hw := h }
    else
      match refusesAt h q.val req a data.bytes.length true with
      | some h => { hw := h }
      | none =>
        let bytes := data.bytes.zipIdx.map fun (b, i) => if (mask[i]?).getD true then some b else none
        writeLinesOf (setBusErr h false) m q.val bytes poison (reqPart req) data.errs (pieces a data.bytes.length))

/-- MARK_WINDOW_START: module time reaches the next window start of the quarter, where CE_WINDOW of every channel restarts at 0; a window
start that has just been reached is the one meant, once (R269; log 4). -/
def execMarkWindowStart (q : Fin 24) (s : State) : Host.Outcome State Fault Refusal :=
  .next (s.upd fun h =>
    let w := markWindow h q.val
    let h := if h.now % w == 0 && (quarterOf h q.val).winAt != h.now then h else runTo h ((h.now / w + 1) * w)
    setQuarter h q.val { quarterOf h q.val with winAt := h.now })

/-- WAY_WINDOW_START: module time reaches the next window start of the slice, where the corrected counts of its ways restart; a window start
that has just been reached is the one meant, once (R405). -/
def execWayWindowStart (k : Fin 160) (s : State) : Host.Outcome State Fault Refusal :=
  .next (s.upd fun h =>
    let w := wayWindow h k.val
    let h := if h.now % w == 0 && tget 0 h.hom.wayWin k.val != h.now / w then h else runTo h ((h.now / w + 1) * w)
    restartWays h k.val)

/-- COALESCE_TIMEOUT: module time reaches the moment at which TIME has passed since the first event counted, where that is still to come, and
the source is ready (R523). -/
def execCoalesceTimeout (i : Fin 2064) (s : State) : Host.Outcome State Fault Refusal :=
  .next (s.upd fun h =>
    if fon h F_INT_SRC_STATE_PENDING 0 i.val && fget h F_INT_SRC_CFG_TIME 0 i.val != 0 then
      let h := if coalesceEnd h i.val ≤ h.now then h else runTo h (coalesceEnd h i.val)
      { h with ints := { h.ints with timeOut := tset false h.ints.timeOut i.val true } }
    else h)

/-- Scrub, re-silver and catch-up run in M3 to M7 while DRAM is not in self-refresh (R268, R272). -/
def dramWorks (h : Hw) : Bool := decide (3 ≤ modeNow h) && !h.mod.dramRefresh

/-- SCRUB_STEP: the next quad-line is read; corrections are written back, lines with an uncorrectable beat take the marker in
every beat, and the last quad-line ends the pass (R267, R268). -/
def execScrubStep (q : Fin 24) (errs : List SymErr) (s : State) : Host.Outcome State Fault Refusal :=
  .next (s.act fun h m =>
    let v := quarterOf h q.val
    if !(dramWorks h && (fget h F_QMC_CONFIG_SCRUB_HOURS q.val != 0 || v.scrubPass)) then { hw := h }
    else
      let n := v.scrubAt
      let bs := readQuad h m q.val n errs
      let bad := (List.range 4).filter fun l => ((bs.drop (4 * l)).take 4).any fun b => b.out == .uncorrectable
      let marks := bad.flatMap fun l => (List.range 4).map fun b => MemOp.mark (dkey q.val (256 * n) / 16 + 4 * l + b) true
      let wrote := !bad.isEmpty || bs.any fun b => match b.out with | .corrected _ => true | _ => false
      let e := countQuad (pmuBursts h q.val 0x09 1) q.val n bs
      let h := if wrote then noteWrite e.hw q.val (256 * n) else e.hw
      let v := quarterOf h q.val
      let h := if n + 1 < quadLines h then setQuarter h q.val { v with scrubAt := n + 1 }
               else fadd (setQuarter h q.val { v with scrubAt := 0, scrubPass := false }) F_QMC_STATUS_SCRUB_PASSES 1 q.val
      { hw := h, ops := e.ops ++ marks })

/-- A command of QMC_CTRL: who may write it, then its own effect with its result code (R281). -/
def qmcCommand (who : Requester) (q : Nat) (run : Hw → Eff × Nat) (h : Hw) : Eff :=
  ifMayE h who R_QMC_CTRL q 0 fun h =>
    let (e, code) := run h
    e.map fun h => answer h F_QMC_CTRL_RESULT F_QMC_CTRL_SEQ code q

/-- MARK: marks channel CH; a CH that names no channel ends REFUSED (R269, R281). -/
def execMarkChannel (who : Requester) (q : Fin 24) (ch : BitVec 4) (s : State) : Host.Outcome State Fault Refusal :=
  .next (s.act fun h _ => qmcCommand who q.val (fun h =>
    if ch.toNat < 10 then (markChannel h q.val ch.toNat 3, rcDone) else ({ hw := h }, rcRefused)) h)

/-- RESILVER: starts in MARKED, changes nothing in RESILVER, is refused elsewhere (R571). -/
def execResilver (who : Requester) (q : Fin 24) (s : State) : Host.Outcome State Fault Refusal :=
  .next (s.act fun h _ => qmcCommand who q.val (fun h =>
    if qState h q.val == qMarked then ({ hw := startResilver h q.val ((mark1 h q.val).getD 0) }, rcDone)
    else if qState h q.val == qResilver then ({ hw := h }, rcDone)
    else ({ hw := h }, rcRefused)) h)

/-- Begin to retrain a channel: it reads as marked, and the dirty map is empty (R275). -/
def beginRetrain (h : Hw) (q ch : Nat) : Hw :=
  let h := fset h F_QMC_STATUS_RETRAIN_CH ch q
  let h := fset h F_QMC_STATUS_RETRAINING 1 q
  setQuarter h q { quarterOf h q with dirty := [] }

/-- Retraining runs only in NORMAL or SPARED, one at a time (R275). -/
def mayRetrain (h : Hw) (q ch : Nat) : Bool :=
  decide (ch < 10) && (qState h q == qNormal || qState h q == qSpared) && !fon h F_QMC_STATUS_RETRAINING q &&
    !fon h F_QMC_STATUS_CATCHUP q && mark1 h q != some ch

/-- CHANNEL_RETRAIN: RETRAIN of channel CH, or REFUSED (R275). -/
def execChannelRetrain (who : Requester) (q : Fin 24) (ch : BitVec 4) (s : State) : Host.Outcome State Fault Refusal :=
  .next (s.act fun h _ => qmcCommand who q.val (fun h =>
    if mayRetrain h q.val ch.toNat then ({ hw := beginRetrain h q.val ch.toNat }, rcRunning) else ({ hw := h }, rcRefused)) h)

/-- SCRUB_PASS: a pass starts at once (R268). -/
def execScrubPass (who : Requester) (q : Fin 24) (s : State) : Host.Outcome State Fault Refusal :=
  .next (s.act fun h _ => qmcCommand who q.val (fun h =>
    ({ hw := setQuarter h q.val { quarterOf h q.val with scrubAt := 0, scrubPass := true } }, rcDone)) h)

/-- PAUSE_RS: pauses a re-silver, or REFUSED outside RESILVER (R571). -/
def execPauseRs (who : Requester) (q : Fin 24) (s : State) : Host.Outcome State Fault Refusal :=
  .next (s.act fun h _ => qmcCommand who q.val (fun h =>
    if qState h q.val == qResilver then ({ hw := fset h F_QMC_STATUS_RS_PAUSED 1 q.val }, rcDone) else ({ hw := h }, rcRefused)) h)

/-- RESUME_RS: resumes it, or REFUSED outside RESILVER (R571). -/
def execResumeRs (who : Requester) (q : Fin 24) (s : State) : Host.Outcome State Fault Refusal :=
  .next (s.act fun h _ => qmcCommand who q.val (fun h =>
    if qState h q.val == qResilver then ({ hw := fset h F_QMC_STATUS_RS_PAUSED 0 q.val }, rcDone) else ({ hw := h }, rcRefused)) h)

/-- Append to a sector of 128 checkpoints; a full sector is erased first (R273). -/
def appendCkpt (l c : List Byte) : List Byte := if l.length < 4096 then l ++ c else c

/-- A checkpoint in both NOR parts (R273). -/
def checkpoint (h : Hw) (q : Nat) : Hw :=
  let v := quarterOf h q
  let p := fget h F_QMC_RESILVER_PROGRESS q
  let c := ckptBytes q (v.rsChannel.getD 0xF) p v.gen (fget h F_KYD_RTC_SECONDS)
  let h' := fset (setQuarter h q { v with ckptA := appendCkpt v.ckptA c, ckptB := appendCkpt v.ckptB c }) F_QMC_RESILVER_CHECKPOINT p q
  if 4096 ≤ v.ckptA.length then noteErases h' 1 else h'

/-- RESILVER_STEP: one quad-line is converted, PROGRESS and the journal advance; each 64 MiB a checkpoint; at the end the
quarter is SPARED (R271 to R273). -/
def execResilverStep (q : Fin 24) (s : State) : Host.Outcome State Fault Refusal :=
  .next (s.upd fun h =>
    if !(qState h q.val == qResilver && !fon h F_QMC_STATUS_RS_PAUSED q.val && dramWorks h) then h
    else
      let p := fget h F_QMC_RESILVER_PROGRESS q.val + 1
      let h := fset h F_QMC_RESILVER_PROGRESS p q.val
      let h := pmuBursts h q.val 0x0A 2
      let h := if p % 262144 == 0 then checkpoint h q.val else h
      let h := writeJournal h q.val
      if p < quadLines h then h
      else
        let h := fset h F_QMC_STATUS_STATE qSpared q.val
        let h := setQuarter h q.val { quarterOf h q.val with rsOpen := false }
        raiseSource (lifeResilver h q.val 2) (srcQuarter q.val 3))

/-- DRIFT_RETRAIN: drift beyond the calibrated range starts a retraining where one may run (R275). -/
def execDriftRetrain (q : Fin 24) (ch : BitVec 4) (s : State) : Host.Outcome State Fault Refusal :=
  .next (s.upd fun h => if mayRetrain h q.val ch.toNat then beginRetrain h q.val ch.toNat else h)

/-- RETRAIN_DONE: success starts catch-up; a failure is counted and marks the channel (R269, R276, R277). -/
def execRetrainDone (q : Fin 24) (ok : Bool) (s : State) : Host.Outcome State Fault Refusal :=
  .next (s.act fun h _ =>
    if !fon h F_QMC_STATUS_RETRAINING q.val then { hw := h }
    else if ok then startCatchup (retrainResult h q.val rcDone) q.val
    else
      let ch := fget h F_QMC_STATUS_RETRAIN_CH q.val
      let h := fadd h F_QMC_CHERR_TRAIN_FAILS 1 q.val ch
      let h := fset (fset (retrainResult h q.val rcFailed) F_QMC_STATUS_RETRAINING 0 q.val) F_QMC_STATUS_RETRAIN_CH 0xF q.val
      let h := setQuarter h q.val { quarterOf h q.val with dirty := [] }
      applyMark h q.val ch 2)

/-- CATCHUP_STEP: the lowest dirty granule is rewritten and its bit cleared; the last one ends catch-up (R276). -/
def execCatchupStep (q : Fin 24) (s : State) : Host.Outcome State Fault Refusal :=
  .next (s.act fun h _ =>
    if !fon h F_QMC_STATUS_CATCHUP q.val then { hw := h }
    else
      let v := quarterOf h q.val
      let h := setQuarter h q.val { v with dirty := v.dirty.tail }
      if v.dirty.tail.isEmpty then endCatchup h q.val else { hw := h })

end Sys2Proof.Machine
end

