-- ==== Sys2Proof/Machine/RegWrite.lean ====
section
/-!
DEFINITION. Register accesses by address: decoding, access types and locks, the registers with rules of their own, the command
registers, and reads.
-/

namespace Sys2Proof.Machine

/-! ### Decoding (R4, R564, R565) -/

/-- The first byte of control space (R3). -/
def controlBase : Nat := 0xF000000000

/-- The element of a register at an offset of its window. -/
def regElem (r : Reg) (off : Nat) : Option Nat :=
  let d := off - r.base
  if off < r.base then none
  else if r.lay == 1 then
    if d % 64 / 8 < 4 && d % 8 == 0 && d / 64 < 64 then some (4 * (d / 64) + d % 64 / 8) else none
  else if r.lay == 2 then
    if d % 64 / 8 < 5 && d % 8 == 0 && d / 64 < 8 then some (8 * (d / 64) + d % 64 / 8) else none
  else if d % r.stride == 0 && d / r.stride < r.count then some (d / r.stride) else none

/-- An instance of a register exists: STR windows only where a router stands, dirty-log registers only of virtual functions (R493,
R565). -/
def regExists (r : Reg) (i : Nat) : Bool :=
  (r.n0 != 0x800 || isRouter i) &&
    (!(([R_HOSTFN_DLOG_BASE.id, R_HOSTFN_DLOG_CFG.id, R_HOSTFN_DLOG_PTR.id] : List Nat).contains r.id) || decide (8 ≤ i))

/-- The register, instance and element at an offset of control space (R564, R565). -/
def regAt (o : Nat) : Option (Reg × Nat × Nat) :=
  let n := o / 65536
  let off := o % 65536 / 8 * 8
  allRegs.findSome? fun r =>
    if r.n0 ≤ n && n < r.n0 + r.ninst && regExists r (n - r.n0) then (regElem r off).map fun j => (r, n - r.n0, j) else none

/-- Every field of a register is RW or RWL, so that it takes 32-bit accesses (R4, R567). -/
def halves (r : Reg) : Bool := r.fields.all fun f => f.acc == .rw || f.acc == .rwl

/-- An access to control space that is performed: its register, instance and element; none where it completes with a bus error (R4,
R565, R566). -/
def regAccess (h : Hw) (who : Requester) (addr size : Nat) : Option (Reg × Nat × Nat) :=
  if addr < controlBase || controlBase + 2 ^ 30 ≤ addr then none
  else
    match regAt (addr - controlBase) with
    | none => none
    | some (r, i, j) =>
      if served h who r && ((size == 8 && addr % 8 == 0) || (size == 4 && addr % 4 == 0 && halves r)) then some (r, i, j) else none

/-! ### Access types and locks (R6 to R8, R126, R127) -/

/-- The value a written word gives a field. -/
def fieldVal (f : Field) (v : Nat) : Nat := v / 2 ^ f.lo % 2 ^ f.width

/-- RWL fields of the element take no write: the image has locked them, and no reset of the partition that owns it runs (R126). -/
def rwlLocked (h : Hw) (r : Reg) (i j : Nat) : Bool :=
  fon h F_BOOT_STATUS_LOCKED &&
    !((onesOf 8 (fget h F_PART_RESET_BUSY)).any fun p => partReg h p r i j || (r.n0 == 0x80 && ownerGate h i == some p) ||
        (r.id == R_QMC_RGN.id && h.par.rgnReset.contains (p, i, j)) || (r.id == R_INT_SRC_CFG.id && h.par.srcReset.contains (p, j)))

/-- A write of one field as its access type says (R6, R7). -/
def writeField (locked : Bool) (h : Hw) (f : Field) (i j v : Nat) : Hw :=
  let x := fieldVal f v
  match f.acc with
  | .rw => fset h f x i j
  | .rwl => if locked then h else fset h f x i j
  | .w1c => fset h f (fget h f i j - (fget h f i j).land x) i j
  | .w1s => fset h f ((fget h f i j).lor x) i j
  | .ro | .rc | .wo => h

/-- A write of every field of a register. -/
def plainWrite (h : Hw) (r : Reg) (i j v : Nat) : Hw :=
  let l := rwlLocked h r i j
  r.fields.foldl (fun h f => writeField l h f i j v) h

/-! ### Registers with rules of their own -/

/-- A source whose owner is the owner of its unit (R519, R531). -/
def unitSource (h : Hw) (i : Nat) : Bool :=
  decide (32 ≤ i) && decide (i < 1328) && !(decide (480 ≤ i) && decide (i < 576) && (ownerQuarter h ((i - 480) / 4)).isNone)

/-- INT_SRC_CFG (R520, R531). -/
def writeSrcCfg (h : Hw) (who : Requester) (i v : Nat) : Hw :=
  let core := fieldVal F_INT_SRC_CFG_CORE v
  let foreign := core != 0xFF && (match srcOwner h i with | some p => ownerCore h core != some p || decide (160 ≤ core) | none => false)
  let some' := srcSome h who i
  let sec := srcSecure h who i
  if !(some' || sec) || foreign || (!sec && fieldVal F_INT_SRC_CFG_SECURE v != fget h F_INT_SRC_CFG_SECURE 0 i) then
    logRefusedWrite h who R_INT_SRC_CFG 0 i
  else
    let locked := rwlLocked h R_INT_SRC_CFG 0 i
    let h1 := if some' then [F_INT_SRC_CFG_MASK, F_INT_SRC_CFG_PRIORITY, F_INT_SRC_CFG_LEVEL, F_INT_SRC_CFG_CORE, F_INT_SRC_CFG_TIME,
        F_INT_SRC_CFG_COUNT].foldl (fun h f => writeField locked h f 0 i v) h else h
    let h1 := if sec then writeField locked h1 F_INT_SRC_CFG_SECURE 0 i v else h1
    if srcFull h who i && !unitSource h i then
      writeField locked (writeField locked h1 F_INT_SRC_CFG_OWNED 0 i v) F_INT_SRC_CFG_OWNER 0 i v
    else h1

/-- INT_CTRL: ALL_DISABLE by Kydin, bit p of DISABLE by Kydin or by the secure world of Pp (R531). -/
def writeIntCtrl (h : Hw) (who : Requester) (v : Nat) : Hw :=
  let mine := (List.range 8).filter fun p => who == .kydin || isSecureOf h who p
  if mine.isEmpty then logRefusedWrite h who R_INT_CTRL 0 0
  else
    let h := if who == .kydin then writeField false h F_INT_CTRL_ALL_DISABLE 0 0 v else h
    fset h F_INT_CTRL_DISABLE (mine.foldl (fun a p => setBit a p (bit v p)) (fget h F_INT_CTRL_DISABLE))

/-- The partition that owns unit `u` of an owner-world register (R448). -/
def ownwOwner (h : Hw) (r : Reg) (u : Nat) : Option Nat :=
  if r.id == R_OWNW_SQ0.id then ownerSquare h u
  else if r.id == R_OWNW_SQ1.id then ownerSquare h (64 + u)
  else if r.id == R_OWNW_GATE.id then ownerGate h u
  else if r.id == R_OWNW_ENG.id then ownerQuarter h u
  else if u < 8 && (partOf h u).present then some u else none

/-- An owner-world register: the bits of the units the requester may change take effect, and the others keep their values (R448). -/
def writeOwnw (h : Hw) (who : Requester) (r : Reg) (v : Nat) : Hw :=
  match r.fields with
  | f :: _ =>
    fset h f ((List.range f.width).foldl (fun a u =>
      match ownwOwner h r u with
      | some p => if who == .kydin || isSecureOf h who p then setBit a u (bit v u) else a
      | none => a) (fget h f))
  | [] => h

/-- ROUTER_SLEEP of a compute square takes a new value under a fence of its router. DESIGN CHOICE: where the fence cannot start the field keeps its value and
the write is logged; while the grid has no power the field changes at once (R435, R436, R440; log 94). -/
def writeRouterSleep (h : Hw) (who : Requester) (i v : Nat) : Hw :=
  if rwlLocked h R_STR_CFG i 0 || v == fget h F_STR_CFG_ROUTER_SLEEP i then h
  else if !gridPowered h then fset h F_STR_CFG_ROUTER_SLEEP v i
  else
    let (h', code) := startFence h i (8 - v)
    if code == rcBusy then logRefusedWrite h' who R_STR_CFG i 0 else h'

/-- STR_CFG: IDLE_US, and ROUTER_SLEEP of a compute square by Kydin before the lock (R126, R433; the section on STR registers). -/
def writeStrCfg (h : Hw) (who : Requester) (i v : Nat) : Hw :=
  let h := writeField false h F_STR_CFG_IDLE_US i 0 v
  if who == .kydin && (squareOf i).isSome then writeRouterSleep h who i (fieldVal F_STR_CFG_ROUTER_SLEEP v) else h

/-- A register of the shadow set: while a COMMIT is pending the write waits (R191, R192). -/
def writeShadow (h : Hw) (r : Reg) (j v : Nat) : Hw :=
  if fon h F_AVE_STATUS_COMMIT_PENDING then
    r.fields.foldl (fun h f =>
      if f.acc != .rw then h
      else if shadowFields.contains f then
        { h with ave := { h.ave with waiting := h.ave.waiting ++ [(f.key 0 j, fieldVal f v)] } }
      else writeField false h f 0 j v) h
  else plainWrite h r 0 j v

/-- Lines a directory slot needs for a number of expected gates (R228). -/
def slotNeed (gates : Nat) : Nat := 1 + (popcount 64 gates + 7) / 8

/-- RBT_PART_EVCFG: no write leaves SLOT_LINES below what the expected gates need (R228). -/
def writeEvcfg (h : Hw) (who : Requester) (p v : Nat) : Hw :=
  let n := plainWrite h R_RBT_PART_EVCFG 0 p v
  if fget n F_RBT_PART_EVCFG_SLOT_LINES 0 p < slotNeed (fget h F_RBT_PART_EXPECT_GATES 0 p) then logRefusedWrite h who R_RBT_PART_EVCFG 0 p else n

/-- RBT_PART_EXPECT: gates of the partition only, and no more than the slot holds (R228, R250). -/
def writeExpect (h : Hw) (who : Requester) (p v : Nat) : Hw :=
  if 8 * (fget h F_RBT_PART_EVCFG_SLOT_LINES 0 p - 1) < popcount 64 v then logRefusedWrite h who R_RBT_PART_EXPECT 0 p
  else fset h F_RBT_PART_EXPECT_GATES (v.land (partOf h p).gates) 0 p

/-- The counter control of a quarter or an engine: a partition's secure world counts its own partition only (R540). -/
def writePmuCtl (h : Hw) (who : Requester) (r : Reg) (regs : PmuRegs) (i v : Nat) : Hw :=
  let h := plainWrite h r i 0 v
  match (List.range 8).find? fun p => isSecureOf h who p with
  | some p => fset (fset h regs.partEn 1 i) regs.part p i
  | none => h

/-- A write that would enable a cache still cleaning, or disable a slice with SCRATCH ways or locked lines: the whole write has no effect (R406). -/
def refusesEnable (h : Hw) (which : CacheSel) (k v : Nat) : Bool :=
  let now := fget h (enableField which) k
  match fieldVal (enableField which) v with
  | 0 => now == 1 && which == .llc && sliceBound h k
  | 1 => now == 2
  | _ => false

/-- One enable field of a cache: 0 starts its disabling, 1 enables it (R406). -/
def writeEnable (h : Hw) (who : Requester) (which : CacheSel) (k v : Nat) : Hw :=
  match fieldVal (enableField which) v with
  | 0 => disableCache h who which k
  | 1 => fset h (enableField which) 1 k
  | _ => h

/-- HOSTFN_WINw_MAP: a normal-world write leaves SECURE as it is (R493). -/
def writeWinMap (h : Hw) (who : Requester) (i j v : Nat) : Hw :=
  let n := plainWrite h R_HOSTFN_WIN_MAP i j v
  if who == .kydin || isSecureOf h who (partOfFn i) then n else fset n F_HOSTFN_WIN_MAP_SECURE (fget h F_HOSTFN_WIN_MAP_SECURE i j) i j

/-- HOSTFN_HOF_CFG: setting EN zeroes BUF_HEAD and CPL_TAIL and starts PHASE at 1; the other fields are ignored while EN is set
(R493). -/
def writeHofCfg (h : Hw) (i v : Nat) : Hw :=
  if fon h F_HOSTFN_HOF_CFG_EN i then fset h F_HOSTFN_HOF_CFG_EN (fieldVal F_HOSTFN_HOF_CFG_EN v) i
  else
    let h := plainWrite h R_HOSTFN_HOF_CFG i 0 v
    if fon h F_HOSTFN_HOF_CFG_EN i then
      setFn (fset (fset h F_HOSTFN_HOF_PTR_BUF_HEAD 0 i) F_HOSTFN_HOF_PTR_CPL_TAIL 0 i) i { fnOf h i with phase := true }
    else h

/-- HOSTFN_DLOG_CFG: setting EN clears OVERFLOW and empties the filter; a write without SYNC numbers itself and does nothing else
(R491 to R493, R568). -/
def writeDlogCfg (h : Hw) (i v : Nat) : Hw :=
  let was := fon h F_HOSTFN_DLOG_CFG_EN i
  let h := plainWrite h R_HOSTFN_DLOG_CFG i 0 v
  let h := if !was && fon h F_HOSTFN_DLOG_CFG_EN i then setFn (fset h F_HOSTFN_DLOG_CFG_OVERFLOW 0 i) i { fnOf h i with dlog := [] } else h
  if fieldVal F_HOSTFN_DLOG_CFG_CMD v == 1 then h else answer h F_HOSTFN_DLOG_CFG_RESULT F_HOSTFN_DLOG_CFG_SEQ rcNone i

/-- KYD_MBOX: the address of an in-band request, PENDING until Kydin answers, or BUSY while another waits (R553, R563). -/
def writeMbox (h : Hw) (v : Nat) : Hw :=
  if h.kyd.mboxAddr.isSome then answer h F_KYD_MBOX_RESULT F_KYD_MBOX_SEQ 3
  else
    answer { h with kyd := { h.kyd with mboxAddr := some (fieldVal F_KYD_MBOX_ADDR v * 4096) } } F_KYD_MBOX_RESULT F_KYD_MBOX_SEQ 1

/-- A write that the requester may make, to a register without a command. -/
def ruledWrite (h : Hw) (who : Requester) (r : Reg) (i j v : Nat) : Hw :=
  let is := fun (x : Reg) => r.id == x.id
  if is R_RBT_CONFIG then (if rbtHeld h then plainWrite h r i j v else logRefusedWrite h who r i j)
  else if is R_RBT_PART_EVCFG then writeEvcfg h who j v
  else if is R_RBT_PART_EXPECT then writeExpect h who j v
  else if is R_RBT_FLOW_CFG then refreshFlow (plainWrite h r i j v) (1024 * i + j)
  else if is R_ENG_QP_CQ then (if (jobsOfQp (engineOf h i) j).isEmpty then plainWrite h r i j v else logRefusedWrite h who r i j)
  else if is R_QMC_PMU_CTL then writePmuCtl h who r pmuQmc i v
  else if is R_ENG_PMU_CTL then writePmuCtl h who r pmuEng i v
  else if is R_CACHE_EN then
    if refusesEnable h .l1d i v || refusesEnable h .l2 i v then logRefusedWrite h who r i j
    else writeEnable (writeEnable h who .l1d i v) who .l2 i v
  else if is R_LLC_CFG then
    if refusesEnable h .llc i v then logRefusedWrite h who r i j
    else
      let en := fget h F_LLC_CFG_EN i
      writeEnable (fset (plainWrite h r i j v) F_LLC_CFG_EN en i) who .llc i v
  else if is R_STR_CFG then writeStrCfg h who i v
  else if is R_HOSTFN_WIN_MAP then writeWinMap h who i j v
  else if is R_HOSTFN_HOF_CFG then writeHofCfg h i v
  else if is R_HOSTFN_DLOG_CFG then writeDlogCfg h i v
  else if is R_KYD_RTC then fset (plainWrite h r i j v) F_KYD_STATUS_RTC_VALID 1
  else if is R_KYD_MBOX then writeMbox h v
  else if r.n0 == 0x4 then writeShadow h r j v
  else plainWrite h r i j v

/-- A requester that the window of a register is open to: Kydin, the secure worlds, and the normal world in the CORE windows of a partition
without a secure image (R444). -/
def reachesWindow (h : Hw) (who : Requester) (r : Reg) (i : Nat) : Bool :=
  who == .kydin || who == .trusted ||
    (if r.n0 == 0x100 then (match ownerCore h i with | some p => isControlOf h who p | none => false) else isSecure h who)

/-- A write to a register without a command: rights, then the register's own rule; a register with nothing to write takes a write of
a requester that its window is open to without a side effect (R6, R7, R444). -/
def writeReg (h : Hw) (who : Requester) (r : Reg) (i j v : Nat) : Hw :=
  let is := fun (x : Reg) => r.id == x.id
  if is R_INT_SRC_CFG then writeSrcCfg h who j v
  else if is R_INT_CTRL then writeIntCtrl h who v
  else if r.n0 == 0x7 && 0x400 ≤ r.base && r.base ≤ 0x420 then writeOwnw h who r v
  else if mayWrite h who r i j then ruledWrite h who r i j v
  else if r.right == .nobody && reachesWindow h who r i then h
  else logRefusedWrite h who r i j

/-! ### Command registers (R568) -/

/-- A command register: its CMD, RESULT and SEQ fields and the values its table defines. -/
structure CmdReg where
  cmd : Field
  result : Field
  seq : Field
  codes : List Nat

/-- The registers with a CMD field. -/
def cmdRegs : List CmdReg :=
  [⟨F_BOOT_CTRL_CMD, F_BOOT_CTRL_RESULT, F_BOOT_CTRL_SEQ, [1, 2, 3, 4, 5]⟩,
   ⟨F_GATE_CTRL_CMD, F_GATE_CTRL_RESULT, F_GATE_CTRL_SEQ, [1, 2, 3, 4]⟩,
   ⟨F_AVE_COMMIT_CMD, F_AVE_COMMIT_RESULT, F_AVE_COMMIT_SEQ, [1, 2]⟩,
   ⟨F_AVE_MT_CMD_CMD, F_AVE_MT_CMD_RESULT, F_AVE_MT_CMD_SEQ, [1, 2, 3, 4]⟩,
   ⟨F_RBT_PART_CMD_CMD, F_RBT_PART_CMD_RESULT, F_RBT_PART_CMD_SEQ, [1]⟩,
   ⟨F_RBT_PORT_CMD_CMD, F_RBT_PORT_CMD_RESULT, F_RBT_PORT_CMD_SEQ, [1, 2, 3, 4, 5, 6]⟩,
   ⟨F_QMC_CTRL_CMD, F_QMC_CTRL_RESULT, F_QMC_CTRL_SEQ, [1, 2, 3, 4, 5, 6]⟩,
   ⟨F_ENG_RESET_CMD, F_ENG_RESET_RESULT, F_ENG_RESET_SEQ, [1]⟩,
   ⟨F_CORE_CMD_CMD, F_CORE_CMD_RESULT, F_CORE_CMD_SEQ, [1]⟩,
   ⟨F_CM_CMD_CMD, F_CM_CMD_RESULT, F_CM_CMD_SEQ, [1, 2, 3, 4, 5, 6, 7, 8]⟩,
   ⟨F_LLC_CMD_CMD, F_LLC_CMD_RESULT, F_LLC_CMD_SEQ, [1, 2, 3]⟩,
   ⟨F_STR_CMD_CMD, F_STR_CMD_RESULT, F_STR_CMD_SEQ, [1, 2, 3, 4, 5, 6]⟩,
   ⟨F_PART_PWR_REQ_ACTION, F_PART_PWR_REQ_RESULT, F_PART_PWR_REQ_SEQ, [1, 2]⟩,
   ⟨F_HOSTFN_CTRL_CMD, F_HOSTFN_CTRL_RESULT, F_HOSTFN_CTRL_SEQ, [1, 2]⟩,
   ⟨F_HOSTFN_DLOG_CFG_CMD, F_HOSTFN_DLOG_CFG_RESULT, F_HOSTFN_DLOG_CFG_SEQ, [1]⟩,
   ⟨F_HOSTFN_WIN_COMMIT_CMD, F_HOSTFN_WIN_COMMIT_RESULT, F_HOSTFN_WIN_COMMIT_SEQ, [1, 2]⟩]

/-- The command register a register is. -/
def cmdRegOf (r : Reg) : Option CmdReg := cmdRegs.find? fun c => c.cmd.reg == r.id

/-- A command without an action: SEQ advances and RESULT reads 0 (R568). -/
def noAction (h : Hw) (c : CmdReg) (i j : Nat) : Hw :=
  let h := answer h c.result c.seq 0 i j
  if c.seq.id == F_GATE_CTRL_SEQ.id then setCtrl h i none else h

/-- NO_ACTION_COMMAND (R568). -/
def execNoActionCommand (who : Requester) (addr : Nat) (data : BitVec 64) (s : State) : Host.Outcome State Fault Refusal :=
  .next (s.upd fun h =>
    match regAccess h who addr 8 with
    | none => setBusErr h true
    | some (r, i, j) =>
      match cmdRegOf r with
      | none => h
      | some c =>
        if c.codes.contains (fieldVal c.cmd data.toNat) then h
        else if r.id == R_HOSTFN_DLOG_CFG.id then ifMay h who r i j fun h => writeDlogCfg h i data.toNat
        else ifMay (wakeFor h r i) who r i j fun h => noAction h c i j)

/-- The command that a word written to a command register spells, as the row of the table performs it. -/
def regCommand (who : Requester) (r : Reg) (i j v : Nat) (s : State) : Option (Host.Outcome State Fault Refusal) :=
  let is := fun (x : Reg) => r.id == x.id
  let gate : Fin 64 := Fin.ofNat 64 i
  let core : Fin 160 := Fin.ofNat 160 i
  let q : Fin 24 := Fin.ofNat 24 i
  let qp : Fin 64 := Fin.ofNat 64 j
  let fn : Fin 256 := Fin.ofNat 256 i
  if is R_MODE_REQUEST then some (execModeRequest who (BitVec.ofNat 3 v) s)
  else if is R_PART_RESET then
    some (execPartitionReset who (BitVec.ofNat 8 (fieldVal F_PART_RESET_CLEAR_MEM v)) (BitVec.ofNat 8 (fieldVal F_PART_RESET_START v)) s)
  else if is R_BOOT_CTRL then
    match fieldVal F_BOOT_CTRL_CMD v with
    | 1 => some (execBootCommit who s)
    | 2 => some (execBootOnceSlotA who s)
    | 3 => some (execBootOnceSlotB who s)
    | 4 => some (execVerifySlotA who s)
    | 5 => some (execVerifySlotB who s)
    | _ => none
  else if is R_GATE_DL_CMD then
    some (execGateDlCmd who gate (BitVec.ofNat 5 (fieldVal F_GATE_DL_CMD_LANE v)) (BitVec.ofNat 8 (fieldVal F_GATE_DL_CMD_OPCODE v))
      (BitVec.ofNat 32 (fieldVal F_GATE_DL_CMD_ARG v)) s)
  else if is R_GATE_CTRL then
    let lane : Fin 16 := Fin.ofNat 16 (fieldVal F_GATE_CTRL_LANE v)
    match fieldVal F_GATE_CTRL_CMD v with
    | 1 => some (execRecal who gate lane s)
    | 2 => some (execRetrain who gate lane s)
    | 3 => some (execTakeover who gate s)
    | 4 => some (execRelease who gate s)
    | _ => none
  else if is R_AVE_COMMIT then
    match fieldVal F_AVE_COMMIT_CMD v with
    | 1 => some (execAveCommit who s)
    | 2 => some (execAveDiscard who s)
    | _ => none
  else if is R_AVE_VOTE then some (execCopyExclude who (BitVec.ofNat 3 v) s)
  else if is R_AVE_MT_CMD then
    let a := BitVec.ofNat 10 (fieldVal F_AVE_MT_CMD_ADDR v)
    match fieldVal F_AVE_MT_CMD_CMD v with
    | 1 => some (execMtWrite who gate a s)
    | 2 => some (execMtRead who gate a (BitVec.ofNat 2 (fieldVal F_AVE_MT_CMD_COPY v)) s)
    | 3 => some (execMtInsert who gate a s)
    | 4 => some (execMtInvalidate who gate a s)
    | _ => none
  else if is R_RBT_PART_CMD then (if fieldVal F_RBT_PART_CMD_CMD v == 1 then some (execReclaim who (Fin.ofNat 8 j) s) else none)
  else if is R_RBT_PORT_CMD then
    let p : Fin 8 := Fin.ofNat 8 i
    match fieldVal F_RBT_PORT_CMD_CMD v with
    | 1 => some (execGetWork who p ⟨qp, false⟩ s)
    | 2 => some (execAddWork who p qp s)
    | 3 => some (execDoneWork who p qp (bit v 4) (bit v 5) s)
    | 4 => some (execCancel who p qp s)
    | 5 => some (execFreeEvent who p qp s)
    | 6 => some (execFlush who p qp s)
    | _ => none
  else if is R_QMC_CTRL then
    let ch := BitVec.ofNat 4 (fieldVal F_QMC_CTRL_CH v)
    match fieldVal F_QMC_CTRL_CMD v with
    | 1 => some (execMarkChannel who q ch s)
    | 2 => some (execResilver who q s)
    | 3 => some (execChannelRetrain who q ch s)
    | 4 => some (execScrubPass who q s)
    | 5 => some (execPauseRs who q s)
    | 6 => some (execResumeRs who q s)
    | _ => none
  else if is R_ENG_RESET then (if fieldVal F_ENG_RESET_CMD v == 1 then some (execEngineReset who q s) else none)
  else if is R_ENG_QP_SUBMIT then some (execEngQpSubmit who q qp (BitVec.ofNat 52 v) s)
  else if is R_ENG_QP_ABORT then some (execAbort who q qp (BitVec.ofNat 32 v) s)
  else if is R_CORE_CMD then (if fieldVal F_CORE_CMD_CMD v == 1 then some (execStart who core (bit v 4) s) else none)
  else if is R_CM_CMD then
    let t := BitVec.ofNat 2 (fieldVal F_CM_CMD_TARGET v)
    match fieldVal F_CM_CMD_CMD v with
    | 1 => some (execClean who core s)
    | 2 => some (execInval who core s)
    | 3 => some (execCleanInval who core s)
    | 4 => some (execSwClean who core t s)
    | 5 => some (execSwInval who core t s)
    | 6 => some (execSwCleanInval who core t s)
    | 7 => some (execLockLines who core s)
    | 8 => some (execUnlockLines who core s)
    | _ => none
  else if is R_LLC_CMD then
    let n := BitVec.ofNat 4 (fieldVal F_LLC_CMD_N v)
    match fieldVal F_LLC_CMD_CMD v with
    | 1 => some (execSetSp who core n s)
    | 2 => some (execSetLock who core n s)
    | 3 => some (execRetireWay who core n s)
    | _ => none
  else if is R_STR_CMD then
    match fieldVal F_STR_CMD_CMD v with
    | 1 => some (execSleepAgents who core s)
    | 2 => some (execSleepSquare who core s)
    | 3 => some (execStrWake who core s)
    | 4 => some (execRetire who core s)
    | 5 => some (execRetireAll who core s)
    | 6 => some (execRestore who core s)
    | _ => none
  else if is R_PART_PWR_REQ then
    let k := BitVec.ofNat 4 (fieldVal F_PART_PWR_REQ_KIND v)
    let u := BitVec.ofNat 8 (fieldVal F_PART_PWR_REQ_UNIT v)
    match fieldVal F_PART_PWR_REQ_ACTION v with
    | 1 => some (execPwrSleep who (Fin.ofNat 8 j) k u s)
    | 2 => some (execPwrWake who (Fin.ofNat 8 j) k u s)
    | _ => none
  else if is R_PART_QUOTA then some (execQuotaWrite who (Fin.ofNat 8 (j / 8)) (Fin.ofNat 5 (j % 8)) (BitVec.ofNat 40 v) s)
  else if is R_TS_PORT then some (execTsRequest who (Fin.ofNat 16 j) (BitVec.ofNat 52 (fieldVal F_TS_PORT_ADDR v * 64)) s)
  else if is R_HOSTFN_CTRL then
    match fieldVal F_HOSTFN_CTRL_CMD v with
    | 1 => some (execQuiesce who fn s)
    | 2 => some (execResume who fn s)
    | _ => none
  else if is R_HOSTFN_MSIX_RAISE then some (execMsixRaise who fn (BitVec.ofNat 8 v) s)
  else if is R_HOSTFN_WIN_COMMIT then
    match fieldVal F_HOSTFN_WIN_COMMIT_CMD v with
    | 1 => some (execWinCommit who fn s)
    | 2 => some (execWinDiscard who fn s)
    | _ => none
  else if is R_BLVD_FREE then some (execBlvdFree who (Fin.ofNat 8 j) (BitVec.ofNat 52 v) s)
  else if is R_PMU_GLOBAL then some (execFreeze who (bit v 0) s)
  else none

/-- The state an outcome leads to; the state itself where it leads to none. -/
def after (s : State) : Host.Outcome State Fault Refusal → State
  | .next t => t
  | _ => s

/-- INT_SRC_STATE: a 1 written to PENDING is an event, and CLEAR clears (R522, R531). -/
def writeSrcState (who : Requester) (i v : Nat) (s : State) : State :=
  let n : Fin 2064 := Fin.ofNat 2064 i
  let s := if bit v 63 then after s (execSourceEvent (some who) n s) else s
  if bit v 0 then after s (execClear who n s) else s

/-- A write of a word to control space (R4 to R9, R565 to R568). -/
def regWrite (who : Requester) (addr size : Nat) (data : Nat) (s : State) : State :=
  match regAccess s.hw who addr size with
  | none => s.upd fun h => setBusErr h true
  | some (r, i, j) =>
    let s := s.upd fun h => setBusErr (wakeFor h r i) false
    let old := regVal (flushShadow s.hw) r i j
    let v := if size == 8 then data % 2 ^ 64
      else if addr % 8 == 0 then old / 2 ^ 32 * 2 ^ 32 + data % 2 ^ 32
      else old % 2 ^ 32 + data % 2 ^ 32 * 2 ^ 32
    if r.id == R_INT_SRC_STATE.id then writeSrcState who j v s
    else
      match regCommand who r i j v s with
      | some o => after s o
      | none =>
        if r.id == R_HOSTFN_DLOG_CFG.id then
          let s := s.upd fun h => writeReg h who r i j v
          if fieldVal F_HOSTFN_DLOG_CFG_CMD v == 1 then after s (execSync who (Fin.ofNat 256 i) s) else s
        else
          match cmdRegOf r with
          | some c => s.upd fun h => ifMay h who r i j fun h => noAction h c i j
          | none => s.upd fun h => writeReg h who r i j v

/-- REGISTER_WRITE (R6). -/
def execRegisterWrite (who : Requester) (addr size : Nat) (data : BitVec 64) (s : State) : Host.Outcome State Fault Refusal :=
  .next (regWrite who addr size data.toNat s)

/-! ### Reads (R6, R138, R444, R525, R531) -/

/-- Whether a requester may read element `j` of instance `i` of a register (R444 and the register section of each chapter). -/
def mayRead (h : Hw) (who : Requester) (r : Reg) (i j : Nat) : Bool :=
  who == .kydin || who == .trusted ||
    (match r.n0 with
     | 0x0 | 0x1 | 0x2 | 0x6 => isSecure h who
     | 0x4 => isSecureOf h who h.boot.trigPart
     | 0x5 => (match r.right with | .part | .partWait | .coreEither => mayWrite h who r i j | _ => true)
     | 0x7 => (match r.right with | .partEither | .tsPort => mayWrite h who r i j | _ => true)
     | 0x10 | 0x18 | 0x80 | 0x200 | 0x300 => mayWrite h who r i j
     | 0x20 => (List.range 8).any fun p => ownsIn h p i && isSecureOf h who p
     | 0x40 =>
       if r.id == R_ENG_FAULT.id then
         (List.range 8).any fun p => isSecureOf h who p && ((List.range 64).any fun n => ownerQp h i n == some p)
       else (match r.right with | .qp | .qpSecure => mayWrite h who r i j | _ => true)
     | 0x100 => mayWrite h who r i j
     | 0x400 =>
       (match who with | .host f => hostFnReaches r f.val i | _ => (askerOf h who).part == some (partOfFn i))
     | _ => true)

/-- The value of a register as a read returns it: module time and the owner of a unit's source follow from the state, and a shadow register
reads as the writes that have arrived leave it, those that wait for a COMMIT among them (R9, R166, R192, R531). -/
def readVal (h : Hw) (r : Reg) (i j : Nat) : Nat :=
  if r.id == R_TIME_NOW.id then gateTime h
  else if r.id == R_INT_SRC_CFG.id then srcCfgVal h j
  else if r.n0 == 0x4 then regVal (flushShadow h) r i j
  else regVal h r i j

/-- The queue that a claim register reads (R524). -/
def claimQueue (r : Reg) : Option Nat :=
  if r.id == R_CORE_ICLAIM_M.id then some 0
  else if r.id == R_CORE_ICLAIM_S.id then some 1
  else if r.id == R_CORE_ICLAIM_SEC.id then some 2 else none

/-- A read of a register: its value, and its RC fields cleared; a read that is not accepted has no effect, returns an open value and
is logged, a claim register returns VALID 0 to all but its core, and a source's configuration is read once its committed messages have
been accepted (R6, R444, R525, R526, R531). -/
def readReg (h : Hw) (who : Requester) (r : Reg) (i j : Nat) : Hw × Nat :=
  match claimQueue r with
  | some n =>
    match who with
    | .core c =>
      if c.val == i then
        let h := claimRead h i n
        (h, (h.lastRead.getD 0).toNat)
      else (logRefusedWrite h who r i j, 0)
    | _ => (logRefusedWrite h who r i j, 0)
  | none =>
    if !mayRead h who r i j then
      let (n, h) := takeFree (logRefusedWrite h who r i j)
      (h, Config.freeNat n % 2 ^ 64)
    else
      let h := if r.id == R_INT_SRC_CFG.id then settleSource h j else h
      (r.fields.foldl (fun h f => if f.acc == .rc then fset h f 0 i j else h) h, readVal h r i j)

/-- The measurement-log area: bytes of the entry at an offset; an entry that is not there reads an open value (R138). -/
def logRead (h : Hw) (off size : Nat) : Hw × Nat :=
  match h.boot.log[(off - 0x8000) / 64]? with
  | some e => (h, num (logBytes e) (off % 64) size)
  | none =>
    let (n, h) := takeFree h
    (h, Config.freeNat n % 2 ^ (8 * size))

/-- A read of control space: its value, or none for a bus error; the measurement log takes 64-bit reads only (R4, R5, R138, R565 to R567). -/
def regRead (h : Hw) (who : Requester) (addr size : Nat) : Hw × Option Nat :=
  let o := addr - controlBase
  if controlBase ≤ addr && o / 65536 == 2 && 0x8000 ≤ o % 65536 then
    if size == 8 && addr % 8 == 0 && served h who R_BOOT_STATUS && mayRead h who R_BOOT_STATUS 0 0 then
      let (h, v) := logRead h (o % 65536) size
      (setBusErr h false, some v)
    else (setBusErr h true, none)
  else
    match regAccess h who addr size with
    | none => (setBusErr h true, none)
    | some (r, i, j) =>
      let (h, v) := readReg (wakeFor h r i) who r i j
      (setBusErr h false, some (if size == 8 then v else if addr % 8 == 0 then v % 2 ^ 32 else v / 2 ^ 32))

/-! ### INBOUND_TLP (R472 to R474, R480) -/

/-- A completion for each piece that a 64-byte boundary cuts; one that carries a poisoned byte has EP (R480). -/
def sendCompletions (h : Hw) (n : Nat) (a : Nat) (d : List Byte) (pz : List Bool) : Hw :=
  (pieces a d.length).foldl (fun h (x, c) =>
    sendTlp h (.cpl n (sub d (x - a) c) true (((pz.drop (x - a)).take c).any id))) h

/-- The register of the function, or of a virtual function's mirror, at an offset of BAR0 (R472). -/
def bar0Reg (n o : Nat) : Option (Reg × Nat) :=
  if o < 0x100 then
    (allRegs.find? fun r => r.n0 == 0x400 && r.base == o / 8 * 8 && r.count == 1 && hostReaches r).map fun r => (r, n)
  else if isPf n && 0x4000 ≤ o && o < 0x4000 + 0x40 * 31 then
    let vf := fnNumber n ((o - 0x4000) / 0x40 + 1)
    match o % 0x40 / 8 with
    | 0 => some (R_HOSTFN_CTRL, vf)
    | 1 => some (R_HOSTFN_DLOG_BASE, vf)
    | 2 => some (R_HOSTFN_DLOG_CFG, vf)
    | 3 => some (R_HOSTFN_DLOG_PTR, vf)
    | _ => none
  else none

/-- A dword of the MSI-X table or of the pending-bit array (R472; layout PRESUMED from the base specification, log 11). -/
def msixRead (h : Hw) (n o : Nat) : Nat :=
  let f := fnOf h n
  if 0x9000 ≤ o then
    (List.range 32).foldl (fun a b => if tget false f.msixPend ((o - 0x9000) / 4 * 32 + b) then a + 2 ^ b else a) 0
  else
    let v := (o - 0x8000) / 16
    match (o - 0x8000) % 16 / 4 with
    | 0 => (tget 0 f.msixAddr v).toNat % 2 ^ 32
    | 1 => (tget 0 f.msixAddr v).toNat / 2 ^ 32
    | 2 => (tget 0 f.msixData v).toNat
    | _ => b2n (tget true f.msixMask v)

/-- A dword written to the MSI-X table; the pending-bit array takes no write. -/
def msixWrite (h : Hw) (n o x : Nat) : Hw :=
  if 0x9000 ≤ o then h
  else
    let f := fnOf h n
    let v := (o - 0x8000) / 16
    let a := (tget 0 f.msixAddr v).toNat
    match (o - 0x8000) % 16 / 4 with
    | 0 => setFn h n { f with msixAddr := tset 0 f.msixAddr v (BitVec.ofNat 64 (a / 2 ^ 32 * 2 ^ 32 + x % 2 ^ 32)) }
    | 1 => setFn h n { f with msixAddr := tset 0 f.msixAddr v (BitVec.ofNat 64 (a % 2 ^ 32 + x % 2 ^ 32 * 2 ^ 32)) }
    | 2 => setFn h n { f with msixData := tset 0 f.msixData v (BitVec.ofNat 32 x) }
    | _ => msixFlush (setFn h n { f with msixMask := tset true f.msixMask v (bit x 0) }) n

/-- Whether an offset of BAR0 lies in the MSI-X table or the pending-bit array of a function. -/
def inMsix (n o : Nat) : Bool :=
  (0x8000 ≤ o && o < 0x8000 + 16 * vectorsOf n) || (0x9000 ≤ o && o < 0x9000 + (vectorsOf n + 63) / 64 * 8)

/-- A memory TLP at BAR0: registers of the function, mirrors and MSI-X; other offsets read 0 and ignore writes (R472). A poisoned write
changes nothing there (R480; PRESUMED from the base specification, log 11). -/
def bar0Access (n : Nat) (write : Bool) (o len : Nat) (data : List Byte) (ep : Bool) (s : State) : State :=
  if write && ep then s.upd fun h => poisonIn h n
  else
    let who : Requester := .host (Fin.ofNat 256 n)
    let aligned := (len == 4 || len == 8) && o % len == 0
    if inMsix n o && aligned then
      if write then
        s.upd fun h => (List.range (len / 4)).foldl (fun h i => msixWrite h n (o + 4 * i) (num data (4 * i) 4)) h
      else
        s.upd fun h => sendTlp h (.cpl n ((List.range (len / 4)).flatMap fun i => leBytes 4 (msixRead h n (o + 4 * i))) true false)
    else
      match bar0Reg n o with
      | none => if write then s else s.upd fun h => sendTlp h (.cpl n (zeros len) true false)
      | some (r, k) =>
        let addr := controlBase + (0x400 + k) * 65536 + r.base + o % 8
        if write then
          if r.id == R_HOSTFN_DOORBELL.id && len == 8 && aligned then
            after s (execDoorbell (Fin.ofNat 256 n) (BitVec.ofNat 64 (leNat data)) s)
          else
            let t := regWrite who addr len (leNat data) s
            if t.hw.busErr then t.upd fun h => unsupported h n true else t
        else
          s.upd fun h =>
            match regRead h who addr len with
            | (h, some v) => sendTlp h (.cpl n (leBytes len v) true false)
            | (h, none) => unsupported h n false

/-- A memory TLP at BAR2: the active window set, then DRAM or scratchpad as the function's partition and the window's world (R473,
R474, R476, R480). -/
def bar2Access (n : Nat) (write : Bool) (o len : Nat) (data : List Byte) (ep : Bool) (h : Hw) (m : Mem) : Eff :=
  let p := partOfFn n
  match matchWindow h n write o len with
  | none => { hw := unsupported h n write }
  | some (w, a) =>
    if fget h F_PART_STATUS_STATE 0 p == 2 then { hw := unsupported h n write }
    else
    let who := askerIn h p (fon h F_HOSTFN_WINA_MAP_SECURE n w)
    if write then
      let h := if ep then poisonIn h n else h
      let (e, ok) := agentWrite h m who a data ep
      if ok then e else e.map fun h => unsupported h n true
    else
      let (h, ok, d, pz) := agentRead h m who a len
      { hw := if ok then sendCompletions h n a d pz else unsupported h n false }

/-- INBOUND_TLP: a memory TLP to a function that decodes memory and has BARs; any other gets Unsupported Request (R469, R472 to R474, R480, R490). -/
def execInboundTlp (fn : Fin 256) (write : Bool) (bar : HostBar) (offset : BitVec 40) (len : Nat) (data : List (BitVec 8)) (ep : Bool) (s : State) :
    Host.Outcome State Fault Refusal :=
  let n := fn.val
  let o := offset.toNat
  let len := if write then data.length else len
  if !fnDecodes s.hw n then .next (s.upd fun h => unsupported h n write)
  else
    match bar with
    | .bar0 => .next (bar0Access n write o len data ep s)
    | .bar2 =>
      if barSize s.hw n true == 0 || barSize s.hw n true < o + len then .next (s.upd fun h => unsupported h n write)
      else .next (s.act fun h m => bar2Access n write o len data ep h m)

end Sys2Proof.Machine
end

