-- ==== Sys2Proof/Machine/Retire.lean ====
section
/-!
DEFINITION. Retiring units on command and returning them to service.
-/

namespace Sys2Proof.Machine

/-! ### Retirement and restoration on command (R555 to R558) -/

/-- A unit of a KIND exists: squares, slices, ways as 16 k + w, gates, quarters, die-boundary links as 4 r + direction (R555). -/
def unitOk (kind u : Nat) : Bool :=
  match kind with
  | 1 => decide (u < 80)
  | 2 => decide (u < 160)
  | 3 => decide (u < 2560)
  | 4 => decide (u < 64)
  | 5 => decide (u < 24)
  | 6 => decide (u < 640) && dieBoundary (u / 4) (u % 4)
  | _ => false

/-- The partition whose reset a retirement of the unit waits for (R558). -/
def unitOwner (h : Hw) (kind u : Nat) : Option Nat :=
  match kind with
  | 1 => ownerSquare h u
  | 2 => ownerCore h u
  | 3 => ownerCore h (u / 16)
  | 4 => ownerGate h u
  | 5 => ownerQuarter h u
  | _ => none

/-- Another retirement, a fence or an update session is under way (R558). -/
def retireBusy (h : Hw) : Bool :=
  h.kyd.retireRun.isSome || h.kyd.retireWait.isSome || h.grid.fence.isSome || h.boot.update != .idle

/-- The compute and link dies are powered, so that a unit can be taken out of running hardware (R71, R90). -/
def diesUp (h : Hw) : Bool := decide (3 ≤ modeNow h) || (modeNow h == 2 && decide (1 ≤ h.mod.stepsDone))

/-- A retirement or restoration under a fence, which answers when the fence ends (R436, R555). -/
def underFence (h : Hw) (m : Mem) (path : MailPath) (r code : Nat) (run : Nat × Nat × Bool) : Eff :=
  let (h, c) := startFence h r code
  if c == rcRunning then { hw := { h with kyd := { h.kyd with retireRun := some run, retirePath := some path } } }
  else mailAnswer h m path c

/-- A unit leaves service: the RETIRE entry, then what R555 says happens while running. With the dies unpowered the entry alone
stands, and startup acts on it. -/
def retireNow (h : Hw) (m : Mem) (path : MailPath) (kind u : Nat) : Eff :=
  let entry := fun (h : Hw) => lifeRetire h kind u 2 false
  if h.kyd.retired.contains (kind, u) then mailAnswer h m path rcRefused
  else if kind == 6 then
    if !diesUp h then mailAnswer h m path 6
    else if 4 ≤ sparesUsed h (u / 4) (u % 4) then mailAnswer h m path rcRefused
    else underFence (addLife h 7 [6, u, 2, 0]) m path (u / 4) (9 + u % 4) (6, u, false)
  else if kind == 2 || kind == 5 || !diesUp h then mailAnswer (entry h) m path rcDone
  else if kind == 1 then (resetSquare (entry h) m u).next m fun h m => underFence h m path (routerOf u) 4 (1, u, false)
  else if kind == 4 then mailAnswer (retireGate h u 2) m path rcDone
  else
    let (e, ok) := disableWay h m (u / 16) (u % 16) 2
    e.next m fun h m => mailAnswer h m path (if ok then rcDone else rcRefused)

/-- A restorable unit returns to service (R555). -/
def restoreNow (h : Hw) (m : Mem) (path : MailPath) (kind u : Nat) : Eff :=
  let entry := fun (h : Hw) => lifeRetire h kind u 2 true
  if !([1, 2, 4].contains kind && h.kyd.retired.contains (kind, u)) then mailAnswer h m path rcRefused
  else if kind == 1 && diesUp h then underFence (entry h) m path (routerOf u) 6 (1, u, true)
  else if kind == 4 then
    let h := setGate (entry h) u { gateOf h u with retired := false }
    mailAnswer (retrainGate h u) m path rcDone
  else mailAnswer (entry h) m path rcDone

/-- The retirement that waited for the reset of a partition runs (R558). -/
def retireWaiting (h : Hw) (m : Mem) (p : Nat) : Eff :=
  match h.kyd.retireWait with
  | none => { hw := h }
  | some (path, kind, u, restore) =>
    if unitOwner h kind u != some p then { hw := h }
    else
      let h := { h with kyd := { h.kyd with retireWait := none } }
      if restore then restoreNow h m path kind u else retireNow h m path kind u

end Sys2Proof.Machine
end

