-- ==== Sys2Proof/Machine/Apply.lean ====
section
/-!
DEFINITION. The steps of the startup sequence, the application of the image, and the end of a partition reset.
-/

namespace Sys2Proof.Machine

/-! ### Layout that PARTITION and SHARE records give (R112, R262, R280, R442) -/

/-- MEM_PART and MEM_MEMBER of a partition (R262). -/
def layoutPart (h : Hw) (t : Tab PartCfg) (p : Nat) : Hw :=
  let c := tget {} t p
  let ms := cfgMembers h c
  let h := fset (fset h F_MEM_PART_INTERLEAVE c.interleave 0 p) F_MEM_PART_MEMBERS ms.length 0 p
  let h := fset (fset h F_MEM_PART_SIZE_256M (cfgSize h c) 0 p) F_MEM_PART_BASE_256M (cfgBase h t p) 0 p
  ms.zipIdx.foldl (fun h (e : (Nat × Nat × Nat) × Nat) =>
    let i := 32 * p + e.2
    fset (fset (fset h F_MEM_MEMBER_QUARTER e.1.1 0 i) F_MEM_MEMBER_BASE_256M e.1.2.1 0 i) F_MEM_MEMBER_SIZE_256M e.1.2.2 0 i) h

/-- The regions of a quarter that the layout gives: partition, base and size in 256 MiB units, in ascending address (R280). -/
def quarterRegions (h : Hw) (t : Tab PartCfg) (q : Nat) : List (Nat × Nat × Nat) :=
  ((List.range 8).flatMap fun p => ((cfgMembers h (tget {} t p)).filter fun m => m.1 == q).map fun m => (p, m.2.1, m.2.2)).mergeSort
    fun a b => decide (a.2.1 ≤ b.2.1)

/-- Region registers of the partitions that a test picks (R278, R280). -/
def setRegions (h : Hw) (t : Tab PartCfg) (pick : Nat → Bool) : Hw :=
  (List.range 24).foldl (fun h q =>
    (quarterRegions h t q).zipIdx.foldl (fun h (e : (Nat × Nat × Nat) × Nat) =>
      let (p, b, n) := e.1
      if pick p then
        let h := fset (fset (fset h F_QMC_RGN_EN 1 q e.2) F_QMC_RGN_SECURE 0 q e.2) F_QMC_RGN_PART p q e.2
        fset (fset h F_QMC_RGN_BASE (128 * b) q e.2) F_QMC_RGN_LIMIT (128 * (b + n) - 1) q e.2
      else h) h) h

/-- Ownership, the memory map, regions and what follows from them, before any record configures a resource (R22, R24, R112, R124, R262,
R280, R442). -/
def setLayout (h : Hw) (recs : List ImgRec) : Hw :=
  let t := cfgFold [] recs
  let trig := match recs.find? fun r => r.type == rtModule with
    | some r => if num r.body 8 1 ≤ 7 then num r.body 8 1 else 0
    | none => 0
  let h := { h with boot := { h.boot with parts := t, trigPart := trig, quotaLimits := [] } }
  let h := (List.range 8).foldl (fun h p => layoutPart h t p) h
  let h := setRegions h t fun _ => true
  (List.range 8).foldl (fun h p =>
    let c := tget {} t p
    let h := if c.present then fset h F_PART_STATUS_STATE 1 0 p else h
    imageResets (if c.entryS.isSome then fset h F_PART_STATUS_SECURE_IMAGE 1 0 p else h) p) h

/-! ### Records (R111 to R118, R123, R127) -/

/-- A LANE_GROUP record for one gate (R114). -/
def laneGroup (h : Hw) (g : Nat) (b : List Byte) : Hw :=
  let mask := num b 2 2
  let h := fset (fset (fset h F_GATE_CONFIG_PERSONALITY (num b 0 1) g) F_GATE_CONFIG_RATE (num b 1 1) g) F_GATE_CONFIG_SWING_MV (num b 4 2) g
  (List.range 16).foldl (fun h k =>
    fset (fset h F_LANE_CONFIG_IN_USE (b2n (bit mask k)) g k) F_LANE_CONFIG_EQ_STORED (num b 6 1) g k) h

/-- A MATCH_TABLE record: its entries in all three copies (R115, R203). -/
def matchTable (h : Hw) (r : ImgRec) : Hw :=
  let g := bits r.target 7 0
  let first := bits r.target 25 16
  let h := (entries16 r.body).zipIdx.foldl (fun h (e : List Byte × Nat) =>
    copies.foldl (fun h c => mtPut h c g (first + e.2) (mtBody e.1)) h) h
  countValid h g

/-- Every entry of a gate's table is invalid (R127). -/
def emptyTable (h : Hw) (g : Nat) : Hw :=
  let clear := fun (t : Tab MtEntry) => t.filter fun e => e.1 / 1024 != g
  countValid { h with ave := { h.ave with mt0 := clear h.ave.mt0, mt1 := clear h.ave.mt1, mt2 := clear h.ave.mt2 } } g

/-- One REG_WRITE entry, as Kydin with the secure world; one that completes with a bus error is counted (R118). -/
def regEntry (s : State) (a v : Nat) : State :=
  let t := regWrite .kydin a 8 v s
  if t.hw.busErr then t.upd fun h => fadd h F_BOOT_STATUS_APPLY_ERRS 1 else t

/-- A SEQ_FIRMWARE body for one sequencer: loaded and started at ENTRY (R111, R134). -/
def seqLoad (h : Hw) (g load entry : Nat) (code : List Byte) : Hw :=
  { loadSmall h g load entry code with boot := { h.boot with seqEntry := tset 0 h.boot.seqEntry g entry } }

/-- Firmware of a hub core, with the chain it was measured under and where it came from (R111, R134, R461). -/
def hubFirmware (h : Hw) (t : Nat) (b chain : List Byte) (source : Nat) : Hw :=
  let x := h.boot
  let h := { h with boot := { x with fw := tins x.fw t (b.drop 8), fwLoad := tset 0 x.fwLoad t (num b 0 4),
                                     fwEntry := tset 0 x.fwEntry t (num b 4 4), fwChain := tins x.fwChain t chain,
                                     fwFrom := tset 0 x.fwFrom t source } }
  loadSmall h (63 + t) (num b 0 4) (num b 4 4) (b.drop 8)

/-- Element `j` of instance `i` of a register is partition `p`'s, for a value written to it (R127). A queue pair of another partition
is not (R84; DEDUCED, log 22). -/
def partOwnsReg (h : Hw) (p : Nat) (r : Reg) (i j v : Nat) : Bool :=
  match r.n0 with
  | 0x80 => ownerGate h i == some p
  | 0x20 => ownerQuarter h i == some p || (r.id == R_QMC_RGN.id && fieldVal F_QMC_RGN_PART v == p)
  | 0x40 => if 0x1000 ≤ r.base && (ownerQp h i j).isSome then ownerQp h i j == some p else ownerQuarter h i == some p
  | 0x100 | 0x200 | 0x300 => ownerCore h i == some p
  | 0x400 => partOfFn i == p
  | 0x5 =>
    if r.id == R_RBT_CORE_SUB.id then ownerCore h j == some p
    else if r.id == R_RBT_PART_WAIT.id then j / 8 == p
    else r.count == 8 && j == p
  | 0x18 => i == p
  | 0x10 => ownerFlow h (1024 * i + j) == some p
  | 0x7 => if r.id == R_PART_QUOTA.id then j / 8 == p else if r.id == R_TS_PORT.id then j / 2 == p else r.count == 8 && j == p
  | 0x8 => if r.id == R_HOST_OUT.id then j / 32 == p else r.count == 8 && j == p
  | 0x9 => [R_BLVD_LAND.id, R_BLVD_LAND_STATUS.id, R_BLVD_FREE.id].contains r.id && j == p
  | 0xA => (r.id == R_INT_SRC_CFG.id || r.id == R_INT_SRC_STATE.id) && (srcOwner h j == some p || h.par.srcReset.contains (p, j))
  | _ => false

/-- Owner-world bits of the units of partition `p` only (R127, R448). -/
def ownwOnly (h : Hw) (p : Nat) (r : Reg) (v : Nat) : Hw :=
  match r.fields with
  | f :: _ => fset h f ((List.range f.width).foldl (fun a u => if ownwOwner h r u == some p then setBit a u (bit v u) else a) (fget h f))
  | [] => h

/-- A REG_WRITE entry at a partition's reset: a register of the partition, or the partition's fields of a register of several (R127). -/
def reapplyEntry (s : State) (p a v : Nat) : State :=
  match regAt (a - controlBase) with
  | none => s
  | some (r, i, j) =>
    if r.n0 == 0x7 && 0x400 ≤ r.base && r.base ≤ 0x420 then s.upd fun h => ownwOnly h p r v
    else if r.id == R_INT_CTRL.id then
      s.upd fun h => fset h F_INT_CTRL_DISABLE (setBit (fget h F_INT_CTRL_DISABLE) p (bit v p))
    else if r.id == R_STR_CFG.id then
      s.upd fun h => if (squareOf i).any fun sq => ownerSquare h sq == some p then writeField false h F_STR_CFG_IDLE_US i 0 v else h
    else if partOwnsReg s.hw p r i j v then
      let t := s.upd fun h => { h with par := { h.par with rgnReset := (p, i, j) :: h.par.rgnReset } }
      regWrite .kydin a 8 v (if r.id == R_QMC_RGN.id then t else s)
    else s

/-- A record that targets a partition (R127, R463). -/
def targetsPart (r : ImgRec) : Bool := [rtPartition, rtShare, rtQuota, rtCoreImage].contains r.type

/-- A QUOTA record: it replaces the earlier limit of its kind (R116). -/
def quotaRecord (h : Hw) (r : ImgRec) : Hw :=
  let k := num r.body 0 2
  let n := 8 * r.target + k - 1
  let h := { h with boot := { h.boot with quotaLimits := tset 0 h.boot.quotaLimits n (num r.body 8 8) } }
  let h := fset h F_PART_QUOTA_LIMIT (num r.body 8 8) 0 n
  if k == 3 then { h with par := { h.par with nextLimit := tset 0 h.par.nextLimit r.target (num r.body 8 8) } } else h

/-- CORE_IMAGE data in DRAM, written by Kydin (R117, R278). -/
def coreImage (h : Hw) (m : Mem) (r : ImgRec) : Eff :=
  match coreData r.body with
  | some d => agentStore h m .kydin (num r.body 0 8) d
  | none => { hw := h }

/-- Whether a record's gate or partition is one that is being configured: all of them, or one partition's (R127). -/
def picks (h : Hw) (only : Option Nat) (g : Nat) : Bool := only.all fun p => ownerGate h g == some p

/-- Whether a MICROCODE record loads engine `n`, or a SEQ_FIRMWARE record gate `n`: at application, or at the reset of a partition of the
unit that met a component update (R111, R127, R135). -/
def loads (h : Hw) (only : Option Nat) (n : Nat) (engine : Bool) : Bool :=
  only.all fun p => bit h.boot.metUpdate p &&
    (if engine then bit (partOf h p).engines n || ownerQuarter h n == some p else ownerGate h n == some p)

/-- What one record does: at application, or where it belongs to partition `only` at that partition's reset (R111 to R118, R127, R135). -/
def applyRecord (s : State) (chain : List Byte) (source : Nat) (only : Option Nat) (r : ImgRec) : State :=
  if targetsPart r then
    if only.any fun p => r.target != p then s
    else
      let s := s.upd fun h => extendPm h r.target (Config.sha384 r.raw)
      if r.type == rtQuota then s.upd fun h => quotaRecord h r
      else if r.type == rtCoreImage then s.act fun h m => coreImage h m r
      else s
  else if r.type == rtLaneGroup then
    s.upd fun h => ((List.range (bits r.target 15 8)).map (bits r.target 7 0 + ·)).foldl (fun h g =>
      if picks h only g then laneGroup h g r.body else h) h
  else if r.type == rtMatchTable then s.upd fun h => if picks h only (bits r.target 7 0) then matchTable h r else h
  else if r.type == rtRegWrite then
    (entries16 r.body).foldl (fun s e =>
      match only with
      | none => regEntry s (num e 0 8) (num e 8 8)
      | some p => reapplyEntry s p (num e 0 8) (num e 8 8)) s
  else if r.type == rtMicrocode then
    s.upd fun h => (onesOf 24 r.target).foldl (fun h q => if loads h only q true then fset h F_ENG_INFO_MICROCODE (num r.body 0 4) q else h) h
  else if r.type == rtSeqFirmware then
    s.upd fun h => (onesOf 64 (num r.body 0 8)).foldl (fun h g =>
      if loads h only g false then seqLoad h g (num r.body 8 4) (num r.body 12 4) (r.body.drop 16) else h) h
  else if only.isSome then s
  else if r.type == rtModule then
    s.upd fun h => fset (fset h F_TIMING_CONFIG_CLKX_HZ (num r.body 0 4)) F_TIMING_CONFIG_CPT_M1 (num r.body 4 4 - 1)
  else if r.type == rtFirmware && r.target != 0 then s.upd fun h => hubFirmware h r.target r.body chain source
  else s

/-- Records in image order, each measured before it is applied (R123, R131). `n` is the number of the next record. -/
def applyRecords (s : State) (chain : List Byte) (source slot : Nat) : Nat → List ImgRec → State
  | _, [] => s
  | n, r :: l =>
    let s := s.upd fun h => logEntry h evRecord n r.type slot (Config.sha384 r.raw)
    applyRecords (applyRecord s chain source none r) chain source slot (n + 1) l

/-! ### The startup sequence (R90, R91, R123, R126, R131) -/

/-- Lanes of a gate in use have trained, or its training has timed out; a retired gate is not waited for (R91). -/
def gateReady (h : Hw) (g : Nat) : Bool :=
  (gateOf h g).retired || (usedLanes h g).all fun k => laneUp h g k || (laneOf h g k).timedOut

def gatesReady (h : Hw) : Bool := (List.range 64).all (gateReady h)

/-- Units that the lifetime records list leave service: cores, slices, ways and gate logic (R90, R405, R555, R556). -/
def retireListed (h : Hw) : Hw :=
  let out := ((h.kyd.retired.filter fun u => u.1 == 2).map (·.2)).mergeSort
  let h := h.kyd.retired.foldl (fun h u =>
    if u.1 == 1 then
      let h := fset h F_STR_STATUS_DETACHED 1 (routerOf u.2)
      fset (fset h F_CORE_STATUS_STATE 3 (2 * u.2)) F_CORE_STATUS_STATE 3 (2 * u.2 + 1)
    else if u.1 == 3 then recordWays h (u.2 / 16)
    else if u.1 == 4 then setGate h u.2 { gateOf h u.2 with retired := true }
    else h) h
  { h with hom := { h.hom with out := out } }

/-- The 32-byte records of a sector. -/
def sectorRecs (l : List Byte) : List (List Byte) := (List.range (l.length / 32)).map fun i => sub l (32 * i) 32

/-- The highest PROGRESS among the valid checkpoints of the quarter's GEN in both parts; 0 where there is none (R274). -/
def bestCkpt (v : Quarter) (q : Nat) : Nat :=
  ((sectorRecs (v.ckptA ++ v.ckptB)).filter fun b => resilverRecOk 0x4351 b && num b 2 1 == q && num b 8 4 == v.gen % 2 ^ 32).foldl
    (fun a b => max a (num b 4 4)) 0

/-- Where a re-silver resumes, and the last PROGRESS in NOR: by the journal where its CRC holds and its GEN is the record's, else by the
checkpoints (R274). -/
def resumeAt (v : Quarter) (q : Nat) : Nat × Nat :=
  if resilverRecOk 0x4A51 v.journal && num v.journal 0xC 4 == v.gen % 2 ^ 32 then (num v.journal 4 4, num v.journal 8 4)
  else (bestCkpt v q, bestCkpt v q)

/-- A quarter whose lifetime record shows an unfinished re-silver goes on with it (R274). -/
def resumeResilver (h : Hw) (q : Nat) : Hw :=
  let v := quarterOf h q
  if !v.rsOpen then h
  else
    let (p, c) := resumeAt v q
    writeJournal (fset (fset h F_QMC_RESILVER_PROGRESS p q) F_QMC_RESILVER_CHECKPOINT c q) q

/-- DRAM training at startup: a physical channel that fails is counted and marked, but for the one a spared quarter has powered down, and
the marks that waited for catch-up when a reset came take effect (R93, R269, R270, R277). -/
def trainDram (h : Hw) (fails : List (Fin 24 × Fin 10)) : Eff :=
  (effEach (List.range 24) h fun q h => waitingMarks h q).bind fun h =>
    effEach fails h fun x h =>
      if qState h x.1.val == qSpared && mark1 h x.1.val == some x.2.val then { hw := h }
      else applyMark (fadd h F_QMC_CHERR_TRAIN_FAILS 1 x.1.val x.2.val) x.1.val x.2.val 2

/-- STARTUP_STEP: rails up, with listed units out of service and interrupt state restored; DRAM trained; DRAM initialised to zero or
taken out of self-refresh, with re-silvers resumed; lanes trained or timed out (R90 to R92, R274, R529). -/
def execStartupStep (st : StartupKind) (s : State) : Host.Outcome State Fault Refusal :=
  .next (s.act fun h _ =>
    let done := fun (h : Hw) => { h with mod := { h.mod with stepsDone := h.mod.stepsDone + 1 } }
    match st with
    | .powerDies => { hw := if startupAt h 1 then done (restoreInts (retireListed h)) else h }
    | .trainDram fails =>
      if startupAt h 2 then trainDram (done { h with mod := { h.mod with dramActive := true } }) fails else { hw := h }
    | .initDram =>
      if startupAt h 3 then
        { hw := (List.range 24).foldl resumeResilver (done { h with mod := { h.mod with dramRefresh := false } }),
          ops := if h.mod.dramRefresh then [] else [.wipe] }
      else { hw := h }
    | .trainLanes => { hw := if startupAt h 5 && gatesReady h then done h else h })

/-- Records of an image whose chain values are those found at verification, before the first that differs (R123). -/
def goodRecords (now found : List (List Byte)) : Nat := ((now.zip found).takeWhile fun e => e.1 == e.2).length - 1

/-- A record's chain value differs: the slot is BAD and the module enters M7 (R123). -/
def chainFails (h : Hw) (b : Bool) : Eff :=
  let h := showSlots (setImgSlot h b { imgSlot h b with state := .bad })
  fatal h blkBoot 0 (R_BOOT_STATUS.offset 0) (regVal h R_BOOT_STATUS) .chain []

/-- The gates in use begin to train (R90, R160). -/
def trainGates (h : Hw) : Hw :=
  (List.range 64).foldl (fun h g =>
    (usedLanes h g).foldl (fun h k => startTraining h g k) h) h

/-- IMAGE_APPLICATION: the slot is read again, measured and applied in image order. `misread` is the number of a record whose chain
value comes out different (R123, R124, R131). The Kydin firmware digest covers the code of its FIRMWARE record, after LOAD and ENTRY
(DESIGN CHOICE, log 63). -/
def execImageApplication (misread : Option Nat) (s : State) : Host.Outcome State Fault Refusal :=
  match s.hw.boot.imgRunning with
  | none => .next s
  | some b =>
    if !startupAt s.hw 4 then .next s
    else
      let img := slotImage (imgSlot s.hw b) imageSlotSize
      let recs := (imgRecs img).getD []
      let n := goodRecords (imgChainValues img recs) s.hw.boot.chain
      let n := match misread with | some i => min n (i - 1) | none => n
      let good := recs.take n
      let source := 256 * imgModule + b2n b
      let err := s.hw.busErr
      let s := s.upd fun h =>
        let h := logEntry h evFirmware 0 imgKydin (b2n (h.boot.kydRunning.getD false)) (Config.sha384 (tget [] h.boot.fw 0))
        setLayout (logEntry h evHeader 0 imgModule (b2n b) (imgH0 img)) good
      let s := applyRecords s (imgChain img) source (b2n b) 1 good
      let s := s.upd fun h => setBusErr h err
      if n < recs.length then .next (s.act fun h _ => chainFails h b)
      else
        .next (s.upd fun h =>
          let h := logEntry h evChain 0 imgModule (b2n b) (imgChain img)
          functionsReady (trainGates { h with boot := { h.boot with recordsDone := true }, mod := { h.mod with stepsDone := 5 } }))

/-- STARTUP_COMPLETE: RWL fields are locked, the boot part of the log is closed, the module is in M3 and the ready source is raised
(R90, R91, R126, R131). -/
def execStartupComplete (s : State) : Host.Outcome State Fault Refusal :=
  .next (s.upd fun h =>
    if !(startupAt h 6 && gatesReady h) then h
    else
      let h := fset h F_BOOT_STATUS_LOCKED 1
      let h := { h with boot := { h.boot with logClosed := true, bootLen := h.boot.log.length },
                        mod := { h.mod with transCause := fget h F_MODE_STATUS_LAST_CAUSE } }
      functionsReady (raiseSource (holdBlocks (reachMode h 3) 3) srcReady))

/-! ### The end of a partition reset (R87, R126, R127, R131, R135) -/

/-- The records of the running slot. -/
def runningRecords (h : Hw) : List ImgRec :=
  match h.boot.imgRunning with
  | some b => (imgRecs (slotImage (imgSlot h b) imageSlotSize)).getD []
  | none => []

/-- The records of partition `p` again: its regions, emptied match tables, then the set of R127 in image order, and a log entry with
CHAIN (R127, R131, R463). -/
def reapply (s : State) (p : Nat) : State :=
  let err := s.hw.busErr
  let s := s.upd fun h =>
    let h := setRegions h h.boot.parts fun x => x == p
    ((List.range 64).filter fun g => ownerGate h g == some p).foldl emptyTable h
  let chain := s.hw.boot.chain.getLastD []
  let s := (runningRecords s.hw).foldl (fun s r => applyRecord s chain 0 (some p) r) s
  s.upd fun h => logEntry (setBusErr h err) evReapply p imgModule (b2n (h.boot.imgRunning.getD false)) chain

/-- A partition leaves reset at the activity of the mode: cores are held until started, gates realign, BUSY clears; in M7 it is held,
and a trigger partition's configuration stays frozen until it runs again (R25, R84, R87, R125). -/
def releasePart (h : Hw) (p : Nat) : Hw :=
  let h := (coresOf h p).foldl (fun h c => if fget h F_CORE_STATUS_STATE c == 4 then fset h F_CORE_STATUS_STATE 0 c else h) h
  let h := if (partOf h p).present then fset h F_PART_STATUS_STATE (if modeNow h == 7 then 4 else 1) 0 p
    else fset h F_PART_STATUS_STATE 0 0 p
  let h := fset h F_PART_RESET_BUSY (setBit (fget h F_PART_RESET_BUSY) p false)
  let h := { h with boot := { h.boot with metUpdate := setBit h.boot.metUpdate p false },
                    par := { h.par with
                      rgnReset := h.par.rgnReset.filter (·.1 != p), srcReset := h.par.srcReset.filter (·.1 != p) } }
  let h := if p == h.boot.trigPart && modeNow h != 7 then fset h F_AVE_STATUS_CFG_FROZEN 0 else h
  ((List.range 64).filter fun g => ownerGate h g == some p).foldl (fun h g =>
    retrainGate (fset h F_GATE_STATUS_RUN (b2n (ingestRuns h && (readoutGates h).contains g)) g) g) h

/-- PARTITION_RESET_RELEASE; a retirement that waited for it follows (R87, R127, R135, R558). -/
def execPartitionResetRelease (p : Fin 8) (s : State) : Host.Outcome State Fault Refusal :=
  if !bit (fget s.hw F_PART_RESET_BUSY) p.val || updateTouches s.hw p.val then .next s
  else .next ((reapply s p.val).act fun h m => retireWaiting (releasePart h p.val) m p.val)

end Sys2Proof.Machine
end

