-- ==== Sys2Proof/Machine/Mailbox.lean ====
section
/-!
DEFINITION. The mailbox of Kydin, component updates, the service records and the test lock.
-/

namespace Sys2Proof.Machine

/-! ### Requests and answers (R122, R134, R552, R553) -/

def rcNotPermitted : Nat := 6
def rcBadRequest : Nat := 7

/-- The paths that offer a command (R553). -/
structure Offer where
  smb : Bool := true
  band : Bool := true
  rom : Bool := false
  deriving DecidableEq, Repr

def smbPath : MailPath → Bool
  | .smbus _ => true
  | .inband => false

/-- A request of this path is still running (R552). -/
def pathRuns (h : Hw) (path : MailPath) : Bool :=
  h.kyd.retirePath.any (smbPath · == smbPath path) || h.kyd.sessionPath.any (smbPath · == smbPath path) ||
    h.kyd.retireWait.any (fun w => smbPath w.1 == smbPath path)

/-- The request that Kydin takes up: an in-band one is in its block, whose second byte is TAG; none where no new one waits (R553). -/
def takeRequest (h : Hw) (m : Mem) : MailPath → Option Hw
  | .smbus _ => some h
  | .inband =>
    match h.kyd.mboxAddr with
    | none => none
    | some a =>
      if pathRuns h .inband then none
      else
        let (h, _, b, _) := agentRead h m .kydin (a + 1) 1
        some { h with kyd := { h.kyd with tagIn := (b.headD 0).toNat } }

/-- Serve a request: nothing without power, in a module reset, or under the ROM for a command that is not a recovery command; BUSY
while a request of its path or an update session of the other runs; BAD_REQUEST on a path that does not offer the command (R122, R134,
R552, R553). -/
def mailbox (o : Offer) (path : MailPath) (run : Hw → Mem → Eff) (s : State) : State :=
  s.act fun h m =>
    if !powered h || h.mod.warmReset || (!h.mod.fwVerified && !o.rom) then { hw := h }
    else
      match takeRequest h m path with
      | none => { hw := h }
      | some h =>
        if pathRuns h path || h.kyd.sessionPath.isSome then mailAnswer h m path rcBusy
        else if !(if smbPath path then o.smb else o.band) then mailAnswer h m path rcBadRequest
        else run h m

/-- Recovery commands (R122), and commands of one path (R553). -/
def offerAll : Offer := {}
def offerRom : Offer := { rom := true }
def offerSmb : Offer := { band := false }
def offerBand : Offer := { smb := false }

/-- RESPONSE_READ: the response of the SMBus request, or its TAG and RUNNING; SMB_ALERT_N is released (R552). -/
def execResponseRead (s : State) : Host.Outcome State Fault Refusal :=
  .next (s.upd fun h =>
    if !powered h then h
    else { h with sup := { h.sup with smbAlert := false }, lastResult := h.kyd.respSmb.getD [] })

/-- A request that is not answered yet: its read gives TAG and RUNNING (R552). -/
def runningAnswer (h : Hw) : MailPath → Hw
  | .smbus tag => { h with kyd := { h.kyd with respSmb := some [BitVec.ofNat 8 tag.toNat, BitVec.ofNat 8 rcRunning] } }
  | .inband => h

/-! ### Identity and modes -/

/-- INFO: serial, part, versions, mode and test state; the widths of the versions and the versions of the two images are open (R553). -/
def execInfo (path : MailPath) (s : State) : Host.Outcome State Fault Refusal :=
  .next (mailbox offerRom path (fun h m =>
    let (a, h) := takeFree h
    let (b, h) := takeFree h
    mailAnswer h m path rcDone (leBytes 8 h.blvd.serial ++ leBytes 1 (b2n h.boot.partIs384) ++ leBytes 4 Config.romVersion.toNat ++
      leBytes 4 (Config.freeNat a) ++ leBytes 4 (Config.freeNat b) ++ leBytes 1 (modeNow h) ++ leBytes 1 (fget h F_KYD_STATUS_TEST))) s)

/-- MBOX_MODE: a request as MODE_REQUEST makes it, answered with its RESULT (R98, R553). -/
def execMboxMode (path : MailPath) (mode : BitVec 8) (s : State) : Host.Outcome State Fault Refusal :=
  .next (mailbox offerAll path (fun h m =>
    let (h, r) := requestMode h mode.toNat false
    mailAnswer (answer h F_MODE_REQUEST_RESULT F_MODE_REQUEST_SEQ r) m path rcDone (leBytes 1 r)) s)

/-- WAKE: M0 to M1, and on from there; a thermal trip forbids it (R68, R74). -/
def execWake (path : MailPath) (s : State) : Host.Outcome State Fault Refusal :=
  .next (mailbox offerSmb path (fun h m =>
    if modeNow h != 0 || h.sup.trip then mailAnswer h m path rcNotPermitted
    else (enterMode h 1 7).next m fun h m => mailAnswer (tryM2 h) m path rcDone) s)

/-- DORMANT: to M0, answered before power leaves DRAM (R74). -/
def execDormant (path : MailPath) (s : State) : Host.Outcome State Fault Refusal :=
  .next (mailbox offerAll path (fun h m =>
    (mailAnswer h m path rcDone).bind fun h => if modeNow h == 0 then { hw := h } else enterMode h 0 7) s)

/-- WARM_RESET: answered, then a module warm reset by Kydin's command (R84). -/
def execWarmReset (path : MailPath) (s : State) : Host.Outcome State Fault Refusal :=
  .next (mailbox offerRom path (fun h m => (mailAnswer h m path rcDone).bind fun h => Machine.warmReset h .kydinCommand) s)

/-- HOLD, answered first: set, the module leaves M2 for M1; cleared, M1 goes on to M2 where it may (R74, R120). -/
def execHold (path : MailPath) (set : BitVec 8) (s : State) : Host.Outcome State Fault Refusal :=
  .next (mailbox offerAll path (fun h m =>
    if 2 ≤ set.toNat then mailAnswer h m path rcBadRequest
    else
      let h := { h with mod := { h.mod with serviceHold := set == 1 } }
      (mailAnswer h m path rcDone).bind fun h =>
        if set == 1 then (if modeNow h == 2 then enterMode h 1 7 else { hw := h }) else { hw := tryM2 h }) s)

/-- A planned switch: the load moves without a dip, the new input's average is V_in, and the rule on falling applies to it (R53, R57,
R58). -/
def plannedSwitch (h : Hw) (m : Mem) (i : Input) : Eff :=
  let h := takeInput h i 3
  fallRule (setVin h h.sup.vin) m

/-- SUPPLY: a planned make-before-break switch; FAILED to an invalid input (R58, R553). -/
def execSupply (path : MailPath) (inp : BitVec 8) (s : State) : Host.Outcome State Fault Refusal :=
  .next (mailbox offerAll path (fun h m =>
    if 2 ≤ inp.toNat then mailAnswer h m path rcBadRequest
    else
      let i := if inp == 0 then Input.a else .b
      if !(pinOf h i).valid then mailAnswer h m path rcFailed
      else if h.sup.selected == some i then mailAnswer h m path rcDone
      else if h.sup.switchTo.isSome then mailAnswer h m path rcBusy
      else (plannedSwitch h m i).next m fun h m => mailAnswer h m path rcDone) s)

/-! ### Slots (R103, R105, R120, R133, R554) -/

/-- TARGET of the slot commands: Kydin A, Kydin B, image A, image B. -/
def targetSlot (h : Hw) (t : Nat) : Slot := if t < 2 then kydSlot h (t == 1) else imgSlot h (t == 3)
def setTarget (h : Hw) (t : Nat) (s : Slot) : Hw := if t < 2 then setKydSlot h (t == 1) s else setImgSlot h (t == 3) s
def targetSize (t : Nat) : Nat := if t < 2 then kydinSlotSize else imageSlotSize

/-- The slot is the one that runs and is write-protected; under the ROM both Kydin slots are writable (R105, R553). -/
def targetRuns (h : Hw) (t : Nat) : Bool :=
  if t < 2 then h.mod.fwVerified && h.boot.kydRunning == some (t == 1) else h.boot.imgRunning == some (t == 3)

/-- An erased slot; the sectors erased of an image slot are counted (R547, R554). -/
def eraseTarget (h : Hw) (t : Nat) : Hw :=
  let h := setTarget h t {}
  let h := { h with kyd := { h.kyd with slotBuf := tdel h.kyd.slotBuf t } }
  let h := if t < 2 then h else
    let l := h.kyd.erases
    { h with kyd := { h.kyd with erases := l.set (t - 2) (lget 0 l (t - 2) + 8192) } }
  showSlots h

/-- SLOT_ERASE (R554). -/
def execSlotErase (path : MailPath) (target : BitVec 8) (s : State) : Host.Outcome State Fault Refusal :=
  .next (mailbox offerRom path (fun h m =>
    let t := target.toNat
    if 4 ≤ t then mailAnswer h m path rcBadRequest
    else if targetRuns h t then mailAnswer h m path rcRefused
    else mailAnswer (eraseTarget h t) m path rcDone) s)

/-- Program bytes of a slot: an erased byte takes the value; what a byte programmed before becomes is open. -/
def programSlot (h : Hw) (t : Nat) (data : List (Nat × Byte)) : Hw :=
  let (n, h) := takeFree h
  let s := targetSlot h t
  let bytes := data.foldl (fun (l : List (Nat × Byte)) e =>
    let old := tget 0xFF l e.1
    tset 0xFF l e.1 (if old == 0xFF then e.2 else BitVec.ofNat 8 (Config.freeNat n / 256 ^ (e.1 % 256)))) s.bytes
  setTarget h t { s with bytes := bytes }

/-- Bytes that a SLOT_WRITE brings. -/
def dataLen : SlotData → Nat
  | .inline bytes => bytes.length
  | .buffer _ len => len

/-- A path carries a form of data: up to 240 bytes of the request's own on either, and a buffer in-band only (R133, R553; DESIGN CHOICE, log
89). -/
def carries (path : MailPath) : SlotData → Bool
  | .inline bytes => decide (bytes.length ≤ 240)
  | .buffer _ _ => !smbPath path

/-- The bytes of a SLOT_WRITE: Kydin reads a buffer; none where the read is refused or gives poison (R133). -/
def slotData (h : Hw) (m : Mem) : SlotData → Hw × Option (List Byte)
  | .inline bytes => (h, some bytes)
  | .buffer addr len =>
    let (h, ok, bytes, pz) := agentRead h m .kydin addr.toNat len
    (h, if ok && !pz.any id then some bytes else none)

/-- Bytes 0x000 to 0x0FF of a slot wait for SLOT_VERIFY, the others are programmed (R133, R554). A write of an image ends RETURNED
(R563). -/
def writeSlot (h : Hw) (t o : Nat) (data : List Byte) : Hw :=
  let cells := data.zipIdx.map fun e => (o + e.2, e.1)
  let buf := (cells.filter fun e => decide (e.1 < 256)).foldl (fun (l : List (Nat × Byte)) e => tins l e.1 e.2) (tget [] h.kyd.slotBuf t)
  let h := { h with kyd := { h.kyd with slotBuf := tset [] h.kyd.slotBuf t buf } }
  let h := if t < 2 then h else fset { h with kyd := { h.kyd with returnDone := false } } F_KYD_STATUS_RETURNED 0
  programSlot h t (cells.filter fun e => decide (256 ≤ e.1))

/-- SLOT_WRITE, with the request's own bytes or those of a DRAM buffer (R133, R554). -/
def execSlotWrite (path : MailPath) (target : BitVec 8) (offset : BitVec 32) (data : SlotData) (s : State) :
    Host.Outcome State Fault Refusal :=
  .next (mailbox offerRom path (fun h m =>
    let t := target.toNat
    if 4 ≤ t || targetSize t < offset.toNat + dataLen data || !carries path data then mailAnswer h m path rcBadRequest
    else if targetRuns h t then mailAnswer h m path rcRefused
    else
      match slotData h m data with
      | (h, some bytes) => mailAnswer (writeSlot h t offset.toNat bytes) m path rcDone
      | (h, none) => mailAnswer h m path rcFailed) s)

/-- SLOT_VERIFY: the header bytes are programmed last and the slot is verified: NEW or INVALID (R133, R554). -/
def execSlotVerify (path : MailPath) (target : BitVec 8) (s : State) : Host.Outcome State Fault Refusal :=
  .next (mailbox offerRom path (fun h m =>
    let t := target.toNat
    if 4 ≤ t then mailAnswer h m path rcBadRequest
    else if targetRuns h t then mailAnswer h m path rcRefused
    else
      let h := programSlot h t (tget [] h.kyd.slotBuf t)
      let h := { h with kyd := { h.kyd with slotBuf := tdel h.kyd.slotBuf t } }
      let (h, code) := if t < 2 then (h, if kydinSlotOk h (kydSlot h (t == 1)) then rcDone else rcFailed) else verifySlot h (t == 3)
      mailAnswer h m path code (leBytes 1 (slotCode (if code == rcDone then .new else .invalid)))) s)

/-- MBOX_COMMIT (R121, R128, R553). -/
def execMboxCommit (path : MailPath) (s : State) : Host.Outcome State Fault Refusal :=
  .next (mailbox offerAll path (fun h m =>
    let (h, code) := commitSlot h
    mailAnswer h m path code) s)

/-- MBOX_BOOT_ONCE (R120, R553). -/
def execMboxBootOnce (path : MailPath) (slot : BitVec 8) (s : State) : Host.Outcome State Fault Refusal :=
  .next (mailbox offerAll path (fun h m =>
    if 2 ≤ slot.toNat then mailAnswer h m path rcBadRequest else mailAnswer (setBootOnce h (slot == 1)) m path rcDone) s)

/-! ### Component updates (R134, R135) -/

/-- Nothing of the update is left to load: the session ends and its request is answered (R134). -/
def sessionEnd (h : Hw) (m : Mem) : Eff :=
  let left := match h.boot.update with
    | .idle => 1
    | .microcode e _ => e
    | .seqFirmware g _ _ _ => g
  if left != 0 then { hw := h }
  else
    let path := h.kyd.sessionPath
    let h := { h with boot := { h.boot with update := .idle }, kyd := { h.kyd with sessionPath := none } }
    match path with
    | some p => mailAnswer h m p rcDone
    | none => { hw := h }

/-- Apply the one record of a package; a write to entries that an INSERT is shifting waits for it (R134, R178, R182, R461). -/
def applyPackage (h : Hw) (m : Mem) (path : MailPath) (img : List Byte) (r : ImgRec) : Eff :=
  let b := r.body
  let session := fun (h : Hw) (u : Update) =>
    sessionEnd (runningAnswer { h with boot := { h.boot with update := u }, kyd := { h.kyd with sessionPath := some path } } path) m
  if r.type == rtMatchTable then
    let g := bits r.target 7 0
    let es := (entries16 b).zipIdx.map fun e => (bits r.target 25 16 + e.2, mtBody e.1)
    let v := gateOf h g
    mailAnswer (setGate h g { v with mtWait := v.mtWait ++ es.map fun e => { op := .put e.2, addr := e.1, seq := none } }) m path rcDone
  else if r.type == rtMicrocode then
    let h := (onesOf 24 r.target).foldl (fun h q =>
      fset (setEngine h q { engineOf h q with loadWait := some (num b 0 4) }) F_ENG_STATUS_LOADING 1 q) h
    session h (.microcode r.target (num b 0 4))
  else if r.type == rtSeqFirmware then session h (.seqFirmware (num b 0 8) (num b 8 4) (num b 12 4) (b.drop 16))
  else if r.target == 3 then
    let x := h.boot
    let h := { h with boot := { x with fw := tins x.fw 3 (b.drop 8), fwLoad := tset 0 x.fwLoad 3 (num b 0 4),
                                       fwEntry := tset 0 x.fwEntry 3 (num b 4 4), fwChain := tins x.fwChain 3 (imgChain img),
                                       fwFrom := tset 0 x.fwFrom 3 (256 * imgComponent + 0xFF) } }
    (tsRestart h m).next m fun h m => mailAnswer h m path rcDone
  else mailAnswer (hubFirmware h r.target b (imgChain img) (256 * imgComponent + 0xFF)) m path rcDone

/-- COMPONENT: a package is read, verified, measured and applied; a second session ends BUSY (R119, R131,
R134). -/
def execComponent (path : MailPath) (addr : BitVec 52) (len : Nat) (s : State) : Host.Outcome State Fault Refusal :=
  .next (mailbox offerBand path (fun h m =>
    if h.boot.update != .idle then mailAnswer h m path rcBusy
    else
      let (h, ok, img, pz) := agentRead h m .kydin addr.toNat len
      let recs := (imgRecs img).getD []
      if !ok || pz.any id || !imageOk h imgComponent len img then mailAnswer h m path rcFailed
      else
        match recs with
        | r :: _ => applyPackage (logEntry h evComponent 0 imgComponent 0xFF (imgChain img)) m path img r
        | [] => mailAnswer h m path rcFailed) s)

/-- MICROCODE_LOAD: an engine whose running jobs have completed is loaded and goes on; a reset that waited takes place (R134, R135). -/
def execMicrocodeLoad (q : Fin 24) (s : State) : Host.Outcome State Fault Refusal :=
  .next (s.act fun h m =>
    let q := q.val
    match h.boot.update with
    | .microcode engines version =>
      if !bit engines q || !(runningJobs (engineOf h q)).isEmpty then { hw := h }
      else
        let waits := (engineOf h q).resetWait
        let h := setEngine h q { engineOf h q with loadWait := none, resetWait := false }
        let h := fset (fset h F_ENG_INFO_MICROCODE version q) F_ENG_STATUS_LOADING 0 q
        let h := { h with boot := { h.boot with update := .microcode (setBit engines q false) version } }
        let e : Eff := if waits then resetEngine h m q else { hw := h }
        e.next m sessionEnd
    | _ => { hw := h })

/-- SEQ_FIRMWARE_LOAD: at a superframe boundary a sequencer is held, loaded and restarted at ENTRY; a gate reset that waited takes
place (R134, R135). -/
def execSeqFirmwareLoad (g : Fin 64) (s : State) : Host.Outcome State Fault Refusal :=
  .next (s.act fun h m =>
    let g := g.val
    match h.boot.update with
    | .seqFirmware gates load entry code =>
      if !bit gates g then { hw := h }
      else
        let h := seqLoad h g load entry code
        let h := if (gateOf h g).resetWait then resetGate h g else h
        sessionEnd { h with boot := { h.boot with update := .seqFirmware (setBit gates g false) load entry code } } m
    | _ => { hw := h })

/-! ### Keys (R109, R554) -/

/-- What a revocation of a key slot is signed over (R554). -/
def revokeDigest (h : Hw) (slot : Nat) : List Byte := Config.sha384 ([0x52, 0x56, 0x4B] ++ leBytes 1 slot ++ leBytes 8 h.blvd.serial)

/-- KEY_REVOKE: never the last slot; the signer is another slot that is not revoked (R109, R547, R554). -/
def execKeyRevoke (path : MailPath) (slot : BitVec 8) (pubkey signature : BitVec 768) (s : State) : Host.Outcome State Fault Refusal :=
  .next (mailbox offerRom path (fun h m =>
    let k := slot.toNat
    let pub := (leBytes 96 pubkey.toNat).reverse
    let open' := (List.range 4).filter fun i => !bit h.boot.keyRevoked i
    if 4 ≤ k then mailAnswer h m path rcBadRequest
    else if open' == [k] then mailAnswer h m path rcRefused
    else if !(open'.any fun i => i != k && lget [] h.boot.keyDigests i == Config.sha384 pub) ||
        !Config.ecdsaOk pub (leBytes 96 signature.toNat).reverse (revokeDigest h k) then mailAnswer h m path rcFailed
    else if bit h.boot.keyRevoked k then mailAnswer h m path rcDone
    else mailAnswer (addLife { h with boot := { h.boot with keyRevoked := setBit h.boot.keyRevoked k true } } 10 [k]) m path rcDone) s)

/-! ### Records as bytes (R547, R549) -/

/-- Widths in bytes of the fields of a lifetime body (R547). -/
def lifeWidths : Nat → List Nat
  | 1 => [4, 4, 4, 4, 4, 2, 2, 2, 4, 4, 4, 4]
  | 2 => 1 :: List.replicate 20 2
  | 3 => [1, 1, 4, 4, 2, 1, 1, 2]
  | 4 => [1, 1, 2, 2, 4]
  | 5 => [1, 1, 1]
  | 6 => [4, 1, 1, 1, 4]
  | 7 => [1, 2, 1, 1]
  | 8 => [4, 1]
  | _ => [1]

/-- A record with its CRC in the last four bytes. -/
def withCrc (b : List Byte) : List Byte := b ++ leBytes 4 (crc32 b)

/-- The 64 bytes of a lifetime entry (R547). -/
def lifeBytes (e : LifeRec) : List Byte :=
  let body := (e.body.zip (lifeWidths e.type)).flatMap fun (v, w) => leBytes w (min v (256 ^ w - 1))
  withCrc (leBytes 2 0x4C52 ++ leBytes 1 e.type ++ leBytes 1 1 ++ leBytes 4 e.seq ++ leBytes 8 e.time ++ (body ++ zeros 44).take 44)

/-- The 64 bytes of an error record (R549). -/
def errBytes (r : ErrRec) : List Byte :=
  withCrc (leBytes 2 0x4552 ++ leBytes 1 r.cls ++ leBytes 1 r.block ++ leBytes 2 r.inst ++ leBytes 2 r.code ++ leBytes 4 r.seq ++
    leBytes 2 r.count ++ leBytes 1 r.part ++ leBytes 1 r.flags ++ leBytes 8 r.time ++ leBytes 8 r.calendar ++ leBytes 8 r.addr ++
    leBytes 8 r.d0 ++ leBytes 8 r.d1 ++ zeros 4)

/-- LIFE_READ: the entry at an index of the lifetime area, which is its SEQ modulo 16,384; an index with none reads erased (R547,
R553). -/
def execLifeRead (path : MailPath) (idx : BitVec 32) (s : State) : Host.Outcome State Fault Refusal :=
  .next (mailbox offerRom path (fun h m =>
    if 16384 ≤ idx.toNat then mailAnswer h m path rcBadRequest
    else
      match h.kyd.life.find? fun e => e.seq % 16384 == idx.toNat with
      | some e => mailAnswer h m path rcDone (lifeBytes e)
      | none => mailAnswer h m path rcDone (List.replicate 64 0xFF)) s)

/-- Every stored record: those of the ring, and of NOR those that the ring does not hold, newest first (R550). -/
def storedRecords (h : Hw) : List ErrRec :=
  h.kyd.ring ++ h.kyd.nor.filter fun o => !h.kyd.ring.any fun r => r.seq == o.seq

/-- ELOG_READ: the oldest stored record with SEQ at or above a number; FAILED where there is none (R553). -/
def execElogRead (path : MailPath) (seq : BitVec 32) (s : State) : Host.Outcome State Fault Refusal :=
  .next (mailbox offerRom path (fun h m =>
    let l := (storedRecords h).filter fun r => decide (seq.toNat ≤ r.seq)
    match l.foldl (fun (a : Option ErrRec) r => match a with | some o => if r.seq < o.seq then some r else a | none => some r) none with
    | some r => mailAnswer h m path rcDone (errBytes r)
    | none => mailAnswer h m path rcFailed) s)

/-- SENSOR: a reading, whose number and format are open (R68, R553). -/
def execSensor (path : MailPath) (_idx : BitVec 16) (s : State) : Host.Outcome State Fault Refusal :=
  .next (mailbox offerAll path (fun h m =>
    let (n, h) := takeFree h
    mailAnswer h m path rcDone (leBytes 2 (Config.freeNat n))) s)

/-- RTC: sets the calendar where the flag is 1, and answers with its seconds (R544). -/
def execRtc (path : MailPath) (set : BitVec 8) (seconds : BitVec 64) (s : State) : Host.Outcome State Fault Refusal :=
  .next (mailbox offerAll path (fun h m =>
    if 2 ≤ set.toNat then mailAnswer h m path rcBadRequest
    else
      let h := if set == 0 then h else
        let (n, h) := takeFree h
        fset (fset (fset h F_KYD_RTC_SECONDS seconds.toNat) F_KYD_RTC_FRACTION (Config.freeNat n)) F_KYD_STATUS_RTC_VALID 1
      mailAnswer h m path rcDone (leBytes 8 (fget h F_KYD_RTC_SECONDS))) s)

/-! ### Retiring units (R555, R558) -/

/-- A RETIRE or RESTORE: BUSY while another, a fence or an update runs; it waits for a partition reset of the unit's owner (R558). -/
def retireRequest (path : MailPath) (kind u : Nat) (restore : Bool) (h : Hw) (m : Mem) : Eff :=
  if !unitOk kind u then mailAnswer h m path rcBadRequest
  else if retireBusy h then mailAnswer h m path rcBusy
  else if (unitOwner h kind u).any fun p => bit (fget h F_PART_RESET_BUSY) p then
    { hw := runningAnswer { h with kyd := { h.kyd with retireWait := some (path, kind, u, restore) } } path }
  else if restore then restoreNow (runningAnswer h path) m path kind u
  else retireNow (runningAnswer h path) m path kind u

/-- MBOX_RETIRE (R555, R558). -/
def execMboxRetire (path : MailPath) (kind : BitVec 8) (u : BitVec 16) (s : State) : Host.Outcome State Fault Refusal :=
  .next (mailbox offerAll path (retireRequest path kind.toNat u.toNat false) s)

/-- MBOX_RESTORE (R555, R558). -/
def execMboxRestore (path : MailPath) (kind : BitVec 8) (u : BitVec 16) (s : State) : Host.Outcome State Fault Refusal :=
  .next (mailbox offerAll path (retireRequest path kind.toNat u.toNat true) s)

/-! ### Service records (R547, R548, R550, R551) -/

/-- Powered minutes since the last count, at most 60, fall into the four bands of V_in in amounts that no step measures (log 6). -/
def addMinutes (h : Hw) : Hw :=
  let (n, h) := takeFree h
  let t := Config.freeNat n % 61
  let a := Config.freeNat n / 61 % (t + 1)
  let b := Config.freeNat n / 61 ^ 2 % (t - a + 1)
  let c := Config.freeNat n / 61 ^ 3 % (t - a - b + 1)
  let l := h.kyd.poweredMin
  { h with kyd := { h.kyd with poweredMin := [lget 0 l 0 + a, lget 0 l 1 + b, lget 0 l 2 + c, lget 0 l 3 + (t - a - b - c)] } }

/-- The SNAPSHOT entry (R547). -/
def writeSnapshot (h : Hw) : Hw :=
  let h := addMinutes h
  let k := h.kyd
  addLife h 1 (k.poweredMin ++ [k.thermCycles, k.trips, h.sup.surges, h.sup.switchOvers, k.warmResets] ++ k.erases)

/-- SNAPSHOT: hourly, while Kydin runs (R547). -/
def execSnapshot (s : State) : Host.Outcome State Fault Refusal :=
  .next (s.upd fun h => if powered h && h.mod.fwVerified then writeSnapshot h else h)

/-- The lowest of a list of values; 0 of none. -/
def lowest : List Nat → Nat
  | [] => 0
  | a :: l => l.foldl min a

/-- The LINK entry of a gate: errors summed and eyes lowest over its lanes in use; no rule counts retrains where a step can see them
(R547). -/
def linkEntry (h : Hw) (g : Nat) : Hw :=
  let ls := usedLanes h g
  let total := fun (f : Field) => (ls.map fun k => fget h f g k).sum
  let (n, h) := takeFree h
  addLife h 3 [g, fget h F_GATE_CONFIG_RATE g, total F_LANE_ERR_CRC_FAIL, total F_LANE_ERR_BLOCK_ERR, Config.freeNat n % 65536,
    lowest (ls.map fun k => fget h F_LANE_STATUS_EYE_H g k), lowest (ls.map fun k => fget h F_LANE_STATUS_EYE_V g k),
    ((List.range 4).map fun b => fget h F_BLVD_BUNDLE_DOWNS g b).sum]

/-- LIFETIME_DAILY: eight AGEING entries of 20 cores, and a LINK entry per gate in use (R547). A reading not given is open. -/
def execLifetimeDaily (ageing : List (BitVec 16)) (s : State) : Host.Outcome State Fault Refusal :=
  .next (s.upd fun h =>
    if !(powered h && h.mod.fwVerified) then h
    else
      let (n, h) := takeFree h
      let reading := fun c => match ageing[c]? with | some v => v.toNat | none => Config.freeNat n / 65536 ^ c % 65536
      let h := (List.range 8).foldl (fun h i => addLife h 2 (20 * i :: (List.range 20).map fun j => reading (20 * i + j))) h
      ((List.range 64).filter fun g => fget h F_GATE_CONFIG_PERSONALITY g != 0).foldl linkEntry h)

/-- Copy records to the mirror ring, oldest first, as the secure world of PART; skipped while that partition is down (R551). -/
def mirrorRecords (h : Hw) (m : Mem) (l : List ErrRec) : Eff :=
  let size := fget h F_KYD_ELOG_MIRROR_SIZE_4K
  let p := fget h F_KYD_ELOG_MIRROR_PART
  if size == 0 || partDown h p || !h.mod.dramActive then { hw := h }
  else
    effFold h m (fun h m r =>
      agentStore h m (askerIn h p true) (fget h F_KYD_ELOG_MIRROR_BASE_4K * 4096 + 64 * (r.seq % (64 * size))) (errBytes r)) l

/-- Records of the ring that NOR does not hold as they are now, oldest first. -/
def dirtyRecords (h : Hw) : List ErrRec :=
  (h.kyd.ring.filter fun r => decide (fget h F_KYD_ELOG_SEQ_FLUSHED ≤ r.seq) || h.kyd.nor.any fun o => o.seq == r.seq && o != r).reverse

/-- ELOG_FLUSH: records changed since the last copy go to the NOR log and to the mirror (R550, R551). -/
def execElogFlush (s : State) : Host.Outcome State Fault Refusal :=
  .next (s.act fun h m => if powered h && h.mod.fwVerified then mirrorRecords (flushLog h) m (dirtyRecords h) else { hw := h })

/-! ### Returns and the test lock (R559 to R562) -/

/-- RETURN_PREP: SNAPSHOT and RETURN entries, both image slots erased on FLAGS bit 0, and the signed summary (R562). DEDUCED: the
erasure takes a running slot too, over R105 (log 64). DESIGN CHOICE: the widths of the summary's fields (log 101). -/
def execReturnPrep (path : MailPath) (flags : BitVec 8) (s : State) : Host.Outcome State Fault Refusal :=
  .next (mailbox offerSmb path (fun h m =>
    if !(modeNow h == 1 || modeNow h == 3) then mailAnswer h m path rcNotPermitted
    else
      let h := lifeRoom (writeSnapshot h)
      let h := addLife h 8 [h.kyd.lifeSeq, flags.toNat]
      let h := if flags.getLsbD 0 then eraseTarget (eraseTarget h 2) 3 else h
      let minutes := h.kyd.poweredMin.sum
      let sum := leBytes 8 h.blvd.serial ++ leBytes 4 ((h.kyd.lifeSeq + 2 ^ 32 - 1) % 2 ^ 32) ++
        leBytes 4 ((fget h F_KYD_ELOG_SEQ_NEXT + 2 ^ 32 - 1) % 2 ^ 32) ++ leBytes 4 minutes ++ zeros 4 ++
        leBytes 8 (fget h F_KYD_RTC_SECONDS) ++ zeros 32
      let h := fset { h with kyd := { h.kyd with returnDone := true } } F_KYD_STATUS_RETURNED 1
      if h.kyd.secretOff then mailAnswer h m path rcFailed
      else mailAnswer h m path rcDone (sum ++ Config.ecdsaSign Config.attestKey (Config.sha384 sum))) s)

/-- The nonce that a challenge gave. -/
def nonceBytes (n : Nat) : List Byte := leBytes 48 (Config.freeNat n)

/-- TEST_CHALLENGE: in M0 or M1, after RETURN_PREP; REFUSED where the test modes are disabled or after three failed unlocks (R559 to
R561). -/
def execTestChallenge (path : MailPath) (s : State) : Host.Outcome State Fault Refusal :=
  .next (mailbox offerSmb path (fun h m =>
    if fget h F_KYD_STATUS_TEST == 2 || 3 ≤ h.kyd.badUnlocks then mailAnswer h m path rcRefused
    else if 2 ≤ modeNow h then mailAnswer h m path rcNotPermitted
    else if !h.kyd.returnDone then mailAnswer h m path rcRefused
    else
      let (n, h) := takeFree h
      let h := { h with kyd := { h.kyd with nonce := some n, nonceTime := gateTime h } }
      mailAnswer h m path rcDone (nonceBytes n)) s)

/-- TEST_UNLOCK: a valid signature over the serial and the nonce latches off the device secret, writes a TEST entry and opens the test
modes; the nonce is used up (R560, R561). -/
def execTestUnlock (path : MailPath) (signature : BitVec 768) (s : State) : Host.Outcome State Fault Refusal :=
  .next (mailbox offerSmb path (fun h m =>
    match h.kyd.nonce with
    | none => mailAnswer h m path rcRefused
    | some n =>
      let fresh := decide (gateTime h ≤ h.kyd.nonceTime + 600 * second)
      let h := { h with kyd := { h.kyd with nonce := none } }
      if !fresh then mailAnswer h m path rcRefused
      else if Config.ecdsaOk Config.makerKey (leBytes 96 signature.toNat).reverse
          (Config.sha384 (leBytes 8 h.blvd.serial ++ nonceBytes n)) then
        let h := addLife { h with kyd := { h.kyd with secretOff := true } } 9 [1]
        mailAnswer (setCause (fset h F_KYD_STATUS_TEST 1) F_KYD_STATUS_TEST_OPEN) m path rcDone
      else mailAnswer { h with kyd := { h.kyd with badUnlocks := h.kyd.badUnlocks + 1 } } m path rcFailed) s)

end Sys2Proof.Machine
end

