-- ==== Sys2Proof/Machine/Rv.lean ====
section
/-!
DEFINITION. RISC-V integer instructions without memory: fields, compressed forms, and the arithmetic of RV64IM and RV32IM with Zba, Zbb
and Zbs. PRESUMED: unsafe (log 9): the published RISC-V ISA, which R359 and R386 name and do not retell.
-/

namespace Sys2Proof.Machine

/-! ### Fields of a 32-bit word -/

def rvRd (w : Nat) : Nat := bits w 11 7
def rvRs1 (w : Nat) : Nat := bits w 19 15
def rvRs2 (w : Nat) : Nat := bits w 24 20
def rvF3 (w : Nat) : Nat := bits w 14 12
def rvF7 (w : Nat) : Nat := bits w 31 25

/-- A number of `n` bits read as signed, and an integer reduced to `n` bits. -/
def sgn (n a : Nat) : Int := if a % 2 ^ n < 2 ^ (n - 1) then (a % 2 ^ n : Nat) else (a % 2 ^ n : Nat) - (2 ^ n : Nat)
def wrap (n : Nat) (i : Int) : Nat := (i % (2 ^ n : Nat)).toNat
/-- Sign extension from `m` to `n` bits. -/
def sext (m n a : Nat) : Nat := wrap n (sgn m a)

/-- Immediates of the I, S, B, U and J formats, sign-extended to `n` bits. -/
def immI (n w : Nat) : Nat := sext 12 n (bits w 31 20)
def immS (n w : Nat) : Nat := sext 12 n (bits w 31 25 * 32 + bits w 11 7)
def immB (n w : Nat) : Nat := sext 13 n (bits w 31 31 * 4096 + bits w 7 7 * 2048 + bits w 30 25 * 32 + bits w 11 8 * 2)
def immU (n w : Nat) : Nat := sext 32 n (bits w 31 12 * 4096)
def immJ (n w : Nat) : Nat := sext 21 n (bits w 31 31 * 2 ^ 20 + bits w 19 12 * 4096 + bits w 20 20 * 2048 + bits w 30 21 * 2)

/-! ### Compressed forms -/

/-- Words of the base formats, from their fields. -/
def encR (op f3 f7 rd rs1 rs2 : Nat) : Nat := op + rd * 2 ^ 7 + f3 * 2 ^ 12 + rs1 * 2 ^ 15 + rs2 * 2 ^ 20 + f7 * 2 ^ 25
def encI (op f3 rd rs1 imm : Nat) : Nat := op + rd * 2 ^ 7 + f3 * 2 ^ 12 + rs1 * 2 ^ 15 + imm % 4096 * 2 ^ 20
def encS (op f3 rs1 rs2 imm : Nat) : Nat :=
  op + imm % 32 * 2 ^ 7 + f3 * 2 ^ 12 + rs1 * 2 ^ 15 + rs2 * 2 ^ 20 + imm / 32 % 128 * 2 ^ 25
def encB (f3 rs1 rs2 imm : Nat) : Nat :=
  0x63 + bits imm 11 11 * 2 ^ 7 + bits imm 4 1 * 2 ^ 8 + f3 * 2 ^ 12 + rs1 * 2 ^ 15 + rs2 * 2 ^ 20 + bits imm 10 5 * 2 ^ 25 + bits imm 12 12 * 2 ^ 31
def encU (op rd imm : Nat) : Nat := op + rd * 2 ^ 7 + imm % 2 ^ 20 * 2 ^ 12
def encJ (rd imm : Nat) : Nat :=
  0x6F + rd * 2 ^ 7 + bits imm 19 12 * 2 ^ 12 + bits imm 11 11 * 2 ^ 20 + bits imm 10 1 * 2 ^ 21 + bits imm 20 20 * 2 ^ 31

/-- Quadrant 0: stack-pointer addition, and loads and stores of the registers x8 to x15. -/
def expandC0 (rv64 : Bool) (w : Nat) : Option Nat :=
  let rd' := 8 + bits w 4 2
  let rs1' := 8 + bits w 9 7
  let wOff := bits w 12 10 * 8 + bits w 6 6 * 4 + bits w 5 5 * 64
  let dOff := bits w 12 10 * 8 + bits w 6 5 * 64
  match bits w 15 13 with
  | 0 =>
    let imm := bits w 10 7 * 64 + bits w 12 11 * 16 + bits w 5 5 * 8 + bits w 6 6 * 4
    if imm == 0 then none else some (encI 0x13 0 rd' 2 imm)
  | 1 => if rv64 then some (encI 0x07 3 rd' rs1' dOff) else none
  | 2 => some (encI 0x03 2 rd' rs1' wOff)
  | 3 => if rv64 then some (encI 0x03 3 rd' rs1' dOff) else none
  | 5 => if rv64 then some (encS 0x27 3 rs1' rd' dOff) else none
  | 6 => some (encS 0x23 2 rs1' rd' wOff)
  | 7 => if rv64 then some (encS 0x23 3 rs1' rd' dOff) else none
  | _ => none

/-- Quadrant 1: immediates, arithmetic of x8 to x15, jumps and branches. -/
def expandC1 (rv64 : Bool) (w : Nat) : Option Nat :=
  let rd := bits w 11 7
  let r' := 8 + bits w 9 7
  let s' := 8 + bits w 4 2
  let imm6 := sext 6 12 (bits w 12 12 * 32 + bits w 6 2)
  let sh := bits w 12 12 * 32 + bits w 6 2
  let j := sext 12 21 (bits w 12 12 * 2048 + bits w 8 8 * 1024 + bits w 10 9 * 256 + bits w 6 6 * 128 + bits w 7 7 * 64 + bits w 2 2 * 32 +
    bits w 11 11 * 16 + bits w 5 3 * 2)
  let b := sext 9 13 (bits w 12 12 * 256 + bits w 6 5 * 64 + bits w 2 2 * 32 + bits w 11 10 * 8 + bits w 4 3 * 2)
  match bits w 15 13 with
  | 0 => some (encI 0x13 0 rd rd imm6)
  | 1 => if rv64 then (if rd == 0 then none else some (encI 0x1B 0 rd rd imm6)) else some (encJ 1 j)
  | 2 => some (encI 0x13 0 rd 0 imm6)
  | 3 =>
    if rd == 2 then
      let imm := sext 10 12 (bits w 12 12 * 512 + bits w 4 3 * 128 + bits w 5 5 * 64 + bits w 2 2 * 32 + bits w 6 6 * 16)
      if imm == 0 then none else some (encI 0x13 0 2 2 imm)
    else
      let imm := sext 6 20 (bits w 12 12 * 32 + bits w 6 2)
      if imm == 0 then none else some (encU 0x37 rd imm)
  | 4 =>
    match bits w 11 10 with
    | 0 => if !rv64 && 32 ≤ sh then none else some (encI 0x13 5 r' r' sh)
    | 1 => if !rv64 && 32 ≤ sh then none else some (encI 0x13 5 r' r' (1024 + sh))
    | 2 => some (encI 0x13 7 r' r' imm6)
    | _ =>
      match bits w 12 12, bits w 6 5 with
      | 0, 0 => some (encR 0x33 0 0x20 r' r' s')
      | 0, 1 => some (encR 0x33 4 0 r' r' s')
      | 0, 2 => some (encR 0x33 6 0 r' r' s')
      | 0, _ => some (encR 0x33 7 0 r' r' s')
      | _, 0 => if rv64 then some (encR 0x3B 0 0x20 r' r' s') else none
      | _, 1 => if rv64 then some (encR 0x3B 0 0 r' r' s') else none
      | _, _ => none
  | 5 => some (encJ 0 j)
  | 6 => some (encB 0 r' 0 b)
  | _ => some (encB 1 r' 0 b)

/-- Quadrant 2: shifts, stack-pointer loads and stores, register jumps, moves and additions. -/
def expandC2 (rv64 : Bool) (w : Nat) : Option Nat :=
  let rd := bits w 11 7
  let rs2 := bits w 6 2
  let sh := bits w 12 12 * 32 + bits w 6 2
  let dLoad := bits w 12 12 * 32 + bits w 6 5 * 8 + bits w 4 2 * 64
  let dStore := bits w 12 10 * 8 + bits w 9 7 * 64
  match bits w 15 13 with
  | 0 => if !rv64 && 32 ≤ sh then none else some (encI 0x13 1 rd rd sh)
  | 1 => if rv64 then some (encI 0x07 3 rd 2 dLoad) else none
  | 2 => if rd == 0 then none else some (encI 0x03 2 rd 2 (bits w 12 12 * 32 + bits w 6 4 * 4 + bits w 3 2 * 64))
  | 3 => if rv64 && rd != 0 then some (encI 0x03 3 rd 2 dLoad) else none
  | 4 =>
    if bits w 12 12 == 0 then
      if rs2 == 0 then (if rd == 0 then none else some (encI 0x67 0 0 rd 0)) else some (encR 0x33 0 0 rd 0 rs2)
    else if rs2 == 0 then (if rd == 0 then some 0x00100073 else some (encI 0x67 0 1 rd 0))
    else some (encR 0x33 0 0 rd rd rs2)
  | 5 => if rv64 then some (encS 0x27 3 2 rs2 dStore) else none
  | 6 => some (encS 0x23 2 2 rs2 (bits w 12 9 * 4 + bits w 8 7 * 64))
  | _ => if rv64 then some (encS 0x23 3 2 rs2 dStore) else none

/-- A word is compressed: its low two bits are not 11. -/
def isComp (w : Nat) : Bool := w % 4 != 3

/-- The 32-bit instruction that a word stands for; none where a compressed word is reserved. -/
def expand (rv64 : Bool) (w : Nat) : Option Nat :=
  match w % 4 with
  | 0 => if w % 65536 == 0 then none else expandC0 rv64 (w % 65536)
  | 1 => expandC1 rv64 (w % 65536)
  | 2 => expandC2 rv64 (w % 65536)
  | _ => some (w % 2 ^ 32)

/-! ### Arithmetic -/

/-- Quotients and remainders of the M extension: by zero, and the one overflow. -/
def divS (n a b : Nat) : Nat := if b == 0 then 2 ^ n - 1 else wrap n ((sgn n a).tdiv (sgn n b))
def divU (n a b : Nat) : Nat := if b == 0 then 2 ^ n - 1 else a / b
def remS (n a b : Nat) : Nat := if b == 0 then a else wrap n ((sgn n a).tmod (sgn n b))
def remU (a b : Nat) : Nat := if b == 0 then a else a % b

def rotl (n a s : Nat) : Nat := let s := s % n; (a * 2 ^ s + a / 2 ^ (n - s)) % 2 ^ n
def rotr (n a s : Nat) : Nat := let s := s % n; rotl n a (n - s)
def sra (n a s : Nat) : Nat := wrap n (sgn n a / (2 ^ s : Nat))
/-- Leading and trailing zeros of `n` bits. -/
def clz (n a : Nat) : Nat := if a == 0 then n else n - 1 - Nat.log2 a
def ctz (n a : Nat) : Nat := ((List.range n).find? fun i => bit a i).getD n
/-- Bytes of `n` bits, each all ones where it holds a one; and in reverse order. -/
def orcB (n a : Nat) : Nat := leNat ((leBytes (n / 8) a).map fun b => if b == 0 then 0 else 0xFF)
def rev8 (n a : Nat) : Nat := leNat (leBytes (n / 8) a).reverse

/-- The M extension at width `n`. -/
def mulOp (n f3 a b : Nat) : Nat :=
  match f3 with
  | 0 => a * b % 2 ^ n
  | 1 => wrap n (sgn n a * sgn n b / (2 ^ n : Nat))
  | 2 => wrap n (sgn n a * (b : Int) / (2 ^ n : Nat))
  | 3 => a * b / 2 ^ n
  | 4 => divS n a b
  | 5 => divU n a b
  | 6 => remS n a b
  | _ => remU a b

/-- OP: register-register arithmetic at width `n`; `zb` with Zba, Zbb and Zbs. -/
def aluOp (n : Nat) (zb : Bool) (f7 f3 rs2 a b : Nat) : Option Nat :=
  let sh := b % n
  match f7, f3 with
  | 0x00, 0 => some ((a + b) % 2 ^ n)
  | 0x20, 0 => some ((a + 2 ^ n - b) % 2 ^ n)
  | 0x00, 1 => some (a * 2 ^ sh % 2 ^ n)
  | 0x00, 2 => some (b2n (decide (sgn n a < sgn n b)))
  | 0x00, 3 => some (b2n (decide (a < b)))
  | 0x00, 4 => some (a.xor b)
  | 0x00, 5 => some (a / 2 ^ sh)
  | 0x20, 5 => some (sra n a sh)
  | 0x00, 6 => some (a.lor b)
  | 0x00, 7 => some (a.land b)
  | 0x01, f => some (mulOp n f a b)
  | f7, f3 =>
    if !zb then none
    else
      match f7, f3 with
      | 0x10, 2 => some ((2 * a + b) % 2 ^ n)
      | 0x10, 4 => some ((4 * a + b) % 2 ^ n)
      | 0x10, 6 => some ((8 * a + b) % 2 ^ n)
      | 0x20, 7 => some (a.land (2 ^ n - 1 - b))
      | 0x20, 6 => some (a.lor (2 ^ n - 1 - b))
      | 0x20, 4 => some (2 ^ n - 1 - a.xor b)
      | 0x05, 4 => some (if sgn n a < sgn n b then a else b)
      | 0x05, 5 => some (min a b)
      | 0x05, 6 => some (if sgn n a < sgn n b then b else a)
      | 0x05, 7 => some (max a b)
      | 0x30, 1 => some (rotl n a sh)
      | 0x30, 5 => some (rotr n a sh)
      | 0x24, 1 => some (setBit a sh false)
      | 0x24, 5 => some (b2n (bit a sh))
      | 0x34, 1 => some (setBit a sh (!bit a sh))
      | 0x14, 1 => some (setBit a sh true)
      | 0x04, 4 => if n == 32 && rs2 == 0 then some (a % 65536) else none
      | _, _ => none

/-- OP-32 of RV64: results of 32 bits, sign-extended, and the additions of zero-extended words. -/
def aluOp32 (f7 f3 rs2 a b : Nat) : Option Nat :=
  let x := a % 2 ^ 32
  let y := b % 2 ^ 32
  let s := fun (v : Option Nat) => v.map (sext 32 64)
  match f7, f3 with
  | 0x00, 0 | 0x20, 0 | 0x00, 1 | 0x00, 5 | 0x20, 5 | 0x01, 0 | 0x01, 4 | 0x01, 5 | 0x01, 6 | 0x01, 7 | 0x30, 1 | 0x30, 5 => s (aluOp 32 true f7 f3 rs2 x y)
  | 0x04, 0 => some ((x + b) % 2 ^ 64)
  | 0x04, 4 => if rs2 == 0 then some (a % 65536) else none
  | 0x10, 2 => some ((2 * x + b) % 2 ^ 64)
  | 0x10, 4 => some ((4 * x + b) % 2 ^ 64)
  | 0x10, 6 => some ((8 * x + b) % 2 ^ 64)
  | _, _ => none

/-- OP-IMM at width `n`. -/
def aluImm (n : Nat) (zb : Bool) (w a : Nat) : Option Nat :=
  let imm := immI n w
  let k := if n == 64 then 6 else 5
  let sh := bits w 25 20 % n
  let top := bits w 31 20 / 2 ^ k * 2 ^ k
  match rvF3 w with
  | 0 => some ((a + imm) % 2 ^ n)
  | 2 => some (b2n (decide (sgn n a < sgn n imm)))
  | 3 => some (b2n (decide (a < imm)))
  | 4 => some (a.xor imm)
  | 6 => some (a.lor imm)
  | 7 => some (a.land imm)
  | 1 =>
    if top == 0 then some (a * 2 ^ sh % 2 ^ n)
    else if !zb then none
    else if top == 0x280 then some (setBit a sh true)
    else if top == 0x480 then some (setBit a sh false)
    else if top == 0x680 then some (setBit a sh (!bit a sh))
    else
      match bits w 31 20 with
      | 0x600 => some (clz n a)
      | 0x601 => some (ctz n a)
      | 0x602 => some (popcount n a)
      | 0x604 => some (sext 8 n a)
      | 0x605 => some (sext 16 n a)
      | _ => none
  | _ =>
    if top == 0 then some (a / 2 ^ sh)
    else if top == 0x400 then some (sra n a sh)
    else if !zb then none
    else if top == 0x600 then some (rotr n a sh)
    else if top == 0x480 then some (b2n (bit a sh))
    else if bits w 31 20 == 0x287 then some (orcB n a)
    else if bits w 31 20 == (if n == 64 then 0x6B8 else 0x698) then some (rev8 n a)
    else none

/-- OP-IMM-32 of RV64. -/
def aluImm32 (w a : Nat) : Option Nat :=
  let x := a % 2 ^ 32
  let sh := bits w 24 20
  match rvF3 w, rvF7 w with
  | 0, _ => some (sext 32 64 (a + immI 64 w))
  | 1, 0x00 => some (sext 32 64 (x * 2 ^ sh))
  | 5, 0x00 => some (sext 32 64 (x / 2 ^ sh))
  | 5, 0x20 => some (sext 32 64 (sra 32 x sh))
  | 5, 0x30 => some (sext 32 64 (rotr 32 x sh))
  | 1, 0x04 | 1, 0x05 => some (x * 2 ^ bits w 25 20 % 2 ^ 64)
  | 1, 0x30 =>
    match sh with
    | 0 => some (clz 32 x)
    | 1 => some (ctz 32 x)
    | 2 => some (popcount 32 x)
    | _ => none
  | _, _ => none

/-- Whether a branch of a funct3 is taken; none for 010 and 011. -/
def branchTaken (n f3 a b : Nat) : Option Bool :=
  match f3 with
  | 0 => some (a == b)
  | 1 => some (a != b)
  | 4 => some (decide (sgn n a < sgn n b))
  | 5 => some (decide (sgn n b ≤ sgn n a))
  | 6 => some (decide (a < b))
  | 7 => some (decide (b ≤ a))
  | _ => none

/-- The value of an AMO: the word in memory and the operand, at width `n`. -/
def amoOp (n f5 old v : Nat) : Option Nat :=
  match f5 with
  | 0x01 => some v
  | 0x00 => some ((old + v) % 2 ^ n)
  | 0x04 => some (old.xor v)
  | 0x0C => some (old.land v)
  | 0x08 => some (old.lor v)
  | 0x10 => some (if sgn n old < sgn n v then old else v)
  | 0x14 => some (if sgn n old < sgn n v then v else old)
  | 0x18 => some (min old v)
  | 0x1C => some (max old v)
  | _ => none

end Sys2Proof.Machine
end

