-- ==== Sys2Proof/Machine/CoreState.lean ====
section
/-!
DEFINITION. A big core under way: its registers, CSRs, traps, counters, tags and predictors.
-/

namespace Sys2Proof.Machine

/-! ### An instruction under way -/

/-- An exception: its code, mtval, the guest physical address of a guest-page fault, whether mtval is a guest virtual address, and the
pseudoinstruction of a fault in a table walk. -/
structure Trap where
  cause : Nat
  tval : Nat := 0
  tval2 : Nat := 0
  gva : Bool := false
  tinst : Nat := 0
  deriving DecidableEq, Repr

/-- A store to device memory, made when its instruction commits, the vector element it is, and for LANE.ST what follows it: physical address of
the tag byte, lane and tags (R361, R362, R365). -/
structure DevStore where
  va : Nat
  pa : Nat
  elem : Option Nat := none
  data : List Byte
  tag : Option (Nat × Nat × Nat) := none
  deriving DecidableEq, Repr

/-- An instruction as far as it has run: hardware and memory with its accesses made, the memory operations in order, its device stores,
the pc of the next instruction, the events it counts, its data address and the counters it writes (R361, R533, R537, R539). -/
structure CoreRun where
  core : Nat
  hw : Hw
  mem : Mem
  ops : List MemOp := []
  devs : List DevStore := []
  word : Nat
  pc : Nat
  next : Nat
  events : List Nat := []
  daddr : Nat := 0
  mispredict : Bool := false
  wrote : List Nat := []
  deriving DecidableEq, Repr

/-- What runs an instruction: it goes on or raises an exception; what it did stays (R369, R382). -/
abbrev InsnM := EStateM Trap CoreRun

def raise {α : Type} (cause : Nat) (tval : Nat := 0) : InsnM α := throw { cause := cause, tval := tval }
/-- The illegal-instruction and virtual-instruction exceptions. -/
def illegal {α : Type} : InsnM α := do raise 2 (← get).word
def virtualInsn {α : Type} : InsnM α := do raise 22 (← get).word

def setHw (f : Hw → Hw) : InsnM Unit := modify fun r => { r with hw := f r.hw }
/-- An effect on hardware and memory. -/
def runEff (f : Hw → Mem → Eff) : InsnM Unit := modify fun r =>
  let e := f r.hw r.mem
  { r with hw := e.hw, mem := r.mem.applyAll e.ops, ops := r.ops ++ e.ops }
/-- The instruction counts an event (R537). -/
def note (e : Nat) : InsnM Unit := modify fun r => { r with events := r.events ++ [e] }

/-! ### Registers, privilege and world (R363, R385) -/

def privOf (h : Hw) (c : Nat) : Nat := fget h F_CORE_STATUS_PRIV c
def virtOf (h : Hw) (c : Nat) : Bool := fon h F_CORE_STATUS_V c
def worldOf (h : Hw) (c : Nat) : Bool := fon h F_CORE_STATUS_WORLD c
def setPriv (h : Hw) (c p : Nat) (v : Bool) : Hw := fset (fset h F_CORE_STATUS_PRIV p c) F_CORE_STATUS_V (b2n v) c
def setWorld (h : Hw) (c : Nat) (sec : Bool) : Hw := fset h F_CORE_STATUS_WORLD (b2n sec) c

/-- x0 reads 0. -/
def xreg (h : Hw) (c i : Nat) : Nat := if i == 0 then 0 else (lget 0 (coreOf h c).x i).toNat
def setXreg (h : Hw) (c i v : Nat) : Hw :=
  if i == 0 then h else let k := coreOf h c; setCore h c { k with x := k.x.set i (BitVec.ofNat 64 v) }
def freg (h : Hw) (c i : Nat) : Nat := (lget 0 (coreOf h c).f i).toNat
def setFreg (h : Hw) (c i v : Nat) : Hw := let k := coreOf h c; setCore h c { k with f := k.f.set i (BitVec.ofNat 64 v) }

def getX (i : Nat) : InsnM Nat := do let r ← get; pure (xreg r.hw r.core i)
def putX (i v : Nat) : InsnM Unit := do let r ← get; setHw fun h => setXreg h r.core i v

/-! ### CSRs (R360, R363, R364, R532, R537, R539) -/

/-- The value of a CSR at reset, where it is not 0: vtype is ill-formed, HPMTAGRING has SIZE_LOG2 6. -/
def csrReset (n : Nat) : Nat := match n with | 0x7C6 => 6 | 0xC21 => 2 ^ 63 | _ => 0

/-- The copy of a CSR that the core's world uses (R364). -/
def csrKey (h : Hw) (c n : Nat) : Nat := if banked.contains n && worldOf h c then n + 4096 else n

def csrGet (h : Hw) (c n : Nat) : Nat := (tget (BitVec.ofNat 64 (csrReset n)) (coreOf h c).csr (csrKey h c n)).toNat
def csrSet (h : Hw) (c n v : Nat) : Hw :=
  let k := coreOf h c
  setCore h c { k with csr := tset (BitVec.ofNat 64 (csrReset n)) k.csr (csrKey h c n) (BitVec.ofNat 64 v) }

/-- The bits of `v` under a mask, the others as they were. -/
def underMask (old v mask : Nat) : Nat := (v.land mask).lor (old - old.land mask)

def mstatusMask : Nat := 0xC0007E7FAA
def sstatusMask : Nat := 0xC6722
def hstatusMask : Nat := 0x7003C0

/-- mstatus with its read-only fields: UXL and SXL 2, SD. -/
def statusView (v : Nat) : Nat :=
  let sd := bits v 14 13 == 3 || bits v 10 9 == 3
  v + 0xA00000000 + (if sd then 2 ^ 63 else 0)

def mstatus (h : Hw) (c : Nat) : Nat := csrGet h c 0x300
def hstatus (h : Hw) (c : Nat) : Nat := csrGet h c 0x600
def vsstatus (h : Hw) (c : Nat) : Nat := csrGet h c 0x200

/-- Delegation registers: the VS-level interrupts are always delegated past M. -/
def mideleg (h : Hw) (c : Nat) : Nat := (csrGet h c 0x303).lor 0x444

/-- mip: external interrupts of the M and S queues, and in the secure world of the SEC queue; the machine timer; the bits software
holds. MSIP reads 0 (R360, R524, R525). -/
def mipNow (h : Hw) (c : Nat) : Nat :=
  let q := fun i => !(tget [] h.ints.queue (4 * c + i)).isEmpty
  let meip := q 0 || (worldOf h c && q 2)
  (((csrGet h c 0x344).land 0x222).lor ((csrGet h c 0x645).land 0x444)).lor
    (2048 * b2n meip + 128 * b2n (timerPending h c) |>.lor (512 * b2n (q 1)))

/-- The CSR that an S-level number names in VS and VU mode. -/
def vsNumber (n : Nat) : Nat := if [0x100, 0x104, 0x105, 0x140, 0x141, 0x142, 0x143, 0x144, 0x180].contains n then n + 0x100 else n

/-- The counters that count: 0 and 2 to 14 (R532). -/
def countersOf : List Nat := 0 :: (List.range 13).map (· + 2)

/-- Whether the core has a CSR of a number. -/
def csrExists (n : Nat) : Bool :=
  [0x001, 0x002, 0x003, 0x008, 0x009, 0x00A, 0x00F, 0xC20, 0xC21, 0xC22, 0x100, 0x104, 0x105, 0x106, 0x10A, 0x140, 0x141, 0x142, 0x143,
   0x144, 0x180, 0x5C0, 0x600, 0x602, 0x603, 0x604, 0x605, 0x606, 0x607, 0x60A, 0x643, 0x644, 0x645, 0x64A, 0xE12, 0x680].contains n ||
  [0x200, 0x204, 0x205, 0x240, 0x241, 0x242, 0x243, 0x244, 0x280, 0x300, 0x301, 0x302, 0x303, 0x304, 0x305, 0x306, 0x30A, 0x320, 0x340,
   0x341, 0x342, 0x343, 0x344, 0x34A, 0x34B, 0x3A0, 0x3A2, 0xF11, 0xF12, 0xF13, 0xF14, 0xF15].contains n ||
  [0x7C0, 0x7C1, 0x7C2, 0x7C3, 0x7C4, 0x7C5, 0x7C6, 0x7C7, 0x7C8, 0x800, 0x801, 0x802, 0xCC0].contains n ||
  (decide (0x3B0 ≤ n) && decide (n ≤ 0x3BF)) || (decide (0x323 ≤ n) && decide (n ≤ 0x33F)) ||
  (decide (0xB00 ≤ n) && decide (n ≤ 0xB1F) && n != 0xB01) || (decide (0xC00 ≤ n) && decide (n ≤ 0xC1F))

/-- The CSRs of the secure world only (R363). -/
def secureCsrs : List Nat := [0x7C0, 0x7C1, 0x7C2, 0x7C8]

/-- FP and vector state are off in mstatus, or in a guest's vsstatus. -/
def fpOff (h : Hw) (c : Nat) : Bool := bits (mstatus h c) 14 13 == 0 || (virtOf h c && bits (vsstatus h c) 14 13 == 0)
def vecOff (h : Hw) (c : Nat) : Bool := bits (mstatus h c) 10 9 == 0 || (virtOf h c && bits (vsstatus h c) 10 9 == 0)

/-- A read of a counter below M-mode needs its enable bits (R535). -/
def counterFault (h : Hw) (c k : Nat) : Option Nat :=
  let p := privOf h c
  let v := virtOf h c
  if p == 3 then none
  else if !bit (csrGet h c 0x306) k then some 2
  else if v && !bit (csrGet h c 0x606) k then some 22
  else if p == 0 && !bit (csrGet h c 0x106) k then some (if v then 22 else 2)
  else none

/-- The exception that an access to a CSR raises, if any (R363, R535). -/
def csrFault (h : Hw) (c n : Nat) (write : Bool) : Option Nat :=
  let p := privOf h c
  let v := virtOf h c
  let need := bits n 9 8
  if !csrExists n || (write && bits n 11 10 == 3) || (secureCsrs.contains n && !worldOf h c) then some 2
  else if [0x001, 0x002, 0x003].contains n && fpOff h c then some 2
  else if [0x008, 0x009, 0x00A, 0x00F, 0xC20, 0xC21, 0xC22].contains n && vecOff h c then some 2
  else if 0xC00 ≤ n && n ≤ 0xC1F then counterFault h c (n - 0xC00)
  else if need == 3 then (if p == 3 then none else some 2)
  else if v then (if need == 2 || p < need || (n == 0x180 && bit (hstatus h c) 20) then some 22 else none)
  else if need == 2 then (if p == 0 || (n == 0x680 && p == 1 && bit (mstatus h c) 20) then some 2 else none)
  else if p < need || (n == 0x180 && p == 1 && bit (mstatus h c) 20) then some 2
  else none

/-- misa: RV64 with A, C, D, F, H, I, M, S, U, V and X (R360). -/
def misa : Nat := 2 ^ 63 + 0xB411AD

/-- What a read of a CSR returns. -/
def csrRead (h : Hw) (c n : Nat) : Nat :=
  let g := csrGet h c
  let v := virtOf h c
  let n := if v then vsNumber n else n
  if 0xB00 ≤ n && n ≤ 0xB1F then (if countersOf.contains (n - 0xB00) then g n else 0)
  else if n == 0xC01 then (gateTime h + (if v then g 0x605 else 0)) % 2 ^ 64
  else if 0xC00 ≤ n && n ≤ 0xC1F then (if countersOf.contains (n - 0xC00) then g (n - 0x100) else 0)
  else if 0x323 ≤ n && n ≤ 0x326 then (Config.fixedEvent (n - 0x320)).toNat
  else if 0x3B0 ≤ n && n ≤ 0x3BF then
    if bits (csrGet h c (0x3A0 + 2 * ((n - 0x3B0) / 8)) / 256 ^ ((n - 0x3B0) % 8)) 4 3 == 3 then (g n).lor 0x1FF else g n / 1024 * 1024
  else
    match n with
    | 0x001 => g 3 % 32
    | 0x002 => bits (g 3) 7 5
    | 0x009 => g 0xF % 2
    | 0x00A => bits (g 0xF) 2 1
    | 0xC22 => 32
    | 0x100 => (statusView (mstatus h c)).land (sstatusMask + 0x8000000300000000)
    | 0x200 => (statusView (vsstatus h c)).land (sstatusMask + 0x8000000300000000)
    | 0x300 => statusView (mstatus h c)
    | 0x301 => misa
    | 0x303 => mideleg h c
    | 0x600 => hstatus h c + 2 ^ 33
    | 0x344 => mipNow h c
    | 0x104 => (g 0x304).land ((mideleg h c).land 0x222)
    | 0x144 => (mipNow h c).land ((mideleg h c).land 0x222)
    | 0x604 => (g 0x304).land 0x444
    | 0x644 => (mipNow h c).land 0x444
    | 0x204 => ((g 0x304).land ((g 0x603).land 0x444)) / 2
    | 0x244 => ((mipNow h c).land ((g 0x603).land 0x444)) / 2
    | 0xCC0 => (g 0xCC0).land 0xE + b2n (worldOf h c)
    | 0xF14 => c
    | 0xF11 | 0xF12 | 0xF13 => (Config.coreId n).toNat
    | 0xF15 | 0x607 | 0xE12 => 0
    | _ => g n

/-- One PMP configuration byte after a write: a locked one stays, NA4 and write without read keep what was there (R360). -/
def pmpByte (old v : Nat) : Nat :=
  if bit old 7 then old
  else if !bit v 0 && bit v 1 then old
  else (v.land 0x87) + 8 * (if bits v 4 3 == 2 then bits old 4 3 else bits v 4 3)

/-- PMP entry `i`: its configuration byte and address. -/
def pmpCfg (h : Hw) (c i : Nat) : Nat := csrGet h c (0x3A0 + 2 * (i / 8)) / 256 ^ (i % 8) % 256
def pmpAddr (h : Hw) (c i : Nat) : Nat := csrGet h c (0x3B0 + i)

/-- A write of satp, hgatp or vsatp: an unsupported mode leaves the register unchanged (R360). -/
def atpWrite (old v asidBits : Nat) (guest : Bool) : Nat :=
  if !([0, 9, 10].contains (bits v 63 60)) then old
  else bits v 63 60 * 2 ^ 60 + bits v 59 44 % 2 ^ asidBits * 2 ^ 44 + (if guest then bits v 43 2 * 4 else bits v 43 0)

/-- A write of a CSR by an instruction that may write it. -/
def csrWrite (h : Hw) (c n v : Nat) : Hw :=
  let g := csrGet h c
  let set := fun k x => csrSet h c k x
  let n := if virtOf h c then vsNumber n else n
  let sec := worldOf h c
  if 0xB00 ≤ n && n ≤ 0xB1F then (if countersOf.contains (n - 0xB00) then set n (v % 2 ^ 48) else h)
  else if 0x327 ≤ n && n ≤ 0x32E then set n (underMask (g n) v (if sec then 0x3FFFFF else 0x1FFFFF))
  else if 0x323 ≤ n && n ≤ 0x33F then h
  else if 0x3B0 ≤ n && n ≤ 0x3BF then
    let i := n - 0x3B0
    if bit (pmpCfg h c i) 7 || (i < 15 && bit (pmpCfg h c (i + 1)) 7 && bits (pmpCfg h c (i + 1)) 4 3 == 1) then h else set n (v % 2 ^ 54)
  else
    match n with
    | 0x001 => set 3 (g 3 / 32 * 32 + v % 32)
    | 0x002 => set 3 (g 3 % 32 + v % 8 * 32)
    | 0x003 => set 3 (v % 256)
    | 0x008 => set 8 (v % 256)
    | 0x009 => set 0xF (g 0xF / 2 * 2 + v % 2)
    | 0x00A => set 0xF (g 0xF % 2 + v % 4 * 2)
    | 0x00F => set 0xF (v % 8)
    | 0x100 => set 0x300 (underMask (mstatus h c) v sstatusMask)
    | 0x200 => set 0x200 (underMask (vsstatus h c) v sstatusMask)
    | 0x300 =>
      let v := if bits v 12 11 == 2 then v - bits v 12 11 * 2048 + bits (mstatus h c) 12 11 * 2048 else v
      set 0x300 (underMask (mstatus h c) v mstatusMask)
    | 0x302 => set n (v.land 0x3F0B7FF)
    | 0x602 => set n (v.land 0xB1FF)
    | 0x303 => set n (v.land 0x222)
    | 0x603 => set n (v.land 0x444)
    | 0x304 => set n (v.land 0xEEE)
    | 0x104 => set 0x304 (underMask (g 0x304) v ((mideleg h c).land 0x222))
    | 0x604 => set 0x304 (underMask (g 0x304) v 0x444)
    | 0x204 => set 0x304 (underMask (g 0x304) (2 * v) ((g 0x603).land 0x444))
    | 0x344 => csrSet (set 0x344 (v.land 0x222)) c 0x645 (underMask (g 0x645) v 4)
    | 0x144 => set 0x344 (underMask (g 0x344) v ((mideleg h c).land 2))
    | 0x644 => set 0x645 (underMask (g 0x645) v 4)
    | 0x645 => set 0x645 (v.land 0x444)
    | 0x244 => set 0x645 (underMask (g 0x645) (2 * v) ((g 0x603).land 4))
    | 0x105 | 0x205 | 0x305 => if v % 4 ≤ 1 then set n v else set n (v / 4 * 4 + g n % 4)
    | 0x141 | 0x241 | 0x341 => set n (v / 2 * 2)
    | 0x106 | 0x306 | 0x606 => set n (v % 2 ^ 32)
    | 0x320 => set n (v.land 0x7FFD)
    | 0x10A | 0x30A | 0x60A => set n (v % 2)
    | 0x180 => set n (atpWrite (g n) v 16 false)
    | 0x280 => set n (atpWrite (g n) v 16 false)
    | 0x680 => set n (atpWrite (g n) v 14 true)
    | 0x600 => set n (underMask (g n) v hstatusMask)
    | 0x3A0 | 0x3A2 => set n (leNat ((List.range 8).map fun i => BitVec.ofNat 8 (pmpByte (g n / 256 ^ i % 256) (v / 256 ^ i % 256))))
    | 0x301 | 0x607 => h
    | 0x800 => set n (v / 4 * 4)
    | 0x802 => set n (v % 2)
    | 0x5C0 => set n (v % 4)
    | 0x7C2 => set n (v % 8)
    | 0x7C3 => set n (v.land 0x7FFD)
    | 0x7C4 => if sec then set n (v % 2) else h
    | 0x7C5 => set n (underMask (g n) v (if sec then 0x11F else 0x1F))
    | 0x7C6 => let h := set n (v.land 0xFFFFFFFFFF01F); setCore h c { coreOf h c with tagSecure := sec }
    | 0x7C7 => set n (v % 2 ^ 21)
    | 0x7C8 => set n (bits v 51 12 * 4096 + min (v % 1024) 512)
    | _ => set n v

/-- FP or vector state becomes dirty, in a guest's status too. -/
def dirtyFp (h : Hw) (c : Nat) : Hw :=
  let h := csrSet h c 0x300 ((mstatus h c).lor 0x6000)
  if virtOf h c then csrSet h c 0x200 ((vsstatus h c).lor 0x6000) else h
def dirtyVec (h : Hw) (c : Nat) : Hw :=
  let h := csrSet h c 0x300 ((mstatus h c).lor 0x600)
  if virtOf h c then csrSet h c 0x200 ((vsstatus h c).lor 0x600) else h

/-! ### Predictors (R379, R380) -/

/-- All predictor state is cleared (R379). -/
def clearPred (h : Hw) (c : Nat) : Hw := setCore h c { coreOf h c with pred := {} }

/-- What a wrong path leaves: its calls and returns push and pop, which no step shows, and nothing repairs the return stack: a free number of
each (R380; log 91). -/
def wrongPath (h : Hw) (c : Nat) (miss : Bool) : Hw :=
  if !miss then h
  else
    let (n, h) := takeFree h
    let x := Config.freeNat n
    let k := coreOf h c
    let new := (List.range (x % 33)).map fun i => BitVec.ofNat 64 (x / 1089 / 2 ^ (64 * i))
    setCore h c { k with pred := { k.pred with ras := (new ++ k.pred.ras.drop (x / 33 % 33)).take 32 } }

/-- A conditional branch: whether it was predicted so, and its counter and the history after it. An untrained counter predicts by
direction (R379). -/
def trainBranch (h : Hw) (c pc : Nat) (backward taken : Bool) : Hw × Bool :=
  let k := coreOf h c
  let p := k.pred
  let i := Config.branchHash pc p.hist % 16384
  let n := tget 0 p.dir i
  let guess := if n == 0 then backward else decide (3 ≤ n)
  let n' := if n == 0 then (if taken then 3 else 2) else if taken then min 4 (n + 1) else max 1 (n - 1)
  let p := { p with dir := tset 0 p.dir i n', hist := BitVec.ofNat 64 (2 * p.hist.toNat + b2n taken) }
  (wrongPath (setCore h c { k with pred := p }) c (guess != taken), guess != taken)

/-- An indirect jump trains the target buffer, a call pushes its return address and a return pops one; whether the target was
predicted. -/
def trainJump (h : Hw) (c pc target : Nat) (push : Option Nat) (pop : Bool) : Hw × Bool :=
  let k := coreOf h c
  let p := k.pred
  let i := Config.targetHash pc % 8192
  let guess := if pop then p.ras.head? else (tfind p.target i)
  let ras := if pop then p.ras.drop 1 else p.ras
  let ras := match push with | some a => (BitVec.ofNat 64 a :: ras).take 32 | none => ras
  let miss := guess != some (BitVec.ofNat 64 target)
  (wrongPath (setCore h c { k with pred := { p with target := tins p.target i (BitVec.ofNat 64 target), ras := ras } }) c miss, miss)

/-! ### Counters (R532 to R537) -/

/-- The bit of mhpmevent that inhibits the core's mode. -/
def inhibitBit (p : Nat) (v : Bool) : Nat := if p == 3 then 16 else if v then (if p == 1 then 19 else 20) else if p == 1 then 17 else 18

/-- Counter `k` takes `n` more; a wrap sets its bit of HPMOVF (R533). -/
def bumpCounter (h : Hw) (c k n : Nat) : Hw :=
  let v := csrGet h c (0xB00 + k) + n
  let h := csrSet h c (0xB00 + k) (v % 2 ^ 48)
  if 2 ^ 48 ≤ v then csrSet h c 0x7C3 (setBit (csrGet h c 0x7C3) k true) else h

/-- A counter counts now: not inhibited, and in the secure world where it is allowed to (R533, R534). -/
def counting (h : Hw) (c k p : Nat) (v sec : Bool) : Bool :=
  !bit (csrGet h c 0x320) k &&
    (if k < 7 then !sec || csrGet h c 0x7C4 % 2 == 1
     else
       let e := csrGet h c (0x320 + k)
       (!sec || bit e 21) && !bit e (inhibitBit p v))

/-- Events whose number an instruction fixes; the other events of a core advance by amounts that no step measures (log 6). -/
def exactEvents : List Nat := [0x01, 0x04, 0x05, 0x0F, 0x10, 0x11, 0x13, 0x14]
def otherEvents : List Nat := [0x02, 0x03, 0x06, 0x07, 0x08, 0x09, 0x0A, 0x0B, 0x0C, 0x0D, 0x0E, 0x12, 0x20, 0x21, 0x22, 0x23, 0x24]

/-- The counters after an instruction in a mode: at least one cycle, of whose six slots one holds an instruction that retired, and the
rest are split as no step measures (R532, R534, R536). -/
def countInsn (h : Hw) (c p : Nat) (v sec retired : Bool) (events wrote : List Nat) : Hw :=
  let (n, h) := takeFree h
  let x := Config.freeNat n
  let d := 1 + x % 2 ^ 16
  let left := 6 * d - b2n retired
  let wasted := x / 2 ^ 16 % (left + 1)
  let front := x / 2 ^ 40 % (left - wasted + 1)
  let fixed := [(0, d), (2, b2n retired), (3, wasted), (4, front), (5, left - wasted - front), (6, x / 2 ^ 64 % 2 ^ 16)]
  let h := fixed.foldl (fun h (e : Nat × Nat) => if counting h c e.1 p v sec && !wrote.contains e.1 then bumpCounter h c e.1 e.2 else h) h
  (List.range 8).foldl (fun h i =>
    let k := 7 + i
    let e := csrGet h c (0x320 + k) % 256
    if !counting h c k p v sec || wrote.contains k then h
    else if exactEvents.contains e then bumpCounter h c k (events.filter (· == e)).length
    else if otherEvents.contains e then
      let (n, h) := takeFree h
      bumpCounter h c k (Config.freeNat n % 2 ^ 32)
    else h) h

/-! ### Tags (R538, R539) -/

/-- Tagging is on: enabled, ring not full, no error, and in the secure world only with TAG_SEC (R538, R539). -/
def taggingOn (h : Hw) (c : Nat) (sec : Bool) : Bool :=
  let t := csrGet h c 0x7C5
  let p := csrGet h c 0x7C7
  bit t 0 && (!sec || bit t 8) && !bit p 21 && !bit p 22

/-- The record of a tagged instruction and the ring after it; which instruction the LFSR tags and what the pipeline measured of it are
open. A refused write sets ERR; a full ring sets FULL (R538, R539). -/
def tagInsn (h : Hw) (m : Mem) (r : CoreRun) (p : Nat) (v sec exception : Bool) : Eff :=
  let c := r.core
  if !taggingOn h c sec then { hw := h }
  else
    let (n, h) := takeFree h
    if !Config.freeBool n then { hw := h }
    else
      let x := fun i k => leBytes k (Config.freeNat n / 2 ^ (32 * i))
      let flags := b2n exception + 2 * b2n r.mispredict + 4 * b2n (Config.freeBool (2 * n)) + 8 * b2n sec + 16 * b2n v
      let source := if r.daddr == 0 then 0 else 1 + Config.freeNat n % 8
      let len := if isComp r.word then r.word % 65536 else r.word
      let rec' := leBytes 8 r.pc ++ leBytes 4 len ++ leBytes 1 flags ++ leBytes 1 p ++ leBytes 1 source ++ zeros 1 ++ leBytes 8 r.daddr ++
        leBytes 8 (gateTime h) ++ x 1 4 ++ x 2 4 ++ x 3 4 ++ (if source == 0 then zeros 4 else x 4 4) ++ leBytes 2 (Config.freeNat n / 2 ^ 160 % 385) ++ zeros 14
      let ring := csrGet h c 0x7C6
      let pos := csrGet h c 0x7C7
      let head := pos % 2 ^ 21
      let w : Asker := askerIn h ((ownerCore h c).getD 8) (coreOf h c).tagSecure
      let (e, ok) := agentWrite h m w (bits ring 51 12 * 4096 + 64 * head) rec'
      e.map fun h =>
        if !ok then csrSet h c 0x7C7 (setBit pos 22 true)
        else
          let full := 2 ^ max 6 (min 20 (ring % 32)) ≤ head + 1
          csrSet h c 0x7C7 (setBit ((head + 1) % 2 ^ 21) 21 full)

/-! ### Traps (R368, R379) -/

/-- The address of a trap vector for a cause. -/
def vectorOf (tvec cause : Nat) (interrupt : Bool) : Nat := tvec / 4 * 4 + (if interrupt && tvec % 4 == 1 then 4 * cause else 0)

/-- A trap enters M, HS or VS mode as the delegation registers say: pc, cause and value are saved in the current world's registers, the
status stacks, and the predictors are cleared (R364, R368, R379). -/
def enterTrap (h : Hw) (c pc : Nat) (interrupt : Bool) (t : Trap) : Hw :=
  let p := privOf h c
  let v := virtOf h c
  let medeleg := if interrupt then mideleg h c else csrGet h c 0x302
  let hedeleg := if interrupt then csrGet h c 0x603 else csrGet h c 0x602
  let toS := p < 3 && bit medeleg t.cause
  let toVs := toS && v && bit hedeleg t.cause
  let code := t.cause + (if interrupt then 2 ^ 63 else 0)
  let h := clearPred h c
  let go := fun (h : Hw) (tvec : Nat) => setCore h c { coreOf h c with pc := BitVec.ofNat 64 (vectorOf tvec t.cause interrupt) }
  if toVs then
    let code := if interrupt then code - 1 else code
    let s := vsstatus h c
    let s' := setBit (setBit (setBit s 5 (bit s 1)) 1 false) 8 (p == 1)
    let h := csrSet (csrSet (csrSet (csrSet h c 0x241 pc) c 0x242 code) c 0x243 t.tval) c 0x200 s'
    let tvec := csrGet h c 0x205
    setPriv (setCore h c { coreOf h c with pc := BitVec.ofNat 64 (vectorOf tvec (t.cause - b2n interrupt) interrupt) }) c 1 true
  else if toS then
    let s := mstatus h c
    let s' := setBit (setBit (setBit s 5 (bit s 1)) 1 false) 8 (p == 1)
    let hs := setBit (setBit (hstatus h c) 7 v) 6 t.gva
    let hs := if v then setBit hs 8 (p == 1) else hs
    let h := csrSet (csrSet (csrSet (csrSet h c 0x141 pc) c 0x142 code) c 0x143 t.tval) c 0x300 s'
    let h := csrSet (csrSet (csrSet h c 0x600 hs) c 0x643 (t.tval2 / 4)) c 0x64A t.tinst
    setPriv (go h (csrGet h c 0x105)) c 1 false
  else
    let s := mstatus h c
    let s' := setBit (setBit s 7 (bit s 3)) 3 false
    let s' := s' - bits s' 12 11 * 2048 + p * 2048
    let s' := setBit (setBit s' 39 v) 38 t.gva
    let h := csrSet (csrSet (csrSet (csrSet h c 0x341 pc) c 0x342 code) c 0x343 t.tval) c 0x300 s'
    let h := csrSet (csrSet h c 0x34B (t.tval2 / 4)) c 0x34A t.tinst
    setPriv (go h (csrGet h c 0x305)) c 3 false

/-- MRET: back to MPP and MPV (R379). -/
def doMret (h : Hw) (c : Nat) : Hw × Nat :=
  let s := mstatus h c
  let p := bits s 12 11
  let v := bit s 39 && p != 3
  let s' := setBit (setBit s 3 (bit s 7)) 7 true
  let s' := setBit (s' - p * 2048) 39 false
  let s' := if p != 3 then setBit s' 17 false else s'
  (clearPred (setPriv (csrSet h c 0x300 s') c p v) c, csrGet h c 0x341)

/-- SRET, from HS or VS mode (R379). -/
def doSret (h : Hw) (c : Nat) : Hw × Nat :=
  if virtOf h c then
    let s := vsstatus h c
    let s' := setBit (setBit (setBit s 1 (bit s 5)) 5 true) 8 false
    (clearPred (setPriv (csrSet h c 0x200 s') c (b2n (bit s 8)) true) c, csrGet h c 0x241)
  else
    let s := mstatus h c
    let v := bit (hstatus h c) 7
    let s' := setBit (setBit (setBit (setBit s 1 (bit s 5)) 5 true) 8 false) 17 false
    let h := csrSet (csrSet h c 0x300 s') c 0x600 (setBit (hstatus h c) 7 false)
    (clearPred (setPriv h c (b2n (bit s 8)) v) c, csrGet h c 0x141)

/-! ### Interrupts (R360, R446, R524, R525) -/

/-- The interrupt that the core takes before its next instruction: M-level first, then HS and VS, each in the standard order. In the
secure world the queues of the normal world wait (R375). -/
def takenInterrupt (h : Hw) (c : Nat) : Option Nat :=
  let p := privOf h c
  let v := virtOf h c
  let sec := !(tget [] h.ints.queue (4 * c + 2)).isEmpty
  let mip := if !worldOf h c then mipNow h c
    else setBit (setBit (mipNow h c) 11 sec) 9 (bit (csrGet h c 0x344) 9)
  let pend := mip.land (csrGet h c 0x304)
  let del := mideleg h c
  let hdel := (csrGet h c 0x603).land 0x444
  let first := fun (m : Nat) => [11, 3, 7, 9, 1, 5, 12, 10, 2, 6].find? fun i => bit m i
  let m := pend - pend.land del
  let hs := pend.land del - (pend.land del).land hdel
  let vs := pend.land hdel
  if (p < 3 || bit (mstatus h c) 3) && m != 0 then first m
  else if p < 3 && (v || p == 0 || bit (mstatus h c) 1) && hs != 0 then first hs
  else if v && (p == 0 || bit (vsstatus h c) 1) && vs != 0 then first vs
  else none

/-- A secure-owned interrupt waits for a core in the normal world of a partition that has a secure one (R442, R446). -/
def securePending (h : Hw) (c : Nat) : Bool :=
  !worldOf h c && !(tget [] h.ints.queue (4 * c + 2)).isEmpty && (match ownerCore h c with | some p => hasSecure h p | none => false)

/-- Big cores run in M4 to M6, while their partition runs and their square is awake (R71, R385, R433). -/
def corePowered (h : Hw) (c : Nat) : Bool :=
  decide (4 ≤ modeNow h) && decide (modeNow h ≤ 6) && pwrOf h (c / 2) == pwrOn &&
    (match ownerCore h c with | some p => fget h F_PART_STATUS_STATE 0 p == 1 | none => false)

/-- The core runs instructions. -/
def coreRuns (h : Hw) (c : Nat) : Bool := corePowered h c && fget h F_CORE_STATUS_STATE c == stRunning

end Sys2Proof.Machine
end

