-- ==== Sys2Proof/Machine/CoreMem.lean ====
section
/-!
DEFINITION. Memory as a big core sees it: fills and stores through its private caches, translation, PMP, loads, stores and atomics.
PRESUMED: unsafe (log 9): translation and PMP as the RISC-V privileged architecture 1.12 has them, which R359 and R360 name.
-/

namespace Sys2Proof.Machine

/-! ### Lines (R393, R394, R410 to R415) -/

/-- Every open transaction of a home ends, and every retry credit is granted in turn: a request of an instruction that found no filter
entry gets one (R417, R418; log 23). `fuel` is the number of credits. -/
def drainHome (h : Hw) (m : Mem) (k : Nat) : Nat → Eff
  | 0 => effFold h m settleLine (h.hom.trans.map (·.1))
  | n + 1 =>
    (effFold h m settleLine (h.hom.trans.map (·.1))).next m fun h m => (grantOldest h m k).next m fun h m => drainHome h m k n

/-- A core obtains a line: what is open for it ends first, and where its home has no entry or no credit, what holds those (R414, R417). -/
def obtainLine (h : Hw) (m : Mem) (req : CReq) (c line : Nat) : Eff :=
  (settleLine h m line).next m fun h m =>
    match homeLine h line with
    | none => { hw := h }
    | some k =>
      (if startable h line then { hw := h } else drainHome h m k (creditsOf h k)).next m fun h m =>
        if startable h line then fillLine h m req c line else { hw := h }

/-- A line of the L1D or the L1I leaves it to make room for another: which one of its set the spec does not say, a free choice (log 7). -/
def leastL1 (h : Hw) (c line : Nat) (within : CacheLine → Bool) (drop : CacheLine → CacheLine) : Hw :=
  let set := h.hom.l1.filter fun e => e.1 / 2 ^ 46 == c && e.1 % 128 == line % 128 && within e.2
  if set.length < 8 then h
  else
    let (n, h) := takeFree h
    match set[Config.freeNat n % set.length]? with
    | some (x, l) => { h with hom := { h.hom with l1 := tins h.hom.l1 x (drop l) } }
    | none => h

/-- The line of an access enters the L1D, where that is enabled and the L2 holds the line; the line it replaces there has left it, so that a
reservation of it ends (R360, R393, R406). -/
def enterL1d (h : Hw) (c line : Nat) : Hw :=
  match coreLine h c line with
  | some l =>
    if l.l1d || fget h F_CACHE_EN_L1D_EN c != 1 then h
    else
      let h := leastL1 h c line (·.l1d) fun x => { x with l1d := false }
      setL1 h c line { l with l1d := true, born := nextUse h }
  | none => h

/-- The line of a fetch enters the L1I with the bytes it has now (R383, R393). -/
def enterL1i (h : Hw) (c line : Nat) : Hw :=
  match coreLine h c line with
  | some l =>
    if l.l1i.isSome then h
    else
      let h := leastL1 h c line (·.l1i.isSome) fun x => { x with l1i := none }
      setL1 h c line { l with l1i := some l.data }
  | none => h

/-- FENCE.I empties the L1I of its core (R383, R393). -/
def emptyL1i (h : Hw) (c : Nat) : Hw :=
  { h with hom := { h.hom with l1 := h.hom.l1.map fun e => if e.1 / 2 ^ 46 == c && e.2.l1i.isSome then (e.1, { e.2 with l1i := none }) else e } }

/-- The line of a load or a fetch: a miss fills it; where the core may hold no line, it is read at its home (R406, R411, R419). -/
def coreReadLine (h : Hw) (m : Mem) (c pa : Nat) (fetch : Bool := false) : Eff × List Byte × Bool :=
  let line := pa / 64
  let e : Eff := if (coreLine h c line).isSome then { hw := h } else if allocates h c then obtainLine h m .readShared c line else settleLine h m line
  match coreLine e.hw c line with
  | some l => (e.map fun h => if fetch then enterL1i h c line else enterL1d h c line, l.data, l.poison)
  | none =>
    let m := m.applyAll e.ops
    (e.map fun h => noteRead h m pa (ownerCore h c), lineNow e.hw m pa)

/-- A store of bytes within a line: the core obtains the line in M and writes it; only a store of all 64 bytes clears poison, and a locked
copy in the LLC is stale from then on. Where the core may not hold the line, the bytes go to the home (R394, R404, R406, R411,
R413). -/
def coreWriteLine (h : Hw) (m : Mem) (c pa : Nat) (data : List Byte) : Eff :=
  let line := pa / 64
  let own := match coreLine h c line with | some l => l.st == .m || l.st == .e | none => false
  let req := if (coreLine h c line).isSome then CReq.upgrade else .readUnique
  let e : Eff := if !own && allocates h c then obtainLine h m req c line else { hw := h }
  match coreLine e.hw c line with
  | some l =>
    if allocates e.hw c && (l.st == .m || l.st == .e) then
      let new := l.data.take (pa % 64) ++ data ++ l.data.drop (pa % 64 + data.length)
      e.map fun h => enterL1d (setL1 (staleLocked h line) c line { l with st := .m, data := new, poison := l.poison && data.length != 64 }) c line
    else e.next m fun h m => writePiece h m pa (data.map some) false (ownerCore h c)
  | none => e.next m fun h m => writePiece h m pa (data.map some) false (ownerCore h c)

/-! ### Accesses and their faults -/

inductive Access where
  | fetch | load | store
  deriving DecidableEq, Repr

def accessFault : Access → Nat | .fetch => 1 | .load => 5 | .store => 7
def pageFault : Access → Nat | .fetch => 12 | .load => 13 | .store => 15
def guestFault : Access → Nat | .fetch => 20 | .load => 21 | .store => 23

/-- How an access is made: privilege, virtualisation, and an HLVX read, which needs execute permission. -/
structure Via where
  priv : Nat
  virt : Bool
  hlvx : Bool := false
  deriving DecidableEq, Repr

/-- A memory exception names a virtual address. -/
def raiseAt {α : Type} (via : Via) (cause va : Nat) : InsnM α := throw { cause := cause, tval := va, gva := via.virt }

/-- Fetches run in the current mode, loads and stores in the mode that MPRV selects. -/
def viaFetch : InsnM Via := do let r ← get; pure { priv := privOf r.hw r.core, virt := virtOf r.hw r.core }
def viaData : InsnM Via := do
  let r ← get
  let s := mstatus r.hw r.core
  let p := privOf r.hw r.core
  if p == 3 && bit s 17 then pure { priv := bits s 12 11, virt := bit s 39 && bits s 12 11 != 3 }
  else pure { priv := p, virt := virtOf r.hw r.core }

/-! ### PMP (R360) -/

/-- The range of PMP entry `i`, in units of 4 KiB: first byte and byte after the last. -/
def pmpRange (h : Hw) (c i : Nat) : Option (Nat × Nat) :=
  let a := pmpAddr h c i
  match bits (pmpCfg h c i) 4 3 with
  | 1 => some (if i == 0 then 0 else pmpAddr h c (i - 1) / 1024 * 4096, a / 1024 * 4096)
  | 3 =>
    let a := a.lor 0x1FF
    let t := ((List.range 54).find? fun j => !bit a j).getD 54
    some (a / 2 ^ (t + 1) * 2 ^ (t + 1) * 4, (a / 2 ^ (t + 1) + 1) * 2 ^ (t + 1) * 4)
  | _ => none

/-- The lowest-numbered entry that matches a byte of an access decides: it must cover the access and permit it, in M-mode only where it
is locked. Without one, M-mode alone may access. -/
def pmpAllows (h : Hw) (c p : Nat) (acc : Access) (pa n : Nat) : Bool :=
  let hit := (List.range 16).find? fun i => match pmpRange h c i with | some (lo, hi) => decide (lo < pa + n) && decide (pa < hi) && decide (lo < hi) | none => false
  match hit with
  | none => p == 3
  | some i =>
    match pmpRange h c i with
    | some (lo, hi) =>
      let cfg := pmpCfg h c i
      decide (lo ≤ pa) && decide (pa + n ≤ hi) && ((p == 3 && !bit cfg 7) || bit cfg (match acc with | .fetch => 2 | .load => 0 | .store => 1))
    | none => false

/-! ### Translation (R360, R369) -/

/-- A read of a table entry: refused or out of memory is an access fault of the access, a poisoned line exception 24 (R369). -/
def readPte (via : Via) (acc : Access) (va pa : Nat) : InsnM Nat := do
  let r ← get
  if !pmpAllows r.hw r.core 1 .load pa 8 then raiseAt via (accessFault acc) va
  let (ok, h) := mayReach r.hw (askerOf r.hw (.core (Fin.ofNat 160 r.core))) pa false
  if !ok then
    set { r with hw := h }
    raiseAt via (accessFault acc) va
  let (h, d, pz) := lineRead h r.mem pa (ownerCore h r.core)
  set { r with hw := h }
  if pz then raiseAt via 24 va
  pure (num d (pa % 64) 8)

/-- Where a table entry leads. -/
inductive PteKind where
  | leaf
  | table (pa : Nat)
  | bad
  deriving DecidableEq, Repr

/-- The kind of an entry at a level: invalid, reserved and misaligned ones are bad. -/
def pteKind (pte l : Nat) : PteKind :=
  if !bit pte 0 || (!bit pte 1 && bit pte 2) || bits pte 63 54 != 0 then .bad
  else if bit pte 1 || bit pte 3 then (if bits pte 53 10 % 2 ^ (9 * l) != 0 then .bad else .leaf)
  else if bit pte 4 || bit pte 6 || bit pte 7 then .bad
  else .table (bits pte 53 10 * 4096)

/-- The walk from level `l`: the leaf and its level; none for a bad entry. -/
def walkTable (read : Nat → InsnM Nat) (va : Nat) : (wide : Bool) → (l table : Nat) → InsnM (Option (Nat × Nat))
  | wide, 0, table => do
    let pte ← read (table + 8 * (va / 4096 % (if wide then 2048 else 512)))
    pure (match pteKind pte 0 with | .leaf => some (pte, 0) | _ => none)
  | wide, l + 1, table => do
    let pte ← read (table + 8 * (va / 2 ^ (12 + 9 * (l + 1)) % (if wide then 2048 else 512)))
    match pteKind pte (l + 1) with
    | .leaf => pure (some (pte, l + 1))
    | .bad => pure none
    | .table t => walkTable read va false l t

/-- The address a leaf gives. -/
def leafAddr (pte l va : Nat) : Nat :=
  let k := 2 ^ (12 + 9 * l)
  bits pte 53 10 * 4096 / k * k + va % k

/-- A leaf permits an access, with A and, for a store, D set (Svade, R360). -/
def leafAllows (pte : Nat) (acc : Access) (hlvx mxr user sum : Bool) : Bool :=
  let u := bit pte 4
  (if user then u else !u || (sum && acc != .fetch)) && bit pte 6 &&
    (match acc with
     | .fetch => bit pte 3
     | .load => if hlvx then bit pte 3 else bit pte 1 || (mxr && bit pte 3)
     | .store => bit pte 2 && bit pte 7)

/-- The second stage: a guest physical address to a physical one. `implicit`: an entry of the first stage's tables is read. -/
def translateGuest (via : Via) (acc : Access) (va gpa : Nat) (implicit : Bool) : InsnM Nat := do
  let r ← get
  let atp := csrGet r.hw r.core 0x680
  let l := if bits atp 63 60 == 9 then 3 else 4
  let bad : InsnM Nat := throw { cause := guestFault acc, tval := va, tval2 := gpa, gva := true, tinst := if implicit then 0x3000 else 0 }
  if bits atp 63 60 == 0 then pure gpa
  else if 2 ^ (12 + 9 * (l + 1) + 2) ≤ gpa then bad
  else
    match ← walkTable (readPte via acc va) gpa true l (bits atp 43 0 * 4096) with
    | none => bad
    | some (pte, k) =>
      let acc' := if implicit then Access.load else acc
      if leafAllows pte acc' (via.hlvx && !implicit) (bit (mstatus r.hw r.core) 19) true false then pure (leafAddr pte k gpa) else bad

/-- A virtual address to a physical one (R360). -/
def translate (via : Via) (acc : Access) (va : Nat) : InsnM Nat := do
  let r ← get
  let h := r.hw
  let c := r.core
  if via.priv == 3 then pure va
  else
    let atp := csrGet h c (if via.virt then 0x280 else 0x180)
    let stage2 := fun (implicit : Bool) (a : Nat) => if via.virt then translateGuest via acc va a implicit else pure a
    let mode := bits atp 63 60
    if mode == 0 then stage2 false va
    else
      let l := if mode == 9 then 3 else 4
      let bad : InsnM Nat := raiseAt via (pageFault acc) va
      if sext (12 + 9 * (l + 1)) 64 va != va then bad
      else
        let read := fun (a : Nat) => do let pa ← stage2 true a; readPte via acc va pa
        match ← walkTable read va false l (bits atp 43 0 * 4096) with
        | none => bad
        | some (pte, k) =>
          let s := if via.virt then vsstatus h c else mstatus h c
          let mxr := bit (mstatus h c) 19 || (via.virt && bit s 19)
          if leafAllows pte acc via.hlvx mxr (via.priv == 0) (bit s 18) then stage2 false (leafAddr pte k va) else bad

/-! ### Ranges -/

def isNormal (h : Hw) (pa : Nat) : Bool := match placeOf h pa with | .dram _ _ _ | .scratch _ => true | _ => false
def isDevice (h : Hw) (pa : Nat) : Bool := match placeOf h pa with | .control _ | .outbound _ | .remote _ => true | _ => false

/-- A piece of an access within one line: translated, and checked against PMP and, in normal memory, the region registers or the
scratchpad's owner (R278, R361, R402). `other`: the exception for an address that is no memory. -/
def mapPiece (via : Via) (acc : Access) (va n : Nat) (other : Nat := accessFault acc) : InsnM Nat := do
  let pa ← translate via acc va
  let r ← get
  if !pmpAllows r.hw r.core via.priv acc pa n then raiseAt via (accessFault acc) va
  if isNormal r.hw pa then
    let (ok, h) := mayReach r.hw (askerOf r.hw (.core (Fin.ofNat 160 r.core))) pa (acc == .store)
    set { r with hw := h }
    if !ok then raiseAt via (accessFault acc) va
  else if !isDevice r.hw pa || acc == .fetch then raiseAt via other va
  pure pa

/-- Every piece of an access, checked before any is performed: virtual and physical address and count; the lowest faulting byte names
the exception. A misaligned access to device memory is an access fault (R361, R382). -/
def mapRange (via : Via) (acc : Access) (va n : Nat) : InsnM (List (Nat × Nat × Nat)) :=
  (pieces va n).mapM fun (a, k) => do
    let a := a % 2 ^ 64
    let pa ← mapPiece via acc a k
    let r ← get
    if isDevice r.hw pa && (k != n || a % n != 0) then raiseAt via (accessFault acc) a
    pure (a, pa, k)

/-! ### Loads and stores -/

/-- A read of device memory: control space answers at once; what a host outbound window returns is open (log 7), its request is sent;
remote windows take no reads (R4, R5, R361, R477, R510). -/
def deviceLoad (via : Via) (va pa n : Nat) : InsnM (List Byte × Bool) := do
  let r ← get
  let who := Requester.core (Fin.ofNat 160 r.core)
  match placeOf r.hw pa with
  | .control _ =>
    let (h, v) := regRead r.hw who pa n
    set { r with hw := h }
    match v with
    | some x => pure (leBytes n x, false)
    | none => raiseAt via 5 va
  | .outbound _ =>
    let s : State := { hw := r.hw, mem := r.mem, pending := [] }
    let h := (after s (execOutboundAccess who (BitVec.ofNat 52 pa) false n [] false s)).hw
    let (k, h) := takeFree h
    set { r with hw := h }
    if h.busErr || Config.freeNat k % 3 == 1 then raiseAt via 5 va
    else pure (leBytes n (Config.freeNat k / 3), Config.freeNat k % 3 == 2)
  | _ => raiseAt via 5 va

/-- A load: its bytes, and for each piece whether its line is poisoned. -/
def loadMarked (via : Via) (va n : Nat) : InsnM (List (Nat × List Byte × Bool)) := do
  let ps ← mapRange via .load va n
  ps.mapM fun (a, pa, k) => do
    let r ← get
    if isDevice r.hw pa then
      let (d, pz) ← deviceLoad via a pa k
      pure (a, d, pz)
    else
      let (e, d, pz) := coreReadLine r.hw r.mem r.core pa
      set { r with hw := e.hw, mem := r.mem.applyAll e.ops, ops := r.ops ++ e.ops }
      pure (a, sub d (pa % 64) k, pz)

/-- A load that raises exception 24 on poison (R369). -/
def loadBytes (via : Via) (va n : Nat) : InsnM (List Byte) := do
  modify fun r => { r with daddr := va }
  let ps ← loadMarked via va n
  match ps.find? fun p => p.2.2 with
  | some p => raiseAt via 24 p.1
  | none => pure (ps.flatMap fun p => p.2.1)

def loadNat (via : Via) (va n : Nat) : InsnM Nat := do let d ← loadBytes via va n; pure (leNat d)

/-- A store: every piece is checked, then all are written; a store to device memory waits for the commit (R361, R362, R382). -/
def storeBytes (via : Via) (va : Nat) (data : List Byte) (elem : Option Nat := none) : InsnM Unit := do
  modify fun r => { r with daddr := va }
  let ps ← mapRange via .store va data.length
  let _ ← ps.foldlM (init := data) fun data (a, pa, k) => do
    let r ← get
    if isDevice r.hw pa then set { r with devs := r.devs ++ [({ va := a, pa := pa, elem := elem, data := data.take k } : DevStore)] }
    else runEff fun h m => coreWriteLine h m r.core pa (data.take k)
    pure (data.drop k)

/-- Every byte of a range can be written (R371). -/
def checkStore (via : Via) (va n : Nat) : InsnM Unit := do
  let _ ← mapRange via .store va n
  pure ()

/-! ### Atomics (R360, R366, R382) -/

/-- An atomic access of an aligned operand: to normal memory alone. -/
def mapAtomic (via : Via) (acc : Access) (va n : Nat) : InsnM Nat := do
  modify fun r => { r with daddr := va }
  if va % n != 0 then raiseAt via (if acc == .load then 4 else 6) va
  let pa ← mapPiece via acc va n 7
  let r ← get
  if isDevice r.hw pa then raiseAt via 7 va
  pure pa

/-- The value an atomic operation replaces. -/
def atomicRead (via : Via) (va pa n : Nat) : InsnM Nat := do
  let r ← get
  let (e, d, pz) := coreReadLine r.hw r.mem r.core pa
  set { r with hw := e.hw, mem := r.mem.applyAll e.ops, ops := r.ops ++ e.ops }
  if pz then raiseAt via 24 va
  pure (num d (pa % 64) n)

/-- Read, change and write an operand as one access. -/
def atomicUpdate (via : Via) (va n : Nat) (f : Nat → Nat) : InsnM Nat := do
  let pa ← mapAtomic via .store va n
  let old ← atomicRead via va pa n
  let r ← get
  runEff fun h m => coreWriteLine h m r.core pa (leBytes n (f old))
  pure old

/-- LR: a load that reserves its line while it stays in the core's caches (R360). -/
def loadReserved (via : Via) (va n : Nat) : InsnM Nat := do
  let pa ← mapAtomic via .load va n
  let v ← atomicRead via va pa n
  modify fun r =>
    let resv := match coreLine r.hw r.core (pa / 64) with
      | some l => if l.l1d then some (pa / 64, l.born, 0) else none
      | none => none
    { r with hw := setCore r.hw r.core { coreOf r.hw r.core with resv := resv } }
  pure v

/-- SC: stores where the reserved line never left the caches and at most 64 instructions lie between, the LR itself being the first that
`resv` counts; whether it stayed in the L1D itself is open (R360; log 7). Result 0 is success. -/
def storeConditional (via : Via) (va n v : Nat) : InsnM Nat := do
  let pa ← mapAtomic via .store va n
  let r ← get
  let k := coreOf r.hw r.core
  let held := match k.resv, coreLine r.hw r.core (pa / 64) with
    | some (line, born, count), some l => line == pa / 64 && l.l1d && born == l.born && decide (count ≤ 65)
    | _, _ => false
  let (x, h) := takeFree (setCore r.hw r.core { k with resv := none })
  set { r with hw := h }
  if held && Config.freeBool x then
    runEff fun h m => coreWriteLine h m r.core pa (leBytes n v)
    pure 0
  else pure 1

/-! ### Fetch (R369, R382) -/

/-- A half of an instruction is fetched, and whether it is the half that a word names: in the form the line has now, or in the older form that
the L1I took of it before the line's last change (R369, R382, R383). -/
def fetchHalf (via : Via) (pc a w : Nat) : InsnM Bool := do
  let pa ← mapPiece via .fetch a 2
  let r ← get
  let old := match coreLine r.hw r.core (pa / 64) with | some l => l.l1i | none => none
  let (e, d, pz) := coreReadLine r.hw r.mem r.core pa true
  set { r with hw := e.hw, mem := r.mem.applyAll e.ops, ops := r.ops ++ e.ops }
  if pz then raiseAt via 25 pc
  let now := num d (pa % 64) 2
  pure (w == now || (match old with | some b => w == num b (pa % 64) 2 | none => false))

/-- The instruction at the pc is fetched: the first two bytes and, of a 32-bit one, the next two; whether it is the word (R369, R382, R383). -/
def checkFetch (pc word : Nat) : InsnM Bool := do
  let via ← viaFetch
  if !(← fetchHalf via pc pc (word % 65536)) then pure false
  else if isComp word then pure true
  else fetchHalf via pc ((pc + 2) % 2 ^ 64) (word / 65536 % 65536)

end Sys2Proof.Machine
end

