-- ==== Sys2Proof/Machine/CoreRun.lean ====
section
/-!
DEFINITION. One instruction of a big core from its fetch to its commit, and the entry of secure-owned interrupts.
-/

namespace Sys2Proof.Machine

/-! ### The shadow bank (R374, R445, R446) -/

/-- Privilege that WENTRY names. -/
def entryPriv (h : Hw) (c : Nat) : Nat := if csrGet h c 0x7C0 % 4 == 1 then 1 else 3

/-- The normal world's state goes to the shadow bank. -/
def saveShadow (h : Hw) (c pc : Nat) (full : Bool) : Hw :=
  let k := coreOf h c
  let g := fun n => BitVec.ofNat 64 (csrGet h c n)
  let sh : Shadow := { x := k.x, f := k.f, v := k.v, fcsr := g 0x003, vtype := g 0xC21, vl := g 0xC20, vstart := g 0x008,
                       priv := privOf h c, virt := virtOf h c, pc := BitVec.ofNat 64 pc, full := full }
  setCore h c { k with shadow := sh }

/-- Registers read 0: of x1 to x31 those that `keep` leaves out, f0 to f31 and v0 to v31 (R374, R446). -/
def zeroRegs (h : Hw) (c : Nat) (keep : Nat → Bool) : Hw :=
  let k := coreOf h c
  let x := k.x.zipIdx.map fun (v, i) => if keep i then v else 0
  setCore h c { k with x := x, f := List.replicate 32 0, v := List.replicate 32 0 }

/-- fcsr and vl read 0 and vtype is ill-formed (R374). -/
def zeroCsrs (h : Hw) (c : Nat) : Hw := csrSet (csrSet (csrSet h c 3 0) c 0xC20 0) c 0xC21 (2 ^ 63)

/-- The secure world is entered at WENTRY with a return address in WEPC; WSTATE keeps the caller's mode. -/
def enterSecure (h : Hw) (c ret : Nat) : Hw :=
  let h := csrSet h c 0xCC0 (2 * privOf h c + 8 * b2n (virtOf h c))
  let h := csrSet h c 0x7C1 ret
  clearPred (setPriv (setWorld h c true) c (entryPriv h c) false) c

/-- SECURE_INTERRUPT_ENTRY: all normal-world state is banked, registers read 0, and a0 names the oldest secure source (R446). -/
def secureEntry (h : Hw) (c : Nat) : Hw :=
  let pc := (coreOf h c).pc.toNat
  let (src, h) := claimEntry h (4 * c + 2)
  let h := zeroRegs (saveShadow h c pc true) c fun i => i == 0
  let h := setXreg h c 10 (2 ^ 63 + src.getD 0)
  let h := enterSecure h c pc
  setCore h c { coreOf h c with pc := BitVec.ofNat 64 (csrGet h c 0x7C0 / 4 * 4) }

/-- SECURE_INTERRUPT_ENTRY (R446). -/
def execSecureInterruptEntry (c : Fin 160) (s : State) : Host.Outcome State Fault Refusal :=
  .next (s.upd fun h =>
    let c := c.val
    if corePowered h c && (fget h F_CORE_STATUS_STATE c == stRunning || fget h F_CORE_STATUS_STATE c == stWfi) && securePending h c then
      countInsn (secureEntry (stirCore h c) c) c (privOf h c) (virtOf h c) false false [0x10] []
    else h)

/-! ### Commit (R361, R362, R369, R371) -/

/-- The instruction's own state: pc and the distance from its LR. -/
def commitPc (h : Hw) (c next : Nat) : Hw :=
  let k := coreOf h c
  setCore h c { k with pc := BitVec.ofNat 64 next, resv := k.resv.map fun (l, b, n) => (l, b, n + 1) }

/-- One store to device memory: refused ones end in a bus error (R4, R5, R477, R510). -/
def deviceStore (c : Fin 160) (d : DevStore) (s : State) : State :=
  let n := d.data.length
  match placeOf s.hw d.pa with
  | .control _ => regWrite (.core c) d.pa n (leNat d.data) s
  | .outbound _ => after s (execOutboundAccess (.core c) (BitVec.ofNat 52 d.pa) true n d.data false s)
  | .remote _ => after s (execRemoteWrite (.core c) (BitVec.ofNat 52 d.pa) d.data false s)
  | _ => s.upd fun h => setBusErr h true

/-- A tag nibble as an atomic change of its byte: the byte as it reads, and as it is then (R365, R366). -/
def tagByte (old i t : Nat) : Nat := if i % 2 == 0 then old / 16 * 16 + t else t * 16 + old % 16

/-- The tags of lane `i` change in their byte at a physical address. -/
def setTag (h : Hw) (m : Mem) (c tpa i t : Nat) : Eff :=
  let (e, d, _) := coreReadLine h m c tpa
  e.next m fun h m => coreWriteLine h m c tpa (leBytes 1 (tagByte (num d (tpa % 64) 1) i t))

/-- The stores to device memory in order, each with what follows it; the first that is refused ends them. -/
def deviceStores (c : Fin 160) : List DevStore → State → State × Option DevStore
  | [], s => (s, none)
  | d :: r, s =>
    let s := deviceStore c d s
    if s.hw.busErr then (s, some d)
    else deviceStores c r (match d.tag with | some (tpa, i, t) => s.act fun h m => setTag h m c.val tpa i t | none => s)

/-- What an instruction leaves in the counters and the tag ring (R532, R538). -/
def account (r : CoreRun) (p : Nat) (v sec retired : Bool) (s : State) : State :=
  s.act fun h m =>
    let h := countInsn h r.core p v sec retired (if retired then r.events else r.events.filter (fun e => e == 0x10) ++ [0x0F, 0x10]) (if retired then r.wrote else [])
    tagInsn h m r p v sec (!retired)

/-- An instruction raises an exception: the trap is taken at its pc (R369, R379). -/
def trapped (c : Fin 160) (r : CoreRun) (t : Trap) (p : Nat) (v sec : Bool) (s : State) : State :=
  account r p v sec false (s.upd fun h => enterTrap h c.val r.pc false t)

/-- One instruction of a running core. A secure-owned interrupt, or another that the core takes, goes before it. The command names the word,
which is what the core fetches at its pc; any other word is not its next instruction, and nothing happens (R383; log 24). Stores
to device memory are performed when the instruction is done with, those of elements before one that faults too (R359, R362). -/
def coreStep (c : Fin 160) (word : Nat) (body : InsnM Unit) (s : State) : State :=
  let h := s.hw
  if !coreRuns h c.val then s
  else if securePending h c.val then after s (execSecureInterruptEntry c s)
  else
    let p := privOf h c.val
    let v := virtOf h c.val
    let sec := worldOf h c.val
    let pc := (coreOf h c.val).pc.toNat
    match takenInterrupt h c.val with
    | some i => s.upd fun h => countInsn (enterTrap h c.val pc true { cause := i }) c.val p v sec false [0x0F, 0x10] []
    | none =>
      let start : CoreRun := { core := c.val, hw := h, mem := s.mem, word := if isComp word then word % 65536 else word, pc := pc, next := (pc + if isComp word then 2 else 4) % 2 ^ 64 }
      let refused := fun (r : CoreRun) (d : DevStore) (s : State) =>
        let s := match d.elem with | some i => s.upd fun h => csrSet h c.val 8 i | none => s
        trapped c r { cause := 7, tval := d.va, gva := v } p v sec s
      match (do
          let same ← checkFetch pc word
          if same then body
          pure same : InsnM Bool).run start with
      | .ok false _ => s
      | .error t r =>
        match deviceStores c r.devs { s with hw := r.hw, mem := s.land r.ops } with
        | (s, none) => trapped c r t p v sec s
        | (s, some d) => refused r d s
      | .ok true r =>
        let done := { s with hw := commitPc r.hw c.val r.next, mem := s.land r.ops }
        match deviceStores c r.devs done with
        | (s, none) => if coreRuns s.hw c.val || r.devs.isEmpty then account r p v sec true s else s
        | (s, some d) => refused r d s

end Sys2Proof.Machine
end

