-- ==== Sys2Proof/Machine/Jemund.lean ====
section
/-!
DEFINITION. Jemund's extensions of the big cores: Xlane, Xround and Xworld (R365 to R375).
-/

namespace Sys2Proof.Machine

/-- A CSR of the core under way, read for itself. -/
def csrNow (n : Nat) : InsnM Nat := do let r ← get; pure (csrGet r.hw r.core n)

/-- The instruction goes on at an address. -/
def jumpTo (a : Nat) : InsnM Unit := modify fun r => { r with next := a % 2 ^ 64 }

/-- All predictor state is cleared, an event that is counted (R379, R537). -/
def flushPred : InsnM Unit := do
  let r ← get
  setHw fun h => clearPred h r.core
  note 0x10

/-! ### Xlane (R365 to R367) -/

/-- Byte and nibble of the tag of lane `i`. -/
def tagAddr (i : Nat) : InsnM Nat := do let t ← csrNow 0x801; pure ((t + i / 2) % 2 ^ 64)
def payAddr (i : Nat) : InsnM Nat := do let p ← csrNow 0x800; pure ((p + 4 * i) % 2 ^ 64)

/-- LANE.LD: payload and tags; the poison of either line sets T1, and that of the payload makes it 0. -/
def laneLd (rd rs1 : Nat) : InsnM Unit := do
  let via ← viaData
  let i ← getX rs1
  let pa ← payAddr i
  if pa % 4 != 0 then raiseAt via 4 pa
  modify fun r => { r with daddr := pa }
  let p ← loadMarked via pa 4
  let noTags ← csrNow 0x802
  let t ← if noTags % 2 == 1 then pure [] else do loadMarked via (← tagAddr i) 1
  let pz := p.any (·.2.2)
  let tz := t.any (·.2.2)
  let nib := leNat (t.flatMap (·.2.1)) / 16 ^ (i % 2) % 16
  let tag := if pz || tz then nib.lor 2 else nib
  putX rd (tag * 2 ^ 32 + (if pz then 0 else leNat (p.flatMap (·.2.1))))
  note 0x04
  if bit tag 1 then note 0x13

/-- LANE.ST: the payload, and after it the tag nibble as an atomic change of its byte; where the payload goes to device memory, both wait for
the commit. Both addresses are checked before either is written (log 25); the tag byte lies in normal memory (R360). -/
def laneSt (rs1 rs2 : Nat) : InsnM Unit := do
  let via ← viaData
  let i ← getX rs1
  let v ← getX rs2
  let noTags ← csrNow 0x802
  let t := bits v 35 32
  if noTags % 2 == 1 && t != 0 then illegal
  let pa ← payAddr i
  if pa % 4 != 0 then raiseAt via 6 pa
  checkStore via pa 4
  if noTags % 2 == 1 then storeBytes via pa (leBytes 4 v)
  else
    let ta ← tagAddr i
    let tpa ← mapAtomic via .store ta 1
    storeBytes via pa (leBytes 4 v)
    let r ← get
    if r.devs.isEmpty then runEff fun h m => setTag h m r.core tpa i t
    else set { r with devs := r.devs.map fun d => { (d : DevStore) with tag := some (tpa, i, t) } }
  note 0x05

/-- LANE.MK: tags over a payload. -/
def laneMk (rd rs1 rs2 : Nat) : InsnM Unit := do
  let p ← getX rs1
  let t ← getX rs2
  putX rd (t % 16 * 2 ^ 32 + p % 2 ^ 32)

/-- LANE.TAG: the tags. -/
def laneTag (rd rs1 : Nat) : InsnM Unit := do putX rd (bits (← getX rs1) 35 32)

/-! ### Xround (R370 to R372) -/

/-- Where Xround may run. -/
def mayRound : InsnM Unit := do
  let r ← get
  let ctl ← csrNow 0x5C0
  let v := virtOf r.hw r.core
  if v && !bit ctl 1 then virtualInsn
  if !v && privOf r.hw r.core == 0 && !bit ctl 0 then illegal
  note 0x11

/-- Partition and world of the core's requests. -/
def roundWho (r : CoreRun) : Nat × Bool :=
  let w := askerOf r.hw (.core (Fin.ofNat 160 r.core))
  (w.part.getD 8, w.secure)

/-- A store of a piece of 32 bytes to device memory would be refused: tried on a state that is not kept (R361, R371). -/
def refusesStore (r : CoreRun) (p : Nat × Nat × Nat) : Bool :=
  isDevice r.hw p.2.1 &&
    (deviceStore (Fin.ofNat 160 r.core) { va := p.1, pa := p.2.1, data := zeros p.2.2 } { hw := r.hw, mem := r.mem, pending := [] }).hw.busErr

/-- XR.GET: the destination is checked, then the item is taken and stored; `bad`: its on-chip entry has an uncorrectable error (R238,
R370). -/
def xrGet (rd rs1 : Nat) (bad : Bool) : InsnM Unit := do
  mayRound
  let via ← viaData
  let a ← getX rs1
  if a % 32 != 0 then raiseAt via 6 a
  let ps ← mapRange via .store a 32
  let r ← get
  if ps.any (refusesStore r) then raiseAt via 7 a
  let (p, sec) := roundWho r
  let (h, code, it) := getItem r.hw p r.core (fget r.hw F_RBT_CORE_SUB_GROUPS 0 r.core) sec bad
  set { r with hw := h }
  match it with
  | some (f, i) =>
    storeBytes via a ((itemWords f i).flatMap (leBytes 8))
    putX rd ((f * 2 ^ 20 + i.seq % 2 ^ 20) * 2 ^ 32 + code)
  | none => putX rd code

/-- XR.ADD: the item's flow and user bits come from its control word. -/
def xrAdd (rd rs1 rs2 : Nat) : InsnM Unit := do
  mayRound
  let via ← viaData
  let a ← getX rs1
  let v ← getX rs2
  if a % 32 != 0 then raiseAt via 4 a
  let d ← loadBytes via a 32
  let r ← get
  let (p, sec) := roundWho r
  let ctl := num d 24 8
  let args := [num d 0 8, num d 8 8, num d 16 8].map (BitVec.ofNat 64)
  let (h, code, id) := addItem r.hw p (bits ctl 63 52) sec args (bits ctl 23 0) (bits v 18 16) (bits v 15 0)
  set { r with hw := h }
  putX rd (id % 2 ^ 32 * 2 ^ 32 + code)

/-- XR.DONE: a handle with KEEP and SKIP. -/
def xrDone (rd rs1 rs2 : Nat) : InsnM Unit := do
  mayRound
  let a ← getX rs1
  let v ← getX rs2
  let r ← get
  let (p, sec) := roundWho r
  let (e, code) := doneItem r.hw r.mem p r.core sec (a % 2 ^ 32) (bit v 0) (bit v 1)
  set { r with hw := e.hw, mem := r.mem.applyAll e.ops, ops := r.ops ++ e.ops }
  putX rd code

/-! ### Xworld (R374, R375, R442, R445, R446) -/

/-- A caller that WCTL admits: M, S or HS, or U; VS and VU raise a virtual-instruction exception. -/
def mayCall : InsnM Unit := do
  let r ← get
  let ctl ← csrNow 0x7C2
  let p := privOf r.hw r.core
  if virtOf r.hw r.core then virtualInsn
  if !(p == 3 || (p == 1 && bit ctl 1) || (p == 0 && bit ctl 0)) then illegal

/-- WCALL. -/
def wcall : InsnM Unit := do
  let r ← get
  let c := r.core
  if worldOf r.hw c || !(match ownerCore r.hw c with | some p => hasSecure r.hw p | none => false) then illegal
  mayCall
  setHw fun h => enterSecure (zeroCsrs (zeroRegs (saveShadow h c (r.pc + 4) false) c fun i => i == 0 || (decide (10 ≤ i) && decide (i ≤ 17))) c) c ((r.pc + 4) % 2 ^ 64)
  note 0x10
  jumpTo ((← csrNow 0x7C0) / 4 * 4)

/-- The registers that the shadow bank holds come back: of x10 to x17, all after an interrupt's entry, else a0 and a1 stay and the
others read 0. -/
def restoreShadow (h : Hw) (c : Nat) : Hw :=
  let k := coreOf h c
  let sh := k.shadow
  let x := (List.range 32).map fun i =>
    if sh.full then lget 0 sh.x i
    else if i == 10 || i == 11 then lget 0 k.x i
    else if decide (12 ≤ i) && decide (i ≤ 17) then 0
    else lget 0 sh.x i
  let h := setCore h c { k with x := x, f := sh.f, v := sh.v, shadow := { sh with full := false } }
  let h := csrSet (csrSet h c 3 sh.fcsr.toNat) c 0xC21 sh.vtype.toNat
  let h := csrSet (csrSet h c 0xC20 sh.vl.toNat) c 8 sh.vstart.toNat
  clearPred (setPriv (setWorld h c false) c sh.priv sh.virt) c

/-- WRET: to WEPC, or after an interrupt's entry to the interrupted instruction. -/
def wret : InsnM Unit := do
  let r ← get
  let c := r.core
  if !worldOf r.hw c || virtOf r.hw c || privOf r.hw c != entryPriv r.hw c then illegal
  let sh := (coreOf r.hw c).shadow
  let ret ← csrNow 0x7C1
  setHw fun h => restoreShadow h c
  note 0x10
  jumpTo (if sh.full then sh.pc.toNat else ret)

/-- The gate table entry at an address lies in a region with SECURE set (R278, R375). -/
def secureRegion (h : Hw) (pa : Nat) : Bool :=
  match placeOf h pa with
  | .dram _ q qa => (match regionAt h q qa with | some i => fon h F_QMC_RGN_SECURE q i | none => false)
  | _ => false

/-- WGATE. -/
def wgate (rs1 : Nat) : InsnM Unit := do
  let r ← get
  let ctl ← csrNow 0x7C2
  if !bit ctl 2 || worldOf r.hw r.core then illegal
  mayCall
  let g ← getX rs1
  let tab ← csrNow 0x7C8
  if tab % 1024 ≤ g then raise 1 g
  let a := bits tab 51 12 * 4096 + 8 * g
  let (h, ok, bs, pz) := agentRead r.hw r.mem (askerIn r.hw (roundWho r).1 true) a 8
  setHw fun _ => h
  let e := leNat bs
  if !ok || !secureRegion h a || pz.any id || !bit e 0 then raise 1 g
  putX 1 ((r.pc + 4) % 2 ^ 64)
  setHw fun h => setWorld h r.core true
  flushPred
  jumpTo (e / 4 * 4)

/-- WMARK: in the normal world it does nothing. The low bit of the return address reads 0, as of any pc. -/
def wmark : InsnM Unit := do
  let r ← get
  let ctl ← csrNow 0x7C2
  if !bit ctl 2 then illegal
  if worldOf r.hw r.core then
    let t ← getX 1
    setHw fun h => setWorld h r.core false
    flushPred
    jumpTo (t / 2 * 2)

/-! ### The commands -/

/-- LANE_LD (R365). -/
def execLaneLd (c : Fin 160) (rd rs1 : BitVec 5) (s : State) : Host.Outcome State Fault Refusal :=
  .next (coreStep c (encR 0x0B 0 0 rd.toNat rs1.toNat 0) (laneLd rd.toNat rs1.toNat) s)
/-- LANE_ST (R365). -/
def execLaneSt (c : Fin 160) (rs1 rs2 : BitVec 5) (s : State) : Host.Outcome State Fault Refusal :=
  .next (coreStep c (encR 0x0B 1 0 0 rs1.toNat rs2.toNat) (laneSt rs1.toNat rs2.toNat) s)
/-- LANE_MK (R365). -/
def execLaneMk (c : Fin 160) (rd rs1 rs2 : BitVec 5) (s : State) : Host.Outcome State Fault Refusal :=
  .next (coreStep c (encR 0x0B 2 0 rd.toNat rs1.toNat rs2.toNat) (laneMk rd.toNat rs1.toNat rs2.toNat) s)
/-- LANE_TAG (R365). -/
def execLaneTag (c : Fin 160) (rd rs1 : BitVec 5) (s : State) : Host.Outcome State Fault Refusal :=
  .next (coreStep c (encR 0x0B 3 0 rd.toNat rs1.toNat 0) (laneTag rd.toNat rs1.toNat) s)
/-- XR_GET (R370). -/
def execXrGet (c : Fin 160) (rd : BitVec 5) (rs1 : GetAt (BitVec 5)) (s : State) : Host.Outcome State Fault Refusal :=
  .next (coreStep c (encR 0x2B 0 0 rd.toNat rs1.at_.toNat 0) (xrGet rd.toNat rs1.at_.toNat rs1.bad) s)
/-- XR_ADD (R370). -/
def execXrAdd (c : Fin 160) (rd rs1 rs2 : BitVec 5) (s : State) : Host.Outcome State Fault Refusal :=
  .next (coreStep c (encR 0x2B 1 0 rd.toNat rs1.toNat rs2.toNat) (xrAdd rd.toNat rs1.toNat rs2.toNat) s)
/-- XR_DONE (R370). -/
def execXrDone (c : Fin 160) (rd rs1 rs2 : BitVec 5) (s : State) : Host.Outcome State Fault Refusal :=
  .next (coreStep c (encR 0x2B 2 0 rd.toNat rs1.toNat rs2.toNat) (xrDone rd.toNat rs1.toNat rs2.toNat) s)
/-- WCALL (R374). -/
def execWcall (c : Fin 160) (s : State) : Host.Outcome State Fault Refusal := .next (coreStep c 0x0000005B wcall s)
/-- WRET (R374). -/
def execWret (c : Fin 160) (s : State) : Host.Outcome State Fault Refusal := .next (coreStep c 0x0200005B wret s)
/-- WGATE (R375). -/
def execWgate (c : Fin 160) (rs1 : BitVec 5) (s : State) : Host.Outcome State Fault Refusal :=
  .next (coreStep c (encR 0x5B 1 0 0 rs1.toNat 0) (wgate rs1.toNat) s)
/-- WMARK (R375). -/
def execWmark (c : Fin 160) (s : State) : Host.Outcome State Fault Refusal := .next (coreStep c 0x0000205B wmark s)

end Sys2Proof.Machine
end

