-- ==== Sys2Proof/Machine/Fp.lean ====
section
/-!
DEFINITION. Floating point of the F and D extensions, exact and then rounded once. PRESUMED: unsafe (log 9): IEEE 754-2008 as the published
RISC-V ISA has it, which R359 names and does not retell.
-/

namespace Sys2Proof.Machine

/-! ### Values -/

/-- A format: exponent bits and fraction bits. -/
structure FpFmt where
  eb : Nat
  mb : Nat
  deriving DecidableEq, Repr

def fmtS : FpFmt := ⟨8, 23⟩
def fmtD : FpFmt := ⟨11, 52⟩

/-- A value: not a number, infinite, or ±m·2^e. -/
inductive FpVal where
  | nan (signalling : Bool)
  | inf (neg : Bool)
  | fin (neg : Bool) (m : Nat) (e : Int)
  deriving DecidableEq, Repr

def FpFmt.bias (f : FpFmt) : Nat := 2 ^ (f.eb - 1) - 1
/-- Bits of a value of the format. -/
def FpFmt.width (f : FpFmt) : Nat := f.eb + f.mb + 1
/-- The canonical NaN; infinity and the greatest finite number, without sign. -/
def FpFmt.qnan (f : FpFmt) : Nat := (2 ^ f.eb - 1) * 2 ^ f.mb + 2 ^ (f.mb - 1)
def FpFmt.infinity (f : FpFmt) : Nat := (2 ^ f.eb - 1) * 2 ^ f.mb
def FpFmt.signed (f : FpFmt) (neg : Bool) (v : Nat) : Nat := (if neg then 2 ^ (f.width - 1) else 0) + v

def unpack (f : FpFmt) (v : Nat) : FpVal :=
  let neg := bit v (f.width - 1)
  let ex := bits v (f.width - 2) f.mb
  let fr := v % 2 ^ f.mb
  if ex == 2 ^ f.eb - 1 then (if fr == 0 then .inf neg else .nan (!bit fr (f.mb - 1)))
  else if ex == 0 then .fin neg fr (1 - f.bias - f.mb)
  else .fin neg (2 ^ f.mb + fr) (ex - f.bias - f.mb)

def FpVal.isNan : FpVal → Bool | .nan _ => true | _ => false
def FpVal.isSig : FpVal → Bool | .nan s => s | _ => false
def FpVal.neg : FpVal → Bool | .nan _ => false | .inf n => n | .fin n _ _ => n
def FpVal.isZero : FpVal → Bool | .fin _ m _ => m == 0 | _ => false

/-- The flags: invalid, divide by zero, overflow, underflow, inexact. -/
def fNV : Nat := 16
def fDZ : Nat := 8
def fOF : Nat := 4
def fUF : Nat := 2
def fNX : Nat := 1

/-! ### Rounding -/

/-- Whether a magnitude with quotient `q`, remainder `r` of `2^s` is rounded up. -/
def roundsUp (rm : Nat) (neg : Bool) (q r s : Nat) : Bool :=
  if r == 0 then false
  else
    match rm with
    | 0 => decide (2 ^ s < 2 * r) || (2 * r == 2 ^ s && q % 2 == 1)
    | 1 => false
    | 2 => neg
    | 3 => !neg
    | _ => decide (2 ^ s ≤ 2 * r)

/-- A magnitude m·2^e as a multiple of 2^q, rounded, and whether it is inexact. -/
def roundTo (rm : Nat) (neg : Bool) (m : Nat) (e q : Int) : Nat × Bool :=
  if q ≤ e then (m * 2 ^ (e - q).toNat, false)
  else
    let s := (q - e).toNat
    let d := m / 2 ^ s
    let r := m % 2 ^ s
    (if roundsUp rm neg d r s then d + 1 else d, r != 0)

/-- ±m·2^e in the format, with the flags; tininess is seen after rounding. -/
def pack (f : FpFmt) (rm : Nat) (neg : Bool) (m : Nat) (e : Int) : Nat × Nat :=
  if m == 0 then (f.signed neg 0, 0)
  else
    let top : Int := e + Nat.log2 m
    let emin : Int := 1 - f.bias
    let q := max top emin - f.mb
    let (d, nx) := roundTo rm neg m e q
    let full := (roundTo rm neg m e (top - f.mb)).1
    let tiny := decide (top < emin) && !(top == emin - 1 && full == 2 ^ (f.mb + 1))
    let (d, q) := if d == 2 ^ (f.mb + 1) then (2 ^ f.mb, q + 1) else (d, q)
    if d < 2 ^ f.mb then (f.signed neg d, (if nx then fNX else 0) + (if nx && tiny then fUF else 0))
    else if (f.bias : Int) < q + f.mb then
      let toInf := rm == 0 || rm == 4 || (rm == 2 && neg) || (rm == 3 && !neg)
      (f.signed neg (if toInf then f.infinity else f.infinity - 1), fOF + fNX)
    else (f.signed neg ((q + f.mb + f.bias).toNat * 2 ^ f.mb + (d - 2 ^ f.mb)), (if nx then fNX else 0) + (if nx && tiny then fUF else 0))

/-! ### Arithmetic -/

/-- A NaN result; invalid where an operand signals. -/
def nanOf (f : FpFmt) (l : List FpVal) : Nat × Nat := (f.qnan, if l.any (·.isSig) then fNV else 0)
def invalid (f : FpFmt) : Nat × Nat := (f.qnan, fNV)

/-- ±m·2^e as an integer multiple of 2^q for q ≤ e. -/
def scaled (neg : Bool) (m : Nat) (e q : Int) : Int := let v : Int := (m * 2 ^ (e - q).toNat : Nat); if neg then -v else v

/-- An exact sum, rounded; a zero sum of unlike signs is positive but for rounding down. -/
def sumFin (f : FpFmt) (rm : Nat) (na : Bool) (ma : Nat) (ea : Int) (nb : Bool) (mb : Nat) (eb : Int) : Nat × Nat :=
  let q := min ea eb
  let s := scaled na ma ea q + scaled nb mb eb q
  if s == 0 then (f.signed (if na == nb then na else rm == 2) 0, 0) else pack f rm (decide (s < 0)) s.natAbs q

def fpAdd (f : FpFmt) (rm a b : Nat) : Nat × Nat :=
  match unpack f a, unpack f b with
  | .fin na ma ea, .fin nb mb eb => sumFin f rm na ma ea nb mb eb
  | .inf na, .inf nb => if na == nb then (f.signed na f.infinity, 0) else invalid f
  | .inf na, .fin _ _ _ => (f.signed na f.infinity, 0)
  | .fin _ _ _, .inf nb => (f.signed nb f.infinity, 0)
  | x, y => nanOf f [x, y]

/-- A value with its sign turned. -/
def fpNeg (f : FpFmt) (a : Nat) : Nat := setBit a (f.width - 1) (!bit a (f.width - 1))

def fpMul (f : FpFmt) (rm a b : Nat) : Nat × Nat :=
  match unpack f a, unpack f b with
  | .fin na ma ea, .fin nb mb eb => pack f rm (na != nb) (ma * mb) (ea + eb)
  | .nan s, y => nanOf f [.nan s, y]
  | x, .nan s => nanOf f [x, .nan s]
  | x, y => if x.isZero || y.isZero then invalid f else (f.signed (x.neg != y.neg) f.infinity, 0)

/-- a·b + c, rounded once; infinity times zero is invalid even beside a NaN. -/
def fpFma (f : FpFmt) (rm a b c : Nat) : Nat × Nat :=
  let x := unpack f a
  let y := unpack f b
  let z := unpack f c
  let infZero := match x, y with | .inf _, .fin _ 0 _ => true | .fin _ 0 _, .inf _ => true | _, _ => false
  if infZero then invalid f
  else
    match x, y, z with
    | .fin na ma ea, .fin nb mb eb, .fin nc mc ec => sumFin f rm (na != nb) (ma * mb) (ea + eb) nc mc ec
    | .fin _ _ _, .fin _ _ _, .inf nc => (f.signed nc f.infinity, 0)
    | x, y, z =>
      if x.isNan || y.isNan || z.isNan then nanOf f [x, y, z]
      else
        let n := x.neg != y.neg
        match z with
        | .inf nc => if n == nc then (f.signed n f.infinity, 0) else invalid f
        | _ => (f.signed n f.infinity, 0)

def fpDiv (f : FpFmt) (rm a b : Nat) : Nat × Nat :=
  match unpack f a, unpack f b with
  | .nan s, y => nanOf f [.nan s, y]
  | x, .nan s => nanOf f [x, .nan s]
  | .inf _, .inf _ => invalid f
  | .inf na, y => (f.signed (na != y.neg) f.infinity, 0)
  | x, .inf nb => (f.signed (x.neg != nb) 0, 0)
  | .fin na ma ea, .fin nb mb eb =>
    if mb == 0 then (if ma == 0 then invalid f else (f.signed (na != nb) f.infinity, fDZ))
    else
      let k := 2 * f.mb + 8
      let n := ma * 2 ^ k
      pack f rm (na != nb) (2 * (n / mb) + b2n (n % mb != 0)) (ea - eb - k - 1)

/-- The integer square root, bit by bit from bit `n − 1`. -/
def isqrt (v : Nat) : Nat → Nat → Nat
  | 0, r => r
  | n + 1, r => isqrt v n (if (r + 2 ^ n) * (r + 2 ^ n) ≤ v then r + 2 ^ n else r)

def fpSqrt (f : FpFmt) (rm a : Nat) : Nat × Nat :=
  match unpack f a with
  | .nan s => nanOf f [.nan s]
  | .inf n => if n then invalid f else (f.infinity, 0)
  | .fin n m e =>
    if m == 0 then (f.signed n 0, 0)
    else if n then invalid f
    else
      let k := 2 * f.mb + 8 + (if (e % 2 == 0) then 0 else 1)
      let v := m * 2 ^ k
      let r := isqrt v (2 * f.mb + 8) 0
      pack f rm false (2 * r + b2n (r * r != v)) ((e - k) / 2 - 1)

/-! ### Comparison, classes and conversion -/

/-- a < b of two values that are no NaN. -/
def fpLess (f : FpFmt) (a b : Nat) : Bool :=
  let mag := fun v => v % 2 ^ (f.width - 1)
  let v := fun x => let n : Int := (mag x : Nat); if bit x (f.width - 1) then -n else n
  decide (v a < v b)

/-- FEQ (2), FLT (1), FLE (0): the quiet comparison signals only for a signalling NaN. -/
def fpCmp (f : FpFmt) (f3 a b : Nat) : Nat × Nat :=
  let x := unpack f a
  let y := unpack f b
  if x.isNan || y.isNan then (0, if f3 != 2 || x.isSig || y.isSig then fNV else 0)
  else
    let lt := fpLess f a b
    let eq := !lt && !fpLess f b a
    (b2n (match f3 with | 2 => eq | 1 => lt | _ => lt || eq), 0)

/-- FMIN (0) and FMAX (1): −0 below +0; one NaN gives the other operand. -/
def fpMinMax (f : FpFmt) (f3 a b : Nat) : Nat × Nat :=
  let x := unpack f a
  let y := unpack f b
  let fl := if x.isSig || y.isSig then fNV else 0
  if x.isNan && y.isNan then (f.qnan, fl)
  else if x.isNan then (b, fl)
  else if y.isNan then (a, fl)
  else
    let less := fpLess f a b || (x.isZero && y.isZero && x.neg && !y.neg)
    (if less == (f3 == 0) then a else b, fl)

/-- FSGNJ (0), FSGNJN (1), FSGNJX (2). -/
def fpSgnj (f : FpFmt) (f3 a b : Nat) : Nat :=
  let s := bit b (f.width - 1)
  setBit a (f.width - 1) (match f3 with | 0 => s | 1 => !s | _ => s != bit a (f.width - 1))

/-- FCLASS. -/
def fpClass (f : FpFmt) (a : Nat) : Nat :=
  match unpack f a with
  | .nan s => if s then 2 ^ 8 else 2 ^ 9
  | .inf n => if n then 2 ^ 0 else 2 ^ 7
  | .fin n m _ =>
    if m == 0 then (if n then 2 ^ 3 else 2 ^ 4)
    else if m < 2 ^ f.mb then (if n then 2 ^ 2 else 2 ^ 5)
    else if n then 2 ^ 1 else 2 ^ 6

/-- From one format to another. -/
def fpConv (src dst : FpFmt) (rm a : Nat) : Nat × Nat :=
  match unpack src a with
  | .nan s => nanOf dst [.nan s]
  | .inf n => (dst.signed n dst.infinity, 0)
  | .fin n m e => pack dst rm n m e

/-- From an integer of `n` bits. -/
def fpFromInt (f : FpFmt) (rm n : Nat) (signed : Bool) (v : Nat) : Nat × Nat :=
  let i : Int := if signed then sgn n v else (v % 2 ^ n : Nat)
  pack f rm (decide (i < 0)) i.natAbs 0

/-- To an integer of `n` bits: out of range and NaN saturate and are invalid. -/
def fpToInt (f : FpFmt) (rm n : Nat) (signed : Bool) (a : Nat) : Nat × Nat :=
  let hi : Int := if signed then 2 ^ (n - 1) - 1 else 2 ^ n - 1
  let lo : Int := if signed then -2 ^ (n - 1) else 0
  match unpack f a with
  | .nan _ => (wrap n hi, fNV)
  | .inf neg => (wrap n (if neg then lo else hi), fNV)
  | .fin neg m e =>
    let (d, nx) := roundTo rm neg m e 0
    let v : Int := if neg then -(d : Int) else d
    if hi < v then (wrap n hi, fNV) else if v < lo then (wrap n lo, fNV) else (wrap n v, if nx then fNX else 0)

/-! ### The instructions -/

/-- The rounding mode of an instruction; none where it is not one. -/
def roundMode (h : Hw) (c rm : Nat) : Option Nat :=
  let r := if rm == 7 then bits (csrGet h c 3) 7 5 else rm
  if r ≤ 4 then some r else none

/-- A register as a value of a format: a single not boxed in ones reads as the canonical NaN. -/
def fpOperand (d : Bool) (v : Nat) : Nat := if d then v else if bits v 63 32 == 2 ^ 32 - 1 then v % 2 ^ 32 else fmtS.qnan
/-- A result in a register: a single is boxed in ones. -/
def fpBox (d : Bool) (v : Nat) : Nat := if d then v else v % 2 ^ 32 + (2 ^ 64 - 2 ^ 32)

def getF (i : Nat) : InsnM Nat := do let r ← get; pure (freg r.hw r.core i)
/-- A write of a floating-point register makes their state dirty. -/
def putF (i v : Nat) : InsnM Unit := do let r ← get; setHw fun h => dirtyFp (setFreg h r.core i v) r.core
/-- Flags accrue. -/
def accrue (fl : Nat) : InsnM Unit := do
  let r ← get
  if fl != 0 then setHw fun h => dirtyFp (csrSet h r.core 3 ((csrGet h r.core 3).lor fl)) r.core

/-- Floating-point instructions need FS. -/
def needFp : InsnM Unit := do
  let r ← get
  if fpOff r.hw r.core then illegal

def needRm (rm : Nat) : InsnM Nat := do
  let r ← get
  match roundMode r.hw r.core rm with
  | some m => pure m
  | none => illegal

/-- OP-FP: arithmetic, comparison, conversion and moves. -/
def opFp (w : Nat) : InsnM Unit := do
  needFp
  let f7 := rvF7 w
  let d := f7 % 4 == 1
  let f := if d then fmtD else fmtS
  if 2 ≤ f7 % 4 then illegal
  let f3 := rvF3 w
  let rs2 := rvRs2 w
  let a ← getF (rvRs1 w)
  let b ← getF rs2
  let x ← getX (rvRs1 w)
  let u := fpOperand d a
  let v := fpOperand d b
  let rd := rvRd w
  let give := fun (r : Nat × Nat) => do putF rd (fpBox d r.1); accrue r.2
  let int := fun (r : Nat × Nat) => do putX rd r.1; accrue r.2
  match f7 / 4 * 4 with
  | 0x00 => give (fpAdd f (← needRm f3) u v)
  | 0x04 => give (fpAdd f (← needRm f3) u (fpNeg f v))
  | 0x08 => give (fpMul f (← needRm f3) u v)
  | 0x0C => give (fpDiv f (← needRm f3) u v)
  | 0x2C => if rs2 != 0 then illegal else give (fpSqrt f (← needRm f3) u)
  | 0x10 => if f3 ≤ 2 then putF rd (fpBox d (fpSgnj f f3 u v)) else illegal
  | 0x14 => if f3 ≤ 1 then give (fpMinMax f f3 u v) else illegal
  | 0x20 =>
    let m ← needRm f3
    if d && rs2 == 0 then give (fpConv fmtS fmtD m (fpOperand false a))
    else if !d && rs2 == 1 then give (fpConv fmtD fmtS m a)
    else illegal
  | 0x50 => if f3 ≤ 2 then int (fpCmp f f3 u v) else illegal
  | 0x60 =>
    let m ← needRm f3
    if rs2 ≤ 3 then
      let n := if rs2 < 2 then 32 else 64
      let (r, fl) := fpToInt f m n (rs2 % 2 == 0) u
      int (sext n 64 r, fl)
    else illegal
  | 0x68 =>
    let m ← needRm f3
    if rs2 ≤ 3 then give (fpFromInt f m (if rs2 < 2 then 32 else 64) (rs2 % 2 == 0) x) else illegal
  | 0x70 =>
    if rs2 != 0 then illegal
    else if f3 == 0 then putX rd (if d then a else sext 32 64 a)
    else if f3 == 1 then putX rd (fpClass f u)
    else illegal
  | 0x78 => if rs2 == 0 && f3 == 0 then putF rd (fpBox d x) else illegal
  | _ => illegal

/-- FMADD, FMSUB, FNMSUB, FNMADD. -/
def opFma (w : Nat) : InsnM Unit := do
  needFp
  let fm := bits w 26 25
  let d := fm == 1
  let f := if d then fmtD else fmtS
  if 2 ≤ fm then illegal
  let m ← needRm (rvF3 w)
  let a := fpOperand d (← getF (rvRs1 w))
  let b := fpOperand d (← getF (rvRs2 w))
  let c := fpOperand d (← getF (bits w 31 27))
  let op := w % 128
  let a := if op == 0x4B || op == 0x4F then fpNeg f a else a
  let c := if op == 0x47 || op == 0x4F then fpNeg f c else c
  let r := fpFma f m a b c
  putF (rvRd w) (fpBox d r.1)
  accrue r.2

/-- Loads and stores of floating-point registers. -/
def opFpLoad (w : Nat) : InsnM Unit := do
  needFp
  let d := rvF3 w == 3
  let via ← viaData
  let a := ((← getX (rvRs1 w)) + immI 64 w) % 2 ^ 64
  let v ← loadNat via a (if d then 8 else 4)
  putF (rvRd w) (fpBox d v)
  note 0x04

def opFpStore (w : Nat) : InsnM Unit := do
  needFp
  let via ← viaData
  let a := ((← getX (rvRs1 w)) + immS 64 w) % 2 ^ 64
  storeBytes via a (leBytes (if rvF3 w == 3 then 8 else 4) (← getF (rvRs2 w)))
  note 0x05

end Sys2Proof.Machine
end

