-- ==== Sys2Proof/Machine/Vec.lean ====
section
/-!
DEFINITION. The vector unit: its configuration, registers, loads and stores (R359, R360, R369, R382). PRESUMED: unsafe (log 9): V 1.0 with
VLEN 256 and ELEN 64 as published, which R359 names and does not retell.
-/

namespace Sys2Proof.Machine

/-! ### Configuration -/

/-- What vtype and the vector CSRs say: element width, eight times LMUL, tail and mask policy, vl, vstart and vxrm. -/
structure VCtx where
  sew : Nat
  lm8 : Nat
  ta : Bool
  ma : Bool
  vl : Nat
  vstart : Nat
  vxrm : Nat
  deriving DecidableEq, Repr

/-- Eight times LMUL. -/
def lmul8 (vtype : Nat) : Nat :=
  match vtype % 8 with | 0 => 8 | 1 => 16 | 2 => 32 | 3 => 64 | 5 => 1 | 6 => 2 | 7 => 4 | _ => 0

/-- A vtype that the unit supports: SEW 8 to 64, an LMUL that holds an element of ELEN. -/
def vtypeOk (vtype : Nat) : Bool :=
  let sew := 8 * 2 ^ bits vtype 5 3
  vtype / 256 == 0 && decide (bits vtype 5 3 ≤ 3) && lmul8 vtype != 0 && decide (8 * sew ≤ lmul8 vtype * 64 ∨ 8 ≤ lmul8 vtype)

def vlMax (vtype : Nat) : Nat := 32 * lmul8 vtype / (8 * 2 ^ bits vtype 5 3)

/-- Vector instructions need VS, and all but some a legal vtype. -/
def needVec : InsnM Unit := do
  let r ← get
  if vecOff r.hw r.core then illegal

def vctx : InsnM VCtx := do
  needVec
  let r ← get
  let t := csrGet r.hw r.core 0xC21
  if !vtypeOk t then illegal
  pure { sew := 8 * 2 ^ bits t 5 3, lm8 := lmul8 t, ta := bit t 6, ma := bit t 7, vl := csrGet r.hw r.core 0xC20,
         vstart := csrGet r.hw r.core 8, vxrm := bits (csrGet r.hw r.core 0xF) 2 1 }

/-- A vector instruction ends: vstart is 0 and the state is dirty. -/
def vecDone : InsnM Unit := do
  let r ← get
  setHw fun h => dirtyVec (csrSet h r.core 8 0) r.core
  note 0x14

/-- VSETVLI, VSETIVLI and VSETVL. Between VLMAX and twice VLMAX the new vl is open within its bounds (log 7). -/
def vset (w : Nat) : InsnM Unit := do
  needVec
  let rs1 := rvRs1 w
  let rd := rvRd w
  let x ← getX rs1
  let y ← getX (rvRs2 w)
  let imm := bits w 31 30 == 3
  if bit w 31 && !imm && bits w 30 25 != 0 then illegal
  let t := if !bit w 31 then bits w 30 20 else if imm then bits w 29 20 else y
  let r ← get
  let old := csrGet r.hw r.core 0xC20
  if !vtypeOk t then
    setHw fun h => csrSet (csrSet h r.core 0xC21 (2 ^ 63)) r.core 0xC20 0
    putX rd 0
  else
    let vm := vlMax t
    let avl := if imm then rs1 else if rs1 != 0 then x else if rd != 0 then 2 ^ 64 - 1 else min old vm
    let (k, h) := takeFree r.hw
    let lo := (avl + 1) / 2
    let vl := if avl ≤ vm then avl else if 2 * vm ≤ avl then vm else lo + Config.freeNat k % (vm - lo + 1)
    set { r with hw := csrSet (csrSet h r.core 0xC21 t) r.core 0xC20 vl }
    putX rd vl
  vecDone

/-! ### Elements -/

/-- Element `i` of `sew` bits of the group at register `vr`. -/
def vget (v : List (BitVec 256)) (sew vr i : Nat) : Nat :=
  let k := vr * 256 + i * sew
  (lget 0 v (k / 256)).toNat / 2 ^ (k % 256) % 2 ^ sew

def vput (v : List (BitVec 256)) (sew vr i x : Nat) : List (BitVec 256) :=
  let k := vr * 256 + i * sew
  let old := (lget 0 v (k / 256)).toNat
  v.set (k / 256) (BitVec.ofNat 256 (old - vget v sew vr i * 2 ^ (k % 256) + x % 2 ^ sew * 2 ^ (k % 256)))

def vregs : InsnM (List (BitVec 256)) := do let r ← get; pure (coreOf r.hw r.core).v
def putVregs (v : List (BitVec 256)) : InsnM Unit := do
  let r ← get
  setHw fun h => setCore h r.core { coreOf h r.core with v := v }

/-- Registers of a group of `lm8` eighths; a group starts at a multiple of its size and lies within the file. -/
def groupRegs (lm8 : Nat) : Nat := max 1 (lm8 / 8)
def groupOk (vr lm8 : Nat) : Bool := decide (1 ≤ lm8) && decide (lm8 ≤ 64) && vr % groupRegs lm8 == 0 && decide (vr + groupRegs lm8 ≤ 32)

/-- Two groups share a register. -/
def meets (a n b k : Nat) : Bool := decide (a < b + k) && decide (b < a + n)

/-- A destination may overlap a source: of equal width freely; a narrower one at the lowest register; a wider one in its highest part. -/
def overlapOk (vd dlm dsew vs slm ssew : Nat) : Bool :=
  !meets vd (groupRegs dlm) vs (groupRegs slm) || dsew == ssew ||
    (if dsew < ssew then vd == vs else decide (8 ≤ slm) && vs == vd + groupRegs dlm - groupRegs slm)

/-- Element `i` is active: from vstart to vl, and of a masked instruction with its bit in v0. -/
def active (x : VCtx) (v : List (BitVec 256)) (vm : Bool) (i : Nat) : Bool :=
  decide (x.vstart ≤ i) && decide (i < x.vl) && (vm || vget v 1 0 i == 1)

/-- The elements of a destination after an instruction: active ones take `f`; those that agnostic policies leave open are kept or all
ones, as `free` says (log 7). -/
def writeGroup (x : VCtx) (v : List (BitVec 256)) (vm : Bool) (sew vd n free : Nat) (f : Nat → Nat) : List (BitVec 256) :=
  if x.vl ≤ x.vstart then v
  else
    (List.range n).foldl (fun o i =>
      if i < x.vstart then o
      else if active x v vm i then vput o sew vd i (f i)
      else if (if i < x.vl then x.ma else x.ta) && bit free i then vput o sew vd i (2 ^ sew - 1)
      else o) v

/-- Write the group at `vd` of `lm8` eighths. -/
def putGroup (x : VCtx) (vm : Bool) (sew lm8 vd : Nat) (f : Nat → Nat) : InsnM Unit := do
  let r ← get
  let (k, h) := takeFree r.hw
  set { r with hw := h }
  let v ← vregs
  putVregs (writeGroup x v vm sew vd (groupRegs lm8 * 256 / sew) (Config.freeNat k) f)

/-- Write a mask: its tail is always agnostic. -/
def putMask (x : VCtx) (vm : Bool) (vd : Nat) (f : Nat → Bool) : InsnM Unit := do
  let r ← get
  let (k, h) := takeFree r.hw
  set { r with hw := h }
  let v ← vregs
  putVregs (writeGroup { x with ta := true } v vm 1 vd 256 (Config.freeNat k) fun i => b2n (f i))

/-! ### Loads and stores (R360, R361, R369, R382) -/

/-- The elements of a vector memory instruction: how many, their width in bytes, fields per element, registers per field, and the address
of field `s` of element `i`. -/
structure VMem where
  count : Nat
  eew : Nat
  fields : Nat
  regs : Nat
  vm : Bool
  addr : Nat → Nat → Nat

/-- One field of one element. -/
def vmemField (via : Via) (store : Bool) (vd : Nat) (a : VMem) (i s : Nat) : InsnM Unit := do
  let va := a.addr i s % 2 ^ 64
  let vr := vd + s * a.regs
  let v ← vregs
  if store then storeBytes via va (leBytes a.eew (vget v (8 * a.eew) vr i)) (some i)
  else
    let x ← loadNat via va a.eew
    putVregs (vput v (8 * a.eew) vr i x)

/-- The elements from `i` on; a fault leaves vstart at its element, and after the first element of a fault-only-first load it ends the
load and sets vl instead (R360, R369). -/
def vmemElems (via : Via) (store ff : Bool) (x : VCtx) (v0 : List (BitVec 256)) (vd : Nat) (a : VMem) : List Nat → InsnM Unit
  | [] => pure ()
  | i :: rest => do
    let r ← get
    if active { x with vl := a.count } v0 a.vm i then
      let go : InsnM Bool := do
        (List.range a.fields).forM fun s => vmemField via store vd a i s
        pure true
      let ok ← tryCatch go fun t =>
        if ff && i != 0 then do
          setHw fun h => csrSet h r.core 0xC20 i
          pure false
        else do
          setHw fun h => csrSet h r.core 8 i
          throw t
      if ok then vmemElems via store ff x v0 vd a rest
    else vmemElems via store ff x v0 vd a rest

/-- Policies of a load's destinations. -/
def vmemTail (x : VCtx) (v0 : List (BitVec 256)) (vd : Nat) (a : VMem) : InsnM Unit :=
  (List.range a.fields).forM fun s => do
    let r ← get
    let (k, h) := takeFree r.hw
    set { r with hw := h }
    let v ← vregs
    let vr := vd + s * a.regs
    let sew := 8 * a.eew
    let n := a.regs * 256 / sew
    let vl := csrGet h r.core 0xC20
    putVregs ((List.range n).foldl (fun o i =>
      let open' := if i < x.vstart then false else if i < vl then x.ma && !a.vm && vget v0 1 0 i == 0 else x.ta
      if open' && bit (Config.freeNat k) i then vput o sew vr i (2 ^ sew - 1) else o) v)

/-- A vector load or store: unit-stride, strided, indexed, segments, whole registers, masks and fault-only-first. -/
def vmem (w : Nat) (store : Bool) : InsnM Unit := do
  needVec
  let via ← viaData
  let vd := rvRd w
  let eew := match rvF3 w with | 0 => 1 | 5 => 2 | 6 => 4 | _ => 8
  let nf := bits w 31 29 + 1
  let vm := bit w 25
  let sub' := rvRs2 w
  let base ← getX (rvRs1 w)
  let stride ← getX sub'
  let v0 ← vregs
  if bit w 28 then illegal
  let r ← get
  let vstart := csrGet r.hw r.core 8
  if bits w 27 26 == 0 && sub' == 8 then
    -- whole registers: no vtype, EEW 8 for stores
    if !vm || !([1, 2, 4, 8].contains nf) || vd % nf != 0 || (store && eew != 1) then illegal
    let x : VCtx := { sew := 8, lm8 := 8, ta := false, ma := false, vl := nf * 32 / eew, vstart := vstart, vxrm := 0 }
    let a : VMem := { count := nf * 32 / eew, eew := eew, fields := 1, regs := nf, vm := true, addr := fun i _ => base + i * eew }
    vmemElems via store false x v0 vd a ((List.range a.count).drop vstart)
  else
    let x ← vctx
    if bits w 27 26 == 0 && sub' == 11 then
      if !vm || nf != 1 || eew != 1 then illegal
      let a : VMem := { count := (x.vl + 7) / 8, eew := 1, fields := 1, regs := 1, vm := true, addr := fun i _ => base + i }
      vmemElems via store false x v0 vd a ((List.range a.count).drop vstart)
      if !store && vstart < a.count then
        let r ← get
        let (k, h) := takeFree r.hw
        set { r with hw := h }
        let v ← vregs
        putVregs ((List.range 32).foldl (fun o i => if a.count ≤ i && bit (Config.freeNat k) i then vput o 8 vd i 255 else o) v)
    else
      let indexed := bit w 26
      let ff := bits w 27 26 == 0 && sub' == 16
      if bits w 27 26 == 0 && !(sub' == 0 || (ff && !store)) then illegal
      -- data width and group; the width of an indexed form is that of its indices
      let dEew := if indexed then x.sew / 8 else eew
      let dLm := if indexed then x.lm8 else 8 * eew * x.lm8 / x.sew
      let iLm := 8 * eew * x.lm8 / x.sew
      let exact := indexed || 8 * eew * x.lm8 % x.sew == 0
      let regs := groupRegs dLm
      if !exact || !groupOk vd dLm || 8 < nf * regs || 32 < vd + nf * regs || (!vm && !store && vd == 0) then illegal
      if indexed && (8 * eew * x.lm8 % x.sew != 0 || !groupOk sub' iLm) then illegal
      if indexed && !store && nf == 1 && !overlapOk vd dLm x.sew sub' iLm (8 * eew) then illegal
      if indexed && !store && nf != 1 && meets vd (nf * regs) sub' (groupRegs iLm) then illegal
      let addr := fun (i s : Nat) =>
        if indexed then base + vget v0 (8 * eew) sub' i + s * dEew
        else if bits w 27 26 == 2 then base + i * stride + s * dEew
        else base + (i * nf + s) * dEew
      let a : VMem := { count := x.vl, eew := dEew, fields := nf, regs := regs, vm := vm, addr := addr }
      vmemElems via store ff x v0 vd a ((List.range x.vl).drop vstart)
      if !store && vstart < x.vl then vmemTail x v0 vd a
  vecDone
  note (if store then 0x05 else 0x04)

end Sys2Proof.Machine
end

