-- ==== Sys2Proof/Machine/VecArith.lean ====
section
/-!
DEFINITION. Vector arithmetic of V 1.0: integer, fixed-point, floating-point, reductions, masks and permutations. PRESUMED: unsafe (log 9).
-/

namespace Sys2Proof.Machine

/-! ### Operands -/

/-- An instruction's fields: funct6, the operand form (0 vector, 1 scalar, 2 immediate), registers and mask bit. -/
structure VInsn where
  f6 : Nat
  form : Nat
  vd : Nat
  vs1 : Nat
  vs2 : Nat
  vm : Bool
  /-- the scalar operand: x[rs1], f[rs1] or the immediate, sign-extended -/
  x : Nat

/-- The immediate of an operand read as unsigned. -/
def VInsn.uimm (i : VInsn) : Nat := if i.form == 2 then i.vs1 else i.x

/-- The second operand of element `k` at a width. -/
def VInsn.op1 (i : VInsn) (v : List (BitVec 256)) (sew k : Nat) : Nat := if i.form == 0 then vget v sew i.vs1 k else i.x % 2 ^ sew

/-- Forms that exist: bit 0 vector, bit 1 scalar, bit 2 immediate. -/
def VInsn.forms (i : VInsn) (allowed : Nat) : InsnM Unit := do if !bit allowed i.form then illegal

/-- A destination under a mask is not v0. -/
def VInsn.notMask (i : VInsn) : InsnM Unit := do if !i.vm && i.vd == 0 then illegal

/-- Source groups and their overlap with the destination. -/
def vsource (dlm dsew vd : Nat) (slm ssew vs : Nat) : InsnM Unit := do
  if !groupOk vs slm || !overlapOk vd dlm dsew vs slm ssew then illegal

/-! ### Element arithmetic -/

/-- v shifted right by `d`, rounded as vxrm says. -/
def rshift (vxrm : Nat) (v : Int) (d : Nat) : Int :=
  let q := v / (2 ^ d : Nat)
  let r := (v % (2 ^ d : Nat)).toNat
  let up := match vxrm with
    | 0 => decide (2 ^ d ≤ 2 * r) && d != 0
    | 1 => decide (2 ^ d < 2 * r) || (2 * r == 2 ^ d && q % 2 == 1)
    | 2 => false
    | _ => r != 0 && q % 2 == 0
  if up then q + 1 else q

/-- Saturation to `n` bits: the value and whether it saturated. -/
def satS (n : Nat) (v : Int) : Nat × Bool :=
  if (2 : Int) ^ (n - 1) ≤ v then (2 ^ (n - 1) - 1, true) else if v < -(2 : Int) ^ (n - 1) then (2 ^ (n - 1), true) else (wrap n v, false)
def satU (n : Nat) (v : Int) : Nat × Bool :=
  if (2 : Int) ^ n ≤ v then (2 ^ n - 1, true) else if v < 0 then (0, true) else (wrap n v, false)

/-- Single-width integer and fixed-point operations of OPIVV, OPIVX and OPIVI: vs2 is `a`, the other operand `b`; result and vxsat. -/
def vIntOp (vxrm n f6 a b : Nat) : Option (Nat × Bool) :=
  let p := fun (v : Nat) => some (v % 2 ^ n, false)
  let s := b % n
  match f6 with
  | 0x00 => p (a + b)
  | 0x02 => p (a + 2 ^ n - b)
  | 0x03 => p (b + 2 ^ n - a)
  | 0x04 => p (min a b)
  | 0x05 => p (if sgn n a < sgn n b then a else b)
  | 0x06 => p (max a b)
  | 0x07 => p (if sgn n a < sgn n b then b else a)
  | 0x09 => p (a.land b)
  | 0x0A => p (a.lor b)
  | 0x0B => p (a.xor b)
  | 0x20 => some (satU n (a + b : Nat))
  | 0x21 => some (satS n (sgn n a + sgn n b))
  | 0x22 => some (satU n ((a : Int) - b))
  | 0x23 => some (satS n (sgn n a - sgn n b))
  | 0x25 => p (a * 2 ^ s)
  | 0x27 => some (satS n (rshift vxrm (sgn n a * sgn n b) (n - 1)))
  | 0x28 => p (a / 2 ^ s)
  | 0x29 => p (sra n a s)
  | 0x2A => p (rshift vxrm a s).toNat
  | 0x2B => p (wrap n (rshift vxrm (sgn n a) s))
  | _ => none

/-- Forms of those operations. -/
def vIntForms (f6 : Nat) : Nat :=
  if f6 == 0x03 then 6 else if [0x02, 0x04, 0x05, 0x06, 0x07, 0x22, 0x23, 0x27].contains f6 then 3 else 7

/-- Integer comparisons. -/
def vCmpOp (n f6 a b : Nat) : Bool :=
  match f6 with
  | 0x18 => a == b
  | 0x19 => a != b
  | 0x1A => decide (a < b)
  | 0x1B => decide (sgn n a < sgn n b)
  | 0x1C => decide (a ≤ b)
  | 0x1D => decide (sgn n a ≤ sgn n b)
  | 0x1E => decide (b < a)
  | _ => decide (sgn n b < sgn n a)

/-- Averaging, multiply and divide operations of OPMVV and OPMVX. -/
def vMulOp (vxrm n f6 a b : Nat) : Option Nat :=
  match f6 with
  | 0x08 => some (wrap n (rshift vxrm (a + b : Nat) 1))
  | 0x09 => some (wrap n (rshift vxrm (sgn n a + sgn n b) 1))
  | 0x0A => some (wrap n (rshift vxrm ((a : Int) - b) 1))
  | 0x0B => some (wrap n (rshift vxrm (sgn n a - sgn n b) 1))
  | 0x20 => some (divU n a b)
  | 0x21 => some (divS n a b)
  | 0x22 => some (remU a b)
  | 0x23 => some (remS n a b)
  | 0x24 => some (mulOp n 3 a b)
  | 0x25 => some (mulOp n 0 a b)
  | 0x26 => some (mulOp n 2 a b)
  | 0x27 => some (mulOp n 1 a b)
  | _ => none

/-- Multiply-add at width `n`: vs2 `a`, the other factor `b`, the destination `d`. -/
def vMaddOp (n f6 a b d : Nat) : Option Nat :=
  match f6 with
  | 0x29 => some ((b * d + a) % 2 ^ n)
  | 0x2B => some (wrap n ((a : Int) - (b * d : Nat)))
  | 0x2D => some ((b * a + d) % 2 ^ n)
  | 0x2F => some (wrap n ((d : Int) - (b * a : Nat)))
  | _ => none

/-- Widening operations from `n` to 2n bits. `a` is already wide for 0x34 to 0x37. -/
def vWideOp (n f6 a b d : Nat) : Option Nat :=
  let w := 2 * n
  let u := fun (i : Int) => some (wrap w i)
  match f6 with
  | 0x30 => u (a + b : Nat)
  | 0x31 => u (sgn n a + sgn n b)
  | 0x32 => u ((a : Int) - b)
  | 0x33 => u (sgn n a - sgn n b)
  | 0x34 => u (a + b : Nat)
  | 0x35 => u (sgn w a + sgn n b)
  | 0x36 => u ((a : Int) - b)
  | 0x37 => u (sgn w a - sgn n b)
  | 0x38 => u (a * b : Nat)
  | 0x3A => u (sgn n a * (b : Int))
  | 0x3B => u (sgn n a * sgn n b)
  | 0x3C => u (a * b + d : Nat)
  | 0x3D => u (sgn n a * sgn n b + (d : Int))
  | 0x3E => u ((b : Int) * sgn n a + (d : Int)) |>.map fun x => x
  | 0x3F => u (sgn n b * (a : Int) + (d : Int))
  | _ => none

/-- Reductions of OPMVV. -/
def vRedOp (n f6 a b : Nat) : Nat :=
  match f6 with
  | 0x00 => (a + b) % 2 ^ n
  | 0x01 => a.land b
  | 0x02 => a.lor b
  | 0x03 => a.xor b
  | 0x04 => min a b
  | 0x05 => if sgn n a < sgn n b then a else b
  | 0x06 => max a b
  | _ => if sgn n a < sgn n b then b else a

/-- The active elements of a body. -/
def actives (x : VCtx) (v : List (BitVec 256)) (vm : Bool) : List Nat := (List.range x.vl).filter (active x v vm)

/-- A reduction writes element 0; other elements are a tail. -/
def putScalar0 (x : VCtx) (sew vd : Nat) (val : Nat) : InsnM Unit :=
  putGroup { x with vl := if x.vl == 0 then 0 else 1 } true sew 8 vd fun _ => val

/-- vxsat is set. -/
def setVxsat : InsnM Unit := do
  let r ← get
  setHw fun h => csrSet h r.core 0xF (setBit (csrGet h r.core 0xF) 0 true)

/-! ### OPIVV, OPIVX, OPIVI -/

def vOpI (x : VCtx) (i : VInsn) : InsnM Unit := do
  let v ← vregs
  let n := x.sew
  let lm := x.lm8
  let one := do
    i.notMask
    if !groupOk i.vd lm then illegal
    vsource lm n i.vd lm n i.vs2
    if i.form == 0 then vsource lm n i.vd lm n i.vs1
  let a := fun k => vget v n i.vs2 k
  let shift := i.f6 == 0x25 || (decide (0x28 ≤ i.f6) && decide (i.f6 ≤ 0x2F))
  let b := fun k => if shift && i.form == 2 then i.vs1 else i.op1 v n k
  if (vIntOp 0 n i.f6 0 0).isSome && !(i.f6 == 0x27 && i.form == 2) then
    i.forms (vIntForms i.f6)
    one
    let f := fun k => (vIntOp x.vxrm n i.f6 (a k) (b k)).getD (0, false)
    putGroup x i.vm n lm i.vd fun k => (f k).1
    if (actives x v i.vm).any fun k => (f k).2 then setVxsat
  else if i.f6 == 0x27 then
    -- VMV<nr>R.V: whole registers
    let nr := i.vs1 + 1
    if !i.vm || !([1, 2, 4, 8].contains nr) || i.vd % nr != 0 || i.vs2 % nr != 0 then illegal
    let y : VCtx := { x with vl := nr * 256 / n }
    putGroup y true n (8 * nr) i.vd a
  else if i.f6 == 0x0C || (i.f6 == 0x0E && i.form == 0) then
    -- VRGATHER, VRGATHEREI16
    let wide := i.f6 == 0x0E
    let iw := if wide then 16 else n
    let ilm := if wide then 16 * lm / n else lm
    i.notMask
    if !groupOk i.vd lm || !groupOk i.vs2 lm || meets i.vd (groupRegs lm) i.vs2 (groupRegs lm) then illegal
    if i.form == 0 && (!groupOk i.vs1 ilm || meets i.vd (groupRegs lm) i.vs1 (groupRegs ilm)) then illegal
    let idx := fun k => if i.form == 0 then vget v iw i.vs1 k else i.uimm
    putGroup x i.vm n lm i.vd fun k => if idx k < 32 * lm / n then a (idx k) else 0
  else if i.f6 == 0x0E then
    -- VSLIDEUP
    i.notMask
    if !groupOk i.vd lm || !groupOk i.vs2 lm || meets i.vd (groupRegs lm) i.vs2 (groupRegs lm) then illegal
    let off := i.uimm
    let y : VCtx := { x with vstart := max x.vstart (min off x.vl) }
    putGroup y i.vm n lm i.vd fun k => a (k - off)
  else if i.f6 == 0x0F then
    -- VSLIDEDOWN
    i.forms 6
    i.notMask
    if !groupOk i.vd lm || !groupOk i.vs2 lm then illegal
    putGroup x i.vm n lm i.vd fun k => if k + i.uimm < 32 * lm / n then a (k + i.uimm) else 0
  else if i.f6 == 0x10 || i.f6 == 0x12 then
    -- VADC, VSBC
    i.forms (if i.f6 == 0x10 then 7 else 3)
    if i.vm || i.vd == 0 then illegal
    one
    putGroup x true n lm i.vd fun k =>
      let c := vget v 1 0 k
      if i.f6 == 0x10 then (a k + b k + c) % 2 ^ n else (a k + 2 * 2 ^ n - b k - c) % 2 ^ n
  else if i.f6 == 0x11 || i.f6 == 0x13 then
    -- VMADC, VMSBC
    i.forms (if i.f6 == 0x11 then 7 else 3)
    vsource 8 1 i.vd lm n i.vs2
    if i.form == 0 then vsource 8 1 i.vd lm n i.vs1
    putMask x true i.vd fun k =>
      let c := if i.vm then 0 else vget v 1 0 k
      if i.f6 == 0x11 then decide (2 ^ n ≤ a k + b k + c) else decide (a k < b k + c)
  else if i.f6 == 0x17 then
    -- VMERGE, VMV.V
    if i.vm && i.vs2 != 0 then illegal
    i.notMask
    if !groupOk i.vd lm || (!i.vm && !groupOk i.vs2 lm) || (i.form == 0 && !groupOk i.vs1 lm) then illegal
    putGroup x true n lm i.vd fun k => if i.vm || vget v 1 0 k == 1 then b k else a k
  else if 0x18 ≤ i.f6 && i.f6 ≤ 0x1F then
    i.forms (if i.f6 == 0x1A || i.f6 == 0x1B then 3 else if i.f6 == 0x1E || i.f6 == 0x1F then 6 else 7)
    vsource 8 1 i.vd lm n i.vs2
    if i.form == 0 then vsource 8 1 i.vd lm n i.vs1
    putMask x i.vm i.vd fun k => vCmpOp n i.f6 (a k) (b k)
  else if 0x2C ≤ i.f6 && i.f6 ≤ 0x2F then
    -- narrowing shifts and clips
    if 32 < n || 32 < lm then illegal
    i.notMask
    if !groupOk i.vd lm then illegal
    vsource lm n i.vd (2 * lm) (2 * n) i.vs2
    if i.form == 0 then vsource lm n i.vd lm n i.vs1
    let f := fun k =>
      let w := vget v (2 * n) i.vs2 k
      let s := b k % (2 * n)
      match i.f6 with
      | 0x2C => (w / 2 ^ s % 2 ^ n, false)
      | 0x2D => (sra (2 * n) w s % 2 ^ n, false)
      | 0x2E => satU n (rshift x.vxrm w s)
      | _ => satS n (rshift x.vxrm (sgn (2 * n) w) s)
    putGroup x i.vm n lm i.vd fun k => (f k).1
    if (actives x v i.vm).any fun k => (f k).2 then setVxsat
  else if i.f6 == 0x30 || i.f6 == 0x31 then
    -- VWREDSUMU, VWREDSUM
    i.forms 1
    if 32 < n || x.vstart != 0 || !groupOk i.vs2 lm then illegal
    let e := fun k => if i.f6 == 0x30 then a k else sext n (2 * n) (a k)
    let sum := (actives x v i.vm).foldl (fun s k => (s + e k) % 2 ^ (2 * n)) (vget v (2 * n) i.vs1 0)
    putScalar0 x (2 * n) i.vd sum
  else illegal

/-! ### OPMVV, OPMVX -/

def vOpM (x : VCtx) (i : VInsn) : InsnM Unit := do
  let v ← vregs
  let n := x.sew
  let lm := x.lm8
  let a := fun k => vget v n i.vs2 k
  let b := fun k => i.op1 v n k
  let one := do
    i.notMask
    if !groupOk i.vd lm then illegal
    vsource lm n i.vd lm n i.vs2
    if i.form == 0 then vsource lm n i.vd lm n i.vs1
  if i.f6 ≤ 0x07 then
    i.forms 1
    if x.vstart != 0 || !groupOk i.vs2 lm then illegal
    putScalar0 x n i.vd ((actives x v i.vm).foldl (fun s k => vRedOp n i.f6 s (a k)) (vget v n i.vs1 0))
  else if (vMulOp 0 n i.f6 0 0).isSome then
    one
    putGroup x i.vm n lm i.vd fun k => (vMulOp x.vxrm n i.f6 (a k) (b k)).getD 0
  else if (vMaddOp n i.f6 0 0 0).isSome then
    one
    putGroup x i.vm n lm i.vd fun k => (vMaddOp n i.f6 (a k) (b k) (vget v n i.vd k)).getD 0
  else if i.f6 == 0x0E || i.f6 == 0x0F then
    -- VSLIDE1UP, VSLIDE1DOWN
    i.forms 2
    i.notMask
    if !groupOk i.vd lm || !groupOk i.vs2 lm then illegal
    if i.f6 == 0x0E && meets i.vd (groupRegs lm) i.vs2 (groupRegs lm) then illegal
    let s := i.x % 2 ^ n
    putGroup x i.vm n lm i.vd fun k =>
      if i.f6 == 0x0E then (if k == 0 then s else a (k - 1)) else if k + 1 == x.vl then s else a (k + 1)
  else if i.f6 == 0x10 then
    if i.form == 1 then
      -- VMV.S.X
      if i.vs2 != 0 || !i.vm then illegal
      putScalar0 { x with vl := if x.vl ≤ x.vstart then 0 else 1, vstart := 0 } n i.vd (i.x % 2 ^ n)
    else
      let m := (actives x v i.vm).filter fun k => vget v 1 i.vs2 k == 1
      match i.vs1 with
      | 0x00 => if !i.vm then illegal else putX i.vd (sext n 64 (a 0))
      | 0x10 => if x.vstart != 0 then illegal else putX i.vd m.length
      | 0x11 => if x.vstart != 0 then illegal else putX i.vd ((m.head?).getD (2 ^ 64 - 1))
      | _ => illegal
  else if i.f6 == 0x12 then
    -- VZEXT, VSEXT
    i.forms 1
    i.notMask
    if i.vs1 < 2 || 7 < i.vs1 then illegal
    let q := 2 ^ (4 - i.vs1 / 2)
    if n / q < 8 || lm % q != 0 || !groupOk i.vd lm then illegal
    vsource lm n i.vd (lm / q) (n / q) i.vs2
    putGroup x i.vm n lm i.vd fun k =>
      let e := vget v (n / q) i.vs2 k
      if i.vs1 % 2 == 0 then e else sext (n / q) n e
  else if i.f6 == 0x14 then
    i.forms 1
    if i.vs1 == 0x11 then
      i.notMask
      if i.vs2 != 0 || !groupOk i.vd lm then illegal
      putGroup x i.vm n lm i.vd fun k => k
    else
      if x.vstart != 0 then illegal
      let m := (actives x v i.vm).filter fun k => vget v 1 i.vs2 k == 1
      if i.vs1 == 0x10 then
        i.notMask
        if !groupOk i.vd lm || meets i.vd (groupRegs lm) i.vs2 1 then illegal
        putGroup x i.vm n lm i.vd fun k => (m.filter (· < k)).length
      else
        if i.vs1 == 0 || 3 < i.vs1 || i.vd == i.vs2 then illegal
        i.notMask
        putMask x i.vm i.vd fun k => match m.head? with
          | none => i.vs1 != 2
          | some j => (match i.vs1 with | 1 => decide (k < j) | 2 => k == j | _ => decide (k ≤ j))
  else if i.f6 == 0x17 then
    -- VCOMPRESS
    i.forms 1
    if !i.vm || x.vstart != 0 || !groupOk i.vd lm || !groupOk i.vs2 lm || meets i.vd (groupRegs lm) i.vs2 (groupRegs lm) ||
      meets i.vd (groupRegs lm) i.vs1 1 then illegal
    let picked := (List.range x.vl).filter fun k => vget v 1 i.vs1 k == 1
    let y : VCtx := { x with vl := picked.length }
    putGroup y true n lm i.vd fun k => a (lget 0 picked k)
  else if 0x18 ≤ i.f6 && i.f6 ≤ 0x1F then
    -- mask logic
    i.forms 1
    if !i.vm then illegal
    putMask x true i.vd fun k =>
      let p := vget v 1 i.vs2 k == 1
      let q := vget v 1 i.vs1 k == 1
      match i.f6 with
      | 0x18 => p && !q
      | 0x19 => p && q
      | 0x1A => p || q
      | 0x1B => p != q
      | 0x1C => p || !q
      | 0x1D => !(p && q)
      | 0x1E => !(p || q)
      | _ => p == q
  else if (vWideOp n i.f6 0 0 0).isSome then
    -- widening
    if i.f6 == 0x3E then i.forms 2
    if 32 < n || 32 < lm then illegal
    i.notMask
    let wideA := decide (0x34 ≤ i.f6) && decide (i.f6 ≤ 0x37)
    if !groupOk i.vd (2 * lm) then illegal
    if wideA then vsource (2 * lm) (2 * n) i.vd (2 * lm) (2 * n) i.vs2 else vsource (2 * lm) (2 * n) i.vd lm n i.vs2
    if i.form == 0 then vsource (2 * lm) (2 * n) i.vd lm n i.vs1
    putGroup x i.vm (2 * n) (2 * lm) i.vd fun k =>
      (vWideOp n i.f6 (if wideA then vget v (2 * n) i.vs2 k else a k) (b k) (vget v (2 * n) i.vd k)).getD 0
  else illegal

/-! ### OPFVV, OPFVF -/

/-- The format of an element width; none where the unit has none. -/
def vfmt (n : Nat) : Option FpFmt := if n == 32 then some fmtS else if n == 64 then some fmtD else none
def needFmt (n : Nat) : InsnM FpFmt := match vfmt n with | some f => pure f | none => illegal

/-- Single-width floating-point operations: vs2 `a`, the other operand `b`. -/
def vFpOp (f : FpFmt) (rm f6 a b : Nat) : Option (Nat × Nat) :=
  match f6 with
  | 0x00 => some (fpAdd f rm a b)
  | 0x02 => some (fpAdd f rm a (fpNeg f b))
  | 0x04 => some (fpMinMax f 0 a b)
  | 0x06 => some (fpMinMax f 1 a b)
  | 0x08 => some (fpSgnj f 0 a b, 0)
  | 0x09 => some (fpSgnj f 1 a b, 0)
  | 0x0A => some (fpSgnj f 2 a b, 0)
  | 0x20 => some (fpDiv f rm a b)
  | 0x21 => some (fpDiv f rm b a)
  | 0x24 => some (fpMul f rm a b)
  | 0x27 => some (fpAdd f rm b (fpNeg f a))
  | _ => none

/-- Fused multiply-add: vs2 `a`, the other factor `b`, the destination `d`. -/
def vFmaOp (f : FpFmt) (rm f6 a b d : Nat) : Option (Nat × Nat) :=
  let ng := fpNeg f
  match f6 with
  | 0x28 => some (fpFma f rm b d a)
  | 0x29 => some (fpFma f rm (ng b) d (ng a))
  | 0x2A => some (fpFma f rm b d (ng a))
  | 0x2B => some (fpFma f rm (ng b) d a)
  | 0x2C => some (fpFma f rm b a d)
  | 0x2D => some (fpFma f rm (ng b) a (ng d))
  | 0x2E => some (fpFma f rm b a (ng d))
  | 0x2F => some (fpFma f rm (ng b) a d)
  | _ => none

/-- Comparisons: equal, less or equal, less, unequal, greater, greater or equal. -/
def vFpCmp (f : FpFmt) (f6 a b : Nat) : Option (Nat × Nat) :=
  match f6 with
  | 0x18 => some (fpCmp f 2 a b)
  | 0x19 => some (fpCmp f 0 a b)
  | 0x1B => some (fpCmp f 1 a b)
  | 0x1C => let r := fpCmp f 2 a b; some (1 - r.1, r.2)
  | 0x1D => some (fpCmp f 1 b a)
  | 0x1F => some (fpCmp f 0 b a)
  | _ => none

/-- Write a group of floating-point results and accrue the flags of the active elements. -/
def putFp (x : VCtx) (vm : Bool) (sew lm8 vd : Nat) (f : Nat → Nat × Nat) : InsnM Unit := do
  let v ← vregs
  putGroup x vm sew lm8 vd fun k => (f k).1
  accrue ((actives x v vm).foldl (fun a k => a.lor (f k).2) 0)

/-- Conversions of VFUNARY0: single width, widening and narrowing. -/
def vFpConv (x : VCtx) (i : VInsn) (rm : Nat) : InsnM Unit := do
  let v ← vregs
  let n := x.sew
  let lm := x.lm8
  let kind := i.vs1 / 8
  let op := i.vs1 % 8
  let (sw, dw) := match kind with | 0 => (n, n) | 1 => (n, 2 * n) | _ => (2 * n, n)
  let (slm, dlm) := match kind with | 0 => (lm, lm) | 1 => (lm, 2 * lm) | _ => (2 * lm, lm)
  if 64 < sw || 64 < dw || !groupOk i.vd dlm then illegal
  i.notMask
  vsource dlm dw i.vd slm sw i.vs2
  let e := fun k => vget v sw i.vs2 k
  let rtz := op == 6 || op == 7
  match op with
  | 0 | 1 | 6 | 7 =>
    let f ← needFmt sw
    putFp x i.vm dw dlm i.vd fun k => fpToInt f (if rtz then 1 else rm) dw (op % 2 == 1) (e k)
  | 2 | 3 =>
    let f ← needFmt dw
    putFp x i.vm dw dlm i.vd fun k => fpFromInt f rm sw (op == 3) (e k)
  | _ =>
    if kind == 0 || (op == 5 && kind != 2) then illegal
    let fs ← needFmt sw
    let fd ← needFmt dw
    if op == 5 then
      -- round to odd
      putFp x i.vm dw dlm i.vd fun k =>
        let r := fpConv fs fd 1 (e k)
        (if r.2 % 2 == 1 then r.1.lor 1 else r.1, r.2)
    else putFp x i.vm dw dlm i.vd fun k => fpConv fs fd rm (e k)

def vOpF (x : VCtx) (i : VInsn) : InsnM Unit := do
  needFp
  let v ← vregs
  let n := x.sew
  let lm := x.lm8
  let rm ← needRm 7
  let scalar := if n == 64 then i.x else fpOperand false i.x
  let b := fun k => if i.form == 0 then vget v n i.vs1 k else scalar % 2 ^ n
  let a := fun k => vget v n i.vs2 k
  let one := do
    i.notMask
    if !groupOk i.vd lm then illegal
    vsource lm n i.vd lm n i.vs2
    if i.form == 0 then vsource lm n i.vd lm n i.vs1
  if i.f6 == 0x12 then
    i.forms 1
    if 24 ≤ i.vs1 then illegal
    vFpConv x i rm
  else
    let f ← needFmt n
    if (vFpOp f rm i.f6 0 0).isSome then
      if i.f6 == 0x21 || i.f6 == 0x27 then i.forms 2
      one
      putFp x i.vm n lm i.vd fun k => (vFpOp f rm i.f6 (a k) (b k)).getD (0, 0)
    else if (vFmaOp f rm i.f6 0 0 0).isSome then
      one
      putFp x i.vm n lm i.vd fun k => (vFmaOp f rm i.f6 (a k) (b k) (vget v n i.vd k)).getD (0, 0)
    else if (vFpCmp f i.f6 0 0).isSome then
      if i.f6 == 0x1D || i.f6 == 0x1F then i.forms 2
      vsource 8 1 i.vd lm n i.vs2
      if i.form == 0 then vsource 8 1 i.vd lm n i.vs1
      let g := fun k => (vFpCmp f i.f6 (a k) (b k)).getD (0, 0)
      putMask x i.vm i.vd fun k => (g k).1 == 1
      accrue ((actives x v i.vm).foldl (fun s k => s.lor (g k).2) 0)
    else if i.f6 == 0x01 || i.f6 == 0x03 || i.f6 == 0x05 || i.f6 == 0x07 then
      -- reductions; the order of an unordered sum of several elements is open (log 7)
      i.forms 1
      if x.vstart != 0 || !groupOk i.vs2 lm then illegal
      let act := actives x v i.vm
      let step := fun (s : Nat × Nat) k =>
        let r := match i.f6 with | 0x05 => fpMinMax f 0 s.1 (a k) | 0x07 => fpMinMax f 1 s.1 (a k) | _ => fpAdd f rm s.1 (a k)
        (r.1, s.2.lor r.2)
      let r := act.foldl step (vget v n i.vs1 0, 0)
      if i.f6 == 0x01 && 2 ≤ act.length then
        let s ← get
        let (k, h) := takeFree s.hw
        set { s with hw := h }
        putScalar0 x n i.vd (Config.freeNat k % 2 ^ n)
        accrue (Config.freeNat k / 2 ^ n % 32)
      else
        putScalar0 x n i.vd r.1
        accrue r.2
    else if i.f6 == 0x0E || i.f6 == 0x0F then
      i.forms 2
      i.notMask
      if !groupOk i.vd lm || !groupOk i.vs2 lm then illegal
      if i.f6 == 0x0E && meets i.vd (groupRegs lm) i.vs2 (groupRegs lm) then illegal
      putGroup x i.vm n lm i.vd fun k =>
        if i.f6 == 0x0E then (if k == 0 then b 0 else a (k - 1)) else if k + 1 == x.vl then b 0 else a (k + 1)
    else if i.f6 == 0x10 then
      if !i.vm then illegal
      if i.form == 1 then
        if i.vs2 != 0 then illegal
        putScalar0 { x with vl := if x.vl ≤ x.vstart then 0 else 1, vstart := 0 } n i.vd (b 0)
      else if i.vs1 == 0 then putF i.vd (fpBox (n == 64) (a 0))
      else illegal
    else if i.f6 == 0x13 then
      i.forms 1
      one
      match i.vs1 with
      | 0x00 => putFp x i.vm n lm i.vd fun k => fpSqrt f rm (a k)
      | 0x04 => putFp x i.vm n lm i.vd fun k => ((Config.fpEstimate true n (a k)).1 % 2 ^ n, (Config.fpEstimate true n (a k)).2 % 32)
      | 0x05 => putFp x i.vm n lm i.vd fun k => ((Config.fpEstimate false n (a k)).1 % 2 ^ n, (Config.fpEstimate false n (a k)).2 % 32)
      | 0x10 => putGroup x i.vm n lm i.vd fun k => fpClass f (a k)
      | _ => illegal
    else if i.f6 == 0x17 then
      -- VFMERGE, VFMV.V.F
      i.forms 2
      if i.vm && i.vs2 != 0 then illegal
      i.notMask
      if !groupOk i.vd lm || (!i.vm && !groupOk i.vs2 lm) then illegal
      putGroup x true n lm i.vd fun k => if i.vm || vget v 1 0 k == 1 then b k else a k
    else
      -- widening: operands of SEW, results of twice SEW
      if n != 32 || 32 < lm then illegal
      let up := fun (e : Nat) => (fpConv fmtS fmtD rm e).1
      let sig := fun (e : Nat) => if (unpack fmtS e).isSig then fNV else 0
      let wideA := i.f6 == 0x34 || i.f6 == 0x36
      let a2 := fun k => if wideA then vget v 64 i.vs2 k else up (a k)
      let d2 := fun k => vget v 64 i.vd k
      let g := fun k =>
        let s := (if wideA then 0 else sig (a k)).lor (sig (b k))
        let r := match i.f6 with
          | 0x30 | 0x34 => some (fpAdd fmtD rm (a2 k) (up (b k)))
          | 0x32 | 0x36 => some (fpAdd fmtD rm (a2 k) (fpNeg fmtD (up (b k))))
          | 0x38 => some (fpMul fmtD rm (a2 k) (up (b k)))
          | 0x3C => some (fpFma fmtD rm (up (b k)) (a2 k) (d2 k))
          | 0x3D => some (fpFma fmtD rm (fpNeg fmtD (up (b k))) (a2 k) (fpNeg fmtD (d2 k)))
          | 0x3E => some (fpFma fmtD rm (up (b k)) (a2 k) (fpNeg fmtD (d2 k)))
          | 0x3F => some (fpFma fmtD rm (fpNeg fmtD (up (b k))) (a2 k) (d2 k))
          | _ => none
        r.map fun r => (r.1, r.2.lor s)
      if i.f6 == 0x31 || i.f6 == 0x33 then
        i.forms 1
        if x.vstart != 0 || !groupOk i.vs2 lm then illegal
        let act := actives x v i.vm
        let r := act.foldl (fun (s : Nat × Nat) k => let t := fpAdd fmtD rm s.1 (up (a k)); (t.1, (s.2.lor t.2).lor (sig (a k)))) (vget v 64 i.vs1 0, 0)
        if i.f6 == 0x31 && 2 ≤ act.length then
          let s ← get
          let (k, h) := takeFree s.hw
          set { s with hw := h }
          putScalar0 x 64 i.vd (Config.freeNat k % 2 ^ 64)
          accrue (Config.freeNat k / 2 ^ 64 % 32)
        else
          putScalar0 x 64 i.vd r.1
          accrue r.2
      else
        if (g 0).isNone then illegal
        i.notMask
        if !groupOk i.vd (2 * lm) then illegal
        if wideA then vsource (2 * lm) 64 i.vd (2 * lm) 64 i.vs2 else vsource (2 * lm) 64 i.vd lm 32 i.vs2
        if i.form == 0 then vsource (2 * lm) 64 i.vd lm 32 i.vs1
        putFp x i.vm 64 (2 * lm) i.vd fun k => (g k).getD (0, 0)

/-- OP-V. -/
def opVec (w : Nat) : InsnM Unit := do
  let f3 := rvF3 w
  if f3 == 7 then vset w
  else
    let x ← vctx
    let rs1 := rvRs1 w
    let scalar ← (if f3 == 5 then getF rs1 else if f3 == 3 then pure (sext 5 64 rs1) else getX rs1)
    let i : VInsn := { f6 := bits w 31 26, form := (if f3 == 3 then 2 else f3 / 4), vd := rvRd w, vs1 := rs1, vs2 := rvRs2 w, vm := bit w 25, x := scalar }
    if f3 == 0 || f3 == 3 || f3 == 4 then vOpI x i
    else if f3 == 2 || f3 == 6 then vOpM x i
    else vOpF x i
    vecDone

end Sys2Proof.Machine
end

