-- ==== Sys2Proof/Machine/CoreInsn.lean ====
section
/-!
DEFINITION. The instructions of a big core: RV64GC with Zba, Zbb and Zbs, V, the privileged instructions, H, and the words of Jemund's
extensions (R359 to R375, R379, R383). PRESUMED: unsafe (log 9): the published RISC-V ISA, which R359 names and does not retell.
-/

namespace Sys2Proof.Machine

/-! ### Control flow -/

/-- A jump: the target buffer and return stack learn it; x1 and x5 are the link registers. -/
def jumpAndTrain (target rd : Nat) (rs1 : Option Nat) : InsnM Unit := do
  let r ← get
  let link := fun i => i == 1 || i == 5
  let pop := match rs1 with | some x => link x && (!link rd || x != rd) | none => false
  let push := if link rd then some r.next else none
  let (h, miss) := trainJump r.hw r.core r.pc target push pop
  set { r with hw := h, next := target, mispredict := rs1.isSome && miss }

def opJal (w : Nat) : InsnM Unit := do
  let r ← get
  let link := r.next
  jumpAndTrain ((r.pc + immJ 64 w) % 2 ^ 64) (rvRd w) none
  putX (rvRd w) link

def opJalr (w : Nat) : InsnM Unit := do
  if rvF3 w != 0 then illegal
  let r ← get
  let link := r.next
  let a := ((← getX (rvRs1 w)) + immI 64 w) % 2 ^ 64
  jumpAndTrain (a / 2 * 2) (rvRd w) (some (rvRs1 w))
  putX (rvRd w) link

def opBranch (w : Nat) : InsnM Unit := do
  let a ← getX (rvRs1 w)
  let b ← getX (rvRs2 w)
  let r ← get
  match branchTaken 64 (rvF3 w) a b with
  | none => illegal
  | some t =>
    let (h, miss) := trainBranch r.hw r.core r.pc (bit w 31) t
    set { r with hw := h, mispredict := miss, next := if t then (r.pc + immB 64 w) % 2 ^ 64 else r.next }
    note 0x01

/-! ### Memory -/

/-- Sign- or zero-extend a loaded value of `n` bytes. -/
def extend (n : Nat) (signed : Bool) (v : Nat) : Nat := if signed then sext (8 * n) 64 v else v

def opLoad (w : Nat) : InsnM Unit := do
  let f3 := rvF3 w
  if f3 == 7 then illegal
  let via ← viaData
  let a := ((← getX (rvRs1 w)) + immI 64 w) % 2 ^ 64
  let n := 2 ^ (f3 % 4)
  putX (rvRd w) (extend n (decide (f3 < 4)) (← loadNat via a n))
  note 0x04

def opStore (w : Nat) : InsnM Unit := do
  let f3 := rvF3 w
  if 4 ≤ f3 then illegal
  let via ← viaData
  let a := ((← getX (rvRs1 w)) + immS 64 w) % 2 ^ 64
  storeBytes via a (leBytes (2 ^ f3) (← getX (rvRs2 w)))
  note 0x05

/-- LR, SC and the AMOs (R360). -/
def opAmo (w : Nat) : InsnM Unit := do
  let f3 := rvF3 w
  let f5 := bits w 31 27
  if f3 != 2 && f3 != 3 then illegal
  let n := if f3 == 2 then 4 else 8
  let via ← viaData
  let a ← getX (rvRs1 w)
  let v := (← getX (rvRs2 w)) % 2 ^ (8 * n)
  if f5 == 0x02 then
    if rvRs2 w != 0 then illegal
    putX (rvRd w) (extend n true (← loadReserved via a n))
    note 0x04
  else if f5 == 0x03 then
    putX (rvRd w) (← storeConditional via a n v)
    note 0x05
  else if (amoOp (8 * n) f5 0 0).isNone then illegal
  else
    let old ← atomicUpdate via a n fun old => (amoOp (8 * n) f5 old v).getD 0
    putX (rvRd w) (extend n true old)
    note 0x04
    note 0x05

/-! ### System -/

/-- CSRRW, CSRRS, CSRRC and their immediate forms. -/
def opCsr (w : Nat) : InsnM Unit := do
  let n := bits w 31 20
  let f3 := rvF3 w
  let rs1 := rvRs1 w
  let v ← (if f3 ≥ 4 then pure rs1 else getX rs1)
  let write := f3 % 4 == 1 || rs1 != 0
  let r ← get
  let c := r.core
  match csrFault r.hw c n write with
  | some 22 => virtualInsn
  | some _ => illegal
  | none =>
    let old := csrRead r.hw c n
    -- read-modify-write of mip leaves the queue's SEIP out
    let base := if n == 0x344 then setBit old 9 (bit (csrGet r.hw c 0x344) 9) else old
    let new := match f3 % 4 with | 1 => v | 2 => base.lor v | _ => base - base.land v
    if write then
      setHw fun h => csrWrite h c n new
      if 0xB00 ≤ n && n ≤ 0xB1F then modify fun r => { r with wrote := [n - 0xB00] }
      if n == 0x180 || n == 0x280 || n == 0x680 then flushPred
      if n ≤ 3 then setHw fun h => dirtyFp h c
      if 0x008 ≤ n && n ≤ 0x00F then setHw fun h => dirtyVec h c
    putX (rvRd w) old

/-- WFI: refused below M-mode by TW, to guests by VTW and to U-mode; with no enabled interrupt pending, the core waits. -/
def opWfi : InsnM Unit := do
  let r ← get
  let h := r.hw
  let p := privOf h r.core
  let v := virtOf h r.core
  if p != 3 && bit (mstatus h r.core) 21 then illegal
  if v && (p == 0 || bit (hstatus h r.core) 21) then virtualInsn
  if !v && p == 0 then illegal
  if (mipNow h r.core).land (csrGet h r.core 0x304) == 0 then setHw fun h => fset h F_CORE_STATUS_STATE stWfi r.core

def opSret : InsnM Unit := do
  let r ← get
  let h := r.hw
  let p := privOf h r.core
  let v := virtOf h r.core
  if v && (p == 0 || bit (hstatus h r.core) 22) then virtualInsn
  if !v && (p == 0 || (p == 1 && bit (mstatus h r.core) 22)) then illegal
  let (h, a) := doSret h r.core
  setHw fun _ => h
  note 0x10
  jumpTo a

def opMret : InsnM Unit := do
  let r ← get
  if privOf r.hw r.core != 3 then illegal
  let (h, a) := doMret r.hw r.core
  setHw fun _ => h
  note 0x10
  jumpTo a

/-- SFENCE.VMA, HFENCE.VVMA and HFENCE.GVMA: translations are walked at each access, so nothing is left to order. -/
def opFence (f7 : Nat) : InsnM Unit := do
  let r ← get
  let h := r.hw
  let p := privOf h r.core
  let v := virtOf h r.core
  let guest := f7 != 0x09
  if v && (guest || p == 0 || bit (hstatus h r.core) 20) then virtualInsn
  if !v && (p == 0 || (p == 1 && f7 != 0x11 && bit (mstatus h r.core) 20)) then illegal

/-- HLV, HLVX and HSV: an access as the guest of hstatus.SPVP makes it. -/
def opHlv (w : Nat) : InsnM Unit := do
  let r ← get
  let h := r.hw
  let p := privOf h r.core
  if virtOf h r.core then virtualInsn
  if p == 0 && !bit (hstatus h r.core) 9 then illegal
  let f7 := rvF7 w
  let k := f7 / 2 % 4
  let n := 2 ^ k
  let rs2 := rvRs2 w
  let via : Via := { priv := b2n (bit (hstatus h r.core) 8), virt := true, hlvx := f7 % 2 == 0 && rs2 == 3 }
  let a ← getX (rvRs1 w)
  if f7 / 8 != 6 then illegal
  if f7 % 2 == 1 then
    if rvRd w != 0 then illegal
    storeBytes via a (leBytes n (← getX rs2))
    note 0x05
  else
    if !(rs2 == 0 || (rs2 == 1 && k != 3) || (rs2 == 3 && (k == 1 || k == 2))) then illegal
    putX (rvRd w) (extend n (rs2 == 0) (← loadNat via a n))
    note 0x04

def opSystem (w : Nat) : InsnM Unit := do
  let f3 := rvF3 w
  if f3 == 4 then opHlv w
  else if f3 != 0 then opCsr w
  else
    let r ← get
    let p := privOf r.hw r.core
    match w with
    | 0x00000073 => raise (match p with | 3 => 11 | 1 => if virtOf r.hw r.core then 10 else 9 | _ => 8)
    | 0x00100073 => throw { cause := 3, tval := r.pc, gva := virtOf r.hw r.core }
    | 0x10200073 => opSret
    | 0x30200073 => opMret
    | 0x10500073 => opWfi
    | _ =>
      let f7 := rvF7 w
      if rvRd w == 0 && (f7 == 0x09 || f7 == 0x11 || f7 == 0x31) then opFence f7 else illegal

/-! ### Jemund's words (R365, R370, R373) -/

def opLane (w : Nat) : InsnM Unit :=
  if rvF7 w != 0 then illegal
  else
    match rvF3 w with
    | 0 => if rvRs2 w == 0 then laneLd (rvRd w) (rvRs1 w) else illegal
    | 1 => if rvRd w == 0 then laneSt (rvRs1 w) (rvRs2 w) else illegal
    | 2 => laneMk (rvRd w) (rvRs1 w) (rvRs2 w)
    | 3 => if rvRs2 w == 0 then laneTag (rvRd w) (rvRs1 w) else illegal
    | _ => illegal

def opRound (w : Nat) : InsnM Unit :=
  if rvF7 w != 0 then illegal
  else
    match rvF3 w with
    | 0 => if rvRs2 w == 0 then xrGet (rvRd w) (rvRs1 w) false else illegal
    | 1 => xrAdd (rvRd w) (rvRs1 w) (rvRs2 w)
    | 2 => xrDone (rvRd w) (rvRs1 w) (rvRs2 w)
    | _ => illegal

def opWorld (w : Nat) : InsnM Unit :=
  if w == 0x0000005B then wcall
  else if w == 0x0200005B then wret
  else if w == 0x0000205B then wmark
  else if rvF7 w == 0 && rvF3 w == 1 && rvRd w == 0 && rvRs2 w == 0 then wgate (rvRs1 w)
  else illegal

/-! ### One instruction -/

/-- A result, or the illegal-instruction exception. -/
def putOr (rd : Nat) : Option Nat → InsnM Unit
  | some v => putX rd v
  | none => illegal

/-- A 32-bit instruction. -/
def rvBody (w : Nat) : InsnM Unit := do
  let rd := rvRd w
  let a ← getX (rvRs1 w)
  let b ← getX (rvRs2 w)
  let r ← get
  match w % 128 with
  | 0x37 => putX rd (immU 64 w)
  | 0x17 => putX rd ((r.pc + immU 64 w) % 2 ^ 64)
  | 0x13 => putOr rd (aluImm 64 true w a)
  | 0x1B => putOr rd (aluImm32 w a)
  | 0x33 => putOr rd (aluOp 64 true (rvF7 w) (rvF3 w) (rvRs2 w) a b)
  | 0x3B => putOr rd (aluOp32 (rvF7 w) (rvF3 w) (rvRs2 w) a b)
  | 0x6F => opJal w
  | 0x67 => opJalr w
  | 0x63 => opBranch w
  | 0x03 => opLoad w
  | 0x23 => opStore w
  | 0x0F => if 2 ≤ rvF3 w then illegal else if rvF3 w == 1 then setHw fun h => emptyL1i h r.core
  | 0x2F => opAmo w
  | 0x73 => opSystem w
  | 0x07 =>
    match rvF3 w with
    | 2 | 3 => opFpLoad w
    | 0 | 5 | 6 | 7 => vmem w false
    | _ => illegal
  | 0x27 =>
    match rvF3 w with
    | 2 | 3 => opFpStore w
    | 0 | 5 | 6 | 7 => vmem w true
    | _ => illegal
  | 0x43 | 0x47 | 0x4B | 0x4F => opFma w
  | 0x53 => opFp w
  | 0x57 => opVec w
  | 0x0B => opLane w
  | 0x2B => opRound w
  | 0x5B => opWorld w
  | _ => illegal

/-- INSTRUCTION (R359). -/
def execInstruction (c : Fin 160) (word : BitVec 32) (s : State) : Host.Outcome State Fault Refusal :=
  .next (coreStep c word.toNat (match expand true word.toNat with | some w => rvBody w | none => illegal) s)

end Sys2Proof.Machine
end

