-- ==== Sys2Proof/Machine/SmallCore.lean ====
section
/-!
DEFINITION. The small cores: gate sequencers 0 to 63, hub cores 64 to 67, Kydin 68 (R386 to R392, R530). PRESUMED: unsafe (log 9): RV32IMC,
Zicsr and Zifencei with M and U as published; their local addresses are open (log 26).
-/

namespace Sys2Proof.Machine

/-! ### Registers and CSRs (R386) -/

def sreg (h : Hw) (m i : Nat) : Nat := if i == 0 then 0 else (lget 0 (smallOf h m).x i).toNat
def setSreg (h : Hw) (m i v : Nat) : Hw :=
  if i == 0 then h else let k := smallOf h m; setSmall h m { k with x := k.x.set i (BitVec.ofNat 32 v) }
def scsr (h : Hw) (m n : Nat) : Nat := (tget 0 (smallOf h m).csr n).toNat
def setScsr (h : Hw) (m n v : Nat) : Hw := let k := smallOf h m; setSmall h m { k with csr := tset 0 k.csr n (BitVec.ofNat 32 v) }

/-- The CSRs of a small core: M-mode, and eight PMP entries. -/
def scsrExists (n : Nat) : Bool :=
  [0x300, 0x301, 0x304, 0x305, 0x306, 0x310, 0x320, 0x340, 0x341, 0x342, 0x343, 0x344, 0x3A0, 0x3A1, 0xB00, 0xB02, 0xB80, 0xB82, 0xF11, 0xF12,
   0xF13, 0xF14, 0xF15].contains n ||
  (decide (0x3B0 ≤ n) && decide (n ≤ 0x3B7)) || (decide (0x323 ≤ n) && decide (n ≤ 0x33F)) ||
  (decide (0xB03 ≤ n) && decide (n ≤ 0xB1F)) || (decide (0xB83 ≤ n) && decide (n ≤ 0xB9F))

def scsrRead (h : Hw) (m n : Nat) : Nat :=
  if n == 0x301 then 2 ^ 30 + 0x101104
  else if 0xF11 ≤ n && n ≤ 0xF14 then (Config.smallId m n).toNat
  else if (0x323 ≤ n && n ≤ 0x33F) || (0xB03 ≤ n && n ≤ 0xB1F) || 0xB83 ≤ n && n ≤ 0xB9F || [0x306, 0x310, 0xF15].contains n then 0
  else scsr h m n

/-- A write of a CSR; the bits of mip are those of lines that wait, which no write changes. -/
def scsrWrite (h : Hw) (m n v : Nat) : Hw :=
  match n with
  | 0x300 => setScsr h m n ((v.land 0x220088) + (if bits v 12 11 == 3 then 0x1800 else 0))
  | 0x305 => setScsr h m n (if v % 4 ≤ 1 then v else v / 4 * 4 + scsr h m n % 4)
  | 0x341 => setScsr h m n (v / 2 * 2)
  | 0x320 => setScsr h m n (v.land 5)
  | 0x344 => h
  | 0x3A0 | 0x3A1 =>
    let byte := fun (o w : Nat) => if bit o 7 || (!bit w 0 && bit w 1) then o else w.land 0x9F
    setScsr h m n (leNat ((List.range 4).map fun i => BitVec.ofNat 8 (byte (scsr h m n / 256 ^ i % 256) (v / 256 ^ i % 256))))
  | 0x304 | 0x340 | 0x342 | 0x343 | 0xB00 | 0xB02 | 0xB80 | 0xB82 => setScsr h m n v
  | _ =>
    let i := n - 0x3B0
    let cfg := fun j => scsr h m (0x3A0 + j / 4) / 256 ^ (j % 4) % 256
    if !(decide (0x3B0 ≤ n) && decide (n ≤ 0x3B7)) then h
    else if bit (cfg i) 7 || (i < 7 && bit (cfg (i + 1)) 7 && bits (cfg (i + 1)) 4 3 == 1) then h
    else setScsr h m n v

/-- A 64-bit counter held in two CSRs takes `n` more, unless it is inhibited. -/
def bumpSmall (h : Hw) (m lo : Nat) (n : Nat) : Hw :=
  if bit (scsr h m 0x320) (lo - 0xB00) then h
  else
    let v := scsr h m lo + 2 ^ 32 * scsr h m (lo + 0x80) + n
    setScsr (setScsr h m lo (v % 2 ^ 32)) m (lo + 0x80) (v / 2 ^ 32 % 2 ^ 32)

/-! ### PMP -/

def spmpCfg (h : Hw) (m i : Nat) : Nat := scsr h m (0x3A0 + i / 4) / 256 ^ (i % 4) % 256
def spmpRange (h : Hw) (m i : Nat) : Option (Nat × Nat) :=
  let a := scsr h m (0x3B0 + i)
  match bits (spmpCfg h m i) 4 3 with
  | 1 => some (if i == 0 then 0 else 4 * scsr h m (0x3B0 + i - 1), 4 * a)
  | 2 => some (4 * a, 4 * a + 4)
  | 3 =>
    let t := ((List.range 32).find? fun j => !bit a j).getD 32
    some (a / 2 ^ (t + 1) * 2 ^ (t + 1) * 4, (a / 2 ^ (t + 1) + 1) * 2 ^ (t + 1) * 4)
  | _ => none

def spmpAllows (h : Hw) (m : Nat) (user : Bool) (acc : Access) (a n : Nat) : Bool :=
  let hit := (List.range 8).find? fun i => match spmpRange h m i with | some (lo, hi) => decide (lo < a + n) && decide (a < hi) && decide (lo < hi) | none => false
  match hit with
  | none => !user
  | some i =>
    match spmpRange h m i with
    | some (lo, hi) =>
      let cfg := spmpCfg h m i
      decide (lo ≤ a) && decide (a + n ≤ hi) && ((!user && !bit cfg 7) || bit cfg (match acc with | .fetch => 2 | .load => 0 | .store => 1))
    | none => false

/-! ### Memory (R386, R391, R392, R443) -/

/-- First address of a core's data SRAM: a multiple of 1 MiB above its instruction SRAM, which one is open (log 26). -/
def dsramBase (m : Nat) : Nat := 2 ^ 20 * (1 + (Config.dsramSlot m).toNat)

/-- Where an address of a small core leads. -/
inductive Local where
  | instr (o : Nat)
  | data (o : Nat)
  | port
  deriving DecidableEq, Repr

def localOf (m a : Nat) : Local :=
  let d := dsramBase m
  if a < isramSize m then .instr a
  else if d ≤ a && a < d + dsramSize m then .data (a - d)
  else .port

/-- Every byte of a range is local. -/
def allLocal (m a n : Nat) : Bool := (List.range n).all fun i => localOf m ((a + i) % 2 ^ 32) != .port

def localByte (h : Hw) (m a : Nat) : Byte :=
  match localOf m (a % 2 ^ 32) with
  | .instr o => tget 0 (smallOf h m).isram o
  | .data o => tget 0 (smallOf h m).dsram o
  | .port => 0

/-- The old form of a byte that a store changes stays in view of the core's own fetches until FENCE.I (R392). -/
def keepOld (k : SmallCore) (a : Nat) (old : Byte) : SmallCore :=
  if k.view.any (·.1 == a) then k else { k with view := k.view ++ [(a, old)] }

/-- A store of one local byte (R386, R392). -/
def setLocal (h : Hw) (m a : Nat) (b : Byte) : Hw :=
  let a := a % 2 ^ 32
  let k := keepOld (smallOf h m) a (localByte h m a)
  match localOf m a with
  | .instr o => setSmall h m { k with isram := tset 0 k.isram o b }
  | .data o => setSmall h m { k with dsram := tset 0 k.dsram o b }
  | .port => h

def setLocals (h : Hw) (m a : Nat) (d : List Byte) : Hw := d.zipIdx.foldl (fun h (b, i) => setLocal h m (a + i) b) h

/-- The requester that a small core's port accesses carry: a sequencer its gate's owner and owner-world bit, Kydin its own, a hub core none
of a partition (R443, R458; log 26). -/
def smallWho (h : Hw) (m : Nat) : Requester :=
  if m == coreKydin then .kydin
  else if m < 64 then
    match ownerGate h m with
    | some p => .part (Fin.ofNat 8 p) (bit (fget h F_OWNW_GATE_GATE) m && hasSecure h p)
    | none => .trusted
  else .trusted

/-- A bus error of a gate sequencer's access is in an error record besides the access fault that the core takes (R5). DESIGN CHOICE: the record
is of class 4, with an open CODE and the address, since the spec gives such a record neither class nor code (log 83). -/
def recordBusError (h : Hw) (m pa : Nat) : Hw :=
  if m < 64 then
    logRec h { cls := 4, block := blkGate, inst := m, code := (Config.openCode blkGate).toNat, seq := 0, part := whoByte h (smallWho h m), addr := pa, d0 := 0 }
  else h

/-- What a load through the port finds: a bus error, or the bytes and whether they are poisoned. What a host outbound window returns is
open. -/
def portRead (h : Hw) (mem : Mem) (m a n : Nat) : Hw × Option (List Byte × List Bool) :=
  let pa := (Config.portAddr m a).toNat
  let who := smallWho h m
  match placeOf h pa with
  | .control _ =>
    let (h, v) := regRead h who pa n
    (h, v.map fun x => (leBytes n x, []))
  | .outbound _ =>
    let s : State := { hw := h, mem := mem, pending := [] }
    let h := (after s (execOutboundAccess who (BitVec.ofNat 52 pa) false n [] false s)).hw
    let (k, h) := takeFree h
    if h.busErr || Config.freeNat k % 3 == 1 then (h, none) else (h, some (leBytes n (Config.freeNat k / 3), [Config.freeNat k % 3 == 2]))
  | .remote _ | .nothing => (h, none)
  | _ =>
    let (h, ok, bs, pz) := agentRead h mem (askerOf h who) pa n
    (h, if ok then some (bs, pz) else none)

/-- A load through the port: an access fault, which a sequencer records, or the bytes and whether they are poisoned (R5). -/
def portLoad (h : Hw) (mem : Mem) (m a n : Nat) : Hw × Option (List Byte × List Bool) :=
  match portRead h mem m a n with
  | (h, none) => (recordBusError h m (Config.portAddr m a).toNat, none)
  | r => r

/-- What a store through the port does, and whether it was accepted. -/
def portWrite (m a : Nat) (d : List Byte) (s : State) : State × Bool :=
  let pa := (Config.portAddr m a).toNat
  let who := smallWho s.hw m
  match placeOf s.hw pa with
  | .control _ => let s := regWrite who pa d.length (leNat d) s; (s, !s.hw.busErr)
  | .outbound _ => let s := after s (execOutboundAccess who (BitVec.ofNat 52 pa) true d.length d false s); (s, !s.hw.busErr)
  | .remote _ => let s := after s (execRemoteWrite who (BitVec.ofNat 52 pa) d false s); (s, !s.hw.busErr)
  | .nothing => (s, false)
  | _ =>
    let (e, ok) := agentWrite s.hw s.mem (askerOf s.hw who) pa d
    ({ s with hw := e.hw, mem := s.land e.ops }, ok)

/-- A store through the port: what it changes keeps its old form in the core's fetches until FENCE.I, and a refused one of a sequencer is
recorded (R5, R392). -/
def portStore (m a : Nat) (d : List Byte) (s : State) : State × Bool :=
  let pa := (Config.portAddr m a).toNat
  let old := if isNormal s.hw pa then (agentRead s.hw s.mem (askerOf s.hw (smallWho s.hw m)) pa d.length).2.2.1 else []
  match portWrite m a d s with
  | (s, false) => (s.upd fun h => recordBusError h m pa, false)
  | (s, true) => (s.upd fun h => setSmall h m (old.zipIdx.foldl (fun k (b, i) => keepOld k ((a + i) % 2 ^ 32) b) (smallOf h m)), true)

/-! ### Traps (R389, R390, R530) -/

/-- The registers of a frame, lowest address first. -/
def frameRegs : List Nat := [1, 5, 6, 7, 10, 11, 12, 13, 14, 15, 16, 17, 28, 29, 30, 31]

/-- A frame of 80 bytes below `sp` lies in the data SRAM, and `sp` is a multiple of 16. -/
def frameFits (m sp : Nat) : Bool :=
  let d := dsramBase m
  sp % 16 == 0 && decide (d + 80 ≤ sp) && decide (sp ≤ d + dsramSize m)

/-- A trap enters its handler: the frame is pushed, or a stacking fault takes its place. `line` is the interrupt line, 16 for an
exception. -/
def smallTrap (h : Hw) (m cause tval line : Nat) : Hw :=
  let k := smallOf h m
  let sp := sreg h m 2
  let fits := frameFits m sp
  let st := scsr h m 0x300
  let st := setBit (setBit st 7 (bit st 3)) 3 false
  let st := st - bits st 12 11 * 2048 + (if k.user then 0 else 3 * 2048)
  let code := if fits then cause else 26
  let h := setScsr (setScsr (setScsr (setScsr h m 0x341 k.pc.toNat) m 0x342 code) m 0x343 (if fits then tval else sp)) m 0x300 st
  let words := frameRegs.map (sreg h m) ++ [k.pc.toNat, st, 0, 0]
  let h := if fits then setSreg (setLocals h m (sp - 80) (words.flatMap (leBytes 4))) m 2 (sp - 80) else h
  let tvec := scsr h m 0x305
  let pc := tvec / 4 * 4 + (if tvec % 4 == 1 && bit code 31 then 4 * (code % 2 ^ 31) else 0)
  let k := smallOf h m
  setSmall h m { k with pc := BitVec.ofNat 32 pc, user := false, frames := (!fits, line) :: k.frames }

/-- A gate's sequencer runs unless no partition owns the gate, its logic is retired, its partition is in reset, an update holds it, or M7
holds the gate (R22, R87, R94, R134, R555). -/
def sequencerRuns (h : Hw) (g : Nat) : Bool := (ownerGate h g).isSome && !(gateOf h g).retired && !ownerResets h g && !seqHeld h g && modeNow h != 7

/-- Small cores run while their die is powered: Kydin in every mode, and H0's core, once it has been loaded, in M1 and early M2 too (R71,
R566; log 26). -/
def smallRuns (h : Hw) (m : Nat) : Bool :=
  m == coreKydin || (m == 64 && modeNow h != 0 && h.cor.small.any fun e => e.1 == 64) ||
    (gridPowered h && (decide (64 ≤ m) || sequencerRuns h m))

/-- The interrupt lines of a core (R530). -/
def linesUsed (m : Nat) : Nat := if m < 64 then 8 else if m < coreKydin then 3 else 6

/-- The interrupt that a core takes next, by its code: the lowest line that waits in mip with its bit of mie set, while interrupts are enabled
and over a handler of a higher line only (R386, R530). DESIGN CHOICE: an interrupt has a code below 32, and its line is the code's low four
bits (log 26). -/
def smallIrq (h : Hw) (m : Nat) : Option Nat :=
  let k := smallOf h m
  let on := (scsr h m 0x344).land (scsr h m 0x304)
  if k.user || bit (scsr h m 0x300) 3 then
    let top := match k.frames with | (_, l) :: _ => l | [] => 16
    match (List.range (min top (linesUsed m))).find? fun l => bit on l || bit on (16 + l) with
    | some l => some (if bit on l then l else 16 + l)
    | none => none
  else none

/-- The interrupt of a code enters its handler, and its line waits no more. -/
def smallInterrupt (h : Hw) (m code tval : Nat) : Hw :=
  bumpSmall (smallTrap (setScsr h m 0x344 (setBit (scsr h m 0x344) code false)) m (2 ^ 31 + code) tval (code % 16)) m 0xB00 6

/-- MRET: the frame is popped, but not from a stacking fault's handler; an sp that holds no frame is a stacking fault of the MRET (R389,
R390; log 26). -/
def smallMret (h : Hw) (m : Nat) : Hw :=
  let k := smallOf h m
  let sp := sreg h m 2
  let plain := match k.frames with | (true, _) :: _ => true | _ => false
  if !plain && !frameFits m (sp + 80) then smallTrap h m 26 sp 16
  else
    let word := fun i => leNat ((List.range 4).map fun j => localByte h m (sp + 4 * i + j))
    let h := if plain then h
      else
        let h := frameRegs.zipIdx.foldl (fun h (r, i) => setSreg h m r (word i)) h
        setSreg (setScsr (setScsr h m 0x341 (word 16 / 2 * 2)) m 0x300 (word 17)) m 2 (sp + 80)
    let st := scsr h m 0x300
    let user := bits st 12 11 != 3
    let st' := setBit (setBit st 3 (bit st 7)) 7 true
    let st' := st' - bits st' 12 11 * 2048
    let st' := if user then setBit st' 17 false else st'
    let h := setScsr h m 0x300 st'
    let k := smallOf h m
    setSmall h m { k with pc := BitVec.ofNat 32 (scsr h m 0x341), user := user, frames := k.frames.drop 1 }

/-! ### Instructions (R386 to R388, R391, R392) -/

/-- What an instruction leaves: the state, the next pc, the cycles, or the exception it raises. -/
structure SmallOut where
  s : State
  next : Nat
  cycles : Nat := 1
  trap : Option (Nat × Nat) := none
  /-- the instruction set the pc itself -/
  moved : Bool := false
  wrote : Option Nat := none

def ssx (m i : Nat) (o : SmallOut) : Nat := sreg o.s.hw m i
def SmallOut.put (o : SmallOut) (m i v : Nat) : SmallOut := { o with s := o.s.upd fun h => setSreg h m i v }
def SmallOut.stop (o : SmallOut) (cause tval : Nat) : SmallOut := { o with trap := some (cause, tval) }

/-- The mode of loads and stores. -/
def smallUser (h : Hw) (m : Nat) : Bool :=
  let st := scsr h m 0x300
  if !(smallOf h m).user && bit st 17 then bits st 12 11 != 3 else (smallOf h m).user

/-- The accesses of a load or store: an aligned one alone, a misaligned one as two, each an address and a length (R391). -/
def halvesOf (a n : Nat) : List (Nat × Nat) :=
  if a % n == 0 then [(a, n)] else [(a, n - a % n), ((a + n - a % n) % 2 ^ 32, a % n)]

/-- The first of the accesses that the PMP refuses (R386, R391). -/
def refusedHalf (h : Hw) (m : Nat) (acc : Access) (a n : Nat) : Option Nat :=
  ((halvesOf a n).find? fun x => !spmpAllows h m (smallUser h m) acc x.1 x.2).map (·.1)

/-- A load: local, misaligned ones as two accesses; device memory aligned only (R387, R391, R392). -/
def smallLoad (m rd a n : Nat) (signed : Bool) (o : SmallOut) : SmallOut :=
  let h := o.s.hw
  let ext := fun v => if signed then sext (8 * n) 32 v else v
  if a % n != 0 && !allLocal m a n then o.stop 5 a
  else if (refusedHalf h m .load a n).isSome then o.stop 5 ((refusedHalf h m .load a n).getD a)
  else if allLocal m a n then
    let v := leNat ((List.range n).map fun i => localByte h m (a + i))
    { o.put m rd (ext v) with cycles := if a % n == 0 then 2 else 4 }
  else
    let (h, r) := portLoad h o.s.mem m a n
    let (k, h) := takeFree h
    let o := { o with s := { o.s with hw := h }, cycles := 2 + Config.freeNat k }
    match r with
    | none => o.stop 5 a
    | some (bs, pz) =>
      match pz.findIdx? id with
      | some i => o.stop 24 (a + i)
      | none => o.put m rd (ext (leNat bs))

/-- The bytes of a local store that come before the access the PMP refuses, all of them where it refuses none (R391). -/
def storedBytes (h : Hw) (m a n v : Nat) : List Byte :=
  (leBytes n v).take (match refusedHalf h m .store a n with | some x => if x == a then 0 else n - a % n | none => n)

/-- A store: local, misaligned ones as two accesses, of which the first stands where the second is refused; device memory aligned only
(R391, R392). -/
def smallStore (m a n v : Nat) (o : SmallOut) : SmallOut :=
  let h := o.s.hw
  if a % n != 0 && !allLocal m a n then o.stop 7 a
  else if allLocal m a n then
    let o := { o with s := o.s.upd fun h => setLocals h m a (storedBytes h m a n v), cycles := if a % n == 0 then 1 else 2 }
    match refusedHalf h m .store a n with
    | some x => o.stop 7 x
    | none => o
  else if (refusedHalf h m .store a n).isSome then o.stop 7 a
  else
    let (s, ok) := portStore m a (leBytes n v) o.s
    let (k, h) := takeFree s.hw
    let o := { o with s := { s with hw := h }, cycles := 2 + Config.freeNat k }
    if ok then o else o.stop 7 a

/-- A branch with its prediction (R387, R388). -/
def smallBranch (pc off : Nat) (taken : Option Bool) (guess : Bool) (word : Nat) (o : SmallOut) : SmallOut :=
  match taken with
  | none => o.stop 2 word
  | some t => { o with next := if t then (pc + off) % 2 ^ 32 else o.next, cycles := if t != guess then 3 else if t then 2 else 1 }

/-- The offset of a hinted branch: imm[11] is imm[12] (R388). -/
def hintedOff (w : Nat) : Nat :=
  sext 13 32 (bits w 31 31 * 4096 + bits w 31 31 * 2048 + bits w 30 25 * 32 + bits w 11 8 * 2)

/-- CSR instructions. -/
def smallCsr (m w : Nat) (o : SmallOut) : SmallOut :=
  let h := o.s.hw
  let n := bits w 31 20
  let f3 := rvF3 w
  let v := if 4 ≤ f3 then rvRs1 w else ssx m (rvRs1 w) o
  let write := f3 % 4 == 1 || rvRs1 w != 0
  if !scsrExists n || (write && bits n 11 10 == 3) || (smallOf h m).user then o.stop 2 w
  else
    let old := scsrRead h m n
    let new := match f3 % 4 with | 1 => v | 2 => old.lor v | _ => old - old.land v
    let o := if write then { o with s := o.s.upd fun h => scsrWrite h m n new, wrote := some (n % 128) } else o
    o.put m (rvRd w) old

/-- SYSTEM: environment calls, breakpoints, MRET, WFI and CSR instructions. -/
def smallSystem (m w : Nat) (o : SmallOut) : SmallOut :=
  let k := smallOf o.s.hw m
  if rvF3 w == 4 then o.stop 2 w
  else if rvF3 w != 0 then smallCsr m w o
  else
    match w with
    | 0x00000073 => o.stop (if k.user then 8 else 11) 0
    | 0x00100073 => o.stop 3 k.pc.toNat
    | 0x30200073 => if k.user then o.stop 2 w else { o with s := o.s.upd fun h => smallMret h m, cycles := 6, moved := true }
    | 0x10500073 => if k.user && bit (scsr o.s.hw m 0x300) 21 then o.stop 2 w else o
    | _ => o.stop 2 w

/-- A 32-bit instruction. `word` is what mtval holds of an illegal one. -/
def smallBody (m w word : Nat) (o : SmallOut) : SmallOut :=
  let pc := (smallOf o.s.hw m).pc.toNat
  let rd := rvRd w
  let a := ssx m (rvRs1 w) o
  let b := ssx m (rvRs2 w) o
  let f3 := rvF3 w
  let put := fun (v : Option Nat) => match v with | some v => o.put m rd v | none => o.stop 2 word
  match w % 128 with
  | 0x37 => o.put m rd (immU 32 w)
  | 0x17 => o.put m rd ((pc + immU 32 w) % 2 ^ 32)
  | 0x13 => put (aluImm 32 false w a)
  | 0x33 => { put (aluOp 32 false (rvF7 w) f3 (rvRs2 w) a b) with cycles := if rvF7 w == 1 then (if f3 < 4 then 2 else 17) else 1 }
  | 0x6F => { o.put m rd o.next with next := (pc + immJ 32 w) % 2 ^ 32, cycles := 2 }
  | 0x67 => if f3 != 0 then o.stop 2 word else { o.put m rd o.next with next := (a + immI 32 w) % 2 ^ 32 / 2 * 2, cycles := 3 }
  | 0x63 => smallBranch pc (immB 32 w) (branchTaken 32 f3 a b) (bit w 31) word o
  | 0x7B => smallBranch pc (hintedOff w) (branchTaken 32 f3 a b) (bit w 7) word o
  | 0x03 =>
    if f3 == 3 || 6 ≤ f3 then o.stop 2 word
    else smallLoad m rd ((a + immI 32 w) % 2 ^ 32) (2 ^ (f3 % 4)) (decide (f3 < 4)) o
  | 0x23 => if 3 ≤ f3 then o.stop 2 word else smallStore m ((a + immS 32 w) % 2 ^ 32) (2 ^ f3) b o
  | 0x0F =>
    if f3 == 0 then o
    else if f3 == 1 then { o with s := o.s.upd fun h => setSmall h m { smallOf h m with view := [] } }
    else o.stop 2 word
  | 0x73 => smallSystem m w o
  | _ => o.stop 2 word

/-- The old form that a byte still has for the core's fetches (R392). -/
def oldForm (h : Hw) (m a : Nat) : Option Byte := ((smallOf h m).view.find? (·.1 == a % 2 ^ 32)).map (·.2)

/-- Bytes as the core fetches them: what it has stored over since FENCE.I in its old form, and the rest as local SRAM or memory has it (R386,
R392). -/
def fetchBytes (h : Hw) (mem : Mem) (m a n : Nat) : Hw × Option (List Byte × Bool) :=
  if allLocal m a n then (h, some ((List.range n).map fun i => (oldForm h m (a + i)).getD (localByte h m (a + i)), false))
  else
    let pa := (Config.portAddr m a).toNat
    if !isNormal h pa then (recordBusError h m pa, none)
    else
      match agentRead h mem (askerOf h (smallWho h m)) pa n with
      | (h, true, bs, pz) =>
        (h, some (bs.zipIdx.map fun (b, i) => (oldForm h m (a + i)).getD b, pz.zipIdx.any fun (z, i) => z && (oldForm h m (a + i)).isNone))
      | (h, false, _, _) => (recordBusError h m pa, none)

/-- The first half of a misaligned local store that stands at the pc: it may have been performed when an interrupt falls between the halves,
and the whole store is executed again on return (R391). -/
def firstHalf (h : Hw) (mem : Mem) (m : Nat) : Hw :=
  let pc := (smallOf h m).pc.toNat
  match (fetchBytes h mem m pc 2).2, (fetchBytes h mem m pc 4).2 with
  | some (b2, false), w4 =>
    let w := if isComp (leNat b2) then some (leNat b2) else match w4 with | some (b4, false) => some (leNat b4) | _ => none
    match w.bind (expand false) with
    | some w =>
      let n := 2 ^ rvF3 w
      let a := (sreg h m (rvRs1 w) + immS 32 w) % 2 ^ 32
      if w % 128 == 0x23 && decide (rvF3 w < 3) && a % n != 0 && allLocal m a n then
        let (k, h) := takeFree h
        if Config.freeBool k then setLocals h m a ((storedBytes h m a n (sreg h m (rvRs2 w))).take (n - a % n)) else h
      else h
    | none => h
  | _, _ => h

/-- An interrupt line fires: it waits in mip until the core takes it, which it does at once where nothing holds it back; a line that is not in use
never fires (R530). -/
def smallLine (h : Hw) (mem : Mem) (m code tval : Nat) : Hw :=
  if 32 ≤ code || linesUsed m ≤ code % 16 then h
  else
    let h := setScsr h m 0x344 (setBit (scsr h m 0x344) code true)
    match smallIrq h m with
    | some c => smallInterrupt (firstHalf h mem m) m c (if c == code then tval else 0)
    | none => h

/-- SMALL_CORE_TRAP: an interrupt line fires, or an exception enters its handler at once (R389 to R391, R530; log 26). -/
def execSmallCoreTrap (m : Fin 69) (cause : BitVec 32) (tval : BitVec 32) (s : State) : Host.Outcome State Fault Refusal :=
  .next (s.upd fun h =>
    if !smallRuns h m.val then h
    else if !bit cause.toNat 31 then bumpSmall (smallTrap h m.val cause.toNat tval.toNat 16) m.val 0xB00 6
    else smallLine h s.mem m.val (cause.toNat % 2 ^ 31) tval.toNat)

/-- One instruction of a small core: the command names the word, which is what the core fetches at its pc (R392); any other word is not
its next instruction, and nothing happens. An interrupt that waits and may be taken goes first (R530). -/
def smallStep (m word : Nat) (s : State) : State :=
  let h := s.hw
  let k := smallOf h m
  let pc := k.pc.toNat
  let n := if isComp word then 2 else 4
  let trap := fun (s : State) (cause tval cycles : Nat) => s.upd fun h => bumpSmall (smallTrap h m cause tval 16) m 0xB00 (cycles + 6)
  if !smallRuns h m then s
  else if (smallIrq h m).isSome then s.upd fun h => smallInterrupt h m ((smallIrq h m).getD 0) 0
  else if !spmpAllows h m k.user .fetch pc n then trap s 1 pc 0
  else
    match fetchBytes h s.mem m pc n with
    | (h, none) => trap { s with hw := h } 1 pc 0
    | (h, some (_, true)) => trap { s with hw := h } 25 pc 0
    | (h, some (bs, false)) =>
      let w := word % 2 ^ (8 * n)
      if leNat bs != w then s
      else
        let start : SmallOut := { s := { s with hw := h }, next := (pc + n) % 2 ^ 32 }
        let o := match expand false w with | some w32 => smallBody m w32 w start | none => start.stop 2 w
        match o.trap with
        | some (c, t) => trap o.s c t o.cycles
        | none =>
          let s := if o.moved then o.s else o.s.upd fun h => setSmall h m { smallOf h m with pc := BitVec.ofNat 32 o.next }
          s.upd fun h =>
            let h := if o.wrote == some 0 then h else bumpSmall h m 0xB00 o.cycles
            if o.wrote == some 2 then h else bumpSmall h m 0xB02 1

/-- SMALL_CORE_INSTRUCTION (R386, R387, R391, R392). -/
def execSmallCoreInstruction (m : Fin 69) (word : BitVec 32) (s : State) : Host.Outcome State Fault Refusal :=
  .next (smallStep m.val word.toNat s)

/-- HINTED_BRANCH: a word of the custom-3 opcode (R388). -/
def execHintedBranch (m : Fin 69) (word : BitVec 32) (s : State) : Host.Outcome State Fault Refusal :=
  .next (if word.toNat % 128 == 0x7B then smallStep m.val word.toNat s else s)

/-- SMALL_CORE_MRET: as an MRET instruction of M-mode (R389, R390). -/
def execSmallCoreMret (m : Fin 69) (s : State) : Host.Outcome State Fault Refusal :=
  .next (s.upd fun h =>
    if smallRuns h m.val && !(smallOf h m.val).user then bumpSmall (smallMret h m.val) m.val 0xB00 6 else h)

end Sys2Proof.Machine
end

