-- ==== Sys2Proof/Machine/Timing.lean ====
section
/-!
DEFINITION. The crossing clock: measurement, lock, crossing number, turn count and the markers they cause.
-/

namespace Sys2Proof.Machine

/-- 1,024 seconds over one period in 1/64 gate cycle: the span of 1,024 periods times CLKX_HZ (R163). -/
def spanTarget : Nat := 1024 * 102400000000

/-- Whether the span of the last 1,024 periods lies within `ppm` of 1,024 ÷ CLKX_HZ; none where fewer have been counted (R163). -/
def spanWithin (h : Hw) (ppm : Nat) : Option Bool :=
  match h.tim.edges with
  | now :: _ =>
    if h.tim.edges.length == 1025 then
      let span := (now - lget 0 h.tim.edges 1024) * fget h F_TIMING_CONFIG_CLKX_HZ
      let off := (span - spanTarget) + (spanTarget - span)
      some (decide (off * 1000000 ≤ ppm * spanTarget))
    else none
  | [] => none

/-- Least multiple of `u` that is at least `n`. -/
def ceilTo (n u : Nat) : Nat := (n + u - 1) / u * u

/-- The marker of the present crossing on a gate's downlinks, if one is due (R155 to R157). -/
def markerFor (h : Hw) (g : Nat) : Option Marker :=
  let rate := fget h F_GATE_CONFIG_RATE g
  let u := blockUnits rate
  let first := h.now * 125 + tdlUnits rate
  let due := ceilTo first u
  let x := fget h F_TIMING_STATUS_CROSSING
  let hz := fget h F_TIMING_CONFIG_CLKX_HZ
  let m : Marker := { isTurn := x == 0, crossing := x, turn := fget h F_TIMING_TURN_TURN, phase := 256 * (due - first) / u, due := due,
                      sent := 0 }
  if x == 0 then
    let v := gateOf h g
    let prev := match (v.markers.filter (·.isTurn)).getLast? with | some t => some t.due | none => v.lastTurn
    match prev with
    | some d => if due < d + 4 * u then none else some m
    | none => some m
  else
    let i := fget h F_GATE_CONFIG_MARK_INTERVAL g
    if i == 0 || hz == 0 then none
    else
      let every := i * max 1 (ceilTo (4 * u * hz) (i * 12800000000000) / (i * 12800000000000))
      let next := ceilTo (first + (perTurn h - x) * 12800000000000 / hz) u
      if x % every == 0 && due + 4 * u ≤ next then some m else none

/-- A MARK that has not gone out and is due less than four block periods before a TURN: it is not sent (R156). -/
def tooClose (h : Hw) (g : Nat) (turn x : Marker) : Bool :=
  turn.isTurn && !x.isTurn && x.sent == 0 && decide (turn.due < x.due + 4 * blockUnits (fget h F_GATE_CONFIG_RATE g))

/-- Schedule the markers of the present crossing on every READOUT gate whose downlinks run; a TURN that comes early
takes the place of a MARK too close before it (R156, R164). -/
def scheduleMarkers (h : Hw) : Hw :=
  (readoutGates h).foldl (fun h g =>
    if fget h F_GATE_CONFIG_PERSONALITY g == 1 && (List.range 16).any fun k => decide (1 ≤ laneState h g k) then
      match markerFor h g with
      | some m => let v := gateOf h g; setGate h g { v with markers := (v.markers.filter fun x => !tooClose h g m x) ++ [m] }
      | none => h
    else h) h

/-- The CLK_X lock is lost: counted, M4 and M6 stop being permitted, markers cease, periods count afresh, and in M4 or M6 the loss is
fatal (R73, R156, R163). -/
def loseLock (h : Hw) : Eff :=
  let h := { h with tim := { h.tim with edges := [], sinceTurn := none, errTurn := false } }
  let h := fset (fset h F_TIMING_STATUS_FREQ_OK 0) F_TIMING_STATUS_TURN_SEEN 0
  if fon h F_TIMING_STATUS_LOCKED then
    let h := fadd (fset h F_TIMING_STATUS_LOCKED 0) F_TIMING_STATUS_LOCK_LOSSES 1
    let h := refreshPermitted h
    let h := (List.range 64).foldl (fun h g =>
      if (gateOf h g).markers.isEmpty then h else setGate h g { gateOf h g with markers := [] }) h
    if modeNow h == 4 || modeNow h == 6 then
      fatal h blkTiming 0 (R_TIMING_STATUS.offset 0) (regVal h R_TIMING_STATUS) .clkxLock []
    else { hw := h }
  else { hw := h }

/-- The turn count at a TURN or at a gain of lock: VALUE where ARM is set, else as given; a
preset numbers the crossings anew, so that none is final before it is passed again (R165, R197; DESIGN CHOICE, log 59). -/
def setTurn (h : Hw) (v : Nat) : Hw :=
  if fon h F_TIMING_TURN_SET_ARM then
    let h := copies.foldl (fun h c => setCopy h c { copyOf h c with final := none }) h
    fset (fset h F_TIMING_TURN_TURN (fget h F_TIMING_TURN_SET_VALUE)) F_TIMING_TURN_SET_ARM 0
  else fset h F_TIMING_TURN_TURN v

/-- The crossing number advances; the answer tells whether a TURN error fell at this crossing, and whether a turn began (R164). -/
def advance (h : Hw) (turn : Bool) : Hw × Bool × Bool :=
  let x := fget h F_TIMING_STATUS_CROSSING + 1
  let t := fget h F_TIMING_TURN_TURN + 1
  let full := decide (perTurn h ≤ x)
  if turn then
    let h := setTurn (fset h F_TIMING_STATUS_CROSSING 0) t
    if full then (h, false, true) else (fadd h F_TIMING_STATUS_TURN_ERRS 1, true, true)
  else if full then
    (fadd (fset (fset h F_TIMING_STATUS_CROSSING 0) F_TIMING_TURN_TURN t) F_TIMING_STATUS_TURN_ERRS 1, true, true)
  else (fset h F_TIMING_STATUS_CROSSING x, false, false)

/-- What a crossing causes once it has its number: markers, the start of Avenue at a TURN, a waiting COMMIT, ACCEPT. -/
def crossingActs (h : Hw) (turn accept : Bool) : Hw :=
  let h := scheduleMarkers h
  let h := if turn && h.mod.aveWaitTurn && (modeNow h == 4 || modeNow h == 6) then startAvenue h else h
  let h := noteFinal h
  let h := match h.tim.aveStart with
    | some a => if startPassed h a then { h with tim := { h.tim with aveStart := none } } else h
    | none => h
  if accept then acceptInput h else h

/-- Gain of the CLK_X lock (R163, R165). -/
def gainLock (h : Hw) (k : Nat) : Hw :=
  let h := fset h F_TIMING_STATUS_CROSSING (k % perTurn h)
  let h := setTurn h (if h.tim.everLocked then fget h F_TIMING_TURN_TURN + 1 else 0)
  let h := { h with tim := { h.tim with everLocked := true, errTurn := false } }
  refreshPermitted (fset h F_TIMING_STATUS_LOCKED 1)

/-- A CLK_X rising edge at a module time (R163 to R166). -/
def clkEdge (h : Hw) (at64 : Nat) (turn accept : Bool) : Eff :=
  let gap := match h.tim.edges with | e :: _ => decide (e + 16384 < max h.now at64) | [] => false
  let e := if gap then loseLock h else { hw := h }
  e.bind fun h =>
    let now := max h.now at64
    let h := noteEdge (runTo h now)
    let since := if turn then some 0 else match h.tim.sinceTurn with
      | some k => if k < 1024 then some (k + 1) else none
      | none => none
    let h := { h with tim := { h.tim with edges := (now :: h.tim.edges).take 1025, sinceTurn := since } }
    let h := fset h F_TIMING_STATUS_PRESENT 1
    let h := fset h F_TIMING_STATUS_TURN_SEEN (b2n since.isSome)
    let h := fset h F_TIMING_STATUS_FREQ_OK (b2n (spanWithin h 50 == some true))
    let h := if turn then fset (fset h F_TIMING_TURN_TIME_CYCLES (now / 64)) F_TIMING_TURN_TIME_FRACTION (now % 64) else h
    if fon h F_TIMING_STATUS_LOCKED then
      if spanWithin h 100 == some false then loseLock h
      else
        let (h, err, ended) := advance h turn
        let twice := err && h.tim.errTurn
        let h := if ended then { h with tim := { h.tim with errTurn := err } } else h
        if twice then loseLock h else { hw := crossingActs h turn accept }
    else
      match since with
      | some k =>
        if spanWithin h 50 == some true then { hw := crossingActs (gainLock h k) turn accept } else { hw := h }
      | none => { hw := h }

/-- CLK_X_EDGE (R163 to R166). -/
def execClkXEdge (at64 : Nat) (turn accept : Bool) (s : State) : Host.Outcome State Fault Refusal :=
  .next (s.act fun h _ => clkEdge h at64 turn accept)

/-- CLK_X_GAP: no rising edge for 160 ns (R63, R163). -/
def execClkXGap (s : State) : Host.Outcome State Fault Refusal :=
  .next (s.act fun h _ => loseLock (fset h F_TIMING_STATUS_PRESENT 0))

end Sys2Proof.Machine
end

