-- ==== Sys2Proof/Machine/Dispatch.lean ====
section
/-!
DEFINITION. One arm per command: its meaning, or its name where it has none yet.
-/

namespace Sys2Proof.Machine

open Host

/-- The effect of a command on everything but the queue. -/
def exec (i : Instr) (s : State) : Host.Outcome State Fault Refusal :=
  match i with
  | .registerWrite who addr size data => Sys2Proof.Machine.execRegisterWrite who addr size data s
  | .noActionCommand who addr data => Sys2Proof.Machine.execNoActionCommand who addr data s
  | .powerGood modId bootSel vbatOk => Sys2Proof.Machine.execPowerGood modId bootSel vbatOk s
  | .inputValid inp mv => Sys2Proof.Machine.execInputValid inp mv s
  | .surge inp mv => Sys2Proof.Machine.execSurge inp mv s
  | .surgeLimitExpiry => Sys2Proof.Machine.execSurgeLimitExpiry s
  | .switchOver => Sys2Proof.Machine.execSwitchOver s
  | .switchOverComplete => Sys2Proof.Machine.execSwitchOverComplete s
  | .switchOverWaitEnd vin => Sys2Proof.Machine.execSwitchOverWaitEnd vin s
  | .holdUpExpiry => Sys2Proof.Machine.execHoldUpExpiry s
  | .limiterSample powerMw => Sys2Proof.Machine.execLimiterSample powerMw s
  | .supplyThresholdFall vin => Sys2Proof.Machine.execSupplyThresholdFall vin s
  | .supplyRecovered vin => Sys2Proof.Machine.execSupplyRecovered vin s
  | .regulatorFault rail => Sys2Proof.Machine.execRegulatorFault rail s
  | .moduleInsertion inserted => Sys2Proof.Machine.execModuleInsertion inserted s
  | .resetNPulse lenNs => Sys2Proof.Machine.execResetNPulse lenNs s
  | .moduleWarmReset cause => Sys2Proof.Machine.execModuleWarmReset cause s
  | .warmResetEnd modId bootSel => Sys2Proof.Machine.execWarmResetEnd modId bootSel s
  | .junctionThreshold milliC => Sys2Proof.Machine.execJunctionThreshold milliC s
  | .thermalStep => Sys2Proof.Machine.execThermalStep s
  | .thermalTrip milliC => Sys2Proof.Machine.execThermalTrip milliC s
  | .inletWarning milliC => Sys2Proof.Machine.execInletWarning milliC s
  | .clkXEdge at64 turn accept => Sys2Proof.Machine.execClkXEdge at64 turn accept s
  | .clkXGap => Sys2Proof.Machine.execClkXGap s
  | .jtagInstruction op => Sys2Proof.Machine.execJtagInstruction op s
  | .modeRequest who mode => Sys2Proof.Machine.execModeRequest who mode s
  | .modeTransitionEnd => Sys2Proof.Machine.execModeTransitionEnd s
  | .containEntry fatal => Sys2Proof.Machine.execContainEntry fatal s
  | .kydinFirmwareVerified => Sys2Proof.Machine.execKydinFirmwareVerified s
  | .startupStep st => Sys2Proof.Machine.execStartupStep st s
  | .imageSelection => Sys2Proof.Machine.execImageSelection s
  | .imageApplication misread => Sys2Proof.Machine.execImageApplication misread s
  | .startupComplete => Sys2Proof.Machine.execStartupComplete s
  | .bootCoreStart p => Sys2Proof.Machine.execBootCoreStart p s
  | .partitionReset who clearMem start => Sys2Proof.Machine.execPartitionReset who clearMem start s
  | .partitionResetRelease p => Sys2Proof.Machine.execPartitionResetRelease p s
  | .squareReset who sq => Sys2Proof.Machine.execSquareReset who sq s
  | .gateReset who g => Sys2Proof.Machine.execGateReset who g s
  | .bootCommit who => Sys2Proof.Machine.execBootCommit who s
  | .bootOnceSlotA who => Sys2Proof.Machine.execBootOnceSlotA who s
  | .bootOnceSlotB who => Sys2Proof.Machine.execBootOnceSlotB who s
  | .verifySlotA who => Sys2Proof.Machine.execVerifySlotA who s
  | .verifySlotB who => Sys2Proof.Machine.execVerifySlotB who s
  | .microcodeLoad q => Sys2Proof.Machine.execMicrocodeLoad q s
  | .seqFirmwareLoad g => Sys2Proof.Machine.execSeqFirmwareLoad g s
  | .dataBlock g k sync raw => Sys2Proof.Machine.execDataBlock g k sync raw s
  | .uplinkIdle g k check => Sys2Proof.Machine.execUplinkIdle g k check s
  | .align g k body check phase => Sys2Proof.Machine.execAlign g k body check phase s
  | .status g k body check => Sys2Proof.Machine.execStatus g k body check s
  | .ack g k body check => Sys2Proof.Machine.execAck g k body check s
  | .feLoss g k body check => Sys2Proof.Machine.execFeLoss g k body check s
  | .downlinkBlockSlot g k => Sys2Proof.Machine.execDownlinkBlockSlot g k s
  | .gateDlCmd who g lane opcode arg => Sys2Proof.Machine.execGateDlCmd who g lane opcode arg s
  | .dlTimeout g => Sys2Proof.Machine.execDlTimeout g s
  | .trainingSendAlign g k => Sys2Proof.Machine.execTrainingSendAlign g k s
  | .trainingWindowEnd g k => Sys2Proof.Machine.execTrainingWindowEnd g k s
  | .trainingTimeout g k => Sys2Proof.Machine.execTrainingTimeout g k s
  | .trainingRetry g k => Sys2Proof.Machine.execTrainingRetry g k s
  | .recal who g k => Sys2Proof.Machine.execRecal who g k s
  | .recalDone g k => Sys2Proof.Machine.execRecalDone g k s
  | .retrain who g k => Sys2Proof.Machine.execRetrain who g k s
  | .bgAdaptStep g k moves => Sys2Proof.Machine.execBgAdaptStep g k moves s
  | .takeover who g => Sys2Proof.Machine.execTakeover who g s
  | .takeoverComplete g ownAcks partnerAcks => Sys2Proof.Machine.execTakeoverComplete g ownAcks partnerAcks s
  | .release who g => Sys2Proof.Machine.execRelease who g s
  | .stretchExpiry idx copies => Sys2Proof.Machine.execStretchExpiry idx copies s
  | .matchIn level => Sys2Proof.Machine.execMatchIn level s
  | .acceptanceFinal => Sys2Proof.Machine.execAcceptanceFinal s
  | .trigQualVerdict => Sys2Proof.Machine.execTrigQualVerdict s
  | .aveCommit who => Sys2Proof.Machine.execAveCommit who s
  | .aveDiscard who => Sys2Proof.Machine.execAveDiscard who s
  | .copyExclude who off => Sys2Proof.Machine.execCopyExclude who off s
  | .mtWrite who g addr => Sys2Proof.Machine.execMtWrite who g addr s
  | .mtRead who g addr copy => Sys2Proof.Machine.execMtRead who g addr copy s
  | .mtInsert who g addr => Sys2Proof.Machine.execMtInsert who g addr s
  | .insertComplete g => Sys2Proof.Machine.execInsertComplete g s
  | .mtInvalidate who g addr => Sys2Proof.Machine.execMtInvalidate who g addr s
  | .mtScrubStep g => Sys2Proof.Machine.execMtScrubStep g s
  | .matrixScrubStep => Sys2Proof.Machine.execMatrixScrubStep s
  | .fragmentSlot q => Sys2Proof.Machine.execFragmentSlot q s
  | .acceptanceStamp => Sys2Proof.Machine.execAcceptanceStamp s
  | .openMsg g => Sys2Proof.Machine.execOpenMsg g s
  | .dropMsg g => Sys2Proof.Machine.execDropMsg g s
  | .fragmentWrite g => Sys2Proof.Machine.execFragmentWrite g s
  | .frag g => Sys2Proof.Machine.execFrag g s
  | .assemblyTimeout p evseq => Sys2Proof.Machine.execAssemblyTimeout p evseq s
  | .assemblyCancel g => Sys2Proof.Machine.execAssemblyCancel g s
  | .eventEnqueue p evseq => Sys2Proof.Machine.execEventEnqueue p evseq s
  | .enqueueRetry p => Sys2Proof.Machine.execEnqueueRetry p s
  | .getWork who p n => Sys2Proof.Machine.execGetWork who p n s
  | .addWork who p n => Sys2Proof.Machine.execAddWork who p n s
  | .doneWork who p n keep skip => Sys2Proof.Machine.execDoneWork who p n keep skip s
  | .cancel who p n => Sys2Proof.Machine.execCancel who p n s
  | .freeEvent who p n => Sys2Proof.Machine.execFreeEvent who p n s
  | .flush who p n => Sys2Proof.Machine.execFlush who p n s
  | .releaseActionRetry f => Sys2Proof.Machine.execReleaseActionRetry f s
  | .actionComplete f => Sys2Proof.Machine.execActionComplete f s
  | .overflowRefill f => Sys2Proof.Machine.execOverflowRefill f s
  | .tick => Sys2Proof.Machine.execTick s
  | .timedItemDue list => Sys2Proof.Machine.execTimedItemDue list s
  | .reclaim who p => Sys2Proof.Machine.execReclaim who p s
  | .dramRead q req qa errs => Sys2Proof.Machine.execDramRead q req qa errs s
  | .dramWrite q req qa data mask poison => Sys2Proof.Machine.execDramWrite q req qa data mask poison s
  | .markWindowStart q => Sys2Proof.Machine.execMarkWindowStart q s
  | .scrubStep q errs => Sys2Proof.Machine.execScrubStep q errs s
  | .markChannel who q ch => Sys2Proof.Machine.execMarkChannel who q ch s
  | .resilver who q => Sys2Proof.Machine.execResilver who q s
  | .channelRetrain who q ch => Sys2Proof.Machine.execChannelRetrain who q ch s
  | .scrubPass who q => Sys2Proof.Machine.execScrubPass who q s
  | .pauseRs who q => Sys2Proof.Machine.execPauseRs who q s
  | .resumeRs who q => Sys2Proof.Machine.execResumeRs who q s
  | .resilverStep q => Sys2Proof.Machine.execResilverStep q s
  | .driftRetrain q ch => Sys2Proof.Machine.execDriftRetrain q ch s
  | .retrainDone q ok => Sys2Proof.Machine.execRetrainDone q ok s
  | .catchupStep q => Sys2Proof.Machine.execCatchupStep q s
  | .engQpSubmit who q qp addr => Sys2Proof.Machine.execEngQpSubmit who q qp addr s
  | .jobStart q => Sys2Proof.Machine.execJobStart q s
  | .jobCommit q handle => Sys2Proof.Machine.execJobCommit q handle s
  | .abort who q qp handle => Sys2Proof.Machine.execAbort who q qp handle s
  | .jobAbortComplete q handle => Sys2Proof.Machine.execJobAbortComplete q handle s
  | .jobTimeout q handle => Sys2Proof.Machine.execJobTimeout q handle s
  | .engineReset who q => Sys2Proof.Machine.execEngineReset who q s
  | .exchBindTimeout q handle => Sys2Proof.Machine.execExchBindTimeout q handle s
  | .exchFlit q sender ch flit => Sys2Proof.Machine.execExchFlit q sender ch flit s
  | .exchCredit q ch flits => Sys2Proof.Machine.execExchCredit q ch flits s
  | .instruction c word => Sys2Proof.Machine.execInstruction c word s
  | .laneLd c rd rs1 => Sys2Proof.Machine.execLaneLd c rd rs1 s
  | .laneSt c rs1 rs2 => Sys2Proof.Machine.execLaneSt c rs1 rs2 s
  | .laneMk c rd rs1 rs2 => Sys2Proof.Machine.execLaneMk c rd rs1 rs2 s
  | .laneTag c rd rs1 => Sys2Proof.Machine.execLaneTag c rd rs1 s
  | .xrGet c rd rs1 => Sys2Proof.Machine.execXrGet c rd rs1 s
  | .xrAdd c rd rs1 rs2 => Sys2Proof.Machine.execXrAdd c rd rs1 rs2 s
  | .xrDone c rd rs1 rs2 => Sys2Proof.Machine.execXrDone c rd rs1 rs2 s
  | .wcall c => Sys2Proof.Machine.execWcall c s
  | .wret c => Sys2Proof.Machine.execWret c s
  | .wgate c rs1 => Sys2Proof.Machine.execWgate c rs1 s
  | .wmark c => Sys2Proof.Machine.execWmark c s
  | .secureInterruptEntry c => Sys2Proof.Machine.execSecureInterruptEntry c s
  | .machineTimer c => Sys2Proof.Machine.execMachineTimer c s
  | .start who c secure => Sys2Proof.Machine.execStart who c secure s
  | .smallCoreTrap m cause tval => Sys2Proof.Machine.execSmallCoreTrap m cause tval s
  | .smallCoreMret m => Sys2Proof.Machine.execSmallCoreMret m s
  | .hintedBranch m word => Sys2Proof.Machine.execHintedBranch m word s
  | .readShared c line err => Sys2Proof.Machine.execReadShared c line err s
  | .readUnique c line => Sys2Proof.Machine.execReadUnique c line s
  | .upgrade c line => Sys2Proof.Machine.execUpgrade c line s
  | .wbDirty c line => Sys2Proof.Machine.execWbDirty c line s
  | .wbClean c line => Sys2Proof.Machine.execWbClean c line s
  | .snpShared c line => Sys2Proof.Machine.execSnpShared c line s
  | .snpUnique c line => Sys2Proof.Machine.execSnpUnique c line s
  | .snpOnce c line => Sys2Proof.Machine.execSnpOnce c line s
  | .snpClean c line => Sys2Proof.Machine.execSnpClean c line s
  | .snpInval c line => Sys2Proof.Machine.execSnpInval c line s
  | .completionAck c line => Sys2Proof.Machine.execCompletionAck c line s
  | .retry c line => Sys2Proof.Machine.execRetry c line s
  | .grant k => Sys2Proof.Machine.execGrant k s
  | .prefetchOffer k line => Sys2Proof.Machine.execPrefetchOffer k line s
  | .ioRead agent addr len => Sys2Proof.Machine.execIoRead agent addr len s
  | .ioWrite agent addr data => Sys2Proof.Machine.execIoWrite agent addr data s
  | .clean who c => Sys2Proof.Machine.execClean who c s
  | .inval who c => Sys2Proof.Machine.execInval who c s
  | .cleanInval who c => Sys2Proof.Machine.execCleanInval who c s
  | .swClean who c target => Sys2Proof.Machine.execSwClean who c target s
  | .swInval who c target => Sys2Proof.Machine.execSwInval who c target s
  | .swCleanInval who c target => Sys2Proof.Machine.execSwCleanInval who c target s
  | .lockLines who c => Sys2Proof.Machine.execLockLines who c s
  | .unlockLines who c => Sys2Proof.Machine.execUnlockLines who c s
  | .cacheDisable who which k => Sys2Proof.Machine.execCacheDisable who which k s
  | .cacheCleanDone which k => Sys2Proof.Machine.execCacheCleanDone which k s
  | .setSp who k n => Sys2Proof.Machine.execSetSp who k n s
  | .setLock who k n => Sys2Proof.Machine.execSetLock who k n s
  | .retireWay who k n => Sys2Proof.Machine.execRetireWay who k n s
  | .wayWindowStart k => Sys2Proof.Machine.execWayWindowStart k s
  | .snoopTimeout c line => Sys2Proof.Machine.execSnoopTimeout c line s
  | .fillTimeout c line => Sys2Proof.Machine.execFillTimeout c line s
  | .flit r inPort sideband payload err => Sys2Proof.Machine.execFlit r inPort sideband payload err s
  | .sleepAgents who r => Sys2Proof.Machine.execSleepAgents who r s
  | .sleepSquare who r => Sys2Proof.Machine.execSleepSquare who r s
  | .strWake who r => Sys2Proof.Machine.execStrWake who r s
  | .idleSleep sq => Sys2Proof.Machine.execIdleSleep sq s
  | .drainDone sq => Sys2Proof.Machine.execDrainDone sq s
  | .drainTimeout sq => Sys2Proof.Machine.execDrainTimeout sq s
  | .powerOff sq => Sys2Proof.Machine.execPowerOff sq s
  | .packetWake sq => Sys2Proof.Machine.execPacketWake sq s
  | .powerUpDone sq => Sys2Proof.Machine.execPowerUpDone sq s
  | .retire who r => Sys2Proof.Machine.execRetire who r s
  | .retireAll who r => Sys2Proof.Machine.execRetireAll who r s
  | .restore who r => Sys2Proof.Machine.execRestore who r s
  | .fenceDrainDone => Sys2Proof.Machine.execFenceDrainDone s
  | .fenceDrainTimeout => Sys2Proof.Machine.execFenceDrainTimeout s
  | .traceRecord r => Sys2Proof.Machine.execTraceRecord r s
  | .pwrSleep who p kind u => Sys2Proof.Machine.execPwrSleep who p kind u s
  | .pwrWake who p kind u => Sys2Proof.Machine.execPwrWake who p kind u s
  | .bandwidthWindow => Sys2Proof.Machine.execBandwidthWindow s
  | .quotaWrite who p kind limit => Sys2Proof.Machine.execQuotaWrite who p kind limit s
  | .tsRequest who n addr => Sys2Proof.Machine.execTsRequest who n addr s
  | .seal n => Sys2Proof.Machine.execSeal n s
  | .unseal n => Sys2Proof.Machine.execUnseal n s
  | .keyGen n => Sys2Proof.Machine.execKeyGen n s
  | .keySign n => Sys2Proof.Machine.execKeySign n s
  | .keyDel n => Sys2Proof.Machine.execKeyDel n s
  | .attest n => Sys2Proof.Machine.execAttest n s
  | .extend n => Sys2Proof.Machine.execExtend n s
  | .cert n => Sys2Proof.Machine.execCert n s
  | .quotaSet n => Sys2Proof.Machine.execQuotaSet n s
  | .reclaimSp n => Sys2Proof.Machine.execReclaimSp n s
  | .tsWatchdog => Sys2Proof.Machine.execTsWatchdog s
  | .tsRequestTimeout n => Sys2Proof.Machine.execTsRequestTimeout n s
  | .perstDeassert => Sys2Proof.Machine.execPerstDeassert s
  | .functionsReady => Sys2Proof.Machine.execFunctionsReady s
  | .configRequest fn write dword data => Sys2Proof.Machine.execConfigRequest fn write dword data s
  | .inboundTlp fn write bar offset len data ep => Sys2Proof.Machine.execInboundTlp fn write bar offset len data ep s
  | .winCommit who fn => Sys2Proof.Machine.execWinCommit who fn s
  | .winDiscard who fn => Sys2Proof.Machine.execWinDiscard who fn s
  | .outboundAccess who addr write len data ep => Sys2Proof.Machine.execOutboundAccess who addr write len data ep s
  | .outboundReadIssue fn => Sys2Proof.Machine.execOutboundReadIssue fn s
  | .completionTlp tag status data ep => Sys2Proof.Machine.execCompletionTlp tag status data ep s
  | .completionTimeout tag => Sys2Proof.Machine.execCompletionTimeout tag s
  | .tagQuarantineEnd tag => Sys2Proof.Machine.execTagQuarantineEnd tag s
  | .hostHandoff fn bufs => Sys2Proof.Machine.execHostHandoff fn bufs s
  | .handoffAck fn => Sys2Proof.Machine.execHandoffAck fn s
  | .msixRaise who fn vector => Sys2Proof.Machine.execMsixRaise who fn vector s
  | .doorbell fn bits => Sys2Proof.Machine.execDoorbell fn bits s
  | .quiesce who fn => Sys2Proof.Machine.execQuiesce who fn s
  | .quiesceDone fn => Sys2Proof.Machine.execQuiesceDone fn s
  | .resume who fn => Sys2Proof.Machine.execResume who fn s
  | .flr fn => Sys2Proof.Machine.execFlr fn s
  | .fundamentalReset kind => Sys2Proof.Machine.execFundamentalReset kind s
  | .powerStateChange fn d3 => Sys2Proof.Machine.execPowerStateChange fn d3 s
  | .sync who fn => Sys2Proof.Machine.execSync who fn s
  | .bAlign g b count => Sys2Proof.Machine.execBAlign g b count s
  | .hello g b body => Sys2Proof.Machine.execHello g b body s
  | .helloPeriod g b => Sys2Proof.Machine.execHelloPeriod g b s
  | .helloTimeout g b => Sys2Proof.Machine.execHelloTimeout g b s
  | .blvdPacket g b start units end_ => Sys2Proof.Machine.execBlvdPacket g b start units end_ s
  | .blvdAck g b seq nak => Sys2Proof.Machine.execBlvdAck g b seq nak s
  | .credit g b tc0 tc1 tc2 tc3 => Sys2Proof.Machine.execCredit g b tc0 tc1 tc2 tc3 s
  | .replayTimeout g b => Sys2Proof.Machine.execReplayTimeout g b s
  | .remoteWrite who addr data poison => Sys2Proof.Machine.execRemoteWrite who addr data poison s
  | .routeWrite g b src arg0 arg1 => Sys2Proof.Machine.execRouteWrite g b src arg0 arg1 s
  | .routeRead g b src arg0 => Sys2Proof.Machine.execRouteRead g b src arg0 s
  | .nbrRead g b src arg0 => Sys2Proof.Machine.execNbrRead g b src arg0 s
  | .setAddr g b src arg0 arg1 => Sys2Proof.Machine.execSetAddr g b src arg0 arg1 s
  | .echo g b src arg0 arg1 => Sys2Proof.Machine.execEcho g b src arg0 arg1 s
  | .e2eAck src result arg0 arg1 => Sys2Proof.Machine.execE2eAck src result arg0 arg1 s
  | .e2eTimeout f => Sys2Proof.Machine.execE2eTimeout f s
  | .blvdFree who p addr => Sys2Proof.Machine.execBlvdFree who p addr s
  | .sourceEvent who idx => Sys2Proof.Machine.execSourceEvent who idx s
  | .clear who idx => Sys2Proof.Machine.execClear who idx s
  | .coalesceTimeout idx => Sys2Proof.Machine.execCoalesceTimeout idx s
  | .interruptCommit idx => Sys2Proof.Machine.execInterruptCommit idx s
  | .interruptMessage => Sys2Proof.Machine.execInterruptMessage s
  | .claim c queue => Sys2Proof.Machine.execClaim c queue s
  | .cfgReadback who idx => Sys2Proof.Machine.execCfgReadback who idx s
  | .gpiEdge n level => Sys2Proof.Machine.execGpiEdge n level s
  | .freeze who v => Sys2Proof.Machine.execFreeze who v s
  | .elogFlush => Sys2Proof.Machine.execElogFlush s
  | .snapshot => Sys2Proof.Machine.execSnapshot s
  | .lifetimeDaily ageing => Sys2Proof.Machine.execLifetimeDaily ageing s
  | .responseRead => Sys2Proof.Machine.execResponseRead s
  | .info path => Sys2Proof.Machine.execInfo path s
  | .mboxMode path mode => Sys2Proof.Machine.execMboxMode path mode s
  | .wake path => Sys2Proof.Machine.execWake path s
  | .dormant path => Sys2Proof.Machine.execDormant path s
  | .warmReset path => Sys2Proof.Machine.execWarmReset path s
  | .hold path set => Sys2Proof.Machine.execHold path set s
  | .supply path inp => Sys2Proof.Machine.execSupply path inp s
  | .slotErase path target => Sys2Proof.Machine.execSlotErase path target s
  | .slotWrite path target offset data => Sys2Proof.Machine.execSlotWrite path target offset data s
  | .slotVerify path target => Sys2Proof.Machine.execSlotVerify path target s
  | .mboxCommit path => Sys2Proof.Machine.execMboxCommit path s
  | .mboxBootOnce path slot => Sys2Proof.Machine.execMboxBootOnce path slot s
  | .component path addr len => Sys2Proof.Machine.execComponent path addr len s
  | .keyRevoke path slot pubkey signature => Sys2Proof.Machine.execKeyRevoke path slot pubkey signature s
  | .lifeRead path idx => Sys2Proof.Machine.execLifeRead path idx s
  | .elogRead path seq => Sys2Proof.Machine.execElogRead path seq s
  | .sensor path idx => Sys2Proof.Machine.execSensor path idx s
  | .rtc path set seconds => Sys2Proof.Machine.execRtc path set seconds s
  | .mboxRetire path kind u => Sys2Proof.Machine.execMboxRetire path kind u s
  | .mboxRestore path kind u => Sys2Proof.Machine.execMboxRestore path kind u s
  | .returnPrep path flags => Sys2Proof.Machine.execReturnPrep path flags s
  | .testChallenge path => Sys2Proof.Machine.execTestChallenge path s
  | .testUnlock path signature => Sys2Proof.Machine.execTestUnlock path signature s
  | .supplyThresholdRise vin => Sys2Proof.Machine.execSupplyThresholdRise vin s
  | .smallCoreInstruction m word => Sys2Proof.Machine.execSmallCoreInstruction m word s
  | .sequencerWatchdogExpiry g => Sys2Proof.Machine.execSequencerWatchdogExpiry g s
  | .dataLinkUp width speed => Sys2Proof.Machine.execDataLinkUp width speed s
  | .engineResetComplete q => Sys2Proof.Machine.execEngineResetComplete q s
  | .bundleSlotGroup g b => Sys2Proof.Machine.execBundleSlotGroup g b s
  | .outWidthEnd pin => Sys2Proof.Machine.execOutWidthEnd pin s

end Sys2Proof.Machine
end

