-- ==== Sys2Proof/Machine/Tick.lean ====
section
/-!
DEFINITION. What happens when no command waits: time passes.
-/

namespace Sys2Proof.Machine

/-- The steps in which module time counts: 64 gate cycles in M0 and M1, one elsewhere, in 1/64 gate cycle (R166). -/
def timeStep (h : Hw) : Nat := if modeNow h < 2 then 4096 else 64

/-- One step of module time passes, and a power-fail sequence that runs ends (R60, R166). DESIGN CHOICE: the table has no row for
either, so they stand on the empty queue; every other event that time brings about is a command of its own (log 4). -/
def idle (s : State) : State := s.act fun h _ =>
  let h := runTo h (h.now + timeStep h)
  if h.sup.powerFail then powerLost h else { hw := h }

end Sys2Proof.Machine
end

