-- ==== Sys2Proof/Safety.lean ====
section
/-!
DEFINITION. What counts as a safe step, and the words the statements use for the effect of a command.
-/

namespace Sys2Proof

open Machine

/-- A step that answers a next state, and which one. -/
def stepsTo (s t : State) : Prop := step s = .next t

/-- The command runs at a state, and its next state meets `P`. -/
def yields (c : Instr) (s : State) (P : State → Prop) : Prop := ∃ t, exec c s = .next t ∧ P t

/-- The command runs at a state and changes the hardware as `f` says: memory and the queue stay as they are. -/
def changes (c : Instr) (s : State) (f : Hw → Hw) : Prop := exec c s = .next { s with hw := f s.hw }

/-- The window of a register answers a requester that may write element `j` of instance `i` (R444, R566). -/
def accepts (s : State) (who : Requester) (r : Reg) (i j : Nat) : Prop :=
  served s.hw who r = true ∧ mayWrite s.hw who r i j = true

/-- Every field of every register reads in `t` as it read in `s`, but for those whose keys are named. -/
def onlyRegs (s t : Hw) (keys : List Nat) : Prop :=
  ∀ (f : Field) (i j : Nat), f.key i j ∉ keys → fget t f i j = fget s f i j

/-- Every register reads in `t` as it read in `s`, but for the fields named. -/
def onlyFields (s t : Hw) (fs : List Field) : Prop :=
  ∀ (f : Field) (i j : Nat), (∀ g ∈ fs, g.id ≠ f.id) → fget t f i j = fget s f i j

/-- Every byte of DRAM and of the scratchpads, and every poison marker, is as it was, and so is the queue. -/
def sameMemory (s t : State) : Prop := t.mem = s.mem ∧ t.pending = s.pending

/-- Every byte of DRAM outside `n` bytes from key `k`, and the scratchpads, are as they were. -/
def dramOutside (s t : State) (k n : Nat) : Prop :=
  (∀ a, a < k ∨ k + n ≤ a → t.mem.byte a = s.mem.byte a) ∧ t.mem.scratch = s.mem.scratch

/-- The quarter reads every beat of the line of `qa` as it stores it: no error, mark or loss hides a byte from a read-modify-write (R255,
R267). -/
def readsAsStored (s : State) (q qa : Nat) : Prop :=
  ∀ b, b < 4 → (s.mem.readBeat (dkey q (qa / 64 * 64) + 16 * b) (erasedAt s.hw q (qa / 256)) (qState s.hw q == qLost) []).data =
    s.mem.bytes (dkey q (qa / 64 * 64) + 16 * b) 16

/-- Core `c` runs, no interrupt goes before its next instruction, and `w` is the word it fetches; `r` is the instruction as it begins (R369,
R383, R446). -/
def executes (s : State) (c : Fin 160) (w : Nat) (r : CoreRun) : Prop :=
  coreRuns s.hw c.val = true ∧ securePending s.hw c.val = false ∧ takenInterrupt s.hw c.val = none ∧
  let pc := (coreOf s.hw c.val).pc.toNat
  let len := if isComp w then 2 else 4
  (checkFetch pc w).run { core := c.val, hw := s.hw, mem := s.mem, word := if isComp w then w % 65536 else w, pc := pc, next := (pc + len) % 2 ^ 64 } =
    .ok true r

/-- The state a core is in after an instruction that commits: all as `k` has it but the pc, the distance from its LR, and the counters
and the tag position, which the instruction advances (R532, R539). The other cores are as they were. -/
def commits (r : CoreRun) (k : Core) (next : Nat) (t : State) : Prop :=
  coreOf t.hw r.core = { k with pc := BitVec.ofNat 64 next, resv := k.resv.map fun (l, b, n) => (l, b, n + 1), csr := (coreOf t.hw r.core).csr } ∧
  (∀ d n, (n < 0xB00 ∨ 0xB1F < n) → n ≠ 0x7C3 → n ≠ 0x7C7 → tget d (coreOf t.hw r.core).csr n = tget d k.csr n) ∧
  ∀ i, i ≠ r.core → coreOf t.hw i = coreOf r.hw i

/-- A core with an x register written; x0 stays. -/
def withX (k : Core) (i v : Nat) : Core := if i = 0 then k else { k with x := k.x.set i (BitVec.ofNat 64 v) }

/-- An exception raised in the state `r` of an instruction enters M-mode and writes no register of the program (R368, R369). -/
def trapsToM (r : CoreRun) (cause tval : Nat) (t : State) : Prop :=
  privOf t.hw r.core = 3 ∧ virtOf t.hw r.core = false ∧ worldOf t.hw r.core = worldOf r.hw r.core ∧
  csrGet t.hw r.core 0x342 = cause ∧ csrGet t.hw r.core 0x343 = tval ∧ csrGet t.hw r.core 0x341 = r.pc ∧
  bits (mstatus t.hw r.core) 12 11 = privOf r.hw r.core ∧
  coreOf t.hw r.core = { coreOf r.hw r.core with
    pc := BitVec.ofNat 64 (csrGet r.hw r.core 0x305 / 4 * 4), pred := {}, csr := (coreOf t.hw r.core).csr }

/-- Exceptions of a cause enter M-mode from the mode that the core is in (R368). -/
def entersM (r : CoreRun) (cause : Nat) : Prop := privOf r.hw r.core = 3 ∨ (privOf r.hw r.core < 3 ∧ bit (csrGet r.hw r.core 0x302) cause = false)

/-- An agent may read `n` bytes from `a`, they are `b`, and `h` is the hardware after the read: quarters count it, record an uncorrectable
error and offer lines (R257, R266). -/
def readsTo (h0 : Hw) (m : Mem) (w : Asker) (a n : Nat) (b : List Byte) (h : Hw) : Prop := ∃ pz, agentRead h0 m w a n = (h, true, b, pz)

/-- An agent may read `n` bytes from `a`, and they are `b`. -/
def reads (s : State) (w : Asker) (a n : Nat) (b : List Byte) : Prop := ∃ h, readsTo s.hw s.mem w a n b h

/-- An agent may write `n` bytes from `a`. -/
def writable (s : State) (w : Asker) (a n : Nat) : Prop := ∀ data : List Byte, data.length = n → (agentWrite s.hw s.mem w a data).2 = true

/-- The trusted side runs, port `n` has a pending request with the block `b` at `a` that names the service `svc` and is well formed, its
input is `inp`, and `h` is the hardware after both reads (R456). -/
def asks (s : State) (n svc a : Nat) (b inp : List Byte) (h : Hw) : Prop :=
  tsRuns s.hw = true ∧ tsBlock s.hw n = some a ∧ num b 0 2 = svc ∧ num b 2 2 = 0 ∧ (∀ x ∈ b.drop 0x30, x = 0) ∧ num b 4 4 ≤ 65616 ∧
  (∃ h1, readsTo s.hw s.mem (tsAsker n) a 64 b h1 ∧ readsTo h1 s.mem (tsAsker n) (num b 8 8) (num b 4 4) inp h) ∧ inp.length = num b 4 4

/-- Port `n` is done, and no request is pending in it (R457). -/
def portDone (t : State) (n : Nat) : Prop :=
  fget t.hw F_TS_PORT_RESULT 0 n = 2 ∧ tsBlock t.hw n = none ∧ fget t.hw F_INT_SRC_STATE_PENDING 0 (srcPart (n / 2) (3 + n % 2)) = 1

/-- The request at `a` ended with STATUS, OUT_LEN 0 and, where the service gives it, VALUE: those 16 bytes are written where the requester may
write them, as every byte else is under `same` (R456, R457). -/
def tsEnds (s t : State) (n a status : Nat) (value : Option Nat) (same : Bool) : Prop :=
  portDone t n ∧ ∀ p q qa, placeOf s.hw (a + 0x20) = .dram p q qa → (mayReach s.hw (tsAsker n) (a + 0x20) true).1 = true → s.hw.sup.powerFail = false →
    transOf s.hw (a / 64) = none → dirtyLine s.hw (a / 64) = none →
    t.mem.bytes (dkey q qa) 8 = leBytes 1 status ++ zeros 7 ∧ (∀ v, value = some v → t.mem.bytes (dkey q qa + 8) 8 = leBytes 8 v) ∧
    (same = true → readsAsStored s q qa → dramOutside s t (dkey q qa) 16)

/-- The request with the block `b` at `a`, which left the hardware as `h` when it was read, ended OK: the output is written at OUT_ADDR, and
after it OUT_LEN, VALUE and STATUS in the block, as the requester (R456, R457). -/
def tsDone (s : State) (h : Hw) (t : State) (n a : Nat) (b out : List Byte) (value : Option Nat) : Prop :=
  portDone t n ∧ ∃ v, (∀ x, value = some x → v = x) ∧
    t.mem = s.land ((agentWrite h s.mem (tsAsker n) (num b 0x10 8) out).1.next s.mem fun h m =>
      agentStore h m (tsAsker n) (a + 0x20) (leBytes 1 1 ++ zeros 3 ++ leBytes 4 out.length ++ leBytes 8 v)).ops

/-- The command of a mailbox request: its path, and whether SMBus, the in-band path and the ROM offer it (R122, R553). -/
def mailOf : Instr → Option (MailPath × Bool × Bool × Bool)
  | .info p | .warmReset p | .slotErase p _ | .slotWrite p _ _ _ | .slotVerify p _ | .keyRevoke p _ _ _ | .lifeRead p _ | .elogRead p _ =>
    some (p, true, true, true)
  | .mboxMode p _ | .dormant p | .hold p _ | .supply p _ | .mboxCommit p | .mboxBootOnce p _ | .sensor p _ | .rtc p _ _ | .mboxRetire p _ _ |
    .mboxRestore p _ _ => some (p, true, true, false)
  | .wake p | .returnPrep p _ | .testChallenge p | .testUnlock p _ => some (p, true, false, false)
  | .component p _ _ => some (p, false, true, false)
  | _ => none

/-- Kydin takes up a request of a path: `h` is the hardware with the TAG of an in-band request read from its block (R553). -/
def takesUp (s : State) (path : MailPath) (h : Hw) : Prop :=
  powered s.hw = true ∧ s.hw.mod.warmReset = false ∧ pathRuns s.hw path = false ∧ s.hw.kyd.sessionPath = none ∧
  match path with
  | .smbus _ => h = s.hw
  | .inband => ∃ a b h', s.hw.kyd.mboxAddr = some a ∧ readsTo s.hw s.mem .kydin (a + 1) 1 b h' ∧
    h = { h' with kyd := { h'.kyd with tagIn := (b.headD 0).toNat } }

/-- The request runs, changes hardware and memory as `e` says, and is answered with RESULT and a payload. -/
def answers (c : Instr) (path : MailPath) (s : State) (e : Eff) (code : Nat) (payload : List Byte := []) : Prop :=
  exec c s = .next (s.act fun _ m => e.next m fun h m => mailAnswer h m path code payload)

/-- The request of a path has its answer: SMBus reads TAG, RESULT and payload, and the in-band one reads DONE and waits no more (R552,
R563). -/
def replied (path : MailPath) (t : State) (code : Nat) (payload : List Byte) : Prop :=
  match path with
  | .smbus tag => t.hw.kyd.respSmb = some (tag :: BitVec.ofNat 8 code :: payload) ∧ t.hw.sup.smbAlert = true
  | .inband => t.hw.kyd.mboxAddr = none ∧ fget t.hw F_KYD_MBOX_RESULT = 2

/-- The request runs, is answered, and leaves a state that meets `P`. -/
def replies (c : Instr) (path : MailPath) (s : State) (code : Nat) (payload : List Byte) (P : State → Prop) : Prop :=
  yields c s fun t => replied path t code payload ∧ P t

/-- A register whose fields each change by their access type alone: no command, no rule of its own (R6). -/
def ordinary (r : Reg) : Prop :=
  cmdRegOf r = none ∧ r.n0 ≠ 0x4 ∧ ¬ (r.n0 = 0x7 ∧ 0x400 ≤ r.base ∧ r.base ≤ 0x420) ∧
  r ∉ [R_MODE_REQUEST, R_PART_RESET, R_GATE_DL_CMD, R_ENG_QP_SUBMIT, R_ENG_QP_ABORT, R_PART_QUOTA, R_TS_PORT, R_HOSTFN_MSIX_RAISE, R_BLVD_FREE,
    R_PMU_GLOBAL, R_INT_SRC_STATE, R_INT_SRC_CFG, R_INT_CTRL, R_RBT_CONFIG, R_RBT_PART_EVCFG, R_RBT_PART_EXPECT, R_RBT_FLOW_CFG, R_ENG_QP_CQ,
    R_QMC_PMU_CTL, R_ENG_PMU_CTL, R_CACHE_EN, R_LLC_CFG, R_STR_CFG, R_HOSTFN_WIN_MAP, R_HOSTFN_HOF_CFG, R_KYD_RTC, R_KYD_MBOX]

end Sys2Proof
end

