-- ==== Sys2Proof/Certificates/Slice0/Obligations.lean ====
section
/-!
DEFINITION. The statements for the provers.
-/

open Sys2Proof Sys2Proof.Machine

/-- A step runs the command at the front of the queue; with none waiting, time passes. With a command c at the front of the queue,
the step of a state is exec of c on that state with the rest of the queue. With an empty queue and no power-fail sequence the step
moves module time on by 64 gate cycles in M0 and M1 and by one elsewhere, with all that gate cycles bring about; with a power-fail
sequence running it ends it: power-good and all of DRAM are gone. That time and the end of the sequence stand on the empty queue is
the model's own choice (log 4). (95_what_each_step_holds.md, R166) -/
def Obligations.StepRunsTheCommandInFront : Prop :=
  (∀ (s : State) (c : Instr) (rest : List Instr), s.pending = c :: rest → step s = exec c { s with pending := rest }) ∧
  (∀ s : State, s.pending = [] → s.hw.sup.powerFail = false →
    let later := s.hw.now + (if modeNow s.hw < 2 then 4096 else 64)
    step s = .next { s with hw := runTo s.hw later } ∧ (runTo s.hw later).now = later) ∧
  (∀ s : State, s.pending = [] → s.hw.sup.powerFail = true →
    ∃ t, step s = .next t ∧ t.hw.sup.powerGood = false ∧ t.hw.sup.powerFail = false ∧ modeNow t.hw = 0 ∧ t.mem.dram = [] ∧ t.pending = [])

/-- A queue of commands runs in order, one command a step, and every command at every state answers a next state with the same
queue. For every list of commands put in front of a queue, as many steps as the list is long run its commands in order: each runs by
exec on the state that the one before it left, with the rest of the queue unchanged. The queue is the model's own (log 15).
(95_what_each_step_holds.md) -/
def Obligations.QueueRunsFirstInFirstOut : Prop :=
  (∀ (c : Instr) (s : State), ∃ t, exec c s = .next t ∧ t.pending = s.pending) ∧
  (∀ (cs rest : List Instr) (s : State), s.pending = cs ++ rest →
    ∃ t, Host.Core.run core cs.length s = .next t ∧ t.pending = rest ∧
      cs.foldlM (fun (u : State) (c : Instr) => match exec c u with | .next v => some v | _ => none) { s with pending := rest } = some t)

/-- Every step keeps DRAM and the scratchpads in canonical form. For every state whose DRAM and scratchpad tables list strictly
rising addresses and no byte equal to what an unlisted address reads as, every step, whatever command is in front of the queue,
answers only states whose memory has that form. So equal memories are equal data. That an unlisted byte reads 0 is the model's
choice where no startup has run (log 3). (R264, R267, R402, R90) -/
def Obligations.EveryStepKeepsTheMemoryForm : Prop :=
  ∀ s t : State, s.mem.wf = true → stepsTo s t → t.mem.wf = true

/-- The state after reset: memory in form, no command waiting, every field at its reset value, physical functions present.
State.reset lists no byte of memory and no command; its memory has the canonical form; every field of every register reads its reset
value of the index, but that HOSTFN_STATUS.PRESENT reads 1 for functions 0 to 7; no core runs and no line is cached. The reset
values that the index gives as Image, Records, Fuses, Straps or RTC are the model's (log 1). (R84, R469, R471, 20_register_index.md)
-/
def Obligations.ResetStateHasTheFormAndTheResetValues : Prop :=
  State.reset.mem.wf = true ∧ State.reset.pending = [] ∧ State.reset.mem.dram = [] ∧ State.reset.mem.poison = [] ∧
  (∀ (f : Field) (i j : Nat), f.id ≠ F_HOSTFN_STATUS_PRESENT.id → fget State.reset.hw f i j = f.reset) ∧
  (∀ i : Fin 8, fget State.reset.hw F_HOSTFN_STATUS_PRESENT i.val = 1) ∧
  (∀ i : Nat, 8 ≤ i → i < 256 → fget State.reset.hw F_HOSTFN_STATUS_PRESENT i = 0) ∧
  State.reset.hw.cor.big = [] ∧ State.reset.hw.hom.l1 = [] ∧ State.reset.hw.hom.llc = []

/-- A field of a register reads as it was last set, and setting one changes no other field. For every state, field, instance and
element: after a field is set it reads the value cut to its width, every field with another number and every other instance or
element of it below 65,536 reads as before, and two settings of one field leave what the second alone would. (R8, R564) -/
def Obligations.FieldsReadAsTheyWereSet : Prop :=
  (∀ (h : Hw) (f : Field) (v i j : Nat), fget (fset h f v i j) f i j = v % 2 ^ f.width) ∧
  (∀ (h : Hw) (f g : Field) (v i j i' j' : Nat), f.id ≠ g.id → fget (fset h f v i j) g i' j' = fget h g i' j') ∧
  (∀ (h : Hw) (f : Field) (v i j i' j' : Nat), i < 65536 → j < 65536 → i' < 65536 → j' < 65536 → (i, j) ≠ (i', j') →
    fget (fset h f v i j) f i' j' = fget h f i' j') ∧
  (∀ (h : Hw) (f g : Field) (v w i j i' j' : Nat), fget (fset (fset h f v i j) f w i j) g i' j' = fget (fset h f w i j) g i' j')

/-- Supply inputs: validity with hysteresis, surge, switch-over, insertion. INPUT_VALID makes an input valid from 9.0 V and invalid
below 8.6 V, keeps it between, and leaves the other input and all memory alone; a second clause gives the input that becomes valid
while the selected one is not. SURGE records the surge and leaves a surging selected input where the other is valid. SWITCH_OVER
starts a transfer and lets a running transition wait; SWITCH_OVER_COMPLETE selects the new input, counts and records the change,
raises the supply source, takes the new input's own average as V_in, and leaves lanes, timing, Avenue and module time alone;
SWITCH_OVER_WAIT_END takes the new average, and lets a waiting transition go on exactly where its target is permitted, in a mode the
voltage permits. MODULE_INSERTION notes the mating. (R37, R49, R51, R52, R58, R59, R61, R62, R547) -/
def Obligations.SupplyInputsPinsAndSwitchOver : Prop :=
  (∀ (inp : Input) (mv : Int) (s : State), yields (.inputValid inp mv) s fun t =>
    (pinOf t.hw inp).mv = mv ∧
    ((pinOf t.hw inp).valid = true ↔ 9000 ≤ mv ∨ (8600 ≤ mv ∧ (pinOf s.hw inp).valid = true)) ∧
    pinOf t.hw (otherInput inp) = pinOf s.hw (otherInput inp) ∧ t.hw.sup.selected = s.hw.sup.selected ∧
    onlyRegs s.hw t.hw [F_MODE_STATUS_WAIT_SUPPLY.key 0 0] ∧ sameMemory s t) ∧
  (∀ (inp : Input) (mv : Int) (s : State), 9000 ≤ mv → powered s.hw = true → s.hw.sup.switchTo = none →
    s.hw.sup.selected = some (otherInput inp) → (pinOf s.hw (otherInput inp)).valid = false → (pinOf s.hw inp).valid = false →
    yields (.inputValid inp mv) s fun t => t.hw.sup.switchTo = some inp ∧ t.hw.sup.powerGood = s.hw.sup.powerGood) ∧
  (∀ (inp : Input) (mv : Nat) (s : State), 60500 < mv → (pinOf s.hw inp).surge = false → powered s.hw = true →
    yields (.surge inp mv) s fun t =>
      (pinOf t.hw inp).surge = true ∧ t.hw.sup.surges = s.hw.sup.surges + 1 ∧
      (t.hw.kyd.life.head?.map fun e => (e.type, e.body.take 2)) = some (4, [1, inputCode inp]) ∧
      (s.hw.sup.selected = some inp → (pinOf s.hw (otherInput inp)).valid = true → s.hw.sup.switchTo = none →
        t.hw.sup.switchTo = some (otherInput inp)) ∧
      (s.hw.sup.selected = some inp → (pinOf s.hw (otherInput inp)).valid = false → t.hw.sup.switchTo = s.hw.sup.switchTo) ∧
      sameMemory s t) ∧
  (∀ (i : Input) (s : State), powered s.hw = true → s.hw.sup.selected = some i → s.hw.sup.switchTo = none →
    ((pinOf s.hw i).valid = false ∨ (pinOf s.hw i).surge = true ∨ 100 * (pinOf s.hw i).mv < 85 * (s.hw.sup.vin : Int)) →
    (pinOf s.hw (otherInput i)).valid = true →
    yields .switchOver s fun t =>
      t.hw.sup.switchTo = some (otherInput i) ∧ t.hw.sup.selected = some i ∧ t.hw.sup.powerGood = s.hw.sup.powerGood ∧
      fget t.hw F_MODE_STATUS_WAIT_SUPPLY =
        (if fon s.hw F_MODE_STATUS_IN_TRANSITION then 1 else fget s.hw F_MODE_STATUS_WAIT_SUPPLY) ∧
      onlyRegs s.hw t.hw [F_MODE_STATUS_WAIT_SUPPLY.key 0 0] ∧ sameMemory s t) ∧
  (∀ (i : Input) (s : State), s.hw.sup.switchTo = some i → yields .switchOverComplete s fun t =>
    t.hw.sup.selected = some i ∧ t.hw.sup.switchTo = none ∧ t.hw.sup.vin = (pinOf s.hw i).avg ∧
    t.hw.sup.switchOvers = s.hw.sup.switchOvers + 1 ∧
    fget t.hw F_INT_SRC_STATE_PENDING 0 srcSupply = 1 ∧
    (t.hw.kyd.life.head?.map fun e => (e.type, e.body.take 2)) = some (4, [2, inputCode (s.hw.sup.selected.getD (otherInput i))]) ∧
    t.hw.lan = s.hw.lan ∧ t.hw.tim = s.hw.tim ∧ t.hw.ave = s.hw.ave ∧ t.hw.now = s.hw.now ∧ sameMemory s t) ∧
  (∀ (vin : Nat) (s : State), s.hw.sup.avgWait = true → s.hw.sup.switchTo = none → fon s.hw F_MODE_STATUS_QUEUED_VALID = false →
    modeNow s.hw < 8 → modeNow s.hw ≠ 1 → (thresholds (modeNow s.hw)).1 ≤ vin →
    yields (.switchOverWaitEnd vin) s fun t =>
      t.hw.sup.vin = vin ∧ t.hw.sup.avgWait = false ∧ fget t.hw F_MODE_STATUS_WAIT_SUPPLY = 0 ∧
      (fon s.hw F_MODE_STATUS_WAIT_SUPPLY = true → fon s.hw F_MODE_STATUS_IN_TRANSITION = true →
        fget t.hw F_MODE_STATUS_IN_TRANSITION = b2n (permitted t.hw (fget s.hw F_MODE_STATUS_TARGET))) ∧
      sameMemory s t) ∧
  (∀ (b : Bool) (s : State), changes (.moduleInsertion b) s fun h => { h with sup := { h.sup with inserted := b } })

/-- Power-good selects an input; power-fail loses state; a regulator fault is contained or takes the module to Contain. POWER_GOOD,
with an input valid and power-good not held or failing, selects A where it is valid and B otherwise, samples the straps and is in
M0; no byte of DRAM stays, and after a loss of power without VBAT the calendar is not valid. SURGE_LIMIT_EXPIRY and HOLD_UP_EXPIRY
start the power-fail sequence: ALARM_N is low, the sequence is recorded, and memory stays until the hold-up store is exhausted.
REGULATOR_FAULT ends power-good; the Avenue rail takes a module in M2 to M6 without a transition to M7 with Avenue stopped; a
compute square's rail takes its owner down and leaves the mode. (R11, R12, R39, R48, R50, R58, R60, R67, R84, R94, R451) -/
def Obligations.PowerGoodFailAndRegulators : Prop :=
  (∀ (modId : BitVec 12) (bootSel vbatOk : Bool) (s : State), (s.hw.sup.powerGood = false ∨ s.hw.sup.powerFail = true) →
    (s.hw.sup.pinA.valid = true ∨ s.hw.sup.pinB.valid = true) →
    yields (.powerGood modId bootSel vbatOk) s fun t =>
      t.hw.sup.powerGood = true ∧ t.hw.sup.selected = some (if s.hw.sup.pinA.valid then Input.a else Input.b) ∧
      t.hw.sup.modId = modId ∧ t.hw.sup.bootSel = bootSel ∧ modeNow t.hw = 0 ∧ t.hw.mod.fwVerified = false ∧
      t.hw.sup.powerFail = false ∧ ((s.hw.sup.lostBoth = true ∨ s.hw.sup.powerFail = true) → vbatOk = false →
        fget t.hw F_KYD_STATUS_RTC_VALID = 0) ∧ t.mem.dram = [] ∧ t.pending = s.pending) ∧
  (∀ (i : Input) (s : State), powered s.hw = true → s.hw.sup.selected = some i → (pinOf s.hw i).surge = true →
    (pinOf s.hw (otherInput i)).valid = false →
    yields .surgeLimitExpiry s fun t =>
      t.hw.sup.powerFail = true ∧ (s.hw.sup.inserted = true → s.hw.mod.warmReset = false → alarmLow t.hw = true) ∧
      (s.hw.sup.powerFail = false → t.hw.kyd.ring.head?.map (·.cls) = some 4 ∧ t.hw.kyd.life.head?.map (·.type) = some 4) ∧
      modeNow t.hw = modeNow s.hw ∧ sameMemory s t) ∧
  (∀ s : State, powered s.hw = true → s.hw.sup.pinA.valid = false → s.hw.sup.pinB.valid = false →
    yields .holdUpExpiry s fun t =>
      t.hw.sup.powerFail = true ∧ (s.hw.sup.inserted = true → s.hw.mod.warmReset = false → alarmLow t.hw = true) ∧
      (s.hw.sup.powerFail = false → t.hw.kyd.ring.head?.map (·.cls) = some 4 ∧ t.hw.kyd.life.head?.map (·.type) = some 4) ∧
      modeNow t.hw = modeNow s.hw ∧ sameMemory s t) ∧
  (∀ s : State, 2 ≤ modeNow s.hw → modeNow s.hw ≠ 7 → bit s.hw.sup.voltOk 7 = true → fon s.hw F_MODE_STATUS_IN_TRANSITION = false →
    yields (.regulatorFault .avenue) s fun t =>
      t.hw.sup.powerGood = false ∧ modeNow t.hw = 7 ∧ fget t.hw F_MODE_STATUS_LAST_CAUSE = 4 ∧ fget t.hw F_AVE_STATUS_RUNNING = 0 ∧
      fget t.hw F_RBT_STATUS_HELD = 1 ∧
      (s.hw.sup.inserted = true → powered s.hw = true → s.hw.mod.warmReset = false → alarmLow t.hw = true ∧ outputOf t.hw .alarmN = ownOutput t.hw .alarmN) ∧
      sameMemory s t) ∧
  (∀ (sq : Fin 80) (p : Nat) (s : State), ownerSquare s.hw sq.val = some p →
    yields (.regulatorFault (.square sq)) s fun t =>
      t.hw.sup.powerGood = false ∧ fget t.hw F_PART_STATUS_STATE 0 p = 3 ∧ t.mem.dram = s.mem.dram ∧ t.pending = s.pending ∧
      (fon s.hw F_AVE_STATUS_COMMIT_PENDING = false → modeNow t.hw = modeNow s.hw))

/-- V_in permits modes at their rising thresholds, withdraws them below the falling ones, and moves the mode. SUPPLY_THRESHOLD_RISE
and SUPPLY_THRESHOLD_FALL take the new V_in; each mode becomes permitted at its rising threshold, stops below its falling one and
keeps its state between, M4 and M6 being reported only with the CLK_X lock. A rise in M1 that permits M2 starts the transition to
M2. A fall that M6 does not survive starts a transition to M4 where M4 stays permitted, and to M3 where only M3 does; while V_in is
being averaged after a switch-over, neither has an effect. SUPPLY_RECOVERED ends the wait after a fall to M1 and goes on to M2.
(R53, R56, R57, R74, R78, R79) -/
def Obligations.SupplyVoltageMovesModes : Prop :=
  (∀ (vin m : Nat) (s : State), s.hw.sup.avgWait = false → modeNow s.hw ≠ 1 → m < 8 →
    yields (.supplyThresholdRise vin) s fun t =>
      t.hw.sup.vin = vin ∧
      (bit t.hw.sup.voltOk m = true ↔ (thresholds m).1 ≤ vin ∨ ((thresholds m).2 ≤ vin ∧ bit s.hw.sup.voltOk m = true)) ∧
      (permitted t.hw m = true ↔
        bit t.hw.sup.voltOk m = true ∧ ((m = 4 ∨ m = 6) → fon s.hw F_TIMING_STATUS_LOCKED = true)) ∧
      onlyRegs s.hw t.hw [F_MODE_STATUS_PERMITTED.key 0 0] ∧ sameMemory s t) ∧
  (∀ (vin : Nat) (s : State), s.hw.sup.avgWait = false → modeNow s.hw = 1 → 18000 ≤ vin → s.hw.mod.serviceHold = false →
    s.hw.mod.m1Fall = false → s.hw.mod.warmReset = false → s.hw.mod.fwVerified = true → fon s.hw F_MODE_STATUS_IN_TRANSITION = false →
    yields (.supplyThresholdRise vin) s fun t =>
      fget t.hw F_MODE_STATUS_IN_TRANSITION = 1 ∧ fget t.hw F_MODE_STATUS_TARGET = 2 ∧ modeNow t.hw = 1 ∧ sameMemory s t) ∧
  (∀ (vin m : Nat) (s : State), s.hw.sup.avgWait = false → m < 8 → modeNow s.hw < 8 → (thresholds (modeNow s.hw)).1 ≤ vin →
    yields (.supplyThresholdFall vin) s fun t =>
      t.hw.sup.vin = vin ∧
      (bit t.hw.sup.voltOk m = true ↔ (thresholds m).1 ≤ vin ∨ ((thresholds m).2 ≤ vin ∧ bit s.hw.sup.voltOk m = true)) ∧
      onlyRegs s.hw t.hw [F_MODE_STATUS_PERMITTED.key 0 0] ∧ sameMemory s t) ∧
  (∀ (vin : Nat) (s : State), s.hw.sup.avgWait = false → modeNow s.hw = 6 → fon s.hw F_MODE_STATUS_IN_TRANSITION = false →
    bit s.hw.sup.voltOk 4 = true → bit s.hw.sup.voltOk 3 = true → vin < 35000 →
    (17000 ≤ vin) →
    yields (.supplyThresholdFall vin) s fun t =>
      fget t.hw F_MODE_STATUS_IN_TRANSITION = 1 ∧ modeNow t.hw = 6 ∧
      fget t.hw F_MODE_STATUS_TARGET = (if 23000 ≤ vin ∧ fon s.hw F_TIMING_STATUS_LOCKED = true then 4 else 3) ∧ sameMemory s t) ∧
  (∀ (vin : Nat) (s : State), s.hw.sup.avgWait = true →
    exec (.supplyThresholdFall vin) s = .next s ∧ exec (.supplyThresholdRise vin) s = .next s) ∧
  (∀ (vin : Nat) (s : State), modeNow s.hw = 1 → s.hw.mod.m1Fall = true → 18000 ≤ vin → s.hw.mod.serviceHold = false →
    s.hw.mod.warmReset = false → s.hw.mod.fwVerified = true → fon s.hw F_MODE_STATUS_IN_TRANSITION = false →
    yields (.supplyRecovered vin) s fun t =>
      t.hw.mod.m1Fall = false ∧ fget t.hw F_MODE_STATUS_IN_TRANSITION = 1 ∧ fget t.hw F_MODE_STATUS_TARGET = 2 ∧ sameMemory s t)

/-- The limiter keeps its bounds, and junction and inlet temperature act at their thresholds. LIMITER_SAMPLE above the peak
allowance, after 10,000 samples in a row above the envelope, or with the sum of the last 100 ms above the envelope, lowers the core
clock, not below 0.8 GHz nor above what it was, and limits the engines; within the limits the clock stays within what temperature
allows; which clock it takes is open (log 7), and what it does in the 10 ms allowed above the envelope is the model's choice (log
49). JUNCTION_THRESHOLD sets the 95 and 100 degree actions and their ends at 93 and 98 degrees; 105 degrees in M2 to M6 without a
transition enters M7 with cause 5 where the voltage permits it. THERMAL_STEP moves the clock by 100 MHz a step, down to 0.8 GHz and
back up (the way up is the model's choice, log 50). THERMAL_TRIP, and a junction at 110 degrees, enter M0 with the alarm's cause
set, also from M0. INLET_WARNING raises its source once above 45 degrees and changes no mode (the ends of the warning are the
model's choice, log 51). (R53, R54, R68, R70, R74, R94, R519) -/
def Obligations.TemperatureActs : Prop :=
  (∀ (p : Nat) (s : State), powered s.hw = true → 800 ≤ s.hw.sup.coreMhz → s.hw.sup.coreMhz ≤ 3600 →
    800 ≤ s.hw.sup.thermCap → s.hw.sup.thermCap ≤ 3600 →
    let env := if (match s.hw.sup.selected with | some i => (pinOf s.hw i).surge | none => false) then 1350000 else min 1350000 (33 * s.hw.sup.vin)
    yields (.limiterSample p) s fun t =>
      800 ≤ t.hw.sup.coreMhz ∧ t.hw.sup.coreMhz ≤ 3600 ∧ (s.hw.sup.hot100 = true → t.hw.sup.coreMhz = 800) ∧
      ((min 1500000 (3667 * s.hw.sup.vin / 100) < p ∨ (env < p ∧ 10000 ≤ s.hw.sup.overFor) ∨
          100000 * env < ((p :: s.hw.sup.samples).take 100000).sum) →
        t.hw.sup.coreMhz ≤ s.hw.sup.coreMhz ∧ t.hw.sup.engLimited = true) ∧
      t.hw.regs = s.hw.regs ∧ sameMemory s t) ∧
  (∀ (m : Int) (s : State), m < 105000 →
    yields (.junctionThreshold m) s fun t =>
      t.hw.sup.junctionMc = m ∧
      (t.hw.sup.throttle = true ↔ 95000 ≤ m ∨ (93000 ≤ m ∧ s.hw.sup.throttle = true)) ∧
      (t.hw.sup.hot100 = true ↔ 100000 ≤ m ∨ (98000 ≤ m ∧ s.hw.sup.hot100 = true)) ∧
      (t.hw.sup.hot100 = true → t.hw.sup.coreMhz = 800) ∧
      (t.hw.sup.hot100 = true → s.hw.sup.hot100 = false → fget t.hw F_INT_SRC_STATE_PENDING 0 srcThermal = 1) ∧
      modeNow t.hw = modeNow s.hw ∧ sameMemory s t) ∧
  (∀ (m : Int) (s : State), 105000 ≤ m → m < 110000 → 2 ≤ modeNow s.hw → modeNow s.hw ≠ 7 → bit s.hw.sup.voltOk 7 = true →
    fon s.hw F_MODE_STATUS_IN_TRANSITION = false →
    yields (.junctionThreshold m) s fun t =>
      modeNow t.hw = 7 ∧ fget t.hw F_MODE_STATUS_LAST_CAUSE = 5 ∧ fget t.hw F_AVE_STATUS_RUNNING = fget s.hw F_AVE_STATUS_RUNNING ∧
      sameMemory s t) ∧
  (∀ s : State, changes .thermalStep s fun h =>
      let down := max 800 (h.sup.coreMhz - 100)
      let cap := min 3600 (h.sup.thermCap + 100)
      if h.sup.hot100 then { h with sup := { h.sup with coreMhz := 800, thermCap := 800 } }
      else if h.sup.throttle then { h with sup := { h.sup with coreMhz := down, thermCap := down } }
      else if h.sup.thermCap < 3600 then { h with sup := { h.sup with coreMhz := min cap (h.sup.coreMhz + 100), thermCap := cap } }
      else h) ∧
  (∀ (m : Int) (s : State), (110000 ≤ m ∨ (105000 ≤ m ∧ modeNow s.hw = 7)) → modeNow s.hw ≠ 0 → fon s.hw F_MODE_STATUS_QUEUED_VALID = false →
    yields (.thermalTrip m) s fun t =>
      modeNow t.hw = 0 ∧ t.hw.sup.trip = true ∧ alarmCause t.hw = true ∧ fget t.hw F_MODE_STATUS_LAST_CAUSE = 5 ∧
      t.mem.dram = [] ∧ t.pending = s.pending) ∧
  (∀ (m : Int) (s : State), 110000 ≤ m → modeNow s.hw = 0 → yields (.thermalTrip m) s fun t =>
      modeNow t.hw = 0 ∧ t.hw.sup.trip = true ∧ alarmCause t.hw = true ∧ sameMemory s t) ∧
  (∀ (m : Int) (s : State), 110000 ≤ m → modeNow s.hw ≠ 0 → fon s.hw F_MODE_STATUS_QUEUED_VALID = false →
    yields (.junctionThreshold m) s fun t => modeNow t.hw = 0 ∧ t.hw.sup.trip = true ∧ t.mem.dram = []) ∧
  (∀ (m : Int) (s : State), changes (.inletWarning m) s fun h =>
      let n := { h with sup := { h.sup with inletWarn := decide (45000 < m) } }
      if 45000 < m ∧ h.sup.inletWarn = false then raiseSource n srcInlet else n)

/-- A write to MODE_REQUEST ends at once, is queued, or starts a transition, as the table of transitions says. For a requester
MODE_REQUEST answers: while a transition or a switch-over wait runs, the request is queued and reads RUNNING; otherwise a request
for the current mode ends DONE, one for a transition not in the table INVALID, one for a mode not permitted NOT_PERMITTED, and from
M7 one that the rule on leaving it does not allow NOT_PERMITTED (the code of this case is the model's reading; the 100 ms below 98
degrees count from the readings of JUNCTION_THRESHOLD and THERMAL_TRIP), all with the mode unchanged; any other starts its
transition with RUNNING, SEQ one higher, the target set, and an ingest stop where it leaves M4 or M6 for M5 or M3. Memory and the
queue stay. (R74, R75, R76, R81, R96, R98) -/
def Obligations.ModeRequestsEndAsTheTableSays : Prop :=
  (∀ (who : Requester) (m : BitVec 3) (s : State), accepts s who R_MODE_REQUEST 0 0 →
    (fon s.hw F_MODE_STATUS_IN_TRANSITION = true ∨ fon s.hw F_MODE_STATUS_WAIT_SUPPLY = true ∨ s.hw.sup.avgWait = true) →
    yields (.modeRequest who m) s fun t =>
      fget t.hw F_MODE_STATUS_QUEUED_VALID = 1 ∧ fget t.hw F_MODE_STATUS_QUEUED_MODE = m.toNat ∧ t.hw.mod.queueSpill = false ∧ t.hw.mod.transReq = false ∧
      fget t.hw F_MODE_REQUEST_RESULT = 1 ∧ fget t.hw F_MODE_REQUEST_SEQ = (fget s.hw F_MODE_REQUEST_SEQ + 1) % 256 ∧
      onlyRegs s.hw t.hw [F_MODE_STATUS_QUEUED_VALID.key 0 0, F_MODE_STATUS_QUEUED_MODE.key 0 0, F_MODE_REQUEST_RESULT.key 0 0,
        F_MODE_REQUEST_SEQ.key 0 0] ∧ sameMemory s t) ∧
  (∀ (who : Requester) (m : BitVec 3) (s : State), accepts s who R_MODE_REQUEST 0 0 →
    fon s.hw F_MODE_STATUS_IN_TRANSITION = false → fon s.hw F_MODE_STATUS_WAIT_SUPPLY = false → s.hw.sup.avgWait = false →
    (m.toNat = modeNow s.hw →
      changes (.modeRequest who m) s fun h => answer (setBusErr h false) F_MODE_REQUEST_RESULT F_MODE_REQUEST_SEQ 2) ∧
    (m.toNat ≠ modeNow s.hw →
      (modeNow s.hw, m.toNat) ∉ [(3, 4), (3, 6), (3, 5), (4, 6), (5, 4), (5, 6), (4, 5), (4, 3), (6, 5), (6, 3), (6, 4), (5, 3), (7, 3)] →
      changes (.modeRequest who m) s fun h => answer (setBusErr h false) F_MODE_REQUEST_RESULT F_MODE_REQUEST_SEQ 4) ∧
    ((modeNow s.hw, m.toNat) ∈ [(3, 4), (3, 6), (3, 5), (4, 6), (5, 4), (5, 6), (4, 5), (4, 3), (6, 5), (6, 3), (6, 4), (5, 3), (7, 3)] →
      (permitted s.hw m.toNat = false ∨ (modeNow s.hw = 7 ∧ (s.hw.mod.containTempOnly = false ∨ ∀ t0, s.hw.sup.coolSince = some t0 → s.hw.now < t0 + 10240000000)) →
        changes (.modeRequest who m) s fun h => answer (setBusErr h false) F_MODE_REQUEST_RESULT F_MODE_REQUEST_SEQ 3) ∧
      (permitted s.hw m.toNat = true → (modeNow s.hw = 7 → s.hw.mod.containTempOnly = true ∧ ∃ t0, s.hw.sup.coolSince = some t0 ∧ t0 + 10240000000 ≤ s.hw.now) →
        yields (.modeRequest who m) s fun t =>
          fget t.hw F_MODE_STATUS_IN_TRANSITION = 1 ∧ fget t.hw F_MODE_STATUS_TARGET = m.toNat ∧ modeNow t.hw = modeNow s.hw ∧
          fget t.hw F_MODE_REQUEST_RESULT = 1 ∧ fget t.hw F_MODE_REQUEST_SEQ = (fget s.hw F_MODE_REQUEST_SEQ + 1) % 256 ∧
          t.hw.mod.transReq = true ∧
          (t.hw.mod.stopping = true ↔ s.hw.mod.stopping = true ∨
            (modeNow s.hw, m.toNat) ∈ [(4, 5), (4, 3), (6, 5), (6, 3)]) ∧ sameMemory s t)))

/-- The end of a transition reaches its target; a fatal error takes the module to Contain; pin-driving TAP instructions are BYPASS.
MODE_TRANSITION_END with nothing of a stopped ingest left, no supply wait and a target that is permitted: the mode is the target,
LAST_CAUSE the cause of the transition, a request of MODE_REQUEST ends DONE, the mode source is pending, Roundabout and the engines
are held in M3 only and Avenue is stopped in M3 and M5; while accepted crossings are still to be written the command changes
nothing. CONTAIN_ENTRY in M2 to M6, no transition running, V_in at M7's threshold: the mode is M7, a record of class 3 is stored,
Roundabout is held, the partitions named are down, and Avenue stops only for a cause of its own. JTAG_INSTRUCTION loads the
instruction; outside M0 and M1 one that drives pins acts as BYPASS. (R11, R71, R74, R77, R80, R81, R94, R95, R97, R519, R40, R559)
-/
def Obligations.TransitionsEndAndFatalErrorsContain : Prop :=
  (∀ (t' : Nat) (s : State), fon s.hw F_MODE_STATUS_IN_TRANSITION = true → fon s.hw F_MODE_STATUS_WAIT_SUPPLY = false →
    fget s.hw F_MODE_STATUS_TARGET = t' → 3 ≤ t' → t' ≤ 6 → permitted s.hw t' = true → (s.hw.mod.stopping = true → ingestDrained s.hw = true) →
    fon s.hw F_MODE_STATUS_QUEUED_VALID = false →
    yields .modeTransitionEnd s fun t =>
      modeNow t.hw = t' ∧ fget t.hw F_MODE_STATUS_IN_TRANSITION = 0 ∧ fget t.hw F_MODE_STATUS_LAST_CAUSE = s.hw.mod.transCause % 256 ∧
      (s.hw.mod.transReq = true → fget t.hw F_MODE_REQUEST_RESULT = 2) ∧
      fget t.hw F_INT_SRC_STATE_PENDING 0 srcMode = 1 ∧ t.hw.mod.stopping = false ∧
      fget t.hw F_RBT_STATUS_HELD = b2n (t' == 3) ∧ (∀ q : Fin 24, fget t.hw F_ENG_STATUS_HELD q.val = b2n (t' == 3)) ∧
      ((t' = 3 ∨ t' = 5) → fget t.hw F_AVE_STATUS_RUNNING = 0 ∧ t.hw.ave.pinTb = 0 ∧ t.hw.ave.pinQual = false) ∧
      ((t' = 3 ∨ s.hw.rbt.waitReports = []) → t.mem = s.mem) ∧ t.pending = s.pending) ∧
  (∀ s : State, fon s.hw F_MODE_STATUS_IN_TRANSITION = true → fget s.hw F_MODE_STATUS_TARGET = 2 → fon s.hw F_MODE_STATUS_WAIT_SUPPLY = false →
    permitted s.hw 2 = true → s.hw.rbt.waitReports = [] → s.hw.mod.stopping = false → fon s.hw F_MODE_STATUS_QUEUED_VALID = false →
    yields .modeTransitionEnd s fun t => modeNow t.hw = 2 ∧ t.hw.mod.stepsDone = 0 ∧ sameMemory s t) ∧
  (∀ s : State, fget s.hw F_MODE_STATUS_TARGET ≠ 1 → s.hw.mod.stopping = true → ingestDrained s.hw = false →
    exec .modeTransitionEnd s = .next s) ∧
  (∀ (cause : ContainCause) (parts : BitVec 8) (s : State), 2 ≤ modeNow s.hw → modeNow s.hw ≠ 7 → bit s.hw.sup.voltOk 7 = true →
    fon s.hw F_MODE_STATUS_IN_TRANSITION = false → fon s.hw F_AVE_STATUS_COMMIT_PENDING = false →
    yields (.containEntry ⟨cause, parts⟩) s fun t =>
      modeNow t.hw = 7 ∧ fget t.hw F_MODE_STATUS_LAST_CAUSE = (if cause = .junction then 5 else 4) ∧
      fget t.hw F_RBT_STATUS_HELD = 1 ∧ (∀ q : Fin 24, fget t.hw F_ENG_STATUS_HELD q.val = 1) ∧
      (cause = .avenueRail ∨ cause = .clkxLock ∨ (∃ d, cause = .linkDie d) → fget t.hw F_AVE_STATUS_RUNNING = 0) ∧
      (cause = .junction ∨ cause = .chain ∨ cause = .gridLink ∨ cause = .other →
        fget t.hw F_AVE_STATUS_RUNNING = fget s.hw F_AVE_STATUS_RUNNING) ∧
      (∀ p : Fin 8, bit parts.toNat p.val = true → fget t.hw F_PART_STATUS_STATE 0 p.val = 3) ∧
      t.hw.kyd.ring.head?.map (·.cls) = some 3 ∧ fget t.hw F_INT_SRC_STATE_PENDING 0 srcMode = 1 ∧
      t.mem.dram = s.mem.dram ∧ (parts = 0 → sameMemory s t) ∧ t.pending = s.pending) ∧
  (∀ (op : JtagInsn) (s : State), changes (.jtagInstruction op) s fun h => let n := { h with sup := { h.sup with jtagInsn := some op, tap := .runTestIdle } }
    { n with sup := { n.sup with scan := scanAfter n } }) ∧
  (∀ (cells : BitVec 23) (op : JtagInsn) (s : State), op ∈ [JtagInsn.extest cells, .drivesPins cells] →
    yields (.jtagInstruction op) s fun t => sameMemory s t ∧ t.hw.regs = s.hw.regs ∧
      (2 ≤ modeNow s.hw → tapBypass t.hw = true ∧ t.hw.sup.scan = s.hw.sup.scan ∧ ∀ o, outputOf t.hw o = ownOutput s.hw o) ∧
      (modeNow s.hw < 2 → tapBypass t.hw = false ∧ t.hw.sup.scan = cells ∧ (allReleased s.hw = false →
        (∀ n, outputOf t.hw (.trigOut n) = .level (cells.getLsbD (2 + n.val))) ∧
        outputOf t.hw .alarmN = (if cells.getLsbD 18 then .released else .level false) ∧ ∀ g, outputOf t.hw (.downlink g) = ownOutput s.hw (.downlink g))))

/-- A module warm reset clears all but what its domains keep, and its end samples the straps and enters M1. MODULE_WARM_RESET: no
cached line, no flow, no job, no assembly entry and no transition stays; DRAM keeps every byte and goes to self-refresh where it was
active; every field of a register of the AON domain other than RESET_CAUSE keeps its value; WARM_COUNT rises and the cause bit is
set; the mode is M1, or M0 while a thermal trip lasts or no firmware was verified. RESET_N_PULSE below 80 ns has no effect, from 160
ns it is that reset, and between them either (open, log 7). WARM_RESET_END flushes the record ring, samples the straps and enters M1
with cause 6 where no trip lasts and firmware was verified. (R39, R68, R77, R84, R85, R86, R92, R100, R122, R550) -/
def Obligations.ModuleResetsKeepWhatTheyMust : Prop :=
  (∀ (cause : WarmCause) (s : State), (cause = .thermalExit → s.hw.sup.trip = true ∧ s.hw.sup.junctionMc < 85000) →
    yields (.moduleWarmReset cause) s fun t =>
      t.hw.mod.warmReset = true ∧ t.hw.hom = {} ∧ t.hw.rbt = {} ∧ t.hw.eng = {} ∧ t.hw.ave = {} ∧ t.hw.cor.big = [] ∧
      t.mem.dram = s.mem.dram ∧ t.mem.poison = s.mem.poison ∧
      t.hw.mod.dramRefresh = (s.hw.mod.dramRefresh || s.hw.mod.dramActive) ∧
      fget t.hw F_MODE_STATUS_IN_TRANSITION = 0 ∧
      fget t.hw F_RESET_CAUSE_WARM_COUNT = min (fget s.hw F_RESET_CAUSE_WARM_COUNT + 1) (2 ^ 16 - 1) ∧
      (cause = .resetPin → fget t.hw F_RESET_CAUSE_RESET_PIN = 1) ∧ (cause = .kydinCommand → fget t.hw F_RESET_CAUSE_KYDIN_CMD = 1) ∧
      (cause = .thermalExit → fget t.hw F_RESET_CAUSE_THERMAL_TRIP = 1 ∧ t.hw.sup.trip = false) ∧
      modeNow t.hw = (if t.hw.sup.trip = true ∨ s.hw.mod.fwVerified = false then 0 else 1) ∧
      (∀ (f : Field) (r : Reg) (i j : Nat), keyReg (f.key i j) = some r → r.dom = .aon → r ≠ R_RESET_CAUSE →
        fget t.hw f i j = fget s.hw f i j)) ∧
  (∀ (n : Nat) (s : State), n < 80 → exec (.resetNPulse n) s = .next s) ∧
  (∀ (n : Nat) (s : State), 160 ≤ n → exec (.resetNPulse n) s = exec (.moduleWarmReset .resetPin) s) ∧
  (∀ (n : Nat) (s : State), 80 ≤ n → n < 160 →
    let u : State := { s with hw := { s.hw with freeCtr := s.hw.freeCtr + 1 } }
    exec (.resetNPulse n) s = .next u ∨ exec (.resetNPulse n) s = exec (.moduleWarmReset .resetPin) u) ∧
  (∀ (modId : BitVec 12) (bootSel : Bool) (s : State), s.hw.mod.warmReset = true →
    yields (.warmResetEnd modId bootSel) s fun t =>
      t.hw.mod.warmReset = false ∧ t.hw.sup.modId = modId ∧ t.hw.sup.bootSel = bootSel ∧
      fget t.hw F_KYD_ELOG_SEQ_FLUSHED = fget s.hw F_KYD_ELOG_SEQ_NEXT % 2 ^ F_KYD_ELOG_SEQ_FLUSHED.width ∧
      (s.hw.sup.trip = false → s.hw.mod.fwVerified = true → modeNow t.hw = 1 ∧ fget t.hw F_MODE_STATUS_LAST_CAUSE = 6) ∧
      ((s.hw.sup.trip = true ∨ s.hw.mod.fwVerified = false) → modeNow t.hw = modeNow s.hw) ∧ sameMemory s t)

/-- Kydin firmware and the boot image are chosen among valid slots, and BOOT_CTRL commands act on slots. KYDIN_FIRMWARE_VERIFIED
takes the first valid Kydin slot in the strap's order and enters M1; with none the module stays in M0 with the alarm's cause set.
IMAGE_SELECTION at the first startup step clears BOOT_ONCE, takes the slot that the choice names, or goes to M1 with the service
hold set. COMMIT turns a running TRIAL slot GOOD and raises the fuse counter to the image's SVN, and is REFUSED with no running slot
(the model's choice); BOOT_ONCE commands note the slot; VERIFY of a slot that does not run leaves NEW or INVALID by the checks of
R119 with DONE or FAILED, and is REFUSED for the running one. Every command raises SEQ by one modulo 256 and leaves memory and the
other slot alone. (R74, R120, R121, R122, R128, R133, R136, R137) -/
def Obligations.FirmwareAndImageSelection : Prop :=
  (∀ s : State, s.hw.sup.powerGood = true → modeNow s.hw = 0 → s.hw.mod.fwVerified = false → s.hw.boot.kydRunning = none →
    s.hw.mod.warmReset = false → s.hw.sup.trip = false →
    let first := firstBySeq s.hw.sup.bootSel (imgSequence (slotImage s.hw.boot.kydA kydinSlotSize)) (imgSequence (slotImage s.hw.boot.kydB kydinSlotSize))
    yields .kydinFirmwareVerified s fun t =>
      match [first, !first].find? fun b => kydinSlotOk s.hw (kydSlot s.hw b) with
      | none => modeNow t.hw = 0 ∧ alarmCause t.hw = true ∧ t.hw.mod.fwVerified = false ∧ sameMemory s t
      | some b => modeNow t.hw = 1 ∧ t.hw.mod.fwVerified = true ∧ t.hw.boot.kydRunning = some b) ∧
  (∀ s : State, startupAt s.hw 0 = true →
    let okA := imageSlotOk s.hw s.hw.boot.imgA
    let okB := imageSlotOk s.hw s.hw.boot.imgB
    let first := match s.hw.boot.bootOnce with
      | some b => b
      | none => firstBySeq s.hw.sup.bootSel (imgSequence (slotImage s.hw.boot.imgA imageSlotSize)) (imgSequence (slotImage s.hw.boot.imgB imageSlotSize))
    yields .imageSelection s fun t =>
      t.hw.boot.bootOnce = none ∧
      match (chooseSlot s.hw (fun b => if b then okB else okA) [first, !first]).2 with
      | none => modeNow t.hw = 1 ∧ t.hw.mod.serviceHold = true
      | some b => modeNow t.hw = 2 ∧ t.hw.mod.stepsDone = 1 ∧ t.hw.boot.imgRunning = some b ∧ fget t.hw F_BOOT_STATUS_SLOT = b2n b ∧
          fget t.hw F_BOOT_STATUS_FALLBACK = b2n (b != first) ∧ (imgSlot t.hw b).state ≠ .new ∧ sameMemory s t) ∧
  (∀ (who : Requester) (s : State), accepts s who R_BOOT_CTRL 0 0 →
    (s.hw.boot.imgRunning = none →
      changes (.bootCommit who) s fun h => answer (setBusErr h false) F_BOOT_CTRL_RESULT F_BOOT_CTRL_SEQ 4) ∧
    (∀ b, s.hw.boot.imgRunning = some b → yields (.bootCommit who) s fun t =>
      (imgSlot t.hw b).state = (if (imgSlot s.hw b).state = .trial then .good else (imgSlot s.hw b).state) ∧
      imgSlot t.hw (!b) = imgSlot s.hw (!b) ∧
      t.hw.boot.fuseSvn = max s.hw.boot.fuseSvn (fget s.hw F_BOOT_STATUS_IMAGE_SVN) ∧
      fget t.hw F_BOOT_CTRL_RESULT = 2 ∧ fget t.hw F_BOOT_CTRL_SEQ = (fget s.hw F_BOOT_CTRL_SEQ + 1) % 256 ∧ sameMemory s t) ∧
    (changes (.bootOnceSlotA who) s fun h =>
      answer { setBusErr h false with boot := { h.boot with bootOnce := some false } } F_BOOT_CTRL_RESULT F_BOOT_CTRL_SEQ 2) ∧
    (changes (.bootOnceSlotB who) s fun h =>
      answer { setBusErr h false with boot := { h.boot with bootOnce := some true } } F_BOOT_CTRL_RESULT F_BOOT_CTRL_SEQ 2)) ∧
  (∀ (who : Requester) (b : Bool) (s : State), accepts s who R_BOOT_CTRL 0 0 →
    let c := if b then Instr.verifySlotB who else Instr.verifySlotA who
    (s.hw.boot.imgRunning = some b → changes c s fun h => answer (setBusErr h false) F_BOOT_CTRL_RESULT F_BOOT_CTRL_SEQ 4) ∧
    (s.hw.boot.imgRunning ≠ some b → yields c s fun t =>
      (imgSlot t.hw b).state = (if imageSlotOk s.hw (imgSlot s.hw b) then .new else .invalid) ∧ (imgSlot t.hw b).trials = 0 ∧
      (imgSlot t.hw b).bytes = (imgSlot s.hw b).bytes ∧ imgSlot t.hw (!b) = imgSlot s.hw (!b) ∧
      fget t.hw F_BOOT_CTRL_RESULT = (if imageSlotOk s.hw (imgSlot s.hw b) then 2 else 3) ∧
      fget t.hw F_BOOT_CTRL_SEQ = (fget s.hw F_BOOT_CTRL_SEQ + 1) % 256 ∧ sameMemory s t))

/-- The steps of the startup sequence run in their order, apply the image, and end in M3 with configuration locked. STARTUP_STEP:
power to the dies, DRAM training, DRAM initialisation (every byte zero, or every byte kept where DRAM was in self-refresh), and lane
training each advance the sequence by one where it is their turn, and change nothing where it is not. IMAGE_APPLICATION, in its
turn, either stops at a record whose chain value differs, with the slot BAD, or applies every record and advances. With the first
record misread it enters M7 where the voltage permits it. STARTUP_COMPLETE, with every gate in use trained or timed out, is in M3
with RWL fields locked, the boot part of the log closed and the ready source pending. (R90, R91, R92, R123, R126, R131, R274) -/
def Obligations.StartupStepsRunInOrder : Prop :=
  (∀ s : State, startupAt s.hw 1 = true → yields (.startupStep .powerDies) s fun t => t.hw.mod.stepsDone = 2 ∧ gridPowered t.hw = true ∧ sameMemory s t) ∧
  (∀ (fails : List (Fin 24 × Fin 10)) (s : State), startupAt s.hw 2 = true → yields (.startupStep (.trainDram fails)) s fun t => t.hw.mod.stepsDone = 3 ∧ t.hw.mod.dramActive = true ∧ t.mem.dram = s.mem.dram ∧ t.pending = s.pending) ∧
  (∀ s : State, startupAt s.hw 3 = true → yields (.startupStep .initDram) s fun t =>
    t.hw.mod.stepsDone = 4 ∧ t.hw.mod.dramRefresh = false ∧ t.mem.dram = (if s.hw.mod.dramRefresh then s.mem.dram else []) ∧
    t.mem.poison = (if s.hw.mod.dramRefresh then s.mem.poison else []) ∧ t.pending = s.pending) ∧
  (∀ s : State, startupAt s.hw 5 = true → gatesReady s.hw = true →
    changes (.startupStep .trainLanes) s fun h => { h with mod := { h.mod with stepsDone := 6 } }) ∧
  (∀ s : State, startupAt s.hw 1 = false → exec (.startupStep .powerDies) s = .next s) ∧
  (∀ s : State, startupAt s.hw 3 = false → exec (.startupStep .initDram) s = .next s) ∧
  (∀ (misread : Option Nat) (b : Bool) (s : State), startupAt s.hw 4 = true → s.hw.boot.imgRunning = some b →
    let img := slotImage (imgSlot s.hw b) imageSlotSize
    let recs := (imgRecs img).getD []
    let n := goodRecords (imgChainValues img recs) s.hw.boot.chain
    let n := match misread with | some i => min n (i - 1) | none => n
    yields (.imageApplication misread) s fun t => t.pending = s.pending ∧
      (recs.length ≤ n → t.hw.boot.recordsDone = true ∧ t.hw.mod.stepsDone = 5) ∧
      (n < recs.length → (imgSlot t.hw b).state = .bad)) ∧
  (∀ (b : Bool) (s : State), startupAt s.hw 4 = true → s.hw.boot.imgRunning = some b → bit s.hw.sup.voltOk 7 = true →
    imgRecs (slotImage (imgSlot s.hw b) imageSlotSize) ≠ none → imgRecs (slotImage (imgSlot s.hw b) imageSlotSize) ≠ some [] →
    yields (.imageApplication (some 1)) s fun t =>
      modeNow t.hw = 7 ∧ fget t.hw F_MODE_STATUS_LAST_CAUSE = 4 ∧ (imgSlot t.hw b).state = .bad ∧ alarmCause t.hw = true ∧ sameMemory s t) ∧
  (∀ s : State, startupAt s.hw 6 = true → gatesReady s.hw = true → yields .startupComplete s fun t =>
    modeNow t.hw = 3 ∧ fget t.hw F_BOOT_STATUS_LOCKED = 1 ∧ t.hw.boot.logClosed = true ∧ t.hw.boot.bootLen = s.hw.boot.log.length ∧
    fget t.hw F_INT_SRC_STATE_PENDING 0 srcReady = 1 ∧ fget t.hw F_RBT_STATUS_HELD = 1 ∧ sameMemory s t)

/-- A gate reset clears the gate and keeps its match tables and equalisation; a partition reset stops the partition, and CLEAR_MEM
zeroes its DRAM. GATE_RESET by Kydin or the owner's secure world: no lane of the gate keeps words, no holding-buffer record, marker,
message or pending downlink command stays (a pending command reads ABORTED), the lanes keep their equalisation, other gates' lanes
stay, and so do all three copies of the match tables where no command of them ran or waited; while the sequencer is to be loaded the
reset waits and the holding buffer stays. SEQUENCER_WATCHDOG_EXPIRY only counts until the third within a second, which retires the
gate logic. PARTITION_RESET with one START bit whose BUSY bit is clear: CLEAR_MEM takes the value written, BUSY is set, the
partition's state reads RESET, and with its CLEAR_MEM bit every byte of its DRAM members reads 0 and without it DRAM is unchanged; a
START bit of a partition that is BUSY starts nothing. PARTITION_RESET_RELEASE clears the BUSY bit. (R84, R87, R88, R101, R127, R158,
R555) -/
def Obligations.GateAndPartitionResets : Prop :=
  (∀ (who : Requester) (g : Fin 64) (s : State),
    (who = .kydin ∨ ∃ p, ownerGate s.hw g.val = some p ∧ isSecureOf s.hw who p = true) →
    (gateOf s.hw g.val).insert = none → (gateOf s.hw g.val).mtWait = [] → served s.hw who R_GATE_STATUS = true →
    seqHeld s.hw g.val = false →
    yields (.gateReset who g) s fun t =>
      (gateOf t.hw g.val).hb = [] ∧ (gateOf t.hw g.val).markers = [] ∧ (gateOf t.hw g.val).msgs = [] ∧ (gateOf t.hw g.val).dl = [] ∧
      (gateOf t.hw g.val).dlLane = none ∧ (gateOf t.hw g.val).frag = none ∧
      ((gateOf s.hw g.val).dlLane.isSome = true → fget t.hw F_GATE_DL_CMD_RESULT g.val = 6) ∧
      (∀ k : Fin 16, (laneOf t.hw g.val k.val).kept = [] ∧ (laneOf t.hw g.val k.val).hdr = none ∧
        (laneOf t.hw g.val k.val).eq = (laneOf s.hw g.val k.val).eq) ∧
      (∀ (g' : Fin 64) (k : Fin 16), g' ≠ g → laneOf t.hw g'.val k.val = laneOf s.hw g'.val k.val) ∧
      t.hw.ave.mt0 = s.hw.ave.mt0 ∧ t.hw.ave.mt1 = s.hw.ave.mt1 ∧ t.hw.ave.mt2 = s.hw.ave.mt2 ∧ sameMemory s t) ∧
  (∀ (who : Requester) (g : Fin 64) (s : State),
    (who = .kydin ∨ ∃ p, ownerGate s.hw g.val = some p ∧ isSecureOf s.hw who p = true) → served s.hw who R_GATE_STATUS = true →
    seqHeld s.hw g.val = true → (gateOf s.hw g.val).retired = true →
    yields (.gateReset who g) s fun t =>
      gateOf t.hw g.val = { gateOf s.hw g.val with resetWait := true } ∧ t.hw.lan.lane = s.hw.lan.lane ∧ t.hw.regs = s.hw.regs ∧ sameMemory s t) ∧
  (∀ (g : Fin 64) (s : State), (gateOf s.hw g.val).retired = false →
    let l := ((tget [] s.hw.kyd.gateFails (64 + g.val)).filter fun x => decide (gateTime s.hw ≤ x + second)) ++ [gateTime s.hw]
    (l.length < 3 → changes (.sequencerWatchdogExpiry g) s fun h =>
      { h with kyd := { h.kyd with gateFails := tset [] h.kyd.gateFails (64 + g.val) l } }) ∧
    (3 ≤ l.length → yields (.sequencerWatchdogExpiry g) s fun t => (gateOf t.hw g.val).retired = true ∧ sameMemory s t)) ∧
  (∀ (who : Requester) (clear : BitVec 8) (p : Fin 8) (s : State), accepts s who R_PART_RESET 0 0 →
    bit (fget s.hw F_PART_RESET_BUSY) p.val = false → s.hw.sup.powerFail = false →
    yields (.partitionReset who clear (BitVec.ofNat 8 (2 ^ p.val))) s fun t =>
      fget t.hw F_PART_RESET_CLEAR_MEM = clear.toNat ∧ bit (fget t.hw F_PART_RESET_BUSY) p.val = true ∧
      fget t.hw F_PART_STATUS_STATE 0 p.val = 2 ∧
      (bit clear.toNat p.val = false → t.mem.dram = s.mem.dram) ∧
      (bit clear.toNat p.val = true → ∀ m ∈ membersOf s.hw p.val, m.2.1 + m.2.2 ≤ 128 → ∀ o, o < m.2.2 * 2 ^ 28 →
        t.mem.byte (dkey m.1 (m.2.1 * 2 ^ 28 + o)) = 0) ∧ t.pending = s.pending) ∧
  (∀ (who : Requester) (clear start : BitVec 8) (s : State), accepts s who R_PART_RESET 0 0 →
    (∀ p : Fin 8, bit start.toNat p.val = true → bit (fget s.hw F_PART_RESET_BUSY) p.val = true) →
    changes (.partitionReset who clear start) s fun h => fset (setBusErr h false) F_PART_RESET_CLEAR_MEM clear.toNat) ∧
  (∀ (p : Fin 8) (s : State), bit (fget s.hw F_PART_RESET_BUSY) p.val = true → updateTouches s.hw p.val = false → s.hw.kyd.retireWait = none →
    yields (.partitionResetRelease p) s fun t => bit (fget t.hw F_PART_RESET_BUSY) p.val = false ∧ t.pending = s.pending) ∧
  (∀ (p : Fin 8) (s : State), bit (fget s.hw F_PART_RESET_BUSY) p.val = false → exec (.partitionResetRelease p) s = .next s)

/-- A CLK_X edge advances the crossing and the turn, a gain of lock sets them, and a gap loses the lock. CLK_X_EDGE while locked,
with no gap since the last edge, a span within 100 ppm and no shadow write waiting: the crossing number rises by one below
CROSSINGS_PER_TURN; at a TURN, and where it would reach CROSSINGS_PER_TURN, it becomes 0 and the turn count advances, with a TURN
error exactly where TURN and the wrap do not fall together (unless the turn before had one, which loses the lock); with ARM the TURN
sets VALUE and clears ARM. Unlocked, an edge that completes the conditions gains the lock with the crossing counted from the last
TURN and the turn count 0 the first time and one more later. CLK_X_GAP: PRESENT, LOCKED, FREQ_OK and TURN_SEEN read 0, periods count
afresh, a loss is counted, M4 and M6 cease to be permitted, and in M4 or M6 with V_in at M7's threshold the module is in M7 with
Avenue stopped. (R63, R73, R163, R164, R165, R166) -/
def Obligations.CrossingClockCountsAndLosesLock : Prop :=
  (∀ (at64 : Nat) (turn accept : Bool) (s : State), fon s.hw F_TIMING_STATUS_LOCKED = true → s.hw.ave.waiting = [] →
    let n := max s.hw.now at64
    (∀ e, s.hw.tim.edges.head? = some e → n ≤ e + 16384) →
    spanWithin { s.hw with tim := { s.hw.tim with edges := (n :: s.hw.tim.edges).take 1025 } } 100 ≠ some false →
    s.hw.tim.errTurn = false →
    let x := fget s.hw F_TIMING_STATUS_CROSSING + 1
    let v := fget s.hw F_TIMING_TURN_TURN + 1
    yields (.clkXEdge at64 turn accept) s fun t =>
      t.hw.now = n ∧ fon t.hw F_TIMING_STATUS_LOCKED = true ∧ fget t.hw F_TIMING_STATUS_PRESENT = 1 ∧ sameMemory s t ∧
      (turn = false → x < perTurn s.hw → fget t.hw F_TIMING_STATUS_CROSSING = x % 2 ^ 16 ∧
        fget t.hw F_TIMING_TURN_TURN = fget s.hw F_TIMING_TURN_TURN ∧ fget t.hw F_TIMING_STATUS_TURN_ERRS = fget s.hw F_TIMING_STATUS_TURN_ERRS) ∧
      (turn = false → perTurn s.hw ≤ x → fget t.hw F_TIMING_STATUS_CROSSING = 0 ∧ fget t.hw F_TIMING_TURN_TURN = v % 2 ^ 32 ∧
        fget t.hw F_TIMING_STATUS_TURN_ERRS = min (fget s.hw F_TIMING_STATUS_TURN_ERRS + 1) (2 ^ 16 - 1)) ∧
      (turn = true → fget t.hw F_TIMING_STATUS_CROSSING = 0 ∧ fget t.hw F_TIMING_TURN_TIME_CYCLES = n / 64 % 2 ^ F_TIMING_TURN_TIME_CYCLES.width ∧
        (fon s.hw F_TIMING_TURN_SET_ARM = false → fget t.hw F_TIMING_TURN_TURN = v % 2 ^ 32) ∧
        (fon s.hw F_TIMING_TURN_SET_ARM = true → fget t.hw F_TIMING_TURN_TURN = fget s.hw F_TIMING_TURN_SET_VALUE % 2 ^ 32 ∧
          fget t.hw F_TIMING_TURN_SET_ARM = 0) ∧
        (perTurn s.hw ≤ x → fget t.hw F_TIMING_STATUS_TURN_ERRS = fget s.hw F_TIMING_STATUS_TURN_ERRS) ∧
        (x < perTurn s.hw → fget t.hw F_TIMING_STATUS_TURN_ERRS = min (fget s.hw F_TIMING_STATUS_TURN_ERRS + 1) (2 ^ 16 - 1)))) ∧
  (∀ (at64 k : Nat) (accept : Bool) (s : State), fon s.hw F_TIMING_STATUS_LOCKED = false → s.hw.ave.waiting = [] →
    let n := max s.hw.now at64
    (∀ e, s.hw.tim.edges.head? = some e → n ≤ e + 16384) →
    spanWithin { s.hw with tim := { s.hw.tim with edges := (n :: s.hw.tim.edges).take 1025 } } 50 = some true →
    s.hw.tim.sinceTurn = some k → k < 1024 → fon s.hw F_TIMING_TURN_SET_ARM = false →
    yields (.clkXEdge at64 false accept) s fun t =>
      fon t.hw F_TIMING_STATUS_LOCKED = true ∧ fget t.hw F_TIMING_STATUS_CROSSING = (k + 1) % perTurn s.hw % 2 ^ 16 ∧
      fget t.hw F_TIMING_TURN_TURN = (if s.hw.tim.everLocked then (fget s.hw F_TIMING_TURN_TURN + 1) % 2 ^ 32 else 0) ∧
      t.hw.tim.everLocked = true ∧ sameMemory s t) ∧
  (∀ s : State, fon s.hw F_MODE_STATUS_IN_TRANSITION = false → yields .clkXGap s fun t =>
    fget t.hw F_TIMING_STATUS_PRESENT = 0 ∧ fon t.hw F_TIMING_STATUS_LOCKED = false ∧ fget t.hw F_TIMING_STATUS_FREQ_OK = 0 ∧
    fget t.hw F_TIMING_STATUS_TURN_SEEN = 0 ∧ t.hw.tim.edges = [] ∧ t.hw.tim.sinceTurn = none ∧ sameMemory s t ∧
    (fon s.hw F_TIMING_STATUS_LOCKED = true →
      fget t.hw F_TIMING_STATUS_LOCK_LOSSES = min (fget s.hw F_TIMING_STATUS_LOCK_LOSSES + 1) (2 ^ 16 - 1) ∧
      permitted t.hw 4 = false ∧ permitted t.hw 6 = false ∧
      ((modeNow s.hw = 4 ∨ modeNow s.hw = 6) → bit s.hw.sup.voltOk 7 = true → modeNow t.hw = 7 ∧ fget t.hw F_AVE_STATUS_RUNNING = 0) ∧
      (modeNow s.hw ≠ 4 → modeNow s.hw ≠ 6 → modeNow t.hw = modeNow s.hw)) ∧
    (fon s.hw F_TIMING_STATUS_LOCKED = false → modeNow t.hw = modeNow s.hw ∧
      fget t.hw F_TIMING_STATUS_LOCK_LOSSES = fget s.hw F_TIMING_STATUS_LOCK_LOSSES))

/-- Uplink blocks: block lock, superframe blocks, and the five control blocks with a good CHECK. For a lane of a READOUT gate.
DATA_BLOCK: a lane that is DOWN, or of a gate not in use, ignores it; the 64th valid sync header gains block lock with a SEND_ALIGN
due and the training window open; on a lane that delivers words a valid data block is descrambled and added to the superframe (up to
the 15th block). A control block with a good CHECK on a lane that delivers words between superframes: STATUS keeps CODE and raises
the front-end source; FE_LOSS counts a HDR_ERR; IDLE changes no register; an ACK of the pending command ends it ACKED with its TAG,
RESULT and DATA, another one outside the training window, not of a HALF_RATE and not of the latest broadcast counts in LATE_ACKS.
The first good ALIGN in BLOCK_LOCK aligns the lane. A control block with a bad CHECK counts one BLOCK_ERR and does nothing else to
the registers. A control block inside a superframe ends it and counts a BLOCK_ERR. (R34, R142, R143, R144, R145, R147, R148, R155,
R158, R160) -/
def Obligations.UplinkBlocksReachTheirLane : Prop :=
  (∀ (g : Fin 64) (k : Fin 16) (sync : BitVec 2) (raw : BitVec 64) (s : State),
    (laneState s.hw g.val k.val = 0 ∨ gateInUse s.hw g.val = false → exec (.dataBlock g k sync raw) s = .next s) ∧
    (gateInUse s.hw g.val = true → laneState s.hw g.val k.val = 1 → (laneOf s.hw g.val k.val).goodRun = 63 → boulevard s.hw g.val = false → sync = 1#2 ∨ sync = 2#2 →
      yields (.dataBlock g k sync raw) s fun t =>
        laneState t.hw g.val k.val = 2 ∧ (laneOf t.hw g.val k.val).sendAlign = true ∧ (laneOf t.hw g.val k.val).trainWin = true ∧
        onlyRegs s.hw t.hw [F_LANE_STATUS_STATE.key g.val k.val] ∧ sameMemory s t) ∧
    (gateInUse s.hw g.val = true → laneUp s.hw g.val k.val = true → boulevard s.hw g.val = false → sync = 1#2 → (laneOf s.hw g.val k.val).sf.length < 15 →
      yields (.dataBlock g k sync raw) s fun t =>
        (laneOf t.hw g.val k.val).sf = (laneOf s.hw g.val k.val).sf ++ [(descramble (laneOf s.hw g.val k.val).hist raw).1] ∧
        (laneOf t.hw g.val k.val).hist = (descramble (laneOf s.hw g.val k.val).hist raw).2 ∧
        laneState t.hw g.val k.val = laneState s.hw g.val k.val ∧ sameMemory s t)) ∧
  (∀ (g : Fin 64) (k : Fin 16) (body : BitVec 48) (s : State), gateInUse s.hw g.val = true → laneUp s.hw g.val k.val = true →
    boulevard s.hw g.val = false → (laneOf s.hw g.val k.val).sf = [] →
    (yields (.status g k body (crc8 (controlPayload 0x33 body 0))) s fun t =>
      fget t.hw F_LANE_STATUS_FE_CODE g.val k.val = bits body.toNat 15 0 ∧ fget t.hw F_INT_SRC_STATE_PENDING 0 (srcGate g.val 1) = 1 ∧
      onlyRegs s.hw t.hw [F_LANE_STATUS_FE_CODE.key g.val k.val, F_INT_SRC_STATE_PENDING.key 0 (srcGate g.val 1),
        F_INT_SRC_STATE_EVENTS.key 0 (srcGate g.val 1)] ∧ sameMemory s t) ∧
    (yields (.feLoss g k body (crc8 (controlPayload 0x55 body 0))) s fun t =>
      fget t.hw F_LANE_ERR_HDR_ERR g.val k.val = min (fget s.hw F_LANE_ERR_HDR_ERR g.val k.val + 1) (2 ^ 16 - 1) ∧
      onlyRegs s.hw t.hw [F_LANE_ERR_HDR_ERR.key g.val k.val] ∧ sameMemory s t) ∧
    (yields (.uplinkIdle g k (crc8 (controlPayload 0x1E 0 0))) s fun t => t.hw.regs = s.hw.regs ∧ sameMemory s t) ∧
    (∀ check : BitVec 8, check ≠ crc8 (controlPayload 0x1E 0 0) → yields (.uplinkIdle g k check) s fun t =>
      fget t.hw F_LANE_ERR_BLOCK_ERR g.val k.val = min (fget s.hw F_LANE_ERR_BLOCK_ERR g.val k.val + 1) (2 ^ 16 - 1) ∧
      onlyRegs s.hw t.hw [F_LANE_ERR_BLOCK_ERR.key g.val k.val] ∧ sameMemory s t) ∧
    ((gateOf s.hw g.val).dlLane = some (k.val, bits body.toNat 7 0) → fget s.hw F_GATE_DL_CMD_SEQ g.val = bits body.toNat 7 0 →
      yields (.ack g k body (crc8 (controlPayload 0x4B body 0))) s fun t =>
        (gateOf t.hw g.val).dlLane = none ∧ fget t.hw F_GATE_DL_CMD_RESULT g.val = 3 ∧ fget t.hw F_GATE_DL_ACK_TAG g.val = bits body.toNat 7 0 ∧
        fget t.hw F_GATE_DL_ACK_FE_RESULT g.val = bits body.toNat 15 8 ∧ fget t.hw F_GATE_DL_ACK_DATA g.val = bits body.toNat 47 16 ∧ sameMemory s t) ∧
    ((gateOf s.hw g.val).dlLane ≠ some (k.val, bits body.toNat 7 0) → bit (gateOf s.hw g.val).halfRate.2 k.val = false →
      (laneOf s.hw g.val k.val).trainWin = false → (gateOf s.hw g.val).bcast ≠ some (bits body.toNat 7 0) →
      yields (.ack g k body (crc8 (controlPayload 0x4B body 0))) s fun t =>
        fget t.hw F_GATE_DL_ACK_LATE_ACKS g.val =
          min (fget s.hw F_GATE_DL_ACK_LATE_ACKS g.val + 1) (2 ^ F_GATE_DL_ACK_LATE_ACKS.width - 1) ∧
        onlyRegs s.hw t.hw [F_GATE_DL_ACK_LATE_ACKS.key g.val 0] ∧ sameMemory s t)) ∧
  (∀ (g : Fin 64) (k : Fin 16) (body : BitVec 48) (phase : BitVec 6) (s : State), gateInUse s.hw g.val = true → laneState s.hw g.val k.val = 2 → boulevard s.hw g.val = false →
    (laneOf s.hw g.val k.val).aligned = false →
    yields (.align g k body (crc8 (controlPayload 0x2D body 0)) phase) s fun t =>
      laneState t.hw g.val k.val = (if fget s.hw F_GATE_STATUS_TAKEOVER g.val = 2 then 5 else 3) ∧
      fget t.hw F_LANE_STATUS_PHASE g.val k.val = phase.toNat ∧ (laneOf t.hw g.val k.val).aligned = true ∧
      (laneOf t.hw g.val k.val).sf = [] ∧ (laneOf t.hw g.val k.val).sendAlign = false ∧
      bit (fget t.hw F_GATE_STATUS_LANES_READY g.val) k.val = true ∧ sameMemory s t) ∧
  (∀ (g : Fin 64) (k : Fin 16) (check : BitVec 8) (s : State), gateInUse s.hw g.val = true → laneUp s.hw g.val k.val = true → boulevard s.hw g.val = false →
    (laneOf s.hw g.val k.val).sf ≠ [] → fget s.hw F_LANE_ERR_BLOCK_ERR g.val k.val = 0 →
    yields (.uplinkIdle g k check) s fun t => (laneOf t.hw g.val k.val).sf = [] ∧ fget t.hw F_LANE_ERR_BLOCK_ERR g.val k.val ≠ 0 ∧ sameMemory s t)

/-- The downlink sends a due marker, else a command, else SEND_ALIGN or IDLE; GATE_DL_CMD ends as its rule says. DOWNLINK_BLOCK_SLOT
on a lane that is not DOWN, of a READOUT gate that sends, sends the first due: a TURN, and else a MARK, whose boundary has come and
that this lane has not sent, a command for this lane, the SEND_ALIGN of training, IDLE; the block goes out with its CHECK,
scrambled, behind a control sync header; only the lane and the gate's own lists change, and no register. Of a gate that does not
send nothing goes out. A write to GATE_DL_CMD that is accepted raises SEQ by one modulo 256 and ends BUSY while a command is
pending, the sequencer is held for a load, or the lane is in its training window, PENDING for an ALIGNED lane with the command
queued under that TAG, LANE_DOWN for another single lane, and SENT for a broadcast. DL_TIMEOUT after the CMD block left ends the
pending command TIMEOUT. (R155, R156, R158, R159, R569) -/
def Obligations.DownlinkSendsMarkersThenCommands : Prop :=
  (∀ (g : Fin 64) (k : Fin 16) (s : State), gateSends s.hw g.val = false → exec (.downlinkBlockSlot g k) s = .next s) ∧
  (∀ (g : Fin 64) (k : Fin 16) (s : State), laneState s.hw g.val k.val ≠ 0 → boulevard s.hw g.val = false → gateSends s.hw g.val = true →
    let due := (gateOf s.hw g.val).markers.filter fun m => decide (m.due ≤ s.hw.now * 125) && !bit m.sent k.val
    yields (.downlinkBlockSlot g k) s fun t =>
      t.hw.regs = s.hw.regs ∧ sameMemory s t ∧ (∀ (g' : Fin 64) (k' : Fin 16), (g', k') ≠ (g, k) → laneOf t.hw g'.val k'.val = laneOf s.hw g'.val k'.val) ∧
      (laneOf t.hw g.val k.val).sent =
        (match (due.find? (·.isTurn)).or due.head? with
         | some m => some (markerBody m)
         | none => match (gateOf s.hw g.val).dl.find? fun c => bit c.lanes k.val with
           | some c => some (0x87, c.tag + c.opcode * 2 ^ 8 + c.arg * 2 ^ 16)
           | none => if (laneOf s.hw g.val k.val).sendAlign then some (0x87, 2 * 2 ^ 8) else some (0x1E, 0)) ∧
      (∀ type body, (laneOf t.hw g.val k.val).sent = some (type, body) →
        let b := BitVec.ofNat 48 body
        (laneOf t.hw g.val k.val).wire =
          some (2#2, (scramble (laneOf s.hw g.val k.val).txHist (controlPayload type b (crc8 (controlPayload type b 0)))).1))) ∧
  (∀ (who : Requester) (g : Fin 64) (lane : BitVec 5) (op : BitVec 8) (arg : BitVec 32) (s : State), accepts s who R_GATE_DL_CMD g.val 0 →
    let tag := (fget s.hw F_GATE_DL_CMD_SEQ g.val + 1) % 256
    let busy := (gateOf s.hw g.val).dlLane.isSome = true ∨ seqHeld s.hw g.val = true ∨ (lane.toNat < 16 ∧ (laneOf s.hw g.val lane.toNat).trainWin = true)
    yields (.gateDlCmd who g lane op arg) s fun t =>
      fget t.hw F_GATE_DL_CMD_SEQ g.val = tag ∧
      onlyRegs s.hw t.hw [F_GATE_DL_CMD_SEQ.key g.val 0, F_GATE_DL_CMD_RESULT.key g.val 0] ∧ sameMemory s t ∧
      (busy → fget t.hw F_GATE_DL_CMD_RESULT g.val = 5 ∧ t.hw.lan = s.hw.lan) ∧
      (¬ busy → lane.toNat < 16 → laneUp s.hw g.val lane.toNat = true → fget t.hw F_GATE_DL_CMD_RESULT g.val = 2 ∧
        (gateOf t.hw g.val).dlLane = some (lane.toNat, tag) ∧
        (gateOf t.hw g.val).dl = (gateOf s.hw g.val).dl ++ [{ tag := tag, opcode := op.toNat, arg := arg.toNat, lanes := 2 ^ lane.toNat }]) ∧
      (¬ busy → lane ≠ 31#5 → (16 ≤ lane.toNat ∨ laneUp s.hw g.val lane.toNat = false) →
        fget t.hw F_GATE_DL_CMD_RESULT g.val = 7 ∧ t.hw.lan = s.hw.lan) ∧
      (¬ busy → lane = 31#5 → fget t.hw F_GATE_DL_CMD_RESULT g.val = 1 ∧ (gateOf t.hw g.val).bcast = some tag)) ∧
  (∀ (g : Fin 64) (j tag : Nat) (s : State), (gateOf s.hw g.val).dlLane = some (j, tag) → ((gateOf s.hw g.val).dl.any fun c => c.tag == tag) = false →
    yields (.dlTimeout g) s fun t => (gateOf t.hw g.val).dlLane = none ∧
      (fget s.hw F_GATE_DL_CMD_SEQ g.val = tag → fget t.hw F_GATE_DL_CMD_RESULT g.val = 4) ∧
      onlyRegs s.hw t.hw [F_GATE_DL_CMD_RESULT.key g.val 0] ∧ sameMemory s t)

/-- Training events and RECAL and RETRAIN move a lane as its states say. TRAINING_SEND_ALIGN makes a SEND_ALIGN due on a READOUT
lane in BLOCK_LOCK; TRAINING_WINDOW_END closes the window once DL_TIMEOUT has run from alignment; TRAINING_TIMEOUT leaves a lane
that has not aligned in DL_ONLY; TRAINING_RETRY trains it from the stored values or from defaults. RECAL of an ALIGNED lane runs,
RECAL_DONE is ALIGNED again with twelve measured coefficients (open values, log 7) stored in NOR, and ends the RECAL where that is
the gate's latest command; RETRAIN of a lane in use that is not training trains it afresh; RECAL or RETRAIN of a lane in RECAL,
DL_ONLY or BLOCK_LOCK is BUSY. BG_ADAPT_STEP moves each coefficient by at most one, and the CTLE within its 16 steps. (R160, R161,
R162, R174, R569) -/
def Obligations.LanesTrainAndRecalibrate : Prop :=
  (∀ (g : Fin 64) (k : Fin 16) (s : State), laneState s.hw g.val k.val = 2 → boulevard s.hw g.val = false →
    changes (.trainingSendAlign g k) s fun h => setLane h g.val k.val { laneOf h g.val k.val with sendAlign := true }) ∧
  (∀ (g : Fin 64) (k : Fin 16) (s : State),
    ((laneOf s.hw g.val k.val).trainWin = true → (laneOf s.hw g.val k.val).winTimer = true →
      changes (.trainingWindowEnd g k) s fun h => setLane h g.val k.val { laneOf h g.val k.val with trainWin := false, winTimer := false }) ∧
    (((laneOf s.hw g.val k.val).trainWin = false ∨ (laneOf s.hw g.val k.val).winTimer = false) → exec (.trainingWindowEnd g k) s = .next s)) ∧
  (∀ (g : Fin 64) (k : Fin 16) (s : State), laneState s.hw g.val k.val = 1 ∨ laneState s.hw g.val k.val = 2 →
    yields (.trainingTimeout g k) s fun t => laneState t.hw g.val k.val = 1 ∧ (laneOf t.hw g.val k.val).timedOut = true ∧
      (laneOf t.hw g.val k.val).eq = (laneOf s.hw g.val k.val).eq ∧ sameMemory s t) ∧
  (∀ (g : Fin 64) (k : Fin 16) (s : State), laneState s.hw g.val k.val = 1 → (laneOf s.hw g.val k.val).timedOut = true →
    yields (.trainingRetry g k) s fun t => laneState t.hw g.val k.val = 1 ∧
      (fon s.hw F_LANE_CONFIG_EQ_STORED g.val k.val = false → (laneOf t.hw g.val k.val).eq = List.replicate 12 0) ∧
      (fon s.hw F_LANE_CONFIG_EQ_STORED g.val k.val = true → (tget [] s.hw.lan.eqStored (16 * g.val + k.val)).length = 12 →
        (laneOf t.hw g.val k.val).eq = tget [] s.hw.lan.eqStored (16 * g.val + k.val)) ∧
      (let b := k.val / 4
       let trains := boulevard s.hw g.val = true ∧ fget s.hw F_BLVD_BUNDLE_STATE g.val b = 0 ∧ ∀ j, j < 4 → fget s.hw F_LANE_CONFIG_IN_USE g.val (4 * b + j) = 1
       (trains → fget t.hw F_BLVD_BUNDLE_STATE g.val b = 1) ∧ (¬ trains → fget t.hw F_BLVD_BUNDLE_STATE g.val b = fget s.hw F_BLVD_BUNDLE_STATE g.val b)) ∧
      onlyRegs s.hw t.hw [F_LANE_STATUS_STATE.key g.val k.val, F_BLVD_BUNDLE_STATE.key g.val (k.val / 4)] ∧ sameMemory s t) ∧
  (∀ (who : Requester) (g : Fin 64) (k : Fin 16) (s : State), accepts s who R_GATE_CTRL g.val 0 →
    (laneState s.hw g.val k.val = 3 → changes (.recal who g k) s fun h =>
      setCtrl (answer (fset (setBusErr h false) F_LANE_STATUS_STATE 4 g.val k.val) F_GATE_CTRL_RESULT F_GATE_CTRL_SEQ 1 g.val) g.val (some k.val)) ∧
    (laneState s.hw g.val k.val ∈ [1, 2, 4] →
      changes (.recal who g k) s (fun h => setCtrl (answer (setBusErr h false) F_GATE_CTRL_RESULT F_GATE_CTRL_SEQ 5 g.val) g.val none) ∧
      changes (.retrain who g k) s (fun h => setCtrl (answer (setBusErr h false) F_GATE_CTRL_RESULT F_GATE_CTRL_SEQ 5 g.val) g.val none)) ∧
    (laneState s.hw g.val k.val ∉ [1, 2, 4] → gateInUse s.hw g.val = true → fon s.hw F_LANE_CONFIG_IN_USE g.val k.val = true →
      ownerResets s.hw g.val = false → yields (.retrain who g k) s fun t => laneState t.hw g.val k.val = 1 ∧ (laneOf t.hw g.val k.val).aligned = false ∧
        fget t.hw F_GATE_CTRL_RESULT g.val = 2 ∧ fget t.hw F_GATE_CTRL_SEQ g.val = (fget s.hw F_GATE_CTRL_SEQ g.val + 1) % 256 ∧ sameMemory s t)) ∧
  (∀ (g : Fin 64) (k : Fin 16) (s : State), laneState s.hw g.val k.val = 4 → yields (.recalDone g k) s fun t =>
    laneState t.hw g.val k.val = 3 ∧ (laneOf t.hw g.val k.val).eq.length = 12 ∧
    tget [] t.hw.lan.eqStored (16 * g.val + k.val) = (laneOf t.hw g.val k.val).eq ∧
    (laneOf t.hw g.val k.val).sf = (laneOf s.hw g.val k.val).sf ∧
    fget t.hw F_GATE_CTRL_RESULT g.val = (if (gateOf s.hw g.val).ctrlRun = some k.val then 2 else fget s.hw F_GATE_CTRL_RESULT g.val) ∧ sameMemory s t) ∧
  (∀ (g : Fin 64) (k : Fin 16) (moves : List Int) (s : State), fon s.hw F_LANE_CONFIG_BG_ADAPT g.val k.val = true → laneUp s.hw g.val k.val = true →
    yields (.bgAdaptStep g k moves) s fun t => t.hw.regs = s.hw.regs ∧ sameMemory s t ∧
      (laneOf t.hw g.val k.val).eq.length = (laneOf s.hw g.val k.val).eq.length ∧
      ∀ (i : Nat) (a b : Int), (laneOf s.hw g.val k.val).eq[i]? = some a → (laneOf t.hw g.val k.val).eq[i]? = some b →
        (i = 0 → 0 ≤ a ∧ a ≤ 15) → b - a ≤ 1 ∧ a - b ≤ 1 ∧ (i = 0 → 0 ≤ b ∧ b ≤ 15))

/-- TAKEOVER starts only as its rule allows, completes with lanes that did not acknowledge DOWN, and RELEASE reverses it. An
accepted TAKEOVER of a gate with none and no RELEASE running is REFUSED unless the partner's gate logic is retired, both gates are
one partition's READOUT gates, TAKEOVER_EN is set and neither is in takeover; then it is RUNNING with the ALIGNED lanes of both
gates awaited, and HALF_RATE queued for them. TAKEOVER_COMPLETE reports 1 and 2 in the two gates with HALF_RATE, leaves every
awaited lane without an acknowledgement DOWN and counted, and the partner's acknowledged lanes in BLOCK_LOCK, waiting for their
ALIGN at the gate. RELEASE is REFUSED unless the gate is in takeover and the partner is back in service; it queues HALF_RATE with
ARG 0 for the ALIGNED lanes of both gates and runs until their last ACK, or until DL_TIMEOUT leaves the lanes without one DOWN; then
the gates report 0 and the partner's lanes wait for their ALIGN at their own gate. (R160, R171, R172, R174) -/
def Obligations.PairedGatesTakeOverAndRelease : Prop :=
  (∀ (who : Requester) (g : Fin 64) (s : State), accepts s who R_GATE_CTRL g.val 0 →
    (gateOf s.hw g.val).takeover = none → (gateOf s.hw g.val).release = none →
    let may := (gateOf s.hw (partner g.val)).retired = true ∧ (∃ p, ownerGate s.hw g.val = some p ∧ ownerGate s.hw (partner g.val) = some p) ∧
      fget s.hw F_GATE_CONFIG_PERSONALITY g.val = 1 ∧ fget s.hw F_GATE_CONFIG_PERSONALITY (partner g.val) = 1 ∧
      fon s.hw F_GATE_CONFIG_TAKEOVER_EN g.val = true ∧ fget s.hw F_GATE_STATUS_TAKEOVER g.val = 0 ∧
      fget s.hw F_GATE_STATUS_TAKEOVER (partner g.val) = 0
    (¬ may → changes (.takeover who g) s fun h => setCtrl (answer (setBusErr h false) F_GATE_CTRL_RESULT F_GATE_CTRL_SEQ 4 g.val) g.val none) ∧
    (may → yields (.takeover who g) s fun t =>
      fget t.hw F_GATE_CTRL_RESULT g.val = 1 ∧
      (gateOf t.hw g.val).takeover = some (lanesWhere s.hw g.val (laneUp s.hw g.val), lanesWhere s.hw (partner g.val) (laneUp s.hw (partner g.val))) ∧
      (∀ k : Fin 16, fon s.hw F_LANE_CONFIG_IN_USE g.val k.val = true → laneUp s.hw g.val k.val = true →
        ∃ c ∈ (gateOf t.hw g.val).dl, c.opcode = 4 ∧ c.arg = 1 ∧ bit c.lanes k.val = true) ∧
      onlyRegs s.hw t.hw [F_GATE_CTRL_RESULT.key g.val 0, F_GATE_CTRL_SEQ.key g.val 0] ∧ sameMemory s t)) ∧
  (∀ (g : Fin 64) (ownAcks partnerAcks : BitVec 16) (own oth : Nat) (s : State), (gateOf s.hw g.val).takeover = some (own, oth) → own < 2 ^ 16 → oth < 2 ^ 16 →
    (gateOf s.hw g.val).halfRate.2 = own → (gateOf s.hw (partner g.val)).halfRate.2 = oth →
    yields (.takeoverComplete g ownAcks partnerAcks) s fun t =>
      fget t.hw F_GATE_STATUS_TAKEOVER g.val = 1 ∧ fget t.hw F_GATE_STATUS_TAKEOVER (partner g.val) = 2 ∧
      fget t.hw F_GATE_STATUS_HALF_RATE g.val = 1 ∧ fget t.hw F_GATE_STATUS_HALF_RATE (partner g.val) = 1 ∧
      (gateOf t.hw g.val).takeover = none ∧
      (∀ k : Fin 16, bit own k.val = true → ownAcks.getLsbD k.val = false → laneState t.hw g.val k.val = 0) ∧
      (∀ k : Fin 16, bit oth k.val = true → partnerAcks.getLsbD k.val = false → laneState t.hw (partner g.val) k.val = 0) ∧
      (∀ k : Fin 16, bit oth k.val = true → partnerAcks.getLsbD k.val = true → laneUp s.hw (partner g.val) k.val = true →
        laneState t.hw (partner g.val) k.val = 2 ∧ (laneOf t.hw (partner g.val) k.val).aligned = false ∧
        (laneOf t.hw (partner g.val) k.val).sendAlign = true) ∧
      (gateOf t.hw g.val).takeoverFails = (gateOf s.hw g.val).takeoverFails + popcount 16 (own - own.land ownAcks.toNat) +
        popcount 16 (oth - oth.land partnerAcks.toNat) ∧ sameMemory s t) ∧
  (∀ (who : Requester) (g : Fin 64) (s : State), accepts s who R_GATE_CTRL g.val 0 →
    (gateOf s.hw g.val).release = none →
    (fget s.hw F_GATE_STATUS_TAKEOVER g.val ≠ 1 ∨ (gateOf s.hw (partner g.val)).retired = true →
      changes (.release who g) s fun h => setCtrl (answer (setBusErr h false) F_GATE_CTRL_RESULT F_GATE_CTRL_SEQ 4 g.val) g.val none) ∧
    (fget s.hw F_GATE_STATUS_TAKEOVER g.val = 1 → (gateOf s.hw (partner g.val)).retired = false →
      let own := lanesWhere s.hw g.val (laneUp s.hw g.val)
      let oth := lanesWhere s.hw (partner g.val) (laneUp s.hw (partner g.val))
      (own = 0 → oth = 0 → yields (.release who g) s fun t => fget t.hw F_GATE_CTRL_RESULT g.val = 2 ∧
        fget t.hw F_GATE_STATUS_TAKEOVER g.val = 0 ∧ fget t.hw F_GATE_STATUS_TAKEOVER (partner g.val) = 0 ∧
        fget t.hw F_GATE_STATUS_HALF_RATE g.val = 0 ∧ fget t.hw F_GATE_STATUS_HALF_RATE (partner g.val) = 0 ∧ sameMemory s t) ∧
      ((own, oth) ≠ (0, 0) → yields (.release who g) s fun t => fget t.hw F_GATE_CTRL_RESULT g.val = 1 ∧
        (gateOf t.hw g.val).release = some (own, oth) ∧ (gateOf t.hw g.val).halfRate.2 = own ∧ (gateOf t.hw (partner g.val)).halfRate.2 = oth ∧
        (∀ k : Fin 16, bit own k.val = true → ∃ c ∈ (gateOf t.hw g.val).dl, c.opcode = 4 ∧ c.arg = 0 ∧ bit c.lanes k.val = true) ∧
        (∀ k : Fin 16, bit oth k.val = true → ∃ c ∈ (gateOf t.hw (partner g.val)).dl, c.opcode = 4 ∧ c.arg = 0 ∧ bit c.lanes k.val = true) ∧
        onlyRegs s.hw t.hw [F_GATE_CTRL_RESULT.key g.val 0, F_GATE_CTRL_SEQ.key g.val 0] ∧ sameMemory s t))) ∧
  (∀ (g : Fin 64) (own oth : Nat) (s : State), (gateOf s.hw g.val).release = some (own, oth) → (gateOf s.hw g.val).dlLane = none →
    halfRateDue s.hw g.val = false → (gateOf s.hw g.val).halfRate.2 < 2 ^ 16 → (gateOf s.hw (partner g.val)).halfRate.2 < 2 ^ 16 →
    yields (.dlTimeout g) s fun t =>
      fget t.hw F_GATE_STATUS_TAKEOVER g.val = 0 ∧ fget t.hw F_GATE_STATUS_TAKEOVER (partner g.val) = 0 ∧
      fget t.hw F_GATE_STATUS_HALF_RATE g.val = 0 ∧ fget t.hw F_GATE_STATUS_HALF_RATE (partner g.val) = 0 ∧
      (gateOf t.hw g.val).release = none ∧ ((gateOf s.hw g.val).ctrlRun = some 16 → fget t.hw F_GATE_CTRL_RESULT g.val = 2) ∧
      (∀ k : Fin 16, bit (gateOf s.hw g.val).halfRate.2 k.val = true → laneState t.hw g.val k.val = 0) ∧
      (∀ k : Fin 16, bit (gateOf s.hw (partner g.val)).halfRate.2 k.val = true → laneState t.hw (partner g.val) k.val = 0) ∧
      (∀ k : Fin 16, bit (gateOf s.hw (partner g.val)).halfRate.2 k.val = false → laneState s.hw (partner g.val) k.val = 5 →
        laneState t.hw (partner g.val) k.val = 2 ∧ (laneOf t.hw (partner g.val) k.val).sendAlign = true) ∧ sameMemory s t)

/-- A search yields the primitive of the matching entry with the highest priority, and of those the one at the lowest address. For
every state, copy, gate and word, with the copy's table as the gate searches it in this gate cycle listed in rising order of address
(an entry that changes in a cycle is searched as it was until the next one): a search that no entry of the gate matches yields no
primitive, and one that entries match yields the address and the PRIMITIVE of the entry whose PRIORITY no other matching entry
exceeds and which no matching entry of the same PRIORITY precedes. (R176) -/
def Obligations.SearchTakesTheHighestPriorityThenTheLowestAddress : Prop :=
  (∀ (h : Hw) (c g : Nat), (gateOf h g).mtOld.1 ≠ h.now / 64 → mtView h c g = mtOf h c) ∧
  ∀ (h : Hw) (c g w : Nat), (mtView h c g).Pairwise (fun a b => a.1 < b.1) →
    (mtHit h c g w = none ↔ ∀ e ∈ mtView h c g, e.1 / 1024 = g → mtMatch w e.2 = false) ∧
    mtSearch h c g w = (mtHit h c g w).map (·.2) ∧
    (∀ a p, mtHit h c g w = some (a, p) ↔ a < 1024 ∧
      ∃ e, (1024 * g + a, e) ∈ mtView h c g ∧ mtMatch w e = true ∧ e.prim = p ∧
        ∀ b f, (1024 * g + b, f) ∈ mtView h c g → b < 1024 → mtMatch w f = true → f.prio < e.prio ∨ (f.prio = e.prio ∧ a ≤ b))

/-- A product term fires exactly where it is enabled, no NEG input is true, and its TRUE set meets THRESH. For every state, copy,
term and set of true inputs: the term fires exactly when EN is set, its TRUE set is not empty, no input of its NEG set is true, and
with THRESH 0 every input of the TRUE set is true and with THRESH 1 or more at least THRESH of them are. So a term with an empty
TRUE set, or a THRESH above the size of its TRUE set, never fires. (R187) -/
def Obligations.TermsFireAsTheirSetsSay : Prop :=
  (∀ (h : Hw) (c t on : Nat), (∀ w, w < 4 → aget h c F_AVE_TERM_TRUE_INPUTS (4 * t + w) < 2 ^ 64 ∧ aget h c F_AVE_TERM_NEG_INPUTS (4 * t + w) < 2 ^ 64) →
    (termFires h c t on = true ↔
      aget h c F_AVE_TERM_CTRL_EN t = 1 ∧ (∃ i, i < 256 ∧ bit (termTrue h c t) i = true) ∧
      (∀ i, i < 256 → bit (termNeg h c t) i = true → bit on i = false) ∧
      (aget h c F_AVE_TERM_CTRL_THRESH t = 0 → ∀ i, i < 256 → bit (termTrue h c t) i = true → bit on i = true) ∧
      (aget h c F_AVE_TERM_CTRL_THRESH t ≤
        ((List.range 256).filter fun i => bit (termTrue h c t) i && bit on i).length))) ∧
  (∀ (h : Hw) (c t on : Nat), popcount 256 (termTrue h c t) < aget h c F_AVE_TERM_CTRL_THRESH t → termFires h c t on = false)

/-- WRITE, READ, INVALIDATE, INSERT and the table scrub act on all three copies of a match table. For an accepted command while the
gate's owner is not in reset: WRITE and INVALIDATE of an address outside a running INSERT's range change that entry in every copy
and no other entry, with DONE; inside the range they are BUSY and change nothing; READ copies the entry to the staging registers;
INSERT is BUSY while one runs, NO_SPACE where no entry at or above the address is invalid, and else captures the staged entry and
runs. All this is so in a gate cycle that begins with no earlier command of the gate that may yet take effect (package entries that
a running INSERT moves keep nothing back); in any other the command waits for its cycle and reads RUNNING. INSERT_COMPLETE lets the
gate cycles pass that move the entries from A to E - 1 of every copy up by one, one a cycle, and put the captured entry at A.
MT_SCRUB_STEP leaves every bit of the scanned entry at the majority in every copy, and counts, records and raises a source exactly
where a copy differed. While the owner is in reset every command is REFUSED. (R178, R179, R180, R181, R183, R214) -/
def Obligations.MatchTableCommandsChangeAllCopies : Prop :=
  (∀ (who : Requester) (g : Fin 64) (addr : BitVec 10) (copy : BitVec 2) (s : State), accepts s who R_AVE_MT_CMD g.val 0 → ownerInReset s.hw g.val = false →
    let k := 1024 * g.val + addr.toNat
    let done := fun (code : Nat) (h : Hw) => answer (setGate (setBusErr h false) g.val { gateOf h g.val with mtFree := h.now / 64 + 1 })
      F_AVE_MT_CMD_RESULT F_AVE_MT_CMD_SEQ code g.val
    ((∀ w ∈ (gateOf s.hw g.val).mtWait, ∃ e, w.op = .put e ∧ inShift s.hw g.val w.addr = true) →
      (mtReady s.hw g.val = true ↔ s.hw.now % 64 = 0 ∧ (gateOf s.hw g.val).mtFree ≤ s.hw.now / 64)) ∧
    ((∃ w ∈ (gateOf s.hw g.val).mtWait, ∀ e, w.op ≠ .put e) → mtReady s.hw g.val = false) ∧
    (mtReady s.hw g.val = false → copy ≠ 3#2 →
      ∀ x ∈ [(Instr.mtWrite who g addr, MtOp.write), (.mtRead who g addr copy, .read copy.toNat), (.mtInsert who g addr, .insert),
          (.mtInvalidate who g addr, .invalidate)],
        yields x.1 s fun t => fget t.hw F_AVE_MT_CMD_RESULT g.val = 1 ∧
          fget t.hw F_AVE_MT_CMD_SEQ g.val = (fget s.hw F_AVE_MT_CMD_SEQ g.val + 1) % 256 ∧
          (gateOf t.hw g.val).mtWait = (gateOf s.hw g.val).mtWait ++
            [{ op := x.2, addr := addr.toNat, seq := some ((fget s.hw F_AVE_MT_CMD_SEQ g.val + 1) % 256) }] ∧ t.hw.ave = s.hw.ave ∧ sameMemory s t) ∧
    (mtReady s.hw g.val = true →
    (inShift s.hw g.val addr.toNat = true → changes (.mtWrite who g addr) s (done 5) ∧ changes (.mtInvalidate who g addr) s (done 5)) ∧
    (inShift s.hw g.val addr.toNat = false →
      (yields (.mtWrite who g addr) s fun t => fget t.hw F_AVE_MT_CMD_RESULT g.val = 2 ∧
        fget t.hw F_AVE_MT_CMD_SEQ g.val = (fget s.hw F_AVE_MT_CMD_SEQ g.val + 1) % 256 ∧ sameMemory s t ∧
        ∀ c, c < 3 → mtGet t.hw c g.val addr.toNat = staged s.hw g.val ∧ ∀ j, j ≠ k → tget {} (mtOf t.hw c) j = tget {} (mtOf s.hw c) j) ∧
      (yields (.mtInvalidate who g addr) s fun t => fget t.hw F_AVE_MT_CMD_RESULT g.val = 2 ∧
        fget t.hw F_AVE_MT_CMD_SEQ g.val = (fget s.hw F_AVE_MT_CMD_SEQ g.val + 1) % 256 ∧ sameMemory s t ∧
        ∀ c, c < 3 → mtGet t.hw c g.val addr.toNat = { mtGet s.hw c g.val addr.toNat with valid := false } ∧
          ∀ j, j ≠ k → tget {} (mtOf t.hw c) j = tget {} (mtOf s.hw c) j)) ∧
    (copy ≠ 3#2 → yields (.mtRead who g addr copy) s fun t =>
      let e := tget {} (mtView s.hw copy.toNat g.val) k
      fget t.hw F_AVE_MT_KEY_VALUE g.val = e.key.toNat ∧ fget t.hw F_AVE_MT_MASK_VALUE g.val = e.mask.toNat ∧
      fget t.hw F_AVE_MT_ENTRY_VALID g.val = b2n e.valid ∧ fget t.hw F_AVE_MT_ENTRY_PRIMITIVE g.val = e.prim % 256 ∧
      fget t.hw F_AVE_MT_ENTRY_PRIORITY g.val = e.prio % 1024 ∧ fget t.hw F_AVE_MT_CMD_RESULT g.val = 2 ∧ t.hw.ave = s.hw.ave ∧ sameMemory s t) ∧
    ((gateOf s.hw g.val).insert.isSome = true → changes (.mtInsert who g addr) s (done 5)) ∧
    ((gateOf s.hw g.val).insert = none → (∀ a, addr.toNat ≤ a → a < 1024 → mtValid s.hw g.val a = true) → changes (.mtInsert who g addr) s (done 6)) ∧
    (∀ e, (gateOf s.hw g.val).insert = none → addr.toNat ≤ e → e < 1024 → mtValid s.hw g.val e = false →
      (∀ a, addr.toNat ≤ a → a < e → mtValid s.hw g.val a = true) →
      yields (.mtInsert who g addr) s fun t =>
        fget t.hw F_AVE_MT_CMD_RESULT g.val = 1 ∧ fget t.hw F_AVE_MT_STATUS_SHIFTING g.val = 1 ∧ t.hw.ave = s.hw.ave ∧ sameMemory s t ∧
        ∃ i, (gateOf t.hw g.val).insert = some i ∧ i.at_ = addr.toNat ∧ i.empty = e ∧
          (⟨i.key, i.mask, i.prio, i.prim, i.valid⟩ : MtEntry) = staged s.hw g.val))) ∧
  (∀ (who : Requester) (g : Fin 64) (addr : BitVec 10) (copy : BitVec 2) (c : Instr) (s : State), accepts s who R_AVE_MT_CMD g.val 0 → ownerInReset s.hw g.val = true →
    c ∈ [Instr.mtWrite who g addr, .mtRead who g addr copy, .mtInsert who g addr, .mtInvalidate who g addr] →
    changes c s fun h => answer (setBusErr h false) F_AVE_MT_CMD_RESULT F_AVE_MT_CMD_SEQ 4 g.val) ∧
  (∀ (g : Fin 64) (i : Insert) (s : State), (gateOf s.hw g.val).insert = some i → i.at_ ≤ i.empty → i.empty < 1024 →
    i.step = 0 → mtBusy s.hw = [g.val] → (gateOf s.hw g.val).mtWait = [] → fon s.hw F_AVE_STATUS_COMMIT_PENDING = false →
    yields (.insertComplete g) s fun t =>
      (gateOf t.hw g.val).insert = none ∧ fget t.hw F_AVE_MT_STATUS_SHIFTING g.val = 0 ∧
      (fget s.hw F_AVE_MT_CMD_SEQ g.val = i.seq → fget t.hw F_AVE_MT_CMD_RESULT g.val = 2) ∧
      t.hw.now = 64 * (s.hw.now / 64 + (i.empty - i.at_ + 2)) ∧ sameMemory s t ∧
      ∀ c, c < 3 → mtGet t.hw c g.val i.at_ = ⟨i.key, i.mask, i.prio, i.prim, i.valid⟩ ∧
        (∀ a, i.at_ < a → a ≤ i.empty → mtGet t.hw c g.val a = mtGet s.hw c g.val (a - 1)) ∧
        (∀ a, a < 1024 → (a < i.at_ ∨ i.empty < a) → mtGet t.hw c g.val a = mtGet s.hw c g.val a)) ∧
  (∀ (g : Fin 64) (s : State),
    let a := tget 0 s.hw.ave.mtScrub g.val
    let m := majEntry (mtGet s.hw 0 g.val a) (mtGet s.hw 1 g.val a) (mtGet s.hw 2 g.val a)
    yields (.mtScrubStep g) s fun t =>
      tget 0 t.hw.ave.mtScrub g.val = (a + 1) % 1024 ∧ (∀ c, c < 3 → mtGet t.hw c g.val a = m) ∧ sameMemory s t ∧
      ((∀ c, c < 3 → mtGet s.hw c g.val a = m) → t.hw.regs = s.hw.regs) ∧
      (¬ (∀ c, c < 3 → mtGet s.hw c g.val a = m) → fget t.hw F_INT_SRC_STATE_PENDING 0 srcAveVote = 1 ∧
        fget t.hw F_AVE_MT_STATUS_SCRUB_FIX g.val =
          min (fget s.hw F_AVE_MT_STATUS_SCRUB_FIX g.val + 1) (2 ^ F_AVE_MT_STATUS_SCRUB_FIX.width - 1)))

/-- COMMIT, DISCARD, the matrix scrub and COPY_OFF act on the shadow set and the three active sets as their rules say. An accepted
COMMIT is REFUSED while the configuration is frozen, BUSY while one is pending, INVALID where ACCEPT_DELAY is not below the acting
ACC_WINDOW, PENDING while Avenue decides (it takes effect in the first gate cycle after a CLK_X edge), and else takes effect at
once: every shadowed field of every copy's active set reads as the shadow set. DISCARD is BUSY while a COMMIT is pending and else
sets every shadowed field to the bitwise majority of the active sets. MATRIX_SCRUB_STEP leaves every shadowed field of every copy at
that majority. COPY_EXCLUDE takes a value that leaves at least two copies; another leaves COPY_OFF and is logged. A COMMIT that
pends takes effect where the next gate cycle finds a CLK_X edge, with DONE where it is the latest command, and not before one while
Avenue runs. (R191, R192, R193, R205, R206, R214) -/
def Obligations.ConfigurationCommitsAndScrubs : Prop :=
  (∀ (who : Requester) (s : State), accepts s who R_AVE_COMMIT 0 0 →
    let done := fun (code : Nat) (h : Hw) => answer h F_AVE_COMMIT_RESULT F_AVE_COMMIT_SEQ code
    let frozen := fon s.hw F_AVE_STATUS_CFG_FROZEN = true
    let pend := fon s.hw F_AVE_STATUS_COMMIT_PENDING = true
    let bad := max 1 (fget s.hw F_AVE_CONFIG_ACC_WINDOW) ≤ fget s.hw F_AVE_CONFIG_ACCEPT_DELAY
    let runs := fon s.hw F_AVE_STATUS_RUNNING = true
    (frozen → changes (.aveCommit who) s fun h => done 4 (setBusErr h false)) ∧
    (¬ frozen → pend → changes (.aveCommit who) s fun h => done 5 (setBusErr h false)) ∧
    (¬ frozen → ¬ pend → bad → changes (.aveCommit who) s fun h => done 3 (setBusErr h false)) ∧
    (¬ frozen → ¬ pend → ¬ bad → runs → changes (.aveCommit who) s fun h => done 1
      { fset (setBusErr h false) F_AVE_STATUS_COMMIT_PENDING 1 with
        ave := { h.ave with commitSeq := (fget h F_AVE_COMMIT_SEQ + 1) % 256, commitEdge := false } }) ∧
    (¬ frozen → ¬ pend → ¬ bad → ¬ runs → s.hw.ave.waiting = [] → yields (.aveCommit who) s fun t =>
      fget t.hw F_AVE_COMMIT_RESULT = 2 ∧ fget t.hw F_AVE_STATUS_GEN = (fget s.hw F_AVE_STATUS_GEN + 1) % 2 ^ F_AVE_STATUS_GEN.width ∧
      (∀ f ∈ shadowFields, ∀ c j, c < 3 → aget t.hw c f j = fget s.hw f 0 j ∧ fget t.hw f 0 j = fget s.hw f 0 j) ∧ sameMemory s t) ∧
    (pend → changes (.aveDiscard who) s fun h => done 5 (setBusErr h false)) ∧
    (¬ pend → yields (.aveDiscard who) s fun t => fget t.hw F_AVE_COMMIT_RESULT = 2 ∧ t.hw.ave = s.hw.ave ∧
      (∀ f ∈ shadowFields, ∀ j, fget t.hw f 0 j = agetMaj s.hw f j) ∧ sameMemory s t)) ∧
  (∀ s : State, yields .matrixScrubStep s fun t =>
    (∀ f ∈ shadowFields, ∀ c j, c < 3 → aget t.hw c f j = agetMaj s.hw f j) ∧ t.hw.ave.cp0 = s.hw.ave.cp0 ∧ t.hw.ave.mt0 = s.hw.ave.mt0 ∧ sameMemory s t) ∧
  (∀ h : Hw, fon h F_AVE_STATUS_COMMIT_PENDING = true →
    (h.ave.commitEdge = false → fon h F_AVE_STATUS_RUNNING = true → commitStage h = h) ∧
    (h.ave.commitEdge = true → h.ave.waiting = [] → fget h F_AVE_COMMIT_SEQ = h.ave.commitSeq →
      fget (commitStage h) F_AVE_COMMIT_RESULT = 2 ∧ fon (commitStage h) F_AVE_STATUS_COMMIT_PENDING = false ∧
      ∀ f ∈ shadowFields, ∀ c j, c < 3 → aget (commitStage h) c f j = fget h f 0 j)) ∧
  (∀ (who : Requester) (off : BitVec 3) (s : State), accepts s who R_AVE_VOTE 0 0 →
    (popcount 3 off.toNat ≤ 1 → changes (.copyExclude who off) s fun h => fset (setBusErr h false) F_AVE_VOTE_COPY_OFF off.toNat) ∧
    (2 ≤ popcount 3 off.toNat → yields (.copyExclude who off) s fun t =>
      onlyRegs s.hw t.hw [F_KYD_ELOG_SEQ_NEXT.key 0 0] ∧ t.hw.ave = s.hw.ave ∧ sameMemory s t))

/-- STRETCH_EXPIRY ends an input, MATCH_IN is sampled, pulses end, verdicts drive TRIG_QUAL, and final acceptances move on. While
Avenue runs, with no primitive on its way, STRETCH_EXPIRY makes the input false in the copies named, when its count has run out and
not before. MATCH_IN holds the level for the input stage and changes nothing else. An output is 1 while its bit is, and from the
start of its pulse for OUT_WIDTH + 1 gate cycles; OUT_WIDTH_END of TRIG_QUAL lets the pin fall where no copy's verdict waits and the
pulse ends within the present gate cycle. TRIG_QUAL_VERDICT, with one cycle waiting in every copy that comes due within the present
gate cycle, drives 1 where it fired and every word behind it is proved, and 0 otherwise where no pulse holds the pin; it takes the
cycle off each copy's list; with QUAL_VETO a verdict of 0 withdraws an acceptance that is not final and counts one that is late.
ACCEPTANCE_FINAL, with the three units alike, moves exactly the final acceptances to Roundabout's list, marked where two copies
differed on them. (R185, R188, R198, R201, R203, R208, R197, R169, R215) -/
def Obligations.InputsStretchAndVerdictsDrive : Prop :=
  (∀ (i : BitVec 8) (named : BitVec 3) (c : Nat) (s : State), c < 3 → named.getLsbD c = true → fon s.hw F_AVE_STATUS_RUNNING = true →
    (∀ c', c' < 3 → (copyOf s.hw c').flight = []) → (copyOf s.hw c).inputs.Pairwise (fun a b => a.1 < b.1) →
    (tget {} (copyOf s.hw c).inputs i.toNat).on = true → s.hw.now / 64 ≤ (tget {} (copyOf s.hw c).inputs i.toNat).last →
    yields (.stretchExpiry i named) s fun t =>
      (tget {} (copyOf t.hw c).inputs i.toNat).on = false ∧ 64 * ((tget {} (copyOf s.hw c).inputs i.toNat).last + 1) ≤ t.hw.now ∧ sameMemory s t) ∧
  (∀ (h : Hw) (k c i : Nat) (cp : AveCopy), cp.flight = [] → cp.inputs.Pairwise (fun a b => a.1 < b.1) →
    ((tget {} (inputStage h k c cp).inputs i).on = true ↔ (tget {} cp.inputs i).on = true ∧ c ≤ (tget {} cp.inputs i).last)) ∧
  (∀ (level : Bool) (s : State), changes (.matchIn level) s fun h => { h with ave := { h.ave with matchIn := level } }) ∧
  (∀ (h : Hw) (k n at5 : Nat), level h k n at5 = true ↔
    bit (copyOf h k).raw n = true ∨
      (tget 0 (copyOf h k).pulse n ≠ 0 ∧ at5 < tget 0 (copyOf h k).pulse n - 1 + 5 * (aget h k F_AVE_CONFIG_OUT_WIDTH + 1))) ∧
  (∀ (pin : Fin 17) (s : State),
    let held := fun c => bit (copyOf s.hw c).raw pin.val = false ∧ level s.hw c pin.val (5 * s.hw.now / 64) = true
    let ends := fun c => (64 * (tget 0 (copyOf s.hw c).pulse pin.val - 1 + 5 * (aget s.hw c F_AVE_CONFIG_OUT_WIDTH + 1)) + 4) / 5
    ((∀ c, c < 3 → ¬ held c) → exec (.outWidthEnd pin) s = .next s) ∧
    ((∃ c, c < 3 ∧ held c) → yields (.outWidthEnd pin) s fun t => sameMemory s t ∧ (∀ c, c < 3 → held c → ends c ≤ t.hw.now) ∧
      (pin.val = 16 → fon s.hw F_AVE_STATUS_RUNNING = true → (∀ c, c < 3 → (copyOf s.hw c).quals = [] ∧ bit (copyOf s.hw c).raw 16 = false) →
        (∀ c, c < 3 → held c → ends c / 64 ≤ s.hw.now / 64) → t.hw.ave.pinQual = false))) ∧
  (∀ (q : QualWait) (s : State), fon s.hw F_AVE_STATUS_RUNNING = true → (∀ c, c < 3 → (copyOf s.hw c).quals = [q]) →
    let at' := max s.hw.now ((64 * q.due + 4) / 5)
    let good := q.fired = true ∧ q.unproved = [] ∧ q.disagreed = false
    at' / 64 = s.hw.now / 64 →
    yields .trigQualVerdict s fun t =>
      t.hw.now = at' ∧ (∀ c, c < 3 → (copyOf t.hw c).quals = []) ∧ sameMemory s t ∧
      (good → t.hw.ave.pinQual = true ∧ ∀ c, c < 3 → (copyOf t.hw c).acc = (copyOf s.hw c).acc) ∧
      (¬ good → (∀ c, c < 3 → tget 0 (copyOf s.hw c).pulse 16 = 0) → t.hw.ave.pinQual = false) ∧
      (¬ good → ∀ n st, q.accepted = [(n, st)] → (∀ c, c < 3 → aget s.hw c F_AVE_CONFIG_QUAL_VETO = 1) →
        ((∀ c, c < 3 → finalIn s.hw c st = true) →
          fget t.hw F_AVE_ACC_COUNT_VETO_LATE = min (fget s.hw F_AVE_ACC_COUNT_VETO_LATE + 1) (2 ^ F_AVE_ACC_COUNT_VETO_LATE.width - 1) ∧
          ∀ c, c < 3 → (copyOf t.hw c).acc = (copyOf s.hw c).acc) ∧
        ((∀ c, c < 3 → finalIn s.hw c st = false ∧ ∃ m, (copyOf s.hw c).acc = [{ stamp := st, tbs := [n], ext := false, marked := m }]) →
          fget t.hw F_AVE_ACC_COUNT_VETOED = min (fget s.hw F_AVE_ACC_COUNT_VETOED + 1) (2 ^ F_AVE_ACC_COUNT_VETOED.width - 1) ∧
          ∀ c, c < 3 → (copyOf t.hw c).acc = []))) ∧
  (∀ (l : List AccRec) (f : Option Stamp) (s : State), (∀ c, c < 3 → (copyOf s.hw c).acc = l ∧ (copyOf s.hw c).final = f) →
    l.Pairwise (fun a b => a.stamp ≠ b.stamp) →
    yields .acceptanceFinal s fun t =>
      (∀ c, c < 3 → (copyOf t.hw c).acc = l.filter fun a => !isFinal s.hw a.stamp) ∧
      (∀ a, a ∈ t.hw.ave.accFinal ↔ a ∈ s.hw.ave.accFinal ∨
        ∃ b ∈ l, isFinal s.hw b.stamp = true ∧ a = { b with marked := s.hw.ave.marks.contains b.stamp }) ∧
      (∃ l', t.hw.ave.accFinal = s.hw.ave.accFinal ++ l') ∧ sameMemory s t)

/-- A final stamp opens an assembly entry with OPEN to every expected gate, or is dropped with DROP, for the first test that fails.
For every state in which Roundabout runs, the oldest final stamp leaves its list. Where one partition expects gates and is neither
in reset nor down: below its open-event quota, with a free assembly entry and a free directory slot, exactly one entry is added,
keyed by the stamp, with the next EVSEQ, the copy of EXPECT, and a timer of TMO_TICKS (at least one) after the next tick boundary;
EVSEQ rises by one and every expected gate without a takeover partner gets OPEN(stamp, EVSEQ) behind its earlier messages, but for a
gate that has been reset and has not regained alignment (log 65). Otherwise no entry opens and EVSEQ stands, the same gates get
DROP(stamp), and the drop is counted for the first test that failed, with the assembly-drop source raised. Where no partition
expects a gate, the gates only free the crossing's records, and while Roundabout is held the stamp waits. (R215, R216, R220, R217,
R249) -/
def Obligations.AcceptancesOpenEntriesOrDrop : Prop :=
  (∀ (a : AccRec) (r : List AccRec) (s : State), s.hw.ave.accFinal = a :: r → rbtHeld s.hw = true → exec .acceptanceStamp s = .next s) ∧
  (∀ (a : AccRec) (r : List AccRec) (s : State), s.hw.ave.accFinal = a :: r → rbtHeld s.hw = false →
    (∀ p, p < 8 → fget s.hw F_RBT_PART_EXPECT_GATES 0 p = 0) →
    changes .acceptanceStamp s fun h => purgeGates { h with ave := { h.ave with accFinal := r } }) ∧
  (∀ (a : AccRec) (r : List AccRec) (p : Nat) (s : State), s.hw.ave.accFinal = a :: r → rbtHeld s.hw = false → p < 8 →
    fget s.hw F_RBT_PART_EXPECT_GATES 0 p ≠ 0 → (∀ p', p' < 8 → p' ≠ p → fget s.hw F_RBT_PART_EXPECT_GATES 0 p' = 0) →
    inReset s.hw p = false → partDown s.hw p = false →
    let n := tget 0 s.hw.rbt.evseq p
    let x := fget s.hw F_RBT_PART_EXPECT_GATES 0 p
    let quota := quotaOf s.hw p 1 ≤ (s.hw.rbt.entries.filter (·.part == p)).length
    let full := 2048 ≤ s.hw.rbt.entries.length
    let dir := slotHeld s.hw p n = true
    let due := s.hw.rbt.tick + 1 + max 1 (fget s.hw F_RBT_PART_EVCFG_TMO_TICKS 0 p)
    let e : AsmEntry := { part := p, stamp := a.stamp, evseq := n, expect := x, openTime := gateTime s.hw, due := due }
    (¬ quota → ¬ full → ¬ dir → yields .acceptanceStamp s fun t =>
      t.hw.ave.accFinal = r ∧ t.hw.rbt.entries = s.hw.rbt.entries ++ [e] ∧ tget 0 t.hw.rbt.evseq p = (n + 1) % 2 ^ 64 ∧
      fget t.hw F_RBT_PART_USE_OPEN 0 p = ((s.hw.rbt.entries.filter (·.part == p)).length + 1) % 2 ^ F_RBT_PART_USE_OPEN.width ∧ sameMemory s t ∧
      ∀ g, g < 64 → (gateOf t.hw g).msgs = (gateOf s.hw g).msgs ++
        (if bit x g = true ∧ fget s.hw F_GATE_STATUS_TAKEOVER g ≠ 2 ∧ (gateOf s.hw g).realign = false then [GateMsg.opn a.stamp n a.marked] else [])) ∧
    (quota ∨ full ∨ dir → yields .acceptanceStamp s fun t =>
      t.hw.ave.accFinal = r ∧ t.hw.rbt = s.hw.rbt ∧ fget t.hw F_INT_SRC_STATE_PENDING 0 (srcPart p 0) = 1 ∧ sameMemory s t ∧
      (∀ f ∈ [F_RBT_PART_DROPS_DROP_QUOTA, F_RBT_PART_DROPS_DROP_FULL, F_RBT_PART_DROPS_DROP_EVD],
        fget t.hw f 0 p = if (f = F_RBT_PART_DROPS_DROP_QUOTA ∧ quota) ∨ (f = F_RBT_PART_DROPS_DROP_FULL ∧ ¬ quota ∧ full) ∨
            (f = F_RBT_PART_DROPS_DROP_EVD ∧ ¬ quota ∧ ¬ full)
          then min (fget s.hw f 0 p + 1) (2 ^ f.width - 1) else fget s.hw f 0 p) ∧
      ∀ g, g < 64 → (gateOf t.hw g).msgs = (gateOf s.hw g).msgs ++
        (if bit x g = true ∧ fget s.hw F_GATE_STATUS_TAKEOVER g ≠ 2 ∧ (gateOf s.hw g).realign = false then [GateMsg.drop a.stamp] else []))) ∧
  (∀ (s : State), yields .acceptanceStamp s fun t =>
    { t.hw with regs := s.hw.regs, lan := s.hw.lan, ave := s.hw.ave, rbt := s.hw.rbt, ints := s.hw.ints } = s.hw ∧
    onlyFields s.hw t.hw [F_GATE_HB_STATUS_PEAK, F_GATE_HB_STATUS_USED, F_INT_SRC_STATE_EVENTS, F_INT_SRC_STATE_PENDING,
      F_PART_QUOTA_STATUS_OVER, F_RBT_PART_DROPS_DROP_EVD, F_RBT_PART_DROPS_DROP_FULL, F_RBT_PART_DROPS_DROP_QUOTA, F_RBT_PART_USE_ONCHIP_USED,
      F_RBT_PART_USE_OPEN, F_RBT_PART_USE_OPEN_OVER, F_RBT_PART_USE_OVF_OVER, F_RBT_PART_USE_OVF_USED, F_RBT_PMU_CNT_COUNT, F_RBT_PMU_CTL_OVF,
      F_RBT_STATUS_ONCHIP_USED, F_RBT_STATUS_OPEN_USED] ∧
    sameMemory s t)

/-- OPEN builds a fragment or reports EMPTY, DROP and CANCEL free the records, and a fragment goes into the ring and is reported.
For a gate with its own lane logic: DROP in front is taken off and nothing is written; OPEN of a complete crossing with nothing
stored is taken off and reports EMPTY; with something stored that fits the ring it makes the fragment of the crossing, whose bytes
wait to be written; with no ring, or a LEN above the ring, it counts OVERSIZE, raises the gate's buffer source and reports EMPTY
with INCOMPLETE. CANCEL for a fragment not started drops the OPEN and the fragment. In M7, which holds the gates, none of these four
does anything. Outside a power-fail sequence a fragment that finds no ring room waits and is counted once; one that finds room takes
it, and with no budget all its bytes wait for slots, in writes of at most a quad-line numbered in the order of their arrival. A
fragment whose every write has been made is reported as FRAG with its address, length and flags, a refused one as EMPTY with
INCOMPLETE with its ring space returned; while Roundabout is held the reports of OPEN and of fragments wait at H1 behind those that
came before. (R217, R218, R219, R221, R225, R226, R249, R256, R94, R570) -/
def Obligations.GatesAnswerTheirMessages : Prop :=
  (∀ (g : Fin 64) (s : State), modeNow s.hw = 7 →
    exec (.dropMsg g) s = .next s ∧ exec (.openMsg g) s = .next s ∧ exec (.assemblyCancel g) s = .next s ∧ exec (.frag g) s = .next s) ∧
  (∀ (g : Fin 64) (st : Stamp) (r : List GateMsg) (s : State), (gateOf s.hw g.val).msgs = .drop st :: r → modeNow s.hw ≠ 7 → yields (.dropMsg g) s fun t =>
    (gateOf t.hw g.val).msgs = r ∧ (gateOf t.hw g.val).frag = (gateOf s.hw g.val).frag ∧ (gateOf t.hw g.val).ring = (gateOf s.hw g.val).ring ∧
    (∀ j, j ≠ g.val → gateOf t.hw j = gateOf s.hw j) ∧ sameMemory s t) ∧
  (∀ (g : Fin 64) (st : Stamp) (n : Nat) (marked : Bool) (r : List GateMsg) (s : State),
    (gateOf s.hw g.val).msgs = .opn st n marked :: r → (gateOf s.hw g.val).frag = none → crossingComplete s.hw g.val st = true →
    logicGate s.hw g.val = some g.val → rbtHeld s.hw = false → modeNow s.hw ≠ 7 →
    let stored := ((gateOf s.hw g.val).hdrs.any fun x => x.stamp == st) || (gateOf s.hw g.val).hb.any fun b => b.words.any fun w => w.stamp == st
    let fb := buildFragment s.hw g.val st n marked
    let size := 4096 * fget s.hw F_GATE_FRAG_RING_SIZE_4K g.val
    let report := fun (t : State) (inc : Bool) => ∀ p e, ownerGate s.hw g.val = some p → fget s.hw F_GATE_STATUS_TAKEOVER g.val ≠ 1 → entryOf s.hw p n = some e → e.closed = none →
      ∃ e', entryOf t.hw p n = some e' ∧ reportOf e' g.val = some (.empty inc) ∧
        (e'.closed = if (onesOf 64 e.expect).all (fun k => k == g.val || (reportOf e k).isSome) then some true else none)
    (stored = false → yields (.openMsg g) s fun t => (gateOf t.hw g.val).msgs = r ∧ (gateOf t.hw g.val).frag = none ∧
      t.hw.rbt.waitReports = s.hw.rbt.waitReports ∧ report t false) ∧
    (stored = true → size ≠ 0 → fb.2.length ≤ size → changes (.openMsg g) s fun h => setGate (popMsg h g.val) g.val
      { gateOf h g.val with msgs := r, frag := some { stamp := st, evseq := n, bytes := fb.2, flags := fb.1 } }) ∧
    (stored = true → (size = 0 ∨ size < fb.2.length) → yields (.openMsg g) s fun t => (gateOf t.hw g.val).msgs = r ∧ (gateOf t.hw g.val).frag = none ∧
      fget t.hw F_GATE_FRAG_ERR_OVERSIZE g.val = min (fget s.hw F_GATE_FRAG_ERR_OVERSIZE g.val + 1) (2 ^ F_GATE_FRAG_ERR_OVERSIZE.width - 1) ∧
      fget t.hw F_INT_SRC_STATE_PENDING 0 (srcGate g.val 3) = 1 ∧ report t true)) ∧
  (∀ (g : Fin 64) (st : Stamp) (n : Nat) (marked : Bool) (r : List GateMsg) (s : State),
    (gateOf s.hw g.val).msgs = .opn st n marked :: r → (gateOf s.hw g.val).frag = none → crossingComplete s.hw g.val st = true →
    logicGate s.hw g.val = some g.val → rbtHeld s.hw = true → modeNow s.hw ≠ 7 → (∀ x ∈ (gateOf s.hw g.val).hdrs, x.stamp ≠ st) →
    (∀ b ∈ (gateOf s.hw g.val).hb, ∀ w ∈ b.words, w.stamp ≠ st) → yields (.openMsg g) s fun t =>
      (gateOf t.hw g.val).msgs = r ∧ (gateOf t.hw g.val).frag = none ∧
      t.hw.rbt = { s.hw.rbt with waitReports := s.hw.rbt.waitReports ++ [(g.val, n, .empty false)] } ∧ sameMemory s t) ∧
  (∀ (g : Fin 64) (n : Nat) (s : State), firstCancel (gateOf s.hw g.val).msgs = some n → modeNow s.hw ≠ 7 → yields (.assemblyCancel g) s fun t =>
    (∀ st m, GateMsg.opn st n m ∉ (gateOf t.hw g.val).msgs) ∧
    (∀ m, m ∈ (gateOf t.hw g.val).msgs → m ∈ (gateOf s.hw g.val).msgs) ∧
    (gateOf t.hw g.val).frag = (gateOf s.hw g.val).frag.filter (fun f => !(f.evseq == n && f.sent.isNone)) ∧ (∀ j, j ≠ g.val → gateOf t.hw j = gateOf s.hw j) ∧ sameMemory s t) ∧
  (∀ (g : Fin 64) (p : Nat) (f : FragOut) (s : State), (gateOf s.hw g.val).frag = some f → f.sent = none → ownerGate s.hw g.val = some p →
    (modeNow s.hw = 4 ∨ modeNow s.hw = 6) → s.hw.sup.powerFail = false →
    (ringPlace s.hw g.val (f.bytes.length / 64) = none →
      (gateOf s.hw g.val).stalled = true → exec (.fragmentWrite g) s = .next s) ∧
    (ringPlace s.hw g.val (f.bytes.length / 64) = none → (gateOf s.hw g.val).stalled = false →
      changes (.fragmentWrite g) s fun h => fadd (setGate h g.val { gateOf h g.val with stalled := true }) F_GATE_FRAG_STATUS_FRAG_STALLS 1 g.val) ∧
    (∀ o, ringPlace s.hw g.val (f.bytes.length / 64) = some o → gateBudget s.hw p = none → yields (.fragmentWrite g) s fun t =>
      (∃ f', (gateOf t.hw g.val).frag = some f' ∧ f'.offset = o ∧ f'.sent = some f.bytes.length ∧ f'.bytes = f.bytes ∧ f'.evseq = f.evseq) ∧
      (gateOf t.hw g.val).stalled = false ∧ (∀ j, j ≠ g.val → gateOf t.hw j = gateOf s.hw j) ∧ sameMemory s t ∧
      (f.waits = [] → f.refused = false → (∀ i, i < f.bytes.length → (quarterAt s.hw (fragAddr s.hw g.val { f with offset := o } i)).isSome = true) →
        ∃ f', (gateOf t.hw g.val).frag = some f' ∧ f'.refused = false ∧ (f'.waits.map (·.2.1)).sum = f.bytes.length ∧
          f'.waits.map (·.2.2) = List.range' s.hw.par.fragSeq f'.waits.length ∧
          ∀ w ∈ f'.waits, 0 < w.2.1 ∧ fragAddr s.hw g.val f' w.1 % 256 + w.2.1 ≤ 256))) ∧
  (∀ (g : Fin 64) (f : FragOut) (s : State), (gateOf s.hw g.val).frag = some f → (f.sent ≠ some f.bytes.length ∨ f.waits ≠ []) →
    exec (.frag g) s = .next s) ∧
  (∀ (g : Fin 64) (f : FragOut) (s : State), (gateOf s.hw g.val).frag = some f → f.sent = some f.bytes.length → f.waits = [] → modeNow s.hw ≠ 7 →
    (rbtHeld s.hw = true → yields (.frag g) s fun t => (gateOf t.hw g.val).frag = none ∧ sameMemory s t ∧
      t.hw.rbt = { s.hw.rbt with waitReports := s.hw.rbt.waitReports ++ [(g.val, f.evseq, if f.refused then .empty true
        else .frag (4096 * fget s.hw F_GATE_FRAG_RING_BASE_4K g.val + 64 * f.offset) f.bytes.length f.flags)] }) ∧
    (rbtHeld s.hw = false → yields (.frag g) s fun t => (gateOf t.hw g.val).frag = none ∧
      (f.refused = true → fget t.hw F_GATE_FRAG_ERR_REFUSED g.val = min (fget s.hw F_GATE_FRAG_ERR_REFUSED g.val + 1) (2 ^ F_GATE_FRAG_ERR_REFUSED.width - 1) ∧
        fget t.hw F_INT_SRC_STATE_PENDING 0 (srcGate g.val 3) = 1) ∧
      (∀ p e, ownerGate s.hw g.val = some p → fget s.hw F_GATE_STATUS_TAKEOVER g.val ≠ 1 → entryOf s.hw p f.evseq = some e → e.closed = none →
        ∃ e', entryOf t.hw p f.evseq = some e' ∧ reportOf e' g.val = some (if f.refused then .empty true
          else .frag (4096 * fget s.hw F_GATE_FRAG_RING_BASE_4K g.val + 64 * f.offset) f.bytes.length f.flags)))) ∧
  (∀ (g : Fin 64) (s : State), yields (.dropMsg g) s fun t =>
    { t.hw with regs := s.hw.regs, lan := s.hw.lan } = s.hw ∧
    onlyFields s.hw t.hw [F_GATE_HB_STATUS_PEAK, F_GATE_HB_STATUS_USED] ∧
    sameMemory s t) ∧
  (∀ (g : Fin 64) (s : State), yields (.openMsg g) s fun t =>
    { t.hw with regs := s.hw.regs, lan := s.hw.lan, rbt := s.hw.rbt, qu := s.hw.qu, hom := s.hw.hom, ints := s.hw.ints, kyd := s.hw.kyd, freeCtr := s.hw.freeCtr, lastResult := s.hw.lastResult } = s.hw ∧
    onlyFields s.hw t.hw [F_CM_CMD_RESULT, F_CM_STATUS_DONE, F_CM_STATUS_SKIPPED, F_GATE_FRAG_ERR_OVERSIZE, F_GATE_FRAG_STATUS_TAIL,
      F_GATE_HB_STATUS_PEAK, F_GATE_HB_STATUS_USED, F_INT_SRC_STATE_EVENTS, F_INT_SRC_STATE_PENDING, F_KYD_ELOG_SEQ_NEXT, F_QMC_PMU_CNT_COUNT,
      F_QMC_PMU_CTL_OVF, F_QMC_UE_LINE, F_QMC_UE_POISON_READS, F_QMC_UE_UE_COUNT, F_QMC_VIOL_COUNT, F_QMC_VIOL_PART, F_QMC_VIOL_QADDR,
      F_QMC_VIOL_SECURE, F_QMC_VIOL_WRITE, F_RBT_PART_DROPS_LATE_FRAG, F_SF_STATUS_BACKINV, F_SF_STATUS_COARSE] ∧
    t.pending = s.pending) ∧
  (∀ (g : Fin 64) (s : State), yields (.assemblyCancel g) s fun t =>
    { t.hw with regs := s.hw.regs, lan := s.hw.lan } = s.hw ∧
    onlyFields s.hw t.hw [F_GATE_HB_STATUS_PEAK, F_GATE_HB_STATUS_USED] ∧
    sameMemory s t) ∧
  (∀ (g : Fin 64) (s : State), yields (.fragmentWrite g) s fun t =>
    { t.hw with regs := s.hw.regs, lan := s.hw.lan, par := s.hw.par } = s.hw ∧
    onlyFields s.hw t.hw [F_GATE_FRAG_STATUS_FRAG_STALLS, F_GATE_FRAG_STATUS_HEAD, F_GATE_FRAG_STATUS_TAIL] ∧
    sameMemory s t) ∧
  (∀ (g : Fin 64) (s : State), yields (.frag g) s fun t =>
    { t.hw with regs := s.hw.regs, lan := s.hw.lan, rbt := s.hw.rbt, qu := s.hw.qu, hom := s.hw.hom, ints := s.hw.ints, kyd := s.hw.kyd, freeCtr := s.hw.freeCtr, lastResult := s.hw.lastResult } = s.hw ∧
    onlyFields s.hw t.hw [F_CM_CMD_RESULT, F_CM_STATUS_DONE, F_CM_STATUS_SKIPPED, F_GATE_FRAG_ERR_REFUSED, F_GATE_FRAG_STATUS_HEAD,
      F_GATE_FRAG_STATUS_TAIL, F_GATE_HB_STATUS_PEAK, F_GATE_HB_STATUS_USED, F_INT_SRC_STATE_EVENTS, F_INT_SRC_STATE_PENDING,
      F_KYD_ELOG_SEQ_NEXT, F_QMC_PMU_CNT_COUNT, F_QMC_PMU_CTL_OVF, F_QMC_UE_LINE, F_QMC_UE_POISON_READS, F_QMC_UE_UE_COUNT, F_QMC_VIOL_COUNT,
      F_QMC_VIOL_PART, F_QMC_VIOL_QADDR, F_QMC_VIOL_SECURE, F_QMC_VIOL_WRITE, F_RBT_PART_DROPS_LATE_FRAG, F_SF_STATUS_BACKINV, F_SF_STATUS_COARSE] ∧
    t.pending = s.pending)

/-- Timeouts, RECLAIM, the enqueue of closed events and the retry of refused items act on assembly entries and flows as stated.
ASSEMBLY_TIMEOUT before the entry is due changes nothing; once it is due, the open entry closes TIMEOUT at the present time with its
reports kept, and each expected gate that has not reported and is not served by its partner gets a CANCEL behind its messages, but
for a gate that has been reset and has not regained alignment (log 65). EVENT_ENQUEUE of a closed entry without a fragment frees it
and counts EMPTY; under EVORDER with a lower entry left it changes nothing; where the flow takes the item it is appended with the
flow's next SEQ, the entry goes and the event holds its slot; where the flow is disabled the entry stays and the partition shows
STALLED. ENQUEUE_RETRY enqueues a waiting item. RECLAIM is HELD while Roundabout is held, closes nothing at or below the quota, and
else closes an open entry by timeout. (R220, R221, R222, R223, R224, R225, R239, R248, R250) -/
def Obligations.EntriesCloseAndEventsAreEnqueued : Prop :=
  (∀ (p : Fin 8) (n : Nat) (e : AsmEntry) (s : State), entryOf s.hw p.val n = some e → e.closed = none → rbtHeld s.hw = false →
    (s.hw.rbt.tick < e.due → exec (.assemblyTimeout p n) s = .next s) ∧
    (e.due ≤ s.hw.rbt.tick → yields (.assemblyTimeout p n) s fun t =>
      (∃ e', entryOf t.hw p.val n = some e' ∧ e'.closed = some false ∧ e'.closeTime = gateTime s.hw ∧ e'.reports = e.reports ∧ e'.stamp = e.stamp) ∧
      (∀ g, g < 64 → (gateOf t.hw g).msgs = (gateOf s.hw g).msgs ++
        (if bit e.expect g = true ∧ reportOf e g = none ∧ fget s.hw F_GATE_STATUS_TAKEOVER g ≠ 2 ∧ (gateOf s.hw g).realign = false
          then [GateMsg.cancel n] else [])) ∧
      t.hw.rbt.flows = s.hw.rbt.flows ∧ t.hw.rbt.events = s.hw.rbt.events ∧ t.pending = s.pending)) ∧
  (∀ (p : Fin 8) (n : Nat) (e : AsmEntry) (s : State), entryOf s.hw p.val n = some e → e.closed.isSome = true → rbtHeld s.hw = false →
    let waits := fget s.hw F_RBT_PART_EVCFG_EVORDER 0 p.val = 1 ∧ ∃ x ∈ s.hw.rbt.entries, x.part = p.val ∧ x.evseq < n
    let f := eventFlow s.hw e
    let fl := flowOf s.hw f
    (noEvent e = true → yields (.eventEnqueue p n) s fun t => entryOf t.hw p.val n = none ∧ t.hw.rbt.flows = s.hw.rbt.flows ∧
      t.hw.rbt.events = s.hw.rbt.events ∧ sameMemory s t ∧
      fget t.hw F_RBT_PART_DROPS_EMPTY 0 p.val = min (fget s.hw F_RBT_PART_DROPS_EMPTY 0 p.val + 1) (2 ^ F_RBT_PART_DROPS_EMPTY.width - 1)) ∧
    (noEvent e = false → waits → exec (.eventEnqueue p n) s = .next s) ∧
    (noEvent e = false → ¬ waits → ownerFlow s.hw f = some p.val → flowGet s.hw F_RBT_FLOW_CFG_EN f ≠ 0 →
      unreleased fl < 1048575 → mustSpill s.hw p.val fl = false → yields (.eventEnqueue p n) s fun t =>
        let i : Item := eventItem s.hw e
        (flowOf t.hw f).items = fl.items ++ [{ i with seq := fl.enq, at_ := s.hw.now }] ∧ (flowOf t.hw f).enq = (fl.enq + 1) % 2 ^ 20 ∧
        (∀ k, k ≠ f → flowOf t.hw k = flowOf s.hw k) ∧ entryOf t.hw p.val n = none ∧
        t.hw.rbt.events = s.hw.rbt.events ++ [{ part := p.val, evseq := n, slot := slotNo s.hw p.val n, frags := entryFrags s.hw e }] ∧ sameMemory s t) ∧
    (noEvent e = false → ¬ waits → ownerFlow s.hw f = some p.val → flowGet s.hw F_RBT_FLOW_CFG_EN f = 0 → yields (.eventEnqueue p n) s fun t =>
      entryOf t.hw p.val n = some { e with refused := true } ∧ fget t.hw F_RBT_PART_USE_STALLED 0 p.val = 1 ∧
      t.hw.rbt.flows = s.hw.rbt.flows ∧ t.hw.rbt.events = s.hw.rbt.events ∧ sameMemory s t)) ∧
  (∀ (p : Fin 8) (w : WaitItem) (s : State), rbtHeld s.hw = false → s.hw.rbt.waitItems = [w] → w.part = p.val →
    (∀ e ∈ s.hw.rbt.entries, e.part = p.val → e.refused = false) → ownerFlow s.hw w.flow = some p.val → flowGet s.hw F_RBT_FLOW_CFG_EN w.flow ≠ 0 →
    unreleased (flowOf s.hw w.flow) < 1048575 → mustSpill s.hw p.val (flowOf s.hw w.flow) = false →
    yields (.enqueueRetry p) s fun t => t.hw.rbt.waitItems = [] ∧ t.hw.rbt.entries = s.hw.rbt.entries ∧ sameMemory s t ∧
      ∃ i : Item, (flowOf t.hw w.flow).items = (flowOf s.hw w.flow).items ++ [i] ∧ i.seq = (flowOf s.hw w.flow).enq ∧ i.arg0 = w.item.arg0 ∧
        i.arg1 = w.item.arg1 ∧ i.arg2 = w.item.arg2 ∧ i.kind = w.item.kind ∧ i.user = w.item.user ∧ i.flags = w.item.flags) ∧
  (∀ (who : Requester) (p : Fin 8) (s : State), accepts s who R_RBT_PART_CMD 0 p.val →
    let done := fun (code : Nat) (h : Hw) => answer (setBusErr h false) F_RBT_PART_CMD_RESULT F_RBT_PART_CMD_SEQ code 0 p.val
    let mine := s.hw.rbt.entries.filter (·.part == p.val)
    (rbtHeld s.hw = true → changes (.reclaim who p) s (done 5)) ∧
    (rbtHeld s.hw = false → mine.length ≤ quotaOf s.hw p.val 1 → changes (.reclaim who p) s (done 0)) ∧
    (∀ e, rbtHeld s.hw = false → mine = [e] → quotaOf s.hw p.val 1 = 0 → e.closed = none → yields (.reclaim who p) s fun t =>
      fget t.hw F_RBT_PART_CMD_RESULT 0 p.val = 0 ∧ ∃ e', entryOf t.hw p.val e.evseq = some e' ∧ e'.closed = some false ∧ e'.reports = e.reports)) ∧
  (∀ (p : Fin 8) (evseq : Nat) (s : State), yields (.assemblyTimeout p evseq) s fun t =>
    { t.hw with regs := s.hw.regs, lan := s.hw.lan, rbt := s.hw.rbt, qu := s.hw.qu, hom := s.hw.hom, ints := s.hw.ints, kyd := s.hw.kyd, freeCtr := s.hw.freeCtr, lastResult := s.hw.lastResult } = s.hw ∧
    onlyFields s.hw t.hw [F_CM_CMD_RESULT, F_CM_STATUS_DONE, F_CM_STATUS_SKIPPED, F_INT_SRC_STATE_EVENTS, F_INT_SRC_STATE_PENDING,
      F_KYD_ELOG_SEQ_NEXT, F_QMC_PMU_CNT_COUNT, F_QMC_PMU_CTL_OVF, F_QMC_UE_LINE, F_QMC_UE_POISON_READS, F_QMC_UE_UE_COUNT, F_QMC_VIOL_COUNT,
      F_QMC_VIOL_PART, F_QMC_VIOL_QADDR, F_QMC_VIOL_SECURE, F_QMC_VIOL_WRITE, F_RBT_PMU_CNT_COUNT, F_RBT_PMU_CTL_OVF, F_SF_STATUS_BACKINV,
      F_SF_STATUS_COARSE] ∧
    t.pending = s.pending) ∧
  (∀ (p : Fin 8) (evseq : Nat) (s : State), yields (.eventEnqueue p evseq) s fun t =>
    { t.hw with regs := s.hw.regs, rbt := s.hw.rbt, ints := s.hw.ints } = s.hw ∧
    onlyFields s.hw t.hw [F_INT_SRC_STATE_EVENTS, F_INT_SRC_STATE_PENDING, F_PART_QUOTA_STATUS_OVER, F_RBT_FLOW_STATUS_IN_PROC,
      F_RBT_FLOW_STATUS_ONCHIP_DEPTH, F_RBT_FLOW_STATUS_OVF_DEPTH, F_RBT_FLOW_STATUS_STALLED, F_RBT_PART_DROPS_EMPTY, F_RBT_PART_USE_ONCHIP_USED,
      F_RBT_PART_USE_OPEN, F_RBT_PART_USE_OPEN_OVER, F_RBT_PART_USE_OVF_OVER, F_RBT_PART_USE_OVF_USED, F_RBT_PART_USE_STALLED,
      F_RBT_PMU_CNT_COUNT, F_RBT_PMU_CTL_OVF, F_RBT_STATUS_ONCHIP_USED, F_RBT_STATUS_OPEN_USED] ∧
    sameMemory s t) ∧
  (∀ (p : Fin 8) (s : State), yields (.enqueueRetry p) s fun t =>
    { t.hw with regs := s.hw.regs, rbt := s.hw.rbt, ints := s.hw.ints } = s.hw ∧
    onlyFields s.hw t.hw [F_INT_SRC_STATE_EVENTS, F_INT_SRC_STATE_PENDING, F_PART_QUOTA_STATUS_OVER, F_RBT_FLOW_STATUS_IN_PROC,
      F_RBT_FLOW_STATUS_ONCHIP_DEPTH, F_RBT_FLOW_STATUS_OVF_DEPTH, F_RBT_FLOW_STATUS_STALLED, F_RBT_PART_DROPS_EMPTY, F_RBT_PART_USE_ONCHIP_USED,
      F_RBT_PART_USE_OPEN, F_RBT_PART_USE_OPEN_OVER, F_RBT_PART_USE_OVF_OVER, F_RBT_PART_USE_OVF_USED, F_RBT_PART_USE_STALLED,
      F_RBT_PMU_CNT_COUNT, F_RBT_PMU_CTL_OVF, F_RBT_STATUS_ONCHIP_USED, F_RBT_STATUS_OPEN_USED] ∧
    sameMemory s t) ∧
  (∀ (who : Requester) (p : Fin 8) (s : State), yields (.reclaim who p) s fun t =>
    { t.hw with regs := s.hw.regs, lan := s.hw.lan, rbt := s.hw.rbt, qu := s.hw.qu, hom := s.hw.hom, ints := s.hw.ints, kyd := s.hw.kyd, freeCtr := s.hw.freeCtr, busErr := s.hw.busErr, lastResult := s.hw.lastResult } = s.hw ∧
    onlyFields s.hw t.hw [F_CM_CMD_RESULT, F_CM_STATUS_DONE, F_CM_STATUS_SKIPPED, F_INT_SRC_STATE_EVENTS, F_INT_SRC_STATE_PENDING,
      F_KYD_ELOG_SEQ_NEXT, F_QMC_PMU_CNT_COUNT, F_QMC_PMU_CTL_OVF, F_QMC_UE_LINE, F_QMC_UE_POISON_READS, F_QMC_UE_UE_COUNT, F_QMC_VIOL_COUNT,
      F_QMC_VIOL_PART, F_QMC_VIOL_QADDR, F_QMC_VIOL_SECURE, F_QMC_VIOL_WRITE, F_RBT_PART_CMD_RESULT, F_RBT_PART_CMD_SEQ, F_RBT_PMU_CNT_COUNT,
      F_RBT_PMU_CTL_OVF, F_SF_STATUS_BACKINV, F_SF_STATUS_COARSE] ∧
    t.pending = s.pending)

/-- TICK counts while Roundabout runs, a due timer enqueues its item, and refill moves the oldest overflow items on chip in order.
TICK advances the tick by one while Roundabout runs and changes nothing while it is held. TIMED_ITEM_DUE takes the entry of the list
that falls due first, in the order of their ADDs where equal, off the list and appends its item to its flow with the flow's next
SEQ; while an entry of another list with the same due time was added before it, it changes nothing. OVERFLOW_REFILL with an overflow
item and room on chip leaves the flow's items in their order with their arguments, takes none off chip, and has fewer in overflow
after it. FRAGMENT_SLOT moves module time to the first gate cycle from now on that starts a slot of a frame of 96 gate cycles and
that the quarter has not used; outside M4 and M6, in LOST and in a power-fail sequence it does nothing else; and where one partition
alone has writes waiting there and one line of a gate is the first of them to have arrived, that line is written and nothing else of
DRAM. That module time moves with the command is the model's choice (log 4). (R237, R240, R241, R242, R20, R60, R261, R453) -/
def Obligations.TicksTimersAndRefillKeepOrder : Prop :=
  (∀ s : State, rbtHeld s.hw = false → changes .tick s fun h => { h with rbt := { h.rbt with tick := h.rbt.tick + 1 } }) ∧
  (∀ s : State, rbtHeld s.hw = true → exec .tick s = .next s) ∧
  (∀ (l : Fin 8) (x : Timer) (a b : List Timer) (s : State), rbtHeld s.hw = false → s.hw.rbt.timers = a ++ x :: b → x.list = l.val →
    x.due ≤ s.hw.rbt.tick → (∀ y ∈ a, y ≠ x ∧ (y.list = l.val → x.due < y.due)) → (∀ y ∈ b, y.list = l.val → x.due ≤ y.due) →
    ((∃ y ∈ a, y.due = x.due) → exec (.timedItemDue l) s = .next s) ∧
    ((∀ y ∈ a, y.due ≠ x.due) → ownerFlow s.hw x.flow = some x.part →
    flowGet s.hw F_RBT_FLOW_CFG_EN x.flow ≠ 0 → unreleased (flowOf s.hw x.flow) < 1048575 → mustSpill s.hw x.part (flowOf s.hw x.flow) = false →
    yields (.timedItemDue l) s fun t =>
      t.hw.rbt.timers = s.hw.rbt.timers.filter (· != x) ∧ t.hw.rbt.waitItems = s.hw.rbt.waitItems ∧ sameMemory s t ∧
      ∃ i : Item, (flowOf t.hw x.flow).items = (flowOf s.hw x.flow).items ++ [i] ∧ i.seq = (flowOf s.hw x.flow).enq ∧ i.arg0 = x.item.arg0 ∧
        i.arg1 = x.item.arg1 ∧ i.arg2 = x.item.arg2 ∧ i.user = x.item.user)) ∧
  (∀ (f : Fin 4096) (p : Nat) (s : State), ownerFlow s.hw f.val = some p → rbtHeld s.hw = false → 0 < overflowItems (flowOf s.hw f.val) →
    onChipRoom s.hw p = true → yields (.overflowRefill f) s fun t =>
      ((flowOf t.hw f.val).items.map fun i => (i.seq, i.arg0, i.arg1, i.arg2)) = ((flowOf s.hw f.val).items.map fun i => (i.seq, i.arg0, i.arg1, i.arg2)) ∧
      overflowItems (flowOf t.hw f.val) < overflowItems (flowOf s.hw f.val) ∧
      (∀ (n : Nat) (i j : Item), (flowOf s.hw f.val).items[n]? = some i → (flowOf t.hw f.val).items[n]? = some j → i.onChip = true → j = i) ∧
      (∀ k, k ≠ f.val → flowOf t.hw k = flowOf s.hw k) ∧ sameMemory s t) ∧
  (∀ (h : Hw) (q : Nat), startsFragSlot (nextFragSlot h q) = true ∧ h.now ≤ 64 * nextFragSlot h q ∧ (quarterOf h q).slotNext ≤ nextFragSlot h q ∧
    ∀ u, startsFragSlot u = true → h.now ≤ 64 * u → (quarterOf h q).slotNext ≤ u → nextFragSlot h q ≤ u) ∧
  (∀ u : Nat, startsFragSlot u = true ↔ ∃ k, k < 5 ∧ u % 96 = 18 * k) ∧
  (∀ (q : Fin 24) (s : State), aveQuiet s.hw = true →
    let slot := fun (h : Hw) => let h' := passTo h (64 * nextFragSlot h q.val); setQuarter h' q.val { quarterOf h' q.val with slotNext := nextFragSlot h q.val + 1 }
    (yields (.fragmentSlot q) s fun t => t.hw.now = 64 * nextFragSlot s.hw q.val ∧ (quarterOf t.hw q.val).slotNext = nextFragSlot s.hw q.val + 1 ∧
      ∀ k, k ≠ q.val → (quarterOf t.hw k).slotNext = (quarterOf s.hw k).slotNext) ∧
    (slotsGranted s.hw q.val = false → changes (.fragmentSlot q) s slot) ∧
    (∀ (g p p' q' qa o k : Nat) (f : FragOut), slotsGranted s.hw q.val = true → g < 64 → p < 8 → (gateOf s.hw g).frag = some f → f.waits = [(o, 64, k)] →
      (∀ x, x < 8 → x ≠ p → waitingGates s.hw q.val x = []) → g ∈ waitingGates s.hw q.val p →
      (∀ g' ∈ waitingGates s.hw q.val p, g' ≠ g → ∃ w, waitingWrite s.hw q.val g' = some w ∧ k < w.2.2) → fragAddr s.hw g f o % 64 = 0 →
      placeOf s.hw (fragAddr s.hw g f o) = .dram p' q' qa → (mayReach s.hw (ioAsker s.hw (.gate (Fin.ofNat 64 g))) (fragAddr s.hw g f o) true).1 = true →
      (sub f.bytes o 64).length = 64 → supplier s.hw (fragAddr s.hw g f o / 64) = none → transOf s.hw (fragAddr s.hw g f o / 64) = none → yields (.fragmentSlot q) s fun t =>
        (gateOf t.hw g).frag = some { f with waits := [] } ∧ t.mem.bytes (dkey q' qa) 64 = sub f.bytes o 64 ∧ dramOutside s t (dkey q' qa) 64 ∧
        tget 0 t.hw.par.served q.val = p)) ∧
  (∀ (s : State), yields .tick s fun t =>
    { t.hw with rbt := s.hw.rbt } = s.hw ∧
    sameMemory s t) ∧
  (∀ (list : Fin 8) (s : State), yields (.timedItemDue list) s fun t =>
    { t.hw with regs := s.hw.regs, rbt := s.hw.rbt, ints := s.hw.ints } = s.hw ∧
    onlyFields s.hw t.hw [F_INT_SRC_STATE_EVENTS, F_INT_SRC_STATE_PENDING, F_PART_QUOTA_STATUS_OVER, F_RBT_FLOW_STATUS_IN_PROC,
      F_RBT_FLOW_STATUS_ONCHIP_DEPTH, F_RBT_FLOW_STATUS_OVF_DEPTH, F_RBT_FLOW_STATUS_STALLED, F_RBT_PART_USE_ONCHIP_USED, F_RBT_PART_USE_OPEN,
      F_RBT_PART_USE_OPEN_OVER, F_RBT_PART_USE_OVF_OVER, F_RBT_PART_USE_OVF_USED, F_RBT_PMU_CNT_COUNT, F_RBT_PMU_CTL_OVF,
      F_RBT_STATUS_ONCHIP_USED, F_RBT_STATUS_OPEN_USED] ∧
    sameMemory s t) ∧
  (∀ (f : Fin 4096) (s : State), yields (.overflowRefill f) s fun t =>
    { t.hw with regs := s.hw.regs, rbt := s.hw.rbt, ints := s.hw.ints, kyd := s.hw.kyd, freeCtr := s.hw.freeCtr } = s.hw ∧
    onlyFields s.hw t.hw [F_INT_SRC_STATE_EVENTS, F_INT_SRC_STATE_PENDING, F_KYD_ELOG_SEQ_NEXT, F_PART_QUOTA_STATUS_OVER,
      F_RBT_FLOW_STATUS_IN_PROC, F_RBT_FLOW_STATUS_ONCHIP_DEPTH, F_RBT_FLOW_STATUS_OVF_DEPTH, F_RBT_FLOW_STATUS_STALLED,
      F_RBT_PART_USE_ONCHIP_USED, F_RBT_PART_USE_OPEN, F_RBT_PART_USE_OPEN_OVER, F_RBT_PART_USE_OVF_OVER, F_RBT_PART_USE_OVF_USED,
      F_RBT_PMU_CNT_COUNT, F_RBT_PMU_CTL_OVF, F_RBT_STATUS_ONCHIP_USED, F_RBT_STATUS_OPEN_USED] ∧
    sameMemory s t) ∧
  (∀ (q : Fin 24) (s : State), aveQuiet s.hw = true → yields (.fragmentSlot q) s fun t =>
    { t.hw with regs := s.hw.regs, lan := s.hw.lan, now := s.hw.now, qu := s.hw.qu, par := s.hw.par, hom := s.hw.hom, ints := s.hw.ints, kyd := s.hw.kyd, freeCtr := s.hw.freeCtr, lastResult := s.hw.lastResult } = s.hw ∧
    onlyFields s.hw t.hw [F_CM_CMD_RESULT, F_CM_STATUS_DONE, F_CM_STATUS_SKIPPED, F_ENG_PMU_CNT_COUNT, F_ENG_PMU_CTL_OVF, F_GATE_PMU_CNT_COUNT,
      F_GATE_PMU_CTL_OVF, F_INT_SRC_STATE_EVENTS, F_INT_SRC_STATE_PENDING, F_KYD_ELOG_SEQ_NEXT, F_KYD_RTC_FRACTION, F_KYD_RTC_SECONDS,
      F_QMC_CHERR_CE_WINDOW, F_QMC_PMU_CNT_COUNT, F_QMC_PMU_CTL_OVF, F_QMC_UE_LINE, F_QMC_UE_POISON_READS, F_QMC_UE_UE_COUNT, F_QMC_VIOL_COUNT,
      F_QMC_VIOL_PART, F_QMC_VIOL_QADDR, F_QMC_VIOL_SECURE, F_QMC_VIOL_WRITE, F_RBT_PMU_CNT_COUNT, F_RBT_PMU_CTL_OVF, F_SF_STATUS_BACKINV,
      F_SF_STATUS_COARSE] ∧
    t.pending = s.pending)

/-- Get work takes a deliverable head of a subscribed, permitted flow of the partition that no other such head precedes. For every
state and agent: chooseWork answers none exactly when no flow of the partition with something in it has a deliverable head, a GROUP
of the subscription and a WORLD that permits the requester; otherwise it answers such a flow with its head item, and no other such
flow's key (priority, affinity step, enqueue time, flow number) comes before its key. A deliverable head is the oldest undelivered
item, on chip, with EN, without PAUSE, and with fewer than PARALLEL (at least one) items in process. (R231, R232, R247) -/
def Obligations.GetWorkChoosesByGroupThenAffinityThenAge : Prop :=
  (∀ (h : Hw) (p agent groups : Nat) (sec : Bool),
    let may := fun (f : Nat) (it : Item) => f ∈ (flowsOf h p).map (·.1) ∧ deliverable h f = some it ∧
      bit groups (flowGet h F_RBT_FLOW_CFG_GROUP f) = true ∧ (flowGet h F_RBT_FLOW_CFG_WORLD f = 1 → sec = true)
    (chooseWork h p agent groups sec = none ↔ ∀ f it, ¬ may f it) ∧
    (∀ f it, chooseWork h p agent groups sec = some (f, it) → may f it ∧
      ∀ g i, may g i → keyLt (getKey h p agent g i) (getKey h p agent f it) = false)) ∧
  (∀ (h : Hw) (f : Nat) (it : Item), deliverable h f = some it ↔
    (flowOf h f).items.find? (fun i => i.st == .waiting) = some it ∧ it.onChip = true ∧ flowGet h F_RBT_FLOW_CFG_EN f = 1 ∧
    flowGet h F_RBT_FLOW_CFG_PAUSE f = 0 ∧ inProcess (flowOf h f) < max 1 (flowGet h F_RBT_FLOW_CFG_PARALLEL f))

/-- GET, ADD, DONE, CANCEL, FREE and FLUSH through a port, the retry of a refused action and its completion act as stated. For an
accepted port command: while Roundabout is held each ends HELD and nothing else changes. GET with a qualifying item ends OK, loads
it into the port and marks it delivered to the port's agent, which becomes LAST_AGENT, with POISON set where its on-chip entry has
an uncorrectable error; without one it ends NONE. ADD appends a SOFT item with the flow's next SEQ and returns the handle; ADD with
LIST and TICKS places a timer and returns its identifier; a foreign flow ends FOREIGN, a disabled one DISABLED. DONE ends BAD_HANDLE
unless the item is delivered to the port; with SKIP the flow's oldest item leaves it. CANCEL, FREE and FLUSH act as R242, R235 and
R243 state. An action that its CHAIN target takes at a retry leaves the flow for the target, one that the target refuses, or whose
flow may not add to a secure target, stays stalled, and a completed action ends its item. (R230, R233, R234, R235, R242, R238, R243,
R244, R245, R247, R232) -/
def Obligations.PortOperationsActOnFlows : Prop :=
  (∀ (who : Requester) (p : Fin 8) (n : Fin 64) (s : State), accepts s who R_RBT_PORT_CMD p.val n.val →
    let done := fun (code : Nat) (h : Hw) => portDone (setBusErr h false) p.val n.val code
    let sec := portSecure s.hw who p.val
    let ag := 160 + 64 * p.val + n.val
    let opnd := fget s.hw F_RBT_PORT_OPND_OPND p.val n.val
    let ctrl := fget s.hw F_RBT_PORT_CTRLW_VALUE p.val n.val
    let f := bits ctrl 63 52
    let fl := flowOf s.hw f
    let mayUse := fun (f : Nat) => ownerFlow s.hw f = some p.val ∧ (flowGet s.hw F_RBT_FLOW_CFG_WORLD f = 1 → sec = true)
    (rbtHeld s.hw = true → ∀ c ∈ [Instr.getWork who p ⟨n, false⟩, .getWork who p ⟨n, true⟩, .addWork who p n, .doneWork who p n false false, .doneWork who p n false true,
      .doneWork who p n true false, .doneWork who p n true true, .cancel who p n, .freeEvent who p n, .flush who p n], changes c s (done 5)) ∧
    (rbtHeld s.hw = false →
      (chooseWork s.hw p.val ag (fget s.hw F_RBT_PORT_SUB_GROUPS p.val n.val) sec = none → ∀ bad, yields (.getWork who p ⟨n, bad⟩) s fun t =>
        fget t.hw F_RBT_PORT_CMD_RESULT p.val n.val = 1 ∧ t.hw.rbt = s.hw.rbt ∧ sameMemory s t) ∧
      (∀ g it, chooseWork s.hw p.val ag (fget s.hw F_RBT_PORT_SUB_GROUPS p.val n.val) sec = some (g, it) → ∀ bad, yields (.getWork who p ⟨n, bad⟩) s fun t =>
        fget t.hw F_RBT_PORT_CMD_RESULT p.val n.val = 0 ∧ fget t.hw F_RBT_PORT_ARG0_VALUE p.val n.val = it.arg0.toNat ∧
        fget t.hw F_RBT_PORT_ARG1_VALUE p.val n.val = it.arg1.toNat ∧ fget t.hw F_RBT_PORT_ARG2_VALUE p.val n.val = it.arg2.toNat ∧
        fget t.hw F_RBT_PORT_CTRLW_VALUE p.val n.val = itemWord g (it.marked bad) % 2 ^ 64 ∧ flowGet t.hw F_RBT_FLOW_STATUS_LAST_AGENT g = ag ∧
        (flowOf t.hw g).items = ((flowOf s.hw g).items.map fun i => if i.seq = it.seq ∧ i.st = .waiting then { i.marked bad with st := .delivered ag } else i) ∧
        (∀ k, k ≠ g → flowOf t.hw k = flowOf s.hw k) ∧ sameMemory s t) ∧
      (ownerFlow s.hw f ≠ some p.val → changes (.addWork who p n) s (done 7)) ∧
      (mayUse f → (bits opnd 18 16 = 0 ∨ bits opnd 15 0 = 0) → flowGet s.hw F_RBT_FLOW_CFG_EN f = 0 → changes (.addWork who p n) s (done 4)) ∧
      (mayUse f → (bits opnd 18 16 = 0 ∨ bits opnd 15 0 = 0) → flowGet s.hw F_RBT_FLOW_CFG_EN f ≠ 0 → unreleased fl < 1048575 →
        mustSpill s.hw p.val fl = false → yields (.addWork who p n) s fun t =>
          fget t.hw F_RBT_PORT_CMD_RESULT p.val n.val = 0 ∧ fget t.hw F_RBT_PORT_OPND_OPND p.val n.val = f * 2 ^ 20 + fl.enq % 2 ^ 20 ∧ sameMemory s t ∧
          ∃ i : Item, (flowOf t.hw f).items = fl.items ++ [i] ∧ i.seq = fl.enq ∧ i.kind = 0 ∧ i.flags = 0 ∧ i.user = bits ctrl 23 0 ∧ i.st = .waiting ∧
            i.arg0.toNat = fget s.hw F_RBT_PORT_ARG0_VALUE p.val n.val % 2 ^ 64 ∧ i.arg1.toNat = fget s.hw F_RBT_PORT_ARG1_VALUE p.val n.val % 2 ^ 64 ∧
            i.arg2.toNat = fget s.hw F_RBT_PORT_ARG2_VALUE p.val n.val % 2 ^ 64) ∧
      (∀ k, mayUse f → bits opnd 18 16 ≠ 0 → bits opnd 15 0 ≠ 0 → freeTimer s.hw (bits opnd 18 16) = some k → yields (.addWork who p n) s fun t =>
        let gen := tget 0 s.hw.rbt.timerGen (bits opnd 18 16 * 4096 + k)
        fget t.hw F_RBT_PORT_CMD_RESULT p.val n.val = 0 ∧ t.hw.rbt.flows = s.hw.rbt.flows ∧ sameMemory s t ∧
        fget t.hw F_RBT_PORT_OPND_OPND p.val n.val = (bits opnd 18 16 * 2 ^ 25 + gen * 2 ^ 12 + k) % 2 ^ 64 ∧
        ∃ x : Timer, t.hw.rbt.timers = s.hw.rbt.timers ++ [x] ∧ x.list = bits opnd 18 16 ∧ x.index = k ∧ x.gen = gen ∧
          x.due = s.hw.rbt.tick + 1 + bits opnd 15 0 ∧ x.flow = f) ∧
      (∀ keep skip, mayUse (bits opnd 31 20) → (∀ i ∈ (flowOf s.hw (bits opnd 31 20)).items, ¬ (i.seq = bits opnd 19 0 ∧ i.st = .delivered ag)) →
        changes (.doneWork who p n keep skip) s (done 6)) ∧
      (∀ keep it rest, mayUse (bits opnd 31 20) → (flowOf s.hw (bits opnd 31 20)).items = it :: rest → it.seq = bits opnd 19 0 → it.st = .delivered ag →
        (flowOf s.hw (bits opnd 31 20)).stalled = false → inFlight s.hw (bits opnd 31 20) = false → (∀ i ∈ rest, i.st = .waiting ∧ i.seq ≠ it.seq) →
        yields (.doneWork who p n keep true) s fun t => fget t.hw F_RBT_PORT_CMD_RESULT p.val n.val = 0 ∧
          (flowOf t.hw (bits opnd 31 20)).items = rest) ∧
      (let isIt := fun (x : Timer) => x.list = bits opnd 27 25 ∧ x.gen = bits opnd 24 12 ∧ x.index = bits opnd 11 0
       ((∀ x ∈ s.hw.rbt.timers, ¬ isIt x) → changes (.cancel who p n) s (done 8)) ∧
       (∀ x ∈ s.hw.rbt.timers, isIt x → (∀ y ∈ s.hw.rbt.timers, isIt y → y = x) →
         (x.part ≠ p.val → changes (.cancel who p n) s (done 7)) ∧
         (x.part = p.val → changes (.cancel who p n) s fun h =>
           done 9 { h with rbt := { h.rbt with timers := h.rbt.timers.filter (· != x) } }))) ∧
      ((∀ e ∈ s.hw.rbt.events, ¬ (e.part = p.val ∧ e.evseq = opnd)) → changes (.freeEvent who p n) s (done 8)) ∧
      ((∃ e ∈ s.hw.rbt.events, e.part = p.val ∧ e.evseq = opnd) → yields (.freeEvent who p n) s fun t =>
        fget t.hw F_RBT_PORT_CMD_RESULT p.val n.val = 0 ∧ t.hw.rbt.events = s.hw.rbt.events.filter (fun e => !(e.part == p.val && e.evseq == opnd)) ∧
        t.hw.rbt.flows = s.hw.rbt.flows ∧ sameMemory s t) ∧
      (4096 ≤ opnd → changes (.flush who p n) s (done 7)) ∧
      (opnd < 4096 → mayUse opnd → (∀ i ∈ (flowOf s.hw opnd).items, i.st = .waiting ∨ isDelivered i = true) → yields (.flush who p n) s fun t =>
        fget t.hw F_RBT_PORT_CMD_RESULT p.val n.val = 0 ∧ (flowOf t.hw opnd).items = (flowOf s.hw opnd).items.filter isDelivered))) ∧
  (∀ (f : Fin 4096) (p g : Nat) (it : Item) (s : State), rbtHeld s.hw = false → ownerFlow s.hw f.val = some p → (flowOf s.hw f.val).stalled = true →
    inFlight s.hw f.val = false → (flowOf s.hw f.val).items = [it] → it.st = .acting → flowGet s.hw F_RBT_FLOW_ACT_ACTION f.val = 1 →
    flowGet s.hw F_RBT_FLOW_ACT_TARGET f.val = g → g ≠ f.val → ownerFlow s.hw g = some p →
    (flowGet s.hw F_RBT_FLOW_CFG_EN g = 0 → yields (.releaseActionRetry f) s fun t =>
      (flowOf t.hw f.val).items = [it] ∧ (flowOf t.hw f.val).stalled = true ∧ flowOf t.hw g = flowOf s.hw g) ∧
    (flowGet s.hw F_RBT_FLOW_CFG_WORLD g = 1 → flowGet s.hw F_RBT_FLOW_CFG_WORLD f.val ≠ 1 → yields (.releaseActionRetry f) s fun t =>
      (flowOf t.hw f.val).items = [it] ∧ (flowOf t.hw f.val).stalled = true ∧ flowOf t.hw g = flowOf s.hw g) ∧
    ((flowGet s.hw F_RBT_FLOW_CFG_WORLD g = 1 → flowGet s.hw F_RBT_FLOW_CFG_WORLD f.val = 1) →
      flowGet s.hw F_RBT_FLOW_CFG_EN g ≠ 0 → unreleased (flowOf s.hw g) < 1048575 → mustSpill s.hw p (flowOf s.hw g) = false →
      yields (.releaseActionRetry f) s fun t => (flowOf t.hw f.val).items = [] ∧ (flowOf t.hw f.val).stalled = false ∧
        ∃ i : Item, (flowOf t.hw g).items = (flowOf s.hw g).items ++ [i] ∧ i.seq = (flowOf s.hw g).enq ∧ i.kind = it.kind ∧ i.arg0 = it.arg0 ∧
          i.arg1 = it.arg1 ∧ i.arg2 = it.arg2 ∧ i.user = it.user)) ∧
  (∀ (f : Fin 4096) (p : Nat) (it : Item) (s : State), rbtHeld s.hw = false → ownerFlow s.hw f.val = some p →
    (flowOf s.hw f.val).items.find? (fun i => i.st == .complete) = some it → yields (.actionComplete f) s fun t =>
      (flowOf t.hw f.val).items = (flowOf s.hw f.val).items.filter (fun i => !(i.seq == it.seq && isReleased i)) ∧
      (∀ k, k ≠ f.val → flowOf t.hw k = flowOf s.hw k) ∧ sameMemory s t) ∧
  (∀ (who : Requester) (p : Fin 8) (n : Fin 64) (bad : Bool) (s : State), yields (.getWork who p ⟨n, bad⟩) s fun t =>
    { t.hw with regs := s.hw.regs, rbt := s.hw.rbt, ints := s.hw.ints, kyd := s.hw.kyd, busErr := s.hw.busErr } = s.hw ∧
    sameMemory s t) ∧
  (∀ (who : Requester) (p : Fin 8) (n : Fin 64) (s : State), yields (.addWork who p n) s fun t =>
    { t.hw with regs := s.hw.regs, rbt := s.hw.rbt, ints := s.hw.ints, kyd := s.hw.kyd, busErr := s.hw.busErr } = s.hw ∧
    onlyFields s.hw t.hw [F_INT_SRC_STATE_EVENTS, F_INT_SRC_STATE_PENDING, F_KYD_ELOG_SEQ_NEXT, F_PART_QUOTA_STATUS_OVER,
      F_RBT_FLOW_STATUS_IN_PROC, F_RBT_FLOW_STATUS_ONCHIP_DEPTH, F_RBT_FLOW_STATUS_OVF_DEPTH, F_RBT_FLOW_STATUS_STALLED,
      F_RBT_PART_USE_ONCHIP_USED, F_RBT_PART_USE_OPEN, F_RBT_PART_USE_OPEN_OVER, F_RBT_PART_USE_OVF_OVER, F_RBT_PART_USE_OVF_USED,
      F_RBT_PMU_CNT_COUNT, F_RBT_PMU_CTL_OVF, F_RBT_PORT_CMD_RESULT, F_RBT_PORT_CMD_SEQ, F_RBT_PORT_OPND_OPND, F_RBT_STATUS_ONCHIP_USED,
      F_RBT_STATUS_OPEN_USED] ∧
    sameMemory s t) ∧
  (∀ (who : Requester) (p : Fin 8) (n : Fin 64) (s : State), yields (.cancel who p n) s fun t =>
    { t.hw with regs := s.hw.regs, rbt := s.hw.rbt, kyd := s.hw.kyd, busErr := s.hw.busErr } = s.hw ∧
    onlyFields s.hw t.hw [F_KYD_ELOG_SEQ_NEXT, F_RBT_PORT_CMD_RESULT, F_RBT_PORT_CMD_SEQ] ∧
    sameMemory s t) ∧
  (∀ (who : Requester) (p : Fin 8) (n : Fin 64) (s : State), yields (.freeEvent who p n) s fun t =>
    { t.hw with regs := s.hw.regs, lan := s.hw.lan, rbt := s.hw.rbt, kyd := s.hw.kyd, busErr := s.hw.busErr } = s.hw ∧
    onlyFields s.hw t.hw [F_GATE_FRAG_STATUS_TAIL, F_KYD_ELOG_SEQ_NEXT, F_RBT_PORT_CMD_RESULT, F_RBT_PORT_CMD_SEQ] ∧
    sameMemory s t) ∧
  (∀ (f : Fin 4096) (s : State), yields (.actionComplete f) s fun t =>
    { t.hw with regs := s.hw.regs, lan := s.hw.lan, rbt := s.hw.rbt, blvd := s.hw.blvd, ints := s.hw.ints } = s.hw ∧
    onlyFields s.hw t.hw [F_BLVD_LAND_STATUS_TAIL, F_GATE_FRAG_STATUS_TAIL, F_INT_SRC_STATE_EVENTS, F_INT_SRC_STATE_PENDING,
      F_PART_QUOTA_STATUS_OVER, F_RBT_FLOW_STATUS_IN_PROC, F_RBT_FLOW_STATUS_ONCHIP_DEPTH, F_RBT_FLOW_STATUS_OVF_DEPTH,
      F_RBT_FLOW_STATUS_STALLED, F_RBT_PART_USE_ONCHIP_USED, F_RBT_PART_USE_OPEN, F_RBT_PART_USE_OPEN_OVER, F_RBT_PART_USE_OVF_OVER,
      F_RBT_PART_USE_OVF_USED, F_RBT_STATUS_ONCHIP_USED, F_RBT_STATUS_OPEN_USED] ∧
    sameMemory s t) ∧
  (∀ (who : Requester) (p : Fin 8) (n : Fin 64) (keep skip : Bool) (s : State), yields (.doneWork who p n keep skip) s fun t =>
    { t.hw with regs := s.hw.regs, lan := s.hw.lan, rbt := s.hw.rbt, qu := s.hw.qu, eng := s.hw.eng, hom := s.hw.hom, par := s.hw.par, host := s.hw.host, blvd := s.hw.blvd, ints := s.hw.ints, kyd := s.hw.kyd, freeCtr := s.hw.freeCtr, busErr := s.hw.busErr, lastResult := s.hw.lastResult } = s.hw ∧
    t.pending = s.pending) ∧
  (∀ (who : Requester) (p : Fin 8) (n : Fin 64) (s : State), yields (.flush who p n) s fun t =>
    { t.hw with regs := s.hw.regs, lan := s.hw.lan, rbt := s.hw.rbt, qu := s.hw.qu, eng := s.hw.eng, hom := s.hw.hom, par := s.hw.par, host := s.hw.host, blvd := s.hw.blvd, ints := s.hw.ints, kyd := s.hw.kyd, freeCtr := s.hw.freeCtr, busErr := s.hw.busErr, lastResult := s.hw.lastResult } = s.hw ∧
    t.pending = s.pending) ∧
  (∀ (f : Fin 4096) (s : State), yields (.releaseActionRetry f) s fun t =>
    { t.hw with regs := s.hw.regs, lan := s.hw.lan, rbt := s.hw.rbt, qu := s.hw.qu, eng := s.hw.eng, hom := s.hw.hom, par := s.hw.par, host := s.hw.host, blvd := s.hw.blvd, ints := s.hw.ints, kyd := s.hw.kyd, freeCtr := s.hw.freeCtr, lastResult := s.hw.lastResult } = s.hw ∧
    t.pending = s.pending)

/-- Every single symbol error is corrected, one erased channel is solved or an error on another is noticed, two are solved, markers
are seen. For every 16 bytes of data, with c the codeword the quarter stores: c decodes intact and with the marker added as the
marker; with one symbol of c changed in any way, the decoder names that symbol and gives back c; with the symbol of one marked
channel replaced by 0, c comes back intact and the marked word as the marker with its data; with one marked channel and any change
of one other symbol the outcome is never 'intact'; with the symbols of two marked channels replaced by 0, c comes back. The data
symbols of c are the 16 bytes. (R253, R254, R255, R266, R270) -/
def Obligations.TheCodeCorrectsDetectsAndMarks : Prop :=
  ∀ b : List Byte, b.length = 16 →
    let c := codeword b false
    let p := codeword b true
    symBytes c = b ∧ symBytes p = b ∧
    decodeBeat c [] = (.intact, c) ∧ decodeBeat p [] = (.marker, p) ∧
    (∀ j e, j < 10 → 0 < e → e < 2 ^ 16 → decodeBeat (putSym c j ((lget 0 c j).xor e)) [] = (.corrected j, c)) ∧
    (∀ m, m < 10 → decodeBeat (putSym c m 0) [m] = (.intact, c) ∧ (decodeBeat (putSym p m 0) [m]).1 = .marker ∧
      symBytes (decodeBeat (putSym p m 0) [m]).2 = b) ∧
    (∀ m j e, m < 10 → j < 10 → j ≠ m → 0 < e → e < 2 ^ 16 →
      (decodeBeat (putSym (putSym c j ((lget 0 c j).xor e)) m 0) [m]).1 ≠ .intact) ∧
    (∀ m n, m < n → n < 10 → decodeBeat (putSym (putSym c m 0) n 0) [m, n] = (.intact, c))

/-- A quarter access that the regions refuse changes no memory and is counted; an allowed write changes its bytes, and a read
returns them. For every state: DRAM_READ and DRAM_WRITE refused by the region registers are bus errors that leave memory as it is,
count one violation, record the access and raise the violation source, also where only the last byte of a write lies in a region
that refuses it; one beyond the cells of the quarter is a bus error and changes nothing else. An allowed DRAM_WRITE outside a power
failure gives each enabled byte its value, changes no other line, and no other byte where the quarter reads the lines as it stores
them without symbol errors, and is no bus error; with the poison bit every beat of a line it gives a byte of takes the marker; an
offer of such a line that is under way is out of date (log 67). An allowed DRAM_READ without symbol errors in a quarter without
marks or retraining returns the 64 bytes of the line, with the poison bit where a beat of the line holds the marker, and changes no
memory; for a slice, with OFFER_EN, the other three lines of the quad-line are under way to their homes. During a power failure a
write changes nothing. (R251, R257, R258, R259, R265, R266, R267, R278, R279, R60) -/
def Obligations.QuarterAccessesObeyRegionsAndReturnWhatWasWritten : Prop :=
  (∀ (q : Fin 24) (req : MemReq) (qa : BitVec 35) (errs : List SymErr) (data : WriteData) (mask : List Bool) (pz : Bool) (s : State),
    regionAllows s.hw (reqAsker s.hw req) q.val qa.toNat = false → qa.toNat + max 1 data.bytes.length ≤ quarterBytes s.hw →
    ∀ c ∈ [Instr.dramRead q req qa errs, .dramWrite q req qa data mask pz], (s.hw.sup.powerFail = false ∨ c = .dramRead q req qa errs) →
      yields c s fun t => t.hw.busErr = true ∧ sameMemory s t ∧
        fget t.hw F_QMC_VIOL_COUNT q.val = min (fget s.hw F_QMC_VIOL_COUNT q.val + 1) (2 ^ F_QMC_VIOL_COUNT.width - 1) ∧
        fget t.hw F_QMC_VIOL_WRITE q.val = b2n (c = .dramWrite q req qa data mask pz) ∧ fget t.hw F_QMC_VIOL_SECURE q.val = b2n (reqAsker s.hw req).secure ∧
        fget t.hw F_QMC_VIOL_QADDR q.val = qa.toNat % 2 ^ F_QMC_VIOL_QADDR.width ∧ fget t.hw F_INT_SRC_STATE_PENDING 0 (srcQuarter q.val 1) = 1) ∧
  (∀ (q : Fin 24) (req : MemReq) (qa : BitVec 35) (data : WriteData) (mask : List Bool) (pz : Bool) (s : State), s.hw.sup.powerFail = false →
    qa.toNat + data.bytes.length ≤ quarterBytes s.hw → regionAllows s.hw (reqAsker s.hw req) q.val qa.toNat = true →
    let last := qa.toNat + (data.bytes.length - 1)
    regionAllows s.hw (reqAsker s.hw req) q.val last = false → yields (.dramWrite q req qa data mask pz) s fun t =>
      t.hw.busErr = true ∧ sameMemory s t ∧ fget t.hw F_QMC_VIOL_WRITE q.val = 1 ∧
      fget t.hw F_QMC_VIOL_QADDR q.val = last % 2 ^ F_QMC_VIOL_QADDR.width ∧ fget t.hw F_INT_SRC_STATE_PENDING 0 (srcQuarter q.val 1) = 1) ∧
  (∀ (q : Fin 24) (req : MemReq) (qa : BitVec 35) (errs : List SymErr) (data : WriteData) (mask : List Bool) (pz : Bool) (s : State),
    (quarterBytes s.hw ≤ qa.toNat → changes (.dramRead q req qa errs) s fun h => setBusErr h true) ∧
    (quarterBytes s.hw < qa.toNat + data.bytes.length → s.hw.sup.powerFail = false → changes (.dramWrite q req qa data mask pz) s fun h => setBusErr h true)) ∧
  (∀ (q : Fin 24) (req : MemReq) (qa : BitVec 35) (data : WriteData) (mask : List Bool) (pz : Bool) (s : State),
    let given := fun (i : Nat) => i < data.bytes.length ∧ (mask[i]?).getD true = true
    (s.hw.sup.powerFail = true → exec (.dramWrite q req qa data mask pz) s = .next s) ∧
    (s.hw.sup.powerFail = false → qa.toNat + data.bytes.length ≤ quarterBytes s.hw → regionAllows s.hw (reqAsker s.hw req) q.val qa.toNat = true →
      regionAllows s.hw (reqAsker s.hw req) q.val (qa.toNat + (data.bytes.length - 1)) = true → yields (.dramWrite q req qa data mask pz) s fun t =>
      t.hw.busErr = false ∧ t.pending = s.pending ∧ t.mem.scratch = s.mem.scratch ∧
      (∀ i, given i → t.mem.byte (dkey q.val (qa.toNat + i)) = (data.bytes[i]?).getD 0) ∧
      (∀ k, (∀ i, i < data.bytes.length → dkey q.val (qa.toNat + i) / 64 ≠ k / 64) → t.mem.byte k = s.mem.byte k) ∧
      (data.errs = [] → (∀ i, i < data.bytes.length → readsAsStored s q.val (qa.toNat + i)) →
        ∀ k, (∀ i, given i → k ≠ dkey q.val (qa.toNat + i)) → t.mem.byte k = s.mem.byte k) ∧
      (pz = true → ∀ i b, given i → b < 4 → t.mem.beatPoison (dkey q.val ((qa.toNat + i) / 64 * 64) / 16 + b) = true) ∧
      (∀ i, i < data.bytes.length → ∀ o ∈ t.hw.hom.offers, o.quarter = q.val → o.qline = (qa.toNat + i) / 64 → o.stale = true))) ∧
  (∀ (q : Fin 24) (req : MemReq) (qa : BitVec 35) (s : State), regionAllows s.hw (reqAsker s.hw req) q.val qa.toNat = true →
    qa.toNat < quarterBytes s.hw → qState s.hw q.val ≠ qLost →
    mark1 s.hw q.val = none → mark2 s.hw q.val = none → retrainErased s.hw q.val (qa.toNat / 256) = [] →
    yields (.dramRead q req qa []) s fun t => t.hw.busErr = false ∧ sameMemory s t ∧
      t.hw.lastResult = s.mem.bytes (dkey q.val (qa.toNat / 64 * 64)) 64 ++
        [if (List.range 4).any (fun i => s.mem.beatPoison (dkey q.val (qa.toNat / 64 * 64) / 16 + i)) then 1 else 0] ∧
      (∀ k p sec x, req = .slice k p sec → physOf s.hw p.val q.val (qa.toNat / 256 * 256) = some x → fon s.hw F_QMC_CONFIG_OFFER_EN q.val = true →
        t.hw.hom.offers.length = s.hw.hom.offers.length + 3 ∧ ∀ i, i < 4 → i ≠ qa.toNat % 256 / 64 →
          ∃ o ∈ t.hw.hom.offers, o.line = x / 256 * 4 + i ∧ o.quarter = q.val ∧ o.qline = qa.toNat / 256 * 4 + i ∧ o.stale = false ∧
            o.data = s.mem.bytes (dkey q.val (qa.toNat / 256 * 256 + 64 * i)) 64)) ∧
  (∀ (q : Fin 24) (req : MemReq) (qa : BitVec 35) (data : WriteData) (mask : List Bool) (poison : Bool) (s : State), yields (.dramWrite q req qa data mask poison) s fun t =>
    { t.hw with regs := s.hw.regs, sup := s.hw.sup, ave := s.hw.ave, qu := s.hw.qu, hom := s.hw.hom, ints := s.hw.ints, kyd := s.hw.kyd, freeCtr := s.hw.freeCtr, busErr := s.hw.busErr } = s.hw ∧
    (data.errs = [] → t.hw.sup = s.hw.sup ∧ t.hw.ave = s.hw.ave ∧
      onlyFields s.hw t.hw [F_INT_SRC_STATE_EVENTS, F_INT_SRC_STATE_PENDING, F_KYD_ELOG_SEQ_NEXT, F_QMC_PMU_CNT_COUNT, F_QMC_PMU_CTL_OVF,
        F_QMC_UE_LINE, F_QMC_UE_POISON_READS, F_QMC_UE_UE_COUNT, F_QMC_VIOL_COUNT, F_QMC_VIOL_PART, F_QMC_VIOL_QADDR, F_QMC_VIOL_SECURE,
        F_QMC_VIOL_WRITE]) ∧
    t.pending = s.pending) ∧
  (∀ (q : Fin 24) (req : MemReq) (qa : BitVec 35) (errs : List SymErr) (s : State), yields (.dramRead q req qa errs) s fun t =>
    { t.hw with regs := s.hw.regs, sup := s.hw.sup, ave := s.hw.ave, qu := s.hw.qu, hom := s.hw.hom, ints := s.hw.ints, kyd := s.hw.kyd, freeCtr := s.hw.freeCtr, busErr := s.hw.busErr, lastResult := s.hw.lastResult } = s.hw ∧
    t.pending = s.pending)

/-- RESILVER, PAUSE_RS and RESUME_RS of QMC_CTRL act as the state of the quarter decides. For every accepted command: RESILVER in
MARKED starts re-silver at PROGRESS 0 and ends DONE; in RESILVER it ends DONE and changes nothing but the command register's answer;
in every other state it ends REFUSED and changes nothing else. PAUSE_RS and RESUME_RS in RESILVER end DONE and set and clear the
pause, and change no register but the answer where it is so already; in every other state they end REFUSED and change nothing else.
(R571) -/
def Obligations.ResilverCommandsDependOnTheState : Prop :=
  ∀ (who : Requester) (q : Fin 24) (s : State), accepts s who R_QMC_CTRL q.val 0 →
    let done := fun (code : Nat) (h : Hw) => answer (setBusErr h false) F_QMC_CTRL_RESULT F_QMC_CTRL_SEQ code q.val
    (qState s.hw q.val = qMarked → yields (.resilver who q) s fun t => fget t.hw F_QMC_CTRL_RESULT q.val = 2 ∧
      fget t.hw F_QMC_CTRL_SEQ q.val = (fget s.hw F_QMC_CTRL_SEQ q.val + 1) % 256 ∧ qState t.hw q.val = qResilver ∧
      fget t.hw F_QMC_RESILVER_PROGRESS q.val = 0 ∧ fget t.hw F_QMC_STATUS_RS_PAUSED q.val = 0 ∧ sameMemory s t) ∧
    (qState s.hw q.val = qResilver → changes (.resilver who q) s (done 2)) ∧
    (qState s.hw q.val ≠ qMarked → qState s.hw q.val ≠ qResilver → changes (.resilver who q) s (done 4)) ∧
    (qState s.hw q.val = qResilver →
      (changes (.pauseRs who q) s fun h => answer (fset (setBusErr h false) F_QMC_STATUS_RS_PAUSED 1 q.val) F_QMC_CTRL_RESULT F_QMC_CTRL_SEQ 2 q.val) ∧
      (changes (.resumeRs who q) s fun h => answer (fset (setBusErr h false) F_QMC_STATUS_RS_PAUSED 0 q.val) F_QMC_CTRL_RESULT F_QMC_CTRL_SEQ 2 q.val) ∧
      (fget s.hw F_QMC_STATUS_RS_PAUSED q.val = 1 → yields (.pauseRs who q) s fun t => onlyFields s.hw t.hw [F_QMC_CTRL_RESULT, F_QMC_CTRL_SEQ]) ∧
      (fget s.hw F_QMC_STATUS_RS_PAUSED q.val = 0 → yields (.resumeRs who q) s fun t => onlyFields s.hw t.hw [F_QMC_CTRL_RESULT, F_QMC_CTRL_SEQ])) ∧
    (qState s.hw q.val ≠ qResilver → changes (.pauseRs who q) s (done 4) ∧ changes (.resumeRs who q) s (done 4))

/-- MARK, RETRAIN, the scrub and the steps of re-silver and catch-up move a quarter through its states. An accepted MARK of a
channel not yet marked, outside retraining and catch-up, moves NORMAL to MARKED, to RESILVER at PROGRESS 0 with RS_AUTO, or to
SPARED for a check channel; MARKED, RESILVER and SPARED to DOUBLE with the unprotected source and cause; DOUBLE to LOST, which takes
down every partition with memory in the quarter; it ends DONE and raises the mark source. A CH above 9 is REFUSED. RETRAIN and drift
start only where R275 lets them. RETRAIN_DONE with success starts catch-up, or ends it at once with nothing dirty; a failure marks
the channel. CATCHUP_STEP takes the lowest dirty granule. RESILVER_STEP advances PROGRESS by one and ends SPARED at the last
quad-line. SCRUB_PASS starts at quad-line 0, and a scrub step takes the next. MARK_WINDOW_START moves module time to the next whole
multiple of the quarter's window, unless that has just been reached, and clears CE_WINDOW of each quarter that has a window start on
the way; that time moves with the command is the model's choice (log 4). (R268, R269, R271, R275, R276, R277, R281) -/
def Obligations.MarksAndRetrainingMoveTheQuarter : Prop :=
  (∀ (who : Requester) (q : Fin 24) (ch : BitVec 4) (s : State), accepts s who R_QMC_CTRL q.val 0 →
    let done := fun (code : Nat) (h : Hw) => answer (setBusErr h false) F_QMC_CTRL_RESULT F_QMC_CTRL_SEQ code q.val
    let k := ch.toNat
    let m1 := mark1 s.hw q.val
    let m2 := mark2 s.hw q.val
    let auto := fon s.hw F_QMC_CONFIG_RS_AUTO q.val = true
    let quiet := fon s.hw F_QMC_STATUS_RETRAINING q.val = false ∧ fon s.hw F_QMC_STATUS_CATCHUP q.val = false
    (10 ≤ k → changes (.markChannel who q ch) s (done 4)) ∧
    (k < 10 → quiet → m1 ≠ some k → m2 ≠ some k → qState s.hw q.val < 5 → s.hw.ave.waiting = [] → yields (.markChannel who q ch) s fun t =>
      fget t.hw F_QMC_CTRL_RESULT q.val = 2 ∧ fget t.hw F_INT_SRC_STATE_PENDING 0 (srcQuarter q.val 2) = 1 ∧ t.pending = s.pending ∧
      (m1 = none → mark1 t.hw q.val = some k ∧ fget t.hw F_QMC_STATUS_MARK2 q.val = fget s.hw F_QMC_STATUS_MARK2 q.val) ∧
      (m1 ≠ none → m2 = none → mark1 t.hw q.val = m1 ∧ mark2 t.hw q.val = some k) ∧
      (qState s.hw q.val = qNormal → k < 8 → ¬ auto → qState t.hw q.val = qMarked) ∧
      (qState s.hw q.val = qNormal → k < 8 → auto → qState t.hw q.val = qResilver ∧ fget t.hw F_QMC_RESILVER_PROGRESS q.val = 0) ∧
      (qState s.hw q.val = qNormal → 8 ≤ k → qState t.hw q.val = qSpared) ∧
      (1 ≤ qState s.hw q.val → qState s.hw q.val ≤ 3 → qState t.hw q.val = qDouble ∧ fget t.hw F_KYD_STATUS_UNPROTECTED = 1 ∧
        fget t.hw F_INT_SRC_STATE_PENDING 0 (srcQuarter q.val 0) = 1 ∧ fget t.hw F_QMC_RESILVER_PROGRESS q.val = fget s.hw F_QMC_RESILVER_PROGRESS q.val) ∧
      (qState s.hw q.val = qDouble → qState t.hw q.val = qLost ∧ ∀ p, p < 8 → ownsIn s.hw p q.val = true → partDown t.hw p = true)) ∧
    (k < 10 → (m1 = some k ∨ m2 = some k) → quiet → changes (.markChannel who q ch) s (done 2)) ∧
    (mayRetrain s.hw q.val k = true → yields (.channelRetrain who q ch) s fun t => fget t.hw F_QMC_CTRL_RESULT q.val = 1 ∧
      fget t.hw F_QMC_STATUS_RETRAIN_CH q.val = k ∧ fget t.hw F_QMC_STATUS_RETRAINING q.val = 1 ∧ (quarterOf t.hw q.val).dirty = [] ∧ sameMemory s t) ∧
    (mayRetrain s.hw q.val k = false → changes (.channelRetrain who q ch) s (done 4)) ∧
    (changes (.scrubPass who q) s fun h => done 2 (setQuarter h q.val { quarterOf h q.val with scrubAt := 0, scrubPass := true }))) ∧
  (∀ (h : Hw) (q k : Nat), mayRetrain h q k = true ↔ k < 10 ∧ (qState h q = qNormal ∨ qState h q = qSpared) ∧
    fget h F_QMC_STATUS_RETRAINING q ≠ 1 ∧ fget h F_QMC_STATUS_CATCHUP q ≠ 1 ∧ mark1 h q ≠ some k) ∧
  (∀ (q : Fin 24) (ch : BitVec 4) (s : State),
    (mayRetrain s.hw q.val ch.toNat = true → yields (.driftRetrain q ch) s fun t => fget t.hw F_QMC_STATUS_RETRAIN_CH q.val = ch.toNat ∧
      fget t.hw F_QMC_STATUS_RETRAINING q.val = 1 ∧ (quarterOf t.hw q.val).dirty = [] ∧ sameMemory s t) ∧
    (mayRetrain s.hw q.val ch.toNat = false → exec (.driftRetrain q ch) s = .next s)) ∧
  (∀ (q : Fin 24) (s : State), fget s.hw F_QMC_STATUS_RETRAINING q.val = 1 → (quarterOf s.hw q.val).markWait = [] →
    (yields (.retrainDone q true) s fun t => fget t.hw F_QMC_STATUS_RETRAINING q.val = 0 ∧
      ((quarterOf s.hw q.val).dirty = [] → fget t.hw F_QMC_STATUS_CATCHUP q.val = 0 ∧ fget t.hw F_QMC_STATUS_RETRAIN_CH q.val = 15) ∧
      ((quarterOf s.hw q.val).dirty ≠ [] → fget t.hw F_QMC_STATUS_CATCHUP q.val = 1 ∧
        fget t.hw F_QMC_STATUS_RETRAIN_CH q.val = fget s.hw F_QMC_STATUS_RETRAIN_CH q.val) ∧
      (fget s.hw F_QMC_CTRL_RESULT q.val = 1 → fget t.hw F_QMC_CTRL_RESULT q.val = 2)) ∧
    (qState s.hw q.val < 4 → fget s.hw F_QMC_STATUS_RETRAIN_CH q.val < 10 → mark1 s.hw q.val = none → mark2 s.hw q.val = none →
      yields (.retrainDone q false) s fun t => fget t.hw F_QMC_STATUS_RETRAINING q.val = 0 ∧
        mark1 t.hw q.val = some (fget s.hw F_QMC_STATUS_RETRAIN_CH q.val) ∧ (fget s.hw F_QMC_CTRL_RESULT q.val = 1 → fget t.hw F_QMC_CTRL_RESULT q.val = 3))) ∧
  (∀ (q : Fin 24) (d : Nat) (r : List Nat) (s : State), fget s.hw F_QMC_STATUS_CATCHUP q.val = 1 → (quarterOf s.hw q.val).dirty = d :: r →
    (quarterOf s.hw q.val).markWait = [] → yields (.catchupStep q) s fun t => (quarterOf t.hw q.val).dirty = r ∧
      fget t.hw F_QMC_STATUS_CATCHUP q.val = (if r = [] then 0 else 1) ∧ (r = [] → fget t.hw F_QMC_STATUS_RETRAIN_CH q.val = 15)) ∧
  (∀ (q : Fin 24) (s : State), qState s.hw q.val = qResilver → fget s.hw F_QMC_STATUS_RS_PAUSED q.val = 0 → dramWorks s.hw = true →
    fget s.hw F_QMC_RESILVER_PROGRESS q.val + 1 ≤ quadLines s.hw → yields (.resilverStep q) s fun t => sameMemory s t ∧
      fget t.hw F_QMC_RESILVER_PROGRESS q.val = fget s.hw F_QMC_RESILVER_PROGRESS q.val + 1 ∧
      qState t.hw q.val = (if fget s.hw F_QMC_RESILVER_PROGRESS q.val + 1 = quadLines s.hw then qSpared else qResilver) ∧
      (fget s.hw F_QMC_RESILVER_PROGRESS q.val + 1 = quadLines s.hw → fget t.hw F_INT_SRC_STATE_PENDING 0 (srcQuarter q.val 3) = 1)) ∧
  (∀ (q : Fin 24) (s : State), (quarterOf s.hw q.val).scrubPass = true → dramWorks s.hw = true → mark1 s.hw q.val = none → mark2 s.hw q.val = none →
    qState s.hw q.val ≠ qLost → retrainErased s.hw q.val (quarterOf s.hw q.val).scrubAt = [] → yields (.scrubStep q []) s fun t => sameMemory s t ∧
      ((quarterOf s.hw q.val).scrubAt + 1 < quadLines s.hw → (quarterOf t.hw q.val).scrubAt = (quarterOf s.hw q.val).scrubAt + 1 ∧
        (quarterOf t.hw q.val).scrubPass = true) ∧
      (quadLines s.hw ≤ (quarterOf s.hw q.val).scrubAt + 1 → (quarterOf t.hw q.val).scrubAt = 0 ∧ (quarterOf t.hw q.val).scrubPass = false ∧
        fget t.hw F_QMC_STATUS_SCRUB_PASSES q.val = min (fget s.hw F_QMC_STATUS_SCRUB_PASSES q.val + 1) (2 ^ F_QMC_STATUS_SCRUB_PASSES.width - 1))) ∧
  (∀ (q : Fin 24) (s : State), let w := markWindow s.hw q.val
    (s.hw.now % w = 0 → (quarterOf s.hw q.val).winAt ≠ s.hw.now →
      changes (.markWindowStart q) s fun h => setQuarter h q.val { quarterOf h q.val with winAt := h.now }) ∧
    (aveQuiet s.hw = true → (s.hw.now % w ≠ 0 ∨ (quarterOf s.hw q.val).winAt = s.hw.now) → yields (.markWindowStart q) s fun t =>
      t.hw.now = (s.hw.now / w + 1) * w ∧ (quarterOf t.hw q.val).winAt = t.hw.now ∧
      (∀ k ch, k < 24 → ch < 10 → fget t.hw F_QMC_CHERR_CE_WINDOW k ch =
        if t.hw.now / markWindow s.hw k = s.hw.now / markWindow s.hw k then fget s.hw F_QMC_CHERR_CE_WINDOW k ch else 0))) ∧
  (∀ (q : Fin 24) (s : State), aveQuiet s.hw = true → yields (.markWindowStart q) s fun t =>
    { t.hw with regs := s.hw.regs, now := s.hw.now, qu := s.hw.qu, freeCtr := s.hw.freeCtr } = s.hw ∧
    onlyFields s.hw t.hw [F_ENG_PMU_CNT_COUNT, F_ENG_PMU_CTL_OVF, F_GATE_PMU_CNT_COUNT, F_GATE_PMU_CTL_OVF, F_KYD_RTC_FRACTION, F_KYD_RTC_SECONDS,
      F_QMC_CHERR_CE_WINDOW, F_QMC_PMU_CNT_COUNT, F_QMC_PMU_CTL_OVF, F_RBT_PMU_CNT_COUNT, F_RBT_PMU_CTL_OVF] ∧
    sameMemory s t) ∧
  (∀ (who : Requester) (q : Fin 24) (s : State), yields (.resilver who q) s fun t =>
    { t.hw with regs := s.hw.regs, qu := s.hw.qu, kyd := s.hw.kyd, busErr := s.hw.busErr } = s.hw ∧
    onlyFields s.hw t.hw [F_KYD_ELOG_SEQ_NEXT, F_QMC_CTRL_RESULT, F_QMC_CTRL_SEQ, F_QMC_RESILVER_CHECKPOINT, F_QMC_RESILVER_PROGRESS,
      F_QMC_STATUS_RS_PAUSED, F_QMC_STATUS_STATE] ∧
    sameMemory s t) ∧
  (∀ (who : Requester) (q : Fin 24) (ch : BitVec 4) (s : State), yields (.channelRetrain who q ch) s fun t =>
    { t.hw with regs := s.hw.regs, qu := s.hw.qu, kyd := s.hw.kyd, busErr := s.hw.busErr } = s.hw ∧
    onlyFields s.hw t.hw [F_KYD_ELOG_SEQ_NEXT, F_QMC_CTRL_RESULT, F_QMC_CTRL_SEQ, F_QMC_STATUS_RETRAINING, F_QMC_STATUS_RETRAIN_CH] ∧
    sameMemory s t) ∧
  (∀ (who : Requester) (q : Fin 24) (s : State), yields (.scrubPass who q) s fun t =>
    { t.hw with regs := s.hw.regs, qu := s.hw.qu, kyd := s.hw.kyd, busErr := s.hw.busErr } = s.hw ∧
    onlyFields s.hw t.hw [F_KYD_ELOG_SEQ_NEXT, F_QMC_CTRL_RESULT, F_QMC_CTRL_SEQ] ∧
    sameMemory s t) ∧
  (∀ (who : Requester) (q : Fin 24) (s : State), yields (.pauseRs who q) s fun t =>
    { t.hw with regs := s.hw.regs, kyd := s.hw.kyd, busErr := s.hw.busErr } = s.hw ∧
    onlyFields s.hw t.hw [F_KYD_ELOG_SEQ_NEXT, F_QMC_CTRL_RESULT, F_QMC_CTRL_SEQ, F_QMC_STATUS_RS_PAUSED] ∧
    sameMemory s t) ∧
  (∀ (who : Requester) (q : Fin 24) (s : State), yields (.resumeRs who q) s fun t =>
    { t.hw with regs := s.hw.regs, kyd := s.hw.kyd, busErr := s.hw.busErr } = s.hw ∧
    onlyFields s.hw t.hw [F_KYD_ELOG_SEQ_NEXT, F_QMC_CTRL_RESULT, F_QMC_CTRL_SEQ, F_QMC_STATUS_RS_PAUSED] ∧
    sameMemory s t) ∧
  (∀ (q : Fin 24) (s : State), yields (.resilverStep q) s fun t =>
    { t.hw with regs := s.hw.regs, qu := s.hw.qu, ints := s.hw.ints, kyd := s.hw.kyd, freeCtr := s.hw.freeCtr } = s.hw ∧
    onlyFields s.hw t.hw [F_INT_SRC_STATE_EVENTS, F_INT_SRC_STATE_PENDING, F_QMC_PMU_CNT_COUNT, F_QMC_PMU_CTL_OVF, F_QMC_RESILVER_CHECKPOINT,
      F_QMC_RESILVER_PROGRESS, F_QMC_STATUS_STATE] ∧
    sameMemory s t) ∧
  (∀ (q : Fin 24) (ch : BitVec 4) (s : State), yields (.driftRetrain q ch) s fun t =>
    { t.hw with regs := s.hw.regs, qu := s.hw.qu } = s.hw ∧
    onlyFields s.hw t.hw [F_QMC_STATUS_RETRAINING, F_QMC_STATUS_RETRAIN_CH] ∧
    sameMemory s t) ∧
  (∀ (q : Fin 24) (errs : List SymErr) (s : State), yields (.scrubStep q errs) s fun t =>
    { t.hw with regs := s.hw.regs, sup := s.hw.sup, ave := s.hw.ave, qu := s.hw.qu, hom := s.hw.hom, ints := s.hw.ints, kyd := s.hw.kyd, freeCtr := s.hw.freeCtr } = s.hw ∧
    t.pending = s.pending) ∧
  (∀ (who : Requester) (q : Fin 24) (ch : BitVec 4) (s : State), yields (.markChannel who q ch) s fun t =>
    { t.hw with regs := s.hw.regs, sup := s.hw.sup, ave := s.hw.ave, qu := s.hw.qu, hom := s.hw.hom, ints := s.hw.ints, kyd := s.hw.kyd, busErr := s.hw.busErr } = s.hw ∧
    t.pending = s.pending) ∧
  (∀ (q : Fin 24) (ok : Bool) (s : State), yields (.retrainDone q ok) s fun t =>
    { t.hw with regs := s.hw.regs, sup := s.hw.sup, ave := s.hw.ave, qu := s.hw.qu, hom := s.hw.hom, ints := s.hw.ints, kyd := s.hw.kyd } = s.hw ∧
    t.pending = s.pending) ∧
  (∀ (q : Fin 24) (s : State), yields (.catchupStep q) s fun t =>
    { t.hw with regs := s.hw.regs, sup := s.hw.sup, ave := s.hw.ave, qu := s.hw.qu, hom := s.hw.hom, ints := s.hw.ints, kyd := s.hw.kyd } = s.hw ∧
    t.pending = s.pending)

/-- A submission gets the next handle or the first reason against it, and an abort is BAD_HANDLE, TOO_LATE or ACCEPTED. For every
accepted submission: RESETTING while the engine resets, else DISABLED where the queue pair is off or unowned (log 66), else FULL
with 32 jobs outstanding; otherwise the job is appended to the outstanding jobs with the handle of engine, queue pair and NEXT_SEQ,
the ticket reads OK and that handle, and NEXT_SEQ advances by one modulo 2^21. A refusal takes no SEQ. A write by the wrong world
ends FOREIGN. An abort whose handle names another engine or queue pair or a SEQ not yet issued is BAD_HANDLE, one of a job no longer
outstanding or during a reset TOO_LATE, and of an outstanding one ACCEPTED: it takes effect, and a further one changes nothing. A
running job's TIMEOUT ends it in the same way. (R303, R304, R305, R314, R315, R317, R318) -/
def Obligations.SubmissionsAndAbortsAnswer : Prop :=
  (∀ (who : Requester) (q : Fin 24) (n : Fin 64) (a : BitVec 52) (s : State), accepts s who R_ENG_QP_SUBMIT q.val n.val →
    let ticket := fun (code : Nat) (h : Hw) => fset (setBusErr h false) F_ENG_QP_TICKET_RESULT code q.val n.val
    let resets := fon s.hw F_ENG_STATUS_RESETTING q.val = true
    let off := fget s.hw F_ENG_QP_CFG_EN q.val n.val = 0 ∨ ownerQp s.hw q.val n.val = none
    let mine := (engineOf s.hw q.val).jobs.filter (·.qp == n.val)
    let seq := fget s.hw F_ENG_QP_CFG_NEXT_SEQ q.val n.val
    (resets → changes (.engQpSubmit who q n a) s (ticket 5)) ∧
    (¬ resets → off → changes (.engQpSubmit who q n a) s (ticket 3)) ∧
    (¬ resets → ¬ off → 32 ≤ mine.length → changes (.engQpSubmit who q n a) s (ticket 2)) ∧
    (¬ resets → ¬ off → mine.length < 32 → yields (.engQpSubmit who q n a) s fun t =>
      fget t.hw F_ENG_QP_TICKET_RESULT q.val n.val = 1 ∧ fget t.hw F_ENG_QP_TICKET_HANDLE q.val n.val = q.val * 2 ^ 27 + n.val * 2 ^ 21 + seq % 2 ^ 21 ∧
      fget t.hw F_ENG_QP_CFG_NEXT_SEQ q.val n.val = (seq + 1) % 2 ^ 21 ∧
      fget t.hw F_ENG_QP_STATUS_OUTSTANDING q.val n.val = (mine.length + 1) % 2 ^ F_ENG_QP_STATUS_OUTSTANDING.width ∧ sameMemory s t ∧
      (∀ k, k ≠ q.val → engineOf t.hw k = engineOf s.hw k) ∧
      ∃ j : Job, (engineOf t.hw q.val).jobs = (engineOf s.hw q.val).jobs ++ [j] ∧ j.handle = q.val * 2 ^ 27 + n.val * 2 ^ 21 + seq % 2 ^ 21 ∧
        j.qp = n.val ∧ j.seq = seq ∧ j.st = .queued ∧ j.ending = none ∧ j.origin = none)) ∧
  (∀ (who : Requester) (q : Fin 24) (n : Fin 64) (a : BitVec 52) (s : State), served s.hw who R_ENG_QP_SUBMIT = true →
    mayWrite s.hw who R_ENG_QP_SUBMIT q.val n.val = false → wrongWorld s.hw who q.val n.val = true → yields (.engQpSubmit who q n a) s fun t =>
      fget t.hw F_ENG_QP_TICKET_RESULT q.val n.val = 4 ∧ t.hw.eng = s.hw.eng ∧ sameMemory s t) ∧
  (∀ (who : Requester) (q : Fin 24) (n : Fin 64) (handle : BitVec 32) (s : State), accepts s who R_ENG_QP_ABORT q.val n.val →
    let done := fun (code : Nat) (h : Hw) => answer (setBusErr h false) F_ENG_QP_ABORT_RESULT F_ENG_QP_ABORT_SEQ code q.val n.val
    let x := handle.toNat
    let bad := x / 2 ^ 27 ≠ q.val ∨ x / 2 ^ 21 % 2 ^ 6 ≠ n.val ∨
      (x % 2 ^ 21 + 2 ^ 21 - fget s.hw F_ENG_QP_CFG_NEXT_SEQ q.val n.val) % 2 ^ 21 < 2 ^ 20
    let resets := fon s.hw F_ENG_STATUS_RESETTING q.val = true
    (bad → changes (.abort who q n handle) s (done 3)) ∧
    (¬ bad → resets → changes (.abort who q n handle) s (done 2)) ∧
    (¬ bad → (∀ j ∈ (engineOf s.hw q.val).jobs, j.handle ≠ x) → changes (.abort who q n handle) s (done 2)) ∧
    (∀ j, ¬ bad → ¬ resets → jobAt s.hw q.val x = some j → j.ending = none → yields (.abort who q n handle) s fun t =>
      fget t.hw F_ENG_QP_ABORT_RESULT q.val n.val = 1 ∧ jobAt t.hw q.val x = some { j with ending := some (2, 0) } ∧
      (∀ y, y ≠ x → jobAt t.hw q.val y = jobAt s.hw q.val y) ∧ sameMemory s t) ∧
    (∀ j, ¬ bad → ¬ resets → jobAt s.hw q.val x = some j → j.ending.isSome = true → changes (.abort who q n handle) s (done 1))) ∧
  (∀ (q : Fin 24) (handle : BitVec 32) (j : Job) (s : State), jobAt s.hw q.val handle.toNat = some j → j.st = .running → j.ending = none →
    engineRuns s.hw q.val = true → num j.desc 4 4 ≠ 0 → yields (.jobTimeout q handle) s fun t =>
      jobAt t.hw q.val handle.toNat = some { j with ending := some (3, 0) } ∧ t.hw.regs = s.hw.regs ∧ sameMemory s t) ∧
  (∀ (q : Fin 24) (handle : BitVec 32) (s : State), engineRuns s.hw q.val = false → exec (.jobTimeout q handle) s = .next s) ∧
  (∀ (who : Requester) (q : Fin 24) (qp : Fin 64) (addr : BitVec 52) (s : State), yields (.engQpSubmit who q qp addr) s fun t =>
    { t.hw with regs := s.hw.regs, eng := s.hw.eng, hom := s.hw.hom, par := s.hw.par, ints := s.hw.ints, kyd := s.hw.kyd, freeCtr := s.hw.freeCtr, busErr := s.hw.busErr } = s.hw ∧
    onlyFields s.hw t.hw [F_ENG_QP_CFG_NEXT_SEQ, F_ENG_QP_STATUS_OLDEST_SEQ, F_ENG_QP_STATUS_OUTSTANDING, F_ENG_QP_STATUS_RUNNING,
      F_ENG_QP_TICKET_HANDLE, F_ENG_QP_TICKET_RESULT, F_ENG_STATUS_DEFLATE_BUSY, F_ENG_STATUS_JOBS, F_ENG_STATUS_SRAM_FREE, F_ENG_STATUS_STAGES,
      F_INT_SRC_STATE_EVENTS, F_INT_SRC_STATE_PENDING, F_KYD_ELOG_SEQ_NEXT, F_QMC_PMU_CNT_COUNT, F_QMC_PMU_CTL_OVF, F_QMC_UE_LINE,
      F_QMC_UE_POISON_READS, F_QMC_UE_UE_COUNT, F_QMC_VIOL_COUNT, F_QMC_VIOL_PART, F_QMC_VIOL_QADDR, F_QMC_VIOL_SECURE, F_QMC_VIOL_WRITE] ∧
    sameMemory s t) ∧
  (∀ (who : Requester) (q : Fin 24) (qp : Fin 64) (handle : BitVec 32) (s : State), yields (.abort who q qp handle) s fun t =>
    { t.hw with regs := s.hw.regs, eng := s.hw.eng, kyd := s.hw.kyd, busErr := s.hw.busErr } = s.hw ∧
    onlyFields s.hw t.hw [F_ENG_QP_ABORT_RESULT, F_ENG_QP_ABORT_SEQ, F_KYD_ELOG_SEQ_NEXT] ∧
    sameMemory s t) ∧
  (∀ (q : Fin 24) (handle : BitVec 32) (s : State), yields (.jobTimeout q handle) s fun t =>
    { t.hw with eng := s.hw.eng } = s.hw ∧
    sameMemory s t)

/-- The queue pair of highest priority starts its oldest job, a job that ends leaves with its record, and no job starts or ends
while held. While an engine is held, resets or sleeps, JOB_START, JOB_COMMIT and JOB_ABORT_COMPLETE change nothing. Otherwise
JOB_START takes the queue pair that can start with the highest PRIORITY: a job that fails its checks leaves its queue pair, and one
without exchange endpoints that builds no table outside its engine runs from now. JOB_ABORT_COMPLETE of a job with an accepted abort
or expiry takes it out; for a job that never ran whose record lies in memory it may write, outside a power-fail sequence, the 32
bytes at the record's address are the record of its handle, STATUS and CAUSE, with LANES_IN, LANES_OUT and CYCLES 0 and OP 0xFF, and
no other byte of memory changes. JOB_COMMIT of a job whose operators have all run and sent takes it out, one whose SEND operators
have flits left changes nothing, and a fault of an operator, whether its flits are sent or not, ends the job and is recorded in
ENG_FAULT. (R309, R310, R311, R312, R313, R316, R320) -/
def Obligations.JobsStartInOrderAndEndWithARecord : Prop :=
  (∀ (q : Fin 24) (handle : BitVec 32) (s : State), engineRuns s.hw q.val = false →
    exec (.jobStart q) s = .next s ∧ exec (.jobCommit q handle) s = .next s ∧ exec (.jobAbortComplete q handle) s = .next s) ∧
  (∀ (h : Hw) (m : Mem) (q n : Nat), pickQp h m q = some n → n < 64 ∧ (canStart h m q n).isSome = true ∧
    ∀ k, k < 64 → (canStart h m q k).isSome = true → fget h F_ENG_QP_CFG_PRIORITY q k ≤ fget h F_ENG_QP_CFG_PRIORITY q n) ∧
  (∀ (q : Fin 24) (n : Nat) (h' : Hw) (j : Job) (f : Option JFault) (s : State), engineRuns s.hw q.val = true → fon s.hw F_ENG_STATUS_LOADING q.val = false →
    (engineOf s.hw q.val).loadWait = none → pickQp s.hw s.mem q.val = some n → canStart s.hw s.mem q.val n = some (h', j, f) →
    (∀ e, f = some e → yields (.jobStart q) s fun t => jobAt t.hw q.val j.handle = none ∧ (engineOf t.hw q.val).lastQp = n) ∧
    (f = none → (parsePipe j.pipe (jobArgs j.desc)).exch = [] →
      ((parsePipe j.pipe (jobArgs j.desc)).ops.any fun o => buildsOutside (parsePipe j.pipe (jobArgs j.desc)) o) = false → yields (.jobStart q) s fun t =>
      ∃ j', jobAt t.hw q.val j.handle = some j' ∧ j'.st = .running ∧ j'.startTime = s.hw.now ∧ j'.pipe = j.pipe ∧ j'.desc = j.desc)) ∧
  (∀ (q : Fin 24) (handle : BitVec 32) (j : Job) (st cause : Nat) (s : State), jobAt s.hw q.val handle.toNat = some j → j.ending = some (st, cause) →
    engineRuns s.hw q.val = true →
    (yields (.jobAbortComplete q handle) s fun t => jobAt t.hw q.val handle.toNat = none) ∧
    (∀ p k a, j.st = .queued → placeOf s.hw (recordAddr s.hw q.val j) = .dram p k a → regionAllows s.hw (qpAsker s.hw q.val j.qp) k a = true →
      partDown s.hw p = false → supplier s.hw (recordAddr s.hw q.val j / 64) = none → transOf s.hw (recordAddr s.hw q.val j / 64) = none →
      s.hw.sup.powerFail = false → st < 256 → cause < 256 → st ≠ stCompleted →
      yields (.jobAbortComplete q handle) s fun t => t.mem.bytes (dkey k a) 32 =
          leBytes 4 j.handle ++ leBytes 1 st ++ leBytes 1 cause ++ leBytes 1 0xFF ++ leBytes 1 0 ++ leBytes 8 0 ++ leBytes 8 0 ++ leBytes 4 0 ++ leBytes 4 0 ∧
        dramOutside s t (dkey k a) 32 ∧ jobAt t.hw q.val handle.toNat = none)) ∧
  (∀ (q : Fin 24) (handle : BitVec 32) (j : Job) (s : State), jobAt s.hw q.val handle.toNat = some j → j.st = .running → j.ending = none →
    engineRuns s.hw q.val = true →
    let r := startRun s.hw s.mem q.val j
    (r.fault = none → sendsDone s.hw q.val j = false → exec (.jobCommit q handle) s = .next s) ∧
    (r.fault = none → sendsDone s.hw q.val j = true → r.pipe.ops.length ≤ r.ran.length → yields (.jobCommit q handle) s fun t => jobAt t.hw q.val handle.toNat = none) ∧
    (∀ f, r.fault = some f → yields (.jobCommit q handle) s fun t => jobAt t.hw q.val handle.toNat = none ∧
      fget t.hw F_ENG_FAULT_HANDLE q.val = j.handle % 2 ^ 32 ∧ fget t.hw F_ENG_FAULT_CAUSE q.val = f.cause % 256 ∧
      fget t.hw F_ENG_FAULT_OP q.val = f.op % 256)) ∧
  (∀ (q : Fin 24) (s : State), yields (.jobStart q) s fun t =>
    { t.hw with regs := s.hw.regs, rbt := s.hw.rbt, qu := s.hw.qu, eng := s.hw.eng, hom := s.hw.hom, par := s.hw.par, ints := s.hw.ints, kyd := s.hw.kyd, freeCtr := s.hw.freeCtr, lastResult := s.hw.lastResult } = s.hw ∧
    t.pending = s.pending) ∧
  (∀ (q : Fin 24) (handle : BitVec 32) (s : State), yields (.jobCommit q handle) s fun t =>
    { t.hw with regs := s.hw.regs, rbt := s.hw.rbt, qu := s.hw.qu, eng := s.hw.eng, hom := s.hw.hom, par := s.hw.par, ints := s.hw.ints, kyd := s.hw.kyd, freeCtr := s.hw.freeCtr, lastResult := s.hw.lastResult } = s.hw ∧
    t.pending = s.pending) ∧
  (∀ (q : Fin 24) (handle : BitVec 32) (s : State), yields (.jobAbortComplete q handle) s fun t =>
    { t.hw with regs := s.hw.regs, rbt := s.hw.rbt, qu := s.hw.qu, eng := s.hw.eng, hom := s.hw.hom, par := s.hw.par, ints := s.hw.ints, kyd := s.hw.kyd, freeCtr := s.hw.freeCtr, lastResult := s.hw.lastResult } = s.hw ∧
    t.pending = s.pending)

/-- A flit reaches its channel, BROKEN and a missed binding end a job, credit returns, and an engine reset ends every job of the
engine. EXCH_FLIT without such a flit waiting, or without credit for it, changes nothing; a flit of whole rows for a running
receiver appends its lanes to the channel and notes END and the credit it took; BROKEN from a sender that has not ended ends the
receiver's job; a receiver whose abort or expiry has been accepted takes neither. EXCH_CREDIT returns credit up to the sender's
share. EXCH_BIND_TIMEOUT ends a running job that has an unbound endpoint, recorded as EXCH_BIND, and changes nothing where every
endpoint is bound. An accepted ENGINE_RESET is BUSY during one, waits for a load, and else leaves the engine without jobs,
RESETTING, with every NEXT_SEQ kept; its end answers DONE. (R299, R300, R301, R302, R318, R135) -/
def Obligations.ExchangesBindDeliverAndBreak : Prop :=
  (∀ (q sender : Fin 24) (ch : Fin 8) (flit : BitVec 512) (s : State), (∀ f ∈ (engineOf s.hw sender.val).out, ¬ (f.dst = q.val ∧ f.ch = ch.val)) →
    exec (.exchFlit q sender ch flit) s = .next s) ∧
  (∀ (q sender : Fin 24) (ch : Fin 8) (f : ExFlit) (j : Job) (c : RecvCh) (x : ExSender) (s : State), sender ≠ q →
    (engineOf s.hw sender.val).out = [f] → f.dst = q.val → f.ch = ch.val → f.back = false → engineRuns s.hw q.val = true →
    jobAt s.hw q.val f.target = some j → j.st = .running → j.handle = f.target → j.recv = [c] → c.ch = ch.val → c.senders = [x] →
    x.engine = f.src → x.handle = f.source → x.ch = f.srcCh →
    (f.broken = false → x.credit = 0 → exec (.exchFlit q sender ch (flitBits f)) s = .next s) ∧
    (f.broken = true → j.ending.isSome = true → yields (.exchFlit q sender ch (flitBits f)) s fun t =>
      jobAt t.hw q.val f.target = some j ∧ (engineOf t.hw sender.val).out = [] ∧ sameMemory s t) ∧
    (j.ending = none → f.broken = true → x.ended = false → yields (.exchFlit q sender ch (flitBits f)) s fun t => jobAt t.hw q.val f.target = none ∧
      fget t.hw F_ENG_FAULT_CAUSE q.val = 0x18) ∧
    (j.ending = none → f.broken = false → 1 ≤ x.credit → 0 < c.width → f.lanes.length % c.width = 0 → yields (.exchFlit q sender ch (flitBits f)) s fun t =>
      ∃ j', jobAt t.hw q.val f.target = some j' ∧
        j'.recv = [{ c with lanes := c.lanes ++ f.lanes, senders := [{ x with ended := f.fin, credit := x.credit - 1 }] }])) ∧
  (∀ (q : Fin 24) (ch : Fin 8) (n : Nat) (j t : Job) (c : SendCh) (r : RecvCh) (x : ExSender) (s : State), runningJobs (engineOf s.hw q.val) = [j] →
    j.send = [c] → c.ch = ch.val → c.bound = some t.handle → jobAt s.hw c.peer t.handle = some t → t.recv = [r] → r.ch = c.peerCh → r.senders = [x] →
    x.engine = q.val → x.handle = j.handle → x.ch = ch.val → x.credit < r.share → yields (.exchCredit q ch n) s fun u => sameMemory s u ∧
      jobAt u.hw c.peer t.handle = some { t with recv := [{ r with senders := [{ x with credit := min r.share (x.credit + n) }] }] }) ∧
  (∀ (q : Fin 24) (handle : BitVec 32) (j : Job) (s : State), jobAt s.hw q.val handle.toNat = some j →
    ((∀ c ∈ j.send, c.bound.isSome = true) → (∀ c ∈ j.recv, c.peers ≤ c.senders.length) → exec (.exchBindTimeout q handle) s = .next s) ∧
    ((∃ c ∈ j.send, c.bound = none) ∨ (∃ c ∈ j.recv, c.senders.length < c.peers) → j.st = .running → j.ending = none → engineRuns s.hw q.val = true →
      yields (.exchBindTimeout q handle) s fun t => jobAt t.hw q.val handle.toNat = none ∧ fget t.hw F_ENG_FAULT_CAUSE q.val = 0x16)) ∧
  (∀ (who : Requester) (q : Fin 24) (s : State), accepts s who R_ENG_RESET q.val 0 →
    let done := fun (code : Nat) (h : Hw) => answer (setBusErr h false) F_ENG_RESET_RESULT F_ENG_RESET_SEQ code q.val
    let busy := fget s.hw F_ENG_STATUS_RESETTING q.val = 1 ∨ (engineOf s.hw q.val).resetWait = true
    let loads := fget s.hw F_ENG_STATUS_LOADING q.val = 1
    (busy → changes (.engineReset who q) s (done 5)) ∧
    (¬ busy → loads → changes (.engineReset who q) s fun h => done 1 (setEngine h q.val { engineOf h q.val with resetWait := true })) ∧
    (¬ busy → ¬ loads → yields (.engineReset who q) s fun t => (engineOf t.hw q.val).jobs = [] ∧ fget t.hw F_ENG_STATUS_RESETTING q.val = 1 ∧
      fget t.hw F_ENG_RESET_RESULT q.val = 1 ∧ ∀ n, n < 64 → fget t.hw F_ENG_QP_CFG_NEXT_SEQ q.val n = fget s.hw F_ENG_QP_CFG_NEXT_SEQ q.val n)) ∧
  (∀ (q : Fin 24) (s : State),
    (fget s.hw F_ENG_STATUS_RESETTING q.val = 1 → changes (.engineResetComplete q) s fun h =>
      fset (fset h F_ENG_STATUS_RESETTING 0 q.val) F_ENG_RESET_RESULT 2 q.val) ∧
    (fget s.hw F_ENG_STATUS_RESETTING q.val ≠ 1 → exec (.engineResetComplete q) s = .next s)) ∧
  (∀ (q : Fin 24) (ch : Fin 8) (flits : Nat) (s : State), yields (.exchCredit q ch flits) s fun t =>
    { t.hw with eng := s.hw.eng } = s.hw ∧
    sameMemory s t) ∧
  (∀ (q : Fin 24) (s : State), yields (.engineResetComplete q) s fun t =>
    { t.hw with regs := s.hw.regs } = s.hw ∧
    onlyFields s.hw t.hw [F_ENG_RESET_RESULT, F_ENG_STATUS_RESETTING] ∧
    sameMemory s t) ∧
  (∀ (q : Fin 24) (sender : Fin 24) (ch : Fin 8) (flit : BitVec 512) (s : State), yields (.exchFlit q sender ch flit) s fun t =>
    { t.hw with regs := s.hw.regs, rbt := s.hw.rbt, qu := s.hw.qu, eng := s.hw.eng, hom := s.hw.hom, par := s.hw.par, ints := s.hw.ints, kyd := s.hw.kyd, freeCtr := s.hw.freeCtr, lastResult := s.hw.lastResult } = s.hw ∧
    t.pending = s.pending) ∧
  (∀ (q : Fin 24) (handle : BitVec 32) (s : State), yields (.exchBindTimeout q handle) s fun t =>
    { t.hw with regs := s.hw.regs, rbt := s.hw.rbt, qu := s.hw.qu, eng := s.hw.eng, hom := s.hw.hom, par := s.hw.par, ints := s.hw.ints, kyd := s.hw.kyd, freeCtr := s.hw.freeCtr, lastResult := s.hw.lastResult } = s.hw ∧
    t.pending = s.pending) ∧
  (∀ (who : Requester) (q : Fin 24) (s : State), yields (.engineReset who q) s fun t =>
    { t.hw with regs := s.hw.regs, rbt := s.hw.rbt, qu := s.hw.qu, eng := s.hw.eng, hom := s.hw.hom, par := s.hw.par, ints := s.hw.ints, kyd := s.hw.kyd, freeCtr := s.hw.freeCtr, busErr := s.hw.busErr, lastResult := s.hw.lastResult } = s.hw ∧
    t.pending = s.pending)

/-- RV64 arithmetic, jumps, branches and loads of a big core write what the ISA says, and a poisoned load or an unknown word traps.
For every running core that can fetch the word: register and immediate arithmetic writes its result to rd, LUI and AUIPC their
constants, JAL the next pc; x0 discards. A branch goes to pc plus its offset exactly when its comparison holds. In M-mode an aligned
LD of normal memory that PMP and the regions allow writes the eight bytes of its line, and on a poisoned line raises exception 24 at
its address. Each of these leaves every other register, CSR and core as it was, the counters and predictors apart. ECALL traps with
the code of its mode, a word of the hinted branch forms is illegal, and MRET returns to mepc. What the published ISA fixes rests on
log entry 9. (R359, R360, R361, R368, R369, R379, R382, R388) -/
def Obligations.InstructionsOfABigCoreCompute : Prop :=
  (∀ (c : Fin 160) (rd rs1 rs2 : BitVec 5) (s : State) (r : CoreRun), let a := BitVec.ofNat 64 (xreg r.hw c.val rs1.toNat)
    let b := BitVec.ofNat 64 (xreg r.hw c.val rs2.toNat)
    ∀ e ∈ ([(0, 0x00, a + b), (0, 0x20, a - b), (1, 0x00, a <<< (b.toNat % 64)), (2, 0x00, if a.slt b then 1#64 else 0#64),
        (3, 0x00, if a.ult b then 1#64 else 0#64), (4, 0x00, a ^^^ b), (5, 0x00, a >>> (b.toNat % 64)), (5, 0x20, a.sshiftRight (b.toNat % 64)),
        (6, 0x00, a ||| b), (7, 0x00, a &&& b), (0, 0x01, a * b)] : List (Nat × Nat × BitVec 64)),
      let w := BitVec.ofNat 32 (encR 0x33 e.1 e.2.1 rd.toNat rs1.toNat rs2.toNat)
      executes s c w.toNat r → yields (.instruction c w) s fun t =>
        commits r (withX (coreOf r.hw c.val) rd.toNat e.2.2.toNat) r.next t ∧ (taggingOn r.hw c.val (worldOf s.hw c.val) = false → t.mem = s.land r.ops)) ∧
  (∀ (c : Fin 160) (rd rs1 : BitVec 5) (imm : BitVec 12) (s : State) (r : CoreRun), let a := BitVec.ofNat 64 (xreg r.hw c.val rs1.toNat)
    let v := imm.signExtend 64
    ∀ e ∈ ([(0, a + v), (2, if a.slt v then 1#64 else 0#64), (3, if a.ult v then 1#64 else 0#64), (4, a ^^^ v), (6, a ||| v), (7, a &&& v)] : List (Nat × BitVec 64)),
      let w := BitVec.ofNat 32 (encI 0x13 e.1 rd.toNat rs1.toNat imm.toNat)
      executes s c w.toNat r → yields (.instruction c w) s fun t => commits r (withX (coreOf r.hw c.val) rd.toNat e.2.toNat) r.next t) ∧
  (∀ (c : Fin 160) (rd : BitVec 5) (imm : BitVec 20) (s : State) (r : CoreRun), let v := (imm ++ 0#12).signExtend 64
    ∀ e ∈ ([(0x37, v), (0x17, BitVec.ofNat 64 r.pc + v)] : List (Nat × BitVec 64)),
      let w := BitVec.ofNat 32 (encU e.1 rd.toNat imm.toNat)
      executes s c w.toNat r → yields (.instruction c w) s fun t => commits r (withX (coreOf r.hw c.val) rd.toNat e.2.toNat) r.next t) ∧
  (∀ (c : Fin 160) (rd : BitVec 5) (off : BitVec 20) (s : State) (r : CoreRun), let w := BitVec.ofNat 32 (encJ rd.toNat (2 * off.toNat))
    executes s c w.toNat r → yields (.instruction c w) s fun t =>
      commits r { withX (coreOf r.hw c.val) rd.toNat r.next with pred := (coreOf t.hw c.val).pred } (BitVec.ofNat 64 r.pc + (off ++ 0#1).signExtend 64).toNat t) ∧
  (∀ (c : Fin 160) (rs1 rs2 : BitVec 5) (off : BitVec 12) (s : State) (r : CoreRun), let a := BitVec.ofNat 64 (xreg r.hw c.val rs1.toNat)
    let b := BitVec.ofNat 64 (xreg r.hw c.val rs2.toNat)
    ∀ e ∈ ([(0, a == b), (1, a != b), (4, a.slt b), (5, !a.slt b), (6, a.ult b), (7, !a.ult b)] : List (Nat × Bool)),
      let w := BitVec.ofNat 32 (encB e.1 rs1.toNat rs2.toNat (2 * off.toNat))
      executes s c w.toNat r → yields (.instruction c w) s fun t => commits r { coreOf r.hw c.val with pred := (coreOf t.hw c.val).pred }
        (if e.2 = true then (BitVec.ofNat 64 r.pc + (off ++ 0#1).signExtend 64).toNat else r.next) t) ∧
  (∀ (c : Fin 160) (rd rs1 : BitVec 5) (imm : BitVec 12) (s : State) (r : CoreRun), let w := BitVec.ofNat 32 (encI 0x03 3 rd.toNat rs1.toNat imm.toNat)
    let a := (BitVec.ofNat 64 (xreg r.hw c.val rs1.toNat) + imm.signExtend 64).toNat
    let reach := mayReach r.hw (askerOf r.hw (.core c)) a false
    let line := coreReadLine reach.2 r.mem c.val a
    executes s c w.toNat r → privOf r.hw c.val = 3 → bit (mstatus r.hw c.val) 17 = false → a % 8 = 0 → pmpAllows r.hw c.val 3 .load a 8 = true →
    isNormal r.hw a = true → reach.1 = true →
    (line.2.2 = false → yields (.instruction c w) s fun t => commits r (withX (coreOf r.hw c.val) rd.toNat (num line.2.1 (a % 64) 8)) r.next t ∧
      (taggingOn r.hw c.val (worldOf s.hw c.val) = false → t.mem = s.land (r.ops ++ line.1.ops))) ∧
    (line.2.2 = true → privOf line.1.hw c.val = 3 → yields (.instruction c w) s fun t => trapsToM { r with hw := line.1.hw } 24 a t)) ∧
  (∀ (c : Fin 160) (s : State) (r : CoreRun), executes s c 0x73 r →
    ∀ e ∈ ([(3, false, 11), (1, false, 9), (1, true, 10), (0, false, 8), (0, true, 8)] : List (Nat × Bool × Nat)), privOf r.hw c.val = e.1 → virtOf r.hw c.val = e.2.1 →
      entersM r e.2.2 → yields (.instruction c 0x73) s fun t => trapsToM r e.2.2 0 t) ∧
  (∀ (c : Fin 160) (w : BitVec 32) (s : State) (r : CoreRun), executes s c w.toNat r → w.toNat % 128 = 0x7B → entersM r 2 →
    yields (.instruction c w) s fun t => trapsToM r 2 w.toNat t) ∧
  (∀ (c : Fin 160) (s : State) (r : CoreRun), executes s c 0x30200073 r → privOf r.hw c.val = 3 → yields (.instruction c 0x30200073) s fun t =>
    coreOf t.hw c.val = { coreOf r.hw c.val with pc := BitVec.ofNat 64 (csrGet r.hw c.val 0x341), pred := {}, resv := (coreOf t.hw c.val).resv, csr := (coreOf t.hw c.val).csr } ∧
    privOf t.hw c.val = bits (mstatus r.hw c.val) 12 11 ∧ bit (mstatus t.hw c.val) 3 = bit (mstatus r.hw c.val) 7 ∧
    bit (mstatus t.hw c.val) 7 = true ∧ bits (mstatus t.hw c.val) 12 11 = 0 ∧ worldOf t.hw c.val = worldOf r.hw c.val) ∧
  (∀ (c : Fin 160) (word : BitVec 32) (s : State), coreRuns s.hw c.val = false → exec (.instruction c word) s = .next s)

/-- LANE.LD gathers payload and tags and turns poison into T1, LANE.ST stores both, LANE.MK and LANE.TAG build and read a lane. For
every running core that can fetch the word: LANE.MK writes the low 32 bits of rs1 under the low 4 bits of rs2, LANE.TAG writes bits
35:32 of its operand. LANE.LD reads the payload at LNPAY + 4i and, without NOTAGS, the nibble of i in the byte at LNTAG + i/2:
poison of either line sets T1, poison of the payload makes it 0, and nothing traps on it. LANE.ST stores the payload and replaces
that nibble alone; with NOTAGS a tag other than 0 is an illegal instruction. A payload address that is no multiple of 4 is
misaligned for both. (R365, R366, R367, R283, R369) -/
def Obligations.LanesMoveWithTheirTags : Prop :=
  (∀ (c : Fin 160) (rd rs1 rs2 : BitVec 5) (s : State) (r : CoreRun), executes s c (encR 0x0B 2 0 rd.toNat rs1.toNat rs2.toNat) r →
    yields (.laneMk c rd rs1 rs2) s fun t => commits r (withX (coreOf r.hw c.val) rd.toNat
      (xreg r.hw c.val rs2.toNat % 16 * 2 ^ 32 + xreg r.hw c.val rs1.toNat % 2 ^ 32)) r.next t) ∧
  (∀ (c : Fin 160) (rd rs1 : BitVec 5) (s : State) (r : CoreRun), executes s c (encR 0x0B 3 0 rd.toNat rs1.toNat 0) r →
    yields (.laneTag c rd rs1) s fun t => commits r (withX (coreOf r.hw c.val) rd.toNat (xreg r.hw c.val rs1.toNat / 2 ^ 32 % 16)) r.next t) ∧
  (∀ (c : Fin 160) (rd rs1 : BitVec 5) (s : State) (r r1 r2 : CoreRun) (via : Via) (p g : List (Nat × List Byte × Bool)),
    let i := xreg r.hw c.val rs1.toNat
    let pay := (csrGet r.hw c.val 0x800 + 4 * i) % 2 ^ 64
    let tags := (csrGet r1.hw c.val 0x801 + i / 2) % 2 ^ 64
    let noTags := csrGet r1.hw c.val 0x802 % 2 = 1
    executes s c (encR 0x0B 0 0 rd.toNat rs1.toNat 0) r → viaData.run r = .ok via r →
    (pay % 4 ≠ 0 → entersM r 4 → yields (.laneLd c rd rs1) s fun t => trapsToM r 4 pay t) ∧
    (pay % 4 = 0 → (loadMarked via pay 4).run { r with daddr := pay } = .ok p r1 → ((noTags ∧ g = [] ∧ r2 = r1) ∨ (¬ noTags ∧ (loadMarked via tags 1).run r1 = .ok g r2)) →
      let pz := p.any (·.2.2)
      let nib := leNat (g.flatMap (·.2.1)) / 16 ^ (i % 2) % 16
      let tag := if pz = true ∨ g.any (·.2.2) = true then nib.lor 2 else nib
      r2.devs = [] → yields (.laneLd c rd rs1) s fun t => commits r2 (withX (coreOf r2.hw c.val) rd.toNat
        (tag * 2 ^ 32 + if pz = true then 0 else leNat (p.flatMap (·.2.1)))) r2.next t)) ∧
  (∀ (c : Fin 160) (rs1 rs2 : BitVec 5) (s : State) (r r1 r2 r3 : CoreRun) (via : Via) (tpa : Nat),
    let i := xreg r.hw c.val rs1.toNat
    let v := xreg r.hw c.val rs2.toNat
    let tag := v / 2 ^ 32 % 16
    let pay := (csrGet r.hw c.val 0x800 + 4 * i) % 2 ^ 64
    let tags := (csrGet r1.hw c.val 0x801 + i / 2) % 2 ^ 64
    let noTags := csrGet r.hw c.val 0x802 % 2 = 1
    executes s c (encR 0x0B 1 0 0 rs1.toNat rs2.toNat) r → viaData.run r = .ok via r →
    (noTags → tag ≠ 0 → entersM r 2 → yields (.laneSt c rs1 rs2) s fun t => trapsToM r 2 r.word t) ∧
    (¬ (noTags ∧ tag ≠ 0) → pay % 4 ≠ 0 → entersM r 6 → yields (.laneSt c rs1 rs2) s fun t => trapsToM r 6 pay t) ∧
    (¬ (noTags ∧ tag ≠ 0) → pay % 4 = 0 → (checkStore via pay 4).run r = .ok () r1 →
      (noTags → (storeBytes via pay (leBytes 4 v)).run r1 = .ok () r2 → r2.devs = [] → yields (.laneSt c rs1 rs2) s fun t =>
        commits r2 (coreOf r2.hw c.val) r2.next t ∧ (taggingOn r2.hw c.val (worldOf s.hw c.val) = false → t.hw.hom = r2.hw.hom ∧ t.mem = s.land r2.ops)) ∧
      (¬ noTags → (mapAtomic via .store tags 1).run r1 = .ok tpa r2 → (storeBytes via pay (leBytes 4 v)).run r2 = .ok () r3 → r3.devs = [] →
        let old := coreReadLine r3.hw r3.mem c.val tpa
        let byte := num old.2.1 (tpa % 64) 1
        let new := if i % 2 = 0 then byte / 16 * 16 + tag else tag * 16 + byte % 16
        let e := coreWriteLine old.1.hw (r3.mem.applyAll old.1.ops) c.val tpa (leBytes 1 new)
        taggingOn e.hw c.val (worldOf s.hw c.val) = false → yields (.laneSt c rs1 rs2) s fun t =>
          commits { r3 with hw := e.hw } (coreOf e.hw c.val) r3.next t ∧ t.hw.hom = e.hw.hom ∧ t.mem = s.land (r3.ops ++ old.1.ops ++ e.ops)))) ∧
  (∀ (c : Fin 160) (rd rs1 rs2 : BitVec 5) (s : State), coreRuns s.hw c.val = false → ∀ i ∈ [Instr.laneLd c rd rs1, .laneSt c rs1 rs2,
    .laneMk c rd rs1 rs2, .laneTag c rd rs1, .xrGet c rd ⟨rs1, false⟩, .xrGet c rd ⟨rs1, true⟩, .xrAdd c rd rs1 rs2, .xrDone c rd rs1 rs2, .wcall c, .wret c, .wgate c rs1, .wmark c],
      exec i s = .next s)

/-- XR.GET, XR.ADD and XR.DONE perform the operation of Roundabout and return its result word, and are refused where XRCTL says. For
every running core that can fetch the word and may execute Xround: XR.GET with a destination that is checked answers the code of the
get, and where an item came stores its 32 bytes, with POISON where its entry has an uncorrectable error, and returns its handle
above the code; one whose store would be refused is an access fault that takes no item. XR.ADD answers the code and the identifier
of the add of its 32 loaded bytes, LIST and TICKS from rs2. XR.DONE answers the code of the done. An address that is no multiple of
32 is misaligned. In U mode without UEN each is an illegal instruction, in VS and VU mode without VEN a virtual instruction. (R238,
R370, R371, R372, R245) -/
def Obligations.RoundaboutAnswersACore : Prop :=
  (∀ (c : Fin 160) (rd rs1 : BitVec 5) (bad : Bool) (s : State) (r r1 : CoreRun) (via : Via) (ps : List (Nat × Nat × Nat)),
    let ctl := csrGet r.hw c.val 0x5C0
    let a := xreg r.hw c.val rs1.toNat
    let may := if virtOf r.hw c.val = true then bit ctl 1 = true else privOf r.hw c.val ≠ 0 ∨ bit ctl 0 = true
    let asks := { r with events := r.events ++ [0x11] }
    executes s c (encR 0x2B 0 0 rd.toNat rs1.toNat 0) r → viaData.run r = .ok via r →
    (may → a % 32 ≠ 0 → entersM r 6 → yields (.xrGet c rd ⟨rs1, bad⟩) s fun t => trapsToM r 6 a t) ∧
    (may → a % 32 = 0 → (mapRange via .store a 32).run asks = .ok ps r1 → ps.any (refusesStore r1) = true → r1.devs = [] → entersM r1 7 →
      yields (.xrGet c rd ⟨rs1, bad⟩) s fun t => trapsToM r1 7 a t ∧ t.hw.rbt = r1.hw.rbt) ∧
    (may → a % 32 = 0 → (mapRange via .store a 32).run asks = .ok ps r1 → ps.any (refusesStore r1) = false →
      let g := getItem r1.hw (roundWho r1).1 r1.core (fget r1.hw F_RBT_CORE_SUB_GROUPS 0 r1.core) (roundWho r1).2 bad
      (g.2.2 = none → r1.devs = [] → yields (.xrGet c rd ⟨rs1, bad⟩) s fun t =>
        commits { r1 with hw := g.1 } (withX (coreOf g.1 c.val) rd.toNat g.2.1) r1.next t) ∧
      (∀ f it r2, g.2.2 = some (f, it) → (storeBytes via a ((itemWords f it).flatMap (leBytes 8))).run { r1 with hw := g.1 } = .ok () r2 → r2.devs = [] →
        yields (.xrGet c rd ⟨rs1, bad⟩) s fun t =>
          commits r2 (withX (coreOf r2.hw c.val) rd.toNat ((f * 2 ^ 20 + it.seq % 2 ^ 20) * 2 ^ 32 + g.2.1)) r2.next t))) ∧
  (∀ (c : Fin 160) (rd rs1 rs2 : BitVec 5) (s : State) (r r1 : CoreRun) (via : Via) (d : List Byte),
    let ctl := csrGet r.hw c.val 0x5C0
    let a := xreg r.hw c.val rs1.toNat
    let v := xreg r.hw c.val rs2.toNat
    let may := if virtOf r.hw c.val = true then bit ctl 1 = true else privOf r.hw c.val ≠ 0 ∨ bit ctl 0 = true
    let asks := { r with events := r.events ++ [0x11] }
    executes s c (encR 0x2B 1 0 rd.toNat rs1.toNat rs2.toNat) r → viaData.run r = .ok via r →
    (may → a % 32 ≠ 0 → entersM r 4 → yields (.xrAdd c rd rs1 rs2) s fun t => trapsToM r 4 a t) ∧
    (may → a % 32 = 0 → (loadBytes via a 32).run asks = .ok d r1 → r1.devs = [] →
      let word := num d 24 8
      let g := addItem r1.hw (roundWho r1).1 (word / 2 ^ 52 % 2 ^ 12) (roundWho r1).2 ([num d 0 8, num d 8 8, num d 16 8].map (BitVec.ofNat 64))
        (word % 2 ^ 24) (v / 2 ^ 16 % 8) (v % 2 ^ 16)
      yields (.xrAdd c rd rs1 rs2) s fun t => commits { r1 with hw := g.1 } (withX (coreOf g.1 c.val) rd.toNat (g.2.2 % 2 ^ 32 * 2 ^ 32 + g.2.1)) r1.next t)) ∧
  (∀ (c : Fin 160) (rd rs1 rs2 : BitVec 5) (s : State) (r : CoreRun),
    let ctl := csrGet r.hw c.val 0x5C0
    let v := xreg r.hw c.val rs2.toNat
    let may := if virtOf r.hw c.val = true then bit ctl 1 = true else privOf r.hw c.val ≠ 0 ∨ bit ctl 0 = true
    let g := doneItem r.hw r.mem (roundWho r).1 r.core (roundWho r).2 (xreg r.hw c.val rs1.toNat % 2 ^ 32) (bit v 0) (bit v 1)
    executes s c (encR 0x2B 2 0 rd.toNat rs1.toNat rs2.toNat) r → may → r.devs = [] → yields (.xrDone c rd rs1 rs2) s fun t =>
      commits { r with hw := g.1.hw } (withX (coreOf g.1.hw c.val) rd.toNat g.2) r.next t) ∧
  (∀ (c : Fin 160) (rd rs1 rs2 : BitVec 5) (s : State) (r : CoreRun), let ctl := csrGet r.hw c.val 0x5C0
    ∀ e ∈ ([(Instr.xrGet c rd ⟨rs1, false⟩, encR 0x2B 0 0 rd.toNat rs1.toNat 0),
        (.xrGet c rd ⟨rs1, true⟩, encR 0x2B 0 0 rd.toNat rs1.toNat 0), (.xrAdd c rd rs1 rs2, encR 0x2B 1 0 rd.toNat rs1.toNat rs2.toNat),
        (.xrDone c rd rs1 rs2, encR 0x2B 2 0 rd.toNat rs1.toNat rs2.toNat)] : List (Instr × Nat)), executes s c e.2 r →
      (virtOf r.hw c.val = true → bit ctl 1 = false → entersM r 22 → yields e.1 s fun t => trapsToM r 22 r.word t) ∧
      (virtOf r.hw c.val = false → privOf r.hw c.val = 0 → bit ctl 0 = false → entersM r 2 → yields e.1 s fun t => trapsToM r 2 r.word t))

/-- WCALL, WRET, WGATE, WMARK and a secure-owned interrupt change the world and the registers as their pseudocode says. For every
running core that can fetch the word: an admitted WCALL enters the secure world at WENTRY with WEPC at the next pc, a0 to a7 kept,
every other x, f and v register, fcsr and vl 0, vtype ill-formed, and the caller's registers and mode in the shadow bank. WRET gives
them back, a0 and a1 kept and a2 to a7 0, or all after an interrupt's entry. An admitted WGATE whose entry is valid and secure sets
x1 and WORLD and goes to the entry; a gate beyond COUNT is an access fault. WMARK returns to x1, in the normal world it only goes
on. The wrong world, mode or a clear COMPAT5 is an illegal instruction, a guest a virtual one. A secure-owned interrupt banks all
registers, clears the x, f and v registers and leaves fcsr, vl and vtype, and hands a0 its source. (R373, R374, R375, R445, R446,
R364, R379) -/
def Obligations.WorldsAreEnteredAndLeft : Prop :=
  (∀ (c : Fin 160) (p : Nat) (s : State) (r : CoreRun), executes s c 0x5B r → r.devs = [] →
    let priv := privOf r.hw c.val
    let ctl := csrGet r.hw c.val 0x7C2
    let may := priv = 3 ∨ (priv = 1 ∧ bit ctl 1 = true) ∨ (priv = 0 ∧ bit ctl 0 = true)
    let k := coreOf r.hw c.val
    (worldOf r.hw c.val = true → entersM r 2 → yields (.wcall c) s fun t => trapsToM r 2 0x5B t) ∧
    (worldOf r.hw c.val = false → ownerCore r.hw c.val = some p → hasSecure r.hw p = true →
      (virtOf r.hw c.val = true → entersM r 22 → yields (.wcall c) s fun t => trapsToM r 22 0x5B t) ∧
      (virtOf r.hw c.val = false → ¬ may → entersM r 2 → yields (.wcall c) s fun t => trapsToM r 2 0x5B t) ∧
      (virtOf r.hw c.val = false → may → yields (.wcall c) s fun t => let u := coreOf t.hw c.val
        worldOf t.hw c.val = true ∧ privOf t.hw c.val = (if csrGet r.hw c.val 0x7C0 % 4 = 1 then 1 else 3) ∧ virtOf t.hw c.val = false ∧
        u.pc = BitVec.ofNat 64 (csrGet r.hw c.val 0x7C0 / 4 * 4) ∧ csrGet t.hw c.val 0x7C1 = (r.pc + 4) % 2 ^ 64 ∧ csrGet t.hw c.val 0xCC0 = 2 * priv % 2 ^ 64 ∧
        (∀ i, xreg t.hw c.val i = if 10 ≤ i ∧ i ≤ 17 then xreg r.hw c.val i else 0) ∧ u.f = List.replicate 32 0 ∧ u.v = List.replicate 32 0 ∧
        csrGet t.hw c.val 3 = 0 ∧ csrGet t.hw c.val 0xC20 = 0 ∧ csrGet t.hw c.val 0xC21 = 2 ^ 63 ∧ u.pred = {} ∧
        u.shadow.x = k.x ∧ u.shadow.f = k.f ∧ u.shadow.v = k.v ∧ u.shadow.fcsr.toNat = csrGet r.hw c.val 3 ∧ u.shadow.vl.toNat = csrGet r.hw c.val 0xC20 ∧
        u.shadow.vtype.toNat = csrGet r.hw c.val 0xC21 ∧ u.shadow.vstart.toNat = csrGet r.hw c.val 8 ∧ u.shadow.priv = priv ∧ u.shadow.virt = false ∧
        u.shadow.full = false ∧ u.resv = k.resv.map (fun (l, b, n) => (l, b, n + 1)) ∧ ∀ i, i ≠ c.val → coreOf t.hw i = coreOf r.hw i))) ∧
  (∀ (c : Fin 160) (s : State) (r : CoreRun), executes s c 0x0200005B r → r.devs = [] →
    let k := coreOf r.hw c.val
    let may := worldOf r.hw c.val = true ∧ virtOf r.hw c.val = false ∧ privOf r.hw c.val = if csrGet r.hw c.val 0x7C0 % 4 = 1 then 1 else 3
    (¬ may → entersM r 2 → yields (.wret c) s fun t => trapsToM r 2 0x0200005B t) ∧
    (may → yields (.wret c) s fun t => let u := coreOf t.hw c.val
      worldOf t.hw c.val = false ∧ privOf t.hw c.val = k.shadow.priv % 4 ∧ virtOf t.hw c.val = k.shadow.virt ∧
      u.pc = (if k.shadow.full = true then k.shadow.pc else BitVec.ofNat 64 (csrGet r.hw c.val 0x7C1)) ∧
      (∀ i, i < 32 → lget 0 u.x i = if k.shadow.full = false ∧ (i = 10 ∨ i = 11) then lget 0 k.x i
        else if k.shadow.full = false ∧ 12 ≤ i ∧ i ≤ 17 then 0 else lget 0 k.shadow.x i) ∧
      u.f = k.shadow.f ∧ u.v = k.shadow.v ∧ csrGet t.hw c.val 3 = k.shadow.fcsr.toNat ∧ csrGet t.hw c.val 0xC20 = k.shadow.vl.toNat ∧
      csrGet t.hw c.val 0xC21 = k.shadow.vtype.toNat ∧ csrGet t.hw c.val 8 = k.shadow.vstart.toNat ∧ u.pred = {} ∧
      ∀ i, i ≠ c.val → coreOf t.hw i = coreOf r.hw i)) ∧
  (∀ (c : Fin 160) (rs1 : BitVec 5) (s : State) (r : CoreRun), executes s c (encR 0x5B 1 0 0 rs1.toNat 0) r → r.devs = [] →
    let ctl := csrGet r.hw c.val 0x7C2
    let priv := privOf r.hw c.val
    let may := virtOf r.hw c.val = false ∧ (priv = 3 ∨ (priv = 1 ∧ bit ctl 1 = true) ∨ (priv = 0 ∧ bit ctl 0 = true))
    let tab := csrGet r.hw c.val 0x7C8
    let g := xreg r.hw c.val rs1.toNat
    let a := tab / 2 ^ 12 % 2 ^ 40 * 4096 + 8 * g
    let e := agentRead r.hw r.mem (askerIn r.hw (roundWho r).1 true) a 8
    (bit ctl 2 = false ∨ worldOf r.hw c.val = true → entersM r 2 → yields (.wgate c rs1) s fun t => trapsToM r 2 r.word t) ∧
    (bit ctl 2 = true → worldOf r.hw c.val = false → may → tab % 1024 ≤ g → entersM r 1 → yields (.wgate c rs1) s fun t => trapsToM r 1 g t) ∧
    (bit ctl 2 = true → worldOf r.hw c.val = false → may → g < tab % 1024 → e.2.1 = true → secureRegion e.1 a = true → (∀ x ∈ e.2.2.2, x = false) →
      bit (leNat e.2.2.1) 0 = true → yields (.wgate c rs1) s fun t =>
        worldOf t.hw c.val = true ∧ privOf t.hw c.val = privOf e.1 c.val ∧ virtOf t.hw c.val = virtOf e.1 c.val ∧
        commits r { withX (coreOf r.hw c.val) 1 ((r.pc + 4) % 2 ^ 64) with pred := {} } (leNat e.2.2.1 / 4 * 4) t)) ∧
  (∀ (c : Fin 160) (s : State) (r : CoreRun), executes s c 0x205B r → r.devs = [] →
    let ctl := csrGet r.hw c.val 0x7C2
    (bit ctl 2 = false → entersM r 2 → yields (.wmark c) s fun t => trapsToM r 2 0x205B t) ∧
    (bit ctl 2 = true → worldOf r.hw c.val = false → yields (.wmark c) s fun t => worldOf t.hw c.val = false ∧ commits r (coreOf r.hw c.val) r.next t) ∧
    (bit ctl 2 = true → worldOf r.hw c.val = true → yields (.wmark c) s fun t =>
      worldOf t.hw c.val = false ∧ privOf t.hw c.val = privOf r.hw c.val ∧
      commits r { coreOf r.hw c.val with pred := {} } (xreg r.hw c.val 1 / 2 * 2) t)) ∧
  (∀ (c : Fin 160) (src : Nat) (rest : List Nat) (s : State), let k := coreOf s.hw c.val
    corePowered s.hw c.val = true → fget s.hw F_CORE_STATUS_STATE c.val = 1 ∨ fget s.hw F_CORE_STATUS_STATE c.val = 2 →
    securePending s.hw c.val = true → tget [] s.hw.ints.queue (4 * c.val + 2) = src :: rest →
    yields (.secureInterruptEntry c) s fun t => let u := coreOf t.hw c.val
      worldOf t.hw c.val = true ∧ privOf t.hw c.val = (if csrGet s.hw c.val 0x7C0 % 4 = 1 then 1 else 3) ∧ virtOf t.hw c.val = false ∧
      fget t.hw F_CORE_STATUS_STATE c.val = 1 ∧ u.pc = BitVec.ofNat 64 (csrGet s.hw c.val 0x7C0 / 4 * 4) ∧ csrGet t.hw c.val 0x7C1 = k.pc.toNat ∧
      u.x = (k.x.zipIdx.map fun (v, i) => if i = 0 then v else 0).set 10 (BitVec.ofNat 64 (2 ^ 63 + src)) ∧
      u.f = List.replicate 32 0 ∧ u.v = List.replicate 32 0 ∧ csrGet t.hw c.val 3 = csrGet s.hw c.val 3 ∧
      csrGet t.hw c.val 0xC20 = csrGet s.hw c.val 0xC20 ∧ csrGet t.hw c.val 0xC21 = csrGet s.hw c.val 0xC21 ∧ u.shadow.x = k.x ∧ u.shadow.f = k.f ∧ u.shadow.v = k.v ∧ u.shadow.pc = k.pc ∧ u.shadow.priv = privOf s.hw c.val ∧
      u.shadow.virt = virtOf s.hw c.val ∧ u.shadow.full = true ∧ u.pred = {} ∧
      tget [] t.hw.ints.queue (4 * c.val + 2) = rest ∧ fget t.hw F_INT_SRC_STATE_IN_FLIGHT 0 src = 0 ∧ (∀ i, i ≠ c.val → coreOf t.hw i = coreOf s.hw i) ∧ sameMemory s t) ∧
  (∀ (c : Fin 160) (s : State), (corePowered s.hw c.val = false ∨ securePending s.hw c.val = false) → exec (.secureInterruptEntry c) s = .next s)

/-- START, the boot core, the reset of a square and the machine timer set the cores going, back to reset, or awake. For every
accepted START: a start in the secure world asked for by the normal world or of a partition without one is REFUSED; a running or
waiting core is BUSY; a retired core, one in reset and one that no partition owns (log 66) is REFUSED; a held core runs from
CORE_START_ADDR in M-mode in the world named. BOOT_CORE_START starts the lowest core of a partition that is not retired, at the
secure entry or else the normal one, once. SQUARE_RESET by Kydin or the owner's secure world returns both cores of the square to
reset and no other; anyone else changes no core. The machine timer sends a waiting core on once module time reaches its compare
value, and does nothing before. (R384, R442, R125, R84, R360, R435, R385) -/
def Obligations.CoresStartResetAndWake : Prop :=
  (∀ (who : Requester) (c : Fin 160) (secure : Bool) (s : State), accepts s who R_CORE_CMD c.val 0 →
    let done := fun (code : Nat) (h : Hw) => answer (setBusErr (wakeFor h R_CORE_CMD c.val) false) F_CORE_CMD_RESULT F_CORE_CMD_SEQ code c.val
    let st := fget s.hw F_CORE_STATUS_STATE c.val
    let no := secure = true ∧ ((∀ p, ownerCore s.hw c.val = some p → hasSecure s.hw p = false) ∨ (who ≠ .kydin ∧ (askerOf s.hw who).secure = false))
    (no → changes (.start who c secure) s (done 4)) ∧
    (¬ no → st = 1 ∨ st = 2 → changes (.start who c secure) s (done 5)) ∧
    (¬ no → st = 3 ∨ st = 4 → changes (.start who c secure) s (done 4)) ∧
    (¬ no → st = 0 → ownerCore s.hw c.val = none → changes (.start who c secure) s (done 4)) ∧
    (¬ no → st = 0 → (ownerCore s.hw c.val).isSome = true → yields (.start who c secure) s fun t => fget t.hw F_CORE_CMD_RESULT c.val = 2 ∧
      fget t.hw F_CORE_CMD_SEQ c.val = (fget s.hw F_CORE_CMD_SEQ c.val + 1) % 256 ∧ fget t.hw F_CORE_STATUS_STATE c.val = 1 ∧ privOf t.hw c.val = 3 ∧
      virtOf t.hw c.val = false ∧ worldOf t.hw c.val = secure ∧
      coreOf t.hw c.val = { coreOf s.hw c.val with pc := BitVec.ofNat 64 (4 * fget s.hw F_CORE_START_ADDR_ADDR c.val) } ∧
      ∀ i, i ≠ c.val → coreOf t.hw i = coreOf s.hw i)) ∧
  (∀ (p : Fin 8) (s : State),
    let ready := 4 ≤ modeNow s.hw ∧ modeNow s.hw ≤ 6 ∧ (partOf s.hw p.val).present = true ∧ (partOf s.hw p.val).started = false ∧ fget s.hw F_PART_STATUS_STATE 0 p.val = 1
    (¬ ready → exec (.bootCoreStart p) s = .next s) ∧
    (∀ k a sec, ready → (partOf s.hw p.val).entryS = some a ∧ sec = true ∨ (partOf s.hw p.val).entryS = none ∧ (partOf s.hw p.val).entryN = some a ∧ sec = false →
      k ∈ coresOf s.hw p.val → fget s.hw F_CORE_STATUS_STATE k = 0 → (∀ j ∈ coresOf s.hw p.val, j < k → fget s.hw F_CORE_STATUS_STATE j = 3) →
      yields (.bootCoreStart p) s fun t => fget t.hw F_CORE_STATUS_STATE k = 1 ∧ privOf t.hw k = 3 ∧ virtOf t.hw k = false ∧ worldOf t.hw k = sec ∧
        coreOf t.hw k = { coreOf s.hw k with pc := BitVec.ofNat 64 a } ∧ (partOf t.hw p.val).started = true ∧
        (∀ i, i ≠ k → coreOf t.hw i = coreOf s.hw i) ∧ sameMemory s t) ∧
    (ready → (∀ j ∈ coresOf s.hw p.val, fget s.hw F_CORE_STATUS_STATE j = 3) →
      ((partOf s.hw p.val).entryS.isSome = true ∨ (partOf s.hw p.val).entryN.isSome = true) →
      yields (.bootCoreStart p) s fun t => t.hw.cor = s.hw.cor ∧ (partOf t.hw p.val).started = true ∧ sameMemory s t)) ∧
  (∀ (who : Requester) (sq : Fin 80) (s : State), served s.hw who R_CORE_STATUS = true →
    let may := who = .kydin ∨ ∃ p, ownerSquare s.hw sq.val = some p ∧ isSecureOf s.hw who p = true
    (may → yields (.squareReset who sq) s fun t => coreOf t.hw (2 * sq.val) = {} ∧ coreOf t.hw (2 * sq.val + 1) = {} ∧
      (∀ i, i / 2 ≠ sq.val → coreOf t.hw i = coreOf s.hw i) ∧ t.pending = s.pending) ∧
    (¬ may → yields (.squareReset who sq) s fun t => t.hw.cor = s.hw.cor ∧ t.hw.hom = s.hw.hom ∧ sameMemory s t)) ∧
  (∀ (c : Fin 160) (s : State), let due := fget s.hw F_CORE_MTIMECMP_VALUE c.val ≤ gateTime s.hw
    let st := fget s.hw F_CORE_STATUS_STATE c.val
    (¬ due → exec (.machineTimer c) s = .next s) ∧
    (due → pwrOf s.hw (c.val / 2) = pwrOn → changes (.machineTimer c) s fun h => if st = 2 then fset h F_CORE_STATUS_STATE 1 c.val else h) ∧
    (due → pwrOf s.hw (c.val / 2) = pwrAgentsOff ∨ pwrOf s.hw (c.val / 2) = pwrSquareOff → yields (.machineTimer c) s fun t =>
      pwrOf t.hw (c.val / 2) = pwrWaking ∧ onlyFields s.hw t.hw [F_STR_STATUS_PWR] ∧ sameMemory s t)) ∧
  (∀ (who : Requester) (c : Fin 160) (secure : Bool) (s : State), yields (.start who c secure) s fun t =>
    { t.hw with regs := s.hw.regs, cor := s.hw.cor, grid := s.hw.grid, kyd := s.hw.kyd, freeCtr := s.hw.freeCtr, busErr := s.hw.busErr } = s.hw ∧
    onlyFields s.hw t.hw [F_CORE_CMD_RESULT, F_CORE_CMD_SEQ, F_CORE_STATUS_PRIV, F_CORE_STATUS_STATE, F_CORE_STATUS_V, F_CORE_STATUS_WORLD,
      F_KYD_ELOG_SEQ_NEXT, F_PART_PWR_REQ_RESULT, F_STR_CMD_RESULT, F_STR_PROBE_CNT_COUNT, F_STR_PROBE_CTL_DROPS, F_STR_STATUS_ABORTS,
      F_STR_STATUS_DETACHED_DROPS, F_STR_STATUS_HOLDING, F_STR_STATUS_PWR] ∧
    sameMemory s t) ∧
  (∀ (p : Fin 8) (s : State), yields (.bootCoreStart p) s fun t =>
    { t.hw with regs := s.hw.regs, boot := s.hw.boot, cor := s.hw.cor, kyd := s.hw.kyd } = s.hw ∧
    onlyFields s.hw t.hw [F_CORE_STATUS_PRIV, F_CORE_STATUS_STATE, F_CORE_STATUS_V, F_CORE_STATUS_WORLD, F_KYD_ELOG_SEQ_NEXT] ∧
    sameMemory s t) ∧
  (∀ (c : Fin 160) (s : State), yields (.machineTimer c) s fun t =>
    { t.hw with regs := s.hw.regs, grid := s.hw.grid, freeCtr := s.hw.freeCtr, busErr := s.hw.busErr } = s.hw ∧
    onlyFields s.hw t.hw [F_CORE_STATUS_STATE, F_PART_PWR_REQ_RESULT, F_STR_CMD_RESULT, F_STR_PROBE_CNT_COUNT, F_STR_PROBE_CTL_DROPS,
      F_STR_STATUS_ABORTS, F_STR_STATUS_DETACHED_DROPS, F_STR_STATUS_HOLDING, F_STR_STATUS_PWR] ∧
    sameMemory s t) ∧
  (∀ (c : Fin 160) (s : State), yields (.secureInterruptEntry c) s fun t =>
    { t.hw with regs := s.hw.regs, cor := s.hw.cor, ints := s.hw.ints, freeCtr := s.hw.freeCtr } = s.hw ∧
    onlyFields s.hw t.hw [F_CORE_STATUS_PRIV, F_CORE_STATUS_STATE, F_CORE_STATUS_V, F_CORE_STATUS_WORLD, F_INT_SRC_STATE_IN_FLIGHT] ∧
    sameMemory s t)

/-- A small core runs its word, predicts a hinted branch by its bit, pushes a frame at a trap, takes a stacking fault, and pops at
MRET. For every small core whose next word is fetched: register arithmetic writes its result, a branch of either form goes to its
offset exactly when its comparison holds, and costs 1, 2 or 3 cycles by its hint or direction; the word of another instruction, or a
core that does not run, changes nothing. A stored local byte is not fetched before FENCE.I. An interrupt line waits in mip, and
where nothing holds it back it is taken and waits no more. An exception pushes 80 bytes below sp, x1 first and mepc and mstatus near
the end, sets sp and enters mtvec; where sp does not allow it, nothing is pushed and the handler gets code 26 and sp. MRET pops the
frame and resumes at its mepc, but pops nothing after a stacking fault. (R386, R387, R388, R389, R390, R392, R530) -/
def Obligations.SmallCoresExecuteTrapAndReturn : Prop :=
  (∀ (m : Fin 69) (rd rs1 rs2 : BitVec 5) (s : State), let k := smallOf s.hw m.val
    let a := BitVec.ofNat 32 (sreg s.hw m.val rs1.toNat)
    let b := BitVec.ofNat 32 (sreg s.hw m.val rs2.toNat)
    ∀ e ∈ ([(0, 0x00, a + b), (0, 0x20, a - b), (1, 0x00, a <<< (b.toNat % 32)), (2, 0x00, if a.slt b then 1#32 else 0#32),
        (3, 0x00, if a.ult b then 1#32 else 0#32), (4, 0x00, a ^^^ b), (5, 0x00, a >>> (b.toNat % 32)), (5, 0x20, a.sshiftRight (b.toNat % 32)),
        (6, 0x00, a ||| b), (7, 0x00, a &&& b), (0, 0x01, a * b)] : List (Nat × Nat × BitVec 32)),
      let w := BitVec.ofNat 32 (encR 0x33 e.1 e.2.1 rd.toNat rs1.toNat rs2.toNat)
      smallRuns s.hw m.val = true → smallIrq s.hw m.val = none → spmpAllows s.hw m.val k.user .fetch k.pc.toNat 4 = true →
      fetchBytes s.hw s.mem m.val k.pc.toNat 4 = (s.hw, some (leBytes 4 w.toNat, false)) → yields (.smallCoreInstruction m w) s fun t =>
        smallOf t.hw m.val = { k with pc := k.pc + 4, x := if rd.toNat = 0 then k.x else k.x.set rd.toNat e.2.2, csr := (smallOf t.hw m.val).csr } ∧
        (∀ i, i ≠ m.val → smallOf t.hw i = smallOf s.hw i) ∧ t.hw.cor.big = s.hw.cor.big ∧ t.hw.regs = s.hw.regs ∧ sameMemory s t) ∧
  (∀ (m : Fin 69) (word : BitVec 32) (s : State), let k := smallOf s.hw m.val
    let a := BitVec.ofNat 32 (sreg s.hw m.val (word.toNat / 2 ^ 15 % 32))
    let b := BitVec.ofNat 32 (sreg s.hw m.val (word.toNat / 2 ^ 20 % 32))
    ∀ e ∈ ([(0, a == b), (1, a != b), (4, a.slt b), (5, !a.slt b), (6, a.ult b), (7, !a.ult b)] : List (Nat × Bool)), word.toNat / 2 ^ 12 % 8 = e.1 → word.toNat % 128 = 0x7B →
      smallRuns s.hw m.val = true → smallIrq s.hw m.val = none → spmpAllows s.hw m.val k.user .fetch k.pc.toNat 4 = true →
      fetchBytes s.hw s.mem m.val k.pc.toNat 4 = (s.hw, some (leBytes 4 word.toNat, false)) → ∀ c ∈ [Instr.hintedBranch m word, .smallCoreInstruction m word],
        yields c s fun t => let hint := bit word.toNat 7
          let off := (word.extractLsb' 31 1 ++ word.extractLsb' 31 1 ++ word.extractLsb' 25 6 ++ word.extractLsb' 8 4 ++ 0#1).signExtend 32
          let count := fun (h : Hw) => scsr h m.val 0xB00 + 2 ^ 32 * scsr h m.val 0xB80
          (smallOf t.hw m.val).pc = (if e.2 = true then k.pc + off else k.pc + 4) ∧ (smallOf t.hw m.val).x = k.x ∧
          (bit (scsr s.hw m.val 0x320) 0 = false → count t.hw =
            (count s.hw + (if hint ≠ e.2 then 3 else if e.2 = true then 2 else 1)) % 2 ^ 64) ∧ t.hw.regs = s.hw.regs ∧ sameMemory s t) ∧
  (∀ (m : Fin 69) (word : BitVec 32) (s : State), word.toNat % 128 ≠ 0x7B → exec (.hintedBranch m word) s = .next s) ∧
  (∀ (m : Fin 69) (word x y : BitVec 32) (s : State), smallRuns s.hw m.val = false → exec (.smallCoreInstruction m word) s = .next s ∧
    exec (.smallCoreTrap m x y) s = .next s ∧ exec (.smallCoreMret m) s = .next s) ∧
  (∀ (h : Hw) (mem : Mem) (m a pc n : Nat) (b : Byte), allLocal m pc n = true →
    (fetchBytes (setLocal h m a b) mem m pc n).2 = (fetchBytes h mem m pc n).2) ∧
  (∀ (m : Fin 69) (cause tval : BitVec 32) (s : State), let k := smallOf s.hw m.val
    let sp := sreg s.hw m.val 2
    smallRuns s.hw m.val = true → bit cause.toNat 31 = false →
    (frameFits m.val sp = true → yields (.smallCoreTrap m cause tval) s fun t => let u := smallOf t.hw m.val
      u.x = k.x.set 2 (BitVec.ofNat 32 (sp - 80)) ∧ u.pc = BitVec.ofNat 32 (scsr s.hw m.val 0x305 / 4 * 4) ∧ u.user = false ∧ u.frames = (false, 16) :: k.frames ∧
      scsr t.hw m.val 0x341 = k.pc.toNat ∧ scsr t.hw m.val 0x342 = cause.toNat ∧ scsr t.hw m.val 0x343 = tval.toNat ∧ u.isram = k.isram ∧
      (∀ i j, i < 16 → j < 4 → localByte t.hw m.val (sp - 80 + 4 * i + j) = BitVec.ofNat 8 (sreg s.hw m.val (lget 0 frameRegs i) / 256 ^ j)) ∧
      (∀ j, j < 4 → localByte t.hw m.val (sp - 16 + j) = BitVec.ofNat 8 (k.pc.toNat / 256 ^ j) ∧
        localByte t.hw m.val (sp - 12 + j) = BitVec.ofNat 8 (scsr t.hw m.val 0x300 / 256 ^ j) ∧ localByte t.hw m.val (sp - 8 + j) = 0 ∧
        localByte t.hw m.val (sp - 4 + j) = 0) ∧
      (∀ a, a < sp - 80 ∨ sp ≤ a → a < 2 ^ 32 → localByte t.hw m.val a = localByte s.hw m.val a)) ∧
    (frameFits m.val sp = false → yields (.smallCoreTrap m cause tval) s fun t => let u := smallOf t.hw m.val
      u.x = k.x ∧ u.dsram = k.dsram ∧ u.isram = k.isram ∧ u.pc = BitVec.ofNat 32 (scsr s.hw m.val 0x305 / 4 * 4) ∧ u.frames = (true, 16) :: k.frames ∧
      scsr t.hw m.val 0x341 = k.pc.toNat ∧ scsr t.hw m.val 0x342 = 26 ∧ scsr t.hw m.val 0x343 = sp)) ∧
  (∀ (m : Fin 69) (s : State), let k := smallOf s.hw m.val
    let sp := sreg s.hw m.val 2
    let word := fun i => leNat ((List.range 4).map fun j => localByte s.hw m.val (sp + 4 * i + j))
    smallRuns s.hw m.val = true → k.user = false →
    (∀ l rest, k.frames = (true, l) :: rest → yields (.smallCoreMret m) s fun t => let u := smallOf t.hw m.val
      u.x = k.x ∧ u.frames = rest ∧ u.pc = BitVec.ofNat 32 (scsr s.hw m.val 0x341) ∧ u.dsram = k.dsram) ∧
    ((∀ l rest, k.frames ≠ (true, l) :: rest) → frameFits m.val (sp + 80) = true → k.x.length = 32 → yields (.smallCoreMret m) s fun t => let u := smallOf t.hw m.val
      (∀ i, i < 16 → sreg t.hw m.val (lget 0 frameRegs i) = word i) ∧ sreg t.hw m.val 2 = sp + 80 ∧
      (∀ i, i ∉ frameRegs → i ≠ 2 → sreg t.hw m.val i = sreg s.hw m.val i) ∧ u.pc = BitVec.ofNat 32 (word 16 / 2 * 2) ∧ u.frames = k.frames.drop 1 ∧
      u.dsram = k.dsram)) ∧
  (∀ (m : Fin 69) (cause tval : BitVec 32) (s : State), let code := cause.toNat % 2 ^ 31
    let h := setScsr s.hw m.val 0x344 (setBit (scsr s.hw m.val 0x344) code true)
    smallRuns s.hw m.val = true → bit cause.toNat 31 = true → code < 32 → code % 16 < linesUsed m.val →
    (smallIrq h m.val = none → changes (.smallCoreTrap m cause tval) s fun _ => h) ∧
    (smallIrq h m.val = some code → frameFits m.val (sreg s.hw m.val 2) = true → yields (.smallCoreTrap m cause tval) s fun t =>
      scsr t.hw m.val 0x341 = (smallOf s.hw m.val).pc.toNat ∧ scsr t.hw m.val 0x342 = cause.toNat ∧ bit (scsr t.hw m.val 0x344) code = false ∧
      (smallOf t.hw m.val).frames = (false, code % 16) :: (smallOf s.hw m.val).frames ∧ (smallOf t.hw m.val).user = false)) ∧
  (∀ (m : Fin 69) (cause : BitVec 32) (tval : BitVec 32) (s : State), yields (.smallCoreTrap m cause tval) s fun t =>
    { t.hw with regs := s.hw.regs, cor := s.hw.cor, hom := s.hw.hom, ints := s.hw.ints, kyd := s.hw.kyd, freeCtr := s.hw.freeCtr } = s.hw ∧
    onlyFields s.hw t.hw [F_INT_SRC_STATE_EVENTS, F_INT_SRC_STATE_PENDING, F_KYD_ELOG_SEQ_NEXT, F_QMC_PMU_CNT_COUNT, F_QMC_PMU_CTL_OVF,
      F_QMC_UE_LINE, F_QMC_UE_POISON_READS, F_QMC_UE_UE_COUNT, F_QMC_VIOL_COUNT, F_QMC_VIOL_PART, F_QMC_VIOL_QADDR, F_QMC_VIOL_SECURE,
      F_QMC_VIOL_WRITE] ∧
    sameMemory s t) ∧
  (∀ (m : Fin 69) (s : State), yields (.smallCoreMret m) s fun t =>
    { t.hw with cor := s.hw.cor } = s.hw ∧
    sameMemory s t)

/-- A request is served or sends its snoops, waits behind an open transaction, is retried with a credit, and writebacks return their
line. For every state: a READ_SHARED of an untracked line with room in the filter gives the core the newest data in E, one that
finds S holders alone in F, and one that finds a holder in M, E or F waits for those holders' answers; READ_UNIQUE of an untracked
line gives M, of a tracked one asks every other core; UPGRADE of the only holder makes its line M with its data. A request behind an
open transaction, behind a waiting request of its line, or without a free credit or filter entry waits in arrival order, within one
mesh cycle by core; a refused one is a bus error. A writeback goes before a transaction that started in its mesh cycle, and its data
to that request for ownership. WB_DIRTY of a line in M leaves the cache and its data is in the slice or in DRAM; from any other
state it changes nothing. A retry moves a waiting request to a credit, and a grant takes it back and starts the request once its set
has an entry. COMPLETION_ACK closes the transaction, and requests that it, a credit or a filter entry held back start. FILL_TIMEOUT
ends the wait of the core with poisoned data and drops its requests and credits. That an arrival slot is the mesh cycle of module
time is the model's choice (log 23). (R394, R395, R410, R411, R414, R415, R416, R417, R422) -/
def Obligations.RequestsOpenTransactionsAtTheHome : Prop :=
  (∀ (c : Fin 160) (line : BitVec 46) (s : State), let n := line.toNat
    let reach := fun (write : Bool) => (mayReach s.hw (askerOf s.hw (.core c)) (64 * n) write).1 = true
    let now := lineNow s.hw s.mem (64 * n)
    let slot := meshSlot s.hw
    let done := fun (r : CReq) => some { req := r, core := c.val, waiting := [], done := true, asked := 0, slot := slot }
    let asks := fun (r : CReq) (cs : List Nat) => some { req := r, core := c.val, waiting := cs, asked := cs.length, slot := slot }
    let waits := fun (i : Instr) (r : CReq) => changes i s fun h =>
      { setBusErr h false with hom := { h.hom with waiting := h.hom.waiting ++ [{ line := n, req := r, core := c.val, slot := slot }] } }
    let others := fun (t : State) => ∀ x l, l < 2 ^ 46 → (x, l) ≠ (c.val, n) → coreLine t.hw x l = coreLine s.hw x l
    ((coreLine s.hw c.val n).isSome = true → exec (.readShared c line .clean) s = .next s ∧ exec (.readUnique c line) s = .next s) ∧
    (coreLine s.hw c.val n = none → ¬ reach false → yields (.readShared c line .clean) s fun t => t.hw.busErr = true ∧ t.hw.hom = s.hw.hom ∧ sameMemory s t) ∧
    (coreLine s.hw c.val n = none → ¬ reach true → ∀ i ∈ [Instr.readUnique c line, .upgrade c line], yields i s fun t =>
      t.hw.busErr = true ∧ t.hw.hom = s.hw.hom ∧ sameMemory s t) ∧
    (∀ k, coreLine s.hw c.val n = none → homeLine s.hw n = some k →
      ((∃ t0, transOf s.hw n = some t0 ∧ t0.slot ≠ slot) ∨
        transOf s.hw n = none ∧ ((∃ w ∈ s.hw.hom.waiting, w.line = n) ∨ 32 ≤ creditsOf s.hw k ∨ isFull (filterRoom s.hw k n) = true) →
        (∀ w ∈ s.hw.hom.waiting, w.line = n → w.slot ≠ slot) →
        (reach false → waits (.readShared c line .clean) .readShared) ∧ (reach true → waits (.readUnique c line) .readUnique)) ∧
      (∀ t0 x, transOf s.hw n = some t0 → t0.slot ≠ slot → s.hw.hom.waiting = [x] → x.line = n → x.slot = slot → reach true →
        let w : Waiter := { line := n, req := .readUnique, core := c.val, slot := slot }
        yields (.readUnique c line) s fun t => t.hw.hom.waiting = (if 160 + c.val < x.rank then [w, x] else [x, w])) ∧
      (∀ t0 f, transOf s.hw n = some t0 → t0.slot = slot → t0.waiting.length = t0.asked → t0.done = false → t0.req ∈ [CReq.readShared, .readUnique, .upgrade] →
        c.val < t0.core → creditsOf s.hw k < 32 → filterOf s.hw n = some f → f.coarse = none → (∃ x ∈ f.cores, x ≠ c.val) → s.hw.hom.waiting = [] → reach true →
        yields (.readUnique c line) s fun t => transOf t.hw n = asks .readUnique (f.cores.filter (· != c.val)) ∧
          t.hw.hom.waiting = [{ line := n, req := t0.req, core := t0.core, slot := slot }]) ∧
      (transOf s.hw n = none → (∀ w ∈ s.hw.hom.waiting, w.line ≠ n) → creditsOf s.hw k < 32 → allocates s.hw c.val = true →
        (filterOf s.hw n = none → (filterPeers s.hw k n).length + creditsFor s.hw k n < 24 →
          (reach false → yields (.readShared c line .clean) s fun t => (∃ l, coreLine t.hw c.val n = some l ∧ l.st = .e ∧ l.data = now.1 ∧ l.poison = now.2) ∧
            transOf t.hw n = done .readShared ∧ tracked t.hw n = [c.val] ∧ others t ∧ sameMemory s t) ∧
          (reach true → yields (.readUnique c line) s fun t => (∃ l, coreLine t.hw c.val n = some l ∧ l.st = .m ∧ l.data = now.1 ∧ l.poison = now.2) ∧
            transOf t.hw n = done .readUnique ∧ tracked t.hw n = [c.val] ∧ others t ∧ sameMemory s t)) ∧
        (∀ f, filterOf s.hw n = some f → f.coarse = none → f.cores ≠ [] → c.val ∉ f.cores →
          (reach false → (∀ x ∈ f.cores, ∃ l, coreLine s.hw x n = some l ∧ l.st = .s) → yields (.readShared c line .clean) s fun t =>
            (∃ l, coreLine t.hw c.val n = some l ∧ l.st = .f ∧ l.data = now.1 ∧ l.poison = now.2) ∧ transOf t.hw n = done .readShared ∧ others t ∧ sameMemory s t) ∧
          (reach false → ∀ x l, f.cores = [x] → coreLine s.hw x n = some l → l.st ≠ .s →
            changes (.readShared c line .clean) s fun h => setTrans (setBusErr h false) n (asks .readShared [x])) ∧
          (reach true → changes (.readUnique c line) s fun h => setTrans (setBusErr h false) n (asks .readUnique f.cores))))) ∧
    (∀ l k f, coreLine s.hw c.val n = some l → (l.st = .s ∨ l.st = .f) → homeLine s.hw n = some k → transOf s.hw n = none →
      (∀ w ∈ s.hw.hom.waiting, w.line ≠ n) → creditsOf s.hw k < 32 → filterOf s.hw n = some f → f.coarse = none → reach true →
      ((∀ x ∈ f.cores, x = c.val) → yields (.upgrade c line) s fun t => (∃ m, coreLine t.hw c.val n = some m ∧ m.st = .m ∧ m.data = l.data ∧ m.poison = l.poison) ∧
        transOf t.hw n = done .upgrade ∧ tracked t.hw n = [c.val] ∧ others t ∧ sameMemory s t) ∧
      ((∃ x ∈ f.cores, x ≠ c.val) → changes (.upgrade c line) s fun h => setTrans (setBusErr h false) n (asks .upgrade (f.cores.filter (· != c.val)))))) ∧
  (∀ (c : Fin 160) (line : BitVec 46) (p : Nat) (s : State), coreLine s.hw c.val line.toNat = none →
    (mayReach s.hw (askerOf s.hw (.core c)) (64 * line.toNat) false).1 = true → ownerCore s.hw c.val = some p → s.hw.ave.waiting = [] →
    yields (.readShared c line .tag) s fun t => fget t.hw F_PART_STATUS_STATE 0 p = 3 ∧ ∀ x ∈ coresOf s.hw p, ∀ l, l < 2 ^ 46 → coreLine t.hw x l = none) ∧
  (∀ (c : Fin 160) (line : BitVec 46) (s : State), let n := line.toNat
    let free := ∀ w ∈ s.hw.hom.waiting, w.line < 2 ^ 46 ∧ w.line ≠ n
    let slot := meshSlot s.hw
    ((∀ l, coreLine s.hw c.val n = some l → l.st ≠ .m) → exec (.wbDirty c line) s = .next s) ∧
    ((∀ l, coreLine s.hw c.val n = some l → l.st = .m) → exec (.wbClean c line) s = .next s) ∧
    (∀ t0 l, transOf s.hw n = some t0 → t0.slot ≠ slot → coreLine s.hw c.val n = some l →
      (l.st = .m → changes (.wbDirty c line) s fun h => addWaiter h { line := n, req := .wbDirty, core := c.val, slot := slot }) ∧
      (l.st ≠ .m → changes (.wbClean c line) s fun h => addWaiter h { line := n, req := .wbClean, core := c.val, slot := slot })) ∧
    (∀ l p q qa, transOf s.hw n = none → coreLine s.hw c.val n = some l → l.st = .m → free → placeOf s.hw (64 * n) = .dram p q qa →
      l.data.length = 64 →
      (∀ k, homeLine s.hw n = some k → fget s.hw F_LLC_CFG_EN k = 1 → (∀ w v, pickWay s.hw k n (waysIn s.hw k 0 ++ waysIn s.hw k 1) = some (w, v) → v = none) →
        (pickWay s.hw k n (waysIn s.hw k 0 ++ waysIn s.hw k 1)).isSome = true → yields (.wbDirty c line) s fun t => coreLine t.hw c.val n = none ∧
          (∃ m, llcLine t.hw k n = some m ∧ m.data = l.data ∧ m.poison = l.poison ∧ m.dirty = true ∧ m.stale = false) ∧ sameMemory s t) ∧
      (∀ k, homeLine s.hw n = some k → fget s.hw F_LLC_CFG_EN k ≠ 1 → llcLine s.hw k n = none → s.hw.sup.powerFail = false →
        yields (.wbDirty c line) s fun t => coreLine t.hw c.val n = none ∧ t.mem.bytes (dkey q qa) 64 = l.data ∧ dramOutside s t (dkey q qa) 64)) ∧
    (∀ l w, transOf s.hw n = none → coreLine s.hw c.val n = some l → l.st = .m → s.hw.hom.waiting = [w] → w.line = n → w.req ∈ [CReq.readUnique, .upgrade] →
      w.slot = slot → w.core ≠ c.val → allocates s.hw w.core = true →
      yields (.wbDirty c line) s fun t => coreLine t.hw c.val n = none ∧ (∃ m, coreLine t.hw w.core n = some m ∧ m.st = .m ∧ m.data = l.data ∧ m.poison = l.poison) ∧
        t.hw.hom.waiting = [] ∧ sameMemory s t) ∧
    (∀ l t0, transOf s.hw n = some t0 → t0.slot = slot → t0.waiting.length = t0.asked → t0.done = false → t0.req ∈ [CReq.readUnique, .upgrade] →
      coreLine s.hw c.val n = some l → l.st = .m → s.hw.hom.waiting = [] → t0.core ≠ c.val → allocates s.hw t0.core = true →
      yields (.wbDirty c line) s fun t => coreLine t.hw c.val n = none ∧ (∃ m, coreLine t.hw t0.core n = some m ∧ m.st = .m ∧ m.data = l.data ∧ m.poison = l.poison) ∧
        transOf t.hw n = some { req := t0.req, core := t0.core, waiting := [], got := true, done := true, slot := slot } ∧ sameMemory s t) ∧
    (∀ l, transOf s.hw n = none → coreLine s.hw c.val n = some l → l.st ≠ .m → s.hw.hom.waiting = [] → yields (.wbClean c line) s fun t =>
      (∀ x m, m < 2 ^ 46 → coreLine t.hw x m = if (x, m) = (c.val, n) then none else coreLine s.hw x m)) ∧
    (∀ t0, transOf s.hw n = some t0 → t0.core = c.val → t0.done = true →
      ((∀ w ∈ s.hw.hom.waiting, w.line ≠ n ∧ (w.req.atOnce = true ∨ startable (setTrans s.hw n none) w.line = false)) →
        changes (.completionAck c line) s fun h => setTrans h n none) ∧
      (∀ w, s.hw.hom.waiting = [w] → w.req ∈ [CReq.readShared, .readUnique, .upgrade] → startable (setTrans s.hw n none) w.line = true →
        yields (.completionAck c line) s fun t => t.hw.hom.waiting = [] ∧ ∃ t1, transOf t.hw w.line = some t1 ∧ t1.req = w.req ∧ t1.core = w.core)) ∧
    (∀ k w, s.hw.hom.waiting = [w] → w.line = n → w.core = c.val → w.req.atOnce = false → homeLine s.hw n = some k → transOf s.hw n = none →
      isFull (filterRoom s.hw k n) = true → creditsOf s.hw k < 32 →
      yields (.retry c line) s fun t => t.hw.hom.waiting = [] ∧ t.hw.hom.credits = s.hw.hom.credits ++ [(k, n, w.req, c.val)] ∧
        fget t.hw F_SF_STATUS_RETRIES k = min (fget s.hw F_SF_STATUS_RETRIES k + 1) 65535 ∧ fget t.hw F_SF_STATUS_CREDITS k = creditsOf s.hw k + 1) ∧
    (let mine := fun (w : Waiter) => w.line = n ∧ w.core = c.val ∧ w.req.atOnce = false
      let running := ∃ t0, transOf s.hw n = some t0 ∧ t0.core = c.val ∧ t0.done = false
      ((¬ running ∧ (∀ w ∈ s.hw.hom.waiting, ¬ mine w) ∧ (∀ e ∈ s.hw.hom.credits, e.2.1 = n → e.2.2.2 ≠ c.val)) → exec (.fillTimeout c line) s = .next s) ∧
      ((running ∨ (∃ w ∈ s.hw.hom.waiting, mine w) ∨ ∃ e ∈ s.hw.hom.credits, e.2.1 = n ∧ e.2.2.2 = c.val) → yields (.fillTimeout c line) s fun t => t.hw.lastResult = [1] ∧
        (∀ w ∈ t.hw.hom.waiting, ¬ mine w) ∧ (∀ e ∈ t.hw.hom.credits, e.2.1 = n → e.2.2.2 ≠ c.val) ∧
        (∀ t0, transOf s.hw n = some t0 → t0.core = c.val → t0.done = false → transOf t.hw n = some { t0 with gone := true }) ∧ sameMemory s t))) ∧
  (∀ (k : Fin 160) (s : State), ((∀ e ∈ s.hw.hom.credits, e.1 = k.val → isFull (roomBeside s.hw k.val e.2.1 0) = true) → exec (.grant k) s = .next s) ∧
    (∀ l req c, s.hw.hom.credits = [(k.val, l, req, c)] → isFull (roomBeside s.hw k.val l 0) = false → s.hw.hom.waiting = [] →
      req ∈ [CReq.readShared, .readUnique, .upgrade] → yields (.grant k) s fun t =>
        t.hw.hom.credits = [] ∧ fget t.hw F_SF_STATUS_CREDITS k.val = 0 ∧
        (transOf s.hw l = none → t.hw.hom.waiting = [] ∧ ∃ t1, transOf t.hw l = some t1 ∧ t1.req = req ∧ t1.core = c) ∧
        ((transOf s.hw l).isSome = true → transOf t.hw l = transOf s.hw l ∧
          t.hw.hom.waiting = [{ line := l, req := req, core := c, slot := meshSlot s.hw }]))) ∧
  (∀ (c : Fin 160) (line : BitVec 46) (s : State), yields (.readUnique c line) s fun t =>
    { t.hw with regs := s.hw.regs, hom := s.hw.hom, ints := s.hw.ints, kyd := s.hw.kyd, freeCtr := s.hw.freeCtr, busErr := s.hw.busErr, lastResult := s.hw.lastResult } = s.hw ∧
    onlyFields s.hw t.hw [F_INT_SRC_STATE_EVENTS, F_INT_SRC_STATE_PENDING, F_KYD_ELOG_SEQ_NEXT, F_QMC_PMU_CNT_COUNT, F_QMC_PMU_CTL_OVF,
      F_QMC_UE_LINE, F_QMC_UE_POISON_READS, F_QMC_UE_UE_COUNT, F_QMC_VIOL_COUNT, F_QMC_VIOL_PART, F_QMC_VIOL_QADDR, F_QMC_VIOL_SECURE,
      F_QMC_VIOL_WRITE, F_SF_STATUS_BACKINV, F_SF_STATUS_COARSE] ∧
    sameMemory s t) ∧
  (∀ (c : Fin 160) (line : BitVec 46) (s : State), yields (.retry c line) s fun t =>
    { t.hw with regs := s.hw.regs, hom := s.hw.hom } = s.hw ∧
    onlyFields s.hw t.hw [F_SF_STATUS_CREDITS, F_SF_STATUS_RETRIES] ∧
    sameMemory s t) ∧
  (∀ (k : Fin 160) (s : State), yields (.grant k) s fun t =>
    { t.hw with regs := s.hw.regs, hom := s.hw.hom, kyd := s.hw.kyd, freeCtr := s.hw.freeCtr, lastResult := s.hw.lastResult } = s.hw ∧
    onlyFields s.hw t.hw [F_KYD_ELOG_SEQ_NEXT, F_QMC_PMU_CNT_COUNT, F_QMC_PMU_CTL_OVF, F_QMC_UE_LINE, F_QMC_UE_POISON_READS, F_QMC_UE_UE_COUNT,
      F_SF_STATUS_BACKINV, F_SF_STATUS_COARSE, F_SF_STATUS_CREDITS] ∧
    sameMemory s t) ∧
  (∀ (c : Fin 160) (line : BitVec 46) (s : State), yields (.fillTimeout c line) s fun t =>
    { t.hw with regs := s.hw.regs, hom := s.hw.hom, kyd := s.hw.kyd, lastResult := s.hw.lastResult } = s.hw ∧
    onlyFields s.hw t.hw [F_KYD_ELOG_SEQ_NEXT, F_SF_STATUS_CREDITS] ∧
    sameMemory s t) ∧
  (∀ (c : Fin 160) (line : BitVec 46) (err : ArrayErr) (s : State), yields (.readShared c line err) s fun t =>
    { t.hw with regs := s.hw.regs, ave := s.hw.ave, rbt := s.hw.rbt, qu := s.hw.qu, cor := s.hw.cor, hom := s.hw.hom, grid := s.hw.grid, ints := s.hw.ints, kyd := s.hw.kyd, freeCtr := s.hw.freeCtr, busErr := s.hw.busErr, lastResult := s.hw.lastResult } = s.hw ∧
    t.pending = s.pending) ∧
  (∀ (c : Fin 160) (line : BitVec 46) (s : State), yields (.upgrade c line) s fun t =>
    { t.hw with regs := s.hw.regs, hom := s.hw.hom, ints := s.hw.ints, kyd := s.hw.kyd, freeCtr := s.hw.freeCtr, busErr := s.hw.busErr, lastResult := s.hw.lastResult } = s.hw ∧
    sameMemory s t) ∧
  (∀ (c : Fin 160) (line : BitVec 46) (s : State), yields (.wbDirty c line) s fun t =>
    { t.hw with regs := s.hw.regs, qu := s.hw.qu, hom := s.hw.hom, ints := s.hw.ints, kyd := s.hw.kyd, freeCtr := s.hw.freeCtr, lastResult := s.hw.lastResult } = s.hw ∧
    t.pending = s.pending) ∧
  (∀ (c : Fin 160) (line : BitVec 46) (s : State), yields (.wbClean c line) s fun t =>
    { t.hw with regs := s.hw.regs, qu := s.hw.qu, hom := s.hw.hom, ints := s.hw.ints, kyd := s.hw.kyd, freeCtr := s.hw.freeCtr, lastResult := s.hw.lastResult } = s.hw ∧
    t.pending = s.pending) ∧
  (∀ (c : Fin 160) (line : BitVec 46) (s : State), yields (.completionAck c line) s fun t =>
    { t.hw with regs := s.hw.regs, ave := s.hw.ave, qu := s.hw.qu, hom := s.hw.hom, ints := s.hw.ints, kyd := s.hw.kyd, freeCtr := s.hw.freeCtr, lastResult := s.hw.lastResult } = s.hw ∧
    t.pending = s.pending)

/-- Each snoop moves its holder as the table of R411 says, and a response no transaction waits for takes the domain down. For every
transaction that waits for a core: SNP_SHARED moves M, E or F to F, gives the requester the data in S, and leaves S and I to answer
without data; SNP_UNIQUE moves every holder to I and gives the requester M with the data of M, E or F; in each case the transaction
no longer waits for the core. SNP_ONCE supplies the line of M, E or F and changes no state. SNP_CLEAN moves M to E and writes its
data to memory. SNP_INVAL moves every state to I. A snoop answer or completion that no transaction waits for, and a snoop that stays
unanswered, takes the partition of the core down with every line its cores hold. (R407, R410, R411, R414, R415, R419, R422) -/
def Obligations.SnoopsMoveTheHoldersState : Prop :=
  (∀ (c : Fin 160) (line : BitVec 46) (t0 : Trans) (s : State), let n := line.toNat
    transOf s.hw n = some t0 → c.val ∈ t0.waiting → t0.core ≠ c.val → drop1 t0.waiting c.val ≠ [] →
    let answers := fun (t : State) (got : Bool) => transOf t.hw n = some { t0 with waiting := drop1 t0.waiting c.val, got := got }
    (t0.req = .readShared →
      ((∀ l, coreLine s.hw c.val n = some l → l.st = .s) → yields (.snpShared c line) s fun t =>
        answers t t0.got ∧ t.hw.hom.l1 = s.hw.hom.l1 ∧ sameMemory s t) ∧
      (∀ l, coreLine s.hw c.val n = some l → l.st ≠ .s → t0.gone = false → allocates s.hw t0.core = true → yields (.snpShared c line) s fun t =>
        answers t true ∧ coreLine t.hw c.val n = some { l with st := .f } ∧
        ∃ m, coreLine t.hw t0.core n = some m ∧ m.st = .s ∧ m.data = l.data ∧ m.poison = l.poison)) ∧
    ((t0.req = .readUnique ∨ t0.req = .upgrade ∧ coreLine s.hw t0.core n = none) →
      (coreLine s.hw c.val n = none → yields (.snpUnique c line) s fun t => answers t t0.got ∧ t.hw.hom.l1 = s.hw.hom.l1 ∧ sameMemory s t) ∧
      (∀ l, coreLine s.hw c.val n = some l → l.st = .s → yields (.snpUnique c line) s fun t =>
        answers t t0.got ∧ coreLine t.hw c.val n = none ∧ sameMemory s t) ∧
      (∀ l, coreLine s.hw c.val n = some l → l.st ≠ .s → t0.gone = false → allocates s.hw t0.core = true → yields (.snpUnique c line) s fun t =>
        answers t true ∧ coreLine t.hw c.val n = none ∧ sameMemory s t ∧
        ∃ m, coreLine t.hw t0.core n = some m ∧ m.st = .m ∧ m.data = l.data ∧ m.poison = l.poison))) ∧
  (∀ (c : Fin 160) (line : BitVec 46) (s : State), let n := line.toNat
    (transOf s.hw n = none →
      (coreLine s.hw c.val n = none → changes (.snpOnce c line) s (fun h => { h with lastResult := [] }) ∧ exec (.snpClean c line) s = .next s) ∧
      (∀ l, coreLine s.hw c.val n = some l →
        changes (.snpOnce c line) s (fun h => if l.st = .s then h else { h with lastResult := l.data ++ [if l.poison = true then 1 else 0] }) ∧
        (l.st ≠ .m → exec (.snpClean c line) s = .next s) ∧
        (∀ p q qa, l.st = .m → l.data.length = 64 → s.hw.sup.powerFail = false → placeOf s.hw (64 * n) = .dram p q qa → yields (.snpClean c line) s fun t =>
          coreLine t.hw c.val n = some { l with st := .e } ∧ t.mem.bytes (dkey q qa) 64 = l.data ∧ dramOutside s t (dkey q qa) 64 ∧
          (∀ x m, m < 2 ^ 46 → (x, m) ≠ (c.val, n) → coreLine t.hw x m = coreLine s.hw x m))) ∧
      ((∀ w ∈ s.hw.hom.waiting, w.req.atOnce = true) → yields (.snpInval c line) s fun t => coreLine t.hw c.val n = none ∧
        (∀ x m, m < 2 ^ 46 → (x, m) ≠ (c.val, n) → coreLine t.hw x m = coreLine s.hw x m) ∧
        ((∀ l, coreLine s.hw c.val n = some l → l.st ≠ .m) → sameMemory s t))) ∧
    (∀ t0, transOf s.hw n = some t0 → t0.req = .backinv → c.val ∈ t0.waiting → drop1 t0.waiting c.val ≠ [] → yields (.snpInval c line) s fun t =>
      coreLine t.hw c.val n = none ∧ transOf t.hw n = some { t0 with waiting := drop1 t0.waiting c.val } ∧
      (∀ x m, m < 2 ^ 46 → (x, m) ≠ (c.val, n) → coreLine t.hw x m = coreLine s.hw x m)) ∧
    (∀ p, ownerCore s.hw c.val = some p → s.hw.ave.waiting = [] →
      let fails := fun (t : State) => fget t.hw F_PART_STATUS_STATE 0 p = 3 ∧ (∀ x ∈ coresOf s.hw p, ∀ l, l < 2 ^ 46 → coreLine t.hw x l = none) ∧
        ∀ x ∈ coresOf s.hw p, fget t.hw F_CORE_STATUS_STATE x = 0 ∨ fget t.hw F_CORE_STATUS_STATE x = 3
      (transOf s.hw n = none → ∀ i ∈ [Instr.snpShared c line, .snpUnique c line, .completionAck c line], yields i s fails) ∧
      (∀ t0, transOf s.hw n = some t0 → yields (.snpOnce c line) s fails ∧ yields (.snpClean c line) s fails ∧
        (t0.req ≠ .backinv ∨ c.val ∉ t0.waiting → yields (.snpInval c line) s fails)) ∧
      (∀ t0, transOf s.hw n = some t0 → c.val ∈ t0.waiting → yields (.snoopTimeout c line) s fails)) ∧
    (transOf s.hw n = none → exec (.snoopTimeout c line) s = .next s)) ∧
  (∀ (c : Fin 160) (line : BitVec 46) (s : State), yields (.snpOnce c line) s fun t =>
    { t.hw with regs := s.hw.regs, ave := s.hw.ave, hom := s.hw.hom, kyd := s.hw.kyd, lastResult := s.hw.lastResult } = s.hw ∧
    t.pending = s.pending) ∧
  (∀ (c : Fin 160) (line : BitVec 46) (s : State), yields (.snpShared c line) s fun t =>
    { t.hw with regs := s.hw.regs, ave := s.hw.ave, qu := s.hw.qu, hom := s.hw.hom, ints := s.hw.ints, kyd := s.hw.kyd, freeCtr := s.hw.freeCtr, lastResult := s.hw.lastResult } = s.hw ∧
    t.pending = s.pending) ∧
  (∀ (c : Fin 160) (line : BitVec 46) (s : State), yields (.snpUnique c line) s fun t =>
    { t.hw with regs := s.hw.regs, ave := s.hw.ave, qu := s.hw.qu, hom := s.hw.hom, ints := s.hw.ints, kyd := s.hw.kyd, freeCtr := s.hw.freeCtr, lastResult := s.hw.lastResult } = s.hw ∧
    t.pending = s.pending) ∧
  (∀ (c : Fin 160) (line : BitVec 46) (s : State), yields (.snpClean c line) s fun t =>
    { t.hw with regs := s.hw.regs, ave := s.hw.ave, qu := s.hw.qu, hom := s.hw.hom, kyd := s.hw.kyd, freeCtr := s.hw.freeCtr } = s.hw ∧
    (transOf s.hw line.toNat = none → t.hw.ave = s.hw.ave ∧
      onlyFields s.hw t.hw [F_KYD_ELOG_SEQ_NEXT, F_QMC_PMU_CNT_COUNT, F_QMC_PMU_CTL_OVF, F_QMC_UE_LINE, F_QMC_UE_POISON_READS, F_QMC_UE_UE_COUNT]) ∧
    t.pending = s.pending) ∧
  (∀ (c : Fin 160) (line : BitVec 46) (s : State), yields (.snpInval c line) s fun t =>
    { t.hw with regs := s.hw.regs, ave := s.hw.ave, qu := s.hw.qu, hom := s.hw.hom, ints := s.hw.ints, kyd := s.hw.kyd, freeCtr := s.hw.freeCtr, lastResult := s.hw.lastResult } = s.hw ∧
    t.pending = s.pending) ∧
  (∀ (c : Fin 160) (line : BitVec 46) (s : State), yields (.snoopTimeout c line) s fun t =>
    { t.hw with regs := s.hw.regs, ave := s.hw.ave, hom := s.hw.hom, kyd := s.hw.kyd } = s.hw ∧
    t.pending = s.pending)

/-- Prefetch offers, uncached reads and writes, maintenance commands and the disabling of a cache act on lines as stated. Without an
offer of the line under way to the slice, or with its partition down, PREFETCH_OFFER changes nothing; the oldest one arrives: an
offer that R398 does not allow, or whose line has been written since (log 67), is counted as declined and gone; an allowed one is
installed with its bytes in the least recently used place. An I/O read within a line returns its newest bytes and leaves every
private line; one that a private cache supplies changes nothing else, and one that the LLC supplies makes its copy the most recently
used; an I/O write leaves no cached copy and its bytes in memory; a refused one is a bus error and changes no memory. For one line:
CLEAN writes the dirty data to DRAM and keeps the copies, INVAL and CLEAN_INVAL remove every copy, a locked line is skipped and
counted, LOCK fills and locks, UNLOCK unlocks, a refused line ends the command FAILED with DONE 0, and a line with an open
transaction keeps the command RUNNING behind it; while one runs on a core another ends BUSY. A set or way that the cache does not
have is REFUSED. Disabling goes through PENDING, is refused for a slice with scratchpad ways or locked lines, and ends with an empty
cache reading DISABLED; an L1D's lines stay in the L2. (R398, R403, R406, R407, R408, R409, R419, R278, R397) -/
def Obligations.OffersAccessesAndMaintenanceActOnLines : Prop :=
  (∀ (k : Fin 160) (line : BitVec 46) (s : State), let n := line.toNat
    let spot := pickWay s.hw k.val n (waysIn s.hw k.val 0 ++ waysIn s.hw k.val 1)
    let ok := fget s.hw F_LLC_CFG_EN k.val = 1 ∧ fget s.hw F_LLC_CFG_OFFER_ACCEPT k.val = 1 ∧ llcLine s.hw k.val n = none ∧
      transOf s.hw n = none ∧ (∀ x ∈ tracked s.hw n, ∀ l, coreLine s.hw x n = some l → l.st ≠ .m ∧ l.st ≠ .e) ∧ ∃ w v, spot = some (w, v) ∧ ∀ e, v = some e → e.2.dirty = false
    let taken := fun (o : PfOffer) (h : Hw) => { h with hom := { h.hom with offers := h.hom.offers.erase o } }
    let up := ∀ p, linePart s.hw n = some p → partDown s.hw p = false
    ((∀ o ∈ s.hw.hom.offers, o.line ≠ n) ∨ homeLine s.hw n ≠ some k.val ∨ ¬ up → exec (.prefetchOffer k line) s = .next s) ∧
    (∀ (o : PfOffer) (r r' : List PfOffer), s.hw.hom.offers = r ++ o :: r' → (∀ x ∈ r, x.line ≠ n) → o.line = n → homeLine s.hw n = some k.val → up →
      (¬ ok ∨ o.stale = true → changes (.prefetchOffer k line) s fun h => fadd (taken o h) F_LLC_STATUS_OFFER_DECL 1 k.val) ∧
      (ok → o.stale = false → yields (.prefetchOffer k line) s fun t => sameMemory s t ∧
        fget t.hw F_LLC_STATUS_OFFER_IN k.val = min (fget s.hw F_LLC_STATUS_OFFER_IN k.val + 1) 65535 ∧ t.hw.hom.offers = r ++ r' ∧
        t.hw.hom.l1 = s.hw.hom.l1 ∧ ∃ l, llcLine t.hw k.val n = some l ∧ l.data = o.data ∧ l.poison = o.poison ∧ l.dirty = false ∧ l.use = 0))) ∧
  (∀ (agent : IoAgent) (addr : BitVec 52) (len : Nat) (s : State), let a := addr.toNat
    0 < len → a % 64 + len ≤ 64 →
    ((mayReach s.hw (ioAsker s.hw agent) a false).1 = true → (yields (.ioRead agent addr len) s fun t => t.hw.busErr = false ∧
        t.hw.lastResult = sub (lineNow s.hw s.mem a).1 (a % 64) len ∧ t.hw.hom.l1 = s.hw.hom.l1 ∧ sameMemory s t) ∧
      ((∃ e ∈ holders s.hw (a / 64), e.2.st ≠ .s) → changes (.ioRead agent addr len) s fun h =>
        { setBusErr h false with lastResult := sub (lineNow s.hw s.mem a).1 (a % 64) len }) ∧
      (∀ k l, (∀ e ∈ holders s.hw (a / 64), e.2.st = .s) → llcCopy s.hw (a / 64) = some (k, l) → l.stale = false →
        changes (.ioRead agent addr len) s fun h =>
          { setBusErr (setLlc h k (a / 64) { l with use := nextUse h }) false with lastResult := sub l.data (a % 64) len })) ∧
    ((mayReach s.hw (ioAsker s.hw agent) a false).1 = false → yields (.ioRead agent addr len) s fun t => t.hw.busErr = true ∧ t.hw.lastResult = [] ∧ sameMemory s t)) ∧
  (∀ (agent : IoAgent) (addr : BitVec 52) (data : List (BitVec 8)) (s : State), let a := addr.toNat
    data ≠ [] → a % 64 + data.length ≤ 64 → transOf s.hw (a / 64) = none → (∀ w ∈ s.hw.hom.waiting, w.req.atOnce = true) →
    (∀ l, supplier s.hw (a / 64) = some l → l.data.length = 64) →
    (∀ p q qa, (mayReach s.hw (ioAsker s.hw agent) a true).1 = true → s.hw.sup.powerFail = false → placeOf s.hw a = .dram p q qa → yields (.ioWrite agent addr data) s fun t =>
      t.hw.busErr = false ∧ t.mem.bytes (dkey q qa) data.length = data ∧ (∀ x, coreLine t.hw x (a / 64) = none ∧ llcLine t.hw x (a / 64) = none) ∧
      dramOutside s t (dkey q (qa / 64 * 64)) 64 ∧ (dirtyLine s.hw (a / 64) = none → readsAsStored s q qa → dramOutside s t (dkey q qa) data.length)) ∧
    ((mayReach s.hw (ioAsker s.hw agent) a true).1 = false → yields (.ioWrite agent addr data) s fun t => t.hw.busErr = true ∧ t.hw.hom = s.hw.hom ∧ sameMemory s t)) ∧
  (∀ (who : Requester) (c : Fin 160) (s : State), accepts s who R_CM_CMD c.val 0 → fget s.hw F_CM_LEN_LINES c.val ≤ 1 →
    (∀ w ∈ s.hw.hom.waiting, w.req.atOnce = true) → maintOf s.hw c.val = none →
    let n := fget s.hw F_CM_ADDR_ADDR c.val
    let w : Asker := match who with | .kydin => .kydin | _ => { part := ownerCore s.hw c.val, secure := (askerOf s.hw who).secure }
    let ends := fun (t : State) (code done skipped : Nat) => fget t.hw F_CM_CMD_RESULT c.val = code ∧ fget t.hw F_CM_STATUS_DONE c.val = done ∧
      fget t.hw F_CM_STATUS_SKIPPED c.val = skipped ∧ fget t.hw F_CM_CMD_SEQ c.val = (fget s.hw F_CM_CMD_SEQ c.val + 1) % 256 ∧ maintOf t.hw c.val = none
    let kept := fun (t : State) => { t.hw.hom with maint := s.hw.hom.maint } = s.hw.hom ∧ sameMemory s t
    let gone := fun (t : State) => ∀ x, coreLine t.hw x n = none ∧ llcLine t.hw x n = none
    let all := [Instr.clean who c, .inval who c, .cleanInval who c, .lockLines who c, .unlockLines who c]
    ((mayReach s.hw w (64 * n) true).1 = false → ∀ i ∈ all, yields i s fun t => ends t 3 0 0 ∧ kept t) ∧
    ((mayReach s.hw w (64 * n) true).1 = true → (transOf s.hw n).isSome = true → ∀ i ∈ all, yields i s fun t =>
      fget t.hw F_CM_CMD_RESULT c.val = 1 ∧ (maintOf t.hw c.val).map (fun x => (x.line, x.left)) = some (n, 1) ∧
      t.hw.hom.waiting = insertWaiter { line := n, req := .maint, core := c.val, slot := meshSlot s.hw } s.hw.hom.waiting ∧ sameMemory s t) ∧
    ((mayReach s.hw w (64 * n) true).1 = true → transOf s.hw n = none → n < 2 ^ 46 → s.hw.sup.powerFail = false →
      ∀ p q qa, placeOf s.hw (64 * n) = .dram p q qa →
      (∀ x l, (holders s.hw n).find? (fun e => e.2.st == .m) = some (x, l) → coreLine s.hw x n = some l → l.data.length = 64 →
        (yields (.clean who c) s fun t => ends t 2 1 0 ∧ coreLine t.hw x n = some { l with st := .e } ∧ t.mem.bytes (dkey q qa) 64 = l.data ∧ dramOutside s t (dkey q qa) 64) ∧
        (isLocked s.hw n = false → yields (.cleanInval who c) s fun t => ends t 2 1 0 ∧ gone t ∧ t.mem.bytes (dkey q qa) 64 = l.data ∧ dramOutside s t (dkey q qa) 64)) ∧
      ((holders s.hw n).find? (fun e => e.2.st == .m) = none →
        (∀ k l, llcCopy s.hw n = some (k, l) → l.dirty = true → l.stale = false → l.data.length = 64 →
          (yields (.clean who c) s fun t => ends t 2 1 0 ∧ llcLine t.hw k n = some { l with dirty := false } ∧ t.mem.bytes (dkey q qa) 64 = l.data) ∧
          (l.locked = false → yields (.cleanInval who c) s fun t => ends t 2 1 0 ∧ gone t ∧ t.mem.bytes (dkey q qa) 64 = l.data)) ∧
        (llcCopy s.hw n = none → yields (.clean who c) s fun t => ends t 2 1 0 ∧ kept t)) ∧
      (isLocked s.hw n = false → yields (.inval who c) s fun t => ends t 2 1 0 ∧ gone t ∧ sameMemory s t) ∧
      (isLocked s.hw n = true → yields (.inval who c) s fun t => ends t 2 1 1 ∧ kept t) ∧
      (∀ k v, isLocked s.hw n = false → homeLine s.hw n = some k → fget s.hw F_LLC_CFG_EN k = 1 →
        pickWay { s.hw with hom := { s.hw.hom with llc := tdel s.hw.hom.llc (l1key k n) } } k n (waysIn s.hw k 1) = v →
        (v = none → yields (.lockLines who c) s fun t => ends t 2 1 1 ∧ kept t) ∧
        (∀ y, v = some (y, none) → yields (.lockLines who c) s fun t => ends t 2 1 0 ∧ sameMemory s t ∧
          ∃ l, llcLine t.hw k n = some l ∧ l.locked = true ∧ l.way = y ∧ l.data = (lineNow s.hw s.mem (64 * n)).1)) ∧
      (∀ k l, llcCopy s.hw n = some (k, l) → yields (.unlockLines who c) s fun t => ends t 2 1 0 ∧ llcLine t.hw k n = some { l with locked := false } ∧ sameMemory s t))) ∧
  (∀ (who : Requester) (c : Fin 160) (target : BitVec 2) (s : State), accepts s who R_CM_CMD c.val 0 → (maintOf s.hw c.val).isSome = true →
    ∀ i ∈ [Instr.clean who c, .inval who c, .cleanInval who c, .lockLines who c, .unlockLines who c, .swClean who c target, .swInval who c target, .swCleanInval who c target],
      yields i s fun t => fget t.hw F_CM_CMD_RESULT c.val = rcBusy ∧ fget t.hw F_CM_CMD_SEQ c.val = (fget s.hw F_CM_CMD_SEQ c.val + 1) % 256 ∧
        t.hw.hom = s.hw.hom ∧ sameMemory s t) ∧
  (∀ (who : Requester) (c : Fin 160) (target : BitVec 2) (s : State), accepts s who R_CM_CMD c.val 0 →
    (∀ w ∈ s.hw.hom.waiting, w.req.atOnce = true) → maintOf s.hw c.val = none →
    let a := fget s.hw F_CM_ADDR_ADDR c.val
    let w : Asker := match who with | .kydin => .kydin | _ => { part := ownerCore s.hw c.val, secure := (askerOf s.hw who).secure }
    let sets := if target = 1 ∨ target = 2 then 2048 else 128
    let ways := if target = 1 then 16 else if target = 2 then 12 else 8
    let ends := fun (t : State) (code done skipped : Nat) => fget t.hw F_CM_CMD_RESULT c.val = code ∧ fget t.hw F_CM_STATUS_DONE c.val = done ∧
      fget t.hw F_CM_STATUS_SKIPPED c.val = skipped ∧ fget t.hw F_CM_CMD_SEQ c.val = (fget s.hw F_CM_CMD_SEQ c.val + 1) % 256
    (sets ≤ a % 2048 ∨ ways ≤ a / 2048 % 16 → ∀ i ∈ [Instr.swClean who c target, .swInval who c target, .swCleanInval who c target],
      yields i s fun t => ends t 4 0 0 ∧ t.hw.hom = s.hw.hom ∧ sameMemory s t) ∧
    (target = 2 → a / 2048 % 16 < 12 → let e := (sliceLines s.hw c.val).find? fun e => llcSet e.1 == a % 2048 && e.2.way == a / 2048 % 16 && !e.2.locked
      (e = none → ∀ i ∈ [Instr.swClean who c target, .swInval who c target, .swCleanInval who c target],
        yields i s fun t => ends t 2 1 1 ∧ t.hw.hom = s.hw.hom ∧ sameMemory s t) ∧
      (∀ n l, e = some (n, l) → (mayReach s.hw w (64 * n) true).1 = false →
        ∀ i ∈ [Instr.swClean who c target, .swInval who c target, .swCleanInval who c target], yields i s fun t => ends t 3 0 0 ∧ sameMemory s t) ∧
      (∀ n l p q qa, e = some (n, l) → (mayReach s.hw w (64 * n) true).1 = true → transOf s.hw n = none →
        placeOf s.hw (64 * n) = .dram p q qa → isLocked s.hw n = false →
        (yields (.swInval who c target) s fun t => ends t 2 1 0 ∧ (∀ x, coreLine t.hw x n = none ∧ llcLine t.hw x n = none) ∧ sameMemory s t) ∧
        (yields (.swCleanInval who c target) s fun t => ends t 2 1 0 ∧ ∀ x, coreLine t.hw x n = none ∧ llcLine t.hw x n = none) ∧
        (s.hw.sup.powerFail = false → (holders s.hw n).find? (fun e => e.2.st == .m) = none → llcCopy s.hw n = some (c.val, l) → l.dirty = true → l.stale = false → l.data.length = 64 →
          yields (.swClean who c target) s fun t => ends t 2 1 0 ∧ llcLine t.hw c.val n = some { l with dirty := false } ∧ t.mem.bytes (dkey q qa) 64 = l.data)))) ∧
  (∀ (who : Requester) (which : CacheSel) (k : Fin 160) (s : State), accepts s who (enableReg which) k.val 0 →
    let bound := which = .llc ∧ (fget s.hw F_LLC_CFG_SP_WAYS k.val ≠ 0 ∨ ∃ e ∈ sliceLines s.hw k.val, e.2.locked = true)
    (¬ bound → changes (.cacheDisable who which k) s fun h =>
      let h := setBusErr (wakeFor h (enableReg which) k.val) false
      if fget s.hw (enableField which) k.val = 1 then fset h (enableField which) 2 k.val else h) ∧
    (bound → yields (.cacheDisable who which k) s fun t => fget t.hw F_LLC_CFG_EN k.val = fget s.hw F_LLC_CFG_EN k.val ∧ t.hw.hom = s.hw.hom ∧ sameMemory s t)) ∧
  (∀ (which : CacheSel) (k : Fin 160) (s : State), (fget s.hw (enableField which) k.val ≠ 2 → exec (.cacheCleanDone which k) s = .next s) ∧
    (fget s.hw (enableField which) k.val = 2 → (∀ w ∈ s.hw.hom.waiting, w.req.atOnce = true) → yields (.cacheCleanDone which k) s fun t =>
      fget t.hw (enableField which) k.val = 0 ∧
      (which = .l1d → sameMemory s t ∧ t.hw.hom.llc = s.hw.hom.llc ∧
        ∀ n, n < 2 ^ 46 → coreLine t.hw k.val n = (coreLine s.hw k.val n).map fun l => { l with l1d := false }) ∧
      (which = .l2 → ∀ n, n < 2 ^ 46 → coreLine t.hw k.val n = none) ∧
      (which = .llc → ∀ n, n < 2 ^ 46 → llcLine t.hw k.val n = none))) ∧
  (∀ (k : Fin 160) (line : BitVec 46) (s : State), yields (.prefetchOffer k line) s fun t =>
    { t.hw with regs := s.hw.regs, hom := s.hw.hom } = s.hw ∧
    onlyFields s.hw t.hw [F_LLC_STATUS_OFFER_DECL, F_LLC_STATUS_OFFER_IN] ∧
    sameMemory s t) ∧
  (∀ (agent : IoAgent) (addr : BitVec 52) (len : Nat) (s : State), yields (.ioRead agent addr len) s fun t =>
    { t.hw with regs := s.hw.regs, hom := s.hw.hom, ints := s.hw.ints, kyd := s.hw.kyd, freeCtr := s.hw.freeCtr, busErr := s.hw.busErr, lastResult := s.hw.lastResult } = s.hw ∧
    onlyFields s.hw t.hw [F_INT_SRC_STATE_EVENTS, F_INT_SRC_STATE_PENDING, F_KYD_ELOG_SEQ_NEXT, F_QMC_PMU_CNT_COUNT, F_QMC_PMU_CTL_OVF,
      F_QMC_UE_LINE, F_QMC_UE_POISON_READS, F_QMC_UE_UE_COUNT, F_QMC_VIOL_COUNT, F_QMC_VIOL_PART, F_QMC_VIOL_QADDR, F_QMC_VIOL_SECURE,
      F_QMC_VIOL_WRITE] ∧
    sameMemory s t) ∧
  (∀ (who : Requester) (which : CacheSel) (k : Fin 160) (s : State), yields (.cacheDisable who which k) s fun t =>
    { t.hw with regs := s.hw.regs, grid := s.hw.grid, kyd := s.hw.kyd, freeCtr := s.hw.freeCtr, busErr := s.hw.busErr } = s.hw ∧
    sameMemory s t) ∧
  (∀ (agent : IoAgent) (addr : BitVec 52) (data : List (BitVec 8)) (s : State), yields (.ioWrite agent addr data) s fun t =>
    { t.hw with regs := s.hw.regs, qu := s.hw.qu, hom := s.hw.hom, ints := s.hw.ints, kyd := s.hw.kyd, freeCtr := s.hw.freeCtr, busErr := s.hw.busErr, lastResult := s.hw.lastResult } = s.hw ∧
    t.pending = s.pending) ∧
  (∀ (who : Requester) (c : Fin 160) (s : State), yields (.clean who c) s fun t =>
    { t.hw with regs := s.hw.regs, qu := s.hw.qu, hom := s.hw.hom, grid := s.hw.grid, ints := s.hw.ints, kyd := s.hw.kyd, freeCtr := s.hw.freeCtr, busErr := s.hw.busErr, lastResult := s.hw.lastResult } = s.hw ∧
    t.pending = s.pending) ∧
  (∀ (who : Requester) (c : Fin 160) (s : State), yields (.inval who c) s fun t =>
    { t.hw with regs := s.hw.regs, qu := s.hw.qu, hom := s.hw.hom, grid := s.hw.grid, ints := s.hw.ints, kyd := s.hw.kyd, freeCtr := s.hw.freeCtr, busErr := s.hw.busErr, lastResult := s.hw.lastResult } = s.hw ∧
    t.pending = s.pending) ∧
  (∀ (who : Requester) (c : Fin 160) (s : State), yields (.cleanInval who c) s fun t =>
    { t.hw with regs := s.hw.regs, qu := s.hw.qu, hom := s.hw.hom, grid := s.hw.grid, ints := s.hw.ints, kyd := s.hw.kyd, freeCtr := s.hw.freeCtr, busErr := s.hw.busErr, lastResult := s.hw.lastResult } = s.hw ∧
    t.pending = s.pending) ∧
  (∀ (who : Requester) (c : Fin 160) (s : State), yields (.lockLines who c) s fun t =>
    { t.hw with regs := s.hw.regs, qu := s.hw.qu, hom := s.hw.hom, grid := s.hw.grid, ints := s.hw.ints, kyd := s.hw.kyd, freeCtr := s.hw.freeCtr, busErr := s.hw.busErr, lastResult := s.hw.lastResult } = s.hw ∧
    t.pending = s.pending) ∧
  (∀ (who : Requester) (c : Fin 160) (s : State), yields (.unlockLines who c) s fun t =>
    { t.hw with regs := s.hw.regs, qu := s.hw.qu, hom := s.hw.hom, grid := s.hw.grid, ints := s.hw.ints, kyd := s.hw.kyd, freeCtr := s.hw.freeCtr, busErr := s.hw.busErr, lastResult := s.hw.lastResult } = s.hw ∧
    t.pending = s.pending) ∧
  (∀ (who : Requester) (c : Fin 160) (target : BitVec 2) (s : State), yields (.swClean who c target) s fun t =>
    { t.hw with regs := s.hw.regs, qu := s.hw.qu, hom := s.hw.hom, grid := s.hw.grid, ints := s.hw.ints, kyd := s.hw.kyd, freeCtr := s.hw.freeCtr, busErr := s.hw.busErr, lastResult := s.hw.lastResult } = s.hw ∧
    t.pending = s.pending) ∧
  (∀ (who : Requester) (c : Fin 160) (target : BitVec 2) (s : State), yields (.swInval who c target) s fun t =>
    { t.hw with regs := s.hw.regs, qu := s.hw.qu, hom := s.hw.hom, grid := s.hw.grid, ints := s.hw.ints, kyd := s.hw.kyd, freeCtr := s.hw.freeCtr, busErr := s.hw.busErr, lastResult := s.hw.lastResult } = s.hw ∧
    t.pending = s.pending) ∧
  (∀ (who : Requester) (c : Fin 160) (target : BitVec 2) (s : State), yields (.swCleanInval who c target) s fun t =>
    { t.hw with regs := s.hw.regs, qu := s.hw.qu, hom := s.hw.hom, grid := s.hw.grid, ints := s.hw.ints, kyd := s.hw.kyd, freeCtr := s.hw.freeCtr, busErr := s.hw.busErr, lastResult := s.hw.lastResult } = s.hw ∧
    t.pending = s.pending) ∧
  (∀ (which : CacheSel) (k : Fin 160) (s : State), yields (.cacheCleanDone which k) s fun t =>
    { t.hw with regs := s.hw.regs, qu := s.hw.qu, hom := s.hw.hom, kyd := s.hw.kyd, freeCtr := s.hw.freeCtr, lastResult := s.hw.lastResult } = s.hw ∧
    t.pending = s.pending)

/-- SET_SP, SET_LOCK and RETIRE_WAY change the modes of a slice inside the limits of R400 and are REFUSED outside them. For every
accepted command: SET_SP and SET_LOCK that would break a limit of R400, the quota, or find too few NORMAL ways end REFUSED and
change nothing else. Otherwise they end DONE with exactly N ways of the mode, SP_WAYS or LOCK_WAYS reads N, the number of ways of
the other mode stays, and ways already in the mode keep it when N rises. The scratchpad ranges that open read zero, and no private
cache keeps a line of a range that closes. RETIRE_WAY of a way that does not exist or is disabled is REFUSED; so is one that would
leave fewer than two NORMAL ways, which raises the square's source. Otherwise the way is DISABLED, holds no line, stands in the
lifetime records, and as many SCRATCH ways remain. WAY_WINDOW_START moves module time to the next whole multiple of WAY_WINDOW,
unless that has just been reached, and restarts the counts of its slice alone; that time moves with the command is the model's
choice (log 4). (R399, R400, R401, R405, R423) -/
def Obligations.WaysOfASliceChangeMode : Prop :=
  (∀ (who : Requester) (k : Fin 160) (n : BitVec 4) (s : State), accepts s who R_LLC_CMD k.val 0 →
    let no := fun (h : Hw) => answer (setBusErr (wakeFor h R_LLC_CMD k.val) false) F_LLC_CMD_RESULT F_LLC_CMD_SEQ 4 k.val
    let ways := fun (h : Hw) (m : Nat) => (waysIn h k.val m).length
    let quota := match ownerSquare s.hw (k.val / 2) with | some p => quotaOf s.hw p 4 | none => 6
    let ended := fun (t : State) => fget t.hw F_LLC_CMD_RESULT k.val = 2 ∧ fget t.hw F_LLC_CMD_SEQ k.val = (fget s.hw F_LLC_CMD_SEQ k.val + 1) % 256
    let noSp := 6 < n.toNat ∨ 8 < n.toNat + ways s.hw 1 ∨ quota < n.toNat ∨ (ways s.hw 2 < n.toNat ∧ ways s.hw 0 < n.toNat - ways s.hw 2)
    let noLock := 4 < n.toNat ∨ 8 < n.toNat + ways s.hw 2 ∨ (ways s.hw 1 < n.toNat ∧ ways s.hw 0 < n.toNat - ways s.hw 1)
    (noSp → changes (.setSp who k n) s no) ∧ (noLock → changes (.setLock who k n) s no) ∧
    (¬ noSp → yields (.setSp who k n) s fun t => ended t ∧ ways t.hw 2 = n.toNat ∧ fget t.hw F_LLC_CFG_SP_WAYS k.val = n.toNat ∧ ways t.hw 1 = ways s.hw 1 ∧
      (ways s.hw 2 ≤ n.toNat → ∀ w ∈ waysIn s.hw k.val 2, wayMode t.hw k.val w = 2) ∧
      (∀ r o, ways s.hw 2 ≤ r → r < n.toNat → o < 131072 → t.mem.scr (k.val * 786432 + r * 131072 + o) = 0) ∧
      (∀ x line o, line < 2 ^ 46 → placeOf s.hw (64 * line) = .scratch o → o / 786432 = k.val → n.toNat ≤ o % 786432 / 131072 → o % 786432 / 131072 < ways s.hw 2 →
        coreLine t.hw x line = none)) ∧
    (¬ noLock → yields (.setLock who k n) s fun t => ended t ∧ ways t.hw 1 = n.toNat ∧ fget t.hw F_LLC_CFG_LOCK_WAYS k.val = n.toNat ∧ ways t.hw 2 = ways s.hw 2 ∧
      (ways s.hw 1 ≤ n.toNat → ∀ w ∈ waysIn s.hw k.val 1, wayMode t.hw k.val w = 1))) ∧
  (∀ (who : Requester) (k : Fin 160) (n : BitVec 4) (s : State), accepts s who R_LLC_CMD k.val 0 →
    let no := fun (h : Hw) => answer (setBusErr (wakeFor h R_LLC_CMD k.val) false) F_LLC_CMD_RESULT F_LLC_CMD_SEQ 4 k.val
    let mode := wayMode s.hw k.val n.toNat
    let left := if mode = 1 then (waysIn s.hw k.val 0).length else (waysIn s.hw k.val 0).length - 1
    (12 ≤ n.toNat ∨ mode = 3 → changes (.retireWay who k n) s no) ∧
    (n.toNat < 12 → mode ≠ 3 → left < 2 → yields (.retireWay who k n) s fun t => fget t.hw F_LLC_CMD_RESULT k.val = 4 ∧ t.hw.hom = s.hw.hom ∧
      wayMode t.hw k.val n.toNat = mode ∧ fget t.hw F_INT_SRC_STATE_PENDING 0 (srcSquare (k.val / 2)) = 1 ∧ sameMemory s t) ∧
    (n.toNat < 12 → mode ≠ 3 → 2 ≤ left → yields (.retireWay who k n) s fun t => fget t.hw F_LLC_CMD_RESULT k.val = 2 ∧ wayMode t.hw k.val n.toNat = 3 ∧
      (3, 16 * k.val + n.toNat) ∈ t.hw.kyd.retired ∧ (waysIn t.hw k.val 2).length = (waysIn s.hw k.val 2).length ∧
      (∀ line l, line < 2 ^ 46 → llcLine t.hw k.val line = some l → l.way ≠ n.toNat))) ∧
  (∀ (k : Fin 160) (s : State), let w := wayWindow s.hw k.val
    let zero := fun (t : State) => (∀ i, i < 16 → tget 0 t.hw.hom.wayCe (16 * k.val + i) = 0) ∧ tget 0 t.hw.hom.wayWin k.val = t.hw.now / w ∧
      (∀ x, x / 16 ≠ k.val → tget 0 t.hw.hom.wayCe x = tget 0 s.hw.hom.wayCe x)
    (s.hw.now % w = 0 → tget 0 s.hw.hom.wayWin k.val ≠ s.hw.now / w → changes (.wayWindowStart k) s fun h => restartWays h k.val) ∧
    (aveQuiet s.hw = true → yields (.wayWindowStart k) s fun t => zero t ∧
      t.hw.now = if s.hw.now % w = 0 ∧ tget 0 s.hw.hom.wayWin k.val ≠ s.hw.now / w then s.hw.now else (s.hw.now / w + 1) * w)) ∧
  (∀ (who : Requester) (k : Fin 160) (n : BitVec 4) (s : State), yields (.setLock who k n) s fun t =>
    { t.hw with regs := s.hw.regs, qu := s.hw.qu, hom := s.hw.hom, grid := s.hw.grid, kyd := s.hw.kyd, freeCtr := s.hw.freeCtr, busErr := s.hw.busErr } = s.hw ∧
    onlyFields s.hw t.hw [F_KYD_ELOG_SEQ_NEXT, F_LLC_CFG_LOCK_WAYS, F_LLC_CFG_SP_WAYS, F_LLC_CFG_WAYMODE, F_LLC_CMD_RESULT, F_LLC_CMD_SEQ,
      F_PART_PWR_REQ_RESULT, F_QMC_PMU_CNT_COUNT, F_QMC_PMU_CTL_OVF, F_QMC_UE_LINE, F_QMC_UE_POISON_READS, F_QMC_UE_UE_COUNT, F_STR_CMD_RESULT,
      F_STR_PROBE_CNT_COUNT, F_STR_PROBE_CTL_DROPS, F_STR_STATUS_ABORTS, F_STR_STATUS_DETACHED_DROPS, F_STR_STATUS_HOLDING, F_STR_STATUS_PWR] ∧
    t.pending = s.pending) ∧
  (∀ (who : Requester) (k : Fin 160) (n : BitVec 4) (s : State), yields (.retireWay who k n) s fun t =>
    { t.hw with regs := s.hw.regs, qu := s.hw.qu, hom := s.hw.hom, grid := s.hw.grid, ints := s.hw.ints, kyd := s.hw.kyd, freeCtr := s.hw.freeCtr, busErr := s.hw.busErr } = s.hw ∧
    onlyFields s.hw t.hw [F_INT_SRC_STATE_EVENTS, F_INT_SRC_STATE_PENDING, F_KYD_ELOG_SEQ_NEXT, F_LLC_CFG_LOCK_WAYS, F_LLC_CFG_SP_WAYS,
      F_LLC_CFG_WAYMODE, F_LLC_CMD_RESULT, F_LLC_CMD_SEQ, F_LLC_STATUS_LOCK_LOST, F_PART_PWR_REQ_RESULT, F_QMC_PMU_CNT_COUNT, F_QMC_PMU_CTL_OVF,
      F_QMC_UE_LINE, F_QMC_UE_POISON_READS, F_QMC_UE_UE_COUNT, F_STR_CMD_RESULT, F_STR_PROBE_CNT_COUNT, F_STR_PROBE_CTL_DROPS,
      F_STR_STATUS_ABORTS, F_STR_STATUS_DETACHED_DROPS, F_STR_STATUS_HOLDING, F_STR_STATUS_PWR] ∧
    t.pending = s.pending) ∧
  (∀ (k : Fin 160) (s : State), aveQuiet s.hw = true → yields (.wayWindowStart k) s fun t =>
    { t.hw with regs := s.hw.regs, now := s.hw.now, freeCtr := s.hw.freeCtr, hom := { s.hw.hom with wayCe := t.hw.hom.wayCe, wayWin := t.hw.hom.wayWin } } =
      { s.hw with hom := t.hw.hom } ∧
    onlyFields s.hw t.hw [F_ENG_PMU_CNT_COUNT, F_ENG_PMU_CTL_OVF, F_GATE_PMU_CNT_COUNT, F_GATE_PMU_CTL_OVF, F_KYD_RTC_FRACTION, F_KYD_RTC_SECONDS,
      F_QMC_CHERR_CE_WINDOW, F_QMC_PMU_CNT_COUNT, F_QMC_PMU_CTL_OVF, F_RBT_PMU_CNT_COUNT, F_RBT_PMU_CTL_OVF] ∧
    sameMemory s t) ∧
  (∀ (who : Requester) (k : Fin 160) (n : BitVec 4) (s : State), yields (.setSp who k n) s fun t =>
    { t.hw with regs := s.hw.regs, qu := s.hw.qu, hom := s.hw.hom, grid := s.hw.grid, ints := s.hw.ints, kyd := s.hw.kyd, freeCtr := s.hw.freeCtr, busErr := s.hw.busErr, lastResult := s.hw.lastResult } = s.hw ∧
    t.pending = s.pending)

/-- A flit leaves by the output of its route, waits for a sleeping square or a fence, is refused at a dead port, and is traced and
counted. The route of R16 between any two routers ends at its destination and stays on routers. A flit comes over a link that exists
and is up, or from an agent port in service on a channel of its class, into a buffer with room, or not at all; a link die has two
channels, D1 for VC3 and D0 for the rest; a body or tail flit carries check bits, POISON, KIND and VC alone. For every flit at a
powered router: an uncorrectable one is rejected, counted in REPLAYS for its eight resends, and the ninth in a row takes the link
down. With nothing else waiting, a single with its channel free and a credit leaves by the output of its route and is noted as sent,
to the buffer of its own that a packet has after the inward hop; without a credit it waits; a tail leaves by its worm's output and
frees it. One whose destination or next square sleeps waits and wakes the square, or goes where the power-down aborts; one that a
fence holds waits with HOLDING set, and one for a detached or absent port, or whose route ends at no router (log 69), is a bus error
for a request or device access, otherwise dropped and counted. Of the flits that may go by one output the one whose turn it is goes.
A matching head counts one, or its flits, or no cycle where it did not wait, in a probe, and a traced one puts its record in the
router's buffer for H3, which holds four. TRACE_RECORD writes a record that has reached H3 at HEAD and moves it, drops it when the
ring is full, and loses it without a ring. (R13, R15, R16, R425, R426, R427, R428, R430, R432, R434, R436, R439) -/
def Obligations.FlitsTakeTheirRoute : Prop :=
  (∀ r d, isRouter r = true → isRouter d = true → r < 160 → d < 160 → let path := routeFrom 32 r (d % 16) (d / 16)
    path.getLast? = some d ∧ (∀ x ∈ path, isRouter x = true) ∧ path.length ≤ 22) ∧
  (∀ (r : Fin 160) (p : Fin 13) (side : BitVec 64) (data : BitVec 512) (err : LinkErr) (s : State), let f := flitOf side data
    (isRouter r.val = false ∨ gridPowered s.hw = false ∨ (p.val < 4 ∧ (linked r.val p.val = false ∨ fget s.hw F_STR_LINK_DOWN r.val p.val = 1)) ∨
      (4 ≤ p.val ∧ (deadPort s.hw r.val (p.val - 4) = true ∨ mayInject f = false)) ∨ noCredit s.hw r.val p.val f = true → exec (.flit r p side data err) s = .next s)) ∧
  (∀ (side : BitVec 64) (data : BitVec 512), let f := flitOf side data
    (isHead f = true → mayInject f = true → (flClass f = 0 ∨ flClass f = 4 ∨ flClass f = 6 → flVc f = 0) ∧ (flClass f = 1 → flVc f = 1) ∧
      (flClass f = 2 ∨ flClass f = 3 → flVc f = 2) ∧ (flClass f = 5 → flVc f = 3) ∧ ¬ (flClass f = 1 ∧ isStop (flDx f + 16 * flDy f) = true)) ∧
    (isHead f = true → f.side = side.setWidth 56) ∧
    (isHead f = false → ∀ i, 4 ≤ i → i ≠ 33 → f.side.getLsbD i = false)) ∧
  (∀ (r : Nat) (f : Flit), (isStop r = true → (chanAt r f = if flVc f = 3 then 1 else 0) ∧ bufSize r (chanAt r f) = if flVc f = 3 then 32 else 16) ∧
    (isStop r = false → chanAt r f = flVc f ∧ bufSize r (chanAt r f) = if flVc f = 3 then 16 else 8)) ∧
  (∀ (r : Fin 160) (p : Fin 13) (side : BitVec 64) (data : BitVec 512) (s : State), isRouter r.val = true → gridPowered s.hw = true → p.val < 4 →
    linked r.val p.val = true → fget s.hw F_STR_LINK_DOWN r.val p.val ≠ 1 → noCredit s.hw r.val p.val (flitOf side data) = false →
    let n := tget 0 s.hw.grid.replay (4 * r.val + p.val) + 1
    (n ≤ 8 → dieBoundary r.val p.val = false → yields (.flit r p side data .uncorrectable) s fun t => tget 0 t.hw.grid.replay (4 * r.val + p.val) = n ∧
      fget t.hw F_STR_LINK_REPLAYS r.val p.val = min (fget s.hw F_STR_LINK_REPLAYS r.val p.val + 1) 65535 ∧ t.hw.grid.sent = s.hw.grid.sent ∧
      t.hw.grid.held = s.hw.grid.held ∧ sameMemory s t) ∧
    (yields (.flit r p side data .single) s fun t => fget t.hw F_STR_LINK_CE r.val p.val = min (fget s.hw F_STR_LINK_CE r.val p.val + 1) (2 ^ F_STR_LINK_CE.width - 1) ∧
      tget 0 t.hw.grid.replay (4 * r.val + p.val) = 0 ∧ sameMemory s t) ∧
    (8 < n → s.hw.ave.waiting = [] → yields (.flit r p side data .uncorrectable) s fun t => fget t.hw F_STR_LINK_DOWN r.val p.val = 1 ∧
      fget t.hw F_STR_LINK_REPLAYS r.val p.val = fget s.hw F_STR_LINK_REPLAYS r.val p.val ∧ t.hw.grid.sent = s.hw.grid.sent)) ∧
  (∀ (r : Fin 160) (p : Fin 13) (side : BitVec 64) (data : BitVec 512) (s : State), let f := flitOf side data
    let out := headOut s.hw r.val f
    let came : List SentFlit := if p.val < 4 then
      s.hw.grid.sent.erase { r := neighbour r.val p.val, out := opposite p.val, buf := headBuf r.val p.val f, flit := f } else s.hw.grid.sent
    let gone : SentFlit := { r := r.val, out := out, buf := if out < 4 then headBuf (neighbour r.val out) (opposite out) f else out, flit := f }
    let waits : HeldFlit := { r := r.val, buf := headBuf r.val p.val f, flit := f }
    isRouter r.val = true → gridPowered s.hw = true → inputShut s.hw r.val p.val f = false → noCredit s.hw r.val p.val f = false →
    flKind f = 3 → s.hw.grid.held = [] → s.hw.grid.fence = none →
    (out ≠ 13 → tget 0 s.hw.grid.worm (wormKey r.val (outChan r.val out f) out) = 0 →
      fget s.hw F_STR_PROBE_CTL_EN r.val = 0 → fget s.hw F_STR_PROBE_CTL_TRACE r.val = 0 →
      (sleepingAhead s.hw r.val out f = none → hasRoom s.hw r.val out f = true → yields (.flit r p side data .clean) s fun t =>
        t.hw.grid.sent = came ++ [gone] ∧ t.hw.grid.held = [] ∧ t.hw.regs = s.hw.regs ∧ sameMemory s t) ∧
      (4 ≤ p.val → sleepingAhead s.hw r.val out f = none → hasRoom s.hw r.val out f = false → yields (.flit r p side data .clean) s fun t =>
        t.hw.grid.sent = came ∧ t.hw.grid.held = [{ waits with credit := true }] ∧ t.hw.regs = s.hw.regs ∧ sameMemory s t) ∧
      (∀ q, sleepingAhead s.hw r.val out f = some q → pwrOf s.hw q = pwrDraining → hasRoom s.hw r.val out f = true → yields (.flit r p side data .clean) s fun t =>
        t.hw.grid.sent = came ++ [gone] ∧ t.hw.grid.held = [] ∧ pwrOf t.hw q = pwrOn ∧ sameMemory s t)) ∧
    (∀ q, sleepingAhead s.hw r.val out f = some q → (pwrOf s.hw q = pwrAgentsOff ∨ pwrOf s.hw q = pwrSquareOff) → yields (.flit r p side data .clean) s fun t =>
      t.hw.grid.held = [{ waits with inj := injects (inputOf waits.buf) }] ∧ t.hw.grid.sent = came ∧ pwrOf t.hw q = pwrWaking ∧ sameMemory s t) ∧
    (4 ≤ p.val → out = 13 → tget 0 s.hw.grid.worm (wormKey r.val (chanAt r.val f) 13) = 0 → yields (.flit r p side data .clean) s fun t =>
      t.hw.grid.sent = s.hw.grid.sent ∧ t.hw.grid.held = [] ∧ sameMemory s t ∧
      (flClass f = 0 ∨ flClass f = 4 → t.hw.busErr = true) ∧
      (flClass f ≠ 0 → flClass f ≠ 4 → fget t.hw F_STR_STATUS_DETACHED_DROPS r.val = min (fget s.hw F_STR_STATUS_DETACHED_DROPS r.val + 1) 65535))) ∧
  (∀ (h : Hw) (r : Nat) (f : Flit), let out := routeAt (r % 16) (r / 16) (flDx f) (flDy f)
    headOut h r f = if out = 4 then (if deadPort h r (flPort f) = true then 13 else 4 + flPort f) else if linked r out = true then out else 13) ∧
  (∀ (r : Fin 160) (p : Fin 13) (side : BitVec 64) (data : BitVec 512) (err : LinkErr) (x code : Nat) (s : State), let f := flitOf side data
    isRouter r.val = true → gridPowered s.hw = true → inputShut s.hw r.val p.val f = false → noCredit s.hw r.val p.val f = false → 4 ≤ p.val →
    flKind f = 3 → s.hw.grid.held = [] → s.hw.grid.fence = some (x, code) → x ∈ routeFrom 32 r.val (flDx f) (flDy f) → yields (.flit r p side data err) s fun t =>
      t.hw.grid.held = [{ r := r.val, buf := ownBuf s.hw r.val p.val, flit := f, inj := true }] ∧ t.hw.grid.sent = s.hw.grid.sent ∧
      fget t.hw F_STR_STATUS_HOLDING r.val = 1 ∧ sameMemory s t) ∧
  (∀ (r : Fin 160) (p : Fin 13) (side : BitVec 64) (data : BitVec 512) (err : LinkErr) (out : Nat) (s : State), let f := flitOf side data
    let key := wormKey r.val (outChan r.val out f) out
    isRouter r.val = true → gridPowered s.hw = true → inputShut s.hw r.val p.val f = false → noCredit s.hw r.val p.val f = false → 4 ≤ p.val →
    flKind f = 2 → s.hw.grid.held = [] → bufFor s.hw r.val p.val f = some p.val → outputFor s.hw r.val p.val f = some out →
    out ≠ 13 → sleepingAhead s.hw r.val out f = none → hasRoom s.hw r.val out f = true → yields (.flit r p side data err) s fun t =>
      t.hw.grid.sent = s.hw.grid.sent ++ [{ r := r.val, out := out, buf := if out < 4 then nextBuf s.hw r.val out f else out, flit := f }] ∧
      t.hw.grid.held = [] ∧ tget 0 t.hw.grid.worm key = 0 ∧ t.hw.regs = s.hw.regs ∧ sameMemory s t) ∧
  (∀ (h : Hw) (w : HeldFlit) (out : Nat), flitTurn h = some (w, out) → (w, out) ∈ readyFlits h ∧
    ∀ d ∈ readyFlits h, d.1.r = w.r → d.2 = out → 16 ≤ w.buf ∨ turnRank h (w, out) ≤ turnRank h d) ∧
  (∀ (h : Hw) (r out : Nat) (w : HeldFlit), isHead w.flit = true → min 4 out = min 4 (fget h F_STR_PROBE_CTL_PORT r) →
    w.flit.side.toNat.land (fget h F_STR_PROBE_MASK_VALUE r) = (fget h F_STR_PROBE_MATCH_VALUE r).land (fget h F_STR_PROBE_MASK_VALUE r) →
    (fget h F_STR_PROBE_CTL_EN r = 1 → frozen h = false → fget h F_STR_PROBE_CTL_TRACE r = 0 →
      ∀ n, n < 4 → let e := fget h F_STR_PROBE_CTL_EVT r / 2 ^ (3 * n) % 8
        ¬ (e = 2 ∧ w.credit = true) → ¬ (e = 3 ∧ w.inj = true) → fget (probeHead h r out w) F_STR_PROBE_CNT_COUNT r n =
          (fget h F_STR_PROBE_CNT_COUNT r n + if e = 1 then w.flit.side.toNat / 2 ^ 28 % 32 + 1 else if e = 2 ∨ e = 3 then 0 else 1) % 2 ^ 48) ∧
    (fget h F_STR_PROBE_CTL_EN r = 0 → fget h F_STR_PROBE_CTL_TRACE r = 1 → fget h F_STR_PROBE_CTL_SAMPLE r = 0 → tget 0 h.grid.traced r = 0 →
      let stored := (h.grid.held.filter fun w => w.r == r && w.buf == 14).length
      (stored < 4 → (probeHead h r out w).grid.held = h.grid.held ++ [{ r := r, buf := 14, flit := traceFlit h r (traceBytes h r (min 4 out) w.flit) }]) ∧
      (4 ≤ stored → (probeHead h r out w).grid.held = h.grid.held ∧
        fget (probeHead h r out w) F_STR_PROBE_CTL_DROPS r = min (fget h F_STR_PROBE_CTL_DROPS r + 1) 65535))) ∧
  (∀ (r : Fin 160) (s : State), s.hw.grid.sent.find? (isRecord r.val) = none → exec (.traceRecord r) s = .next s) ∧
  (∀ (r : Fin 160) (e : SentFlit) (s : State), s.hw.grid.sent.find? (isRecord r.val) = some e →
    let taken := fun (h : Hw) => { h with grid := { h.grid with sent := h.grid.sent.erase e } }
    let size := fget s.hw F_TRACE_RING_SIZE_4K * 256
    let head := fget s.hw F_TRACE_STATUS_HEAD
    let a := fget s.hw F_TRACE_RING_BASE_4K * 4096 + 16 * head
    let full := (head + 1) % size = fget s.hw F_TRACE_STATUS_TAIL % size
    (size = 0 → changes (.traceRecord r) s taken) ∧
    (size ≠ 0 → full → changes (.traceRecord r) s fun h => fadd (taken h) F_TRACE_STATUS_RING_DROPS 1) ∧
    (size ≠ 0 → ¬ full → ∀ p q qa, placeOf s.hw a = .dram p q qa → (mayReach s.hw (askerIn s.hw (fget s.hw F_TRACE_RING_TRACE_PART) true) a true).1 = true →
      s.hw.sup.powerFail = false → transOf s.hw (a / 64) = none → dirtyLine s.hw (a / 64) = none → readsAsStored s q qa →
      yields (.traceRecord r) s fun t => t.mem.bytes (dkey q qa) 16 = leBytes 16 e.flit.payload.toNat ∧ dramOutside s t (dkey q qa) 16 ∧
        fget t.hw F_TRACE_STATUS_HEAD = (head + 1) % size % 2 ^ 24 ∧ t.hw.grid.sent = s.hw.grid.sent.erase e)) ∧
  (∀ (r : Fin 160) (inPort : Fin 13) (sideband : BitVec 64) (payload : BitVec 512) (err : LinkErr) (s : State), yields (.flit r inPort sideband payload err) s fun t =>
    { t.hw with regs := s.hw.regs, mod := s.hw.mod, tim := s.hw.tim, ave := s.hw.ave, hom := s.hw.hom, grid := s.hw.grid, ints := s.hw.ints, kyd := s.hw.kyd, freeCtr := s.hw.freeCtr, busErr := s.hw.busErr } = s.hw ∧
    t.pending = s.pending) ∧
  (∀ (r : Fin 160) (s : State), yields (.traceRecord r) s fun t =>
    { t.hw with regs := s.hw.regs, qu := s.hw.qu, hom := s.hw.hom, grid := s.hw.grid, ints := s.hw.ints, kyd := s.hw.kyd, freeCtr := s.hw.freeCtr, lastResult := s.hw.lastResult } = s.hw ∧
    t.pending = s.pending)

/-- The power states of a square follow its commands and events, and a fence makes one change of one router at a time. For every
accepted command of STR_CMD: a ring square refuses; SLEEP_AGENTS and, with ROUTER_SLEEP and no port detached (log 93), SLEEP_SQUARE
start to drain an idle square and are BUSY otherwise, or wait while a fence runs; SLEEP_SQUARE, RETIRE, RETIRE_ALL and RESTORE are
Kydin's alone. A wake aborts a power-down before the point of no return, is remembered after it, and starts power-up of a square
that is off. DRAIN_DONE passes the point of no return, a drain timeout aborts with ABORTED, POWER_OFF turns the square off or, with
a wake remembered, on again, and POWER_UP_DONE returns it with every core, line and filter entry as it was, a core with an interrupt
pending out of WFI. A fence command of a waking or sleeping square or during a fence is BUSY; the change detaches or reattaches
ports, or sets or clears ROUTER_SLEEP, when the drain is done, and nothing changes when it times out. (R433, R434, R435, R436, R437,
R440, R527) -/
def Obligations.SquaresSleepWakeAndAreFenced : Prop :=
  (∀ (who : Requester) (r : Fin 160) (s : State), isRouter r.val = true → served s.hw who R_STR_CMD = true →
    let owner := who = .kydin ∨ mayWrite s.hw who R_STR_CMD r.val 0 = true
    let done := fun (code : Nat) (h : Hw) => answer (setBusErr h false) F_STR_CMD_RESULT F_STR_CMD_SEQ code r.val
    let result := fun (t : State) (code : Nat) => fget t.hw F_STR_CMD_RESULT r.val = code ∧ fget t.hw F_STR_CMD_SEQ r.val = (fget s.hw F_STR_CMD_SEQ r.val + 1) % 256
    (squareOf r.val = none → (owner → changes (.sleepAgents who r) s (done 4) ∧ changes (.strWake who r) s (done 4)) ∧
      (who = .kydin → changes (.sleepSquare who r) s (done 4) ∧ changes (.retire who r) s (done 4) ∧ changes (.retireAll who r) s (done 4))) ∧
    (who ≠ .kydin → ∀ c ∈ [Instr.sleepSquare who r, .retire who r, .retireAll who r, .restore who r], yields c s fun t =>
      t.hw.grid = s.hw.grid ∧ fget t.hw F_STR_CMD_SEQ r.val = fget s.hw F_STR_CMD_SEQ r.val ∧ sameMemory s t) ∧
    (∀ q, squareOf r.val = some q →
      (owner → s.hw.grid.fence.isSome = true → yields (.sleepAgents who r) s fun t => result t 1 ∧ t.hw.grid.cmdWait = s.hw.grid.cmdWait ++ [(r.val, 1)] ∧
        pwrOf t.hw q = pwrOf s.hw q) ∧
      (owner → s.hw.grid.fence = none → sleepBusy s.hw q = true → changes (.sleepAgents who r) s (done 5)) ∧
      (owner → s.hw.grid.fence = none → sleepBusy s.hw q = false → yields (.sleepAgents who r) s fun t => result t 1 ∧ pwrOf t.hw q = pwrDraining ∧ sleepLevel t.hw q = 1) ∧
      (who = .kydin → s.hw.grid.fence = none → (fget s.hw F_STR_CFG_ROUTER_SLEEP r.val ≠ 1 ∨ fget s.hw F_STR_STATUS_DETACHED r.val ≠ 0) → changes (.sleepSquare who r) s (done 4)) ∧
      (who = .kydin → s.hw.grid.fence = none → fget s.hw F_STR_CFG_ROUTER_SLEEP r.val = 1 → fget s.hw F_STR_STATUS_DETACHED r.val = 0 → sleepBusy s.hw q = false →
        yields (.sleepSquare who r) s fun t =>
        result t 1 ∧ pwrOf t.hw q = pwrDraining ∧ sleepLevel t.hw q = 2) ∧
      (owner → yields (.strWake who r) s fun t => fget t.hw F_STR_CMD_RESULT r.val = 2 ∧
        (pwrOf s.hw q = pwrOn ∨ pwrOf s.hw q = pwrWaking → pwrOf t.hw q = pwrOf s.hw q) ∧ (pwrOf s.hw q = pwrDraining → pwrOf t.hw q = pwrOn) ∧
        (pwrOf s.hw q = pwrAgentsOff ∨ pwrOf s.hw q = pwrSquareOff → pwrOf t.hw q = pwrWaking) ∧
        (pwrOf s.hw q = pwrPastPnr → pwrOf t.hw q = pwrPastPnr ∧ tget 0 t.hw.grid.wakeWait q = 1)) ∧
      (who = .kydin → ∀ e ∈ [(Instr.retire who r, 4), (.retireAll who r, 5), (.restore who r, 6)],
        (s.hw.grid.fence.isSome = true → changes e.1 s (done 5)) ∧
        (s.hw.grid.fence = none → pwrOf s.hw q ≠ pwrOn → yields e.1 s fun t => result t 5 ∧ t.hw.grid.fence = none) ∧
        (s.hw.grid.fence = none → pwrOf s.hw q = pwrOn → yields e.1 s fun t => result t 1 ∧ t.hw.grid.fence = some (r.val, e.2) ∧ fget t.hw F_STR_STATUS_FENCED r.val = 1)))) ∧
  (∀ (q : Fin 80) (s : State), let p := pwrOf s.hw q.val
    let r := routerOf q.val
    (p ≠ pwrDraining → exec (.drainDone q) s = .next s ∧ exec (.drainTimeout q) s = .next s) ∧
    (p = pwrDraining → changes (.drainDone q) s fun h => fset h F_STR_STATUS_PWR 2 r) ∧
    (p = pwrDraining → ∀ c ∈ [Instr.drainTimeout q, .packetWake q], yields c s fun t => pwrOf t.hw q.val = pwrOn ∧
      fget t.hw F_STR_STATUS_ABORTS r = min (fget s.hw F_STR_STATUS_ABORTS r + 1) 65535 ∧
      (tget 0 s.hw.grid.sleepCmd q.val = 1 → fget s.hw F_STR_CMD_RESULT r = 1 → fget t.hw F_STR_CMD_RESULT r = 6)) ∧
    (p = pwrOn ∨ p = pwrWaking → exec (.packetWake q) s = .next s) ∧
    (p = pwrAgentsOff ∨ p = pwrSquareOff → changes (.packetWake q) s fun h => fset h F_STR_STATUS_PWR 5 r) ∧
    (p ≠ pwrPastPnr → exec (.powerOff q) s = .next s) ∧
    (p = pwrPastPnr → yields (.powerOff q) s fun t => (tget 0 s.hw.grid.wakeWait q.val = 1 → pwrOf t.hw q.val = pwrWaking) ∧
      (tget 0 s.hw.grid.wakeWait q.val ≠ 1 → pwrOf t.hw q.val = if sleepLevel s.hw q.val = 2 then pwrSquareOff else pwrAgentsOff) ∧
      (tget 0 s.hw.grid.sleepCmd q.val = 1 → fget s.hw F_STR_CMD_RESULT r = 1 → fget t.hw F_STR_CMD_RESULT r = 2)) ∧
    (p ≠ pwrWaking → exec (.powerUpDone q) s = .next s) ∧
    (p = pwrWaking → s.hw.grid.held = [] → yields (.powerUpDone q) s fun t => pwrOf t.hw q.val = pwrOn ∧
      fget t.hw F_STR_STATUS_WAKES r = min (fget s.hw F_STR_STATUS_WAKES r + 1) 65535 ∧ t.hw.cor = s.hw.cor ∧ t.hw.hom = s.hw.hom ∧
      (∀ c, c / 2 = q.val → fget t.hw F_CORE_STATUS_STATE c =
        if fget s.hw F_CORE_STATUS_STATE c = 2 ∧ corePending s.hw c = true then 1 else fget s.hw F_CORE_STATUS_STATE c) ∧ sameMemory s t) ∧
    (fget s.hw F_STR_CFG_IDLE_US r = 0 → exec (.idleSleep q) s = .next s) ∧
    (fget s.hw F_STR_CFG_IDLE_US r ≠ 0 → (∀ c ∈ [2 * q.val, 2 * q.val + 1], fget s.hw F_CORE_STATUS_STATE c = 2 ∧ corePending s.hw c = false) →
      sleepBusy s.hw q.val = false → s.hw.grid.fence = none → yields (.idleSleep q) s fun t => pwrOf t.hw q.val = pwrDraining ∧ sleepLevel t.hw q.val = 1)) ∧
  (∀ s : State, s.hw.grid.fence = none → exec .fenceDrainDone s = .next s ∧ exec .fenceDrainTimeout s = .next s) ∧
  (∀ (r q code : Nat) (s : State), s.hw.grid.fence = some (r, code) → squareOf r = some q → r < 160 → s.hw.grid.held = [] → s.hw.grid.cmdWait = [] → s.hw.kyd.retireRun = none →
    4 ≤ code → code ≤ 6 →
    (yields .fenceDrainTimeout s fun t => t.hw.grid.fence = none ∧ fget t.hw F_STR_STATUS_FENCED r = 0 ∧ fget t.hw F_STR_STATUS_DETACHED r = fget s.hw F_STR_STATUS_DETACHED r ∧
      (fget s.hw F_STR_CMD_RESULT r = 1 → fget t.hw F_STR_CMD_RESULT r = 5)) ∧
    (yields .fenceDrainDone s fun t => t.hw.grid.fence = none ∧ fget t.hw F_STR_STATUS_FENCED r = 0 ∧ (fget s.hw F_STR_CMD_RESULT r = 1 → fget t.hw F_STR_CMD_RESULT r = 2) ∧
      (∀ x, x < 160 → fget t.hw F_STR_STATUS_HOLDING x ≠ 1) ∧
      (code = 6 → fget t.hw F_STR_STATUS_DETACHED r = 0 ∧ ∀ c, c / 2 = q →
        fget t.hw F_CORE_STATUS_STATE c = if fget s.hw F_STR_STATUS_DETACHED r = 0 then fget s.hw F_CORE_STATUS_STATE c else 0) ∧
      (code ≠ 6 → fget t.hw F_STR_STATUS_DETACHED r = max (code - 3) (fget s.hw F_STR_STATUS_DETACHED r) % 4 ∧
        ∀ c, c / 2 = q → fget t.hw F_CORE_STATUS_STATE c = 3 ∧ ∀ i, i < 3 → tget [] t.hw.ints.queue (4 * c + i) = []))) ∧
  (∀ (r code : Nat) (s : State), s.hw.grid.fence = some (r, code) → s.hw.grid.held = [] → s.hw.grid.cmdWait = [] → s.hw.kyd.retireRun = none →
    code = 7 ∨ code = 8 → yields .fenceDrainDone s fun t => t.hw.grid.fence = none ∧ fget t.hw F_STR_CFG_ROUTER_SLEEP r = if code = 7 then 1 else 0) ∧
  (∀ (who : Requester) (r : Fin 160) (s : State), yields (.sleepAgents who r) s fun t =>
    { t.hw with regs := s.hw.regs, grid := s.hw.grid, kyd := s.hw.kyd, busErr := s.hw.busErr } = s.hw ∧
    onlyFields s.hw t.hw [F_KYD_ELOG_SEQ_NEXT, F_STR_CMD_RESULT, F_STR_CMD_SEQ, F_STR_STATUS_PWR] ∧
    sameMemory s t) ∧
  (∀ (who : Requester) (r : Fin 160) (s : State), yields (.sleepSquare who r) s fun t =>
    { t.hw with regs := s.hw.regs, grid := s.hw.grid, kyd := s.hw.kyd, busErr := s.hw.busErr } = s.hw ∧
    onlyFields s.hw t.hw [F_KYD_ELOG_SEQ_NEXT, F_STR_CMD_RESULT, F_STR_CMD_SEQ, F_STR_STATUS_PWR] ∧
    sameMemory s t) ∧
  (∀ (who : Requester) (r : Fin 160) (s : State), yields (.strWake who r) s fun t =>
    { t.hw with regs := s.hw.regs, grid := s.hw.grid, kyd := s.hw.kyd, freeCtr := s.hw.freeCtr, busErr := s.hw.busErr } = s.hw ∧
    onlyFields s.hw t.hw [F_KYD_ELOG_SEQ_NEXT, F_PART_PWR_REQ_RESULT, F_STR_CMD_RESULT, F_STR_CMD_SEQ, F_STR_PROBE_CNT_COUNT,
      F_STR_PROBE_CTL_DROPS, F_STR_STATUS_ABORTS, F_STR_STATUS_DETACHED_DROPS, F_STR_STATUS_HOLDING, F_STR_STATUS_PWR] ∧
    sameMemory s t) ∧
  (∀ (sq : Fin 80) (s : State), yields (.idleSleep sq) s fun t =>
    { t.hw with regs := s.hw.regs, grid := s.hw.grid } = s.hw ∧
    onlyFields s.hw t.hw [F_STR_STATUS_PWR] ∧
    sameMemory s t) ∧
  (∀ (sq : Fin 80) (s : State), yields (.drainDone sq) s fun t =>
    { t.hw with regs := s.hw.regs } = s.hw ∧
    onlyFields s.hw t.hw [F_STR_STATUS_PWR] ∧
    sameMemory s t) ∧
  (∀ (sq : Fin 80) (s : State), yields (.drainTimeout sq) s fun t =>
    { t.hw with regs := s.hw.regs, grid := s.hw.grid, freeCtr := s.hw.freeCtr, busErr := s.hw.busErr } = s.hw ∧
    onlyFields s.hw t.hw [F_PART_PWR_REQ_RESULT, F_STR_CMD_RESULT, F_STR_PROBE_CNT_COUNT, F_STR_PROBE_CTL_DROPS, F_STR_STATUS_ABORTS,
      F_STR_STATUS_DETACHED_DROPS, F_STR_STATUS_HOLDING, F_STR_STATUS_PWR] ∧
    sameMemory s t) ∧
  (∀ (sq : Fin 80) (s : State), yields (.powerOff sq) s fun t =>
    { t.hw with regs := s.hw.regs, grid := s.hw.grid, freeCtr := s.hw.freeCtr, busErr := s.hw.busErr } = s.hw ∧
    onlyFields s.hw t.hw [F_PART_PWR_REQ_RESULT, F_STR_CMD_RESULT, F_STR_PROBE_CNT_COUNT, F_STR_PROBE_CTL_DROPS, F_STR_STATUS_ABORTS,
      F_STR_STATUS_DETACHED_DROPS, F_STR_STATUS_HOLDING, F_STR_STATUS_PWR] ∧
    sameMemory s t) ∧
  (∀ (sq : Fin 80) (s : State), yields (.packetWake sq) s fun t =>
    { t.hw with regs := s.hw.regs, grid := s.hw.grid, freeCtr := s.hw.freeCtr, busErr := s.hw.busErr } = s.hw ∧
    onlyFields s.hw t.hw [F_PART_PWR_REQ_RESULT, F_STR_CMD_RESULT, F_STR_PROBE_CNT_COUNT, F_STR_PROBE_CTL_DROPS, F_STR_STATUS_ABORTS,
      F_STR_STATUS_DETACHED_DROPS, F_STR_STATUS_HOLDING, F_STR_STATUS_PWR] ∧
    sameMemory s t) ∧
  (∀ (who : Requester) (r : Fin 160) (s : State), yields (.retire who r) s fun t =>
    { t.hw with regs := s.hw.regs, grid := s.hw.grid, kyd := s.hw.kyd, freeCtr := s.hw.freeCtr, busErr := s.hw.busErr } = s.hw ∧
    onlyFields s.hw t.hw [F_KYD_ELOG_SEQ_NEXT, F_PART_PWR_REQ_RESULT, F_STR_CMD_RESULT, F_STR_CMD_SEQ, F_STR_PROBE_CNT_COUNT,
      F_STR_PROBE_CTL_DROPS, F_STR_STATUS_ABORTS, F_STR_STATUS_DETACHED_DROPS, F_STR_STATUS_FENCED, F_STR_STATUS_HOLDING, F_STR_STATUS_PWR] ∧
    sameMemory s t) ∧
  (∀ (who : Requester) (r : Fin 160) (s : State), yields (.retireAll who r) s fun t =>
    { t.hw with regs := s.hw.regs, grid := s.hw.grid, kyd := s.hw.kyd, freeCtr := s.hw.freeCtr, busErr := s.hw.busErr } = s.hw ∧
    onlyFields s.hw t.hw [F_KYD_ELOG_SEQ_NEXT, F_PART_PWR_REQ_RESULT, F_STR_CMD_RESULT, F_STR_CMD_SEQ, F_STR_PROBE_CNT_COUNT,
      F_STR_PROBE_CTL_DROPS, F_STR_STATUS_ABORTS, F_STR_STATUS_DETACHED_DROPS, F_STR_STATUS_FENCED, F_STR_STATUS_HOLDING, F_STR_STATUS_PWR] ∧
    sameMemory s t) ∧
  (∀ (who : Requester) (r : Fin 160) (s : State), yields (.restore who r) s fun t =>
    { t.hw with regs := s.hw.regs, grid := s.hw.grid, kyd := s.hw.kyd, freeCtr := s.hw.freeCtr, busErr := s.hw.busErr } = s.hw ∧
    onlyFields s.hw t.hw [F_KYD_ELOG_SEQ_NEXT, F_PART_PWR_REQ_RESULT, F_STR_CMD_RESULT, F_STR_CMD_SEQ, F_STR_PROBE_CNT_COUNT,
      F_STR_PROBE_CTL_DROPS, F_STR_STATUS_ABORTS, F_STR_STATUS_DETACHED_DROPS, F_STR_STATUS_FENCED, F_STR_STATUS_HOLDING, F_STR_STATUS_PWR] ∧
    sameMemory s t) ∧
  (∀ (sq : Fin 80) (s : State), yields (.powerUpDone sq) s fun t =>
    { t.hw with regs := s.hw.regs, grid := s.hw.grid, freeCtr := s.hw.freeCtr, busErr := s.hw.busErr } = s.hw ∧
    sameMemory s t) ∧
  (∀ (s : State), yields .fenceDrainDone s fun t =>
    { t.hw with regs := s.hw.regs, sup := s.hw.sup, qu := s.hw.qu, hom := s.hw.hom, grid := s.hw.grid, ints := s.hw.ints, kyd := s.hw.kyd, freeCtr := s.hw.freeCtr, busErr := s.hw.busErr, lastResult := s.hw.lastResult } = s.hw ∧
    t.pending = s.pending) ∧
  (∀ (s : State), yields .fenceDrainTimeout s fun t =>
    { t.hw with regs := s.hw.regs, sup := s.hw.sup, qu := s.hw.qu, hom := s.hw.hom, grid := s.hw.grid, ints := s.hw.ints, kyd := s.hw.kyd, freeCtr := s.hw.freeCtr, busErr := s.hw.busErr, lastResult := s.hw.lastResult } = s.hw ∧
    t.pending = s.pending)

/-- PART_PWR_REQ is refused, refused as secure, or changes one unit; a window recounts the gates; a quota takes its LIMIT. For every
accepted PART_PWR_REQ: a unit that the partition does not own is REFUSED; a normal-world SLEEP of a unit of the secure world ends
REFUSED_SECURE, is counted in SEC_REFUSALS and changes no unit. Otherwise a square drains as by STR_CMD, a gate stops in M3 and M5
only, with its lanes DOWN, an engine without jobs sleeps, and WAKE wakes the unit. At the start of a bandwidth window, to which
module time goes on, every gate's count becomes its count less the budget max(1, LIMIT / G) of each window since the last accounted,
or 0; FRAG_WAITS counts the gates that were held, the OVER bit of KIND 3 follows, and the LIMIT of the new window is the one the
register holds. A quota write that breaks a sum of R116 changes nothing; another sets LIMIT, no other quota, and the OVER bit of its
KIND where use lies above it. (R448, R449, R450, R452, R453, R454, R465) -/
def Obligations.PowerRequestsWindowsAndQuotas : Prop :=
  (∀ (who : Requester) (p : Fin 8) (kind : BitVec 4) (u : BitVec 8) (s : State), accepts s who R_PART_PWR_REQ 0 p.val →
    let owned := ownsUnit s.hw p.val kind.toNat u.toNat = true
    let secured := who ≠ .kydin ∧ isSecureOf s.hw who p.val = false ∧ ownerWorld s.hw kind.toNat u.toNat = true
    let done := fun (code : Nat) (h : Hw) => answer (setBusErr h false) F_PART_PWR_REQ_RESULT F_PART_PWR_REQ_SEQ code 0 p.val
    let result := fun (t : State) (code : Nat) => fget t.hw F_PART_PWR_REQ_RESULT 0 p.val = code ∧
      fget t.hw F_PART_PWR_REQ_SEQ 0 p.val = (fget s.hw F_PART_PWR_REQ_SEQ 0 p.val + 1) % 256
    (¬ owned → changes (.pwrSleep who p kind u) s (done 4) ∧ changes (.pwrWake who p kind u) s (done 4)) ∧
    (owned → secured → yields (.pwrSleep who p kind u) s fun t => result t 7 ∧
      fget t.hw F_PART_STATUS_SEC_REFUSALS 0 p.val = min (fget s.hw F_PART_STATUS_SEC_REFUSALS 0 p.val + 1) 65535 ∧
      { t.hw with regs := s.hw.regs, kyd := s.hw.kyd, busErr := s.hw.busErr } = s.hw ∧
      onlyFields s.hw t.hw [F_PART_PWR_REQ_RESULT, F_PART_PWR_REQ_SEQ, F_PART_STATUS_SEC_REFUSALS, F_KYD_ELOG_SEQ_NEXT]) ∧
    (owned → ¬ secured → kind = 1 → s.hw.grid.fence = none → sleepBusy s.hw u.toNat = true → changes (.pwrSleep who p kind u) s (done 5)) ∧
    (owned → ¬ secured → kind = 1 → s.hw.grid.fence = none → sleepBusy s.hw u.toNat = false → yields (.pwrSleep who p kind u) s fun t =>
      result t 1 ∧ pwrOf t.hw u.toNat = pwrDraining ∧ sleepLevel t.hw u.toNat = 1) ∧
    (owned → ¬ secured → kind = 2 → modeNow s.hw ≠ 3 → modeNow s.hw ≠ 5 → changes (.pwrSleep who p kind u) s (done 4)) ∧
    (owned → ¬ secured → kind = 2 → modeNow s.hw = 3 ∨ modeNow s.hw = 5 → yields (.pwrSleep who p kind u) s fun t =>
      result t 2 ∧ bit t.hw.par.gateSlept u.toNat = true ∧ ∀ k, k < 16 → laneState t.hw u.toNat k = 0) ∧
    (owned → ¬ secured → kind = 3 → (engineOf s.hw u.toNat).jobs = [] → changes (.pwrSleep who p kind u) s fun h =>
      done 2 { h with par := { h.par with engSlept := setBit h.par.engSlept u.toNat true } }) ∧
    (owned → kind = 1 → yields (.pwrWake who p kind u) s fun t => fget t.hw F_PART_PWR_REQ_RESULT 0 p.val = 2 ∧
      (pwrOf s.hw u.toNat = pwrDraining → pwrOf t.hw u.toNat = pwrOn) ∧
      (pwrOf s.hw u.toNat = pwrAgentsOff ∨ pwrOf s.hw u.toNat = pwrSquareOff → pwrOf t.hw u.toNat = pwrWaking)) ∧
    (owned → kind = 2 → yields (.pwrWake who p kind u) s fun t => fget t.hw F_PART_PWR_REQ_RESULT 0 p.val = 2 ∧ bit t.hw.par.gateSlept u.toNat = false ∧
      (bit s.hw.par.gateSlept u.toNat = true → ∀ k ∈ usedLanes s.hw u.toNat, laneState t.hw u.toNat k = 1)) ∧
    (owned → kind = 3 → yields (.pwrWake who p kind u) s fun t => fget t.hw F_PART_PWR_REQ_RESULT 0 p.val = 2 ∧ bit t.hw.par.engSlept u.toNat = false)) ∧
  (∀ s : State, (∀ p p' g, p < 8 → p' < 8 → g < 64 → bit (partOf s.hw p).gates g = true → bit (partOf s.hw p').gates g = true → p = p') →
    aveQuiet s.hw = true → yields .bandwidthWindow s fun t =>
    let start := if s.hw.now % 102400 = 0 ∧ s.hw.par.windowAt ≠ s.hw.now / 102400 then s.hw.now else (s.hw.now / 102400 + 1) * 102400
    let n := start / 102400 - s.hw.par.windowAt
    t.hw.now = start ∧ t.hw.par.windowAt = start / 102400 ∧ ∀ p, p < 8 →
      let limit := tget 0 s.hw.par.nextLimit p
      let gates := onesOf 64 (partOf s.hw p).gates
      let held := (gates.filter fun g => tget 0 s.hw.par.heldGate g == 1).length
      tget 0 t.hw.par.nextLimit p = quotaOf s.hw p 3 ∧
      fget t.hw F_PART_QUOTA_STATUS_FRAG_WAITS 0 p = min (fget s.hw F_PART_QUOTA_STATUS_FRAG_WAITS 0 p + held) (2 ^ 32 - 1) ∧
      bit (fget t.hw F_PART_QUOTA_STATUS_OVER 0 p) 2 = (held != 0) ∧
      ∀ g ∈ gates, tget 0 t.hw.par.heldGate g = 0 ∧
        (limit = 0 ∨ (1 < n ∧ quotaOf s.hw p 3 = 0) → tget 0 t.hw.par.budget g = 0) ∧
        (limit ≠ 0 → n ≤ 1 ∨ quotaOf s.hw p 3 ≠ 0 → tget 0 t.hw.par.budget g =
          tget 0 s.hw.par.budget g - max 1 (limit / gates.length) - (n - 1) * max 1 (quotaOf s.hw p 3 / gates.length))) ∧
  (∀ (who : Requester) (p : Fin 8) (kind : Fin 5) (limit : BitVec 40) (s : State), accepts s who R_PART_QUOTA 0 (8 * p.val + kind.val) →
    let fits := quotaFits s.hw p.val (kind.val + 1) limit.toNat = true
    (¬ fits → changes (.quotaWrite who p kind limit) s fun h => setBusErr h false) ∧
    (fits → yields (.quotaWrite who p kind limit) s fun t => quotaOf t.hw p.val (kind.val + 1) = limit.toNat ∧
      (∀ x, x < 65536 → x ≠ 8 * p.val + kind.val → fget t.hw F_PART_QUOTA_LIMIT 0 x = fget s.hw F_PART_QUOTA_LIMIT 0 x) ∧
      (kind.val = 0 → bit (fget t.hw F_PART_QUOTA_STATUS_OVER 0 p.val) 0 = decide (limit.toNat < (entriesOf s.hw p.val).length)) ∧
      (kind.val = 4 → bit (fget t.hw F_PART_QUOTA_STATUS_OVER 0 p.val) 4 = decide (limit.toNat < partReads s.hw p.val)))) ∧
  (∀ (who : Requester) (p : Fin 8) (kind : BitVec 4) (u : BitVec 8) (s : State), yields (.pwrSleep who p kind u) s fun t =>
    { t.hw with regs := s.hw.regs, lan := s.hw.lan, grid := s.hw.grid, par := s.hw.par, blvd := s.hw.blvd, ints := s.hw.ints, kyd := s.hw.kyd, busErr := s.hw.busErr } = s.hw ∧
    onlyFields s.hw t.hw [F_BLVD_BUNDLE_DOWNS, F_BLVD_BUNDLE_STATE, F_BLVD_BUNDLE_WR_LOST, F_BLVD_NBR_VALID, F_GATE_DL_CMD_RESULT,
      F_GATE_STATUS_LANES_READY, F_INT_SRC_STATE_EVENTS, F_INT_SRC_STATE_PENDING, F_KYD_ELOG_SEQ_NEXT, F_LANE_ERR_HDR_ERR, F_LANE_STATUS_STATE,
      F_PART_PWR_REQ_RESULT, F_PART_PWR_REQ_SEQ, F_PART_STATUS_SEC_REFUSALS, F_STR_STATUS_PWR] ∧
    sameMemory s t) ∧
  (∀ (who : Requester) (p : Fin 8) (kind : BitVec 4) (u : BitVec 8) (s : State), yields (.pwrWake who p kind u) s fun t =>
    { t.hw with regs := s.hw.regs, lan := s.hw.lan, grid := s.hw.grid, par := s.hw.par, kyd := s.hw.kyd, freeCtr := s.hw.freeCtr, busErr := s.hw.busErr } = s.hw ∧
    onlyFields s.hw t.hw [F_BLVD_BUNDLE_STATE, F_KYD_ELOG_SEQ_NEXT, F_LANE_STATUS_STATE, F_PART_PWR_REQ_RESULT, F_PART_PWR_REQ_SEQ, F_STR_CMD_RESULT,
      F_STR_PROBE_CNT_COUNT, F_STR_PROBE_CTL_DROPS, F_STR_STATUS_ABORTS, F_STR_STATUS_DETACHED_DROPS, F_STR_STATUS_HOLDING, F_STR_STATUS_PWR] ∧
    sameMemory s t) ∧
  (∀ (s : State), aveQuiet s.hw = true → yields .bandwidthWindow s fun t =>
    { t.hw with regs := s.hw.regs, par := s.hw.par, ints := s.hw.ints, now := s.hw.now, freeCtr := s.hw.freeCtr } = s.hw ∧
    onlyFields s.hw t.hw [F_ENG_PMU_CNT_COUNT, F_ENG_PMU_CTL_OVF, F_GATE_PMU_CNT_COUNT, F_GATE_PMU_CTL_OVF, F_INT_SRC_STATE_EVENTS,
      F_INT_SRC_STATE_PENDING, F_KYD_RTC_FRACTION, F_KYD_RTC_SECONDS, F_PART_QUOTA_STATUS_FRAG_WAITS, F_PART_QUOTA_STATUS_OVER,
      F_QMC_CHERR_CE_WINDOW, F_QMC_PMU_CNT_COUNT, F_QMC_PMU_CTL_OVF, F_RBT_PMU_CNT_COUNT, F_RBT_PMU_CTL_OVF] ∧
    sameMemory s t) ∧
  (∀ (who : Requester) (p : Fin 8) (kind : Fin 5) (limit : BitVec 40) (s : State), yields (.quotaWrite who p kind limit) s fun t =>
    { t.hw with regs := s.hw.regs, ints := s.hw.ints, kyd := s.hw.kyd, busErr := s.hw.busErr } = s.hw ∧
    onlyFields s.hw t.hw [F_INT_SRC_STATE_EVENTS, F_INT_SRC_STATE_PENDING, F_KYD_ELOG_SEQ_NEXT, F_PART_QUOTA_LIMIT, F_PART_QUOTA_STATUS_OVER,
      F_RBT_PART_USE_ONCHIP_USED, F_RBT_PART_USE_OPEN, F_RBT_PART_USE_OPEN_OVER, F_RBT_PART_USE_OVF_OVER, F_RBT_PART_USE_OVF_USED,
      F_RBT_STATUS_ONCHIP_USED, F_RBT_STATUS_OPEN_USED] ∧
    sameMemory s t)

/-- Each service of the trusted side answers its port with the STATUS, output and VALUE of its rule, and a hang restarts or fails
it. A port takes one request: BUSY while one is pending, UNAVAILABLE while the trusted side does not run. A service that the request
does not name reads the request block and does nothing else. A request ends with STATUS written last, the port DONE and its source
raised: BAD_REQUEST for a length, argument or reserved field out of range, REFUSED, BAD_KEY, AUTH_FAIL or OUT_SHORT as its rule
says, without output; else OK with the output at OUT_ADDR: sealed blobs and their data, keys in the lowest free slot, signatures,
the quote, the certificate, and the effects of EXTEND, QUOTA_SET and RECLAIM_SP. What was sealed opens under the same key. A hang
ends the pending request UNAVAILABLE, loses every key, measures and restarts H2; the third within a second makes it FAILED. (R454,
R455, R456, R457, R458, R459, R460, R461, R462, R463, R464, R561) -/
def Obligations.TrustedServiceAnswersItsPorts : Prop :=
  (∀ (who : Requester) (n : Fin 16) (addr : BitVec 52) (s : State), accepts s who R_TS_PORT 0 n.val →
    let port := fun (code : Nat) (h : Hw) => answer (setBusErr h false) F_TS_PORT_RESULT F_TS_PORT_SEQ code 0 n.val
    let a := addr.toNat / 64 * 64
    let pend := tsBlock s.hw n.val
    (pend.isSome = true → changes (.tsRequest who n addr) s (port 3)) ∧
    (pend = none → tsRuns s.hw = false → changes (.tsRequest who n addr) s (port 4)) ∧
    (∀ b h, pend = none → tsRuns s.hw = true →
      readsTo (port 1 { s.hw with par := { s.hw.par with tsReq := tins s.hw.par.tsReq n.val (addr.toNat / 64) } }) s.mem (tsAsker n.val) a 64 b h →
      (num b 0 2 ∈ [1, 2, 3, 4, 5, 0x101, 0x102, 0x103, 0x104, 0x105] → changes (.tsRequest who n addr) s (fun _ => h) ∧
        tsBlock h n.val = some a ∧ fget h F_TS_PORT_RESULT 0 n.val = 1) ∧
      (num b 0 2 ∉ [1, 2, 3, 4, 5, 0x101, 0x102, 0x103, 0x104, 0x105] → yields (.tsRequest who n addr) s fun t => tsEnds s t n.val a 4 none true))) ∧
  (∀ (n : Fin 16) (s : State), ∀ c ∈ [(Instr.seal n, 1), (.unseal n, 2), (.keyGen n, 3), (.keySign n, 4), (.keyDel n, 5), (.attest n, 0x101), (.extend n, 0x102), (.cert n, 0x103),
      (.quotaSet n, 0x104), (.reclaimSp n, 0x105)],
    (tsBlock s.hw n.val = none ∨ tsRuns s.hw = false → exec c.1 s = .next s) ∧
    ∀ a b h, tsBlock s.hw n.val = some a → tsRuns s.hw = true → readsTo s.hw s.mem (tsAsker n.val) a 64 b h →
      (num b 0 2 ≠ c.2 → changes c.1 s fun _ => h) ∧
      (num b 0 2 = c.2 → num b 2 2 ≠ 0 ∨ 65616 < num b 4 4 → yields c.1 s fun t => tsEnds s t n.val a 4 none true)) ∧
  (∀ (n : Fin 16) (a : Nat) (b inp : List Byte) (s : State) (h : Hw),
    let arg := num b 0x1C 4
    let room := num b 0x18 4
    let may := fun (l : Nat) => l ≤ room ∧ writable s (tsAsker n.val) (num b 0x10 8) l
    let ends := fun (c : Instr) (st : Nat) => yields c s fun t => tsEnds s t n.val a st none true ∧ t.hw.par.keys = s.hw.par.keys ∧ t.hw.par.pm = s.hw.par.pm
    let done := fun (t : State) (out : List Byte) (v : Option Nat) => tsDone s h t n.val a b out v
    let open' := s.hw.kyd.secretOff = false
    let notOk := fun (c : Instr) => yields c s fun t => ∃ st, st ≠ 1 ∧ st < 256 ∧ tsEnds s t n.val a st none true
    let svn := s.hw.boot.fuseSvn
    let key := fun (bind v : Nat) => Config.deviceKey ([n.val / 2, n.val % 2, bind, v].flatMap (leBytes 1) ++
      if bind = 1 then s.hw.boot.chain.getLastD [] else if bind = 2 then pmOf s.hw (n.val / 2) else [])
    let bad := inp.take 5 ≠ [0x4F, 0x4D, 0x56, 0x53, 1] ∨ 2 < num inp 5 1 ∨ num inp 9 3 ≠ 0 ∨ num inp 0x1C 36 ≠ 0 ∨ inp.length < 80 ∨ inp.length ≠ 80 + num inp 0x0C 4
    let box := Config.gcmOpen (key (num inp 5 1) (num inp 8 1)) (sub inp 0x10 12) (inp.take 64) (inp.drop 64)
    (asks s n.val 1 a b inp h →
      (inp.length = 0 ∨ 65536 < inp.length ∨ 2 < arg → ends (.seal n) 4) ∧
      (0 < inp.length → inp.length ≤ 65536 → arg ≤ 2 →
        (s.hw.kyd.secretOff = true → notOk (.seal n)) ∧ (open' → room < 80 + inp.length → ends (.seal n) 8) ∧
        (open' → may (80 + inp.length) → yields (.seal n) s fun t => ∃ iv : List Byte, iv.length = 12 ∧
          let hdr : List Byte := [0x4F, 0x4D, 0x56, 0x53, 1] ++ leBytes 1 arg ++ leBytes 1 (n.val / 2) ++ leBytes 1 (n.val % 2) ++ leBytes 1 svn ++ zeros 3 ++
            leBytes 4 inp.length ++ iv ++ zeros 36
          done t (hdr ++ Config.gcmSeal (key arg svn) iv hdr inp) none))) ∧
    (asks s n.val 2 a b inp h →
      (bad → ends (.unseal n) 4) ∧ (¬ bad → svn < num inp 8 1 → ends (.unseal n) 3) ∧
      (¬ bad → num inp 8 1 ≤ svn → open' → box = none → ends (.unseal n) 6) ∧
      (∀ d, ¬ bad → num inp 8 1 ≤ svn → open' → box = some d → may d.length → yields (.unseal n) s fun t => done t d none)) ∧
    (asks s n.val 3 a b inp h →
      (inp ≠ [] → ends (.keyGen n) 4) ∧
      (inp = [] → (∀ i, i < 32 → ∃ k ∈ s.hw.par.keys, k.port = n.val ∧ k.slot = i) → ends (.keyGen n) 3) ∧
      (∀ i, inp = [] → i < 32 → (∀ k ∈ s.hw.par.keys, k.port = n.val → k.slot ≠ i) → (∀ j, j < i → ∃ k ∈ s.hw.par.keys, k.port = n.val ∧ k.slot = j) →
        (room < 96 → ends (.keyGen n) 8) ∧
        (may 96 → yields (.keyGen n) s fun t => ∃ key : TsKey, t.hw.par.keys = s.hw.par.keys ++ [key] ∧ key.port = n.val ∧ key.slot = i ∧
          key.gen = s.hw.par.tsGen % 65536 ∧ done t (Config.ecdsaPublic key.secret) (some (n.val * 2 ^ 27 + key.gen * 2 ^ 11 + i))))) ∧
    (asks s n.val 4 a b inp h →
      (inp.length ≠ 48 → ends (.keySign n) 4) ∧ (inp.length = 48 → keyOf s.hw n.val arg = none → ends (.keySign n) 5) ∧
      (∀ k, inp.length = 48 → keyOf s.hw n.val arg = some k → may 96 → yields (.keySign n) s fun t => done t (Config.ecdsaSign k.secret inp) none)) ∧
    (asks s n.val 5 a b inp h →
      (inp ≠ [] → ends (.keyDel n) 4) ∧ (inp = [] → keyOf s.hw n.val arg = none → ends (.keyDel n) 5) ∧
      (∀ k, inp = [] → keyOf s.hw n.val arg = some k → yields (.keyDel n) s fun t => done t [] none ∧ t.hw.par.keys = s.hw.par.keys.filter (· ≠ k))) ∧
    (asks s n.val 0x101 a b inp h →
      (inp.length ≠ 48 → ends (.attest n) 4) ∧ (inp.length = 48 → s.hw.kyd.secretOff = true → notOk (.attest n)) ∧
      (inp.length = 48 → open' → s.hw.boot.meas.length = 48 → (pmOf s.hw (n.val / 2)).length = 48 → may 272 → yields (.attest n) s fun t =>
        let q := [0x4F, 0x4D, 0x56, 0x51, 1, 0] ++ leBytes 1 (n.val / 2) ++ leBytes 1 (n.val % 2) ++ leBytes 4 (fget s.hw F_BOOT_STATUS_LOG_COUNT) ++
          leBytes 1 svn ++ leBytes 1 (fget s.hw F_BOOT_STATUS_IMAGE_SVN) ++ leBytes 1 (fget s.hw F_BOOT_STATUS_SLOT) ++ leBytes 1 (fget s.hw F_TS_CONFIG_RESTARTS) ++
          leBytes 8 s.hw.blvd.serial ++ leBytes 2 (fget s.hw F_BLVD_ADDR_ADDR) ++ zeros 6 ++ inp ++ s.hw.boot.meas ++ pmOf s.hw (n.val / 2)
        q.length = 0xB0 ∧ done t (q ++ Config.ecdsaSign Config.attestKey (Config.sha384 q)) none)) ∧
    (asks s n.val 0x102 a b inp h →
      (inp.length ≠ 48 → ends (.extend n) 4) ∧ (inp.length = 48 → n.val % 2 = 0 → ends (.extend n) 3) ∧
      (inp.length = 48 → n.val % 2 = 1 → yields (.extend n) s fun t => done t [] none ∧
        pmOf t.hw (n.val / 2) = Config.sha384 (pmOf s.hw (n.val / 2) ++ inp) ∧ ∀ p, p ≠ n.val / 2 → pmOf t.hw p = pmOf s.hw p)) ∧
    (asks s n.val 0x103 a b inp h →
      (inp ≠ [] → ends (.cert n) 4) ∧
      (inp = [] → open' → may 192 → yields (.cert n) s fun t =>
        done t (Config.ecdsaPublic Config.attestKey ++ Config.makerSignature (Config.ecdsaPublic Config.attestKey)) none)) ∧
    (asks s n.val 0x104 a b inp h → let p := arg % 256
      let k := arg / 256 % 256
      let limit := num inp 0 8
      (isManager s.hw n.val = false → ends (.quotaSet n) 3) ∧
      (isManager s.hw n.val = true → inp.length ≠ 8 ∨ 8 ≤ p ∨ k = 0 ∨ 5 < k ∨ 65536 ≤ arg ∨ 2 ^ 40 ≤ limit → ends (.quotaSet n) 4) ∧
      (isManager s.hw n.val = true → inp.length = 8 → p < 8 → 1 ≤ k → k ≤ 5 → arg < 65536 → limit < 2 ^ 40 →
        (quotaFits s.hw p k limit = false → ends (.quotaSet n) 3) ∧
        (quotaFits s.hw p k limit = true → yields (.quotaSet n) s fun t => done t [] none ∧ quotaOf t.hw p k = limit))) ∧
    (asks s n.val 0x105 a b inp h →
      (isManager s.hw n.val = false → ends (.reclaimSp n) 3) ∧
      (isManager s.hw n.val = true → inp ≠ [] ∨ 8 ≤ arg → ends (.reclaimSp n) 4) ∧
      (isManager s.hw n.val = true → inp = [] → arg < 8 → s.hw.hom.trans = [] → let sp := fun (h : Hw) (k : Nat) => fget h F_LLC_CFG_SP_WAYS k
        (∀ k ∈ coresOf s.hw arg, ownerSquare s.hw (k / 2) = some arg ∧ (waysIn s.hw k 2).length = sp s.hw k ∧ sp s.hw k ≤ 6 ∧ sp s.hw k + (waysIn s.hw k 1).length ≤ 8) →
        yields (.reclaimSp n) s fun t => (∀ k ∈ coresOf s.hw arg, sp t.hw k = min (sp s.hw k) (quotaOf s.hw arg 4)) ∧
          tsEnds s t n.val a 1 (some ((coresOf s.hw arg).filter fun k => decide (quotaOf s.hw arg 4 < sp s.hw k)).length) false))) ∧
  (∀ (key iv aad d : List Byte), Config.gcmOpen key iv aad (Config.gcmSeal key iv aad d) = some d) ∧
  (∀ s : State, (tsRuns s.hw = false → exec .tsWatchdog s = .next s) ∧
    (∀ n : Fin 16, tsRuns s.hw = false ∨ tsBlock s.hw n.val = none → exec (.tsRequestTimeout n) s = .next s)) ∧
  (∀ (n : Fin 16) (x : Nat) (s : State), tsRuns s.hw = true → s.hw.par.tsReq = [(n.val, x)] → ∀ c ∈ [Instr.tsWatchdog, .tsRequestTimeout n], yields c s fun t =>
    let old := s.hw.par.hangs.filter fun t' => decide (gateTime s.hw ≤ t' + second)
    portDone t n.val ∧ t.hw.par.tsReq = [] ∧ t.hw.par.hangs = old ++ [gateTime s.hw] ∧
    (∀ p q qa, placeOf s.hw (64 * x + 0x20) = .dram p q qa → (mayReach s.hw .kydin (64 * x + 0x20) true).1 = true → s.hw.sup.powerFail = false →
      transOf s.hw x = none → dirtyLine s.hw x = none → readsAsStored s q qa → t.mem.byte (dkey q qa) = 2 ∧
      dramOutside s t (dkey q qa) 1) ∧
    (old.length < 2 → t.hw.par.keys = [] ∧ t.hw.par.tsGen = (s.hw.par.tsGen + 1) % 65536 ∧ fget t.hw F_TS_CONFIG_STATE = fget s.hw F_TS_CONFIG_STATE ∧
      fget t.hw F_TS_CONFIG_RESTARTS = min (fget s.hw F_TS_CONFIG_RESTARTS + 1) 255 ∧ (smallOf t.hw coreH2).pc = BitVec.ofNat 32 (tget 0 s.hw.boot.fwEntry 3) ∧
      t.hw.boot.meas = Config.sha384 (s.hw.boot.meas ++ tget [] s.hw.boot.fwChain 3)) ∧
    (2 ≤ old.length → fget t.hw F_TS_CONFIG_STATE = 2 ∧ fget t.hw F_KYD_STATUS_TS_FAILED = 1 ∧ fget t.hw F_INT_SRC_STATE_PENDING 0 srcTsFailed = 1 ∧ tsRuns t.hw = false)) ∧
  (∀ (who : Requester) (n : Fin 16) (addr : BitVec 52) (s : State), yields (.tsRequest who n addr) s fun t =>
    { t.hw with regs := s.hw.regs, qu := s.hw.qu, hom := s.hw.hom, par := s.hw.par, ints := s.hw.ints, kyd := s.hw.kyd, freeCtr := s.hw.freeCtr, busErr := s.hw.busErr, lastResult := s.hw.lastResult } = s.hw ∧
    t.pending = s.pending) ∧
  (∀ (n : Fin 16) (s : State), yields (.seal n) s fun t =>
    { t.hw with regs := s.hw.regs, qu := s.hw.qu, hom := s.hw.hom, par := s.hw.par, ints := s.hw.ints, kyd := s.hw.kyd, freeCtr := s.hw.freeCtr, lastResult := s.hw.lastResult } = s.hw ∧
    t.pending = s.pending) ∧
  (∀ (n : Fin 16) (s : State), yields (.unseal n) s fun t =>
    { t.hw with regs := s.hw.regs, qu := s.hw.qu, hom := s.hw.hom, par := s.hw.par, ints := s.hw.ints, kyd := s.hw.kyd, freeCtr := s.hw.freeCtr, lastResult := s.hw.lastResult } = s.hw ∧
    t.pending = s.pending) ∧
  (∀ (n : Fin 16) (s : State), yields (.keyGen n) s fun t =>
    { t.hw with regs := s.hw.regs, qu := s.hw.qu, hom := s.hw.hom, par := s.hw.par, ints := s.hw.ints, kyd := s.hw.kyd, freeCtr := s.hw.freeCtr, lastResult := s.hw.lastResult } = s.hw ∧
    t.pending = s.pending) ∧
  (∀ (n : Fin 16) (s : State), yields (.keySign n) s fun t =>
    { t.hw with regs := s.hw.regs, qu := s.hw.qu, hom := s.hw.hom, par := s.hw.par, ints := s.hw.ints, kyd := s.hw.kyd, freeCtr := s.hw.freeCtr, lastResult := s.hw.lastResult } = s.hw ∧
    t.pending = s.pending) ∧
  (∀ (n : Fin 16) (s : State), yields (.keyDel n) s fun t =>
    { t.hw with regs := s.hw.regs, qu := s.hw.qu, hom := s.hw.hom, par := s.hw.par, ints := s.hw.ints, kyd := s.hw.kyd, freeCtr := s.hw.freeCtr, lastResult := s.hw.lastResult } = s.hw ∧
    t.pending = s.pending) ∧
  (∀ (n : Fin 16) (s : State), yields (.attest n) s fun t =>
    { t.hw with regs := s.hw.regs, qu := s.hw.qu, hom := s.hw.hom, par := s.hw.par, ints := s.hw.ints, kyd := s.hw.kyd, freeCtr := s.hw.freeCtr, lastResult := s.hw.lastResult } = s.hw ∧
    t.pending = s.pending) ∧
  (∀ (n : Fin 16) (s : State), yields (.extend n) s fun t =>
    { t.hw with regs := s.hw.regs, qu := s.hw.qu, hom := s.hw.hom, par := s.hw.par, ints := s.hw.ints, kyd := s.hw.kyd, freeCtr := s.hw.freeCtr, lastResult := s.hw.lastResult } = s.hw ∧
    t.pending = s.pending) ∧
  (∀ (n : Fin 16) (s : State), yields (.cert n) s fun t =>
    { t.hw with regs := s.hw.regs, qu := s.hw.qu, hom := s.hw.hom, par := s.hw.par, ints := s.hw.ints, kyd := s.hw.kyd, freeCtr := s.hw.freeCtr, lastResult := s.hw.lastResult } = s.hw ∧
    t.pending = s.pending) ∧
  (∀ (n : Fin 16) (s : State), yields (.quotaSet n) s fun t =>
    { t.hw with regs := s.hw.regs, qu := s.hw.qu, hom := s.hw.hom, par := s.hw.par, ints := s.hw.ints, kyd := s.hw.kyd, freeCtr := s.hw.freeCtr, lastResult := s.hw.lastResult } = s.hw ∧
    t.pending = s.pending) ∧
  (∀ (n : Fin 16) (s : State), yields (.reclaimSp n) s fun t =>
    { t.hw with regs := s.hw.regs, qu := s.hw.qu, hom := s.hw.hom, par := s.hw.par, ints := s.hw.ints, kyd := s.hw.kyd, freeCtr := s.hw.freeCtr, lastResult := s.hw.lastResult } = s.hw ∧
    t.pending = s.pending) ∧
  (∀ (s : State), yields .tsWatchdog s fun t =>
    { t.hw with regs := s.hw.regs, sup := s.hw.sup, boot := s.hw.boot, qu := s.hw.qu, cor := s.hw.cor, hom := s.hw.hom, par := s.hw.par, ints := s.hw.ints, kyd := s.hw.kyd, freeCtr := s.hw.freeCtr, lastResult := s.hw.lastResult } = s.hw ∧
    t.pending = s.pending) ∧
  (∀ (n : Fin 16) (s : State), yields (.tsRequestTimeout n) s fun t =>
    { t.hw with regs := s.hw.regs, sup := s.hw.sup, boot := s.hw.boot, qu := s.hw.qu, cor := s.hw.cor, hom := s.hw.hom, par := s.hw.par, ints := s.hw.ints, kyd := s.hw.kyd, freeCtr := s.hw.freeCtr, lastResult := s.hw.lastResult } = s.hw ∧
    t.pending = s.pending)

/-- Host requests go through the active windows, outbound accesses through theirs, reads end once, and the link and resets act on
functions. A commit with an invalid window is INVALID and changes nothing else; a valid one copies the shadow set to the active set,
DISCARD the other way. A read gives the bytes and poison of DRAM below the caches, and a write stores its bytes alone. A memory TLP
to a function that does not decode or has no BARs, that matches no active window, or whose partition refuses it gets Unsupported
Request; else the lowest matching window serves it. Outbound accesses without a target are bus errors; writes leave as TLPs of at
most Max_Payload_Size within 4 KiB, reads leave as one or more such reads, which wait, issue with a free tag inside the limits while
the function may initiate requests; an access answers with its last completion, or at once by a refused one or a timeout, with
poisoned data and the tag in quarantine; an unexpected completion is counted and answers nothing. Configuration requests get Request
Retry before readiness. PERST#, readiness, data link, power states, FLR and fundamental resets change the functions as stated; FLR
keeps the windows, RD_MAX and configuration space, and that of a physical function clears VF Enable; every fundamental reset takes
the link down, a hot one by the model's choice (log 55). (R5, R468, R473, R474, R475, R476, R477, R478, R479, R480, R489, R490) -/
def Obligations.HostReachesMemoryThroughWindows : Prop :=
  (∀ (who : Requester) (fn : Fin 256) (s : State), accepts s who R_HOSTFN_WIN_COMMIT fn.val 0 → let n := fn.val
    let done := fun (code : Nat) (h : Hw) => answer (setBusErr h false) F_HOSTFN_WIN_COMMIT_RESULT F_HOSTFN_WIN_COMMIT_SEQ code n
    let bad := fun (w : Nat) => let size := fget s.hw F_HOSTFN_WIN_MAP_SIZE_4K n w * 4096
      let a := fget s.hw F_HOSTFN_WIN_TGT_TGT_4K n w * 4096
      fget s.hw F_HOSTFN_WIN_MAP_EN n w = 1 ∧ (size = 0 ∨ (dramEnd s.hw < a + size ∧ (a < 0xE000000000 ∨ 0xE000000000 + 2 ^ 27 < a + size)))
    ((∃ w, w < 8 ∧ bad w) → changes (.winCommit who fn) s (done 3)) ∧
    ((∀ w, w < 8 → ¬ bad w) → yields (.winCommit who fn) s fun t => fget t.hw F_HOSTFN_WIN_COMMIT_RESULT n = 2 ∧
      ∀ w, w < 8 → ∀ e ∈ windowFields, fget t.hw e.2 n w = fget s.hw e.1 n w % 2 ^ e.2.width ∧ fget t.hw e.1 n w = fget s.hw e.1 n w) ∧
    yields (.winDiscard who fn) s fun t => fget t.hw F_HOSTFN_WIN_COMMIT_RESULT n = 2 ∧
      ∀ w, w < 8 → ∀ e ∈ windowFields, fget t.hw e.1 n w = fget s.hw e.2 n w % 2 ^ e.1.width ∧ fget t.hw e.2 n w = fget s.hw e.2 n w) ∧
  (∀ (fn : Fin 256) (write ep : Bool) (offset : BitVec 40) (len : Nat) (data : List (BitVec 8)) (s : State), let n := fn.val
    let o := offset.toNat
    let l := if write then data.length else len
    let cmd := fun b => Instr.inboundTlp fn write b offset len data ep
    let lives := fnPresent s.hw n = true ∧ fget s.hw F_HOSTFN_STATUS_MSE n = 1 ∧ fget s.hw F_HOSTFN_STATUS_D3 n ≠ 1 ∧ fget s.hw F_HOSTFN_STATUS_FLR n ≠ 1
    let hits := fun (w : Nat) => let lo := fget s.hw F_HOSTFN_WINA_MAP_OFFSET_4K n w * 4096
      fget s.hw F_HOSTFN_WINA_MAP_EN n w = 1 ∧ lo ≤ o ∧ o + l ≤ lo + fget s.hw F_HOSTFN_WINA_MAP_SIZE_4K n w * 4096 ∧
      fget s.hw (if write then F_HOSTFN_WINA_MAP_WRITE else F_HOSTFN_WINA_MAP_READ) n w = 1
    let ur := fun c => changes c s fun h => unsupported h n write
    (¬ lives ∨ barSize s.hw n false = 0 → ∀ b, ur (cmd b)) ∧
    (lives → barSize s.hw n true < o + l → ur (cmd .bar2)) ∧
    (lives → (∀ w, w < 8 → ¬ hits w) → ur (cmd .bar2)) ∧
    (∀ w p q qa, lives → barSize s.hw n true ≠ 0 → o + l ≤ barSize s.hw n true → w < 8 → hits w → (∀ v, v < w → ¬ hits v) → fget s.hw F_PART_STATUS_STATE 0 (partOfFn n) < 2 →
      let a := fget s.hw F_HOSTFN_WINA_TGT_TGT_4K n w * 4096 + (o - fget s.hw F_HOSTFN_WINA_MAP_OFFSET_4K n w * 4096)
      let as : Asker := { part := some (partOfFn n), secure := fon s.hw F_HOSTFN_WINA_MAP_SECURE n w && hasSecure s.hw (partOfFn n) }
      0 < l → a % 64 + l ≤ 64 → placeOf s.hw a = .dram p q qa → supplier s.hw (a / 64) = none →
      (regionAllows s.hw as q qa = true → partDown s.hw p = false →
        (write = true → ep = false → s.hw.sup.powerFail = false → transOf s.hw (a / 64) = none → (∀ w ∈ s.hw.hom.waiting, w.req.atOnce = true) →
          yields (cmd .bar2) s fun t => t.mem.bytes (dkey q qa) l = data ∧ (readsAsStored s q qa → dramOutside s t (dkey q qa) l) ∧
          onlyFields s.hw t.hw [F_QMC_PMU_CNT_COUNT, F_QMC_PMU_CTL_OVF, F_QMC_UE_UE_COUNT, F_QMC_UE_LINE, F_QMC_UE_POISON_READS,
            F_KYD_ELOG_SEQ_NEXT] ∧
          t.hw.host = s.hw.host) ∧
        (write = false → yields (cmd .bar2) s fun t => let b := backing s.hw s.mem a
          t.hw.host.out = .cpl n (sub b.1 (a % 64) l) true b.2 :: s.hw.host.out ∧ sameMemory s t)) ∧
      (regionAllows s.hw as q qa = false → yields (cmd .bar2) s fun t => sameMemory s t ∧ t.hw.busErr = true ∧
        fget t.hw F_QMC_VIOL_COUNT q = min (fget s.hw F_QMC_VIOL_COUNT q + 1) (2 ^ F_QMC_VIOL_COUNT.width - 1) ∧
        (write = false → t.hw.host.out = .cpl n [] false false :: s.hw.host.out)))) ∧
  (∀ (fn : Fin 256) (offset : BitVec 40) (len : Nat) (data : List (BitVec 8)) (ep : Bool) (s : State), fnPresent s.hw fn.val = true → fget s.hw F_HOSTFN_STATUS_MSE fn.val = 1 →
    fget s.hw F_HOSTFN_STATUS_D3 fn.val ≠ 1 → fget s.hw F_HOSTFN_STATUS_FLR fn.val ≠ 1 → barSize s.hw fn.val false ≠ 0 → 0xA000 ≤ offset.toNat →
    exec (.inboundTlp fn true .bar0 offset len data false) s = .next s ∧ changes (.inboundTlp fn true .bar0 offset len data true) s (fun h => poisonIn h fn.val) ∧
    changes (.inboundTlp fn false .bar0 offset len data ep) s fun h => sendTlp h (.cpl fn.val (zeros len) true false)) ∧
  (∀ (mps k a n : Nat), 0 < mps → n ≤ k → ((tlpPieces mps k a n).map (·.2)).sum = n ∧
    ∀ e ∈ tlpPieces mps k a n, 0 < e.2 ∧ e.2 ≤ mps ∧ e.1 / 4096 = (e.1 + e.2 - 1) / 4096 ∧ a ≤ e.1 ∧ e.1 + e.2 ≤ a + n) ∧
  (∀ (who : Requester) (addr : BitVec 52) (write ep : Bool) (len : Nat) (data : List (BitVec 8)) (s : State), let cmd := Instr.outboundAccess who addr write len data ep
    let err := changes cmd s fun h => setBusErr h true
    (outboundPart s.hw who = none → err) ∧ ((∀ o, placeOf s.hw addr.toNat ≠ .outbound o) → err) ∧
    (∀ o p, placeOf s.hw addr.toNat = .outbound o → outboundPart s.hw who = some p → let k := 32 * p + o % 2 ^ 37 / 2 ^ 32
      let n := fnNumber p (fget s.hw F_HOST_OUT_FUNC 0 k)
      let a := fget s.hw F_HOST_OUT_HOST_4G 0 k * 2 ^ 32 + o % 2 ^ 32
      let attr := 2 * fget s.hw F_HOST_OUT_NOSNOOP 0 k + fget s.hw F_HOST_OUT_RELAXED 0 k
      let serves := fnPresent s.hw n = true ∧ fget s.hw F_HOSTFN_STATUS_D3 n ≠ 1 ∧ fget s.hw F_HOSTFN_STATUS_BME n = 1 ∧ fget s.hw F_HOSTFN_STATUS_QUIESCED n ≠ 1 ∧
        fget s.hw F_HOSTFN_STATUS_QUIESCING n ≠ 1 ∧ fget s.hw F_HOSTFN_STATUS_FLR n ≠ 1
      (o / 2 ^ 37 ≠ p ∨ fget s.hw F_HOST_OUT_EN 0 k ≠ 1 ∨ ¬ serves → err) ∧
      (o / 2 ^ 37 = p → p < 8 → fget s.hw F_HOST_OUT_EN 0 k = 1 → serves →
        (write = true → 0 < len → data.length = len → len ≤ maxPayload s.hw n → a % 4096 + len ≤ 4096 → n < 8 → changes cmd s fun h => sendTlp (setBusErr h false) (.write n a data ep attr)) ∧
        (write = false → let id := s.hw.host.accNext
          let rs := (if len = 0 then [(a, 0)] else tlpPieces (maxRead s.hw n) len a len).map fun e =>
            ({ fn := n, addr := e.1, len := e.2, attr := attr, acc := id, off := e.1 - a, total := len } : HostRead)
          yields cmd s fun t => t.hw.busErr = false ∧ t.hw.host.accNext = id + 1 ∧ t.hw.host.out = s.hw.host.out ∧ t.hw.host.reads = s.hw.host.reads ∧
            fnOf t.hw n = { fnOf s.hw n with readWait := (fnOf s.hw n).readWait ++ rs } ∧
            ∀ m, m ≠ n → fnOf t.hw m = fnOf s.hw m)))) ∧
  (∀ (fn : Fin 256) (s : State), let n := fn.val
    let free := fun (t : Nat) => t < tagLimit s.hw n ∧ (∀ r ∈ s.hw.host.reads, r.tag ≠ t) ∧ t ∉ s.hw.host.quarantine
    let mine := (s.hw.host.reads.filter (·.fn == n)).length
    let room := fget s.hw F_HOSTFN_STATUS_BME n = 1 ∧ fget s.hw F_HOSTFN_STATUS_D3 n ≠ 1 ∧ mine < fget s.hw F_HOSTFN_CFG_RD_MAX n ∧ partReads s.hw (partOfFn n) < quotaOf s.hw (partOfFn n) 5 ∧ s.hw.host.reads.length < 512
    ((fnOf s.hw n).readWait = [] ∨ ¬ room ∨ (∀ t, ¬ free t) → exec (.outboundReadIssue fn) s = .next s) ∧
    (∀ r rest t, (fnOf s.hw n).readWait = r :: rest → r.fn = n → room → free t → (∀ u, u < t → ¬ free u) → yields (.outboundReadIssue fn) s fun u =>
      u.hw.host.reads = s.hw.host.reads ++ [{ r with tag := t }] ∧ u.hw.host.out = .read n r.addr r.len t r.attr :: s.hw.host.out ∧ (fnOf u.hw n).readWait = rest ∧
      fget u.hw F_HOSTFN_STATUS_RD_OUT n = (mine + 1) % 1024)) ∧
  (∀ (tag : BitVec 10) (status : CplStatus) (data : List (BitVec 8)) (ep : Bool) (s : State), let x := tag.toNat
    ((∀ r ∈ s.hw.host.reads, r.tag ≠ x) → exec (.completionTimeout tag) s = .next s ∧ yields (.completionTlp tag status data ep) s fun t =>
      fget t.hw F_HOST_ERR_UNEXP_CPL = min (fget s.hw F_HOST_ERR_UNEXP_CPL + 1) 65535 ∧ t.hw.lastResult = s.hw.lastResult ∧ t.hw.busErr = s.hw.busErr ∧ t.hw.host.reads = s.hw.host.reads) ∧
    (∀ r, s.hw.host.reads.find? (·.tag == x) = some r → let others := (s.hw.host.reads.filter (·.tag ≠ x)) ++ (fnOf s.hw r.fn).readWait
      let left := fun (t : State) => t.hw.host.reads.map (·.tag) = (s.hw.host.reads.filter (·.tag ≠ x)).map (·.tag)
      let ended := fun (t : State) => left t ∧ (∀ e ∈ t.hw.host.reads ++ (fnOf t.hw r.fn).readWait, e.acc ≠ r.acc) ∧ ∀ e ∈ t.hw.host.got, e.acc ≠ r.acc
      (yields (.completionTlp tag .ok data ep) s fun t => left t ∧
        fget t.hw F_HOST_ERR_POISON_IN = (if ep then min (fget s.hw F_HOST_ERR_POISON_IN + 1) 65535 else fget s.hw F_HOST_ERR_POISON_IN) ∧
        (r.acc = 0 ∨ (∃ e ∈ others, e.acc = r.acc) → t.hw.lastResult = s.hw.lastResult ∧ t.hw.busErr = s.hw.busErr) ∧
        (r.acc ≠ 0 → (∃ e ∈ others, e.acc = r.acc) → t.hw.host.got = s.hw.host.got ++ [{ acc := r.acc, off := r.off, data := data.take r.len, ep := ep }]) ∧
        (r.acc ≠ 0 → (∀ e ∈ others, e.acc ≠ r.acc) → let parts := s.hw.host.got.filter (·.acc == r.acc)
          ended t ∧ t.hw.busErr = false ∧ t.hw.lastPoison = (parts.any (·.ep) || ep) ∧ (r.off = 0 → r.len = r.total → t.hw.lastResult = data.take r.len) ∧
          (¬ (r.off = 0 ∧ r.len = r.total) →
            t.hw.lastResult = patch (parts.foldl (fun l p => patch l p.off p.data) (zeros r.total)) r.off (data.take r.len)))) ∧
      (status ≠ .ok → yields (.completionTlp tag status data ep) s fun t => left t ∧ t.hw.lastResult = s.hw.lastResult ∧
        (r.acc = 0 → t.hw.busErr = s.hw.busErr) ∧ (r.acc ≠ 0 → ended t ∧ t.hw.busErr = true)) ∧
      (yields (.completionTimeout tag) s fun t => left t ∧ x ∈ t.hw.host.quarantine ∧
        (r.acc ≠ 0 → ended t ∧ t.hw.busErr = false ∧ t.hw.lastPoison = true ∧ t.hw.lastResult.length = r.total))) ∧
    yields (.tagQuarantineEnd tag) s fun t => t.hw.host = { s.hw.host with quarantine := s.hw.host.quarantine.filter (· ≠ x) }) ∧
  (∀ (fn : Fin 256) (write : Bool) (dword : BitVec 10) (data : BitVec 32) (s : State), let n := fn.val
    let cmd := Instr.configRequest fn write dword data
    let up := fget s.hw F_HOST_LINK_STATUS_DL_UP = 1
    let ready := fget s.hw F_HOST_LINK_STATUS_READY = 1
    (¬ up → exec cmd s = .next s) ∧ (up → ¬ ready → changes cmd s fun h => sendTlp h (.cfgCpl n 0 2)) ∧
    (up → ready → fnPresent s.hw n = false → changes cmd s fun h => sendTlp h (.cfgCpl n 0 1)) ∧
    (up → ready → fnPresent s.hw n = true →
      (write = true → yields cmd s fun t => t.hw.host.out.head? = some (.cfgCpl n 0 0) ∧
        (dword = 1 → fget t.hw F_HOSTFN_STATUS_BME n = b2n (bit data.toNat 2) ∧ (n < 8 → fget t.hw F_HOSTFN_STATUS_MSE n = b2n (bit data.toNat 1))) ∧
        (dword = 0x11 → n < 8 → fget t.hw F_HOSTFN_STATUS_D3 n = b2n (data.toNat % 4 == 3))) ∧
      (write = false → dword = 0 → changes cmd s fun h => sendTlp h (.cfgCpl n ((if n < 8 then 0x1024#16 else 0x1025#16) ++ Config.vendorId) 0)) ∧
      (write = false → n < 8 →
        (dword = 2 → changes cmd s fun h => sendTlp h (.cfgCpl n (0x118000#24 ++ Config.revisionId) 0)) ∧
        (dword = 0x59 → changes cmd s fun h => sendTlp h (.cfgCpl n (1#16 ++ BitVec.ofNat 16 (8 + 30 * n)) 0))))) ∧
  (∀ s : State, changes .perstDeassert s (fun h => fset h F_HOST_LINK_STATUS_PERST 0) ∧
    let may := fget s.hw F_HOST_LINK_STATUS_DL_UP = 1 ∧ fget s.hw F_HOST_LINK_STATUS_READY ≠ 1 ∧ (3 ≤ modeNow s.hw ∨ s.hw.boot.recordsDone = true)
    (may → changes .functionsReady s fun h => sendTlp (fset h F_HOST_LINK_STATUS_READY 1) .drs) ∧ (¬ may → exec .functionsReady s = .next s)) ∧
  (∀ (width : BitVec 5) (speed : BitVec 3) (s : State), let no := modeNow s.hw = 0 ∨ fget s.hw F_HOST_LINK_STATUS_PERST = 1
    let most := fget s.hw F_HOST_LINK_CFG_MAX_SPEED
    let trains := width.toNat ∈ [1, 2, 4, 8, 16] ∧ 1 ≤ speed.toNat ∧ speed.toNat ≤ (if most = 3 ∨ most = 4 then most else 5)
    (no ∨ ¬ trains → exec (.dataLinkUp width speed) s = .next s) ∧
    (¬ no → trains → yields (.dataLinkUp width speed) s fun t => fget t.hw F_HOST_LINK_STATUS_DL_UP = 1 ∧ t.hw.host.sris = fon s.hw F_HOST_LINK_CFG_SRIS ∧ fget t.hw F_HOST_LINK_STATUS_WIDTH = width.toNat ∧
      fget t.hw F_HOST_LINK_STATUS_SPEED = speed.toNat)) ∧
  (∀ (fn : Fin 256) (d3 : Bool) (s : State), let n := fn.val
    (n < 8 → yields (.powerStateChange fn d3) s fun t => fget t.hw F_HOSTFN_STATUS_D3 n = b2n d3 ∧ cfgWord t.hw n 0x11 % 4 = (if d3 then 3 else 0) ∧
      (∀ d, d ≠ 0x11 → cfgWord t.hw n d = cfgWord s.hw n d) ∧ ∀ m, m ≠ n → fnOf t.hw m = fnOf s.hw m) ∧
    (8 ≤ fn.val → exec (.powerStateChange fn d3) s = .next s)) ∧
  (∀ (fn : Fin 256) (s : State), let n := fn.val
    let func := [F_HOSTFN_HOF_CFG_EN, F_HOSTFN_HOF_PTR_BUF_HEAD, F_HOSTFN_HOF_PTR_CPL_TAIL, F_HOSTFN_HOF_BUF_BASE, F_HOSTFN_HOF_CPL_BASE, F_HOSTFN_DOORBELL_BITS,
      F_HOSTFN_DLOG_CFG_EN, F_HOSTFN_DLOG_CFG_OVERFLOW, F_HOSTFN_DLOG_PTR_HEAD, F_HOSTFN_STATUS_QUIESCED, F_HOSTFN_STATUS_QUIESCING]
    (fnPresent s.hw n = false → exec (.flr fn) s = .next s) ∧
    (fnPresent s.hw n = true → yields (.flr fn) s fun t => (∀ f ∈ func, fget t.hw f n = 0) ∧ fnOf t.hw n = { cfg := (fnOf t.hw n).cfg } ∧ fnPresent t.hw n = true ∧
      (∀ d, n < 8 ∧ d = 0x56 ∨ cfgWord t.hw n d = cfgWord s.hw n d) ∧ (n < 8 → bit (cfgWord t.hw n 0x56) 0 = false) ∧
      fget t.hw F_HOSTFN_CFG_RD_MAX n = fget s.hw F_HOSTFN_CFG_RD_MAX n ∧ (∀ w, ∀ e ∈ windowFields, fget t.hw e.1 n w = fget s.hw e.1 n w ∧ fget t.hw e.2 n w = fget s.hw e.2 n w) ∧
      (8 ≤ n → ∀ m, m < 256 → m ≠ n → fnOf t.hw m = fnOf s.hw m ∧ ∀ f ∈ func, fget t.hw f m = fget s.hw f m) ∧
      (n < 8 → ∀ i, i < 31 → fnPresent t.hw (8 + 31 * n + i) = false) ∧
      (8 ≤ n → fget s.hw F_HOSTFN_STATUS_QUIESCED n = 1 → t.hw.host.reads = s.hw.host.reads ∧ fget t.hw F_HOST_ERR_FORCED = fget s.hw F_HOST_ERR_FORCED) ∧
      (8 ≤ n → fget s.hw F_HOSTFN_STATUS_QUIESCED n ≠ 1 → (∀ r ∈ t.hw.host.reads, r.fn ≠ n) ∧ fget t.hw F_HOST_ERR_FORCED = min (fget s.hw F_HOST_ERR_FORCED + 1) 65535))) ∧
  (∀ (kind : FundKind) (s : State), (∀ p, p < 8 → fnPresent s.hw p = true) → yields (.fundamentalReset kind) s fun t => fget t.hw F_HOST_LINK_STATUS_READY = 0 ∧
    (∀ n, n < 256 → 8 ≤ n → fnPresent t.hw n = false) ∧ (∀ n, n < 8 → fnPresent t.hw n = true ∧ fget t.hw F_HOSTFN_HOF_CFG_EN n = 0 ∧ fnOf t.hw n = {}) ∧
    (kind = .perst → fget t.hw F_HOST_LINK_STATUS_PERST = 1) ∧
    fget t.hw F_HOST_LINK_STATUS_DL_UP = 0 ∧ fget t.hw F_HOST_LINK_STATUS_WIDTH = 0 ∧ fget t.hw F_HOST_LINK_STATUS_SPEED = 0 ∧
    (fget s.hw F_HOST_LINK_STATUS_DL_UP = 1 → fget t.hw F_HOST_LINK_STATUS_DOWN_COUNT = min (fget s.hw F_HOST_LINK_STATUS_DOWN_COUNT + 1) 65535)) ∧
  (∀ (who : Requester) (fn : Fin 256) (s : State), yields (.winCommit who fn) s fun t =>
    { t.hw with regs := s.hw.regs, kyd := s.hw.kyd, busErr := s.hw.busErr } = s.hw ∧
    sameMemory s t) ∧
  (∀ (who : Requester) (fn : Fin 256) (s : State), yields (.winDiscard who fn) s fun t =>
    { t.hw with regs := s.hw.regs, kyd := s.hw.kyd, busErr := s.hw.busErr } = s.hw ∧
    sameMemory s t) ∧
  (∀ (who : Requester) (addr : BitVec 52) (write : Bool) (len : Nat) (data : List (BitVec 8)) (ep : Bool) (s : State), yields (.outboundAccess who addr write len data ep) s fun t =>
    { t.hw with regs := s.hw.regs, host := s.hw.host, busErr := s.hw.busErr } = s.hw ∧
    onlyFields s.hw t.hw [F_HOSTFN_DLOG_CFG_OVERFLOW, F_HOSTFN_DLOG_PTR_HEAD] ∧
    sameMemory s t) ∧
  (∀ (fn : Fin 256) (s : State), yields (.outboundReadIssue fn) s fun t =>
    { t.hw with regs := s.hw.regs, host := s.hw.host, ints := s.hw.ints } = s.hw ∧
    onlyFields s.hw t.hw [F_HOSTFN_STATUS_RD_OUT, F_INT_SRC_STATE_EVENTS, F_INT_SRC_STATE_PENDING, F_PART_QUOTA_STATUS_OVER] ∧
    sameMemory s t) ∧
  (∀ (tag : BitVec 10) (status : CplStatus) (data : List (BitVec 8)) (ep : Bool) (s : State), yields (.completionTlp tag status data ep) s fun t =>
    { t.hw with regs := s.hw.regs, host := s.hw.host, ints := s.hw.ints, kyd := s.hw.kyd, busErr := s.hw.busErr, lastPoison := s.hw.lastPoison, lastResult := s.hw.lastResult } = s.hw ∧
    onlyFields s.hw t.hw [F_HOSTFN_STATUS_RD_OUT, F_HOST_ERR_POISON_IN, F_HOST_ERR_UNEXP_CPL, F_INT_SRC_STATE_EVENTS, F_INT_SRC_STATE_PENDING,
      F_KYD_ELOG_SEQ_NEXT, F_PART_QUOTA_STATUS_OVER] ∧
    sameMemory s t) ∧
  (∀ (tag : BitVec 10) (s : State), yields (.completionTimeout tag) s fun t =>
    { t.hw with regs := s.hw.regs, host := s.hw.host, ints := s.hw.ints, kyd := s.hw.kyd, freeCtr := s.hw.freeCtr, busErr := s.hw.busErr, lastPoison := s.hw.lastPoison, lastResult := s.hw.lastResult } = s.hw ∧
    onlyFields s.hw t.hw [F_HOSTFN_STATUS_RD_OUT, F_INT_SRC_STATE_EVENTS, F_INT_SRC_STATE_PENDING, F_KYD_ELOG_SEQ_NEXT, F_PART_QUOTA_STATUS_OVER] ∧
    sameMemory s t) ∧
  (∀ (tag : BitVec 10) (s : State), yields (.tagQuarantineEnd tag) s fun t =>
    { t.hw with host := s.hw.host } = s.hw ∧
    sameMemory s t) ∧
  (∀ (fn : Fin 256) (write : Bool) (dword : BitVec 10) (data : BitVec 32) (s : State), yields (.configRequest fn write dword data) s fun t =>
    { t.hw with regs := s.hw.regs, host := s.hw.host, ints := s.hw.ints, kyd := s.hw.kyd, freeCtr := s.hw.freeCtr, busErr := s.hw.busErr, lastPoison := s.hw.lastPoison, lastResult := s.hw.lastResult } = s.hw ∧
    sameMemory s t) ∧
  (∀ (s : State), yields .perstDeassert s fun t =>
    { t.hw with regs := s.hw.regs } = s.hw ∧
    onlyFields s.hw t.hw [F_HOST_LINK_STATUS_PERST] ∧
    sameMemory s t) ∧
  (∀ (s : State), yields .functionsReady s fun t =>
    { t.hw with regs := s.hw.regs, host := s.hw.host } = s.hw ∧
    onlyFields s.hw t.hw [F_HOST_LINK_STATUS_READY] ∧
    sameMemory s t) ∧
  (∀ (width : BitVec 5) (speed : BitVec 3) (s : State), yields (.dataLinkUp width speed) s fun t =>
    { t.hw with regs := s.hw.regs, host := { t.hw.host with sris := s.hw.host.sris } } = s.hw ∧
    onlyFields s.hw t.hw [F_HOST_LINK_STATUS_DL_UP, F_HOST_LINK_STATUS_SPEED, F_HOST_LINK_STATUS_WIDTH] ∧
    sameMemory s t) ∧
  (∀ (fn : Fin 256) (d3 : Bool) (s : State), yields (.powerStateChange fn d3) s fun t =>
    { t.hw with regs := s.hw.regs, host := s.hw.host } = s.hw ∧
    onlyFields s.hw t.hw [F_HOSTFN_STATUS_D3] ∧
    sameMemory s t) ∧
  (∀ (fn : Fin 256) (s : State), yields (.flr fn) s fun t =>
    { t.hw with regs := s.hw.regs, host := s.hw.host, ints := s.hw.ints, kyd := s.hw.kyd, freeCtr := s.hw.freeCtr, busErr := s.hw.busErr, lastPoison := s.hw.lastPoison, lastResult := s.hw.lastResult } = s.hw ∧
    sameMemory s t) ∧
  (∀ (kind : FundKind) (s : State), yields (.fundamentalReset kind) s fun t =>
    { t.hw with regs := s.hw.regs, host := s.hw.host, ints := s.hw.ints, kyd := s.hw.kyd, freeCtr := s.hw.freeCtr, busErr := s.hw.busErr, lastPoison := s.hw.lastPoison, lastResult := s.hw.lastResult } = s.hw ∧
    sameMemory s t)

/-- A hand-off writes its stream, its completion entry and its vector in order; doorbells, MSI-X, quiesce and SYNC act on one
function. An action is refused while the function takes none, its completion ring is full or too few buffers are posted, and else
joins the function's queue. A hand-off of an item that is no EVENT writes the 64 B completion entry at CPL_TAIL and advances it,
PHASE alternating at each pass; that of an EVENT moves BUF_HEAD by the buffers its stream needs, the stream being the padded record
and the fragments. Its acknowledgement completes the action and frees the queue. A raised vector is sent, or pending while masked. A
doorbell write sets its bits and raises the function's source. QUIESCE refuses new work, is done when no hand-off and no read is
left, and RESUME clears it. SYNC empties the filter of a virtual function. (R227, R229, R482, R483, R484, R485, R486, R487, R491,
R492) -/
def Obligations.HandOffsInterruptsAndQuiesce : Prop :=
  (∀ (h : Hw) (m : Mem) (n f : Nat) (it : Item),
    (takeHandoff h m n f it = none ↔ (fget h F_HOSTFN_HOF_CFG_EN n ≠ 1 ∨ fnServes h n = false ∨ cplFull h n = true ∨ postedBufs h n < bufsNeeded h m n f it)) ∧
    ∀ h', takeHandoff h m n f it = some h' → (fnOf h' n).hof = (fnOf h n).hof ++ [{ flow := f, seq := it.seq, item := itemWords f it }] ∧ h'.regs = h.regs ∧ h'.host.out = h.host.out) ∧
  (∀ (h : Hw) (m : Mem) (w : Asker) (a : Nat), (∀ line, supplier h line = none) → let rec' := (readRecord h m w a).2.1
    rec'.length = 64 + 8 * popcount 64 (num rec' 0x10 8) ∧
    (eventStream h m w a).2.1.length = (rec'.length + 63) / 64 * 64 + ((presentFrags rec').map fun e => e.2.2).sum) ∧
  (∀ (fn : Fin 256) (bufs : List (BitVec 64)) (s : State), let n := fn.val
    let v := fnOf s.hw n
    let can := fget s.hw F_HOSTFN_STATUS_BME n = 1 ∧ fget s.hw F_HOSTFN_STATUS_D3 n ≠ 1
    (v.hof = [] ∨ v.hofSent = true ∨ fnPresent s.hw n = false ∨ ¬ can → exec (.hostHandoff fn bufs) s = .next s) ∧
    (v.hof = [] ∨ v.hofSent = false → exec (.handoffAck fn) s = .next s) ∧
    (∀ x rest, v.hof = x :: rest → v.hofSent = false → fnPresent s.hw n = true → can → let tail := fget s.hw F_HOSTFN_HOF_PTR_CPL_TAIL n
      let head := fget s.hw F_HOSTFN_HOF_PTR_BUF_HEAD n
      let at' := fget s.hw F_HOSTFN_HOF_CPL_BASE n * 64 + 64 * tail
      let next := (tail + 1) % cplEntries s.hw n
      let event := lget 0 x.item 3 / 2 ^ 28 % 16 = 1
      (cplFull s.hw n = true → exec (.hostHandoff fn bufs) s = .next s) ∧
      (¬ event → cplFull s.hw n = false → fget s.hw F_HOSTFN_HOF_CFG_VECTOR n = 0xFF → (n < 8 ∨ fget s.hw F_HOSTFN_DLOG_CFG_EN n ≠ 1) → yields (.hostHandoff fn bufs) s fun t =>
        t.hw.host.out = .write n at' (x.item.flatMap (leBytes 8) ++ leBytes 4 0 ++ leBytes 2 head ++ leBytes 2 0 ++ leBytes 1 (b2n v.phase) ++ zeros 23) false 0 :: s.hw.host.out ∧
        fget t.hw F_HOSTFN_HOF_PTR_CPL_TAIL n = next ∧ fget t.hw F_HOSTFN_HOF_PTR_BUF_HEAD n = head % bufEntries s.hw n ∧
        fnOf t.hw n = { v with hofSent := true, phase := if next = 0 then !v.phase else v.phase }) ∧
      (event → let r := eventStream s.hw s.mem (flowAsker s.hw x.flow) (lget 0 x.item 2)
        let need := (r.2.1.length + bufLen s.hw n - 1) / bufLen s.hw n
        (postedBufs s.hw n < need ∨ bufs.length < need → exec (.hostHandoff fn bufs) s = .next s) ∧
        (cplFull s.hw n = false → need ≤ postedBufs s.hw n → need ≤ bufs.length → fget s.hw F_HOSTFN_HOF_CFG_VECTOR n = 0xFF → (n < 8 ∨ fget s.hw F_HOSTFN_DLOG_CFG_EN n ≠ 1) →
          yields (.hostHandoff fn bufs) s fun t => fget t.hw F_HOSTFN_HOF_PTR_CPL_TAIL n = next ∧ fget t.hw F_HOSTFN_HOF_PTR_BUF_HEAD n = (head + need) % bufEntries s.hw n ∧
            t.hw.host.out.head? = some (.write n at' (x.item.flatMap (leBytes 8) ++ leBytes 4 r.2.1.length ++ leBytes 2 head ++ leBytes 2 need ++
              leBytes 1 (b2n v.phase + 2 * b2n (r.2.2.any id)) ++ zeros 23) false 0)))) ∧
    (∀ x rest, v.hof = x :: rest → v.hofSent = true → yields (.handoffAck fn) s fun t => fnOf t.hw n = { v with hof := rest, hofSent := false } ∧
      (flowOf t.hw x.flow).items = (flowOf s.hw x.flow).items.map (fun i => if i.seq = x.seq ∧ i.st = .acting then { i with st := .complete } else i) ∧
      ∀ f, f ≠ x.flow → flowOf t.hw f = flowOf s.hw f)) ∧
  (∀ (who : Requester) (fn : Fin 256) (vector : BitVec 8) (s : State), accepts s who R_HOSTFN_MSIX_RAISE fn.val 0 → let n := fn.val
    let ctl := cfgWord s.hw n (if n < 8 then 0x14 else 0x20)
    let v := vector.toNat
    let masked := bit ctl 30 = true ∨ tget true (fnOf s.hw n).msixMask v = true ∨ fget s.hw F_HOSTFN_STATUS_BME n ≠ 1 ∨ fget s.hw F_HOSTFN_STATUS_D3 n = 1
    ((if n < 8 then 64 else 16) ≤ v ∨ bit ctl 31 = false → changes (.msixRaise who fn vector) s fun h => setBusErr h false) ∧
    (v < (if n < 8 then 64 else 16) → bit ctl 31 = true → ¬ masked → changes (.msixRaise who fn vector) s fun h => sendTlp (setBusErr h false) (.msix n v)) ∧
    (v < (if n < 8 then 64 else 16) → bit ctl 31 = true → masked → yields (.msixRaise who fn vector) s fun t => tget false (fnOf t.hw n).msixPend v = true ∧
      t.hw.host.out = s.hw.host.out)) ∧
  (∀ (fn : Fin 256) (bits' : BitVec 64) (s : State),
    let decodes := fnPresent s.hw fn.val = true ∧ fget s.hw F_HOSTFN_STATUS_MSE fn.val = 1 ∧
      fget s.hw F_HOSTFN_STATUS_D3 fn.val ≠ 1 ∧ fget s.hw F_HOSTFN_STATUS_FLR fn.val ≠ 1 ∧ barSize s.hw fn.val false ≠ 0
    (¬ decodes → changes (.doorbell fn bits') s fun h => unsupported h fn.val true) ∧ (decodes → bits' = 0 → exec (.doorbell fn bits') s = .next s) ∧
    (decodes → bits' ≠ 0 → yields (.doorbell fn bits') s fun t =>
      fget t.hw F_HOSTFN_DOORBELL_BITS fn.val = ((fget s.hw F_HOSTFN_DOORBELL_BITS fn.val).lor bits'.toNat) % 2 ^ 64 ∧
      fget t.hw F_INT_SRC_STATE_PENDING 0 (srcDoorbell fn.val) = 1)) ∧
  (∀ (who : Requester) (fn : Fin 256) (s : State), let n := fn.val
    let result := fun (code : Nat) (h : Hw) => answer h F_HOSTFN_CTRL_RESULT F_HOSTFN_CTRL_SEQ code n
    (accepts s who R_HOSTFN_CTRL n 0 → changes (.quiesce who fn) s (fun h => result 1 (fset (setBusErr h false) F_HOSTFN_STATUS_QUIESCING 1 n)) ∧
      changes (.resume who fn) s fun h => result 2 (fset (fset (setBusErr h false) F_HOSTFN_STATUS_QUIESCING 0 n) F_HOSTFN_STATUS_QUIESCED 0 n)) ∧
    let idle := fget s.hw F_HOSTFN_STATUS_QUIESCING n = 1 ∧ (fnOf s.hw n).hof = [] ∧ (fnOf s.hw n).readWait = [] ∧ ∀ r ∈ s.hw.host.reads, r.fn ≠ n
    (¬ idle → exec (.quiesceDone fn) s = .next s) ∧
    (idle → yields (.quiesceDone fn) s fun t => fget t.hw F_HOSTFN_STATUS_QUIESCED n = 1 ∧ fget t.hw F_HOSTFN_STATUS_QUIESCING n = 0 ∧ fget t.hw F_HOSTFN_CTRL_RESULT n = 2) ∧
    (n < 8 → exec (.sync who fn) s = .next s) ∧
    (8 ≤ n → accepts s who R_HOSTFN_DLOG_CFG n 0 → yields (.sync who fn) s fun t => (fnOf t.hw n).dlog = [] ∧ fget t.hw F_HOSTFN_DLOG_CFG_RESULT n = 2 ∧ t.hw.host.out = s.hw.host.out)) ∧
  (∀ (h : Hw) (n page : Nat), 8 ≤ n → page ∉ (fnOf h n).dlog → let size := 2 ^ min 20 (max 8 (fget h F_HOSTFN_DLOG_CFG_SIZE_LOG2 n))
    let head := fget h F_HOSTFN_DLOG_PTR_HEAD n
    let full := (head + 1) % size = fget h F_HOSTFN_DLOG_PTR_TAIL n % size
    (full → fget (logPage h n page) F_HOSTFN_DLOG_CFG_OVERFLOW n = 1 ∧ (logPage h n page).host.out = h.host.out) ∧
    (¬ full → fget (logPage h n page) F_HOSTFN_DLOG_PTR_HEAD n = (head + 1) % size ∧
      (logPage h n page).host.out = .write (partOfFn n) (fget h F_HOSTFN_DLOG_BASE_BASE n * 4096 + 8 * head) (leBytes 8 page) false 0 :: h.host.out)) ∧
  (∀ (fn : Fin 256) (bufs : List (BitVec 64)) (s : State), yields (.hostHandoff fn bufs) s fun t =>
    { t.hw with regs := s.hw.regs, hom := s.hw.hom, host := s.hw.host, ints := s.hw.ints, kyd := s.hw.kyd, freeCtr := s.hw.freeCtr } = s.hw ∧
    onlyFields s.hw t.hw [F_HOSTFN_DLOG_CFG_OVERFLOW, F_HOSTFN_DLOG_PTR_HEAD, F_HOSTFN_HOF_PTR_BUF_HEAD, F_HOSTFN_HOF_PTR_CPL_TAIL,
      F_INT_SRC_STATE_EVENTS, F_INT_SRC_STATE_PENDING, F_KYD_ELOG_SEQ_NEXT, F_QMC_PMU_CNT_COUNT, F_QMC_PMU_CTL_OVF, F_QMC_UE_LINE,
      F_QMC_UE_POISON_READS, F_QMC_UE_UE_COUNT, F_QMC_VIOL_COUNT, F_QMC_VIOL_PART, F_QMC_VIOL_QADDR, F_QMC_VIOL_SECURE, F_QMC_VIOL_WRITE] ∧
    sameMemory s t) ∧
  (∀ (fn : Fin 256) (s : State), yields (.handoffAck fn) s fun t =>
    { t.hw with rbt := s.hw.rbt, host := s.hw.host } = s.hw ∧
    sameMemory s t) ∧
  (∀ (who : Requester) (fn : Fin 256) (vector : BitVec 8) (s : State), yields (.msixRaise who fn vector) s fun t =>
    { t.hw with regs := s.hw.regs, host := s.hw.host, kyd := s.hw.kyd, busErr := s.hw.busErr } = s.hw ∧
    onlyFields s.hw t.hw [F_KYD_ELOG_SEQ_NEXT] ∧
    sameMemory s t) ∧
  (∀ (fn : Fin 256) (bits : BitVec 64) (s : State), yields (.doorbell fn bits) s fun t =>
    { t.hw with regs := s.hw.regs, ints := s.hw.ints, host := s.hw.host, kyd := s.hw.kyd, busErr := s.hw.busErr } = s.hw ∧
    onlyFields s.hw t.hw [F_HOSTFN_DOORBELL_BITS, F_INT_SRC_STATE_EVENTS, F_INT_SRC_STATE_PENDING, F_KYD_ELOG_SEQ_NEXT] ∧
    sameMemory s t) ∧
  (∀ (who : Requester) (fn : Fin 256) (s : State), yields (.quiesce who fn) s fun t =>
    { t.hw with regs := s.hw.regs, kyd := s.hw.kyd, busErr := s.hw.busErr } = s.hw ∧
    onlyFields s.hw t.hw [F_HOSTFN_CTRL_RESULT, F_HOSTFN_CTRL_SEQ, F_HOSTFN_STATUS_QUIESCING, F_KYD_ELOG_SEQ_NEXT] ∧
    sameMemory s t) ∧
  (∀ (fn : Fin 256) (s : State), yields (.quiesceDone fn) s fun t =>
    { t.hw with regs := s.hw.regs } = s.hw ∧
    onlyFields s.hw t.hw [F_HOSTFN_CTRL_RESULT, F_HOSTFN_STATUS_QUIESCED, F_HOSTFN_STATUS_QUIESCING] ∧
    sameMemory s t) ∧
  (∀ (who : Requester) (fn : Fin 256) (s : State), yields (.resume who fn) s fun t =>
    { t.hw with regs := s.hw.regs, kyd := s.hw.kyd, busErr := s.hw.busErr } = s.hw ∧
    onlyFields s.hw t.hw [F_HOSTFN_CTRL_RESULT, F_HOSTFN_CTRL_SEQ, F_HOSTFN_STATUS_QUIESCED, F_HOSTFN_STATUS_QUIESCING, F_KYD_ELOG_SEQ_NEXT] ∧
    sameMemory s t) ∧
  (∀ (who : Requester) (fn : Fin 256) (s : State), yields (.sync who fn) s fun t =>
    { t.hw with regs := s.hw.regs, host := s.hw.host, kyd := s.hw.kyd, busErr := s.hw.busErr } = s.hw ∧
    onlyFields s.hw t.hw [F_HOSTFN_DLOG_CFG_RESULT, F_HOSTFN_DLOG_CFG_SEQ, F_KYD_ELOG_SEQ_NEXT] ∧
    sameMemory s t)

/-- A bundle comes UP by B_ALIGN and three HELLOs, sends with credit in order, resends until acknowledged, and passes packets on by
their route. B_ALIGN aligns a bundle whose lanes are locked; a valid HELLO is recorded, the third with one sent brings the bundle
UP, another serial, a HELLO timeout or a ninth failed transfer takes it DOWN: replay buffer lost, lost writes counted, the source
raised. While the gate sends, a slot group is the next four blocks of a packet that has begun, else B_ALIGN after 4,096, IDLE within
2,048, HELLO, ACK, CREDIT, a resent packet, or a new one, which needs credit and overtakes neither its class nor a write to its
DEST. A packet is START, eight data blocks a unit and END. An ACK frees what it covers, a NAK or a timeout has the rest sent again.
A bad packet is counted and answered NAK, one out of order NAK; the next in order is acknowledged and its units owed; in transit it
leaves on the bundle of its route with HOPS one more, or is counted; a source-routed one leaves on its next port. (R494, R496, R497,
R498, R499, R500, R502, R504, R505, R507, R508, R516) -/
def Obligations.BundlesCarryPacketsInOrder : Prop :=
  (∀ (g : Fin 64) (b : Fin 4) (body : BitVec 48) (count : BitVec 16) (s : State), let v := bundleOf s.hw g.val b.val
    let st := fget s.hw F_BLVD_BUNDLE_STATE g.val b.val
    let locked := fget s.hw F_GATE_CONFIG_PERSONALITY g.val = 2 ∧ ∀ j, j < 4 → 2 ≤ laneState s.hw g.val (4 * b.val + j) ∧ laneState s.hw g.val (4 * b.val + j) ≤ 4
    let down := fun (t : State) => fget t.hw F_BLVD_BUNDLE_STATE g.val b.val = 1 ∧ fget t.hw F_BLVD_NBR_VALID g.val b.val = 0 ∧ (bundleOf t.hw g.val b.val) = { txq := v.txq } ∧
      fget t.hw F_BLVD_BUNDLE_DOWNS g.val b.val = min (fget s.hw F_BLVD_BUNDLE_DOWNS g.val b.val + 1) 255 ∧
      fget t.hw F_BLVD_BUNDLE_WR_LOST g.val b.val = min (fget s.hw F_BLVD_BUNDLE_WR_LOST g.val b.val + (v.replay.filter fun p => stTc p.start == 1).length) 65535 ∧
      fget t.hw F_INT_SRC_STATE_PENDING 0 (srcGate g.val 0) = 1
    let x := body.toNat
    let other := fget s.hw F_BLVD_NBR_VALID g.val b.val = 1 ∧ fget s.hw F_BLVD_NBR_HELLO g.val b.val / 2 ^ 24 % 2 ^ 24 ≠ x / 2 ^ 24
    let reserved := x / 2 ^ 21 % 8 ≠ 0
    (st < 2 ∧ locked → yields (.bAlign g b count) s fun t => fget t.hw F_BLVD_BUNDLE_STATE g.val b.val = 2 ∧ (bundleOf t.hw g.val b.val) = { txq := v.txq, helloDue := true }) ∧
    (2 ≤ st ∨ ¬ locked → exec (.bAlign g b count) s = .next s) ∧
    (st < 2 → exec (.hello g b body) s = .next s ∧ exec (.helloTimeout g b) s = .next s) ∧
    (2 ≤ st → reserved → yields (.hello g b body) s fun t => bundleOf t.hw g.val b.val = { v with hellos := 0 } ∧ t.hw.regs = s.hw.regs) ∧
    (2 ≤ st → ¬ reserved → other → yields (.hello g b body) s down) ∧ (2 ≤ st → yields (.helloTimeout g b) s down) ∧
    (2 ≤ st → ¬ reserved → ¬ other → yields (.hello g b body) s fun t => fget t.hw F_BLVD_NBR_HELLO g.val b.val = x ∧ fget t.hw F_BLVD_NBR_VALID g.val b.val = 1 ∧
      bundleOf t.hw g.val b.val = { v with hellos := min 3 (v.hellos + 1) } ∧
      fget t.hw F_BLVD_BUNDLE_STATE g.val b.val = (if st = 2 ∧ v.helloSent = true ∧ 2 ≤ v.hellos then 3 else st) ∧
      (x / 4096 % 2 = 1 → myAddr s.hw = some (x % 4096) → fget t.hw F_BLVD_ADDR_CONFLICT = 1 ∧ fget t.hw F_INT_SRC_STATE_PENDING 0 srcAddr = 1)) ∧
    (st = 3 → yields (.helloPeriod g b) s fun t => bundleOf t.hw g.val b.val = { v with helloDue := true }) ∧ (st ≠ 3 → exec (.helloPeriod g b) s = .next s) ∧
    (st ≠ 3 ∨ v.replay = [] → exec (.replayTimeout g b) s = .next s) ∧
    (st = 3 → v.replay ≠ [] → 8 ≤ v.resends → yields (.replayTimeout g b) s down) ∧
    (st = 3 → v.replay ≠ [] → v.resends < 8 → yields (.replayTimeout g b) s fun t => bundleOf t.hw g.val b.val = { v with resends := v.resends + 1, again := v.replay } ∧
      fget t.hw F_BLVD_BUNDLE_REPLAYS g.val b.val = min (fget s.hw F_BLVD_BUNDLE_REPLAYS g.val b.val + v.replay.length) 65535)) ∧
  (∀ (g : Fin 64) (b : Fin 4) (seq : BitVec 10) (nak : Bool) (tc0 tc1 tc2 tc3 : BitVec 12) (s : State), let v := bundleOf s.hw g.val b.val
    let st := fget s.hw F_BLVD_BUNDLE_STATE g.val b.val
    (st ≠ 3 → exec (.blvdAck g b seq nak) s = .next s ∧ exec (.credit g b tc0 tc1 tc2 tc3) s = .next s) ∧
    (st = 3 → (∀ p ∈ v.replay, p.seq ≠ seq.toNat) → exec (.blvdAck g b seq false) s = .next s) ∧
    (∀ l p r, st = 3 → v.replay = l ++ p :: r → p.seq = seq.toNat → (∀ q ∈ l, q.seq ≠ seq.toNat) →
      (yields (.blvdAck g b seq false) s fun t => (bundleOf t.hw g.val b.val).replay = r ∧ (bundleOf t.hw g.val b.val).resends = 0 ∧ (bundleOf t.hw g.val b.val).txq = v.txq ∧ t.hw.regs = s.hw.regs) ∧
      (r ≠ [] → yields (.blvdAck g b seq true) s fun t => (bundleOf t.hw g.val b.val).replay = r ∧ (bundleOf t.hw g.val b.val).again = r ∧ (bundleOf t.hw g.val b.val).resends = 1)) ∧
    (st = 3 → yields (.credit g b tc0 tc1 tc2 tc3) s fun t => let c := (bundleOf t.hw g.val b.val).credit
      c = [min 384 (lget 0 v.credit 0 + tc0.toNat), min 384 (lget 0 v.credit 1 + tc1.toNat), min 128 (lget 0 v.credit 2 + tc2.toNat), min 128 (lget 0 v.credit 3 + tc3.toNat)])) ∧
  (∀ (v : Bundle) (others l r : List BPacket) (p : BPacket), nextPacket v others [] l = some (p, r) →
    (stTc p.start = 0 ∨ stTc p.start = 2 → ∀ q ∈ others, stTc q.start = 1 → stDest q.start = stDest p.start → p.took ≤ q.took) ∧ stUnits p.start ≤ lget 0 v.credit (stTc p.start) ∧
    ∃ x y, l = x ++ p :: y ∧ r = x ++ y ∧ ∀ q ∈ x, stTc q.start ≠ stTc p.start ∧
      (stTc p.start = 0 ∨ stTc p.start = 2 → ¬ (stTc q.start = 1 ∧ stDest q.start = stDest p.start))) ∧
  (∀ (g : Fin 64) (b : Fin 4) (s : State), let v := bundleOf s.hw g.val b.val
    let st := fget s.hw F_BLVD_BUNDLE_STATE g.val b.val
    let w := { v with sinceAlign := v.sinceAlign + 1, sinceIdle := v.sinceIdle + 1 }
    let sends := fun (u : Bundle) => yields (.bundleSlotGroup g b) s fun t => bundleOf t.hw g.val b.val = u
    let due := v.cur = [] ∧ v.sinceAlign + 1 < 4096 ∧ v.sinceIdle + 1 < 2047
    let starts := fun (u : Bundle) (p : BPacket) => sends { u with cur := (packetBlocks p).drop 4, sent := (packetBlocks p ++ idleGroup).take 4 }
    let quiet := st = 3 ∧ due ∧ v.helloDue = false ∧ v.ackDue = none ∧ v.owed = [0, 0, 0, 0]
    (st = 0 ∨ gateSends s.hw g.val = false → exec (.bundleSlotGroup g b) s = .next s) ∧
    (gateSends s.hw g.val = true →
    (st ≠ 0 → v.cur ≠ [] → sends { w with cur := v.cur.drop 4, sent := (v.cur ++ idleGroup).take 4 }) ∧
    (st ≠ 0 → v.cur = [] → 4096 ≤ v.sinceAlign + 1 →
      sends { w with sinceAlign := 0, sent := (List.range 4).map fun j => ctlBlock 0x96 (j + (v.sinceAlign + 1) % 65536 * 4) }) ∧
    (st ≠ 0 → v.cur = [] → v.sinceAlign + 1 < 4096 → 2047 ≤ v.sinceIdle + 1 ∨ st = 1 → sends { w with sinceIdle := 0, sent := idleGroup }) ∧
    (st = 3 → due → v.helloDue = true → sends { w with helloDue := false, helloSent := true, sent := slotGroup [ctlBlock 0xA5 (helloBody s.hw g.val b.val)] }) ∧
    (∀ q nak, st = 3 → due → v.helloDue = false → v.ackDue = some (q, nak) → sends { w with ackDue := none, sent := slotGroup [ctlBlock 0xE1 (q % 1024 + 1024 * b2n nak)] }) ∧
    (∀ c0 c1 c2 c3, st = 3 → due → v.helloDue = false → v.ackDue = none → v.owed = [c0, c1, c2, c3] → c0 + c1 + c2 + c3 ≠ 0 → c0 < 4096 → c1 < 4096 → c2 < 4096 → c3 < 4096 →
      sends { w with owed := [0, 0, 0, 0], sent := slotGroup [ctlBlock 0xD2 (c0 + c1 * 2 ^ 12 + c2 * 2 ^ 24 + c3 * 2 ^ 36)] }) ∧
    (∀ p r, quiet → v.again = p :: r → packetFits w p → starts { w with again := r } p) ∧
    (∀ p r, quiet → v.again = [] → nextPacket w (elsewhere s.hw g.val b.val) [] v.txq = some (p, r) → packetFits w p →
      replayBytes v.replay + 64 * stUnits p.start ≤ 131072 → let q := { p with start := withSeq p.start v.txNext, seq := v.txNext }
      starts { w with txq := r, replay := v.replay ++ [q], txNext := (v.txNext + 1) % 1024, credit := v.credit.set (stTc q.start) (lget 0 v.credit (stTc q.start) - stUnits q.start) } q) ∧
    (quiet → v.again = [] → nextPacket w (elsewhere s.hw g.val b.val) [] v.txq = none → sends { w with sinceIdle := 0, sent := idleGroup }))) ∧
  (∀ p : BPacket, p.start < 2 ^ 48 → (packetBlocks p).length = 8 * p.units.length + 2 ∧ (packetBlocks p).head? = some (ctlBlock 0xB4 p.start) ∧
    (packetBlocks p).getLast? = some (ctlBlock 0xC3 (crc32 (leBytes 6 p.start ++ unitBytes p.units) + p.seq % 1024 * 2 ^ 32)) ∧
    (p.units.length = stUnits p.start → p.seq = stSeq p.start → packetOk p.start p.units (crc32 (leBytes 6 p.start ++ unitBytes p.units) + p.seq % 1024 * 2 ^ 32) = true) ∧
    ∀ k, 0 < k → k ≤ 8 * p.units.length → (packetBlocks p)[k]? = some { ctl := false, payload := BitVec.ofNat 64 (num (unitBytes p.units) (8 * (k - 1)) 8) }) ∧
  (∀ (x n : Nat), x < 2 ^ 48 → n < 1024 → stSeq (withSeq x n) = n ∧ stDest (withSeq x n) = stDest x ∧ stTc (withSeq x n) = stTc x ∧ stUnits (withSeq x n) = stUnits x ∧
    stHops (withHops x n) = n % 16 ∧ stSeq (withHops x n) = stSeq x ∧ stDest (withHops x n) = stDest x ∧ stUnits (withHops x n) = stUnits x ∧ stSr (withHops x n) = stSr x) ∧
  (∀ (g : Fin 64) (b : Fin 4) (start end_ : BitVec 48) (units : List (BitVec 512)) (s : State), let v := bundleOf s.hw g.val b.val
    let x := start.toNat
    let fin := end_.toNat
    let bytes := unitBytes units
    let cmd := Instr.blvdPacket g b start units end_
    let good := units.length = stUnits x ∧ fin / 2 ^ 32 % 1024 = stSeq x ∧ fin % 2 ^ 32 = crc32 (leBytes 6 x ++ bytes)
    let nak := some ((v.rxNext + 1023) % 1024, true)
    (fget s.hw F_BLVD_BUNDLE_STATE g.val b.val ≠ 3 → exec cmd s = .next s) ∧
    (fget s.hw F_BLVD_BUNDLE_STATE g.val b.val = 3 →
      (¬ good → changes cmd s fun h => fadd (setBundle h g.val b.val { v with ackDue := nak }) F_BLVD_BUNDLE_CRC_ERR 1 g.val b.val) ∧
      (good → stSeq x ≠ v.rxNext → changes cmd s fun h => setBundle h g.val b.val { v with ackDue := nak }) ∧
      (good → stSeq x = v.rxNext →
        let taken := fun (t : State) => bundleOf t.hw g.val b.val = { v with rxNext := (v.rxNext + 1) % 1024, ackDue := some (stSeq x, false), owed := v.owed.set (stTc x) (lget 0 v.owed (stTc x) + stUnits x) }
        (stTc x ≠ 3 → myAddr s.hw ≠ some (stDest x) →
          (stHops x = 15 → yields cmd s fun t => taken t ∧ sameMemory s t ∧ fget t.hw F_BLVD_ERR_HOPS_EXCEEDED = min (fget s.hw F_BLVD_ERR_HOPS_EXCEEDED + 1) 65535) ∧
          (stHops x ≠ 15 → fget s.hw F_BLVD_ROUTE_VALID 0 (stDest x) ≠ 1 → yields cmd s fun t => taken t ∧ fget t.hw F_BLVD_ERR_NO_ROUTE = min (fget s.hw F_BLVD_ERR_NO_ROUTE + 1) 65535)) ∧
        ∀ g' b', (g', b') ≠ (g.val, b.val) → g' < 64 → b' < 4 → fget s.hw F_BLVD_BUNDLE_STATE g' b' = 3 →
        let leaves := fun (t : State) (p : BPacket) => bundleOf t.hw g' b' = { bundleOf s.hw g' b' with txq := (bundleOf s.hw g' b').txq ++ [{ p with took := s.hw.blvd.took }] }
        (stTc x ≠ 3 → myAddr s.hw ≠ some (stDest x) →
          (stHops x ≠ 15 → fget s.hw F_BLVD_ROUTE_VALID 0 (stDest x) = 1 → fget s.hw F_BLVD_ROUTE_GATE 0 (stDest x) = g' → fget s.hw F_BLVD_ROUTE_BUNDLE 0 (stDest x) = b' →
            yields cmd s fun t => taken t ∧ sameMemory s t ∧ t.hw.regs = s.hw.regs ∧ leaves t { start := withHops x (stHops x + 1), units := units, seq := stSeq x })) ∧
        (stTc x = 3 → stSr x = true → stHops x ≠ num bytes 2 1 → stHops x < 8 → num bytes (8 + stHops x) 1 = 4 * g' + b' → yields cmd s fun t => taken t ∧ sameMemory s t ∧
          leaves t { start := withHops x (stHops x + 1), units := unitsOf (patch bytes (8 + stHops x) (leBytes 1 (4 * g.val + b.val))), seq := stSeq x }))) ∧
    (fget s.hw F_BLVD_BUNDLE_STATE g.val b.val = 3 → good → stSeq x = v.rxNext → stTc x = 1 → myAddr s.hw = some (stDest x) → yields cmd s fun t =>
      t.mem = s.land (rxWrite s.hw s.mem (stSrc x) (num bytes 0 4) (sub bytes 64 (num bytes 4 2)) (bit (num bytes 6 1) 0)).ops)) ∧
  (∀ (h : Hw) (m : Mem) (src off : Nat) (d : List Byte) (pz : Bool),
    let lo := fun (w : Nat) => fget h F_BLVD_RXWIN_MAP_OFFSET_4K 0 w * 4096
    let hits := fun (w : Nat) => fget h F_BLVD_RXWIN_MAP_EN 0 w = 1 ∧ lo w ≤ off ∧ off + d.length ≤ lo w + fget h F_BLVD_RXWIN_MAP_SIZE_4K 0 w * 4096
    let no := (rxWrite h m src off d pz).hw = fadd h F_BLVD_ERR_RX_REFUSED 1 ∧ (rxWrite h m src off d pz).ops = []
    ((∀ w, w < 8 → ¬ hits w) → no) ∧
    (∀ w, w < 8 → hits w → (∀ u, u < w → ¬ hits u) → let p := fget h F_BLVD_RXWIN_MAP_PART 0 w
      (fget h F_BLVD_RXWIN_MAP_SRC_ANY 0 w ≠ 1 → fget h F_BLVD_RXWIN_MAP_SRC 0 w ≠ src → no) ∧
      (modeNow h = 7 → fget h F_PART_STATUS_STATE 0 p = 4 ∨ fget h F_PART_STATUS_STATE 0 p = 3 → no) ∧
      (fget h F_BLVD_RXWIN_MAP_SRC_ANY 0 w = 1 ∨ fget h F_BLVD_RXWIN_MAP_SRC 0 w = src → modeNow h ≠ 7 →
        (rxWrite h m src off d pz).ops = (agentWrite h m (askerIn h p (fon h F_BLVD_RXWIN_MAP_SECURE 0 w))
          (fget h F_BLVD_RXWIN_TGT_TGT_4K 0 w * 4096 + (off - fget h F_BLVD_RXWIN_MAP_OFFSET_4K 0 w * 4096)) d pz).1.ops))) ∧
  (∀ (g : Fin 64) (b : Fin 4) (count : BitVec 16) (s : State), yields (.bAlign g b count) s fun t =>
    { t.hw with regs := s.hw.regs, blvd := s.hw.blvd } = s.hw ∧
    onlyFields s.hw t.hw [F_BLVD_BUNDLE_STATE] ∧
    sameMemory s t) ∧
  (∀ (g : Fin 64) (b : Fin 4) (body : BitVec 48) (s : State), yields (.hello g b body) s fun t =>
    { t.hw with regs := s.hw.regs, blvd := s.hw.blvd, ints := s.hw.ints, kyd := s.hw.kyd } = s.hw ∧
    onlyFields s.hw t.hw [F_BLVD_ADDR_CONFLICT, F_BLVD_BUNDLE_DOWNS, F_BLVD_BUNDLE_STATE, F_BLVD_BUNDLE_WR_LOST, F_BLVD_NBR_HELLO,
      F_BLVD_NBR_VALID, F_INT_SRC_STATE_EVENTS, F_INT_SRC_STATE_PENDING, F_KYD_ELOG_SEQ_NEXT] ∧
    sameMemory s t) ∧
  (∀ (g : Fin 64) (b : Fin 4) (s : State), yields (.helloPeriod g b) s fun t =>
    { t.hw with blvd := s.hw.blvd } = s.hw ∧
    sameMemory s t) ∧
  (∀ (g : Fin 64) (b : Fin 4) (s : State), yields (.helloTimeout g b) s fun t =>
    { t.hw with regs := s.hw.regs, blvd := s.hw.blvd, ints := s.hw.ints, kyd := s.hw.kyd } = s.hw ∧
    onlyFields s.hw t.hw [F_BLVD_BUNDLE_DOWNS, F_BLVD_BUNDLE_STATE, F_BLVD_BUNDLE_WR_LOST, F_BLVD_NBR_VALID, F_INT_SRC_STATE_EVENTS,
      F_INT_SRC_STATE_PENDING, F_KYD_ELOG_SEQ_NEXT] ∧
    sameMemory s t) ∧
  (∀ (g : Fin 64) (b : Fin 4) (seq : BitVec 10) (nak : Bool) (s : State), yields (.blvdAck g b seq nak) s fun t =>
    { t.hw with regs := s.hw.regs, blvd := s.hw.blvd, ints := s.hw.ints, kyd := s.hw.kyd } = s.hw ∧
    onlyFields s.hw t.hw [F_BLVD_BUNDLE_DOWNS, F_BLVD_BUNDLE_REPLAYS, F_BLVD_BUNDLE_STATE, F_BLVD_BUNDLE_WR_LOST, F_BLVD_NBR_VALID,
      F_INT_SRC_STATE_EVENTS, F_INT_SRC_STATE_PENDING, F_KYD_ELOG_SEQ_NEXT] ∧
    sameMemory s t) ∧
  (∀ (g : Fin 64) (b : Fin 4) (s : State), yields (.replayTimeout g b) s fun t =>
    { t.hw with regs := s.hw.regs, blvd := s.hw.blvd, ints := s.hw.ints, kyd := s.hw.kyd } = s.hw ∧
    onlyFields s.hw t.hw [F_BLVD_BUNDLE_DOWNS, F_BLVD_BUNDLE_REPLAYS, F_BLVD_BUNDLE_STATE, F_BLVD_BUNDLE_WR_LOST, F_BLVD_NBR_VALID,
      F_INT_SRC_STATE_EVENTS, F_INT_SRC_STATE_PENDING, F_KYD_ELOG_SEQ_NEXT] ∧
    sameMemory s t) ∧
  (∀ (g : Fin 64) (b : Fin 4) (tc0 tc1 tc2 tc3 : BitVec 12) (s : State), yields (.credit g b tc0 tc1 tc2 tc3) s fun t =>
    { t.hw with blvd := s.hw.blvd } = s.hw ∧
    sameMemory s t) ∧
  (∀ (g : Fin 64) (b : Fin 4) (s : State), yields (.bundleSlotGroup g b) s fun t =>
    { t.hw with regs := s.hw.regs, blvd := s.hw.blvd } = s.hw ∧
    onlyFields s.hw t.hw [F_BLVD_BUNDLE_STATE] ∧
    sameMemory s t)

/-- A TC3 operation acts and is answered on its port, or REFUSED; a remote write leaves in packets with its count; landed copies are
freed. For every operation of a neighbour on an UP bundle: with MGMT_EN clear it is answered REFUSED and changes nothing; else
ROUTE_WRITE sets the entry, ROUTE_READ and NBR_READ answer the register, SET_ADDR with a strap address or another serial is REFUSED
and else assigns the address, ECHO answers both arguments. An E2E_ACK of no running delivery is counted; another ends it: on OK the
action completes, on any other result, as after the timeout, the flow stalls. The refusal of E2E_ACK with MGMT_EN clear is the
model's reading (log 43). A write to the remote range becomes a packet to its module that carries the next write count, FIRST only
on the first. BLVD_FREE frees the landed copy at its address, and is TOO_LATE where none starts. (R503, R505, R506, R509, R510,
R512, R513, R514, R515) -/
def Obligations.RemoteOperationsActAndAreAnswered : Prop :=
  (∀ (g : Fin 64) (b : Fin 4) (src : BitVec 12) (arg0 arg1 : BitVec 64) (s : State), fget s.hw F_BLVD_BUNDLE_STATE g.val b.val = 3 →
    let answered := fun (t : State) (op result a0 a1 : Nat) => ∃ p : BPacket, bundleOf t.hw g.val b.val = { bundleOf s.hw g.val b.val with txq := (bundleOf s.hw g.val b.val).txq ++ [p] } ∧
      stTc p.start = 3 ∧ stSr p.start = true ∧ stHops p.start = 1 ∧ stDest p.start = src.toNat ∧
      p.units = unitsOf (leBytes 1 (op + 0x80) ++ leBytes 1 result ++ leBytes 1 1 ++ zeros 5 ++ leBytes 1 (4 * g.val + b.val) ++ zeros 7 ++ leBytes 8 a0 ++ leBytes 8 a1 ++ zeros 32)
    let shut := myAddr s.hw ≠ some src.toNat ∧ fget s.hw F_BLVD_CFG_MGMT_EN ≠ 1
    let i := arg0.toNat % 4096
    (shut → ∀ e ∈ [(Instr.routeWrite g b src arg0 arg1, 1, arg1.toNat), (.routeRead g b src arg0, 2, 0), (.nbrRead g b src arg0, 3, 0), (.setAddr g b src arg0 arg1, 4, arg1.toNat),
      (.echo g b src arg0 arg1, 5, arg1.toNat)], yields e.1 s fun t => answered t e.2.1 4 arg0.toNat e.2.2 ∧ t.hw.regs = s.hw.regs) ∧
    (¬ shut → (yields (.routeWrite g b src arg0 arg1) s fun t => answered t 1 2 arg0.toNat arg1.toNat ∧ fget t.hw F_BLVD_ROUTE_VALID 0 i = arg1.toNat / 2 ^ 63 ∧
        fget t.hw F_BLVD_ROUTE_GATE 0 i = arg1.toNat / 4 % 64 ∧ fget t.hw F_BLVD_ROUTE_BUNDLE 0 i = arg1.toNat % 4) ∧
      (yields (.routeRead g b src arg0) s fun t => answered t 2 2 arg0.toNat (regVal s.hw R_BLVD_ROUTE 0 i) ∧ t.hw.regs = s.hw.regs) ∧
      (yields (.nbrRead g b src arg0) s fun t => answered t 3 2 arg0.toNat (regVal s.hw R_BLVD_NBR (arg0.toNat / 4 % 64) (arg0.toNat % 4)) ∧ t.hw.regs = s.hw.regs) ∧
      (fget s.hw F_BLVD_ADDR_SOURCE = 1 ∨ arg0.toNat ≠ s.hw.blvd.serial → yields (.setAddr g b src arg0 arg1) s fun t => answered t 4 4 arg0.toNat arg1.toNat ∧ t.hw.regs = s.hw.regs) ∧
      (fget s.hw F_BLVD_ADDR_SOURCE ≠ 1 → arg0.toNat = s.hw.blvd.serial → yields (.setAddr g b src arg0 arg1) s fun t => answered t 4 2 arg0.toNat arg1.toNat ∧
        myAddr t.hw = some (arg1.toNat % 4096) ∧ fget t.hw F_BLVD_ADDR_SOURCE = 2) ∧
      (yields (.echo g b src arg0 arg1) s fun t => answered t 5 2 arg0.toNat arg1.toNat ∧ t.hw.regs = s.hw.regs))) ∧
  (∀ (src : BitVec 12) (result : BitVec 8) (arg0 arg1 : BitVec 64) (s : State), let f := arg0.toNat / 2 ^ 20 % 4096
    let seq := arg0.toNat % 2 ^ 20
    let shut := myAddr s.hw ≠ some src.toNat ∧ fget s.hw F_BLVD_CFG_MGMT_EN ≠ 1
    let wait := s.hw.blvd.e2e.find? fun w => w.flow == f && w.seq == seq && w.dest == src.toNat && w.destFlow == arg1.toNat % 4096
    (shut → yields (.e2eAck src result arg0 arg1) s fun t => t.hw.blvd.e2e = s.hw.blvd.e2e ∧ t.hw.rbt = s.hw.rbt ∧ sameMemory s t) ∧
    (¬ shut → wait = none → changes (.e2eAck src result arg0 arg1) s fun h => fadd h F_BLVD_ERR_LATE_ACK 1) ∧
    (∀ w, ¬ shut → wait = some w → let fl := flowOf s.hw f
      (result ≠ 0 → yields (.e2eAck src result arg0 arg1) s fun t => t.hw.blvd.e2e = s.hw.blvd.e2e.filter (· ≠ w) ∧ (flowOf t.hw f).stalled = true ∧ (flowOf t.hw f).items = fl.items ∧ sameMemory s t) ∧
      (result = 0 → rbtHeld s.hw = true → actionOf s.hw f = 4 → yields (.e2eAck src result arg0 arg1) s fun t => t.hw.blvd.e2e = s.hw.blvd.e2e.filter (· ≠ w) ∧ sameMemory s t ∧
        (flowOf t.hw f).stalled = false ∧ (flowOf t.hw f).items = fl.items.map fun i => if i.seq = seq ∧ i.st = .acting then { i with st := .complete } else i))) ∧
  (∀ (f : Fin 4096) (s : State), let wait := s.hw.blvd.e2e.find? (·.flow == f.val)
    (wait = none → exec (.e2eTimeout f) s = .next s) ∧
    (∀ w, wait = some w → yields (.e2eTimeout f) s fun t => t.hw.blvd.e2e = s.hw.blvd.e2e.filter (· ≠ w) ∧ (flowOf t.hw f.val).stalled = true ∧ (flowOf t.hw f.val).items = (flowOf s.hw f.val).items)) ∧
  (∀ (who : Requester) (addr : BitVec 52) (data : List (BitVec 8)) (poison : Bool) (s : State), let cmd := Instr.remoteWrite who addr data poison
    ((∀ o, placeOf s.hw addr.toNat ≠ .remote o) → changes cmd s fun h => setBusErr h true) ∧
    (∀ o part g b, placeOf s.hw addr.toNat = .remote o → (askerOf s.hw who).part = some part → data ≠ [] → data.length ≤ 1984 → o % 4096 + data.length ≤ 4096 → let d := o / 2 ^ 32
      myAddr s.hw ≠ some d → fget s.hw F_BLVD_ROUTE_VALID 0 d = 1 → fget s.hw F_BLVD_ROUTE_GATE 0 d = g → fget s.hw F_BLVD_ROUTE_BUNDLE 0 d = b → fget s.hw F_BLVD_BUNDLE_STATE g b = 3 →
      yields cmd s fun t => let n := ((wcountOf s.hw d).getD 0 + 1) % 65536
        wcountOf t.hw d = some n ∧ t.hw.busErr = false ∧ t.hw.regs = s.hw.regs ∧ sameMemory s t ∧
        ∃ p : BPacket, bundleOf t.hw g b = { bundleOf s.hw g b with txq := (bundleOf s.hw g b).txq ++ [p] } ∧ stTc p.start = 1 ∧ stDest p.start = d ∧ stSr p.start = false ∧ stHops p.start = 0 ∧
          stUnits p.start = 1 + (data.length + 63) / 64 ∧
          p.units = unitsOf (leBytes 4 (o % 2 ^ 32) ++ leBytes 2 data.length ++ leBytes 1 (b2n poison + 2 * b2n (wcountOf s.hw d).isNone) ++ zeros 1 ++ leBytes 2 n ++ leBytes 1 part ++ zeros 53 ++ data))) ∧
  (∀ (who : Requester) (p : Fin 8) (addr : BitVec 52) (s : State), accepts s who R_BLVD_FREE 0 p.val → let a := addr.toNat / 64 * 64
    let is := ∃ l ∈ s.hw.blvd.landed, l.part = p.val ∧ l.addr = a ∧ l.freed = false
    (¬ is → changes (.blvdFree who p addr) s fun h => { setBusErr h false with lastResult := [8] }) ∧
    (is → yields (.blvdFree who p addr) s fun t => t.hw.lastResult = [0] ∧ (∀ l ∈ t.hw.blvd.landed, l.part = p.val → l.addr = a → l.freed = true) ∧
      ∀ l ∈ s.hw.blvd.landed, l.part ≠ p.val → l ∈ t.hw.blvd.landed)) ∧
  (∀ (g : Fin 64) (b : Fin 4) (src : BitVec 12) (arg0 arg1 : BitVec 64) (s : State), yields (.routeWrite g b src arg0 arg1) s fun t =>
    { t.hw with regs := s.hw.regs, blvd := s.hw.blvd, freeCtr := s.hw.freeCtr } = s.hw ∧
    onlyFields s.hw t.hw [F_BLVD_ADDR_ADDR, F_BLVD_ADDR_SOURCE, F_BLVD_ERR_NO_ROUTE, F_BLVD_ROUTE_BUNDLE, F_BLVD_ROUTE_GATE, F_BLVD_ROUTE_VALID] ∧
    sameMemory s t) ∧
  (∀ (g : Fin 64) (b : Fin 4) (src : BitVec 12) (arg0 : BitVec 64) (s : State), yields (.routeRead g b src arg0) s fun t =>
    { t.hw with regs := s.hw.regs, blvd := s.hw.blvd, freeCtr := s.hw.freeCtr } = s.hw ∧
    onlyFields s.hw t.hw [F_BLVD_ADDR_ADDR, F_BLVD_ADDR_SOURCE, F_BLVD_ERR_NO_ROUTE, F_BLVD_ROUTE_BUNDLE, F_BLVD_ROUTE_GATE, F_BLVD_ROUTE_VALID] ∧
    sameMemory s t) ∧
  (∀ (g : Fin 64) (b : Fin 4) (src : BitVec 12) (arg0 : BitVec 64) (s : State), yields (.nbrRead g b src arg0) s fun t =>
    { t.hw with regs := s.hw.regs, blvd := s.hw.blvd, freeCtr := s.hw.freeCtr } = s.hw ∧
    onlyFields s.hw t.hw [F_BLVD_ADDR_ADDR, F_BLVD_ADDR_SOURCE, F_BLVD_ERR_NO_ROUTE, F_BLVD_ROUTE_BUNDLE, F_BLVD_ROUTE_GATE, F_BLVD_ROUTE_VALID] ∧
    sameMemory s t) ∧
  (∀ (g : Fin 64) (b : Fin 4) (src : BitVec 12) (arg0 arg1 : BitVec 64) (s : State), yields (.setAddr g b src arg0 arg1) s fun t =>
    { t.hw with regs := s.hw.regs, blvd := s.hw.blvd, freeCtr := s.hw.freeCtr } = s.hw ∧
    onlyFields s.hw t.hw [F_BLVD_ADDR_ADDR, F_BLVD_ADDR_SOURCE, F_BLVD_ERR_NO_ROUTE, F_BLVD_ROUTE_BUNDLE, F_BLVD_ROUTE_GATE, F_BLVD_ROUTE_VALID] ∧
    sameMemory s t) ∧
  (∀ (g : Fin 64) (b : Fin 4) (src : BitVec 12) (arg0 arg1 : BitVec 64) (s : State), yields (.echo g b src arg0 arg1) s fun t =>
    { t.hw with regs := s.hw.regs, blvd := s.hw.blvd, freeCtr := s.hw.freeCtr } = s.hw ∧
    onlyFields s.hw t.hw [F_BLVD_ADDR_ADDR, F_BLVD_ADDR_SOURCE, F_BLVD_ERR_NO_ROUTE, F_BLVD_ROUTE_BUNDLE, F_BLVD_ROUTE_GATE, F_BLVD_ROUTE_VALID] ∧
    sameMemory s t) ∧
  (∀ (f : Fin 4096) (s : State), yields (.e2eTimeout f) s fun t =>
    { t.hw with regs := s.hw.regs, rbt := s.hw.rbt, blvd := s.hw.blvd, ints := s.hw.ints } = s.hw ∧
    onlyFields s.hw t.hw [F_INT_SRC_STATE_EVENTS, F_INT_SRC_STATE_PENDING, F_PART_QUOTA_STATUS_OVER, F_RBT_FLOW_STATUS_IN_PROC,
      F_RBT_FLOW_STATUS_ONCHIP_DEPTH, F_RBT_FLOW_STATUS_OVF_DEPTH, F_RBT_FLOW_STATUS_STALLED, F_RBT_PART_USE_ONCHIP_USED, F_RBT_PART_USE_OPEN,
      F_RBT_PART_USE_OPEN_OVER, F_RBT_PART_USE_OVF_OVER, F_RBT_PART_USE_OVF_USED, F_RBT_STATUS_ONCHIP_USED, F_RBT_STATUS_OPEN_USED] ∧
    sameMemory s t) ∧
  (∀ (who : Requester) (p : Fin 8) (addr : BitVec 52) (s : State), yields (.blvdFree who p addr) s fun t =>
    { t.hw with regs := s.hw.regs, blvd := s.hw.blvd, kyd := s.hw.kyd, busErr := s.hw.busErr, lastResult := s.hw.lastResult } = s.hw ∧
    onlyFields s.hw t.hw [F_BLVD_LAND_STATUS_TAIL, F_KYD_ELOG_SEQ_NEXT] ∧
    sameMemory s t) ∧
  (∀ (src : BitVec 12) (result : BitVec 8) (arg0 arg1 : BitVec 64) (s : State), yields (.e2eAck src result arg0 arg1) s fun t =>
    { t.hw with regs := s.hw.regs, lan := s.hw.lan, rbt := s.hw.rbt, qu := s.hw.qu, eng := s.hw.eng, hom := s.hw.hom, par := s.hw.par, host := s.hw.host, blvd := s.hw.blvd, ints := s.hw.ints, kyd := s.hw.kyd, freeCtr := s.hw.freeCtr, lastResult := s.hw.lastResult } = s.hw ∧
    t.pending = s.pending) ∧
  (∀ (who : Requester) (addr : BitVec 52) (data : List (BitVec 8)) (poison : Bool) (s : State), yields (.remoteWrite who addr data poison) s fun t =>
    { t.hw with regs := s.hw.regs, qu := s.hw.qu, hom := s.hw.hom, blvd := s.hw.blvd, ints := s.hw.ints, kyd := s.hw.kyd, freeCtr := s.hw.freeCtr, busErr := s.hw.busErr, lastResult := s.hw.lastResult } = s.hw ∧
    t.pending = s.pending) ∧
  (∀ (g : Fin 64) (b : Fin 4) (start : BitVec 48) (units : List (BitVec 512)) (end_ : BitVec 48) (s : State), yields (.blvdPacket g b start units end_) s fun t =>
    { t.hw with regs := s.hw.regs, lan := s.hw.lan, rbt := s.hw.rbt, qu := s.hw.qu, eng := s.hw.eng, hom := s.hw.hom, par := s.hw.par, host := s.hw.host, blvd := s.hw.blvd, ints := s.hw.ints, kyd := s.hw.kyd, freeCtr := s.hw.freeCtr, lastResult := s.hw.lastResult } = s.hw ∧
    t.pending = s.pending)

/-- Events count, one ready source commits for a queue, its message is accepted once, and a claim takes the oldest entry. For every
source: an event, or a write of 1 to PENDING by a requester that may, adds 1 to EVENTS up to 255 and sets PENDING, no other source
changes, and a reserved source never becomes pending; CLEAR zeroes both. A message commits just when its source is pending and has
reached COUNT or its time, is not masked, disabled or in flight, its target has a credit, and no such source for the same target has
a higher priority or an equal one and a lower number; PENDING and EVENTS read 0 and IN_FLIGHT 1. The target is Kydin without an
owner or with CORE 0xFF, the queue of CORE, or the orphan target. A message is accepted into its queue, discarded when the partition
is down, or waits and wakes a sleeping square. A claim returns the oldest entry and clears IN_FLIGHT; the SEC queue reads 0 from the
normal world. A read-back waits for messages on their way. A new GPI level raises on the selected edge. A write of FREEZE acts on
the uncore counters 128 gate cycles later. (R519, R520, R521, R522, R523, R524, R525, R526, R527, R528, R529, R541) -/
def Obligations.InterruptsCountCommitDeliverAndClaim : Prop :=
  (∀ (who : Requester) (i : Fin 2064) (s : State), let n := i.val
    let owner := srcOwner s.hw n
    let may := who = .kydin ∨ ∃ p, owner = some p ∧ (isSecureOf s.hw who p = true ∨ (isOf s.hw who p = true ∧ fget s.hw F_INT_SRC_CFG_SECURE 0 n ≠ 1))
    let raised := fun (t : State) => fget t.hw F_INT_SRC_STATE_PENDING 0 n = 1 ∧ fget t.hw F_INT_SRC_STATE_EVENTS 0 n = min (fget s.hw F_INT_SRC_STATE_EVENTS 0 n + 1) 255 ∧
      ∀ k, k < 65536 → k ≠ n → fget t.hw F_INT_SRC_STATE_PENDING 0 k = fget s.hw F_INT_SRC_STATE_PENDING 0 k ∧ fget t.hw F_INT_SRC_STATE_EVENTS 0 k = fget s.hw F_INT_SRC_STATE_EVENTS 0 k
    let same := fun (t : State) => ∀ k, fget t.hw F_INT_SRC_STATE_PENDING 0 k = fget s.hw F_INT_SRC_STATE_PENDING 0 k ∧ fget t.hw F_INT_SRC_STATE_EVENTS 0 k = fget s.hw F_INT_SRC_STATE_EVENTS 0 k
    let serves := served s.hw who R_INT_SRC_STATE = true
    ((8 ≤ n ∧ n < 32) ∨ (1168 ≤ n ∧ n < 2048) → exec (.sourceEvent none i) s = .next s) ∧
    (n < 8 ∨ (32 ≤ n ∧ n < 1168) ∨ 2048 ≤ n → yields (.sourceEvent none i) s raised) ∧
    (¬ serves → changes (.sourceEvent (some who) i) s (setBusErr · true) ∧ changes (.clear who i) s (setBusErr · true)) ∧
    (serves → ¬ may → yields (.sourceEvent (some who) i) s same ∧ yields (.clear who i) s same) ∧
    (serves → may → (8 ≤ n ∧ n < 32) ∨ (1328 ≤ n ∧ n < 2048) → changes (.sourceEvent (some who) i) s (setBusErr · false)) ∧
    (serves → may → n < 8 ∨ (32 ≤ n ∧ n < 1328) ∨ 2048 ≤ n → yields (.sourceEvent (some who) i) s raised) ∧
    (serves → may → yields (.clear who i) s fun t => fget t.hw F_INT_SRC_STATE_PENDING 0 n = 0 ∧ fget t.hw F_INT_SRC_STATE_EVENTS 0 n = 0 ∧
      tfind t.hw.ints.firstAt n = none ∧ t.hw.ints.flight = s.hw.ints.flight ∧ t.hw.ints.queue = s.hw.ints.queue ∧
      (who ≠ .kydin → fget t.hw F_INT_SRC_STATE_IN_FLIGHT 0 n = fget s.hw F_INT_SRC_STATE_IN_FLIGHT 0 n))) ∧
  (∀ (h : Hw) (i : Nat), let c := fget h F_INT_SRC_CFG_CORE 0 i
    let queue := if fget h F_INT_SRC_CFG_SECURE 0 i = 1 then 2 else fget h F_INT_SRC_CFG_LEVEL 0 i
    (srcOwner h i = none ∨ c = 255 → srcTarget h i = (640, false)) ∧
    (∀ p, srcOwner h i = some p → c ≠ 255 → (coreGone h c = false → srcTarget h i = (4 * c + queue, false)) ∧
      (coreGone h c = true → let o := fget h F_INT_ORPHAN_CORE / 2 ^ (8 * p) % 256
        (o = 255 ∨ coreGone h o = true ∨ ownerCore h o ≠ some p → srcTarget h i = (640, true)) ∧
        (o ≠ 255 → coreGone h o = false → ownerCore h o = some p → srcTarget h i = (4 * o + queue, true))))) ∧
  (∀ (i : Fin 2064) (s : State),
    let to' := fun (k : Nat) => (srcTarget s.hw k).1
    let can := fun (k : Nat) => fget s.hw F_INT_SRC_STATE_PENDING 0 k = 1 ∧
      (max 1 (fget s.hw F_INT_SRC_CFG_COUNT 0 k) ≤ fget s.hw F_INT_SRC_STATE_EVENTS 0 k ∨ tget false s.hw.ints.timeOut k = true) ∧
      fget s.hw F_INT_SRC_CFG_MASK 0 k ≠ 1 ∧ fget s.hw F_INT_CTRL_ALL_DISABLE ≠ 1 ∧ (∀ p, srcOwner s.hw k = some p → bit (fget s.hw F_INT_CTRL_DISABLE) p = false) ∧
      fget s.hw F_INT_SRC_STATE_IN_FLIGHT 0 k ≠ 1 ∧ (to' k = 640 ∨ (tget [] s.hw.ints.queue (to' k)).length + (s.hw.ints.flight.filter fun f => f.2 == to' k).length < 16)
    let waits := fget s.hw F_INT_SRC_STATE_PENDING 0 i.val = 1 ∧ fget s.hw F_INT_SRC_CFG_TIME 0 i.val ≠ 0
    let pr := fun (k : Nat) => fget s.hw F_INT_SRC_CFG_PRIORITY 0 k
    let first := ∀ k, k < 65536 → k ≠ i.val → can k → to' k = to' i.val → pr k < pr i.val ∨ (pr k = pr i.val ∧ i.val < k)
    (modeNow s.hw < 2 ∨ ¬ can i.val ∨ ¬ first → exec (.interruptCommit i) s = .next s) ∧
    (2 ≤ modeNow s.hw → can i.val → first → yields (.interruptCommit i) s fun t => fget t.hw F_INT_SRC_STATE_PENDING 0 i.val = 0 ∧ fget t.hw F_INT_SRC_STATE_EVENTS 0 i.val = 0 ∧
      fget t.hw F_INT_SRC_STATE_IN_FLIGHT 0 i.val = 1 ∧ fget t.hw F_INT_SRC_STATE_ORPHANED 0 i.val = b2n (srcTarget s.hw i.val).2 ∧
      t.hw.ints.flight = s.hw.ints.flight ++ [(i.val, (srcTarget s.hw i.val).1)] ∧ t.hw.ints.queue = s.hw.ints.queue) ∧
    (¬ waits → exec (.coalesceTimeout i) s = .next s) ∧
    (waits → coalesceEnd s.hw i.val ≤ s.hw.now ∨ aveQuiet s.hw = true → yields (.coalesceTimeout i) s fun t =>
      t.hw.now = max s.hw.now (tget 0 s.hw.ints.firstAt i.val + 10240 * fget s.hw F_INT_SRC_CFG_TIME 0 i.val) ∧
      tget false t.hw.ints.timeOut i.val = true ∧ { t.hw.ints with timeOut := s.hw.ints.timeOut } = s.hw.ints)) ∧
  (∀ s : State, s.hw.ints.flight = [] → exec .interruptMessage s = .next s) ∧
  (∀ (i t : Nat) (s : State), s.hw.ints.flight = [(i, t)] →
    (t = 640 → yields .interruptMessage s fun u => u.hw.ints.kydin = s.hw.ints.kydin ++ [i] ∧ u.hw.ints.flight = [] ∧ u.hw.regs = s.hw.regs) ∧
    (t < 640 → pwrOf s.hw (t / 8) = pwrOn → targetDown s.hw t = true → yields .interruptMessage s fun u => u.hw.ints.queue = s.hw.ints.queue ∧ u.hw.ints.flight = [] ∧
      fget u.hw F_INT_SRC_STATE_IN_FLIGHT 0 i = 0) ∧
    (t < 640 → pwrOf s.hw (t / 8) = pwrOn → targetDown s.hw t = false → yields .interruptMessage s fun u => tget [] u.hw.ints.queue t = tget [] s.hw.ints.queue t ++ [i] ∧
      u.hw.ints.flight = [] ∧ (∀ k, k ≠ t → tget [] u.hw.ints.queue k = tget [] s.hw.ints.queue k) ∧
      (fget s.hw F_CORE_STATUS_STATE (t / 4) = 2 → fget u.hw F_CORE_STATUS_STATE (t / 4) = 1)) ∧
    (t < 640 → pwrOf s.hw (t / 8) = pwrAgentsOff ∨ pwrOf s.hw (t / 8) = pwrSquareOff → yields .interruptMessage s fun u => u.hw.ints = s.hw.ints ∧ pwrOf u.hw (t / 8) = pwrWaking)) ∧
  (∀ (c : Fin 160) (s : State), ∀ e ∈ [(IntQueue.m, 0), (.s, 1), (.sec, 2)], let q := tget [] s.hw.ints.queue (4 * c.val + e.2)
    let shut := e.2 = 2 ∧ fget s.hw F_CORE_STATUS_WORLD c.val ≠ 1
    (shut → yields (.claim c e.1) s fun t => t.hw.lastRead = some 0 ∧ t.hw.ints = s.hw.ints) ∧
    (¬ shut → q = [] → changes (.claim c e.1) s fun h => { h with lastRead := some 0 }) ∧
    (∀ i r, ¬ shut → q = i :: r → yields (.claim c e.1) s fun t => t.hw.lastRead = some (BitVec.ofNat 64 (2 ^ 63 + i)) ∧ tget [] t.hw.ints.queue (4 * c.val + e.2) = r ∧
      (∀ k, k ≠ 4 * c.val + e.2 → tget [] t.hw.ints.queue k = tget [] s.hw.ints.queue k) ∧ fget t.hw F_INT_SRC_STATE_IN_FLIGHT 0 i = 0)) ∧
  (∀ (who : Requester) (i : Fin 2064) (s : State), served s.hw who R_INT_SRC_CFG = true →
    ((∃ f ∈ s.hw.ints.flight, f.1 = i.val) → changes (.cfgReadback who i) s fun h => { h with lastRead := none }) ∧
    ((∀ f ∈ s.hw.ints.flight, f.1 ≠ i.val) → changes (.cfgReadback who i) s fun h => { setBusErr h false with lastRead := some (BitVec.ofNat 64 (srcCfgVal h i.val)) })) ∧
  (∀ (n : Fin 16) (level : Bool) (s : State), let edge := fget s.hw F_INT_GPI_CFG_EDGE 0 n.val
    let old := fon s.hw F_INT_GPI_CFG_LEVEL 0 n.val
    let spill := fget s.hw F_MODE_CONFIG_SPILL_EN = 1 ∧ fget s.hw F_MODE_CONFIG_SPILL_GPI = n.val
    let fires := edge = 2 ∨ (edge = 1 ∧ level = false) ∨ (edge ≠ 1 ∧ edge ≠ 2 ∧ level = true)
    (old = level → exec (.gpiEdge n level) s = .next s) ∧
    (old ≠ level → yields (.gpiEdge n level) s fun t => fget t.hw F_INT_GPI_CFG_LEVEL 0 n.val = b2n level ∧ (¬ spill → t.hw.mod = s.hw.mod) ∧ (spill → t.hw.mod.spillLevel = some level) ∧
      (fires → fget t.hw F_INT_SRC_STATE_PENDING 0 (2048 + n.val) = 1 ∧
        fget t.hw F_INT_SRC_STATE_EVENTS 0 (2048 + n.val) = min (fget s.hw F_INT_SRC_STATE_EVENTS 0 (2048 + n.val) + 1) 255) ∧
      (¬ fires → ¬ spill → fget t.hw F_INT_SRC_STATE_PENDING 0 (2048 + n.val) = fget s.hw F_INT_SRC_STATE_PENDING 0 (2048 + n.val)))) ∧
  (∀ (who : Requester) (v : Bool) (s : State), accepts s who R_PMU_GLOBAL 0 0 → changes (.freeze who v) s fun h => setFreeze (setBusErr h false) v) ∧
  (∀ (h : Hw) (v : Bool) (t : Nat), h.now ≤ t → frozen { setFreeze h v with now := t } =
    if t / 64 < h.now / 64 + 128 then frozen { h with now := t } else v) ∧
  (∀ (who : Option Requester) (i : Fin 2064) (s : State), yields (.sourceEvent who i) s fun t =>
    { t.hw with regs := s.hw.regs, ints := s.hw.ints, kyd := s.hw.kyd, busErr := s.hw.busErr } = s.hw ∧
    onlyFields s.hw t.hw [F_INT_SRC_STATE_EVENTS, F_INT_SRC_STATE_PENDING, F_KYD_ELOG_SEQ_NEXT] ∧
    sameMemory s t) ∧
  (∀ (who : Requester) (i : Fin 2064) (s : State), yields (.clear who i) s fun t =>
    { t.hw with regs := s.hw.regs, ints := s.hw.ints, kyd := s.hw.kyd, busErr := s.hw.busErr } = s.hw ∧
    onlyFields s.hw t.hw [F_INT_SRC_STATE_EVENTS, F_INT_SRC_STATE_IN_FLIGHT, F_INT_SRC_STATE_PENDING, F_KYD_ELOG_SEQ_NEXT] ∧
    sameMemory s t) ∧
  (∀ (i : Fin 2064) (s : State), coalesceEnd s.hw i.val ≤ s.hw.now ∨ aveQuiet s.hw = true → yields (.coalesceTimeout i) s fun t =>
    { t.hw with regs := s.hw.regs, ints := s.hw.ints, now := s.hw.now, freeCtr := s.hw.freeCtr } = s.hw ∧
    onlyFields s.hw t.hw [F_ENG_PMU_CNT_COUNT, F_ENG_PMU_CTL_OVF, F_GATE_PMU_CNT_COUNT, F_GATE_PMU_CTL_OVF, F_KYD_RTC_FRACTION, F_KYD_RTC_SECONDS,
      F_QMC_CHERR_CE_WINDOW, F_QMC_PMU_CNT_COUNT, F_QMC_PMU_CTL_OVF, F_RBT_PMU_CNT_COUNT, F_RBT_PMU_CTL_OVF] ∧
    sameMemory s t) ∧
  (∀ (i : Fin 2064) (s : State), yields (.interruptCommit i) s fun t =>
    { t.hw with regs := s.hw.regs, ints := s.hw.ints, kyd := s.hw.kyd } = s.hw ∧
    onlyFields s.hw t.hw [F_INT_SRC_STATE_EVENTS, F_INT_SRC_STATE_IN_FLIGHT, F_INT_SRC_STATE_ORPHANED, F_INT_SRC_STATE_PENDING, F_KYD_ELOG_SEQ_NEXT] ∧
    sameMemory s t) ∧
  (∀ (s : State), yields .interruptMessage s fun t =>
    { t.hw with regs := s.hw.regs, grid := s.hw.grid, ints := s.hw.ints, freeCtr := s.hw.freeCtr, busErr := s.hw.busErr } = s.hw ∧
    onlyFields s.hw t.hw [F_CORE_STATUS_STATE, F_INT_SRC_STATE_IN_FLIGHT, F_PART_PWR_REQ_RESULT, F_STR_CMD_RESULT, F_STR_PROBE_CNT_COUNT,
      F_STR_PROBE_CTL_DROPS, F_STR_STATUS_ABORTS, F_STR_STATUS_DETACHED_DROPS, F_STR_STATUS_HOLDING, F_STR_STATUS_PWR] ∧
    sameMemory s t) ∧
  (∀ (c : Fin 160) (queue : IntQueue) (s : State), yields (.claim c queue) s fun t =>
    { t.hw with regs := s.hw.regs, ints := s.hw.ints, kyd := s.hw.kyd, lastRead := s.hw.lastRead } = s.hw ∧
    onlyFields s.hw t.hw [F_INT_SRC_STATE_IN_FLIGHT, F_KYD_ELOG_SEQ_NEXT] ∧
    sameMemory s t) ∧
  (∀ (who : Requester) (i : Fin 2064) (s : State), yields (.cfgReadback who i) s fun t =>
    { t.hw with regs := s.hw.regs, busErr := s.hw.busErr, lastRead := s.hw.lastRead } = s.hw ∧
    onlyFields s.hw t.hw [F_INT_SRC_CFG_OWNED, F_INT_SRC_CFG_OWNER] ∧
    sameMemory s t) ∧
  (∀ (n : Fin 16) (level : Bool) (s : State), yields (.gpiEdge n level) s fun t =>
    { t.hw with regs := s.hw.regs, mod := s.hw.mod, ints := s.hw.ints } = s.hw ∧
    onlyFields s.hw t.hw [F_INT_GPI_CFG_LEVEL, F_INT_SRC_STATE_EVENTS, F_INT_SRC_STATE_PENDING, F_MODE_REQUEST_RESULT,
      F_MODE_STATUS_IN_TRANSITION, F_MODE_STATUS_QUEUED_MODE, F_MODE_STATUS_QUEUED_VALID, F_MODE_STATUS_TARGET, F_MODE_STOP_STAMP_CROSSING,
      F_MODE_STOP_STAMP_TURN] ∧
    sameMemory s t) ∧
  (∀ (who : Requester) (v : Bool) (s : State), yields (.freeze who v) s fun t =>
    { t.hw with regs := s.hw.regs, grid := { t.hw.grid with freezes := s.hw.grid.freezes }, kyd := s.hw.kyd, busErr := s.hw.busErr } = s.hw ∧
    onlyFields s.hw t.hw [F_KYD_ELOG_SEQ_NEXT, F_PMU_GLOBAL_FREEZE] ∧
    sameMemory s t)

/-- A mailbox request is taken up, answered BUSY or BAD_REQUEST, or runs; modes, supply, calendar, records and snapshots do what
R553 says. For every command of R553: without power, in a module reset, or under the ROM for a command that is no recovery command
nothing happens; a request of a busy path, or during an update session, is BUSY; one on a path that does not offer it is
BAD_REQUEST. An SMBus answer is TAG, RESULT and payload with SMB_ALERT_N low, and RESPONSE_READ gives it and releases the line. INFO
gives serial, part, mode and test state. MODE gives the RESULT of R98. WAKE takes M0 to M1 and on to M2 where it may, and is
NOT_PERMITTED elsewhere; DORMANT goes to M0 with DRAM lost; WARM_RESET resets; HOLD sets or clears the service hold. SUPPLY to an
invalid input FAILS. RTC sets and returns the calendar. LIFE_READ and ELOG_READ return the entry at an index and the oldest record
from a SEQ. SNAPSHOT and the daily entries are written in the layouts of R547, and ELOG_FLUSH copies new records to NOR and the
mirror. The order of the checks, that DORMANT, WARM_RESET and HOLD answer before they act, and RESULT for an argument out of range
are the model's choice (logs 36, 37). (R552, R553, R122, R134, R98, R74, R58, R544, R547, R549, R548, R550) -/
def Obligations.MailboxRequestsAreTakenUpAndAnswered : Prop :=
  (∀ (c : Instr) (path : MailPath) (smb band rom : Bool) (s : State), mailOf c = some (path, smb, band, rom) →
    (powered s.hw = false ∨ s.hw.mod.warmReset = true ∨ (s.hw.mod.fwVerified = false ∧ rom = false) → exec c s = .next s) ∧
    (path = .inband → s.hw.kyd.mboxAddr = none ∨ pathRuns s.hw path = true → exec c s = .next s) ∧
    (∀ tag, path = .smbus tag → powered s.hw = true → s.hw.mod.warmReset = false → s.hw.mod.fwVerified = true ∨ rom = true →
      (pathRuns s.hw path = true ∨ s.hw.kyd.sessionPath.isSome = true → answers c path s { hw := s.hw } 5) ∧
      (pathRuns s.hw path = false → s.hw.kyd.sessionPath = none → smb = false → answers c path s { hw := s.hw } 7)) ∧
    (∀ h, path = .inband → takesUp s path h → s.hw.mod.fwVerified = true ∨ rom = true → band = false → answers c path s { hw := h } 7)) ∧
  (∀ (h : Hw) (m : Mem) (tag : BitVec 8) (code : Nat) (b : List Byte), let e := mailAnswer h m (.smbus tag) code b
    e.ops = [] ∧ e.hw = { h with kyd := { h.kyd with respSmb := some (tag :: BitVec.ofNat 8 code :: b) }, sup := { h.sup with smbAlert := true } }) ∧
  (∀ (h : Hw) (m : Mem) (a code : Nat) (b : List Byte), h.kyd.mboxAddr = some a → let e := mailAnswer h m .inband code b
    let w := agentStore h m .kydin (a + 0x800) (BitVec.ofNat 8 h.kyd.tagIn :: BitVec.ofNat 8 code :: b)
    e.ops = w.ops ∧ e.hw = fset { w.hw with kyd := { w.hw.kyd with mboxAddr := none } } F_KYD_MBOX_RESULT 2) ∧
  (∀ s : State, changes .responseRead s fun h =>
    if powered h = true then { h with sup := { h.sup with smbAlert := false }, lastResult := h.kyd.respSmb.getD [] } else h) ∧
  (∀ (path : MailPath) (s : State) (h : Hw), takesUp s path h → ∃ x y n, answers (.info path) path s { hw := { h with freeCtr := n } } 2
    (leBytes 8 s.hw.blvd.serial ++ leBytes 1 (b2n s.hw.boot.partIs384) ++ leBytes 4 Config.romVersion.toNat ++ leBytes 4 x ++ leBytes 4 y ++
      leBytes 1 (modeNow s.hw) ++ leBytes 1 (fget s.hw F_KYD_STATUS_TEST))) ∧
  (∀ (path : MailPath) (mode : BitVec 8) (s : State) (h : Hw), takesUp s path h → s.hw.mod.fwVerified = true →
    let m := mode.toNat
    let waits := fget s.hw F_MODE_STATUS_IN_TRANSITION = 1 ∨ fget s.hw F_MODE_STATUS_WAIT_SUPPLY = 1 ∨ s.hw.sup.avgWait = true
    (waits → replies (.mboxMode path mode) path s 2 [1] fun t => fget t.hw F_MODE_STATUS_QUEUED_VALID = 1 ∧ fget t.hw F_MODE_STATUS_QUEUED_MODE = m % 8 ∧
      fget t.hw F_MODE_REQUEST_RESULT = 1 ∧ modeNow t.hw = modeNow s.hw) ∧
    (¬ waits → m = modeNow s.hw → answers (.mboxMode path mode) path s { hw := answer h F_MODE_REQUEST_RESULT F_MODE_REQUEST_SEQ 2 } 2 [2]) ∧
    (¬ waits → m ≠ modeNow s.hw → requestRow (modeNow s.hw) m false = false → answers (.mboxMode path mode) path s { hw := answer h F_MODE_REQUEST_RESULT F_MODE_REQUEST_SEQ 4 } 2 [4]) ∧
    (¬ waits → requestRow (modeNow s.hw) m false = true → permitted s.hw m = false →
      answers (.mboxMode path mode) path s { hw := answer h F_MODE_REQUEST_RESULT F_MODE_REQUEST_SEQ 3 } 2 [3]) ∧
    (¬ waits → requestRow (modeNow s.hw) m false = true → permitted s.hw m = true → modeNow s.hw ≠ 7 →
      replies (.mboxMode path mode) path s 2 [1] fun t => fget t.hw F_MODE_STATUS_IN_TRANSITION = 1 ∧ fget t.hw F_MODE_STATUS_TARGET = m ∧
        fget t.hw F_MODE_REQUEST_RESULT = 1 ∧ modeNow t.hw = modeNow s.hw)) ∧
  (∀ (tag : BitVec 8) (s : State), takesUp s (.smbus tag) s.hw → s.hw.mod.fwVerified = true →
    (modeNow s.hw ≠ 0 ∨ s.hw.sup.trip = true → answers (.wake (.smbus tag)) (.smbus tag) s { hw := s.hw } 6) ∧
    (modeNow s.hw = 0 → s.hw.sup.trip = false → fget s.hw F_MODE_STATUS_IN_TRANSITION ≠ 1 → replies (.wake (.smbus tag)) (.smbus tag) s 2 [] fun t =>
      modeNow t.hw = 1 ∧ fget t.hw F_MODE_STATUS_LAST_CAUSE = 7 ∧
      (bit s.hw.sup.voltOk 2 = true → s.hw.mod.serviceHold = false → fget t.hw F_MODE_STATUS_IN_TRANSITION = 1 ∧ fget t.hw F_MODE_STATUS_TARGET = 2) ∧
      (bit s.hw.sup.voltOk 2 = false ∨ s.hw.mod.serviceHold = true → fget t.hw F_MODE_STATUS_IN_TRANSITION = 0)) ∧
    (modeNow s.hw = 0 → answers (.dormant (.smbus tag)) (.smbus tag) s { hw := s.hw } 2) ∧
    (modeNow s.hw ≠ 0 → fget s.hw F_MODE_STATUS_IN_TRANSITION ≠ 1 → replies (.dormant (.smbus tag)) (.smbus tag) s 2 [] fun t =>
      modeNow t.hw = 0 ∧ fget t.hw F_MODE_STATUS_LAST_CAUSE = 7 ∧ (∀ a, t.mem.byte a = 0) ∧ t.mem.poison = []) ∧
    replies (.warmReset (.smbus tag)) (.smbus tag) s 2 [] (fun t => t.hw.mod.warmReset = true ∧ fget t.hw F_RESET_CAUSE_KYDIN_CMD = 1 ∧ t.mem.dram = s.mem.dram ∧
      t.hw.kyd.warmResets = s.hw.kyd.warmResets + 1)) ∧
  (∀ (path : MailPath) (set : BitVec 8) (s : State) (h : Hw), takesUp s path h → s.hw.mod.fwVerified = true →
    (2 ≤ set.toNat → answers (.hold path set) path s { hw := h } 7) ∧
    (set.toNat < 2 → replies (.hold path set) path s 2 [] fun t => t.hw.mod.serviceHold = decide (set = 1) ∧ (modeNow s.hw ≠ 2 → modeNow t.hw = modeNow s.hw) ∧
      (set = 1 → modeNow s.hw = 2 → fget s.hw F_MODE_STATUS_IN_TRANSITION ≠ 1 → modeNow t.hw = 1))) ∧
  (∀ (path : MailPath) (inp : BitVec 8) (s : State) (h : Hw), takesUp s path h → s.hw.mod.fwVerified = true →
    (2 ≤ inp.toNat → answers (.supply path inp) path s { hw := h } 7) ∧
    (inp.toNat < 2 → let i := if inp = 0 then Input.a else Input.b
      ((pinOf s.hw i).valid = false → answers (.supply path inp) path s { hw := h } 3) ∧
      ((pinOf s.hw i).valid = true → s.hw.sup.selected = some i → answers (.supply path inp) path s { hw := h } 2) ∧
      ((pinOf s.hw i).valid = true → s.hw.sup.selected ≠ some i → s.hw.sup.switchTo.isSome = true → answers (.supply path inp) path s { hw := h } 5) ∧
      ((pinOf s.hw i).valid = true → s.hw.sup.selected ≠ some i → s.hw.sup.switchTo = none → replies (.supply path inp) path s 2 [] fun t =>
        t.hw.sup.selected = some i ∧ ∃ e r, t.hw.kyd.life = e :: r ∧ e.type = 4 ∧ e.body.headD 0 = 3))) ∧
  (∀ (path : MailPath) (idx : BitVec 16) (s : State) (h : Hw), takesUp s path h → s.hw.mod.fwVerified = true →
    ∃ x, answers (.sensor path idx) path s { hw := { h with freeCtr := s.hw.freeCtr + 1 } } 2 (leBytes 2 x)) ∧
  (∀ (path : MailPath) (set : BitVec 8) (seconds : BitVec 64) (s : State) (h : Hw), takesUp s path h → s.hw.mod.fwVerified = true →
    (2 ≤ set.toNat → answers (.rtc path set seconds) path s { hw := h } 7) ∧
    (set = 0 → answers (.rtc path set seconds) path s { hw := h } 2 (leBytes 8 (fget s.hw F_KYD_RTC_SECONDS))) ∧
    (set = 1 → replies (.rtc path set seconds) path s 2 (leBytes 8 (seconds.toNat % 2 ^ 49)) fun t =>
      fget t.hw F_KYD_RTC_SECONDS = seconds.toNat % 2 ^ 49 ∧ fget t.hw F_KYD_STATUS_RTC_VALID = 1)) ∧
  (∀ (path : MailPath) (x : BitVec 32) (s : State) (h : Hw), takesUp s path h →
    (16384 ≤ x.toNat → answers (.lifeRead path x) path s { hw := h } 7) ∧
    (x.toNat < 16384 → (∀ e ∈ s.hw.kyd.life, e.seq % 16384 ≠ x.toNat) → answers (.lifeRead path x) path s { hw := h } 2 (List.replicate 64 0xFF)) ∧
    (∀ e, x.toNat < 16384 → s.hw.kyd.life.find? (fun e => e.seq % 16384 == x.toNat) = some e → answers (.lifeRead path x) path s { hw := h } 2 (lifeBytes e)) ∧
    ((∀ r ∈ storedRecords h, r.seq < x.toNat) → answers (.elogRead path x) path s { hw := h } 3) ∧
    (∀ r ∈ storedRecords h, x.toNat ≤ r.seq → (∀ o ∈ storedRecords h, o ≠ r → o.seq < x.toNat ∨ r.seq < o.seq) →
      answers (.elogRead path x) path s { hw := h } 2 (errBytes r))) ∧
  (∀ e : LifeRec, let b := lifeBytes e
    b.length = 64 ∧ num b 0 2 = 0x4C52 ∧ num b 2 1 = e.type % 256 ∧ num b 3 1 = 1 ∧ num b 4 4 = e.seq % 2 ^ 32 ∧ num b 8 8 = e.time % 2 ^ 64 ∧
      sub b 60 4 = leBytes 4 (crc32 (b.take 60))) ∧
  (∀ r : ErrRec, let b := errBytes r
    b.length = 64 ∧ num b 0 2 = 0x4552 ∧ num b 2 1 = r.cls % 256 ∧ num b 3 1 = r.block % 256 ∧ num b 4 2 = r.inst % 2 ^ 16 ∧ num b 6 2 = r.code % 2 ^ 16 ∧
      num b 8 4 = r.seq % 2 ^ 32 ∧ num b 0x0C 2 = r.count % 2 ^ 16 ∧ num b 0x0E 1 = r.part % 256 ∧ num b 0x0F 1 = r.flags % 256 ∧ num b 0x10 8 = r.time % 2 ^ 64 ∧
      num b 0x18 8 = r.calendar % 2 ^ 64 ∧ num b 0x20 8 = r.addr % 2 ^ 64 ∧ num b 0x28 8 = r.d0 % 2 ^ 64 ∧ num b 0x30 8 = r.d1 % 2 ^ 64 ∧
      sub b 0x3C 4 = leBytes 4 (crc32 (b.take 60))) ∧
  (∀ s : State, let runs := powered s.hw = true ∧ s.hw.mod.fwVerified = true
    (¬ runs → exec .snapshot s = .next s ∧ (∀ a, exec (.lifetimeDaily a) s = .next s) ∧ exec .elogFlush s = .next s) ∧
    (runs → yields .snapshot s fun t => ∃ e r, t.hw.kyd.life = e :: r ∧ e.type = 1 ∧
      e.body = t.hw.kyd.poweredMin ++ [s.hw.kyd.thermCycles, s.hw.kyd.trips, s.hw.sup.surges, s.hw.sup.switchOvers, s.hw.kyd.warmResets] ++ s.hw.kyd.erases ∧
      t.hw.kyd.poweredMin.length = 4 ∧ (∀ i, i < 4 → lget 0 s.hw.kyd.poweredMin i ≤ lget 0 t.hw.kyd.poweredMin i) ∧
      t.hw.kyd.poweredMin.sum ≤ lget 0 s.hw.kyd.poweredMin 0 + lget 0 s.hw.kyd.poweredMin 1 + lget 0 s.hw.kyd.poweredMin 2 + lget 0 s.hw.kyd.poweredMin 3 + 60) ∧
    (∀ a : List (BitVec 16), runs → a.length = 160 → s.hw.kyd.life.length + 72 ≤ 16384 → yields (.lifetimeDaily a) s fun t =>
      let gates := (List.range 64).filter fun g => fget s.hw F_GATE_CONFIG_PERSONALITY g != 0
      t.hw.kyd.life.length = s.hw.kyd.life.length + 8 + gates.length ∧
      (∀ i, i < 8 → ∃ e ∈ t.hw.kyd.life, e.type = 2 ∧ e.body = 20 * i :: ((a.drop (20 * i)).take 20).map (·.toNat)) ∧
      (∀ g ∈ gates, ∃ e ∈ t.hw.kyd.life, e.type = 3 ∧ e.body.length = 8 ∧ e.body.take 4 = [g, fget s.hw F_GATE_CONFIG_RATE g,
        ((usedLanes s.hw g).map fun k => fget s.hw F_LANE_ERR_CRC_FAIL g k).sum, ((usedLanes s.hw g).map fun k => fget s.hw F_LANE_ERR_BLOCK_ERR g k).sum])) ∧
    (runs → s.hw.kyd.ring.length ≤ 4096 → fget s.hw F_KYD_ELOG_MIRROR_SIZE_4K = 0 → yields .elogFlush s fun t =>
      fget t.hw F_KYD_ELOG_SEQ_FLUSHED = fget s.hw F_KYD_ELOG_SEQ_NEXT % 2 ^ 32 ∧ (∀ r ∈ s.hw.kyd.ring, fget s.hw F_KYD_ELOG_SEQ_FLUSHED ≤ r.seq → r ∈ t.hw.kyd.nor) ∧
      t.hw.kyd.ring = s.hw.kyd.ring ∧ sameMemory s t) ∧
    (∀ r, runs → let size := fget s.hw F_KYD_ELOG_MIRROR_SIZE_4K
      let p := fget s.hw F_KYD_ELOG_MIRROR_PART
      size ≠ 0 → partDown s.hw p = false → s.hw.mod.dramActive = true → dirtyRecords s.hw = [r] → yields .elogFlush s fun t =>
        t.mem = s.land (agentStore (flushLog s.hw) s.mem (askerIn s.hw p true)
          (fget s.hw F_KYD_ELOG_MIRROR_BASE_4K * 4096 + 64 * (r.seq % (64 * size))) (errBytes r)).ops)) ∧
  (∀ (s : State), yields .responseRead s fun t =>
    { t.hw with sup := s.hw.sup, lastResult := s.hw.lastResult } = s.hw ∧
    sameMemory s t) ∧
  (∀ (s : State), yields .snapshot s fun t =>
    { t.hw with kyd := s.hw.kyd, freeCtr := s.hw.freeCtr } = s.hw ∧
    sameMemory s t) ∧
  (∀ (ageing : List (BitVec 16)) (s : State), yields (.lifetimeDaily ageing) s fun t =>
    { t.hw with kyd := s.hw.kyd, freeCtr := s.hw.freeCtr } = s.hw ∧
    sameMemory s t) ∧
  (∀ (path : MailPath) (s : State), yields (.info path) s fun t =>
    { t.hw with regs := s.hw.regs, sup := s.hw.sup, qu := s.hw.qu, hom := s.hw.hom, ints := s.hw.ints, kyd := s.hw.kyd, freeCtr := s.hw.freeCtr, lastResult := s.hw.lastResult } = s.hw ∧
    t.pending = s.pending) ∧
  (∀ (path : MailPath) (inp : BitVec 8) (s : State), yields (.supply path inp) s fun t =>
    { t.hw with regs := s.hw.regs, sup := s.hw.sup, mod := s.hw.mod, rbt := s.hw.rbt, qu := s.hw.qu, eng := s.hw.eng, hom := s.hw.hom, par := s.hw.par, ints := s.hw.ints, kyd := s.hw.kyd, freeCtr := s.hw.freeCtr, lastResult := s.hw.lastResult } = s.hw ∧
    t.pending = s.pending) ∧
  (∀ (path : MailPath) (idx : BitVec 16) (s : State), yields (.sensor path idx) s fun t =>
    { t.hw with regs := s.hw.regs, sup := s.hw.sup, qu := s.hw.qu, hom := s.hw.hom, ints := s.hw.ints, kyd := s.hw.kyd, freeCtr := s.hw.freeCtr, lastResult := s.hw.lastResult } = s.hw ∧
    t.pending = s.pending) ∧
  (∀ (path : MailPath) (set : BitVec 8) (seconds : BitVec 64) (s : State), yields (.rtc path set seconds) s fun t =>
    { t.hw with regs := s.hw.regs, sup := s.hw.sup, qu := s.hw.qu, hom := s.hw.hom, ints := s.hw.ints, kyd := s.hw.kyd, freeCtr := s.hw.freeCtr, lastResult := s.hw.lastResult } = s.hw ∧
    t.pending = s.pending) ∧
  (∀ (path : MailPath) (idx : BitVec 32) (s : State), yields (.lifeRead path idx) s fun t =>
    { t.hw with regs := s.hw.regs, sup := s.hw.sup, qu := s.hw.qu, hom := s.hw.hom, ints := s.hw.ints, kyd := s.hw.kyd, freeCtr := s.hw.freeCtr, lastResult := s.hw.lastResult } = s.hw ∧
    t.pending = s.pending) ∧
  (∀ (path : MailPath) (seq : BitVec 32) (s : State), yields (.elogRead path seq) s fun t =>
    { t.hw with regs := s.hw.regs, sup := s.hw.sup, qu := s.hw.qu, hom := s.hw.hom, ints := s.hw.ints, kyd := s.hw.kyd, freeCtr := s.hw.freeCtr, lastResult := s.hw.lastResult } = s.hw ∧
    t.pending = s.pending) ∧
  (∀ (s : State), yields .elogFlush s fun t =>
    { t.hw with regs := s.hw.regs, qu := s.hw.qu, hom := s.hw.hom, ints := s.hw.ints, kyd := s.hw.kyd, freeCtr := s.hw.freeCtr, lastResult := s.hw.lastResult } = s.hw ∧
    t.pending = s.pending)

/-- Slot, key, component, retirement, return and test-lock requests change NOR, records and locks as the rules of R554 to R562 say.
For every request that Kydin takes up: SLOT_ERASE empties the slot named and counts the sectors of an image slot; SLOT_WRITE
programs erased bytes from 0x100 up at once and keeps the header bytes for SLOT_VERIFY, which programs them and answers NEW or
INVALID as the slot verifies; its data are the request's own bytes, or in-band those of a DRAM buffer, and a buffer that is refused
or poisoned ends FAILED; a running slot is REFUSED and a slot or range that does not exist is BAD_REQUEST. COMMIT makes a TRIAL slot
GOOD and raises the fuse SVN; BOOT_ONCE names the next slot. KEY_REVOKE never revokes the last slot, and revokes with a valid
signature of another slot's key. COMPONENT fails on a package that does not verify, measures it, and starts the loading of microcode
or sequencer firmware or applies the rest. A loaded engine or gate leaves the update, and the last one ends it. RETIRE and RESTORE
are BUSY during another retirement, fence or update, wait for a reset of the owner, refuse what R555 does not allow, and write their
entry. RETURN_PREP writes SNAPSHOT and RETURN entries and the 160-byte answer; a challenge gives a nonce after it, and a valid
unlock latches the device secret off, writes a TEST entry and opens the test modes. What R553 and R554 leave to the model (RESULT of
a bad argument or of a retired unit, a repeated revocation, an unlock without a nonce) is the model's choice (logs 36 to 39). (R105,
R109, R121, R133, R134, R547, R554, R555, R558, R560, R561, R562) -/
def Obligations.SlotsKeysUpdatesRetirementsAndReturns : Prop :=
  (∀ (path : MailPath) (target : BitVec 8) (s : State) (h : Hw), takesUp s path h → let t := target.toNat
    let others := fun (u : State) => ∀ x, x < 4 → x ≠ t → targetSlot u.hw x = targetSlot s.hw x
    let buf := tget [] s.hw.kyd.slotBuf t
    (4 ≤ t → answers (.slotErase path target) path s { hw := h } 7 ∧ answers (.slotVerify path target) path s { hw := h } 7) ∧
    (t < 4 → targetRuns s.hw t = true → answers (.slotErase path target) path s { hw := h } 4 ∧ answers (.slotVerify path target) path s { hw := h } 4) ∧
    (t < 4 → targetRuns s.hw t = false →
      (replies (.slotErase path target) path s 2 [] fun u => targetSlot u.hw t = {} ∧ others u ∧ tget [] u.hw.kyd.slotBuf t = [] ∧
        (2 ≤ t → t - 2 < s.hw.kyd.erases.length → lget 0 u.hw.kyd.erases (t - 2) = lget 0 s.hw.kyd.erases (t - 2) + 8192)) ∧
      (∃ ok : Bool, replies (.slotVerify path target) path s (if ok then 2 else 3) [if ok then 1 else 5] fun u => others u ∧ tget [] u.hw.kyd.slotBuf t = [] ∧
        ((buf.map (·.1)).Nodup → ∀ a b, (a, b) ∈ buf → tget 0xFF (targetSlot s.hw t).bytes a = 0xFF → tget 0xFF (targetSlot u.hw t).bytes a = b) ∧
        (∀ a, a ∉ buf.map (·.1) → tget 0xFF (targetSlot u.hw t).bytes a = tget 0xFF (targetSlot s.hw t).bytes a) ∧
        (t < 2 → ok = kydinSlotOk s.hw (targetSlot u.hw t)) ∧
        (2 ≤ t → ok = imageSlotOk s.hw (targetSlot u.hw t) ∧ (targetSlot u.hw t).state = (if ok then .new else .invalid) ∧ (targetSlot u.hw t).trials = 0)))) ∧
  (∀ (path : MailPath) (target : BitVec 8) (offset : BitVec 32) (d : SlotData) (s : State) (h : Hw), takesUp s path h → let t := target.toNat
    let o := offset.toNat
    let c := Instr.slotWrite path target offset d
    let wrong := (∃ bytes, d = .inline bytes ∧ 240 < bytes.length) ∨ ∃ tag a n, path = .smbus tag ∧ d = .buffer a n
    let runs := t < 4 ∧ o + dataLen d ≤ targetSize t ∧ ¬ wrong
    (4 ≤ t ∨ targetSize t < o + dataLen d ∨ wrong → answers c path s { hw := h } 7) ∧
    (runs → targetRuns s.hw t = true → answers c path s { hw := h } 4) ∧
    (∀ a n h2 ok bytes pz, runs → targetRuns s.hw t = false → d = .buffer a n → agentRead h s.mem .kydin a.toNat n = (h2, ok, bytes, pz) →
      ok = false ∨ pz.any id = true → answers c path s { hw := h2 } 3) ∧
    (∀ data, runs → targetRuns s.hw t = false →
      d = .inline data ∨ (∃ a n h2 pz, d = .buffer a n ∧ agentRead h s.mem .kydin a.toNat n = (h2, true, data, pz) ∧ pz.any id = false) →
      replies c path s 2 [] fun u =>
      let now := fun (v : State) (a : Nat) => tget 0xFF (targetSlot v.hw t).bytes a
      (∀ k b, data[k]? = some b → (o + k < 256 → tfind (tget [] u.hw.kyd.slotBuf t) (o + k) = some b ∧ now u (o + k) = now s (o + k)) ∧
        (256 ≤ o + k → now s (o + k) = 0xFF → now u (o + k) = b)) ∧
      (∀ a, a < o ∨ o + data.length ≤ a ∨ a < 256 → now u a = now s a) ∧ (∀ x, x < 4 → x ≠ t → targetSlot u.hw x = targetSlot s.hw x) ∧
      (2 ≤ t → fget u.hw F_KYD_STATUS_RETURNED = 0 ∧ u.hw.kyd.returnDone = false))) ∧
  (∀ (path : MailPath) (slot : BitVec 8) (s : State) (h : Hw), takesUp s path h → s.hw.mod.fwVerified = true →
    (s.hw.boot.imgRunning = none → answers (.mboxCommit path) path s { hw := h } 4) ∧
    (∀ b, s.hw.boot.imgRunning = some b → replies (.mboxCommit path) path s 2 [] fun u =>
      imgSlot u.hw b = (if (imgSlot s.hw b).state = .trial then { imgSlot s.hw b with state := .good, trials := 0 } else imgSlot s.hw b) ∧
      imgSlot u.hw (!b) = imgSlot s.hw (!b) ∧ u.hw.boot.fuseSvn = max s.hw.boot.fuseSvn (fget s.hw F_BOOT_STATUS_IMAGE_SVN)) ∧
    (2 ≤ slot.toNat → answers (.mboxBootOnce path slot) path s { hw := h } 7) ∧
    (slot.toNat < 2 → answers (.mboxBootOnce path slot) path s { hw := { h with boot := { h.boot with bootOnce := some (slot == 1) } } } 2)) ∧
  (∀ (path : MailPath) (slot : BitVec 8) (pubkey signature : BitVec 768) (s : State) (h : Hw), takesUp s path h → let k := slot.toNat
    let c := Instr.keyRevoke path slot pubkey signature
    let revoked := fun (u : State) (i : Nat) => bit u.hw.boot.keyRevoked i
    let pub := (leBytes 96 pubkey.toNat).reverse
    let signer := ∃ i, i < 4 ∧ i ≠ k ∧ revoked s i = false ∧ lget [] s.hw.boot.keyDigests i = Config.sha384 pub
    let last := revoked s k = false ∧ ∀ i, i < 4 → i ≠ k → revoked s i = true
    (4 ≤ k → answers c path s { hw := h } 7) ∧ (k < 4 → last → answers c path s { hw := h } 4) ∧
    (k < 4 → ¬ last → ¬ signer → answers c path s { hw := h } 3) ∧
    (k < 4 → ¬ last → signer → if Config.ecdsaOk pub (leBytes 96 signature.toNat).reverse (revokeDigest s.hw k) = false then answers c path s { hw := h } 3
      else if revoked s k = true then answers c path s { hw := h } 2
      else replies c path s 2 [] fun u => revoked u k = true ∧ (∀ i, i ≠ k → revoked u i = revoked s i) ∧ ∃ e r, u.hw.kyd.life = e :: r ∧ e.type = 10 ∧ e.body = [k])) ∧
  (∀ (addr : BitVec 52) (len : Nat) (s : State) (h : Hw), takesUp s .inband h → s.hw.mod.fwVerified = true → let c := Instr.component .inband addr len
    (s.hw.boot.update ≠ .idle → answers c .inband s { hw := h } 5) ∧
    (∀ h2 img pz r l, s.hw.boot.update = .idle → agentRead h s.mem .kydin addr.toNat len = (h2, true, img, pz) → pz.any id = false → imgRecs img = some (r :: l) →
      if imageOk s.hw imgComponent len img = false then answers c .inband s { hw := h2 } 3
      else ((r.target = 3 → r.type ∈ [rtMatchTable, rtMicrocode, rtSeqFirmware]) → yields c s fun u => u.hw.boot.meas = Config.sha384 (s.hw.boot.meas ++ imgChain img)) ∧
        (r.type = rtMicrocode → r.target ≠ 0 → yields c s fun u => u.hw.boot.update = .microcode r.target (num r.body 0 4) ∧ u.hw.kyd.sessionPath = some .inband ∧
          ∀ q, q < 24 → bit r.target q = true → fget u.hw F_ENG_STATUS_LOADING q = 1) ∧
        (r.type = rtSeqFirmware → num r.body 0 8 ≠ 0 → yields c s fun u =>
          u.hw.boot.update = .seqFirmware (num r.body 0 8) (num r.body 8 4) (num r.body 12 4) (r.body.drop 16) ∧ u.hw.kyd.sessionPath = some .inband) ∧
        (r.type = rtMatchTable → let g := bits r.target 7 0
          replies c .inband s 2 [] fun u => (gateOf u.hw g).mtWait = (gateOf s.hw g).mtWait ++
            (entries16 r.body).zipIdx.map fun e => { op := .put (mtBody e.1), addr := bits r.target 25 16 + e.2, seq := none }) ∧
        (r.type = rtFirmware → r.target = 3 → replies c .inband s 2 [] fun u => tget [] u.hw.boot.fw 3 = r.body.drop 8 ∧ u.hw.par.keys = []) ∧
        (r.type = rtFirmware → r.target ≠ 3 → replies c .inband s 2 [] fun u => tget [] u.hw.boot.fw r.target = r.body.drop 8 ∧
          (smallOf u.hw (63 + r.target)).pc = BitVec.ofNat 32 (num r.body 4 4)))) ∧
  (∀ (q : Fin 24) (s : State), ((∀ e v, s.hw.boot.update = .microcode e v → bit e q.val = false ∨ runningJobs (engineOf s.hw q.val) ≠ []) → exec (.microcodeLoad q) s = .next s) ∧
    (∀ e v, s.hw.boot.update = .microcode e v → bit e q.val = true → runningJobs (engineOf s.hw q.val) = [] → (engineOf s.hw q.val).resetWait = false →
      yields (.microcodeLoad q) s fun u => fget u.hw F_ENG_INFO_MICROCODE q.val = v % 2 ^ 32 ∧ fget u.hw F_ENG_STATUS_LOADING q.val = 0 ∧
        engineOf u.hw q.val = { engineOf s.hw q.val with loadWait := none } ∧ (∀ x, x ≠ q.val → engineOf u.hw x = engineOf s.hw x) ∧
        (e ≠ 2 ^ q.val → u.hw.boot.update = .microcode (e - 2 ^ q.val) v ∧ u.hw.kyd = s.hw.kyd) ∧ (e = 2 ^ q.val → u.hw.boot.update = .idle ∧ u.hw.kyd.sessionPath = none)) ∧
    (∀ e v, s.hw.boot.update = .microcode e v → bit e q.val = true → runningJobs (engineOf s.hw q.val) = [] → (engineOf s.hw q.val).resetWait = true →
      yields (.microcodeLoad q) s fun u => fget u.hw F_ENG_STATUS_RESETTING q.val = 1 ∧ (engineOf u.hw q.val).jobs = [] ∧ (engineOf u.hw q.val).resetWait = false)) ∧
  (∀ (g : Fin 64) (s : State), ((∀ e a x b, s.hw.boot.update = .seqFirmware e a x b → bit e g.val = false) → exec (.seqFirmwareLoad g) s = .next s) ∧
    (∀ e a x b, s.hw.boot.update = .seqFirmware e a x b → bit e g.val = true → yields (.seqFirmwareLoad g) s fun u => (smallOf u.hw g.val).pc = BitVec.ofNat 32 x ∧
      tget 0 u.hw.boot.seqEntry g.val = x ∧ (smallOf u.hw g.val).isram = loadSram (isramSize g.val) a b (smallOf s.hw g.val).isram ∧
      (∀ y, y ≠ g.val → smallOf u.hw y = smallOf s.hw y) ∧ (gateOf u.hw g.val).resetWait = false ∧
      (e ≠ 2 ^ g.val → u.hw.boot.update = .seqFirmware (e - 2 ^ g.val) a x b ∧ ((gateOf s.hw g.val).resetWait = false → u.hw.kyd = s.hw.kyd)) ∧ (e = 2 ^ g.val → u.hw.boot.update = .idle ∧ u.hw.kyd.sessionPath = none))) ∧
  (∀ (path : MailPath) (kind : BitVec 8) (u : BitVec 16) (s : State) (h : Hw), takesUp s path h → s.hw.mod.fwVerified = true → let k := kind.toNat
    let n := u.toNat
    let listed := (k, n) ∈ s.hw.kyd.retired
    let entered := fun (t : State) (restore : Nat) => ∃ e r, t.hw.kyd.life = e :: r ∧ e.type = 7 ∧ e.body = [k, n, 2, restore]
    let waits := ∃ p, unitOwner s.hw k n = some p ∧ bit (fget s.hw F_PART_RESET_BUSY) p = true
    (unitOk k n = false → answers (.mboxRetire path kind u) path s { hw := h } 7 ∧ answers (.mboxRestore path kind u) path s { hw := h } 7) ∧
    (unitOk k n = true → retireBusy s.hw = true → answers (.mboxRetire path kind u) path s { hw := h } 5 ∧ answers (.mboxRestore path kind u) path s { hw := h } 5) ∧
    (unitOk k n = true → retireBusy s.hw = false → waits → (yields (.mboxRetire path kind u) s fun t => t.hw.kyd.retireWait = some (path, k, n, false) ∧ t.hw.kyd.life = s.hw.kyd.life) ∧
      yields (.mboxRestore path kind u) s fun t => t.hw.kyd.retireWait = some (path, k, n, true) ∧ t.hw.kyd.life = s.hw.kyd.life) ∧
    (unitOk k n = true → retireBusy s.hw = false → ¬ waits →
      (listed → replies (.mboxRetire path kind u) path s 4 [] fun t => t.hw.kyd.retired = s.hw.kyd.retired ∧ t.hw.kyd.life = s.hw.kyd.life) ∧
      (¬ listed → k = 2 ∨ k = 5 ∨ (k ≠ 6 ∧ diesUp s.hw = false) → replies (.mboxRetire path kind u) path s 2 [] fun t => (k, n) ∈ t.hw.kyd.retired ∧ entered t 0) ∧
      (¬ listed → k = 4 → diesUp s.hw = true → replies (.mboxRetire path kind u) path s 2 [] fun t => (k, n) ∈ t.hw.kyd.retired ∧ (gateOf t.hw n).retired = true) ∧
      (¬ listed → k = 1 → diesUp s.hw = true → asleep s.hw (routerOf n) = false → yields (.mboxRetire path kind u) s fun t => (k, n) ∈ t.hw.kyd.retired ∧
        t.hw.grid.fence = some (routerOf n, 4) ∧ t.hw.kyd.retireRun = some (1, n, false) ∧ t.hw.kyd.retirePath = some path) ∧
      (¬ listed → k = 6 → diesUp s.hw = false → replies (.mboxRetire path kind u) path s 6 [] fun t => t.hw.kyd.life = s.hw.kyd.life) ∧
      (¬ listed → k = 6 → diesUp s.hw = true → 4 ≤ sparesUsed s.hw (n / 4) (n % 4) → replies (.mboxRetire path kind u) path s 4 [] fun t => t.hw.kyd.life = s.hw.kyd.life) ∧
      (¬ listed → k = 6 → diesUp s.hw = true → sparesUsed s.hw (n / 4) (n % 4) < 4 → asleep s.hw (n / 4) = false → yields (.mboxRetire path kind u) s fun t => entered t 0 ∧
        t.hw.grid.fence = some (n / 4, 9 + n % 4) ∧ t.hw.kyd.retireRun = some (6, n, false) ∧ fget t.hw F_STR_STATUS_FENCED (n / 4) = 1) ∧
      (¬ listed ∨ k ∉ [1, 2, 4] → replies (.mboxRestore path kind u) path s 4 [] fun t => t.hw.kyd.retired = s.hw.kyd.retired ∧ t.hw.kyd.life = s.hw.kyd.life) ∧
      (listed → k = 2 ∨ k = 4 → replies (.mboxRestore path kind u) path s 2 [] fun t => (k, n) ∉ t.hw.kyd.retired ∧ entered t 1 ∧ (k = 4 → (gateOf t.hw n).retired = false)) ∧
      (listed → k = 1 → diesUp s.hw = true → asleep s.hw (routerOf n) = false → yields (.mboxRestore path kind u) s fun t => (k, n) ∉ t.hw.kyd.retired ∧ entered t 1 ∧
        t.hw.grid.fence = some (routerOf n, 6) ∧ t.hw.kyd.retireRun = some (1, n, true)))) ∧
  (∀ (tag : BitVec 8) (flags : BitVec 8) (s : State), let path := MailPath.smbus tag
    takesUp s path s.hw → s.hw.mod.fwVerified = true →
    (modeNow s.hw ≠ 1 → modeNow s.hw ≠ 3 → answers (.returnPrep path flags) path s { hw := s.hw } 6) ∧
    (modeNow s.hw = 1 ∨ modeNow s.hw = 3 → ∃ b, replies (.returnPrep path flags) path s (if s.hw.kyd.secretOff then 3 else 2) b fun t =>
      (s.hw.kyd.secretOff = false → b.length = 160 ∧ sub b 0 8 = leBytes 8 s.hw.blvd.serial ∧ sub b 24 8 = leBytes 8 (fget s.hw F_KYD_RTC_SECONDS) ∧
        sub b 20 4 = zeros 4) ∧
      fget t.hw F_KYD_STATUS_RETURNED = 1 ∧ t.hw.kyd.returnDone = true ∧ t.hw.boot.kydA = s.hw.boot.kydA ∧ t.hw.boot.kydB = s.hw.boot.kydB ∧
      (∃ e r, t.hw.kyd.life = e :: r ∧ e.type = 8 ∧ lget 0 e.body 1 = flags.toNat ∧ ∃ x ∈ r, x.type = 1) ∧
      (flags.getLsbD 0 = true → t.hw.boot.imgA = {} ∧ t.hw.boot.imgB = {}) ∧ (flags.getLsbD 0 = false → t.hw.boot = s.hw.boot))) ∧
  (∀ (tag : BitVec 8) (signature : BitVec 768) (s : State), let path := MailPath.smbus tag
    takesUp s path s.hw → s.hw.mod.fwVerified = true →
    let locked := fget s.hw F_KYD_STATUS_TEST = 2 ∨ 3 ≤ s.hw.kyd.badUnlocks
    let c := Instr.testUnlock path signature
    (locked → answers (.testChallenge path) path s { hw := s.hw } 4) ∧
    (¬ locked → 2 ≤ modeNow s.hw → answers (.testChallenge path) path s { hw := s.hw } 6) ∧
    (¬ locked → modeNow s.hw < 2 → s.hw.kyd.returnDone = false → answers (.testChallenge path) path s { hw := s.hw } 4) ∧
    (¬ locked → modeNow s.hw < 2 → s.hw.kyd.returnDone = true → ∃ n, replies (.testChallenge path) path s 2 (nonceBytes n) fun t =>
      t.hw.kyd.nonce = some n ∧ t.hw.kyd.nonceTime = gateTime s.hw ∧ t.hw.regs = s.hw.regs) ∧
    (s.hw.kyd.nonce = none → answers c path s { hw := s.hw } 4) ∧
    (∀ n, s.hw.kyd.nonce = some n → s.hw.kyd.nonceTime + 600 * second < gateTime s.hw → replies c path s 4 [] fun t => t.hw.kyd.nonce = none ∧ t.hw.regs = s.hw.regs) ∧
    (∀ n, s.hw.kyd.nonce = some n → gateTime s.hw ≤ s.hw.kyd.nonceTime + 600 * second →
      if Config.ecdsaOk Config.makerKey (leBytes 96 signature.toNat).reverse (Config.sha384 (leBytes 8 s.hw.blvd.serial ++ nonceBytes n)) = true
      then replies c path s 2 [] fun t => t.hw.kyd.nonce = none ∧ t.hw.kyd.secretOff = true ∧ fget t.hw F_KYD_STATUS_TEST = 1 ∧ fget t.hw F_KYD_STATUS_TEST_OPEN = 1 ∧
        ∃ e r, t.hw.kyd.life = e :: r ∧ e.type = 9 ∧ e.body = [1]
      else replies c path s 3 [] fun t => t.hw.kyd.nonce = none ∧ t.hw.kyd.badUnlocks = s.hw.kyd.badUnlocks + 1 ∧ t.hw.kyd.secretOff = s.hw.kyd.secretOff ∧ t.hw.regs = s.hw.regs)) ∧
  (∀ (path : MailPath) (target : BitVec 8) (s : State), yields (.slotErase path target) s fun t =>
    { t.hw with regs := s.hw.regs, sup := s.hw.sup, boot := s.hw.boot, qu := s.hw.qu, hom := s.hw.hom, ints := s.hw.ints, kyd := s.hw.kyd, freeCtr := s.hw.freeCtr, lastResult := s.hw.lastResult } = s.hw ∧
    t.pending = s.pending) ∧
  (∀ (path : MailPath) (target : BitVec 8) (s : State), yields (.slotVerify path target) s fun t =>
    { t.hw with regs := s.hw.regs, sup := s.hw.sup, boot := s.hw.boot, qu := s.hw.qu, hom := s.hw.hom, ints := s.hw.ints, kyd := s.hw.kyd, freeCtr := s.hw.freeCtr, lastResult := s.hw.lastResult } = s.hw ∧
    t.pending = s.pending) ∧
  (∀ (path : MailPath) (target : BitVec 8) (offset : BitVec 32) (data : SlotData) (s : State), yields (.slotWrite path target offset data) s fun t =>
    { t.hw with regs := s.hw.regs, sup := s.hw.sup, boot := s.hw.boot, qu := s.hw.qu, hom := s.hw.hom, ints := s.hw.ints, kyd := s.hw.kyd, freeCtr := s.hw.freeCtr, lastResult := s.hw.lastResult } = s.hw ∧
    t.pending = s.pending) ∧
  (∀ (path : MailPath) (s : State), yields (.mboxCommit path) s fun t =>
    { t.hw with regs := s.hw.regs, sup := s.hw.sup, boot := s.hw.boot, qu := s.hw.qu, hom := s.hw.hom, ints := s.hw.ints, kyd := s.hw.kyd, freeCtr := s.hw.freeCtr, lastResult := s.hw.lastResult } = s.hw ∧
    t.pending = s.pending) ∧
  (∀ (path : MailPath) (slot : BitVec 8) (s : State), yields (.mboxBootOnce path slot) s fun t =>
    { t.hw with regs := s.hw.regs, sup := s.hw.sup, boot := s.hw.boot, qu := s.hw.qu, hom := s.hw.hom, ints := s.hw.ints, kyd := s.hw.kyd, freeCtr := s.hw.freeCtr, lastResult := s.hw.lastResult } = s.hw ∧
    t.pending = s.pending) ∧
  (∀ (path : MailPath) (slot : BitVec 8) (pubkey signature : BitVec 768) (s : State), yields (.keyRevoke path slot pubkey signature) s fun t =>
    { t.hw with regs := s.hw.regs, sup := s.hw.sup, boot := s.hw.boot, qu := s.hw.qu, hom := s.hw.hom, ints := s.hw.ints, kyd := s.hw.kyd, freeCtr := s.hw.freeCtr, lastResult := s.hw.lastResult } = s.hw ∧
    t.pending = s.pending) ∧
  (∀ (g : Fin 64) (s : State), yields (.seqFirmwareLoad g) s fun t =>
    { t.hw with regs := s.hw.regs, sup := s.hw.sup, boot := s.hw.boot, lan := s.hw.lan, ave := s.hw.ave, qu := s.hw.qu, cor := s.hw.cor, hom := s.hw.hom, blvd := s.hw.blvd, ints := s.hw.ints, kyd := s.hw.kyd, freeCtr := s.hw.freeCtr, lastResult := s.hw.lastResult } = s.hw ∧
    t.pending = s.pending) ∧
  (∀ (path : MailPath) (flags : BitVec 8) (s : State), yields (.returnPrep path flags) s fun t =>
    { t.hw with regs := s.hw.regs, sup := s.hw.sup, boot := s.hw.boot, qu := s.hw.qu, hom := s.hw.hom, ints := s.hw.ints, kyd := s.hw.kyd, freeCtr := s.hw.freeCtr, lastResult := s.hw.lastResult } = s.hw ∧
    t.pending = s.pending) ∧
  (∀ (path : MailPath) (s : State), yields (.testChallenge path) s fun t =>
    { t.hw with regs := s.hw.regs, sup := s.hw.sup, qu := s.hw.qu, hom := s.hw.hom, ints := s.hw.ints, kyd := s.hw.kyd, freeCtr := s.hw.freeCtr, lastResult := s.hw.lastResult } = s.hw ∧
    t.pending = s.pending) ∧
  (∀ (path : MailPath) (signature : BitVec 768) (s : State), yields (.testUnlock path signature) s fun t =>
    { t.hw with regs := s.hw.regs, sup := s.hw.sup, qu := s.hw.qu, hom := s.hw.hom, ints := s.hw.ints, kyd := s.hw.kyd, freeCtr := s.hw.freeCtr, lastResult := s.hw.lastResult } = s.hw ∧
    t.pending = s.pending)

/-- A register write ends in a bus error, is logged, or changes each field as its access type and the rules of its register say. For
every requester, address, size and word: an address without a register, a size other than 4 or 8, a misaligned access, half of a
register that has other fields than RW and RWL, and a window that does not answer end in a bus error and change nothing. A write
that the requester may not make is logged, but for one to a register with nothing to write whose window is open to the requester,
which has no effect. In a register without a rule of its own an RW field takes its bits, an RWL field does so until it is locked,
W1C and W1S bits clear and set, RO, RC and WO fields stay, and nothing else changes. A word in a command register is the command of
the table, and one without an action advances SEQ and reads RESULT 0. A write of INT_SRC_STATE is an event or a clear. KYD_MBOX
takes one request at a time; KYD_RTC sets RTC_VALID; RBT_CONFIG, RBT_PART_EVCFG, RBT_PART_EXPECT and ENG_QP_CQ keep their
conditions; a write that would enable a cache still cleaning or disable a bound slice has no effect, and ROUTER_SLEEP changes under
a fence (log 94); a shadow field waits while a COMMIT is pending, a half over what waits already; INT_CTRL and the owner-world
registers change only the bits of the requester; HOF_CFG and DLOG_CFG start on EN. That an access to a sleeping square wakes it and
is performed in one step is the model's choice (log 27). (R4, R6, R7, R8, R126, R192, R228, R444, R491, R531, R565, R568) -/
def Obligations.RegisterWritesFollowTheirAccessTypes : Prop :=
  (∀ (who : Requester) (addr size : Nat) (data : BitVec 64) (s : State), let c := Instr.registerWrite who addr size data
    let at' := regAt (addr - 0xF000000000)
    ((size ≠ 4 ∧ size ≠ 8) ∨ addr % size ≠ 0 ∨ addr < 0xF000000000 ∨ 0xF000000000 + 2 ^ 30 ≤ addr ∨ at' = none → changes c s (setBusErr · true)) ∧
    (∀ r i j, at' = some (r, i, j) → served s.hw who r = false ∨ (size = 4 ∧ ∃ f ∈ r.fields, f.acc ≠ .rw ∧ f.acc ≠ .rwl) → changes c s (setBusErr · true)) ∧
    (∀ r i j, 0xF000000000 ≤ addr → addr < 0xF000000000 + 2 ^ 30 → at' = some (r, i, j) → served s.hw who r = true →
      (size = 8 ∧ addr % 8 = 0) ∨ (size = 4 ∧ addr % 4 = 0 ∧ ∀ f ∈ r.fields, f.acc = .rw ∨ f.acc = .rwl) → regAccess s.hw who addr size = some (r, i, j))) ∧
  (∀ (who : Requester) (addr size : Nat) (data : BitVec 64) (s : State) (r : Reg) (i j : Nat), regAccess s.hw who addr size = some (r, i, j) → ordinary r → wakeFor s.hw r i = s.hw →
    let old := regVal (flushShadow s.hw) r i j
    let v := if size = 8 then data.toNat else if addr % 8 = 0 then old / 2 ^ 32 * 2 ^ 32 + data.toNat % 2 ^ 32 else old % 2 ^ 32 + data.toNat % 2 ^ 32 * 2 ^ 32
    let idle := r.right = .nobody ∧ (who = .kydin ∨ who = .trusted ∨ (r.n0 ≠ 0x100 ∧ isSecure s.hw who = true) ∨
      (r.n0 = 0x100 ∧ ∃ p, ownerCore s.hw i = some p ∧ isControlOf s.hw who p = true))
    (mayWrite s.hw who r i j = false → ¬ idle → changes (.registerWrite who addr size data) s fun h => logRefusedWrite (setBusErr h false) who r i j) ∧
    (mayWrite s.hw who r i j = false → idle → changes (.registerWrite who addr size data) s (setBusErr · false)) ∧
    (mayWrite s.hw who r i j = true → yields (.registerWrite who addr size data) s fun t => { t.hw with regs := s.hw.regs } = setBusErr s.hw false ∧
      sameMemory s t ∧ onlyRegs s.hw t.hw (r.fields.map fun f => f.key i j) ∧
      ∀ f ∈ r.fields, fget t.hw f i j = (match f.acc with
        | .rw => fieldVal f v
        | .rwl => if rwlLocked s.hw r i j then fget s.hw f i j else fieldVal f v
        | .w1c => (fget s.hw f i j - (fget s.hw f i j).land (fieldVal f v)) % 2 ^ f.width
        | .w1s => (fget s.hw f i j).lor (fieldVal f v) % 2 ^ f.width
        | .ro | .rc | .wo => fget s.hw f i j))) ∧
  (∀ (who : Requester) (addr : Nat) (data : BitVec 64) (s : State) (r : Reg) (i j : Nat), regAccess s.hw who addr 8 = some (r, i, j) →
    let c := Instr.registerWrite who addr 8 data
    let v := data.toNat
    let s1 := s.upd fun h => setBusErr (wakeFor h r i) false
    let n : Fin 2064 := Fin.ofNat 2064 j
    (∀ t, r ≠ R_INT_SRC_STATE → regCommand who r i j v s1 = some (.next t) → exec c s = .next t) ∧
    (r = R_BOOT_CTRL → (fieldVal F_BOOT_CTRL_CMD v = 1 → exec c s = exec (.bootCommit who) s1) ∧ (fieldVal F_BOOT_CTRL_CMD v = 4 → exec c s = exec (.verifySlotA who) s1)) ∧
    (r = R_MODE_REQUEST → exec c s = exec (.modeRequest who (BitVec.ofNat 3 v)) s1) ∧
    (r = R_ENG_RESET → fieldVal F_ENG_RESET_CMD v = 1 → exec c s = exec (.engineReset who (Fin.ofNat 24 i)) s1) ∧
    (r = R_CORE_CMD → fieldVal F_CORE_CMD_CMD v = 1 → exec c s = exec (.start who (Fin.ofNat 160 i) (bit v 4)) s1) ∧
    (r = R_INT_SRC_STATE → (bit v 63 = true → bit v 0 = false → exec c s = exec (.sourceEvent (some who) n) s1) ∧
      (bit v 63 = false → bit v 0 = true → exec c s = exec (.clear who n) s1) ∧ (bit v 63 = false → bit v 0 = false → exec c s = .next s1)) ∧
    (mayWrite s.hw who r i j = true →
      (r = R_KYD_MBOX → s.hw.kyd.mboxAddr.isSome = true → changes c s fun h => answer (setBusErr h false) F_KYD_MBOX_RESULT F_KYD_MBOX_SEQ 3) ∧
      (r = R_KYD_MBOX → s.hw.kyd.mboxAddr = none → changes c s fun h =>
        answer { setBusErr h false with kyd := { h.kyd with mboxAddr := some (v / 2 ^ 12 % 2 ^ 36 * 4096) } } F_KYD_MBOX_RESULT F_KYD_MBOX_SEQ 1) ∧
      (r = R_KYD_RTC → yields c s fun t => fget t.hw F_KYD_RTC_SECONDS = v / 2 ^ 15 ∧ fget t.hw F_KYD_RTC_FRACTION = v % 2 ^ 15 ∧ fget t.hw F_KYD_STATUS_RTC_VALID = 1) ∧
      (r = R_RBT_CONFIG → fget s.hw F_RBT_STATUS_HELD ≠ 1 → changes c s fun h => logRefusedWrite (setBusErr h false) who r i j) ∧
      (r = R_ENG_QP_CQ → jobsOfQp (engineOf s.hw i) j ≠ [] → changes c s fun h => logRefusedWrite (setBusErr h false) who r i j) ∧
      (r = R_ENG_QP_CQ → jobsOfQp (engineOf s.hw i) j = [] → yields c s fun t => fget t.hw F_ENG_QP_CQ_BASE_4K i j = v % 2 ^ 40 ∧ fget t.hw F_ENG_QP_CQ_CQ_LOG2 i j = v / 2 ^ 56 % 32) ∧
      (r = R_RBT_PART_EVCFG → rwlLocked s.hw r i j = false → v / 2 ^ 60 < 1 + (popcount 64 (fget s.hw F_RBT_PART_EXPECT_GATES 0 j) + 7) / 8 →
        changes c s fun h => logRefusedWrite (setBusErr h false) who r 0 j) ∧
      (r = R_RBT_PART_EXPECT → 8 * (fget s.hw F_RBT_PART_EVCFG_SLOT_LINES 0 j - 1) < popcount 64 v → changes c s fun h => logRefusedWrite (setBusErr h false) who r 0 j) ∧
      (r = R_RBT_PART_EXPECT → popcount 64 v ≤ 8 * (fget s.hw F_RBT_PART_EVCFG_SLOT_LINES 0 j - 1) →
        changes c s fun h => fset (setBusErr h false) F_RBT_PART_EXPECT_GATES (v.land (partOf h j).gates) 0 j) ∧
      (r.n0 = 0x4 → cmdRegOf r = none → r ≠ R_AVE_VOTE → fget s.hw F_AVE_STATUS_COMMIT_PENDING = 1 → yields c s fun t =>
        (∀ f ∈ shadowFields, ∀ x y, fget t.hw f x y = fget s.hw f x y) ∧
        (∀ f ∈ r.fields, f ∈ shadowFields → f.acc = .rw → (f.key 0 j, fieldVal f v) ∈ t.hw.ave.waiting) ∧ ∀ e ∈ s.hw.ave.waiting, e ∈ t.hw.ave.waiting) ∧
      (r = R_HOSTFN_HOF_CFG → fget s.hw F_HOSTFN_HOF_CFG_EN i = 1 → changes c s fun h => fset (setBusErr h false) F_HOSTFN_HOF_CFG_EN (v / 2 ^ 63 % 2) i) ∧
      (r = R_HOSTFN_HOF_CFG → fget s.hw F_HOSTFN_HOF_CFG_EN i ≠ 1 → bit v 63 = true → j = 0 → yields c s fun t => fget t.hw F_HOSTFN_HOF_CFG_EN i = 1 ∧
        fget t.hw F_HOSTFN_HOF_PTR_BUF_HEAD i = 0 ∧ fget t.hw F_HOSTFN_HOF_PTR_CPL_TAIL i = 0 ∧ (fnOf t.hw i).phase = true ∧ fget t.hw F_HOSTFN_HOF_CFG_BUF_LOG2 i = v % 32) ∧
      (r = R_HOSTFN_DLOG_CFG → fieldVal F_HOSTFN_DLOG_CFG_CMD v ≠ 1 → fget s.hw F_HOSTFN_DLOG_CFG_EN i ≠ 1 → bit v 0 = true → yields c s fun t =>
        fget t.hw F_HOSTFN_DLOG_CFG_EN i = 1 ∧ fget t.hw F_HOSTFN_DLOG_CFG_OVERFLOW i = 0 ∧ (fnOf t.hw i).dlog = [] ∧ fget t.hw F_HOSTFN_DLOG_CFG_RESULT i = 0 ∧
        fget t.hw F_HOSTFN_DLOG_CFG_SEQ i = (fget s.hw F_HOSTFN_DLOG_CFG_SEQ i + 1) % 256) ∧
      (wakeFor s.hw r i = s.hw → (r = R_CACHE_EN ∧ ((v % 4 = 1 ∧ fget s.hw F_CACHE_EN_L1D_EN i = 2) ∨ (v / 4 % 4 = 1 ∧ fget s.hw F_CACHE_EN_L2_EN i = 2))) ∨
          (r = R_LLC_CFG ∧ ((fieldVal F_LLC_CFG_EN v = 1 ∧ fget s.hw F_LLC_CFG_EN i = 2) ∨
            (fieldVal F_LLC_CFG_EN v = 0 ∧ fget s.hw F_LLC_CFG_EN i = 1 ∧ (fget s.hw F_LLC_CFG_SP_WAYS i ≠ 0 ∨ ∃ e ∈ sliceLines s.hw i, e.2.locked = true)))) →
        changes c s fun h => logRefusedWrite (setBusErr h false) who r i j) ∧
      (r = R_STR_CFG → who = .kydin → (squareOf i).isSome = true → rwlLocked s.hw r i 0 = false → gridPowered s.hw = true →
        let now := fget s.hw F_STR_CFG_ROUTER_SLEEP i
        let new := fieldVal F_STR_CFG_ROUTER_SLEEP v
        (new = now → yields c s fun t => t.hw.grid = s.hw.grid ∧ fget t.hw F_STR_CFG_IDLE_US i = fieldVal F_STR_CFG_IDLE_US v) ∧
        (new ≠ now → s.hw.grid.fence = none → asleep s.hw i = false → yields c s fun t => t.hw.grid.fence = some (i, 8 - new) ∧
          fget t.hw F_STR_STATUS_FENCED i = 1 ∧ fget t.hw F_STR_CFG_ROUTER_SLEEP i = now ∧ fget t.hw F_STR_CFG_IDLE_US i = fieldVal F_STR_CFG_IDLE_US v) ∧
        (new ≠ now → s.hw.grid.fence.isSome = true → yields c s fun t => t.hw.grid = s.hw.grid ∧ fget t.hw F_STR_CFG_ROUTER_SLEEP i = now)) ∧
      (r = R_HOSTFN_WIN_MAP → who ≠ .kydin → isSecureOf s.hw who (partOfFn i) = false → fget s.hw F_HOSTFN_WIN_MAP_SECURE i j < 2 → yields c s fun t =>
        fget t.hw F_HOSTFN_WIN_MAP_SECURE i j = fget s.hw F_HOSTFN_WIN_MAP_SECURE i j)) ∧
    (r = R_INT_CTRL → let mine := fun p => who = .kydin ∨ isSecureOf s.hw who p = true
      ((∀ p, p < 8 → ¬ mine p) → changes c s fun h => logRefusedWrite (setBusErr h false) who r 0 0) ∧
      ((∃ p, p < 8 ∧ mine p) → yields c s fun t => (∀ p, p < 8 → bit (fget t.hw F_INT_CTRL_DISABLE) p = (if who = .kydin ∨ isSecureOf s.hw who p = true then bit v p
          else bit (fget s.hw F_INT_CTRL_DISABLE) p)) ∧ (who ≠ .kydin → fget t.hw F_INT_CTRL_ALL_DISABLE = fget s.hw F_INT_CTRL_ALL_DISABLE))) ∧
    (r = R_OWNW_GATE → yields c s fun t => ∀ g, g < 64 → bit (fget t.hw F_OWNW_GATE_GATE) g =
      (if ∃ p, ownerGate s.hw g = some p ∧ (who = .kydin ∨ isSecureOf s.hw who p = true) then bit v g else bit (fget s.hw F_OWNW_GATE_GATE) g))) ∧
  (∀ (who : Requester) (addr : Nat) (data : BitVec 64) (s : State) (r : Reg) (i j : Nat), regAccess s.hw who addr 4 = some (r, i, j) → mayWrite s.hw who r i j = true →
    r.n0 = 0x4 → cmdRegOf r = none → r ≠ R_AVE_VOTE → fget s.hw F_AVE_STATUS_COMMIT_PENDING = 1 → yields (.registerWrite who addr 4 data) s fun t =>
      let old := regVal (flushShadow s.hw) r i j
      let v := if addr % 8 = 0 then old / 2 ^ 32 * 2 ^ 32 + data.toNat % 2 ^ 32 else old % 2 ^ 32 + data.toNat % 2 ^ 32 * 2 ^ 32
      (∀ f ∈ shadowFields, ∀ x y, fget t.hw f x y = fget s.hw f x y) ∧
      ∀ f ∈ r.fields, f ∈ shadowFields → f.acc = .rw → (f.key 0 j, fieldVal f v) ∈ t.hw.ave.waiting) ∧
  (∀ (who : Requester) (addr : Nat) (data : BitVec 64) (s : State), (regAccess s.hw who addr 8 = none → changes (.noActionCommand who addr data) s (setBusErr · true)) ∧
    (∀ r i j, regAccess s.hw who addr 8 = some (r, i, j) → let c := Instr.noActionCommand who addr data
      (cmdRegOf r = none → exec c s = .next s) ∧
      (∀ k, cmdRegOf r = some k →
        (fieldVal k.cmd data.toNat ∈ k.codes → exec c s = .next s) ∧
        (fieldVal k.cmd data.toNat ∉ k.codes → mayWrite s.hw who r i j = false → wakeFor s.hw r i = s.hw → changes c s fun h => logRefusedWrite (setBusErr h false) who r i j) ∧
        (fieldVal k.cmd data.toNat ∉ k.codes → mayWrite s.hw who r i j = true → r ≠ R_HOSTFN_DLOG_CFG → r ≠ R_GATE_CTRL → wakeFor s.hw r i = s.hw →
          changes c s fun h => answer (setBusErr h false) k.result k.seq 0 i j) ∧
        (fieldVal k.cmd data.toNat ∉ k.codes → mayWrite s.hw who r i j = true → r = R_GATE_CTRL → changes c s fun h =>
          setCtrl (answer (setBusErr h false) k.result k.seq 0 i j) i none) ∧
        (fieldVal k.cmd data.toNat ∉ k.codes → mayWrite s.hw who r i j = true → r = R_HOSTFN_DLOG_CFG → yields c s fun t => fget t.hw F_HOSTFN_DLOG_CFG_RESULT i = 0 ∧
          fget t.hw F_HOSTFN_DLOG_CFG_SEQ i = (fget s.hw F_HOSTFN_DLOG_CFG_SEQ i + 1) % 256)))) ∧
  (∀ (who : Requester) (addr : Nat) (data : BitVec 64) (s : State), yields (.noActionCommand who addr data) s fun t =>
    { t.hw with regs := s.hw.regs, lan := s.hw.lan, grid := s.hw.grid, host := s.hw.host, kyd := s.hw.kyd, freeCtr := s.hw.freeCtr, busErr := s.hw.busErr } = s.hw ∧
    sameMemory s t)
end

