-- ==== Sys2Proof/Laws/Tables.lean ====
section
/-!
SUPPORT. What reading a table gives after it is written: the laws hold of every table, in canonical form or not.
-/

namespace Sys2Proof.Machine

variable {α : Type}

theorem tget_tins_same (d : α) (t : Tab α) (k : Nat) (v : α) : tget d (tins t k v) k = v := by
  induction t with
  | nil => simp [tins, tget]
  | cons e r ih =>
    obtain ⟨j, w⟩ := e
    simp only [tins]
    split
    · simp [tget]
    · split
      · simp [tget]
      · rename_i h1 h2; simp [tget, h2, ih]

theorem tget_tins_ne (d : α) (t : Tab α) (k k' : Nat) (v : α) (h : k ≠ k') :
    tget d (tins t k v) k' = tget d t k' := by
  induction t with
  | nil => simp [tins, tget, h]
  | cons e r ih =>
    obtain ⟨j, w⟩ := e
    simp only [tins]
    split
    · simp [tget, h]
    · split
      · rename_i h1 h2; subst h2; simp [tget, h]
      · simp only [tget, ih]

theorem tget_tdel_same (d : α) (t : Tab α) (k : Nat) : tget d (tdel t k) k = d := by
  induction t with
  | nil => rfl
  | cons e r ih =>
    obtain ⟨j, w⟩ := e
    simp only [tdel, List.filter_cons] at ih ⊢
    split
    · rename_i h; simp at h; simp [tget, h, ih]
    · exact ih

theorem tget_tdel_ne (d : α) (t : Tab α) (k k' : Nat) (h : k ≠ k') : tget d (tdel t k) k' = tget d t k' := by
  induction t with
  | nil => rfl
  | cons e r ih =>
    obtain ⟨j, w⟩ := e
    simp only [tdel, List.filter_cons] at ih ⊢
    split
    · simp only [tget, ih]
    · rename_i hj; simp at hj; subst hj; simp [tget, h, ih]

/-- A read after a write to the same key gives the value written. -/
@[simp] theorem tget_tset_same [DecidableEq α] (d : α) (t : Tab α) (k : Nat) (v : α) : tget d (tset d t k v) k = v := by
  unfold tset
  split
  · rename_i h; rw [tget_tdel_same, h]
  · exact tget_tins_same d t k v

/-- A write leaves every other key alone, whatever default the reader takes. -/
theorem tget_tset_ne [DecidableEq α] (d d' : α) (t : Tab α) (k k' : Nat) (v : α) (h : k ≠ k') :
    tget d' (tset d t k v) k' = tget d' t k' := by
  unfold tset
  split
  · exact tget_tdel_ne d' t k k' h
  · exact tget_tins_ne d' t k k' v h

/-- Both at once. -/
theorem tget_tset [DecidableEq α] (d : α) (t : Tab α) (k k' : Nat) (v : α) :
    tget d (tset d t k v) k' = if k = k' then v else tget d t k' := by
  split
  · rename_i h; subst h; simp
  · rename_i h; exact tget_tset_ne d d t k k' v h

/-! ### The canonical form -/

theorem twf_tail [DecidableEq α] {d : α} {e : Nat × α} {t : Tab α} (h : twf d (e :: t) = true) : twf d t = true := by
  obtain ⟨j, v⟩ := e
  cases t with
  | nil => rfl
  | cons f r => obtain ⟨k, w⟩ := f; simp only [twf, Bool.and_eq_true] at h; exact h.2

theorem twf_ne [DecidableEq α] {d : α} {e : Nat × α} {t : Tab α} (h : twf d (e :: t) = true) : e.2 ≠ d := by
  obtain ⟨j, v⟩ := e
  cases t with
  | nil => simpa [twf] using h
  | cons f r => obtain ⟨k, w⟩ := f; simp only [twf, Bool.and_eq_true, decide_eq_true_eq] at h; exact h.1.1

/-- In canonical form every later key lies above the first. -/
theorem twf_lt [DecidableEq α] {d : α} {e : Nat × α} {t : Tab α} (h : twf d (e :: t) = true) : ∀ f ∈ t, e.1 < f.1 := by
  induction t generalizing e with
  | nil => simp
  | cons f r ih =>
    obtain ⟨j, v⟩ := e; obtain ⟨k, w⟩ := f
    have h' := h
    simp only [twf, Bool.and_eq_true, decide_eq_true_eq] at h
    intro g hg
    rcases List.mem_cons.mp hg with rfl | hg
    · exact h.1.2
    · exact Nat.lt_trans h.1.2 (ih (twf_tail h') g hg)

theorem twf_cons [DecidableEq α] {d : α} {j : Nat} {v : α} {t : Tab α} (hv : v ≠ d) (hl : ∀ f ∈ t, j < f.1)
    (ht : twf d t = true) : twf d ((j, v) :: t) = true := by
  cases t with
  | nil => simp [twf, hv]
  | cons f r =>
    obtain ⟨k, w⟩ := f
    have hjk : j < k := hl (k, w) List.mem_cons_self
    simp [twf, hv, ht, hjk]

/-- Leaving entries out keeps the canonical form. -/
theorem twf_filter [DecidableEq α] {d : α} (p : Nat × α → Bool) (t : Tab α) (h : twf d t = true) : twf d (t.filter p) = true := by
  induction t with
  | nil => rfl
  | cons e r ih =>
    simp only [List.filter_cons]
    split
    · obtain ⟨j, v⟩ := e
      exact twf_cons (twf_ne h) (fun f hf => twf_lt h f (List.mem_filter.mp hf).1) (ih (twf_tail h))
    · exact ih (twf_tail h)

theorem mem_tins {t : Tab α} {k : Nat} {v : α} {e : Nat × α} (h : e ∈ tins t k v) : e = (k, v) ∨ e ∈ t := by
  induction t with
  | nil => simpa [tins] using h
  | cons f r ih =>
    obtain ⟨j, w⟩ := f
    simp only [tins] at h
    split at h
    · simpa using h
    · split at h
      · rcases List.mem_cons.mp h with h | h
        · exact .inl h
        · exact .inr (List.mem_cons_of_mem _ h)
      · rcases List.mem_cons.mp h with h | h
        · exact .inr (h ▸ List.mem_cons_self)
        · exact (ih h).imp id (List.mem_cons_of_mem _)

theorem twf_tins [DecidableEq α] {d : α} {t : Tab α} (k : Nat) {v : α} (hv : v ≠ d) (h : twf d t = true) :
    twf d (tins t k v) = true := by
  induction t with
  | nil => simp [tins, twf, hv]
  | cons e r ih =>
    obtain ⟨j, w⟩ := e
    simp only [tins]
    split
    · rename_i hk
      refine twf_cons hv (fun f hf => ?_) h
      rcases List.mem_cons.mp hf with rfl | hf
      · exact hk
      · exact Nat.lt_trans hk (twf_lt h f hf)
    · split
      · rename_i hj; subst hj
        exact twf_cons hv (twf_lt h) (twf_tail h)
      · refine twf_cons (twf_ne h) (fun f hf => ?_) (ih (twf_tail h))
        rcases mem_tins hf with rfl | hf
        · simp; omega
        · exact twf_lt h f hf

/-- A write keeps the canonical form. -/
theorem twf_tset [DecidableEq α] {d : α} {t : Tab α} (k : Nat) (v : α) (h : twf d t = true) : twf d (tset d t k v) = true := by
  unfold tset
  split
  · exact twf_filter _ t h
  · rename_i hv; exact twf_tins k hv h

end Sys2Proof.Machine
end

