-- ==== Sys2Proof/Laws/Fields.lean ====
section
/-!
SUPPORT. Reading a field after a field is set, and what setting one leaves alone.
-/

namespace Sys2Proof.Machine

/-- A field reads as it was set, cut to its width. -/
@[simp] theorem fget_fset_same (h : Hw) (f : Field) (v i j : Nat) : fget (fset h f v i j) f i j = v % 2 ^ f.width := by
  simp [fget, fset]

/-- Setting a field leaves every field with another key alone. -/
theorem fget_fset_ne (h : Hw) (f g : Field) (v i j i' j' : Nat) (hk : f.key i j ≠ g.key i' j') :
    fget (fset h f v i j) g i' j' = fget h g i' j' := by
  simp [fget, fset, tget_tset_ne _ _ _ _ _ _ hk]

/-- Fields of different numbers have different keys. -/
theorem key_ne_of_id (f g : Field) (i j i' j' : Nat) (h : f.id ≠ g.id) : f.key i j ≠ g.key i' j' := by
  unfold Field.key
  have := Nat.mod_lt i (show 0 < 65536 by decide)
  have := Nat.mod_lt j (show 0 < 65536 by decide)
  have := Nat.mod_lt i' (show 0 < 65536 by decide)
  have := Nat.mod_lt j' (show 0 < 65536 by decide)
  omega

/-- Setting a field leaves every field of another number alone. -/
theorem fget_fset_id (h : Hw) (f g : Field) (v i j i' j' : Nat) (hk : f.id ≠ g.id) :
    fget (fset h f v i j) g i' j' = fget h g i' j' := fget_fset_ne h f g v i j i' j' (key_ne_of_id f g i j i' j' hk)

@[simp] theorem fset_sup (h : Hw) (f : Field) (v i j : Nat) : (fset h f v i j).sup = h.sup := rfl
@[simp] theorem fset_mod (h : Hw) (f : Field) (v i j : Nat) : (fset h f v i j).mod = h.mod := rfl
@[simp] theorem fset_boot (h : Hw) (f : Field) (v i j : Nat) : (fset h f v i j).boot = h.boot := rfl
@[simp] theorem fset_tim (h : Hw) (f : Field) (v i j : Nat) : (fset h f v i j).tim = h.tim := rfl
@[simp] theorem fset_lan (h : Hw) (f : Field) (v i j : Nat) : (fset h f v i j).lan = h.lan := rfl
@[simp] theorem fset_ave (h : Hw) (f : Field) (v i j : Nat) : (fset h f v i j).ave = h.ave := rfl
@[simp] theorem fset_rbt (h : Hw) (f : Field) (v i j : Nat) : (fset h f v i j).rbt = h.rbt := rfl
@[simp] theorem fset_qu (h : Hw) (f : Field) (v i j : Nat) : (fset h f v i j).qu = h.qu := rfl
@[simp] theorem fset_eng (h : Hw) (f : Field) (v i j : Nat) : (fset h f v i j).eng = h.eng := rfl
@[simp] theorem fset_cor (h : Hw) (f : Field) (v i j : Nat) : (fset h f v i j).cor = h.cor := rfl
@[simp] theorem fset_hom (h : Hw) (f : Field) (v i j : Nat) : (fset h f v i j).hom = h.hom := rfl
@[simp] theorem fset_grid (h : Hw) (f : Field) (v i j : Nat) : (fset h f v i j).grid = h.grid := rfl
@[simp] theorem fset_par (h : Hw) (f : Field) (v i j : Nat) : (fset h f v i j).par = h.par := rfl
@[simp] theorem fset_host (h : Hw) (f : Field) (v i j : Nat) : (fset h f v i j).host = h.host := rfl
@[simp] theorem fset_blvd (h : Hw) (f : Field) (v i j : Nat) : (fset h f v i j).blvd = h.blvd := rfl
@[simp] theorem fset_ints (h : Hw) (f : Field) (v i j : Nat) : (fset h f v i j).ints = h.ints := rfl
@[simp] theorem fset_kyd (h : Hw) (f : Field) (v i j : Nat) : (fset h f v i j).kyd = h.kyd := rfl
@[simp] theorem fset_now (h : Hw) (f : Field) (v i j : Nat) : (fset h f v i j).now = h.now := rfl
@[simp] theorem fset_freeCtr (h : Hw) (f : Field) (v i j : Nat) : (fset h f v i j).freeCtr = h.freeCtr := rfl

/-- Who may write, and which windows answer, do not depend on the answer of the last access. -/
theorem ifMay_of_accepts (h : Hw) (who : Requester) (r : Reg) (i j : Nat) (run : Hw → Hw)
    (hs : served h who r = true) (hw : mayWrite (setBusErr h false) who r i j = true) :
    ifMay h who r i j run = run (setBusErr h false) := by
  simp [ifMay, hs, hw]

end Sys2Proof.Machine
end

