-- ==== Sys2Proof/Laws/Memory.lean ====
section
/-!
SUPPORT. Memory: every operation keeps its canonical form, and what one byte reads as after one.
-/

namespace Sys2Proof.Machine

theorem twf_putBytes (t : List Host.Cell) (k : Nat) (data : List (Option Byte)) (h : twf (0 : Byte) t = true) :
    twf (0 : Byte) (putBytes t k data) = true := by
  induction data generalizing t k with
  | nil => simpa [putBytes] using h
  | cons b r ih =>
    cases b with
    | none => simpa [putBytes] using ih t (k + 1) h
    | some b => simpa [putBytes] using ih _ (k + 1) (twf_tset k b h)

/-- Writes of several runs of bytes keep the canonical form. -/
theorem twf_putEach {α : Type} (l : List α) (k : α → Nat) (d : α → List (Option Byte)) (t : List Host.Cell)
    (h : twf (0 : Byte) t = true) : twf (0 : Byte) (l.foldl (fun t b => putBytes t (k b) (d b)) t) = true := by
  induction l generalizing t with
  | nil => exact h
  | cons b r ih => exact ih _ (twf_putBytes _ _ _ h)

/-- One change of memory keeps the canonical form. -/
theorem Mem.wf_apply (m : Mem) (o : MemOp) (h : m.wf = true) : (m.apply o).wf = true := by
  simp only [Mem.wf, Bool.and_eq_true] at h ⊢
  cases o with
  | put k data pz er lost errs => exact ⟨twf_putBytes _ k data (twf_putEach _ _ _ _ h.1), h.2⟩
  | clear k n => exact ⟨twf_filter _ _ h.1, h.2⟩
  | wipe => exact ⟨rfl, h.2⟩
  | mark b on => exact h
  | scr o data pz => exact ⟨h.1, twf_putBytes _ o data h.2⟩
  | scrMark line => exact h
  | scrClear o n => exact ⟨h.1, twf_filter _ _ h.2⟩

/-- Changes of memory in order keep it. -/
theorem Mem.wf_applyAll (m : Mem) (ops : List MemOp) (h : m.wf = true) : (m.applyAll ops).wf = true := by
  unfold Mem.applyAll
  induction ops generalizing m with
  | nil => exact h
  | cons o r ih => exact ih _ (Mem.wf_apply m o h)

/-- A byte below or above the bytes a write names keeps its value. -/
theorem tget_putBytes_out (t : List Host.Cell) (k a : Nat) (data : List (Option Byte)) (h : a < k ∨ k + data.length ≤ a) :
    tget (0 : Byte) (putBytes t k data) a = tget 0 t a := by
  induction data generalizing t k with
  | nil => rfl
  | cons b r ih =>
    have h' : a < k + 1 ∨ k + 1 + r.length ≤ a := by simp only [List.length_cons] at h; omega
    cases b with
    | none => simpa [putBytes] using ih t (k + 1) h'
    | some b =>
      simp only [putBytes]
      rw [ih _ (k + 1) h', tget_tset_ne]
      simp only [List.length_cons] at h; omega

/-- A byte a write gives reads as given. -/
theorem tget_putBytes_in (t : List Host.Cell) (k n : Nat) (data : List (Option Byte)) (b : Byte)
    (h : data[n]? = some (some b)) : tget (0 : Byte) (putBytes t k data) (k + n) = b := by
  induction data generalizing t k n with
  | nil => simp at h
  | cons c r ih =>
    cases n with
    | zero =>
      simp only [List.getElem?_cons_zero, Option.some.injEq] at h
      subst h
      simp only [putBytes, Nat.add_zero]
      rw [tget_putBytes_out _ _ _ _ (.inl (Nat.lt_succ_self k)), tget_tset_same]
    | succ n =>
      simp only [List.getElem?_cons_succ] at h
      have e : k + (n + 1) = k + 1 + n := by omega
      cases c with
      | none => simp only [putBytes]; rw [e]; exact ih t (k + 1) n h
      | some c => simp only [putBytes]; rw [e]; exact ih _ (k + 1) n h

end Sys2Proof.Machine
end

