-- ==== Sys2Proof/WellFormed.lean ====
section
/-!
DEFINITION. Well-formed commands: what an operand may be where its type does not say it. A command that is not well formed has its
meaning all the same; the meanings rest on no such premise.
-/

namespace Sys2Proof

/-- The operands that their types leave unbounded, each with a bound it stays below: addresses and ranges of the 52-bit physical space
(R3), at most 8 bytes of an access (R4), event numbers of 64 bits (R216), coefficients of an equaliser (R161), a line and its byte
mask (R258), PCI Express payloads (R470), units of a packet (R498), readings of the cores (R547). A command that is not named has none. -/
def Instr.bounds : Instr → List (Nat × Nat)
  | .registerWrite _ addr size _ => [(addr, 2 ^ 52), (size, 9)]
  | .noActionCommand _ addr _ => [(addr, 2 ^ 52)]
  | .powerGood _ _ _ => []
  | .inputValid _ _ => []
  | .surge _ _ => []
  | .surgeLimitExpiry => []
  | .switchOver => []
  | .switchOverComplete => []
  | .switchOverWaitEnd _ => []
  | .holdUpExpiry => []
  | .limiterSample _ => []
  | .supplyThresholdFall _ => []
  | .supplyRecovered _ => []
  | .regulatorFault _ => []
  | .moduleInsertion _ => []
  | .resetNPulse _ => []
  | .moduleWarmReset _ => []
  | .warmResetEnd _ _ => []
  | .junctionThreshold _ => []
  | .thermalStep => []
  | .thermalTrip _ => []
  | .inletWarning _ => []
  | .clkXEdge _ _ _ => []
  | .clkXGap => []
  | .jtagInstruction _ => []
  | .modeRequest _ _ => []
  | .modeTransitionEnd => []
  | .containEntry _ => []
  | .kydinFirmwareVerified => []
  | .startupStep _ => []
  | .imageSelection => []
  | .imageApplication _ => []
  | .startupComplete => []
  | .bootCoreStart _ => []
  | .partitionReset _ _ _ => []
  | .partitionResetRelease _ => []
  | .squareReset _ _ => []
  | .gateReset _ _ => []
  | .bootCommit _ => []
  | .bootOnceSlotA _ => []
  | .bootOnceSlotB _ => []
  | .verifySlotA _ => []
  | .verifySlotB _ => []
  | .microcodeLoad _ => []
  | .seqFirmwareLoad _ => []
  | .dataBlock _ _ _ _ => []
  | .uplinkIdle _ _ _ => []
  | .align _ _ _ _ _ => []
  | .status _ _ _ _ => []
  | .ack _ _ _ _ => []
  | .feLoss _ _ _ _ => []
  | .downlinkBlockSlot _ _ => []
  | .gateDlCmd _ _ _ _ _ => []
  | .dlTimeout _ => []
  | .trainingSendAlign _ _ => []
  | .trainingWindowEnd _ _ => []
  | .trainingTimeout _ _ => []
  | .trainingRetry _ _ => []
  | .recal _ _ _ => []
  | .recalDone _ _ => []
  | .retrain _ _ _ => []
  | .bgAdaptStep _ _ moves => [(moves.length, 13)]
  | .takeover _ _ => []
  | .takeoverComplete _ _ _ => []
  | .release _ _ => []
  | .stretchExpiry _ _ => []
  | .matchIn _ => []
  | .acceptanceFinal => []
  | .trigQualVerdict => []
  | .aveCommit _ => []
  | .aveDiscard _ => []
  | .copyExclude _ _ => []
  | .mtWrite _ _ _ => []
  | .mtRead _ _ _ _ => []
  | .mtInsert _ _ _ => []
  | .insertComplete _ => []
  | .mtInvalidate _ _ _ => []
  | .mtScrubStep _ => []
  | .matrixScrubStep => []
  | .fragmentSlot _ => []
  | .acceptanceStamp => []
  | .openMsg _ => []
  | .dropMsg _ => []
  | .fragmentWrite _ => []
  | .frag _ => []
  | .assemblyTimeout _ evseq => [(evseq, 2 ^ 64)]
  | .assemblyCancel _ => []
  | .eventEnqueue _ evseq => [(evseq, 2 ^ 64)]
  | .enqueueRetry _ => []
  | .getWork _ _ _ => []
  | .addWork _ _ _ => []
  | .doneWork _ _ _ _ _ => []
  | .cancel _ _ _ => []
  | .freeEvent _ _ _ => []
  | .flush _ _ _ => []
  | .releaseActionRetry _ => []
  | .actionComplete _ => []
  | .overflowRefill _ => []
  | .tick => []
  | .timedItemDue _ => []
  | .reclaim _ _ => []
  | .dramRead _ _ _ _ => []
  | .dramWrite _ _ _ data mask _ => [(data.bytes.length, 65), (mask.length, data.bytes.length + 1)]
  | .markWindowStart _ => []
  | .scrubStep _ _ => []
  | .markChannel _ _ _ => []
  | .resilver _ _ => []
  | .channelRetrain _ _ _ => []
  | .scrubPass _ _ => []
  | .pauseRs _ _ => []
  | .resumeRs _ _ => []
  | .resilverStep _ => []
  | .driftRetrain _ _ => []
  | .retrainDone _ _ => []
  | .catchupStep _ => []
  | .engQpSubmit _ _ _ _ => []
  | .jobStart _ => []
  | .jobCommit _ _ => []
  | .abort _ _ _ _ => []
  | .jobAbortComplete _ _ => []
  | .jobTimeout _ _ => []
  | .engineReset _ _ => []
  | .exchBindTimeout _ _ => []
  | .exchFlit _ _ _ _ => []
  | .exchCredit _ _ _ => []
  | .instruction _ _ => []
  | .laneLd _ _ _ => []
  | .laneSt _ _ _ => []
  | .laneMk _ _ _ _ => []
  | .laneTag _ _ _ => []
  | .xrGet _ _ _ => []
  | .xrAdd _ _ _ _ => []
  | .xrDone _ _ _ _ => []
  | .wcall _ => []
  | .wret _ => []
  | .wgate _ _ => []
  | .wmark _ => []
  | .secureInterruptEntry _ => []
  | .machineTimer _ => []
  | .start _ _ _ => []
  | .smallCoreTrap _ _ _ => []
  | .smallCoreMret _ => []
  | .hintedBranch _ _ => []
  | .readShared _ _ _ => []
  | .readUnique _ _ => []
  | .upgrade _ _ => []
  | .wbDirty _ _ => []
  | .wbClean _ _ => []
  | .snpShared _ _ => []
  | .snpUnique _ _ => []
  | .snpOnce _ _ => []
  | .snpClean _ _ => []
  | .snpInval _ _ => []
  | .completionAck _ _ => []
  | .retry _ _ => []
  | .grant _ => []
  | .prefetchOffer _ _ => []
  | .ioRead _ addr len => [(addr.toNat + len, 2 ^ 52 + 1)]
  | .ioWrite _ addr data => [(addr.toNat + data.length, 2 ^ 52 + 1)]
  | .clean _ _ => []
  | .inval _ _ => []
  | .cleanInval _ _ => []
  | .swClean _ _ _ => []
  | .swInval _ _ _ => []
  | .swCleanInval _ _ _ => []
  | .lockLines _ _ => []
  | .unlockLines _ _ => []
  | .cacheDisable _ _ _ => []
  | .cacheCleanDone _ _ => []
  | .setSp _ _ _ => []
  | .setLock _ _ _ => []
  | .retireWay _ _ _ => []
  | .wayWindowStart _ => []
  | .snoopTimeout _ _ => []
  | .fillTimeout _ _ => []
  | .flit _ _ _ _ _ => []
  | .sleepAgents _ _ => []
  | .sleepSquare _ _ => []
  | .strWake _ _ => []
  | .idleSleep _ => []
  | .drainDone _ => []
  | .drainTimeout _ => []
  | .powerOff _ => []
  | .packetWake _ => []
  | .powerUpDone _ => []
  | .retire _ _ => []
  | .retireAll _ _ => []
  | .restore _ _ => []
  | .fenceDrainDone => []
  | .fenceDrainTimeout => []
  | .traceRecord _ => []
  | .pwrSleep _ _ _ _ => []
  | .pwrWake _ _ _ _ => []
  | .bandwidthWindow => []
  | .quotaWrite _ _ _ _ => []
  | .tsRequest _ _ _ => []
  | .seal _ => []
  | .unseal _ => []
  | .keyGen _ => []
  | .keySign _ => []
  | .keyDel _ => []
  | .attest _ => []
  | .extend _ => []
  | .cert _ => []
  | .quotaSet _ => []
  | .reclaimSp _ => []
  | .tsWatchdog => []
  | .tsRequestTimeout _ => []
  | .perstDeassert => []
  | .functionsReady => []
  | .configRequest _ _ _ _ => []
  | .inboundTlp _ _ _ _ len data _ => [(len, 4097), (data.length, 4097)]
  | .winCommit _ _ => []
  | .winDiscard _ _ => []
  | .outboundAccess _ addr _ len data _ => [(addr.toNat + len, 2 ^ 52 + 1), (addr.toNat + data.length, 2 ^ 52 + 1)]
  | .outboundReadIssue _ => []
  | .completionTlp _ _ data _ => [(data.length, 4097)]
  | .completionTimeout _ => []
  | .tagQuarantineEnd _ => []
  | .hostHandoff _ _ => []
  | .handoffAck _ => []
  | .msixRaise _ _ _ => []
  | .doorbell _ _ => []
  | .quiesce _ _ => []
  | .quiesceDone _ => []
  | .resume _ _ => []
  | .flr _ => []
  | .fundamentalReset _ => []
  | .powerStateChange _ _ => []
  | .sync _ _ => []
  | .bAlign _ _ _ => []
  | .hello _ _ _ => []
  | .helloPeriod _ _ => []
  | .helloTimeout _ _ => []
  | .blvdPacket _ _ _ units _ => [(units.length, 33)]
  | .blvdAck _ _ _ _ => []
  | .credit _ _ _ _ _ _ => []
  | .replayTimeout _ _ => []
  | .remoteWrite _ addr data _ => [(addr.toNat + data.length, 2 ^ 52 + 1)]
  | .routeWrite _ _ _ _ _ => []
  | .routeRead _ _ _ _ => []
  | .nbrRead _ _ _ _ => []
  | .setAddr _ _ _ _ _ => []
  | .echo _ _ _ _ _ => []
  | .e2eAck _ _ _ _ => []
  | .e2eTimeout _ => []
  | .blvdFree _ _ _ => []
  | .sourceEvent _ _ => []
  | .clear _ _ => []
  | .coalesceTimeout _ => []
  | .interruptCommit _ => []
  | .interruptMessage => []
  | .claim _ _ => []
  | .cfgReadback _ _ => []
  | .gpiEdge _ _ => []
  | .freeze _ _ => []
  | .elogFlush => []
  | .snapshot => []
  | .lifetimeDaily ageing => [(ageing.length, 161)]
  | .responseRead => []
  | .info _ => []
  | .mboxMode _ _ => []
  | .wake _ => []
  | .dormant _ => []
  | .warmReset _ => []
  | .hold _ _ => []
  | .supply _ _ => []
  | .slotErase _ _ => []
  | .slotWrite _ _ _ data => match data with | .inline _ => [] | .buffer addr len => [(addr.toNat + len, 2 ^ 52 + 1)]
  | .slotVerify _ _ => []
  | .mboxCommit _ => []
  | .mboxBootOnce _ _ => []
  | .component _ addr len => [(addr.toNat + len, 2 ^ 52 + 1)]
  | .keyRevoke _ _ _ _ => []
  | .lifeRead _ _ => []
  | .elogRead _ _ => []
  | .sensor _ _ => []
  | .rtc _ _ _ => []
  | .mboxRetire _ _ _ => []
  | .mboxRestore _ _ _ => []
  | .returnPrep _ _ => []
  | .testChallenge _ => []
  | .testUnlock _ _ => []
  | .supplyThresholdRise _ => []
  | .smallCoreInstruction _ _ => []
  | .sequencerWatchdogExpiry _ => []
  | .dataLinkUp _ _ => []
  | .engineResetComplete _ => []
  | .bundleSlotGroup _ _ => []
  | .outWidthEnd _ => []

/-- A command each of whose bounded operands stays below its bound. -/
def Instr.wellFormed (i : Instr) : Bool := i.bounds.all fun b => decide (b.1 < b.2)

end Sys2Proof
end

