-- ==== Sys2Proof/Laws/PerInstr.lean ====
section
/-!
SUPPORT. The family Fits, one lemma a command: every operand of a well-formed command stays below its bound.
-/

namespace Sys2Proof.Laws

/-- A well-formed command has each bounded operand below its bound. -/
def Fits.Statement (i : Instr) : Prop := i.wellFormed = true → ∀ b ∈ i.bounds, b.1 < b.2

/-- It holds of every command. -/
theorem Fits.of_all (i : Instr) : Fits.Statement i := fun h b hb => of_decide_eq_true (List.all_eq_true.mp h b hb)

theorem Fits.registerWrite (who : Requester) (addr : Nat) (size : Nat) (data : BitVec 64) : Fits.Statement (.registerWrite who addr size data) := Fits.of_all _
theorem Fits.noActionCommand (who : Requester) (addr : Nat) (data : BitVec 64) : Fits.Statement (.noActionCommand who addr data) := Fits.of_all _
theorem Fits.powerGood (modId : BitVec 12) (bootSel : Bool) (vbatOk : Bool) : Fits.Statement (.powerGood modId bootSel vbatOk) := Fits.of_all _
theorem Fits.inputValid (inp : Input) (mv : Int) : Fits.Statement (.inputValid inp mv) := Fits.of_all _
theorem Fits.surge (inp : Input) (mv : Nat) : Fits.Statement (.surge inp mv) := Fits.of_all _
theorem Fits.surgeLimitExpiry : Fits.Statement (.surgeLimitExpiry) := Fits.of_all _
theorem Fits.switchOver : Fits.Statement (.switchOver) := Fits.of_all _
theorem Fits.switchOverComplete : Fits.Statement (.switchOverComplete) := Fits.of_all _
theorem Fits.switchOverWaitEnd (vin : Nat) : Fits.Statement (.switchOverWaitEnd vin) := Fits.of_all _
theorem Fits.holdUpExpiry : Fits.Statement (.holdUpExpiry) := Fits.of_all _
theorem Fits.limiterSample (powerMw : Nat) : Fits.Statement (.limiterSample powerMw) := Fits.of_all _
theorem Fits.supplyThresholdFall (vin : Nat) : Fits.Statement (.supplyThresholdFall vin) := Fits.of_all _
theorem Fits.supplyRecovered (vin : Nat) : Fits.Statement (.supplyRecovered vin) := Fits.of_all _
theorem Fits.regulatorFault (rail : RailUnit) : Fits.Statement (.regulatorFault rail) := Fits.of_all _
theorem Fits.moduleInsertion (inserted : Bool) : Fits.Statement (.moduleInsertion inserted) := Fits.of_all _
theorem Fits.resetNPulse (lenNs : Nat) : Fits.Statement (.resetNPulse lenNs) := Fits.of_all _
theorem Fits.moduleWarmReset (cause : WarmCause) : Fits.Statement (.moduleWarmReset cause) := Fits.of_all _
theorem Fits.warmResetEnd (modId : BitVec 12) (bootSel : Bool) : Fits.Statement (.warmResetEnd modId bootSel) := Fits.of_all _
theorem Fits.junctionThreshold (milliC : Int) : Fits.Statement (.junctionThreshold milliC) := Fits.of_all _
theorem Fits.thermalStep : Fits.Statement (.thermalStep) := Fits.of_all _
theorem Fits.thermalTrip (milliC : Int) : Fits.Statement (.thermalTrip milliC) := Fits.of_all _
theorem Fits.inletWarning (milliC : Int) : Fits.Statement (.inletWarning milliC) := Fits.of_all _
theorem Fits.clkXEdge (at64 : Nat) (turn : Bool) (accept : Bool) : Fits.Statement (.clkXEdge at64 turn accept) := Fits.of_all _
theorem Fits.clkXGap : Fits.Statement (.clkXGap) := Fits.of_all _
theorem Fits.jtagInstruction (op : JtagInsn) : Fits.Statement (.jtagInstruction op) := Fits.of_all _
theorem Fits.modeRequest (who : Requester) (mode : BitVec 3) : Fits.Statement (.modeRequest who mode) := Fits.of_all _
theorem Fits.modeTransitionEnd : Fits.Statement (.modeTransitionEnd) := Fits.of_all _
theorem Fits.containEntry (fatal : FatalCause) : Fits.Statement (.containEntry fatal) := Fits.of_all _
theorem Fits.kydinFirmwareVerified : Fits.Statement (.kydinFirmwareVerified) := Fits.of_all _
theorem Fits.startupStep (st : StartupKind) : Fits.Statement (.startupStep st) := Fits.of_all _
theorem Fits.imageSelection : Fits.Statement (.imageSelection) := Fits.of_all _
theorem Fits.imageApplication (misread : Option Nat) : Fits.Statement (.imageApplication misread) := Fits.of_all _
theorem Fits.startupComplete : Fits.Statement (.startupComplete) := Fits.of_all _
theorem Fits.bootCoreStart (p : Fin 8) : Fits.Statement (.bootCoreStart p) := Fits.of_all _
theorem Fits.partitionReset (who : Requester) (clearMem : BitVec 8) (start : BitVec 8) : Fits.Statement (.partitionReset who clearMem start) := Fits.of_all _
theorem Fits.partitionResetRelease (p : Fin 8) : Fits.Statement (.partitionResetRelease p) := Fits.of_all _
theorem Fits.squareReset (who : Requester) (sq : Fin 80) : Fits.Statement (.squareReset who sq) := Fits.of_all _
theorem Fits.gateReset (who : Requester) (g : Fin 64) : Fits.Statement (.gateReset who g) := Fits.of_all _
theorem Fits.bootCommit (who : Requester) : Fits.Statement (.bootCommit who) := Fits.of_all _
theorem Fits.bootOnceSlotA (who : Requester) : Fits.Statement (.bootOnceSlotA who) := Fits.of_all _
theorem Fits.bootOnceSlotB (who : Requester) : Fits.Statement (.bootOnceSlotB who) := Fits.of_all _
theorem Fits.verifySlotA (who : Requester) : Fits.Statement (.verifySlotA who) := Fits.of_all _
theorem Fits.verifySlotB (who : Requester) : Fits.Statement (.verifySlotB who) := Fits.of_all _
theorem Fits.microcodeLoad (q : Fin 24) : Fits.Statement (.microcodeLoad q) := Fits.of_all _
theorem Fits.seqFirmwareLoad (g : Fin 64) : Fits.Statement (.seqFirmwareLoad g) := Fits.of_all _
theorem Fits.dataBlock (g : Fin 64) (k : Fin 16) (sync : BitVec 2) (raw : BitVec 64) : Fits.Statement (.dataBlock g k sync raw) := Fits.of_all _
theorem Fits.uplinkIdle (g : Fin 64) (k : Fin 16) (check : BitVec 8) : Fits.Statement (.uplinkIdle g k check) := Fits.of_all _
theorem Fits.align (g : Fin 64) (k : Fin 16) (body : BitVec 48) (check : BitVec 8) (phase : BitVec 6) : Fits.Statement (.align g k body check phase) := Fits.of_all _
theorem Fits.status (g : Fin 64) (k : Fin 16) (body : BitVec 48) (check : BitVec 8) : Fits.Statement (.status g k body check) := Fits.of_all _
theorem Fits.ack (g : Fin 64) (k : Fin 16) (body : BitVec 48) (check : BitVec 8) : Fits.Statement (.ack g k body check) := Fits.of_all _
theorem Fits.feLoss (g : Fin 64) (k : Fin 16) (body : BitVec 48) (check : BitVec 8) : Fits.Statement (.feLoss g k body check) := Fits.of_all _
theorem Fits.downlinkBlockSlot (g : Fin 64) (k : Fin 16) : Fits.Statement (.downlinkBlockSlot g k) := Fits.of_all _
theorem Fits.gateDlCmd (who : Requester) (g : Fin 64) (lane : BitVec 5) (opcode : BitVec 8) (arg : BitVec 32) : Fits.Statement (.gateDlCmd who g lane opcode arg) := Fits.of_all _
theorem Fits.dlTimeout (g : Fin 64) : Fits.Statement (.dlTimeout g) := Fits.of_all _
theorem Fits.trainingSendAlign (g : Fin 64) (k : Fin 16) : Fits.Statement (.trainingSendAlign g k) := Fits.of_all _
theorem Fits.trainingWindowEnd (g : Fin 64) (k : Fin 16) : Fits.Statement (.trainingWindowEnd g k) := Fits.of_all _
theorem Fits.trainingTimeout (g : Fin 64) (k : Fin 16) : Fits.Statement (.trainingTimeout g k) := Fits.of_all _
theorem Fits.trainingRetry (g : Fin 64) (k : Fin 16) : Fits.Statement (.trainingRetry g k) := Fits.of_all _
theorem Fits.recal (who : Requester) (g : Fin 64) (k : Fin 16) : Fits.Statement (.recal who g k) := Fits.of_all _
theorem Fits.recalDone (g : Fin 64) (k : Fin 16) : Fits.Statement (.recalDone g k) := Fits.of_all _
theorem Fits.retrain (who : Requester) (g : Fin 64) (k : Fin 16) : Fits.Statement (.retrain who g k) := Fits.of_all _
theorem Fits.bgAdaptStep (g : Fin 64) (k : Fin 16) (moves : List Int) : Fits.Statement (.bgAdaptStep g k moves) := Fits.of_all _
theorem Fits.takeover (who : Requester) (g : Fin 64) : Fits.Statement (.takeover who g) := Fits.of_all _
theorem Fits.takeoverComplete (g : Fin 64) (ownAcks : BitVec 16) (partnerAcks : BitVec 16) : Fits.Statement (.takeoverComplete g ownAcks partnerAcks) := Fits.of_all _
theorem Fits.release (who : Requester) (g : Fin 64) : Fits.Statement (.release who g) := Fits.of_all _
theorem Fits.stretchExpiry (i : BitVec 8) (copies : BitVec 3) : Fits.Statement (.stretchExpiry i copies) := Fits.of_all _
theorem Fits.matchIn (level : Bool) : Fits.Statement (.matchIn level) := Fits.of_all _
theorem Fits.acceptanceFinal : Fits.Statement (.acceptanceFinal) := Fits.of_all _
theorem Fits.trigQualVerdict : Fits.Statement (.trigQualVerdict) := Fits.of_all _
theorem Fits.aveCommit (who : Requester) : Fits.Statement (.aveCommit who) := Fits.of_all _
theorem Fits.aveDiscard (who : Requester) : Fits.Statement (.aveDiscard who) := Fits.of_all _
theorem Fits.copyExclude (who : Requester) (off : BitVec 3) : Fits.Statement (.copyExclude who off) := Fits.of_all _
theorem Fits.mtWrite (who : Requester) (g : Fin 64) (addr : BitVec 10) : Fits.Statement (.mtWrite who g addr) := Fits.of_all _
theorem Fits.mtRead (who : Requester) (g : Fin 64) (addr : BitVec 10) (copy : BitVec 2) : Fits.Statement (.mtRead who g addr copy) := Fits.of_all _
theorem Fits.mtInsert (who : Requester) (g : Fin 64) (addr : BitVec 10) : Fits.Statement (.mtInsert who g addr) := Fits.of_all _
theorem Fits.insertComplete (g : Fin 64) : Fits.Statement (.insertComplete g) := Fits.of_all _
theorem Fits.mtInvalidate (who : Requester) (g : Fin 64) (addr : BitVec 10) : Fits.Statement (.mtInvalidate who g addr) := Fits.of_all _
theorem Fits.mtScrubStep (g : Fin 64) : Fits.Statement (.mtScrubStep g) := Fits.of_all _
theorem Fits.matrixScrubStep : Fits.Statement (.matrixScrubStep) := Fits.of_all _
theorem Fits.fragmentSlot (q : Fin 24) : Fits.Statement (.fragmentSlot q) := Fits.of_all _
theorem Fits.acceptanceStamp : Fits.Statement (.acceptanceStamp) := Fits.of_all _
theorem Fits.openMsg (g : Fin 64) : Fits.Statement (.openMsg g) := Fits.of_all _
theorem Fits.dropMsg (g : Fin 64) : Fits.Statement (.dropMsg g) := Fits.of_all _
theorem Fits.fragmentWrite (g : Fin 64) : Fits.Statement (.fragmentWrite g) := Fits.of_all _
theorem Fits.frag (g : Fin 64) : Fits.Statement (.frag g) := Fits.of_all _
theorem Fits.assemblyTimeout (p : Fin 8) (evseq : Nat) : Fits.Statement (.assemblyTimeout p evseq) := Fits.of_all _
theorem Fits.assemblyCancel (g : Fin 64) : Fits.Statement (.assemblyCancel g) := Fits.of_all _
theorem Fits.eventEnqueue (p : Fin 8) (evseq : Nat) : Fits.Statement (.eventEnqueue p evseq) := Fits.of_all _
theorem Fits.enqueueRetry (p : Fin 8) : Fits.Statement (.enqueueRetry p) := Fits.of_all _
theorem Fits.getWork (who : Requester) (p : Fin 8) (n : GetAt (Fin 64)) : Fits.Statement (.getWork who p n) := Fits.of_all _
theorem Fits.addWork (who : Requester) (p : Fin 8) (n : Fin 64) : Fits.Statement (.addWork who p n) := Fits.of_all _
theorem Fits.doneWork (who : Requester) (p : Fin 8) (n : Fin 64) (keep : Bool) (skip : Bool) : Fits.Statement (.doneWork who p n keep skip) := Fits.of_all _
theorem Fits.cancel (who : Requester) (p : Fin 8) (n : Fin 64) : Fits.Statement (.cancel who p n) := Fits.of_all _
theorem Fits.freeEvent (who : Requester) (p : Fin 8) (n : Fin 64) : Fits.Statement (.freeEvent who p n) := Fits.of_all _
theorem Fits.flush (who : Requester) (p : Fin 8) (n : Fin 64) : Fits.Statement (.flush who p n) := Fits.of_all _
theorem Fits.releaseActionRetry (f : Fin 4096) : Fits.Statement (.releaseActionRetry f) := Fits.of_all _
theorem Fits.actionComplete (f : Fin 4096) : Fits.Statement (.actionComplete f) := Fits.of_all _
theorem Fits.overflowRefill (f : Fin 4096) : Fits.Statement (.overflowRefill f) := Fits.of_all _
theorem Fits.tick : Fits.Statement (.tick) := Fits.of_all _
theorem Fits.timedItemDue (list : Fin 8) : Fits.Statement (.timedItemDue list) := Fits.of_all _
theorem Fits.reclaim (who : Requester) (p : Fin 8) : Fits.Statement (.reclaim who p) := Fits.of_all _
theorem Fits.dramRead (q : Fin 24) (req : MemReq) (qa : BitVec 35) (errs : List SymErr) : Fits.Statement (.dramRead q req qa errs) := Fits.of_all _
theorem Fits.dramWrite (q : Fin 24) (req : MemReq) (qa : BitVec 35) (data : WriteData) (mask : List Bool) (poison : Bool) : Fits.Statement (.dramWrite q req qa data mask poison) := Fits.of_all _
theorem Fits.markWindowStart (q : Fin 24) : Fits.Statement (.markWindowStart q) := Fits.of_all _
theorem Fits.scrubStep (q : Fin 24) (errs : List SymErr) : Fits.Statement (.scrubStep q errs) := Fits.of_all _
theorem Fits.markChannel (who : Requester) (q : Fin 24) (ch : BitVec 4) : Fits.Statement (.markChannel who q ch) := Fits.of_all _
theorem Fits.resilver (who : Requester) (q : Fin 24) : Fits.Statement (.resilver who q) := Fits.of_all _
theorem Fits.channelRetrain (who : Requester) (q : Fin 24) (ch : BitVec 4) : Fits.Statement (.channelRetrain who q ch) := Fits.of_all _
theorem Fits.scrubPass (who : Requester) (q : Fin 24) : Fits.Statement (.scrubPass who q) := Fits.of_all _
theorem Fits.pauseRs (who : Requester) (q : Fin 24) : Fits.Statement (.pauseRs who q) := Fits.of_all _
theorem Fits.resumeRs (who : Requester) (q : Fin 24) : Fits.Statement (.resumeRs who q) := Fits.of_all _
theorem Fits.resilverStep (q : Fin 24) : Fits.Statement (.resilverStep q) := Fits.of_all _
theorem Fits.driftRetrain (q : Fin 24) (ch : BitVec 4) : Fits.Statement (.driftRetrain q ch) := Fits.of_all _
theorem Fits.retrainDone (q : Fin 24) (ok : Bool) : Fits.Statement (.retrainDone q ok) := Fits.of_all _
theorem Fits.catchupStep (q : Fin 24) : Fits.Statement (.catchupStep q) := Fits.of_all _
theorem Fits.engQpSubmit (who : Requester) (q : Fin 24) (qp : Fin 64) (addr : BitVec 52) : Fits.Statement (.engQpSubmit who q qp addr) := Fits.of_all _
theorem Fits.jobStart (q : Fin 24) : Fits.Statement (.jobStart q) := Fits.of_all _
theorem Fits.jobCommit (q : Fin 24) (handle : BitVec 32) : Fits.Statement (.jobCommit q handle) := Fits.of_all _
theorem Fits.abort (who : Requester) (q : Fin 24) (qp : Fin 64) (handle : BitVec 32) : Fits.Statement (.abort who q qp handle) := Fits.of_all _
theorem Fits.jobAbortComplete (q : Fin 24) (handle : BitVec 32) : Fits.Statement (.jobAbortComplete q handle) := Fits.of_all _
theorem Fits.jobTimeout (q : Fin 24) (handle : BitVec 32) : Fits.Statement (.jobTimeout q handle) := Fits.of_all _
theorem Fits.engineReset (who : Requester) (q : Fin 24) : Fits.Statement (.engineReset who q) := Fits.of_all _
theorem Fits.exchBindTimeout (q : Fin 24) (handle : BitVec 32) : Fits.Statement (.exchBindTimeout q handle) := Fits.of_all _
theorem Fits.exchFlit (q : Fin 24) (sender : Fin 24) (ch : Fin 8) (flit : BitVec 512) : Fits.Statement (.exchFlit q sender ch flit) := Fits.of_all _
theorem Fits.exchCredit (q : Fin 24) (ch : Fin 8) (flits : Nat) : Fits.Statement (.exchCredit q ch flits) := Fits.of_all _
theorem Fits.instruction (c : Fin 160) (word : BitVec 32) : Fits.Statement (.instruction c word) := Fits.of_all _
theorem Fits.laneLd (c : Fin 160) (rd : BitVec 5) (rs1 : BitVec 5) : Fits.Statement (.laneLd c rd rs1) := Fits.of_all _
theorem Fits.laneSt (c : Fin 160) (rs1 : BitVec 5) (rs2 : BitVec 5) : Fits.Statement (.laneSt c rs1 rs2) := Fits.of_all _
theorem Fits.laneMk (c : Fin 160) (rd : BitVec 5) (rs1 : BitVec 5) (rs2 : BitVec 5) : Fits.Statement (.laneMk c rd rs1 rs2) := Fits.of_all _
theorem Fits.laneTag (c : Fin 160) (rd : BitVec 5) (rs1 : BitVec 5) : Fits.Statement (.laneTag c rd rs1) := Fits.of_all _
theorem Fits.xrGet (c : Fin 160) (rd : BitVec 5) (rs1 : GetAt (BitVec 5)) : Fits.Statement (.xrGet c rd rs1) := Fits.of_all _
theorem Fits.xrAdd (c : Fin 160) (rd : BitVec 5) (rs1 : BitVec 5) (rs2 : BitVec 5) : Fits.Statement (.xrAdd c rd rs1 rs2) := Fits.of_all _
theorem Fits.xrDone (c : Fin 160) (rd : BitVec 5) (rs1 : BitVec 5) (rs2 : BitVec 5) : Fits.Statement (.xrDone c rd rs1 rs2) := Fits.of_all _
theorem Fits.wcall (c : Fin 160) : Fits.Statement (.wcall c) := Fits.of_all _
theorem Fits.wret (c : Fin 160) : Fits.Statement (.wret c) := Fits.of_all _
theorem Fits.wgate (c : Fin 160) (rs1 : BitVec 5) : Fits.Statement (.wgate c rs1) := Fits.of_all _
theorem Fits.wmark (c : Fin 160) : Fits.Statement (.wmark c) := Fits.of_all _
theorem Fits.secureInterruptEntry (c : Fin 160) : Fits.Statement (.secureInterruptEntry c) := Fits.of_all _
theorem Fits.machineTimer (c : Fin 160) : Fits.Statement (.machineTimer c) := Fits.of_all _
theorem Fits.start (who : Requester) (c : Fin 160) (secure : Bool) : Fits.Statement (.start who c secure) := Fits.of_all _
theorem Fits.smallCoreTrap (m : Fin 69) (cause : BitVec 32) (tval : BitVec 32) : Fits.Statement (.smallCoreTrap m cause tval) := Fits.of_all _
theorem Fits.smallCoreMret (m : Fin 69) : Fits.Statement (.smallCoreMret m) := Fits.of_all _
theorem Fits.hintedBranch (m : Fin 69) (word : BitVec 32) : Fits.Statement (.hintedBranch m word) := Fits.of_all _
theorem Fits.readShared (c : Fin 160) (line : BitVec 46) (err : ArrayErr) : Fits.Statement (.readShared c line err) := Fits.of_all _
theorem Fits.readUnique (c : Fin 160) (line : BitVec 46) : Fits.Statement (.readUnique c line) := Fits.of_all _
theorem Fits.upgrade (c : Fin 160) (line : BitVec 46) : Fits.Statement (.upgrade c line) := Fits.of_all _
theorem Fits.wbDirty (c : Fin 160) (line : BitVec 46) : Fits.Statement (.wbDirty c line) := Fits.of_all _
theorem Fits.wbClean (c : Fin 160) (line : BitVec 46) : Fits.Statement (.wbClean c line) := Fits.of_all _
theorem Fits.snpShared (c : Fin 160) (line : BitVec 46) : Fits.Statement (.snpShared c line) := Fits.of_all _
theorem Fits.snpUnique (c : Fin 160) (line : BitVec 46) : Fits.Statement (.snpUnique c line) := Fits.of_all _
theorem Fits.snpOnce (c : Fin 160) (line : BitVec 46) : Fits.Statement (.snpOnce c line) := Fits.of_all _
theorem Fits.snpClean (c : Fin 160) (line : BitVec 46) : Fits.Statement (.snpClean c line) := Fits.of_all _
theorem Fits.snpInval (c : Fin 160) (line : BitVec 46) : Fits.Statement (.snpInval c line) := Fits.of_all _
theorem Fits.completionAck (c : Fin 160) (line : BitVec 46) : Fits.Statement (.completionAck c line) := Fits.of_all _
theorem Fits.retry (c : Fin 160) (line : BitVec 46) : Fits.Statement (.retry c line) := Fits.of_all _
theorem Fits.grant (k : Fin 160) : Fits.Statement (.grant k) := Fits.of_all _
theorem Fits.prefetchOffer (k : Fin 160) (line : BitVec 46) : Fits.Statement (.prefetchOffer k line) := Fits.of_all _
theorem Fits.ioRead (agent : IoAgent) (addr : BitVec 52) (len : Nat) : Fits.Statement (.ioRead agent addr len) := Fits.of_all _
theorem Fits.ioWrite (agent : IoAgent) (addr : BitVec 52) (data : List (BitVec 8)) : Fits.Statement (.ioWrite agent addr data) := Fits.of_all _
theorem Fits.clean (who : Requester) (c : Fin 160) : Fits.Statement (.clean who c) := Fits.of_all _
theorem Fits.inval (who : Requester) (c : Fin 160) : Fits.Statement (.inval who c) := Fits.of_all _
theorem Fits.cleanInval (who : Requester) (c : Fin 160) : Fits.Statement (.cleanInval who c) := Fits.of_all _
theorem Fits.swClean (who : Requester) (c : Fin 160) (target : BitVec 2) : Fits.Statement (.swClean who c target) := Fits.of_all _
theorem Fits.swInval (who : Requester) (c : Fin 160) (target : BitVec 2) : Fits.Statement (.swInval who c target) := Fits.of_all _
theorem Fits.swCleanInval (who : Requester) (c : Fin 160) (target : BitVec 2) : Fits.Statement (.swCleanInval who c target) := Fits.of_all _
theorem Fits.lockLines (who : Requester) (c : Fin 160) : Fits.Statement (.lockLines who c) := Fits.of_all _
theorem Fits.unlockLines (who : Requester) (c : Fin 160) : Fits.Statement (.unlockLines who c) := Fits.of_all _
theorem Fits.cacheDisable (who : Requester) (which : CacheSel) (k : Fin 160) : Fits.Statement (.cacheDisable who which k) := Fits.of_all _
theorem Fits.cacheCleanDone (which : CacheSel) (k : Fin 160) : Fits.Statement (.cacheCleanDone which k) := Fits.of_all _
theorem Fits.setSp (who : Requester) (k : Fin 160) (n : BitVec 4) : Fits.Statement (.setSp who k n) := Fits.of_all _
theorem Fits.setLock (who : Requester) (k : Fin 160) (n : BitVec 4) : Fits.Statement (.setLock who k n) := Fits.of_all _
theorem Fits.retireWay (who : Requester) (k : Fin 160) (n : BitVec 4) : Fits.Statement (.retireWay who k n) := Fits.of_all _
theorem Fits.wayWindowStart (k : Fin 160) : Fits.Statement (.wayWindowStart k) := Fits.of_all _
theorem Fits.snoopTimeout (c : Fin 160) (line : BitVec 46) : Fits.Statement (.snoopTimeout c line) := Fits.of_all _
theorem Fits.fillTimeout (c : Fin 160) (line : BitVec 46) : Fits.Statement (.fillTimeout c line) := Fits.of_all _
theorem Fits.flit (r : Fin 160) (inPort : Fin 13) (sideband : BitVec 64) (payload : BitVec 512) (err : LinkErr) : Fits.Statement (.flit r inPort sideband payload err) := Fits.of_all _
theorem Fits.sleepAgents (who : Requester) (r : Fin 160) : Fits.Statement (.sleepAgents who r) := Fits.of_all _
theorem Fits.sleepSquare (who : Requester) (r : Fin 160) : Fits.Statement (.sleepSquare who r) := Fits.of_all _
theorem Fits.strWake (who : Requester) (r : Fin 160) : Fits.Statement (.strWake who r) := Fits.of_all _
theorem Fits.idleSleep (sq : Fin 80) : Fits.Statement (.idleSleep sq) := Fits.of_all _
theorem Fits.drainDone (sq : Fin 80) : Fits.Statement (.drainDone sq) := Fits.of_all _
theorem Fits.drainTimeout (sq : Fin 80) : Fits.Statement (.drainTimeout sq) := Fits.of_all _
theorem Fits.powerOff (sq : Fin 80) : Fits.Statement (.powerOff sq) := Fits.of_all _
theorem Fits.packetWake (sq : Fin 80) : Fits.Statement (.packetWake sq) := Fits.of_all _
theorem Fits.powerUpDone (sq : Fin 80) : Fits.Statement (.powerUpDone sq) := Fits.of_all _
theorem Fits.retire (who : Requester) (r : Fin 160) : Fits.Statement (.retire who r) := Fits.of_all _
theorem Fits.retireAll (who : Requester) (r : Fin 160) : Fits.Statement (.retireAll who r) := Fits.of_all _
theorem Fits.restore (who : Requester) (r : Fin 160) : Fits.Statement (.restore who r) := Fits.of_all _
theorem Fits.fenceDrainDone : Fits.Statement (.fenceDrainDone) := Fits.of_all _
theorem Fits.fenceDrainTimeout : Fits.Statement (.fenceDrainTimeout) := Fits.of_all _
theorem Fits.traceRecord (r : Fin 160) : Fits.Statement (.traceRecord r) := Fits.of_all _
theorem Fits.pwrSleep (who : Requester) (p : Fin 8) (kind : BitVec 4) (u : BitVec 8) : Fits.Statement (.pwrSleep who p kind u) := Fits.of_all _
theorem Fits.pwrWake (who : Requester) (p : Fin 8) (kind : BitVec 4) (u : BitVec 8) : Fits.Statement (.pwrWake who p kind u) := Fits.of_all _
theorem Fits.bandwidthWindow : Fits.Statement (.bandwidthWindow) := Fits.of_all _
theorem Fits.quotaWrite (who : Requester) (p : Fin 8) (kind : Fin 5) (limit : BitVec 40) : Fits.Statement (.quotaWrite who p kind limit) := Fits.of_all _
theorem Fits.tsRequest (who : Requester) (n : Fin 16) (addr : BitVec 52) : Fits.Statement (.tsRequest who n addr) := Fits.of_all _
theorem Fits.seal (n : Fin 16) : Fits.Statement (.seal n) := Fits.of_all _
theorem Fits.unseal (n : Fin 16) : Fits.Statement (.unseal n) := Fits.of_all _
theorem Fits.keyGen (n : Fin 16) : Fits.Statement (.keyGen n) := Fits.of_all _
theorem Fits.keySign (n : Fin 16) : Fits.Statement (.keySign n) := Fits.of_all _
theorem Fits.keyDel (n : Fin 16) : Fits.Statement (.keyDel n) := Fits.of_all _
theorem Fits.attest (n : Fin 16) : Fits.Statement (.attest n) := Fits.of_all _
theorem Fits.extend (n : Fin 16) : Fits.Statement (.extend n) := Fits.of_all _
theorem Fits.cert (n : Fin 16) : Fits.Statement (.cert n) := Fits.of_all _
theorem Fits.quotaSet (n : Fin 16) : Fits.Statement (.quotaSet n) := Fits.of_all _
theorem Fits.reclaimSp (n : Fin 16) : Fits.Statement (.reclaimSp n) := Fits.of_all _
theorem Fits.tsWatchdog : Fits.Statement (.tsWatchdog) := Fits.of_all _
theorem Fits.tsRequestTimeout (n : Fin 16) : Fits.Statement (.tsRequestTimeout n) := Fits.of_all _
theorem Fits.perstDeassert : Fits.Statement (.perstDeassert) := Fits.of_all _
theorem Fits.functionsReady : Fits.Statement (.functionsReady) := Fits.of_all _
theorem Fits.configRequest (fn : Fin 256) (write : Bool) (dword : BitVec 10) (data : BitVec 32) : Fits.Statement (.configRequest fn write dword data) := Fits.of_all _
theorem Fits.inboundTlp (fn : Fin 256) (write : Bool) (bar : HostBar) (offset : BitVec 40) (len : Nat) (data : List (BitVec 8)) (ep : Bool) : Fits.Statement (.inboundTlp fn write bar offset len data ep) := Fits.of_all _
theorem Fits.winCommit (who : Requester) (fn : Fin 256) : Fits.Statement (.winCommit who fn) := Fits.of_all _
theorem Fits.winDiscard (who : Requester) (fn : Fin 256) : Fits.Statement (.winDiscard who fn) := Fits.of_all _
theorem Fits.outboundAccess (who : Requester) (addr : BitVec 52) (write : Bool) (len : Nat) (data : List (BitVec 8)) (ep : Bool) : Fits.Statement (.outboundAccess who addr write len data ep) := Fits.of_all _
theorem Fits.outboundReadIssue (fn : Fin 256) : Fits.Statement (.outboundReadIssue fn) := Fits.of_all _
theorem Fits.completionTlp (tag : BitVec 10) (status : CplStatus) (data : List (BitVec 8)) (ep : Bool) : Fits.Statement (.completionTlp tag status data ep) := Fits.of_all _
theorem Fits.completionTimeout (tag : BitVec 10) : Fits.Statement (.completionTimeout tag) := Fits.of_all _
theorem Fits.tagQuarantineEnd (tag : BitVec 10) : Fits.Statement (.tagQuarantineEnd tag) := Fits.of_all _
theorem Fits.hostHandoff (fn : Fin 256) (bufs : List (BitVec 64)) : Fits.Statement (.hostHandoff fn bufs) := Fits.of_all _
theorem Fits.handoffAck (fn : Fin 256) : Fits.Statement (.handoffAck fn) := Fits.of_all _
theorem Fits.msixRaise (who : Requester) (fn : Fin 256) (vector : BitVec 8) : Fits.Statement (.msixRaise who fn vector) := Fits.of_all _
theorem Fits.doorbell (fn : Fin 256) (bits : BitVec 64) : Fits.Statement (.doorbell fn bits) := Fits.of_all _
theorem Fits.quiesce (who : Requester) (fn : Fin 256) : Fits.Statement (.quiesce who fn) := Fits.of_all _
theorem Fits.quiesceDone (fn : Fin 256) : Fits.Statement (.quiesceDone fn) := Fits.of_all _
theorem Fits.resume (who : Requester) (fn : Fin 256) : Fits.Statement (.resume who fn) := Fits.of_all _
theorem Fits.flr (fn : Fin 256) : Fits.Statement (.flr fn) := Fits.of_all _
theorem Fits.fundamentalReset (kind : FundKind) : Fits.Statement (.fundamentalReset kind) := Fits.of_all _
theorem Fits.powerStateChange (fn : Fin 256) (d3 : Bool) : Fits.Statement (.powerStateChange fn d3) := Fits.of_all _
theorem Fits.sync (who : Requester) (fn : Fin 256) : Fits.Statement (.sync who fn) := Fits.of_all _
theorem Fits.bAlign (g : Fin 64) (b : Fin 4) (count : BitVec 16) : Fits.Statement (.bAlign g b count) := Fits.of_all _
theorem Fits.hello (g : Fin 64) (b : Fin 4) (body : BitVec 48) : Fits.Statement (.hello g b body) := Fits.of_all _
theorem Fits.helloPeriod (g : Fin 64) (b : Fin 4) : Fits.Statement (.helloPeriod g b) := Fits.of_all _
theorem Fits.helloTimeout (g : Fin 64) (b : Fin 4) : Fits.Statement (.helloTimeout g b) := Fits.of_all _
theorem Fits.blvdPacket (g : Fin 64) (b : Fin 4) (start : BitVec 48) (units : List (BitVec 512)) (end_ : BitVec 48) : Fits.Statement (.blvdPacket g b start units end_) := Fits.of_all _
theorem Fits.blvdAck (g : Fin 64) (b : Fin 4) (seq : BitVec 10) (nak : Bool) : Fits.Statement (.blvdAck g b seq nak) := Fits.of_all _
theorem Fits.credit (g : Fin 64) (b : Fin 4) (tc0 : BitVec 12) (tc1 : BitVec 12) (tc2 : BitVec 12) (tc3 : BitVec 12) : Fits.Statement (.credit g b tc0 tc1 tc2 tc3) := Fits.of_all _
theorem Fits.replayTimeout (g : Fin 64) (b : Fin 4) : Fits.Statement (.replayTimeout g b) := Fits.of_all _
theorem Fits.remoteWrite (who : Requester) (addr : BitVec 52) (data : List (BitVec 8)) (poison : Bool) : Fits.Statement (.remoteWrite who addr data poison) := Fits.of_all _
theorem Fits.routeWrite (g : Fin 64) (b : Fin 4) (src : BitVec 12) (arg0 : BitVec 64) (arg1 : BitVec 64) : Fits.Statement (.routeWrite g b src arg0 arg1) := Fits.of_all _
theorem Fits.routeRead (g : Fin 64) (b : Fin 4) (src : BitVec 12) (arg0 : BitVec 64) : Fits.Statement (.routeRead g b src arg0) := Fits.of_all _
theorem Fits.nbrRead (g : Fin 64) (b : Fin 4) (src : BitVec 12) (arg0 : BitVec 64) : Fits.Statement (.nbrRead g b src arg0) := Fits.of_all _
theorem Fits.setAddr (g : Fin 64) (b : Fin 4) (src : BitVec 12) (arg0 : BitVec 64) (arg1 : BitVec 64) : Fits.Statement (.setAddr g b src arg0 arg1) := Fits.of_all _
theorem Fits.echo (g : Fin 64) (b : Fin 4) (src : BitVec 12) (arg0 : BitVec 64) (arg1 : BitVec 64) : Fits.Statement (.echo g b src arg0 arg1) := Fits.of_all _
theorem Fits.e2eAck (src : BitVec 12) (result : BitVec 8) (arg0 : BitVec 64) (arg1 : BitVec 64) : Fits.Statement (.e2eAck src result arg0 arg1) := Fits.of_all _
theorem Fits.e2eTimeout (f : Fin 4096) : Fits.Statement (.e2eTimeout f) := Fits.of_all _
theorem Fits.blvdFree (who : Requester) (p : Fin 8) (addr : BitVec 52) : Fits.Statement (.blvdFree who p addr) := Fits.of_all _
theorem Fits.sourceEvent (who : Option Requester) (i : Fin 2064) : Fits.Statement (.sourceEvent who i) := Fits.of_all _
theorem Fits.clear (who : Requester) (i : Fin 2064) : Fits.Statement (.clear who i) := Fits.of_all _
theorem Fits.coalesceTimeout (i : Fin 2064) : Fits.Statement (.coalesceTimeout i) := Fits.of_all _
theorem Fits.interruptCommit (i : Fin 2064) : Fits.Statement (.interruptCommit i) := Fits.of_all _
theorem Fits.interruptMessage : Fits.Statement (.interruptMessage) := Fits.of_all _
theorem Fits.claim (c : Fin 160) (queue : IntQueue) : Fits.Statement (.claim c queue) := Fits.of_all _
theorem Fits.cfgReadback (who : Requester) (i : Fin 2064) : Fits.Statement (.cfgReadback who i) := Fits.of_all _
theorem Fits.gpiEdge (n : Fin 16) (level : Bool) : Fits.Statement (.gpiEdge n level) := Fits.of_all _
theorem Fits.freeze (who : Requester) (v : Bool) : Fits.Statement (.freeze who v) := Fits.of_all _
theorem Fits.elogFlush : Fits.Statement (.elogFlush) := Fits.of_all _
theorem Fits.snapshot : Fits.Statement (.snapshot) := Fits.of_all _
theorem Fits.lifetimeDaily (ageing : List (BitVec 16)) : Fits.Statement (.lifetimeDaily ageing) := Fits.of_all _
theorem Fits.responseRead : Fits.Statement (.responseRead) := Fits.of_all _
theorem Fits.info (path : MailPath) : Fits.Statement (.info path) := Fits.of_all _
theorem Fits.mboxMode (path : MailPath) (mode : BitVec 8) : Fits.Statement (.mboxMode path mode) := Fits.of_all _
theorem Fits.wake (path : MailPath) : Fits.Statement (.wake path) := Fits.of_all _
theorem Fits.dormant (path : MailPath) : Fits.Statement (.dormant path) := Fits.of_all _
theorem Fits.warmReset (path : MailPath) : Fits.Statement (.warmReset path) := Fits.of_all _
theorem Fits.hold (path : MailPath) (set : BitVec 8) : Fits.Statement (.hold path set) := Fits.of_all _
theorem Fits.supply (path : MailPath) (inp : BitVec 8) : Fits.Statement (.supply path inp) := Fits.of_all _
theorem Fits.slotErase (path : MailPath) (target : BitVec 8) : Fits.Statement (.slotErase path target) := Fits.of_all _
theorem Fits.slotWrite (path : MailPath) (target : BitVec 8) (offset : BitVec 32) (data : SlotData) : Fits.Statement (.slotWrite path target offset data) := Fits.of_all _
theorem Fits.slotVerify (path : MailPath) (target : BitVec 8) : Fits.Statement (.slotVerify path target) := Fits.of_all _
theorem Fits.mboxCommit (path : MailPath) : Fits.Statement (.mboxCommit path) := Fits.of_all _
theorem Fits.mboxBootOnce (path : MailPath) (slot : BitVec 8) : Fits.Statement (.mboxBootOnce path slot) := Fits.of_all _
theorem Fits.component (path : MailPath) (addr : BitVec 52) (len : Nat) : Fits.Statement (.component path addr len) := Fits.of_all _
theorem Fits.keyRevoke (path : MailPath) (slot : BitVec 8) (pubkey : BitVec 768) (signature : BitVec 768) : Fits.Statement (.keyRevoke path slot pubkey signature) := Fits.of_all _
theorem Fits.lifeRead (path : MailPath) (idx : BitVec 32) : Fits.Statement (.lifeRead path idx) := Fits.of_all _
theorem Fits.elogRead (path : MailPath) (seq : BitVec 32) : Fits.Statement (.elogRead path seq) := Fits.of_all _
theorem Fits.sensor (path : MailPath) (idx : BitVec 16) : Fits.Statement (.sensor path idx) := Fits.of_all _
theorem Fits.rtc (path : MailPath) (set : BitVec 8) (seconds : BitVec 64) : Fits.Statement (.rtc path set seconds) := Fits.of_all _
theorem Fits.mboxRetire (path : MailPath) (kind : BitVec 8) (u : BitVec 16) : Fits.Statement (.mboxRetire path kind u) := Fits.of_all _
theorem Fits.mboxRestore (path : MailPath) (kind : BitVec 8) (u : BitVec 16) : Fits.Statement (.mboxRestore path kind u) := Fits.of_all _
theorem Fits.returnPrep (path : MailPath) (flags : BitVec 8) : Fits.Statement (.returnPrep path flags) := Fits.of_all _
theorem Fits.testChallenge (path : MailPath) : Fits.Statement (.testChallenge path) := Fits.of_all _
theorem Fits.testUnlock (path : MailPath) (signature : BitVec 768) : Fits.Statement (.testUnlock path signature) := Fits.of_all _
theorem Fits.supplyThresholdRise (vin : Nat) : Fits.Statement (.supplyThresholdRise vin) := Fits.of_all _
theorem Fits.smallCoreInstruction (m : Fin 69) (word : BitVec 32) : Fits.Statement (.smallCoreInstruction m word) := Fits.of_all _
theorem Fits.sequencerWatchdogExpiry (g : Fin 64) : Fits.Statement (.sequencerWatchdogExpiry g) := Fits.of_all _
theorem Fits.dataLinkUp (width : BitVec 5) (speed : BitVec 3) : Fits.Statement (.dataLinkUp width speed) := Fits.of_all _
theorem Fits.engineResetComplete (q : Fin 24) : Fits.Statement (.engineResetComplete q) := Fits.of_all _
theorem Fits.bundleSlotGroup (g : Fin 64) (b : Fin 4) : Fits.Statement (.bundleSlotGroup g b) := Fits.of_all _
theorem Fits.outWidthEnd (pin : Fin 17) : Fits.Statement (.outWidthEnd pin) := Fits.of_all _

end Sys2Proof.Laws
end

