-- ==== Sys2Proof/Laws/State.lean ====
section
/-!
SUPPORT. What the two forms of update of the state change and leave alone, and what a step does with the queue.
-/

namespace Sys2Proof.Machine

@[simp] theorem State.upd_hw (s : State) (f : Hw → Hw) : (s.upd f).hw = f s.hw := rfl
@[simp] theorem State.upd_mem (s : State) (f : Hw → Hw) : (s.upd f).mem = s.mem := rfl
@[simp] theorem State.upd_pending (s : State) (f : Hw → Hw) : (s.upd f).pending = s.pending := rfl
@[simp] theorem State.act_hw (s : State) (f : Hw → Mem → Eff) : (s.act f).hw = (f s.hw s.mem).hw := rfl
@[simp] theorem State.act_mem (s : State) (f : Hw → Mem → Eff) : (s.act f).mem = s.land (f s.hw s.mem).ops := rfl
@[simp] theorem State.act_pending (s : State) (f : Hw → Mem → Eff) : (s.act f).pending = s.pending := rfl

/-- Outside a power-fail sequence every change lands (R60). -/
theorem landed_of_power (h : Hw) (ops : List MemOp) (hp : h.sup.powerFail = false) : landed h ops = ops := by
  simp [landed, hp]

/-- Outside a power-fail sequence memory takes the operations as they are. -/
theorem State.land_of_power (s : State) (ops : List MemOp) (hp : s.hw.sup.powerFail = false) : s.land ops = s.mem.applyAll ops := by
  rw [State.land, landed_of_power _ _ hp]

@[simp] theorem State.land_nil (s : State) : s.land [] = s.mem := rfl

/-- An effect that changes no memory acts as an update of the hardware alone. -/
theorem State.act_pure (s : State) (f : Hw → Hw) : (s.act fun h _ => { hw := f h }) = s.upd f := rfl

/-- A word puts nothing into the queue, since no row gives bits. -/
@[simp] theorem State.withFetchWord_eq (s : State) (nbits w : Nat) : s.withFetchWord nbits w = s := rfl

@[simp] theorem setBusErr_mod (h : Hw) (b : Bool) : (setBusErr h b).mod = h.mod := rfl
@[simp] theorem setBusErr_regs (h : Hw) (b : Bool) : (setBusErr h b).regs = h.regs := rfl
@[simp] theorem setBusErr_busErr (h : Hw) (b : Bool) : (setBusErr h b).busErr = b := rfl
@[simp] theorem takeFree_regs (h : Hw) : (takeFree h).2.regs = h.regs := rfl
@[simp] theorem takeFree_freeCtr (h : Hw) : (takeFree h).2.freeCtr = h.freeCtr + 1 := rfl

/-! ### An instance of a table reads as it was set, and another one as before -/

@[simp] theorem laneOf_setLane (h : Hw) (g k : Nat) (v : Lane) : laneOf (setLane h g k v) g k = v := tget_tset_same _ _ _ _
@[simp] theorem gateOf_setGate (h : Hw) (g : Nat) (v : Gate) : gateOf (setGate h g v) g = v := tget_tset_same _ _ _ _
theorem gateOf_setGate_ne (h : Hw) (g : Nat) (v : Gate) (g' : Nat) (hn : g ≠ g') : gateOf (setGate h g v) g' = gateOf h g' := tget_tset_ne _ _ _ _ _ _ hn
@[simp] theorem quarterOf_setQuarter (h : Hw) (q : Nat) (v : Quarter) : quarterOf (setQuarter h q v) q = v := tget_tset_same _ _ _ _
theorem quarterOf_setQuarter_ne (h : Hw) (q : Nat) (v : Quarter) (q' : Nat) (hn : q ≠ q') : quarterOf (setQuarter h q v) q' = quarterOf h q' := tget_tset_ne _ _ _ _ _ _ hn
@[simp] theorem engineOf_setEngine (h : Hw) (q : Nat) (v : Engine) : engineOf (setEngine h q v) q = v := tget_tset_same _ _ _ _
theorem engineOf_setEngine_ne (h : Hw) (q : Nat) (v : Engine) (q' : Nat) (hn : q ≠ q') : engineOf (setEngine h q v) q' = engineOf h q' := tget_tset_ne _ _ _ _ _ _ hn
@[simp] theorem coreOf_setCore (h : Hw) (c : Nat) (v : Core) : coreOf (setCore h c v) c = v := tget_tset_same _ _ _ _
theorem coreOf_setCore_ne (h : Hw) (c : Nat) (v : Core) (c' : Nat) (hn : c ≠ c') : coreOf (setCore h c v) c' = coreOf h c' := tget_tset_ne _ _ _ _ _ _ hn
@[simp] theorem smallOf_setSmall (h : Hw) (m : Nat) (v : SmallCore) : smallOf (setSmall h m v) m = v := tget_tset_same _ _ _ _
theorem smallOf_setSmall_ne (h : Hw) (m : Nat) (v : SmallCore) (m' : Nat) (hn : m ≠ m') : smallOf (setSmall h m v) m' = smallOf h m' := tget_tset_ne _ _ _ _ _ _ hn
@[simp] theorem fnOf_setFn (h : Hw) (n : Nat) (v : Fn) : fnOf (setFn h n v) n = v := tget_tset_same _ _ _ _
theorem fnOf_setFn_ne (h : Hw) (n : Nat) (v : Fn) (n' : Nat) (hn : n ≠ n') : fnOf (setFn h n v) n' = fnOf h n' := tget_tset_ne _ _ _ _ _ _ hn
@[simp] theorem bundleOf_setBundle (h : Hw) (g k : Nat) (v : Bundle) : bundleOf (setBundle h g k v) g k = v := tget_tset_same _ _ _ _
@[simp] theorem flowOf_setFlow (h : Hw) (f : Nat) (v : Flow) : flowOf (setFlow h f v) f = v := tget_tset_same _ _ _ _
theorem flowOf_setFlow_ne (h : Hw) (f : Nat) (v : Flow) (f' : Nat) (hn : f ≠ f') : flowOf (setFlow h f v) f' = flowOf h f' := tget_tset_ne _ _ _ _ _ _ hn
@[simp] theorem partOf_setPart (h : Hw) (p : Nat) (v : PartCfg) : partOf (setPart h p v) p = v := tget_tset_same _ _ _ _
theorem partOf_setPart_ne (h : Hw) (p : Nat) (v : PartCfg) (p' : Nat) (hn : p ≠ p') : partOf (setPart h p v) p' = partOf h p' := tget_tset_ne _ _ _ _ _ _ hn

/-! ### What setting an instance, and using a free value, leave alone -/

@[simp] theorem setLane_regs (h : Hw) (g k : Nat) (l : Lane) : (setLane h g k l).regs = h.regs := rfl
@[simp] theorem setLane_sup (h : Hw) (g k : Nat) (l : Lane) : (setLane h g k l).sup = h.sup := rfl
@[simp] theorem setLane_mod (h : Hw) (g k : Nat) (l : Lane) : (setLane h g k l).mod = h.mod := rfl
@[simp] theorem setLane_boot (h : Hw) (g k : Nat) (l : Lane) : (setLane h g k l).boot = h.boot := rfl
@[simp] theorem setLane_tim (h : Hw) (g k : Nat) (l : Lane) : (setLane h g k l).tim = h.tim := rfl
@[simp] theorem setLane_ave (h : Hw) (g k : Nat) (l : Lane) : (setLane h g k l).ave = h.ave := rfl
@[simp] theorem setLane_rbt (h : Hw) (g k : Nat) (l : Lane) : (setLane h g k l).rbt = h.rbt := rfl
@[simp] theorem setLane_qu (h : Hw) (g k : Nat) (l : Lane) : (setLane h g k l).qu = h.qu := rfl
@[simp] theorem setLane_eng (h : Hw) (g k : Nat) (l : Lane) : (setLane h g k l).eng = h.eng := rfl
@[simp] theorem setLane_cor (h : Hw) (g k : Nat) (l : Lane) : (setLane h g k l).cor = h.cor := rfl
@[simp] theorem setLane_hom (h : Hw) (g k : Nat) (l : Lane) : (setLane h g k l).hom = h.hom := rfl
@[simp] theorem setLane_grid (h : Hw) (g k : Nat) (l : Lane) : (setLane h g k l).grid = h.grid := rfl
@[simp] theorem setLane_par (h : Hw) (g k : Nat) (l : Lane) : (setLane h g k l).par = h.par := rfl
@[simp] theorem setLane_host (h : Hw) (g k : Nat) (l : Lane) : (setLane h g k l).host = h.host := rfl
@[simp] theorem setLane_blvd (h : Hw) (g k : Nat) (l : Lane) : (setLane h g k l).blvd = h.blvd := rfl
@[simp] theorem setLane_ints (h : Hw) (g k : Nat) (l : Lane) : (setLane h g k l).ints = h.ints := rfl
@[simp] theorem setLane_kyd (h : Hw) (g k : Nat) (l : Lane) : (setLane h g k l).kyd = h.kyd := rfl
@[simp] theorem setLane_now (h : Hw) (g k : Nat) (l : Lane) : (setLane h g k l).now = h.now := rfl
@[simp] theorem setLane_freeCtr (h : Hw) (g k : Nat) (l : Lane) : (setLane h g k l).freeCtr = h.freeCtr := rfl
@[simp] theorem setLane_busErr (h : Hw) (g k : Nat) (l : Lane) : (setLane h g k l).busErr = h.busErr := rfl
@[simp] theorem setLane_lastRead (h : Hw) (g k : Nat) (l : Lane) : (setLane h g k l).lastRead = h.lastRead := rfl
@[simp] theorem setLane_lastPoison (h : Hw) (g k : Nat) (l : Lane) : (setLane h g k l).lastPoison = h.lastPoison := rfl
@[simp] theorem setLane_lastResult (h : Hw) (g k : Nat) (l : Lane) : (setLane h g k l).lastResult = h.lastResult := rfl

@[simp] theorem setGate_regs (h : Hw) (g : Nat) (v : Gate) : (setGate h g v).regs = h.regs := rfl
@[simp] theorem setGate_sup (h : Hw) (g : Nat) (v : Gate) : (setGate h g v).sup = h.sup := rfl
@[simp] theorem setGate_mod (h : Hw) (g : Nat) (v : Gate) : (setGate h g v).mod = h.mod := rfl
@[simp] theorem setGate_boot (h : Hw) (g : Nat) (v : Gate) : (setGate h g v).boot = h.boot := rfl
@[simp] theorem setGate_tim (h : Hw) (g : Nat) (v : Gate) : (setGate h g v).tim = h.tim := rfl
@[simp] theorem setGate_ave (h : Hw) (g : Nat) (v : Gate) : (setGate h g v).ave = h.ave := rfl
@[simp] theorem setGate_rbt (h : Hw) (g : Nat) (v : Gate) : (setGate h g v).rbt = h.rbt := rfl
@[simp] theorem setGate_qu (h : Hw) (g : Nat) (v : Gate) : (setGate h g v).qu = h.qu := rfl
@[simp] theorem setGate_eng (h : Hw) (g : Nat) (v : Gate) : (setGate h g v).eng = h.eng := rfl
@[simp] theorem setGate_cor (h : Hw) (g : Nat) (v : Gate) : (setGate h g v).cor = h.cor := rfl
@[simp] theorem setGate_hom (h : Hw) (g : Nat) (v : Gate) : (setGate h g v).hom = h.hom := rfl
@[simp] theorem setGate_grid (h : Hw) (g : Nat) (v : Gate) : (setGate h g v).grid = h.grid := rfl
@[simp] theorem setGate_par (h : Hw) (g : Nat) (v : Gate) : (setGate h g v).par = h.par := rfl
@[simp] theorem setGate_host (h : Hw) (g : Nat) (v : Gate) : (setGate h g v).host = h.host := rfl
@[simp] theorem setGate_blvd (h : Hw) (g : Nat) (v : Gate) : (setGate h g v).blvd = h.blvd := rfl
@[simp] theorem setGate_ints (h : Hw) (g : Nat) (v : Gate) : (setGate h g v).ints = h.ints := rfl
@[simp] theorem setGate_kyd (h : Hw) (g : Nat) (v : Gate) : (setGate h g v).kyd = h.kyd := rfl
@[simp] theorem setGate_now (h : Hw) (g : Nat) (v : Gate) : (setGate h g v).now = h.now := rfl
@[simp] theorem setGate_freeCtr (h : Hw) (g : Nat) (v : Gate) : (setGate h g v).freeCtr = h.freeCtr := rfl
@[simp] theorem setGate_busErr (h : Hw) (g : Nat) (v : Gate) : (setGate h g v).busErr = h.busErr := rfl
@[simp] theorem setGate_lastRead (h : Hw) (g : Nat) (v : Gate) : (setGate h g v).lastRead = h.lastRead := rfl
@[simp] theorem setGate_lastPoison (h : Hw) (g : Nat) (v : Gate) : (setGate h g v).lastPoison = h.lastPoison := rfl
@[simp] theorem setGate_lastResult (h : Hw) (g : Nat) (v : Gate) : (setGate h g v).lastResult = h.lastResult := rfl

@[simp] theorem setQuarter_regs (h : Hw) (q : Nat) (v : Quarter) : (setQuarter h q v).regs = h.regs := rfl
@[simp] theorem setQuarter_sup (h : Hw) (q : Nat) (v : Quarter) : (setQuarter h q v).sup = h.sup := rfl
@[simp] theorem setQuarter_mod (h : Hw) (q : Nat) (v : Quarter) : (setQuarter h q v).mod = h.mod := rfl
@[simp] theorem setQuarter_boot (h : Hw) (q : Nat) (v : Quarter) : (setQuarter h q v).boot = h.boot := rfl
@[simp] theorem setQuarter_tim (h : Hw) (q : Nat) (v : Quarter) : (setQuarter h q v).tim = h.tim := rfl
@[simp] theorem setQuarter_lan (h : Hw) (q : Nat) (v : Quarter) : (setQuarter h q v).lan = h.lan := rfl
@[simp] theorem setQuarter_ave (h : Hw) (q : Nat) (v : Quarter) : (setQuarter h q v).ave = h.ave := rfl
@[simp] theorem setQuarter_rbt (h : Hw) (q : Nat) (v : Quarter) : (setQuarter h q v).rbt = h.rbt := rfl
@[simp] theorem setQuarter_eng (h : Hw) (q : Nat) (v : Quarter) : (setQuarter h q v).eng = h.eng := rfl
@[simp] theorem setQuarter_cor (h : Hw) (q : Nat) (v : Quarter) : (setQuarter h q v).cor = h.cor := rfl
@[simp] theorem setQuarter_hom (h : Hw) (q : Nat) (v : Quarter) : (setQuarter h q v).hom = h.hom := rfl
@[simp] theorem setQuarter_grid (h : Hw) (q : Nat) (v : Quarter) : (setQuarter h q v).grid = h.grid := rfl
@[simp] theorem setQuarter_par (h : Hw) (q : Nat) (v : Quarter) : (setQuarter h q v).par = h.par := rfl
@[simp] theorem setQuarter_host (h : Hw) (q : Nat) (v : Quarter) : (setQuarter h q v).host = h.host := rfl
@[simp] theorem setQuarter_blvd (h : Hw) (q : Nat) (v : Quarter) : (setQuarter h q v).blvd = h.blvd := rfl
@[simp] theorem setQuarter_ints (h : Hw) (q : Nat) (v : Quarter) : (setQuarter h q v).ints = h.ints := rfl
@[simp] theorem setQuarter_kyd (h : Hw) (q : Nat) (v : Quarter) : (setQuarter h q v).kyd = h.kyd := rfl
@[simp] theorem setQuarter_now (h : Hw) (q : Nat) (v : Quarter) : (setQuarter h q v).now = h.now := rfl
@[simp] theorem setQuarter_freeCtr (h : Hw) (q : Nat) (v : Quarter) : (setQuarter h q v).freeCtr = h.freeCtr := rfl
@[simp] theorem setQuarter_busErr (h : Hw) (q : Nat) (v : Quarter) : (setQuarter h q v).busErr = h.busErr := rfl
@[simp] theorem setQuarter_lastRead (h : Hw) (q : Nat) (v : Quarter) : (setQuarter h q v).lastRead = h.lastRead := rfl
@[simp] theorem setQuarter_lastPoison (h : Hw) (q : Nat) (v : Quarter) : (setQuarter h q v).lastPoison = h.lastPoison := rfl
@[simp] theorem setQuarter_lastResult (h : Hw) (q : Nat) (v : Quarter) : (setQuarter h q v).lastResult = h.lastResult := rfl

@[simp] theorem setEngine_regs (h : Hw) (q : Nat) (v : Engine) : (setEngine h q v).regs = h.regs := rfl
@[simp] theorem setEngine_sup (h : Hw) (q : Nat) (v : Engine) : (setEngine h q v).sup = h.sup := rfl
@[simp] theorem setEngine_mod (h : Hw) (q : Nat) (v : Engine) : (setEngine h q v).mod = h.mod := rfl
@[simp] theorem setEngine_boot (h : Hw) (q : Nat) (v : Engine) : (setEngine h q v).boot = h.boot := rfl
@[simp] theorem setEngine_tim (h : Hw) (q : Nat) (v : Engine) : (setEngine h q v).tim = h.tim := rfl
@[simp] theorem setEngine_lan (h : Hw) (q : Nat) (v : Engine) : (setEngine h q v).lan = h.lan := rfl
@[simp] theorem setEngine_ave (h : Hw) (q : Nat) (v : Engine) : (setEngine h q v).ave = h.ave := rfl
@[simp] theorem setEngine_rbt (h : Hw) (q : Nat) (v : Engine) : (setEngine h q v).rbt = h.rbt := rfl
@[simp] theorem setEngine_qu (h : Hw) (q : Nat) (v : Engine) : (setEngine h q v).qu = h.qu := rfl
@[simp] theorem setEngine_cor (h : Hw) (q : Nat) (v : Engine) : (setEngine h q v).cor = h.cor := rfl
@[simp] theorem setEngine_hom (h : Hw) (q : Nat) (v : Engine) : (setEngine h q v).hom = h.hom := rfl
@[simp] theorem setEngine_grid (h : Hw) (q : Nat) (v : Engine) : (setEngine h q v).grid = h.grid := rfl
@[simp] theorem setEngine_par (h : Hw) (q : Nat) (v : Engine) : (setEngine h q v).par = h.par := rfl
@[simp] theorem setEngine_host (h : Hw) (q : Nat) (v : Engine) : (setEngine h q v).host = h.host := rfl
@[simp] theorem setEngine_blvd (h : Hw) (q : Nat) (v : Engine) : (setEngine h q v).blvd = h.blvd := rfl
@[simp] theorem setEngine_ints (h : Hw) (q : Nat) (v : Engine) : (setEngine h q v).ints = h.ints := rfl
@[simp] theorem setEngine_kyd (h : Hw) (q : Nat) (v : Engine) : (setEngine h q v).kyd = h.kyd := rfl
@[simp] theorem setEngine_now (h : Hw) (q : Nat) (v : Engine) : (setEngine h q v).now = h.now := rfl
@[simp] theorem setEngine_freeCtr (h : Hw) (q : Nat) (v : Engine) : (setEngine h q v).freeCtr = h.freeCtr := rfl
@[simp] theorem setEngine_busErr (h : Hw) (q : Nat) (v : Engine) : (setEngine h q v).busErr = h.busErr := rfl
@[simp] theorem setEngine_lastRead (h : Hw) (q : Nat) (v : Engine) : (setEngine h q v).lastRead = h.lastRead := rfl
@[simp] theorem setEngine_lastPoison (h : Hw) (q : Nat) (v : Engine) : (setEngine h q v).lastPoison = h.lastPoison := rfl
@[simp] theorem setEngine_lastResult (h : Hw) (q : Nat) (v : Engine) : (setEngine h q v).lastResult = h.lastResult := rfl

@[simp] theorem setCore_regs (h : Hw) (c : Nat) (v : Core) : (setCore h c v).regs = h.regs := rfl
@[simp] theorem setCore_sup (h : Hw) (c : Nat) (v : Core) : (setCore h c v).sup = h.sup := rfl
@[simp] theorem setCore_mod (h : Hw) (c : Nat) (v : Core) : (setCore h c v).mod = h.mod := rfl
@[simp] theorem setCore_boot (h : Hw) (c : Nat) (v : Core) : (setCore h c v).boot = h.boot := rfl
@[simp] theorem setCore_tim (h : Hw) (c : Nat) (v : Core) : (setCore h c v).tim = h.tim := rfl
@[simp] theorem setCore_lan (h : Hw) (c : Nat) (v : Core) : (setCore h c v).lan = h.lan := rfl
@[simp] theorem setCore_ave (h : Hw) (c : Nat) (v : Core) : (setCore h c v).ave = h.ave := rfl
@[simp] theorem setCore_rbt (h : Hw) (c : Nat) (v : Core) : (setCore h c v).rbt = h.rbt := rfl
@[simp] theorem setCore_qu (h : Hw) (c : Nat) (v : Core) : (setCore h c v).qu = h.qu := rfl
@[simp] theorem setCore_eng (h : Hw) (c : Nat) (v : Core) : (setCore h c v).eng = h.eng := rfl
@[simp] theorem setCore_hom (h : Hw) (c : Nat) (v : Core) : (setCore h c v).hom = h.hom := rfl
@[simp] theorem setCore_grid (h : Hw) (c : Nat) (v : Core) : (setCore h c v).grid = h.grid := rfl
@[simp] theorem setCore_par (h : Hw) (c : Nat) (v : Core) : (setCore h c v).par = h.par := rfl
@[simp] theorem setCore_host (h : Hw) (c : Nat) (v : Core) : (setCore h c v).host = h.host := rfl
@[simp] theorem setCore_blvd (h : Hw) (c : Nat) (v : Core) : (setCore h c v).blvd = h.blvd := rfl
@[simp] theorem setCore_ints (h : Hw) (c : Nat) (v : Core) : (setCore h c v).ints = h.ints := rfl
@[simp] theorem setCore_kyd (h : Hw) (c : Nat) (v : Core) : (setCore h c v).kyd = h.kyd := rfl
@[simp] theorem setCore_now (h : Hw) (c : Nat) (v : Core) : (setCore h c v).now = h.now := rfl
@[simp] theorem setCore_freeCtr (h : Hw) (c : Nat) (v : Core) : (setCore h c v).freeCtr = h.freeCtr := rfl
@[simp] theorem setCore_busErr (h : Hw) (c : Nat) (v : Core) : (setCore h c v).busErr = h.busErr := rfl
@[simp] theorem setCore_lastRead (h : Hw) (c : Nat) (v : Core) : (setCore h c v).lastRead = h.lastRead := rfl
@[simp] theorem setCore_lastPoison (h : Hw) (c : Nat) (v : Core) : (setCore h c v).lastPoison = h.lastPoison := rfl
@[simp] theorem setCore_lastResult (h : Hw) (c : Nat) (v : Core) : (setCore h c v).lastResult = h.lastResult := rfl

@[simp] theorem setSmall_regs (h : Hw) (m : Nat) (v : SmallCore) : (setSmall h m v).regs = h.regs := rfl
@[simp] theorem setSmall_sup (h : Hw) (m : Nat) (v : SmallCore) : (setSmall h m v).sup = h.sup := rfl
@[simp] theorem setSmall_mod (h : Hw) (m : Nat) (v : SmallCore) : (setSmall h m v).mod = h.mod := rfl
@[simp] theorem setSmall_boot (h : Hw) (m : Nat) (v : SmallCore) : (setSmall h m v).boot = h.boot := rfl
@[simp] theorem setSmall_tim (h : Hw) (m : Nat) (v : SmallCore) : (setSmall h m v).tim = h.tim := rfl
@[simp] theorem setSmall_lan (h : Hw) (m : Nat) (v : SmallCore) : (setSmall h m v).lan = h.lan := rfl
@[simp] theorem setSmall_ave (h : Hw) (m : Nat) (v : SmallCore) : (setSmall h m v).ave = h.ave := rfl
@[simp] theorem setSmall_rbt (h : Hw) (m : Nat) (v : SmallCore) : (setSmall h m v).rbt = h.rbt := rfl
@[simp] theorem setSmall_qu (h : Hw) (m : Nat) (v : SmallCore) : (setSmall h m v).qu = h.qu := rfl
@[simp] theorem setSmall_eng (h : Hw) (m : Nat) (v : SmallCore) : (setSmall h m v).eng = h.eng := rfl
@[simp] theorem setSmall_hom (h : Hw) (m : Nat) (v : SmallCore) : (setSmall h m v).hom = h.hom := rfl
@[simp] theorem setSmall_grid (h : Hw) (m : Nat) (v : SmallCore) : (setSmall h m v).grid = h.grid := rfl
@[simp] theorem setSmall_par (h : Hw) (m : Nat) (v : SmallCore) : (setSmall h m v).par = h.par := rfl
@[simp] theorem setSmall_host (h : Hw) (m : Nat) (v : SmallCore) : (setSmall h m v).host = h.host := rfl
@[simp] theorem setSmall_blvd (h : Hw) (m : Nat) (v : SmallCore) : (setSmall h m v).blvd = h.blvd := rfl
@[simp] theorem setSmall_ints (h : Hw) (m : Nat) (v : SmallCore) : (setSmall h m v).ints = h.ints := rfl
@[simp] theorem setSmall_kyd (h : Hw) (m : Nat) (v : SmallCore) : (setSmall h m v).kyd = h.kyd := rfl
@[simp] theorem setSmall_now (h : Hw) (m : Nat) (v : SmallCore) : (setSmall h m v).now = h.now := rfl
@[simp] theorem setSmall_freeCtr (h : Hw) (m : Nat) (v : SmallCore) : (setSmall h m v).freeCtr = h.freeCtr := rfl
@[simp] theorem setSmall_busErr (h : Hw) (m : Nat) (v : SmallCore) : (setSmall h m v).busErr = h.busErr := rfl
@[simp] theorem setSmall_lastRead (h : Hw) (m : Nat) (v : SmallCore) : (setSmall h m v).lastRead = h.lastRead := rfl
@[simp] theorem setSmall_lastPoison (h : Hw) (m : Nat) (v : SmallCore) : (setSmall h m v).lastPoison = h.lastPoison := rfl
@[simp] theorem setSmall_lastResult (h : Hw) (m : Nat) (v : SmallCore) : (setSmall h m v).lastResult = h.lastResult := rfl

@[simp] theorem setFn_regs (h : Hw) (n : Nat) (v : Fn) : (setFn h n v).regs = h.regs := rfl
@[simp] theorem setFn_sup (h : Hw) (n : Nat) (v : Fn) : (setFn h n v).sup = h.sup := rfl
@[simp] theorem setFn_mod (h : Hw) (n : Nat) (v : Fn) : (setFn h n v).mod = h.mod := rfl
@[simp] theorem setFn_boot (h : Hw) (n : Nat) (v : Fn) : (setFn h n v).boot = h.boot := rfl
@[simp] theorem setFn_tim (h : Hw) (n : Nat) (v : Fn) : (setFn h n v).tim = h.tim := rfl
@[simp] theorem setFn_lan (h : Hw) (n : Nat) (v : Fn) : (setFn h n v).lan = h.lan := rfl
@[simp] theorem setFn_ave (h : Hw) (n : Nat) (v : Fn) : (setFn h n v).ave = h.ave := rfl
@[simp] theorem setFn_rbt (h : Hw) (n : Nat) (v : Fn) : (setFn h n v).rbt = h.rbt := rfl
@[simp] theorem setFn_qu (h : Hw) (n : Nat) (v : Fn) : (setFn h n v).qu = h.qu := rfl
@[simp] theorem setFn_eng (h : Hw) (n : Nat) (v : Fn) : (setFn h n v).eng = h.eng := rfl
@[simp] theorem setFn_cor (h : Hw) (n : Nat) (v : Fn) : (setFn h n v).cor = h.cor := rfl
@[simp] theorem setFn_hom (h : Hw) (n : Nat) (v : Fn) : (setFn h n v).hom = h.hom := rfl
@[simp] theorem setFn_grid (h : Hw) (n : Nat) (v : Fn) : (setFn h n v).grid = h.grid := rfl
@[simp] theorem setFn_par (h : Hw) (n : Nat) (v : Fn) : (setFn h n v).par = h.par := rfl
@[simp] theorem setFn_blvd (h : Hw) (n : Nat) (v : Fn) : (setFn h n v).blvd = h.blvd := rfl
@[simp] theorem setFn_ints (h : Hw) (n : Nat) (v : Fn) : (setFn h n v).ints = h.ints := rfl
@[simp] theorem setFn_kyd (h : Hw) (n : Nat) (v : Fn) : (setFn h n v).kyd = h.kyd := rfl
@[simp] theorem setFn_now (h : Hw) (n : Nat) (v : Fn) : (setFn h n v).now = h.now := rfl
@[simp] theorem setFn_freeCtr (h : Hw) (n : Nat) (v : Fn) : (setFn h n v).freeCtr = h.freeCtr := rfl
@[simp] theorem setFn_busErr (h : Hw) (n : Nat) (v : Fn) : (setFn h n v).busErr = h.busErr := rfl
@[simp] theorem setFn_lastRead (h : Hw) (n : Nat) (v : Fn) : (setFn h n v).lastRead = h.lastRead := rfl
@[simp] theorem setFn_lastPoison (h : Hw) (n : Nat) (v : Fn) : (setFn h n v).lastPoison = h.lastPoison := rfl
@[simp] theorem setFn_lastResult (h : Hw) (n : Nat) (v : Fn) : (setFn h n v).lastResult = h.lastResult := rfl

@[simp] theorem setBundle_regs (h : Hw) (g b : Nat) (v : Bundle) : (setBundle h g b v).regs = h.regs := rfl
@[simp] theorem setBundle_sup (h : Hw) (g b : Nat) (v : Bundle) : (setBundle h g b v).sup = h.sup := rfl
@[simp] theorem setBundle_mod (h : Hw) (g b : Nat) (v : Bundle) : (setBundle h g b v).mod = h.mod := rfl
@[simp] theorem setBundle_boot (h : Hw) (g b : Nat) (v : Bundle) : (setBundle h g b v).boot = h.boot := rfl
@[simp] theorem setBundle_tim (h : Hw) (g b : Nat) (v : Bundle) : (setBundle h g b v).tim = h.tim := rfl
@[simp] theorem setBundle_lan (h : Hw) (g b : Nat) (v : Bundle) : (setBundle h g b v).lan = h.lan := rfl
@[simp] theorem setBundle_ave (h : Hw) (g b : Nat) (v : Bundle) : (setBundle h g b v).ave = h.ave := rfl
@[simp] theorem setBundle_rbt (h : Hw) (g b : Nat) (v : Bundle) : (setBundle h g b v).rbt = h.rbt := rfl
@[simp] theorem setBundle_qu (h : Hw) (g b : Nat) (v : Bundle) : (setBundle h g b v).qu = h.qu := rfl
@[simp] theorem setBundle_eng (h : Hw) (g b : Nat) (v : Bundle) : (setBundle h g b v).eng = h.eng := rfl
@[simp] theorem setBundle_cor (h : Hw) (g b : Nat) (v : Bundle) : (setBundle h g b v).cor = h.cor := rfl
@[simp] theorem setBundle_hom (h : Hw) (g b : Nat) (v : Bundle) : (setBundle h g b v).hom = h.hom := rfl
@[simp] theorem setBundle_grid (h : Hw) (g b : Nat) (v : Bundle) : (setBundle h g b v).grid = h.grid := rfl
@[simp] theorem setBundle_par (h : Hw) (g b : Nat) (v : Bundle) : (setBundle h g b v).par = h.par := rfl
@[simp] theorem setBundle_host (h : Hw) (g b : Nat) (v : Bundle) : (setBundle h g b v).host = h.host := rfl
@[simp] theorem setBundle_ints (h : Hw) (g b : Nat) (v : Bundle) : (setBundle h g b v).ints = h.ints := rfl
@[simp] theorem setBundle_kyd (h : Hw) (g b : Nat) (v : Bundle) : (setBundle h g b v).kyd = h.kyd := rfl
@[simp] theorem setBundle_now (h : Hw) (g b : Nat) (v : Bundle) : (setBundle h g b v).now = h.now := rfl
@[simp] theorem setBundle_freeCtr (h : Hw) (g b : Nat) (v : Bundle) : (setBundle h g b v).freeCtr = h.freeCtr := rfl
@[simp] theorem setBundle_busErr (h : Hw) (g b : Nat) (v : Bundle) : (setBundle h g b v).busErr = h.busErr := rfl
@[simp] theorem setBundle_lastRead (h : Hw) (g b : Nat) (v : Bundle) : (setBundle h g b v).lastRead = h.lastRead := rfl
@[simp] theorem setBundle_lastPoison (h : Hw) (g b : Nat) (v : Bundle) : (setBundle h g b v).lastPoison = h.lastPoison := rfl
@[simp] theorem setBundle_lastResult (h : Hw) (g b : Nat) (v : Bundle) : (setBundle h g b v).lastResult = h.lastResult := rfl

@[simp] theorem setFlow_regs (h : Hw) (f : Nat) (v : Flow) : (setFlow h f v).regs = h.regs := rfl
@[simp] theorem setFlow_sup (h : Hw) (f : Nat) (v : Flow) : (setFlow h f v).sup = h.sup := rfl
@[simp] theorem setFlow_mod (h : Hw) (f : Nat) (v : Flow) : (setFlow h f v).mod = h.mod := rfl
@[simp] theorem setFlow_boot (h : Hw) (f : Nat) (v : Flow) : (setFlow h f v).boot = h.boot := rfl
@[simp] theorem setFlow_tim (h : Hw) (f : Nat) (v : Flow) : (setFlow h f v).tim = h.tim := rfl
@[simp] theorem setFlow_lan (h : Hw) (f : Nat) (v : Flow) : (setFlow h f v).lan = h.lan := rfl
@[simp] theorem setFlow_ave (h : Hw) (f : Nat) (v : Flow) : (setFlow h f v).ave = h.ave := rfl
@[simp] theorem setFlow_qu (h : Hw) (f : Nat) (v : Flow) : (setFlow h f v).qu = h.qu := rfl
@[simp] theorem setFlow_eng (h : Hw) (f : Nat) (v : Flow) : (setFlow h f v).eng = h.eng := rfl
@[simp] theorem setFlow_cor (h : Hw) (f : Nat) (v : Flow) : (setFlow h f v).cor = h.cor := rfl
@[simp] theorem setFlow_hom (h : Hw) (f : Nat) (v : Flow) : (setFlow h f v).hom = h.hom := rfl
@[simp] theorem setFlow_grid (h : Hw) (f : Nat) (v : Flow) : (setFlow h f v).grid = h.grid := rfl
@[simp] theorem setFlow_par (h : Hw) (f : Nat) (v : Flow) : (setFlow h f v).par = h.par := rfl
@[simp] theorem setFlow_host (h : Hw) (f : Nat) (v : Flow) : (setFlow h f v).host = h.host := rfl
@[simp] theorem setFlow_blvd (h : Hw) (f : Nat) (v : Flow) : (setFlow h f v).blvd = h.blvd := rfl
@[simp] theorem setFlow_ints (h : Hw) (f : Nat) (v : Flow) : (setFlow h f v).ints = h.ints := rfl
@[simp] theorem setFlow_kyd (h : Hw) (f : Nat) (v : Flow) : (setFlow h f v).kyd = h.kyd := rfl
@[simp] theorem setFlow_now (h : Hw) (f : Nat) (v : Flow) : (setFlow h f v).now = h.now := rfl
@[simp] theorem setFlow_freeCtr (h : Hw) (f : Nat) (v : Flow) : (setFlow h f v).freeCtr = h.freeCtr := rfl
@[simp] theorem setFlow_busErr (h : Hw) (f : Nat) (v : Flow) : (setFlow h f v).busErr = h.busErr := rfl
@[simp] theorem setFlow_lastRead (h : Hw) (f : Nat) (v : Flow) : (setFlow h f v).lastRead = h.lastRead := rfl
@[simp] theorem setFlow_lastPoison (h : Hw) (f : Nat) (v : Flow) : (setFlow h f v).lastPoison = h.lastPoison := rfl
@[simp] theorem setFlow_lastResult (h : Hw) (f : Nat) (v : Flow) : (setFlow h f v).lastResult = h.lastResult := rfl

@[simp] theorem setPart_regs (h : Hw) (p : Nat) (v : PartCfg) : (setPart h p v).regs = h.regs := rfl
@[simp] theorem setPart_sup (h : Hw) (p : Nat) (v : PartCfg) : (setPart h p v).sup = h.sup := rfl
@[simp] theorem setPart_mod (h : Hw) (p : Nat) (v : PartCfg) : (setPart h p v).mod = h.mod := rfl
@[simp] theorem setPart_tim (h : Hw) (p : Nat) (v : PartCfg) : (setPart h p v).tim = h.tim := rfl
@[simp] theorem setPart_lan (h : Hw) (p : Nat) (v : PartCfg) : (setPart h p v).lan = h.lan := rfl
@[simp] theorem setPart_ave (h : Hw) (p : Nat) (v : PartCfg) : (setPart h p v).ave = h.ave := rfl
@[simp] theorem setPart_rbt (h : Hw) (p : Nat) (v : PartCfg) : (setPart h p v).rbt = h.rbt := rfl
@[simp] theorem setPart_qu (h : Hw) (p : Nat) (v : PartCfg) : (setPart h p v).qu = h.qu := rfl
@[simp] theorem setPart_eng (h : Hw) (p : Nat) (v : PartCfg) : (setPart h p v).eng = h.eng := rfl
@[simp] theorem setPart_cor (h : Hw) (p : Nat) (v : PartCfg) : (setPart h p v).cor = h.cor := rfl
@[simp] theorem setPart_hom (h : Hw) (p : Nat) (v : PartCfg) : (setPart h p v).hom = h.hom := rfl
@[simp] theorem setPart_grid (h : Hw) (p : Nat) (v : PartCfg) : (setPart h p v).grid = h.grid := rfl
@[simp] theorem setPart_par (h : Hw) (p : Nat) (v : PartCfg) : (setPart h p v).par = h.par := rfl
@[simp] theorem setPart_host (h : Hw) (p : Nat) (v : PartCfg) : (setPart h p v).host = h.host := rfl
@[simp] theorem setPart_blvd (h : Hw) (p : Nat) (v : PartCfg) : (setPart h p v).blvd = h.blvd := rfl
@[simp] theorem setPart_ints (h : Hw) (p : Nat) (v : PartCfg) : (setPart h p v).ints = h.ints := rfl
@[simp] theorem setPart_kyd (h : Hw) (p : Nat) (v : PartCfg) : (setPart h p v).kyd = h.kyd := rfl
@[simp] theorem setPart_now (h : Hw) (p : Nat) (v : PartCfg) : (setPart h p v).now = h.now := rfl
@[simp] theorem setPart_freeCtr (h : Hw) (p : Nat) (v : PartCfg) : (setPart h p v).freeCtr = h.freeCtr := rfl
@[simp] theorem setPart_busErr (h : Hw) (p : Nat) (v : PartCfg) : (setPart h p v).busErr = h.busErr := rfl
@[simp] theorem setPart_lastRead (h : Hw) (p : Nat) (v : PartCfg) : (setPart h p v).lastRead = h.lastRead := rfl
@[simp] theorem setPart_lastPoison (h : Hw) (p : Nat) (v : PartCfg) : (setPart h p v).lastPoison = h.lastPoison := rfl
@[simp] theorem setPart_lastResult (h : Hw) (p : Nat) (v : PartCfg) : (setPart h p v).lastResult = h.lastResult := rfl

@[simp] theorem setBusErr_sup (h : Hw) (b : Bool) : (setBusErr h b).sup = h.sup := rfl
@[simp] theorem setBusErr_boot (h : Hw) (b : Bool) : (setBusErr h b).boot = h.boot := rfl
@[simp] theorem setBusErr_tim (h : Hw) (b : Bool) : (setBusErr h b).tim = h.tim := rfl
@[simp] theorem setBusErr_lan (h : Hw) (b : Bool) : (setBusErr h b).lan = h.lan := rfl
@[simp] theorem setBusErr_ave (h : Hw) (b : Bool) : (setBusErr h b).ave = h.ave := rfl
@[simp] theorem setBusErr_rbt (h : Hw) (b : Bool) : (setBusErr h b).rbt = h.rbt := rfl
@[simp] theorem setBusErr_qu (h : Hw) (b : Bool) : (setBusErr h b).qu = h.qu := rfl
@[simp] theorem setBusErr_eng (h : Hw) (b : Bool) : (setBusErr h b).eng = h.eng := rfl
@[simp] theorem setBusErr_cor (h : Hw) (b : Bool) : (setBusErr h b).cor = h.cor := rfl
@[simp] theorem setBusErr_hom (h : Hw) (b : Bool) : (setBusErr h b).hom = h.hom := rfl
@[simp] theorem setBusErr_grid (h : Hw) (b : Bool) : (setBusErr h b).grid = h.grid := rfl
@[simp] theorem setBusErr_par (h : Hw) (b : Bool) : (setBusErr h b).par = h.par := rfl
@[simp] theorem setBusErr_host (h : Hw) (b : Bool) : (setBusErr h b).host = h.host := rfl
@[simp] theorem setBusErr_blvd (h : Hw) (b : Bool) : (setBusErr h b).blvd = h.blvd := rfl
@[simp] theorem setBusErr_ints (h : Hw) (b : Bool) : (setBusErr h b).ints = h.ints := rfl
@[simp] theorem setBusErr_kyd (h : Hw) (b : Bool) : (setBusErr h b).kyd = h.kyd := rfl
@[simp] theorem setBusErr_now (h : Hw) (b : Bool) : (setBusErr h b).now = h.now := rfl
@[simp] theorem setBusErr_freeCtr (h : Hw) (b : Bool) : (setBusErr h b).freeCtr = h.freeCtr := rfl
@[simp] theorem setBusErr_lastRead (h : Hw) (b : Bool) : (setBusErr h b).lastRead = h.lastRead := rfl
@[simp] theorem setBusErr_lastPoison (h : Hw) (b : Bool) : (setBusErr h b).lastPoison = h.lastPoison := rfl
@[simp] theorem setBusErr_lastResult (h : Hw) (b : Bool) : (setBusErr h b).lastResult = h.lastResult := rfl

@[simp] theorem takeFree_sup (h : Hw) : (takeFree h).2.sup = h.sup := rfl
@[simp] theorem takeFree_mod (h : Hw) : (takeFree h).2.mod = h.mod := rfl
@[simp] theorem takeFree_boot (h : Hw) : (takeFree h).2.boot = h.boot := rfl
@[simp] theorem takeFree_tim (h : Hw) : (takeFree h).2.tim = h.tim := rfl
@[simp] theorem takeFree_lan (h : Hw) : (takeFree h).2.lan = h.lan := rfl
@[simp] theorem takeFree_ave (h : Hw) : (takeFree h).2.ave = h.ave := rfl
@[simp] theorem takeFree_rbt (h : Hw) : (takeFree h).2.rbt = h.rbt := rfl
@[simp] theorem takeFree_qu (h : Hw) : (takeFree h).2.qu = h.qu := rfl
@[simp] theorem takeFree_eng (h : Hw) : (takeFree h).2.eng = h.eng := rfl
@[simp] theorem takeFree_cor (h : Hw) : (takeFree h).2.cor = h.cor := rfl
@[simp] theorem takeFree_hom (h : Hw) : (takeFree h).2.hom = h.hom := rfl
@[simp] theorem takeFree_grid (h : Hw) : (takeFree h).2.grid = h.grid := rfl
@[simp] theorem takeFree_par (h : Hw) : (takeFree h).2.par = h.par := rfl
@[simp] theorem takeFree_host (h : Hw) : (takeFree h).2.host = h.host := rfl
@[simp] theorem takeFree_blvd (h : Hw) : (takeFree h).2.blvd = h.blvd := rfl
@[simp] theorem takeFree_ints (h : Hw) : (takeFree h).2.ints = h.ints := rfl
@[simp] theorem takeFree_kyd (h : Hw) : (takeFree h).2.kyd = h.kyd := rfl
@[simp] theorem takeFree_now (h : Hw) : (takeFree h).2.now = h.now := rfl
@[simp] theorem takeFree_busErr (h : Hw) : (takeFree h).2.busErr = h.busErr := rfl
@[simp] theorem takeFree_lastRead (h : Hw) : (takeFree h).2.lastRead = h.lastRead := rfl
@[simp] theorem takeFree_lastPoison (h : Hw) : (takeFree h).2.lastPoison = h.lastPoison := rfl
@[simp] theorem takeFree_lastResult (h : Hw) : (takeFree h).2.lastResult = h.lastResult := rfl

end Sys2Proof.Machine
end

