-- ==== Sys2Proof/Tests/Slice0.lean ====
section
/-!
SUPPORT. Tests: ill-formed commands, the queue, and single commands on small states, with results taken from the rules named.
-/

namespace Sys2Proof.Tests

open Machine

/-- What a command leaves of the state after reset, changed by `f`, as `p` sees it. -/
def sees (f : Hw → Hw) (c : Instr) (p : State → Bool) : Bool :=
  match exec c (State.reset.upd f) with
  | .next t => p t
  | _ => false

/-! ### Ill-formed commands -/

theorem test_wf_ok : (Instr.registerWrite .kydin 0x00F000010008 8 0).wellFormed = true := by decide
theorem test_wf_address : (Instr.registerWrite .kydin (2 ^ 52) 8 0).wellFormed = false := by decide
theorem test_wf_size : (Instr.registerWrite .kydin 0 9 0).wellFormed = false := by decide
theorem test_wf_no_action : (Instr.noActionCommand .kydin (2 ^ 52) 0).wellFormed = false := by decide
theorem test_wf_timeout : (Instr.assemblyTimeout 0 (2 ^ 64)).wellFormed = false := by decide
theorem test_wf_enqueue : (Instr.eventEnqueue 0 (2 ^ 64)).wellFormed = false := by decide
theorem test_wf_coefficients : (Instr.bgAdaptStep 0 0 (List.replicate 13 0)).wellFormed = false := by decide
theorem test_wf_line : (Instr.dramWrite 0 .kydin 0 { bytes := List.replicate 65 0 } [] false).wellFormed = false := by decide
theorem test_wf_mask : (Instr.dramWrite 0 .kydin 0 { bytes := [0] } [true, true] false).wellFormed = false := by decide
theorem test_wf_io_read : (Instr.ioRead .kydin (BitVec.ofNat 52 (2 ^ 52 - 1)) 2).wellFormed = false := by decide
theorem test_wf_io_write : (Instr.ioWrite .kydin (BitVec.ofNat 52 (2 ^ 52 - 1)) [0, 0]).wellFormed = false := by decide
theorem test_wf_tlp_len : (Instr.inboundTlp 0 false .bar2 0 4097 [] false).wellFormed = false := by decide
theorem test_wf_outbound : (Instr.outboundAccess .kydin (BitVec.ofNat 52 (2 ^ 52 - 1)) false 2 [] false).wellFormed = false := by decide
theorem test_wf_units : (Instr.blvdPacket 0 0 0 (List.replicate 33 0) 0).wellFormed = false := by decide
theorem test_wf_remote : (Instr.remoteWrite .kydin (BitVec.ofNat 52 (2 ^ 52 - 1)) [0, 0] false).wellFormed = false := by decide
theorem test_wf_ageing (l : List (BitVec 16)) (h : l.length = 161) : (Instr.lifetimeDaily l).wellFormed = false := by
  simp [Instr.wellFormed, Instr.bounds, h]
theorem test_wf_component : (Instr.component .inband (BitVec.ofNat 52 (2 ^ 52 - 1)) 2).wellFormed = false := by decide

/-! ### The queue (the row's cut) -/

/-- With no command waiting a gate cycle passes in M2 (R166). -/
theorem test_step_idle : (match step State.reset with | .next t => decide (t.hw.now = 64) && t.pending.isEmpty | _ => false) = true := by decide
theorem test_step_front (c : Instr) (r : List Instr) : step { State.reset with pending := c :: r } = exec c { State.reset with pending := r } := rfl
theorem test_word : decodeTableWord 32 0x33 = none := rfl

/-! ### Supplies and temperature (02) -/

/-- 9.0 V makes an input valid (R49). -/
theorem test_input_valid : sees id (.inputValid .a 9000) (fun t => t.hw.sup.pinA.valid) = true := by decide
/-- Below 9.0 V an input that was not valid stays so (R49). -/
theorem test_input_below : sees id (.inputValid .a 8999) (fun t => !t.hw.sup.pinA.valid) = true := by decide
/-- A valid input stays valid down to 8.6 V (R49). -/
theorem test_input_hysteresis : sees (fun h => { h with sup := { h.sup with pinB := { mv := 9000, valid := true } } }) (.inputValid .b 8600)
    (fun t => t.hw.sup.pinB.valid) = true := by decide
/-- The coolant inlet at 45 degrees is no warning yet (R70). -/
theorem test_inlet_at : sees id (.inletWarning 45000) (fun t => !t.hw.sup.inletWarn) = true := by decide
theorem test_insertion : sees id (.moduleInsertion true) (fun t => t.hw.sup.inserted) = true := by decide
/-- A pulse on RESET_N below 80 ns has no effect (R85). -/
theorem test_reset_pulse_short : exec (.resetNPulse 79) State.reset = .next State.reset := rfl

/-- The module draws from A where A is valid at power-good (R58). -/
theorem test_power_good : sees (fun h => { h with sup := { h.sup with pinA := { mv := 48000, valid := true }, pinB := { mv := 48000, valid := true } } })
    (.powerGood 0 true false) (fun t => t.hw.sup.selected == some .a && t.hw.sup.powerGood) = true := by decide
/-- EXTEST is BYPASS outside M0 and M1, also where the mode rises after it was loaded (R40). -/
theorem test_extest_m0 : sees (fun h => fset h F_MODE_STATUS_MODE 0) (.jtagInstruction (.extest 4))
    (fun t => !tapBypass t.hw && t.hw.sup.scan == 4 && tapBypass (fset t.hw F_MODE_STATUS_MODE 2)) = true := by decide

/-! ### Boot commands (04) -/

/-- BOOT_ONCE names slot B, ends DONE and advances SEQ (R137, R568). -/
theorem test_boot_once : sees id (.bootOnceSlotB .kydin) (fun t => t.hw.boot.bootOnce == some true && fget t.hw F_BOOT_CTRL_RESULT == 2 &&
    fget t.hw F_BOOT_CTRL_SEQ == 1) = true := by decide

/-! ### Memory (08) -/

/-- Kydin's write changes the byte named and not its neighbour (R258, R278). -/
theorem test_dram_write : sees (fun h => fset h F_MODE_STATUS_MODE 3) (.dramWrite 1 .kydin 5 { bytes := [7] } [true] false)
    (fun t => t.mem.byte (dkey 1 5) == 7 && t.mem.byte (dkey 1 6) == 0 && t.mem.wf) = true := by decide +kernel
/-- A byte that its mask leaves out keeps its value (R258). -/
theorem test_dram_masked : sees (fun h => fset h F_MODE_STATUS_MODE 3) (.dramWrite 1 .kydin 5 { bytes := [7] } [false] false)
    (fun t => t.mem.byte (dkey 1 5) == 0) = true := by decide

/-! ### Windows that do not answer (R566) and writes (R4, R5) -/

/-- In M0 a write by a core is a bus error. -/
theorem test_write_m0 : sees (fun h => fset h F_MODE_STATUS_MODE 0) (.modeRequest (.core 0) 3) (fun t => t.hw.busErr) = true := by decide

/-! ### Interrupt sources (17) -/

/-- An event sets PENDING and counts one (R522). -/
theorem test_event : sees id (.sourceEvent none 5)
    (fun t => fget t.hw F_INT_SRC_STATE_PENDING 0 5 == 1 && fget t.hw F_INT_SRC_STATE_EVENTS 0 5 == 1) = true := by decide
/-- EVENTS stays at 255 (R522). -/
theorem test_event_saturates : sees (fun h => fset h F_INT_SRC_STATE_EVENTS 255 0 5) (.sourceEvent none 5)
    (fun t => fget t.hw F_INT_SRC_STATE_EVENTS 0 5 == 255) = true := by decide

/-- CLEAR sets PENDING and EVENTS to 0 (R522). -/
theorem test_clear : sees (fun h => fset (fset (fset h F_MODE_STATUS_MODE 3) F_INT_SRC_STATE_PENDING 1 0 5) F_INT_SRC_STATE_EVENTS 9 0 5) (.clear .kydin 5)
    (fun t => fget t.hw F_INT_SRC_STATE_PENDING 0 5 == 0 && fget t.hw F_INT_SRC_STATE_EVENTS 0 5 == 0) = true := by decide

/-! ### Witnesses: the premises of the statements are met together -/

/-- The state after reset in a mode, changed by `f`. -/
def inMode (m : Nat) (f : Hw → Hw := id) : State := State.reset.upd fun h => f (fset h F_MODE_STATUS_MODE m)

/-- Partition 0 with every square, quarter and engine, and gate 0. -/
def withPart (h : Hw) : Hw := setPart h 0 { present := true, squares := 2 ^ 80 - 1, quarters := 2 ^ 24 - 1, engines := 2 ^ 24 - 1, gates := 1 }

theorem witness_memory_form : State.reset.mem.wf = true := by decide
theorem witness_front : ({ State.reset with pending := [.clkXGap] } : State).pending = .clkXGap :: [] := rfl
theorem witness_power_fail_idle : (State.reset.upd fun h => { h with sup := { h.sup with powerFail := true } }).hw.sup.powerFail = true := rfl

/-- SupplyInputsPinsAndSwitchOver: B becomes valid at 9.0 V while A, selected, is not. -/
theorem witness_switch_over : let s := State.reset.upd fun h => { h with sup := { h.sup with lostBoth := false, selected := some .a, switchTo := none } }
    powered s.hw = true ∧ s.hw.sup.selected = some (otherInput .b) ∧ (pinOf s.hw .a).valid = false ∧ (pinOf s.hw .b).valid = false ∧ (9000 : Int) ≤ 9000 := by decide
theorem witness_power_good : let s := State.reset.upd fun h => { h with sup := { h.sup with powerGood := false, pinA := { mv := 9000, valid := true } } }
    s.hw.sup.powerGood = false ∧ s.hw.sup.pinA.valid = true := by decide
/-- SupplyVoltageMovesModes: M1 at 18.0 V without a service hold. -/
theorem witness_voltage : (inMode 1).hw.sup.avgWait = false ∧ modeNow (inMode 1).hw = 1 ∧ (inMode 1).hw.mod.serviceHold = false := by decide
theorem witness_limiter : let s := State.reset.upd fun h => { h with sup := { h.sup with lostBoth := false, coreMhz := 800, thermCap := 3600 } }
    powered s.hw = true ∧ 800 ≤ s.hw.sup.coreMhz ∧ s.hw.sup.coreMhz ≤ 3600 ∧ 800 ≤ s.hw.sup.thermCap ∧ s.hw.sup.thermCap ≤ 3600 := by decide
theorem witness_mode_request : accepts (inMode 3) .kydin R_MODE_REQUEST 0 0 ∧
    fon (inMode 3 fun h => fset h F_MODE_STATUS_IN_TRANSITION 1).hw F_MODE_STATUS_IN_TRANSITION = true := ⟨⟨by decide, by decide⟩, by decide⟩
/-- TransitionsEndAndFatalErrorsContain: a transition from M3 to M4 is about to end. -/
theorem witness_transition : let h := (inMode 3 fun h => fset (fset (fset h F_MODE_STATUS_IN_TRANSITION 1) F_MODE_STATUS_TARGET 4) F_MODE_STATUS_PERMITTED 0x10).hw
    fon h F_MODE_STATUS_IN_TRANSITION = true ∧ fon h F_MODE_STATUS_WAIT_SUPPLY = false ∧ fget h F_MODE_STATUS_TARGET = 4 ∧ permitted h 4 = true ∧
      h.mod.stopping = false ∧ fon h F_MODE_STATUS_QUEUED_VALID = false := by decide
theorem witness_thermal_exit : let h := (State.reset.upd fun h => { h with sup := { h.sup with trip := true, junctionMc := 84999 } }).hw
    h.sup.trip = true ∧ h.sup.junctionMc < 85000 := by decide
theorem witness_firmware : let h := (inMode 0 fun h =>
      { h with
        sup := { h.sup with powerGood := true, trip := false },
        mod := { h.mod with fwVerified := false, warmReset := false },
        boot := { h.boot with kydRunning := none } }).hw
    h.sup.powerGood = true ∧ modeNow h = 0 ∧ h.mod.fwVerified = false ∧ h.boot.kydRunning = none ∧ h.mod.warmReset = false ∧ h.sup.trip = false := by decide
theorem witness_gate_reset : (gateOf (inMode 3).hw 63).insert = none ∧ (gateOf (inMode 3).hw 63).mtWait = [] ∧ served (inMode 3).hw .kydin R_GATE_STATUS = true ∧
    seqHeld (inMode 3).hw 63 = false := by decide
/-- CrossingClockCountsAndLosesLock: the first edge of a locked clock. -/
theorem witness_edge : let h := (inMode 4 fun h => fset h F_TIMING_STATUS_LOCKED 1).hw
    fon h F_TIMING_STATUS_LOCKED = true ∧ h.ave.waiting = [] ∧ h.tim.edges = [] ∧ h.tim.errTurn = false ∧
      spanWithin { h with tim := { h.tim with edges := [0] } } 100 ≠ some false := by decide
theorem witness_uplink : let h := (inMode 4 fun h => setLane (fset (fset (withPart h) F_GATE_CONFIG_PERSONALITY 1 0) F_LANE_STATUS_STATE 1 0 0) 0 0 { laneOf h 0 0 with goodRun := 63 }).hw
    gateInUse h 0 = true ∧ laneState h 0 0 = 1 ∧ (laneOf h 0 0).goodRun = 63 ∧ boulevard h 0 = false := by decide
theorem witness_downlink : let h := (inMode 4 fun h => { (fset (fset (withPart h) F_LANE_STATUS_STATE 1 0 0) F_GATE_CONFIG_PERSONALITY 1 0) with sup := { h.sup with inserted := true, lostBoth := false } }).hw
    laneState h 0 0 ≠ 0 ∧ boulevard h 0 = false ∧ gateSends h 0 = true := by decide
theorem witness_training : let h := (inMode 4 fun h => fset h F_LANE_STATUS_STATE 2 63 15).hw
    laneState h 63 15 = 2 ∧ boulevard h 63 = false := by decide
theorem witness_takeover : accepts (inMode 4) .kydin R_GATE_CTRL 0 0 ∧ (gateOf (inMode 4).hw 0).takeover = none := ⟨⟨by decide, by decide⟩, by decide⟩
theorem witness_match_table : accepts (inMode 4) .kydin R_AVE_MT_CMD 63 0 ∧ ownerInReset (inMode 4).hw 63 = false ∧ mtReady (inMode 4).hw 63 = true :=
  ⟨⟨by decide, by decide⟩, by decide, by decide⟩
theorem witness_commit : accepts (inMode 4) .kydin R_AVE_COMMIT 0 0 ∧ fon (inMode 4).hw F_AVE_STATUS_CFG_FROZEN = false ∧
    fon (inMode 4).hw F_AVE_STATUS_COMMIT_PENDING = false := ⟨⟨by decide, by decide⟩, by decide, by decide⟩
/-- TermsFireAsTheirSetsSay: the words of a term are 64 bits wide. -/
theorem witness_term : ∀ w, w < 4 → aget State.reset.hw 2 F_AVE_TERM_TRUE_INPUTS (4 * 127 + w) < 2 ^ 64 ∧ aget State.reset.hw 2 F_AVE_TERM_NEG_INPUTS (4 * 127 + w) < 2 ^ 64 := by
  decide
theorem witness_acceptance : let h := (inMode 4 fun h => { (fset h F_RBT_STATUS_HELD 0) with ave := { h.ave with accFinal := [{ stamp := {}, tbs := [0], ext := false, marked := false }] } }).hw
    h.ave.accFinal = [⟨{}, [0], false, false⟩] ∧ rbtHeld h = false ∧ ∀ p, p < 8 → fget h F_RBT_PART_EXPECT_GATES 0 p = 0 := by decide
theorem witness_drop : let h := (inMode 4 fun h => setGate h 0 { gateOf h 0 with msgs := [.drop {}] }).hw
    (gateOf h 0).msgs = .drop {} :: [] := by decide
/-- EntriesCloseAndEventsAreEnqueued: an entry at its due tick. -/
theorem witness_timeout : let h := (inMode 4 fun h => { (fset h F_RBT_STATUS_HELD 0) with rbt := { h.rbt with entries := [{ part := 0, stamp := {}, evseq := 3, expect := 1, openTime := 0, due := 0 }] } }).hw
    (entryOf h 0 3).isSome = true ∧ rbtHeld h = false ∧ ∀ e, entryOf h 0 3 = some e → e.closed = none ∧ e.due ≤ h.rbt.tick := by
  refine ⟨by decide, by decide, fun e he => ?_⟩
  cases he
  decide
theorem witness_tick : rbtHeld (inMode 4 fun h => fset h F_RBT_STATUS_HELD 0).hw = false := by decide
theorem witness_port : accepts (inMode 4) .kydin R_RBT_PORT_CMD 7 63 := ⟨by decide, by decide⟩
theorem witness_beat : (zeros 16).length = 16 := by decide
/-- QuarterAccessesObeyRegionsAndReturnWhatWasWritten: a core of no partition reads the last line of a quarter. -/
theorem witness_region : regionAllows State.reset.hw (reqAsker State.reset.hw (.agent 0 false)) 23 (quarterBytes State.reset.hw - 1) = false := by decide
theorem witness_resilver : accepts (inMode 4) .kydin R_QMC_CTRL 23 0 ∧ qState (inMode 4 fun h => fset h F_QMC_STATUS_STATE 1 23).hw 23 = qMarked :=
  ⟨⟨by decide, by decide⟩, by decide⟩
theorem witness_submit : accepts (inMode 4) .kydin R_ENG_QP_SUBMIT 23 63 ∧ fon (inMode 4).hw F_ENG_STATUS_RESETTING 23 = false := ⟨⟨by decide, by decide⟩, by decide⟩
theorem witness_engine : let h := (inMode 4 fun h => fset h F_ENG_STATUS_HELD 0 23).hw
    engineRuns h 23 = true ∧ fon h F_ENG_STATUS_LOADING 23 = false ∧ (engineOf h 23).loadWait = none := by decide
theorem witness_small_core : smallRuns (inMode 4).hw 68 = true := by decide
/-- CoresStartResetAndWake: an owned core that is OFF. -/
theorem witness_start : let s := inMode 4 withPart
    accepts s .kydin R_CORE_CMD 159 0 ∧ fget s.hw F_CORE_STATUS_STATE 159 = 0 ∧ (ownerCore s.hw 159).isSome = true := ⟨⟨by decide, by decide⟩, by decide, by decide⟩
/-- The statements on instructions: core 0 runs with no interrupt pending, in M-mode with no translation. -/
def running : State := inMode 4 fun h =>
  let h := fset (fset (withPart h) F_PART_STATUS_STATE 1 0 0) F_CORE_STATUS_STATE 1 0
  fset (fset (fset (fset h F_QMC_RGN_EN 1 0 0) F_QMC_RGN_PART 0 0 0) F_QMC_RGN_LIMIT 15 0 0) F_STR_STATUS_PWR 0 0
theorem witness_core_runs : coreRuns running.hw 0 = true ∧ securePending running.hw 0 = false ∧ takenInterrupt running.hw 0 = none := by decide +kernel
/-- Core 0 of `running` with the word `w` at its pc, in DRAM at address 0. -/
def runningAt (w : Nat) (f : Hw → Hw := id) : State :=
  let s := running.upd fun h =>
    f (fset (fset (fset (fset h F_MEM_PART_MEMBERS 1 0 0) F_MEM_PART_INTERLEAVE 2 0 0) F_MEM_PART_SIZE_256M 16 0 0) F_MEM_MEMBER_SIZE_256M 16 0 0)
  { s with mem := s.mem.applyAll [.put (dkey 0 0) ((leBytes 4 w).map some) false [] false []] }

/-- Core 0 executes the word `w`, as `p` sees the instruction begin. -/
def begins (s : State) (w : Nat) (p : CoreRun → Bool) : Bool :=
  let pc := (coreOf s.hw 0).pc.toNat
  let len := if isComp w then 2 else 4
  coreRuns s.hw 0 && !securePending s.hw 0 && (takenInterrupt s.hw 0).isNone &&
    match (checkFetch pc w).run
        { core := 0, hw := s.hw, mem := s.mem, word := if isComp w then w % 65536 else w, pc := pc, next := (pc + len) % 2 ^ 64 } with
    | .ok true r => p r
    | _ => false

theorem executes_of_begins {s : State} {w : Nat} {p : CoreRun → Bool} (h : begins s w p = true) : ∃ r, executes s 0 w r ∧ p r = true := by
  simp only [begins, Bool.and_eq_true, Bool.not_eq_true', Option.isNone_iff_eq_none] at h
  obtain ⟨⟨⟨h1, h2⟩, h3⟩, h4⟩ := h
  split at h4
  · next r hr => exact ⟨r, ⟨h1, h2, h3, hr⟩, h4⟩
  · cases h4

/-- An instruction begins on core 0 in M-mode, with no device store before it. -/
theorem witness_executes : ∃ r, executes (runningAt 0x00C58533) 0 0x00C58533 r ∧ (privOf r.hw 0 == 3 && r.devs.isEmpty) = true :=
  executes_of_begins (by decide +kernel)

/-- RoundaboutAnswersACore: XR.GET, in M-mode, to a destination that is checked, with no item to take. -/
theorem witness_xr_get : ∃ r, executes (runningAt (encR 0x2B 0 0 10 11 0)) 0 (encR 0x2B 0 0 10 11 0) r ∧
    (match viaData.run r with
      | .ok via _ => match (mapRange via .store (xreg r.hw 0 11) 32).run { r with events := r.events ++ [0x11] } with
        | .ok ps r1 => !ps.any (refusesStore r1) && r1.devs.isEmpty &&
            (getItem r1.hw (roundWho r1).1 0 (fget r1.hw F_RBT_CORE_SUB_GROUPS 0 0) (roundWho r1).2 false).2.2.isNone
        | _ => false
      | _ => false) = true := executes_of_begins (by decide +kernel)
theorem witness_xr_add : ∃ r, executes (runningAt (encR 0x2B 1 0 10 11 12)) 0 (encR 0x2B 1 0 10 11 12) r ∧
    (match viaData.run r with
      | .ok via _ => match (loadBytes via (xreg r.hw 0 11) 32).run { r with events := r.events ++ [0x11] } with
        | .ok d r1 => d.length == 32 && r1.devs.isEmpty
        | _ => false
      | _ => false) = true := executes_of_begins (by decide +kernel)
theorem witness_xr_done : ∃ r, executes (runningAt (encR 0x2B 2 0 10 11 12)) 0 (encR 0x2B 2 0 10 11 12) r ∧
    (privOf r.hw 0 == 3 && !virtOf r.hw 0 && r.devs.isEmpty) = true := executes_of_begins (by decide +kernel)

/-- WorldsAreEnteredAndLeft: WCALL in the normal world of a partition with a secure image, WRET in the secure world, and WGATE and WMARK with
COMPAT5 set. -/
theorem witness_wcall : ∃ r, executes (runningAt 0x5B fun h => fset h F_PART_STATUS_SECURE_IMAGE 1 0 0) 0 0x5B r ∧
    (privOf r.hw 0 == 3 && !virtOf r.hw 0 && !worldOf r.hw 0 && ownerCore r.hw 0 == some 0 && hasSecure r.hw 0 && r.devs.isEmpty) = true :=
  executes_of_begins (by decide +kernel)
theorem witness_wret : ∃ r, executes (runningAt 0x0200005B fun h => fset (fset h F_PART_STATUS_SECURE_IMAGE 1 0 0) F_CORE_STATUS_WORLD 1 0) 0 0x0200005B r ∧
    (privOf r.hw 0 == 3 && !virtOf r.hw 0 && worldOf r.hw 0 && csrGet r.hw 0 0x7C0 % 4 != 1 && r.devs.isEmpty) = true :=
  executes_of_begins (by decide +kernel)
theorem witness_wmark : ∃ r, executes (runningAt 0x205B fun h => setCore h 0 { coreOf h 0 with csr := tset 0 (coreOf h 0).csr 0x7C2 4 }) 0 0x205B r ∧
    (bit (csrGet r.hw 0 0x7C2) 2 && !worldOf r.hw 0 && r.devs.isEmpty) = true := executes_of_begins (by decide +kernel)
theorem witness_wgate : ∃ r, executes (runningAt (encR 0x5B 1 0 0 11 0) fun h => setCore h 0 { coreOf h 0 with csr := tset 0 (coreOf h 0).csr 0x7C2 4 }) 0
      (encR 0x5B 1 0 0 11 0) r ∧
    (bit (csrGet r.hw 0 0x7C2) 2 && !worldOf r.hw 0 && !virtOf r.hw 0 && privOf r.hw 0 == 3 && decide (csrGet r.hw 0 0x7C8 % 1024 ≤ xreg r.hw 0 11)) = true :=
  executes_of_begins (by decide +kernel)
theorem witness_no_copy : coreLine State.reset.hw 159 (2 ^ 46 - 1) = none ∧ transOf State.reset.hw 0 = none := by decide
theorem witness_snoop : let h := (State.reset.upd fun h => { h with hom := { h.hom with trans := [(5, some { req := .readShared, core := 0, waiting := [1, 2] })] } }).hw
    transOf h 5 = some { req := .readShared, core := 0, waiting := [1, 2] } ∧ drop1 [1, 2] 1 ≠ [] := by decide
theorem witness_slice : accepts (inMode 4) .kydin R_LLC_CMD 159 0 := ⟨by decide, by decide⟩
theorem witness_route : isRouter 6 = true ∧ isRouter 154 = true ∧ linked 6 0 = true := by decide
theorem witness_flit : let h := (inMode 3).hw
    isRouter 6 = true ∧ gridPowered h = true ∧ fget h F_STR_LINK_DOWN 6 0 ≠ 1 ∧ noCredit h 6 0 { side := 0, payload := 0 } = false := by decide
theorem witness_square : isRouter 17 = true ∧ served (inMode 3).hw .kydin R_STR_CMD = true := by decide
theorem witness_power_request : accepts (inMode 3) .kydin R_PART_PWR_REQ 0 7 ∧ ownsUnit (inMode 3 withPart).hw 0 1 79 = true := ⟨⟨by decide, by decide⟩, by decide⟩
theorem witness_trusted : accepts (inMode 3) (.part 7 false) R_TS_PORT 0 14 ∧ tsBlock (inMode 3).hw 14 = none ∧
    tsRuns (inMode 3 fun h => { h with boot := { h.boot with fw := [(3, [])] } }).hw = true := ⟨⟨by decide, by decide⟩, by decide, by decide⟩
theorem witness_window : accepts (inMode 3) .kydin R_HOSTFN_WIN_COMMIT 255 0 ∧ ∀ w, w < 8 → fget (inMode 3).hw F_HOSTFN_WIN_MAP_EN 255 w ≠ 1 :=
  ⟨⟨by decide, by decide⟩, by decide⟩
theorem witness_function : let h := (inMode 3 fun h => setPart (fset h F_HOSTFN_STATUS_MSE 1 7) 7 { present := true }).hw
    fnPresent h 7 = true ∧ barSize h 7 false ≠ 0 ∧ fget h F_HOSTFN_STATUS_MSE 7 = 1 ∧ fget h F_HOSTFN_STATUS_D3 7 ≠ 1 ∧ fget h F_HOSTFN_STATUS_FLR 7 ≠ 1 := by decide
theorem witness_handoff : let h := (inMode 3 fun h => setFn (fset h F_HOSTFN_STATUS_BME 1 0) 0 { fnOf h 0 with hof := [{ flow := 0, seq := 0, item := [] }] }).hw
    (fnOf h 0).hof ≠ [] ∧ (fnOf h 0).hofSent = false ∧ fnPresent h 0 = true ∧ fget h F_HOSTFN_STATUS_BME 0 = 1 ∧ fget h F_HOSTFN_STATUS_D3 0 ≠ 1 := by decide
theorem witness_read_issue : let r : HostRead := { fn := 255, addr := 0, len := 4, acc := 1, total := 4 }
    let h := (inMode 3 fun h => setPart (fset (setFn h 255 { fnOf h 255 with readWait := [r] }) F_HOSTFN_STATUS_BME 1 255) 7 { present := true }).hw
    (fnOf h 255).readWait = [r] ∧ fget h F_HOSTFN_STATUS_BME 255 = 1 ∧ fget h F_HOSTFN_STATUS_D3 255 ≠ 1 ∧ partReads h (partOfFn 255) = 0 := by decide
theorem witness_answer : let r : HostRead := { fn := 0, addr := 0, len := 4, tag := 1023, acc := 1, total := 4 }
    let h := (inMode 3 fun h => { h with host := { h.host with reads := [r] } }).hw
    h.host.reads.find? (·.tag == 1023) = some r ∧ r.acc ≠ 0 ∧ (h.host.reads.filter (·.tag ≠ 1023)) ++ (fnOf h 0).readWait = [] := by decide
theorem witness_link : fget (inMode 3 fun h => fset h F_HOST_LINK_STATUS_PERST 0).hw F_HOST_LINK_STATUS_PERST ≠ 1 ∧
    linkTrains (inMode 3).hw 16 3 = true ∧ linkTrains (inMode 3).hw 3 3 = false := by decide
theorem witness_slot_group : let p : BPacket := { start := 0, units := [0], seq := 0 }
    packetFits {} p = true ∧ packetFits { sinceAlign := 4094 } p = false ∧ nextPacket {} [] [] [p] = some (p, []) := by decide +kernel
theorem witness_bundle : let h := (inMode 3 fun h => (List.range 4).foldl (fun h j => fset h F_LANE_STATUS_STATE 4 0 j) (fset h F_GATE_CONFIG_PERSONALITY 2 0)).hw
    fget h F_BLVD_BUNDLE_STATE 0 0 < 2 ∧ fget h F_GATE_CONFIG_PERSONALITY 0 = 2 ∧ ∀ j, j < 4 → 2 ≤ laneState h 0 (4 * 0 + j) ∧ laneState h 0 (4 * 0 + j) ≤ 4 := by decide
theorem witness_remote : let h := (inMode 3 fun h => fset (fset h F_BLVD_BUNDLE_STATE 3 63 3) F_BLVD_CFG_MGMT_EN 1).hw
    fget h F_BLVD_BUNDLE_STATE 63 3 = 3 ∧ fget h F_BLVD_CFG_MGMT_EN = 1 := by decide
theorem witness_source : served (inMode 3).hw .kydin R_INT_SRC_STATE = true := by decide
/-- The statements on mailbox requests: Kydin takes up an SMBus request. -/
theorem witness_mailbox : let s := inMode 2 fun h => { h with sup := { h.sup with lostBoth := false }, mod := { h.mod with fwVerified := true } }
    takesUp s (.smbus 7) s.hw ∧ s.hw.mod.fwVerified = true := ⟨⟨by decide, by decide, by decide, by decide, rfl⟩, by decide⟩
theorem witness_slot : targetRuns (State.reset.upd fun h => { h with boot := { h.boot with imgRunning := some false } }).hw 3 = false := by decide
/-- RegisterWritesFollowTheirAccessTypes: an ordinary register of the quarters. -/
theorem witness_register : (regAccess (inMode 3).hw .kydin 0xF000000000 8).isSome = true := by decide +kernel

/-- InputsStretchAndVerdictsDrive: an input whose stretch still runs, and a trigger cycle whose verdict is due. -/
theorem witness_stretch : let h := (inMode 4 fun h =>
      { (fset h F_AVE_STATUS_RUNNING 1) with ave := { h.ave with cp0 := { inputs := [(255, { on := true, last := 9 })] } } }).hw
    fon h F_AVE_STATUS_RUNNING = true ∧ (∀ c, c < 3 → (copyOf h c).flight = []) ∧ (copyOf h 0).inputs.Pairwise (fun a b => a.1 < b.1) ∧
      (tget {} (copyOf h 0).inputs 255).on = true ∧ h.now / 64 ≤ (tget {} (copyOf h 0).inputs 255).last := by decide
theorem witness_verdict : let q : QualWait := { due := 0, fired := true, unproved := [], disagreed := false, accepted := [(15, {})] }
    let cp : AveCopy := { quals := [q] }
    let h := (inMode 4 fun h => { (fset h F_AVE_STATUS_RUNNING 1) with ave := { h.ave with cp0 := cp, cp1 := cp, cp2 := cp } }).hw
    fon h F_AVE_STATUS_RUNNING = true ∧ (∀ c, c < 3 → (copyOf h c).quals = [q]) ∧ max h.now ((64 * q.due + 4) / 5) / 64 = h.now / 64 := by decide
theorem witness_out_width : let h := (inMode 4 fun h => { h with ave := { h.ave with cp2 := { pulse := [(16, 1)] } } }).hw
    bit (copyOf h 2).raw 16 = false ∧ level h 2 16 0 = true := by decide
/-- GetWorkChoosesByGroupThenAffinityThenAge: an item that can be delivered. -/
theorem witness_deliverable : let i : Item := { arg0 := 1, arg1 := 2, arg2 := 3, seq := 0, kind := 0, flags := 0, user := 0 }
    deliverable (flowSet (setFlow (inMode 4).hw 4095 { flowOf (inMode 4).hw 4095 with items := [i] }) F_RBT_FLOW_CFG_EN 4095 1) 4095 = some i := by decide
/-- MarksAndRetrainingMoveTheQuarter: a quarter without marks, neither retraining nor catching up. -/
theorem witness_mark : let h := (inMode 4).hw
    fon h F_QMC_STATUS_RETRAINING 23 = false ∧ fon h F_QMC_STATUS_CATCHUP 23 = false ∧ mark1 h 23 = none ∧ mark2 h 23 = none ∧ qState h 23 < 5 ∧
      mayRetrain h 23 9 = true ∧ h.ave.waiting = [] := by decide
/-- JobsStartInOrderAndEndWithARecord: a queued job whose abort was accepted. -/
theorem witness_abort : let j : Job := { handle := 7, qp := 0, seq := 0, desc := [], ending := some (3, 0) }
    let h := setEngine (inMode 4).hw 23 { engineOf (inMode 4).hw 23 with jobs := [j] }
    jobAt h 23 7 = some j ∧ j.ending = some (3, 0) ∧ engineRuns h 23 = true ∧ j.st = .queued := by decide
/-- ExchangesBindDeliverAndBreak: a running job receives from one sender with credit. -/
theorem witness_exchange : let f : ExFlit := { src := 0, dst := 23, ch := 7, target := 7, source := 9, srcCh := 5, lanes := [], fin := true, broken := false }
    let x : ExSender := { engine := 0, handle := 9, ch := 5, credit := 1 }
    let c : RecvCh := { ch := 7, group := 0, peers := 1, share := 1, width := 1, senders := [x] }
    let j : Job := { handle := 7, qp := 0, seq := 0, st := .running, desc := [], recv := [c] }
    let h := setEngine (setEngine (inMode 4).hw 23 { engineOf (inMode 4).hw 23 with jobs := [j] }) 0 { engineOf (inMode 4).hw 0 with out := [f] }
    (engineOf h 0).out = [f] ∧ f.dst = 23 ∧ f.back = false ∧ engineRuns h 23 = true ∧ jobAt h 23 f.target = some j ∧ j.handle = f.target ∧ j.recv = [c] ∧
      c.senders = [x] ∧ sentBy f x = true ∧ 1 ≤ x.credit ∧ f.lanes.length % c.width = 0 := by decide
/-- OffersAccessesAndMaintenanceActOnLines: two offers of other lines stand before one of line 3. -/
theorem witness_offer : let o : PfOffer := { line := 3, quarter := 0, qline := 3, data := zeros 64, poison := false }
    let h := { (inMode 4).hw with hom := { (inMode 4).hw.hom with offers := [{ o with line := 1 }, { o with line := 2 }] ++ o :: [] } }
    h.hom.offers = [{ o with line := 1 }, { o with line := 2 }] ++ o :: [] ∧ (∀ x ∈ [{ o with line := 1 }, { o with line := 2 }], x.line ≠ 3) ∧ o.stale = false := by decide
/-- PowerRequestsWindowsAndQuotas, WaysOfASliceChangeMode, MarksAndRetrainingMoveTheQuarter: no gate cycle changes anything at the start of
a window, one partition owns gate 63, and the ways of a slice counted in another window. -/
theorem witness_quiet : let h := { setPart State.reset.hw 7 { present := true, gates := 2 ^ 63 } with now := 102400 }
    let h := { h with ave := { h.ave with matchHist := [false, false] }, hom := { h.hom with wayWin := [(159, 1)] } }
    aveQuiet h = true ∧ h.now % 102400 = 0 ∧ h.par.windowAt ≠ h.now / 102400 ∧ bit (partOf h 7).gates 63 = true ∧ (partOf h 6).gates = 0 ∧
      tget 0 h.hom.wayWin 159 ≠ h.now / wayWindow h 159 := by decide
/-- InterruptsCountCommitDeliverAndClaim: a pending source with TIME set, whose time is still to come. -/
theorem witness_coalesce : let h := raiseSource (fset State.reset.hw F_INT_SRC_CFG_TIME 65535 0 2063) 2063
    fon h F_INT_SRC_STATE_PENDING 0 2063 = true ∧ fget h F_INT_SRC_CFG_TIME 0 2063 ≠ 0 ∧ h.now < coalesceEnd h 2063 := by decide
/-- A completion lets a request for a line of another home start. -/
theorem witness_held_request : let t0 : Trans := { req := .readShared, core := 0, waiting := [], done := true }
    let h := (inMode 4 fun h => { h with hom := { h.hom with trans := [(5, some t0)], waiting := [{ line := 0x380000000, req := .readUnique, core := 0 }] } }).hw
    transOf h 5 = some t0 ∧ t0.done = true ∧ h.hom.waiting = [{ line := 0x380000000, req := .readUnique, core := 0 }] ∧ startable (setTrans h 5 none) 0x380000000 = true := by decide
/-- A slot with an image of 0x140 bytes: its header, one record without a body, and the trailer at 0x110 (R106, R107, R110). -/
def oneRecord : Slot := { bytes := (List.range 0x140).map fun a => (a, if a = 8 then 0x40 else if a = 0x28 then 0x10 else if a = 9 ∨ a = 0x29 then 1 else 0) }

/-- StartupStepsRunInOrder: each step in its turn, every gate ready, and a slot whose image has one record. -/
theorem witness_startup_steps :
    (∀ n, n < 7 → startupAt (inMode 2 fun h => { h with mod := { h.mod with stepsDone := n, warmReset := false } }).hw n = true) ∧
      gatesReady (inMode 2).hw = true := by decide
theorem witness_image_application : let h := (inMode 2 fun h =>
      { h with
        sup := { h.sup with voltOk := 2 ^ 7 },
        mod := { h.mod with stepsDone := 4, warmReset := false },
        boot := { h.boot with imgRunning := some true, imgB := oneRecord } }).hw
    startupAt h 4 = true ∧ h.boot.imgRunning = some true ∧ bit h.sup.voltOk 7 = true ∧
      ((imgRecs (slotImage (imgSlot h true) imageSlotSize)).map List.length) = some 1 := by decide +kernel

/-- PairedGatesTakeOverAndRelease: gate 0 may take over for gate 1, has taken over and may give back, and waits for the ACKs of either. -/
theorem witness_takeover_allowed :
    let s := inMode 4 fun h => setPart (setGate (fset (fset (fset h F_GATE_CONFIG_PERSONALITY 1 0) F_GATE_CONFIG_PERSONALITY 1 1) F_GATE_CONFIG_TAKEOVER_EN 1 0)
      1 { gateOf h 1 with retired := true }) 0 { present := true, gates := 3 }
    accepts s .kydin R_GATE_CTRL 0 0 ∧ (gateOf s.hw 0).takeover = none ∧ (gateOf s.hw 0).release = none ∧ (gateOf s.hw (partner 0)).retired = true ∧
      ownerGate s.hw 0 = some 0 ∧ ownerGate s.hw (partner 0) = some 0 ∧ fget s.hw F_GATE_CONFIG_PERSONALITY 0 = 1 ∧
      fget s.hw F_GATE_CONFIG_PERSONALITY (partner 0) = 1 ∧ fon s.hw F_GATE_CONFIG_TAKEOVER_EN 0 = true ∧ fget s.hw F_GATE_STATUS_TAKEOVER 0 = 0 ∧
      fget s.hw F_GATE_STATUS_TAKEOVER (partner 0) = 0 := ⟨⟨by decide, by decide⟩, by decide⟩
theorem witness_takeover_complete : let h := (inMode 4 fun h =>
      setGate (setGate h 0 { gateOf h 0 with takeover := some (1, 0x8000), halfRate := (9, 1) }) 1 { gateOf h 1 with retired := true, halfRate := (9, 0x8000) }).hw
    (gateOf h 0).takeover = some (1, 0x8000) ∧ (gateOf h 0).halfRate.2 = 1 ∧ (gateOf h (partner 0)).halfRate.2 = 0x8000 := by decide
theorem witness_release : let s := inMode 4 fun h => fset h F_GATE_STATUS_TAKEOVER 1 63
    let u := s.upd fun h => fset (fset h F_LANE_CONFIG_IN_USE 1 63 15) F_LANE_STATUS_STATE 3 63 15
    accepts s .kydin R_GATE_CTRL 63 0 ∧ (gateOf s.hw 63).release = none ∧ fget s.hw F_GATE_STATUS_TAKEOVER 63 = 1 ∧
      (gateOf s.hw (partner 63)).retired = false ∧ lanesWhere s.hw 63 (laneUp s.hw 63) = 0 ∧ lanesWhere s.hw (partner 63) (laneUp s.hw (partner 63)) = 0 ∧
      lanesWhere u.hw 63 (laneUp u.hw 63) = 2 ^ 15 := ⟨⟨by decide, by decide⟩, by decide⟩
theorem witness_release_end : let h := (inMode 4 fun h =>
      setGate (setGate h 0 { gateOf h 0 with release := some (1, 2), halfRate := (9, 1), ctrlRun := some 16 }) 1 { gateOf h 1 with halfRate := (9, 0) }).hw
    (gateOf h 0).release = some (1, 2) ∧ (gateOf h 0).dlLane = none ∧ halfRateDue h 0 = false ∧ (gateOf h 0).halfRate.2 < 2 ^ 16 ∧
      (gateOf h (partner 0)).halfRate.2 < 2 ^ 16 ∧ (gateOf h 0).ctrlRun = some 16 := by decide

/-- RequestsOpenTransactionsAtTheHome: a line whose home is core 0's, an open transaction of core 3 that started in this mesh cycle and asks core 5,
and the same from an earlier cycle with a request of this cycle behind it. -/
def opened (slot : Nat) (w : List Waiter) : Hw :=
  let h := (runningAt 0).hw
  { h with hom := { h.hom with
      trans := [(1, some { req := .readShared, core := 3, waiting := [5], asked := 1, slot := slot })], waiting := w, filter := [(1, { cores := [5] })] } }
theorem witness_request : let h := opened 0 []
    (homeLine h 1).isSome = true ∧ allocates h 0 = true ∧ (mayReach h (askerOf h (.core 0)) 64 true).1 = true ∧ coreLine h 0 1 = none ∧
      (transOf h 1).map (·.slot) = some (meshSlot h) ∧ (filterOf h 1).map (·.cores) = some [5] ∧ creditsOf h ((homeLine h 1).getD 0) < 32 := by
  decide +kernel
theorem witness_request_behind : let x : Waiter := { line := 1, req := .upgrade, core := 4, slot := 0 }
    let h := opened 7 [x]
    (homeLine h 1).isSome = true ∧ coreLine h 0 1 = none ∧ (transOf h 1).map (·.slot) ≠ some (meshSlot h) ∧ h.hom.waiting = [x] ∧ x.slot = meshSlot h := by
  decide +kernel

/-- OffersAccessesAndMaintenanceActOnLines: a maintenance command of one line that its core may write, with and without an open transaction there. -/
theorem witness_maintenance : let s := (runningAt 0).upd fun h => fset h F_CM_ADDR_ADDR 1 0
    let h := { (opened 7 []) with regs := s.hw.regs }
    accepts s .kydin R_CM_CMD 0 0 ∧ fget s.hw F_CM_LEN_LINES 0 ≤ 1 ∧ maintOf s.hw 0 = none ∧ s.hw.hom.waiting = [] ∧ s.hw.sup.powerFail = false ∧
      transOf s.hw 1 = none ∧ placeOf s.hw 64 = .dram 0 0 64 ∧ (transOf h 1).isSome = true :=
  ⟨⟨by decide +kernel, by decide +kernel⟩, by decide +kernel⟩

/-- FlitsTakeTheirRoute: a packet of one flit of core 0, eastward; the next square sleeps or drains; and the next router is fenced. -/
theorem witness_packet : let f := flitOf 0x112111C 0
    let h := (inMode 3).hw
    let u := { fset h F_STR_STATUS_PWR 1 (routerOf 1) with grid := { h.grid with sleepLevel := [(1, 2)] } }
    isRouter 17 = true ∧ gridPowered h = true ∧ flKind f = 3 ∧ inputShut h 17 5 f = false ∧ noCredit h 17 5 f = false ∧ headOut h 17 f = 0 ∧
      tget 0 h.grid.worm (wormKey 17 (outChan 17 0 f) 0) = 0 ∧ hasRoom h 17 0 f = true ∧ sleepingAhead h 17 0 f = none ∧
      sleepingAhead u 17 0 f = some 1 ∧ pwrOf u 1 = pwrDraining ∧
      18 ∈ routeFrom 32 17 (flDx f) (flDy f) := by decide
/-- FlitsTakeTheirRoute: a record of router 17 at H3, whatever number a record's OPC has. -/
theorem witness_record : isRecord 17
    { r := 139, out := 5, buf := 5, flit := { side := BitVec.ofNat 56 (0x11F + Config.traceOp.toNat * 2 ^ 38), payload := 0 } } = true := by
  unfold isRecord
  generalize Config.traceOp = op
  revert op
  decide
/-- SquaresSleepWakeAndFence: a fence of a router that waits for no packet, no command and no retirement. -/
theorem witness_fence : let h := (inMode 3 fun h => { h with grid := { h.grid with fence := some (routerOf 79, 7) } }).hw
    h.grid.fence = some (routerOf 79, 7) ∧ squareOf (routerOf 79) = some 79 ∧ routerOf 79 < 160 ∧ h.grid.held = [] ∧ h.grid.cmdWait = [] ∧ h.kyd.retireRun = none := by
  decide
/-- RegisterWritesFollowTheirAccessTypes: Kydin changes ROUTER_SLEEP of a square that is on. -/
theorem witness_router_sleep : let s := inMode 3
    (squareOf (routerOf 0)).isSome = true ∧ rwlLocked s.hw R_STR_CFG (routerOf 0) 0 = false ∧ gridPowered s.hw = true ∧ s.hw.grid.fence = none ∧
      asleep s.hw (routerOf 0) = false ∧ fget s.hw F_STR_CFG_ROUTER_SLEEP (routerOf 0) = 0 := by decide

end Sys2Proof.Tests
end

/-!
Fields: a field reads as it was last set, whatever the reader's default.
-/

namespace Sys2Proof.Proofs
open Sys2Proof Sys2Proof.Machine

/-- What a reader with a default of its own finds at the key written last, whatever the table held. -/
theorem tget_tset_same_default {α : Type} [DecidableEq α] (d d' : α) (t : Tab α) (k : Nat) (v : α) :
    tget d' (tset d t k v) k = if v = d then d' else v := by
  unfold tset
  split
  · exact tget_tdel_same d' t k
  · exact tget_tins_same d' t k v

/-- Below 65,536 the key of a field tells its instances and elements apart. -/
theorem key_ne_of_place (f : Field) {i j i' j' : Nat} (hi : i < 65536) (hj : j < 65536) (hi' : i' < 65536) (hj' : j' < 65536)
    (hne : (i, j) ≠ (i', j')) : f.key i j ≠ f.key i' j' := by
  intro hk
  simp only [Field.key, Nat.mod_eq_of_lt, hi, hj, hi', hj'] at hk
  exact hne (by rw [Prod.mk.injEq]; omega)

/-- Of two settings of one field the second alone is left. -/
theorem fget_fset_fset (h : Hw) (f g : Field) (v w i j i' j' : Nat) :
    fget (fset (fset h f v i j) f w i j) g i' j' = fget (fset h f w i j) g i' j' := by
  by_cases hk : f.key i j = g.key i' j'
  · simp only [fget, fset, ← hk, tget_tset_same_default]
  · simp only [fget_fset_ne _ _ _ _ _ _ _ _ hk]

/-- Settles O5: the file of fields is a table, and different fields and places have different keys. -/
theorem fieldsReadAsTheyWereSet : Obligations.FieldsReadAsTheyWereSet := by
  unfold Obligations.FieldsReadAsTheyWereSet
  refine ⟨fget_fset_same, fget_fset_id, ?_, fget_fset_fset⟩
  intro h f v i j i' j' hi hj hi' hj' hne
  exact fget_fset_ne h f f v i j i' j' (key_ne_of_place f hi hj hi' hj' hne)

end Sys2Proof.Proofs


/-!
Power-fail: its record can coalesce with an older one.
-/

namespace Sys2Proof.Proofs
open Sys2Proof Sys2Proof.Machine

/-- Input A is selected and in surge, B is not valid, and the ring holds a power-fail record of less than a second ago below a newer
record of class 3. -/
def surgeAfterPowerFailRecord : State :=
  { hw := { sup := { lostBoth := false, selected := some .a, pinA := { valid := true, surge := true } },
            kyd := { ring := [{ cls := 3, block := blkKydin, inst := 0, code := 0, seq := 1 },
                              { cls := 4, block := blkSupply, inst := 0, code := 0xFF03, seq := 0 }] } },
    mem := {}, pending := [] }

/-- The power-fail sequence starts there, and its record coalesces with the older one (R550): the newest record is still the other. -/
theorem powerFail_record_coalesces_below_newest :
    (powerFail surgeAfterPowerFailRecord.hw).hw.kyd.ring.head?.map (·.cls) = some 3 := by decide

/-- Refutes O7: SURGE_LIMIT_EXPIRY need not leave a record of class 4 as the newest of the ring, since an event of class 4 that repeats
within a second is counted in its older record wherever that stands (R550). -/
theorem not_powerGoodFailAndRegulators : ¬ Obligations.PowerGoodFailAndRegulators := by
  unfold Obligations.PowerGoodFailAndRegulators
  rintro ⟨-, hsurge, -⟩
  obtain ⟨t, hexec, -, -, hring, -⟩ := hsurge .a surgeAfterPowerFailRecord (by decide) (by decide) (by decide) (by decide)
  have ht : t.hw = (powerFail surgeAfterPowerFailRecord.hw).hw := by
    injection hexec with h
    rw [← h]
    rfl
  have hcls := (hring (by decide)).1
  rw [ht, powerFail_record_coalesces_below_newest] at hcls
  exact absurd hcls (by decide)

end Sys2Proof.Proofs


/-!
Function resets: a waiting read ends its access at the function it names.
-/

namespace Sys2Proof.Proofs
open Sys2Proof Sys2Proof.Machine

/-- Function 8 exists and is not quiesced, and among the reads that wait at H0 for it stands one that carries the number of function 9,
of an access of function 9 that waits too. -/
def straySharedAccess : State :=
  { hw := { regs := [(F_HOSTFN_STATUS_PRESENT.key 8 0, 1)],
            host := { fns := [(8, { readWait := [{ fn := 9, addr := 0, len := 0, acc := 1 }] }),
                              (9, { readWait := [{ fn := 9, addr := 0, len := 0, acc := 1 }] })] } },
    mem := {}, pending := [] }

/-- The forced reset of function 8 ends the access of that read, and with it the waiting read of function 9 (R477, R488). -/
theorem resetFn_takes_waiting_read_of_other_function :
    (fnOf (resetFn straySharedAccess.hw 8) 9).readWait = [] ∧ (fnOf straySharedAccess.hw 9).readWait ≠ [] := by decide +kernel

/-- Refutes O53: the FLR of a virtual function that is not quiesced ends the access of every read in the function's waiting list, at the
function which the read itself names; nothing in the statement makes that the same function, so another function can change. -/
theorem not_hostReachesMemoryThroughWindows : ¬ Obligations.HostReachesMemoryThroughWindows := by
  unfold Obligations.HostReachesMemoryThroughWindows
  rintro ⟨-, -, -, -, -, -, -, -, -, -, -, hflr, -⟩
  obtain ⟨t, hexec, -, -, -, -, -, -, -, hother, -⟩ := (hflr 8 straySharedAccess).2 (by decide +kernel)
  have ht : t.hw = resetFn straySharedAccess.hw 8 := by
    injection hexec with h
    rw [← h]
    rfl
  have hkept : fnOf t.hw 9 = fnOf straySharedAccess.hw 9 := (hother (by decide) 9 (by decide) (by decide)).1
  obtain ⟨hgone, hwaits⟩ := resetFn_takes_waiting_read_of_other_function
  rw [← ht, hkept] at hgone
  exact hwaits hgone

end Sys2Proof.Proofs


/-!
What memory accesses, the homes of lines, gate reports and the loss of a partition leave of the mode controller: one relation of two
hardware states, kept by every operation on that way.
-/

namespace Sys2Proof.Proofs
open Sys2Proof Sys2Proof.Machine

/-- The fields that say which mode the module is in, what is held and whether Avenue runs. -/
def modeFields : List Field :=
  [F_MODE_STATUS_MODE, F_MODE_STATUS_IN_TRANSITION, F_MODE_STATUS_QUEUED_VALID, F_MODE_STATUS_LAST_CAUSE, F_MODE_REQUEST_RESULT,
   F_RBT_STATUS_HELD, F_ENG_STATUS_HELD, F_AVE_STATUS_RUNNING, F_AVE_STATUS_COMMIT_PENDING]

/-- Fields with a value that, once taken, stays: a source that is pending, and a partition that is down. -/
def latches : List (Field × Nat) := [(F_INT_SRC_STATE_PENDING, 1), (F_PART_STATUS_STATE, 3)]

/-- The mode controller, Avenue and what is held are the same in both states, and no source ceases to be pending and no partition to
be down. -/
structure Calm (h h' : Hw) : Prop where
  mod : h'.mod = h.mod
  ave : h'.ave = h.ave
  field : ∀ f ∈ modeFields, ∀ i j, fget h' f i j = fget h f i j
  latch : ∀ e ∈ latches, ∀ i j, fget h e.1 i j = e.2 → fget h' e.1 i j = e.2

namespace Calm

/-- The numbers of the fields that the relation speaks of. -/
def ids : List Nat := modeFields.map (·.id) ++ latches.map (·.1.id)

/-- A change outside registers, mode controller and Avenue. -/
theorem of_eq {h h' : Hw} (hr : h'.regs = h.regs) (hm : h'.mod = h.mod) (ha : h'.ave = h.ave) : Calm h h' where
  mod := hm
  ave := ha
  field f _ i j := by unfold fget; rw [hr]
  latch e _ i j he := by unfold fget at *; rw [hr]; exact he

theorem refl (h : Hw) : Calm h h := of_eq rfl rfl rfl

theorem trans {h h' h'' : Hw} (a : Calm h h') (b : Calm h' h'') : Calm h h'' where
  mod := b.mod.trans a.mod
  ave := b.ave.trans a.ave
  field f hf i j := (b.field f hf i j).trans (a.field f hf i j)
  latch e he i j hv := b.latch e he i j (a.latch e he i j hv)

/-- The relation from a state continues over a further change of it. -/
theorem step {h h' h'' : Hw} (b : Calm h' h'') (a : Calm h h') : Calm h h'' := a.trans b

/-- A field of which the relation does not speak is set. -/
theorem fset {f : Field} (hf : f.id ∉ ids) (h : Hw) (v i j : Nat) : Calm h (fset h f v i j) where
  mod := rfl
  ave := rfl
  field g hg i' j' := fget_fset_id h f g v i j i' j' fun he =>
    hf (he ▸ List.mem_append_left _ (List.mem_map_of_mem hg))
  latch e he i' j' hv := by
    rw [fget_fset_id h f e.1 v i j i' j' fun heq => hf (heq ▸ List.mem_append_right _ (List.mem_map_of_mem (f := (·.1.id)) he))]
    exact hv

theorem latch_ne_modeField : ∀ e ∈ latches, ∀ g ∈ modeFields, e.1.id ≠ g.id := by decide
theorem latch_of_id : ∀ e ∈ latches, ∀ e' ∈ latches, e.1.id = e'.1.id → e = e' := by decide
theorem latch_fits : ∀ e ∈ latches, e.2 % 2 ^ e.1.width = e.2 := by decide

/-- A field takes the value that it keeps. -/
theorem fset_latch {e : Field × Nat} (he : e ∈ latches) (h : Hw) (i j : Nat) : Calm h (Machine.fset h e.1 e.2 i j) where
  mod := rfl
  ave := rfl
  field g hg i' j' := fget_fset_id h e.1 g e.2 i j i' j' (latch_ne_modeField e he g hg)
  latch e' he' i' j' hv := by
    by_cases hid : e.1.id = e'.1.id
    · obtain rfl := latch_of_id e he e' he' hid
      by_cases hk : e.1.key i j = e.1.key i' j'
      · simp only [fget, Machine.fset, ← hk, tget_tset_same, latch_fits e he]
      · rw [fget_fset_ne h _ _ _ i j i' j' hk]; exact hv
    · rw [fget_fset_id h _ _ _ i j i' j' hid]; exact hv

theorem foldl {α : Type} {f : Hw → α → Hw} (hf : ∀ h a, Calm h (f h a)) (l : List α) (h : Hw) : Calm h (l.foldl f h) := by
  induction l generalizing h with
  | nil => exact refl h
  | cons a l ih => exact (hf h a).trans (ih _)

theorem ite {h a b : Hw} {c : Prop} [Decidable c] (ha : Calm h a) (hb : Calm h b) : Calm h (if c then a else b) := by
  split
  · exact ha
  · exact hb

theorem fadd {f : Field} (hf : f.id ∉ ids) (h : Hw) (n i j : Nat) : Calm h (fadd h f n i j) := fset hf h _ i j

/-! ### Effects -/

theorem map {h : Hw} {e : Eff} {f : Hw → Hw} (he : Calm h e.hw) (hf : ∀ h, Calm h (f h)) : Calm h (e.map f).hw := he.trans (hf _)

theorem next {h : Hw} {e : Eff} {m : Mem} {f : Hw → Mem → Eff} (he : Calm h e.hw) (hf : ∀ h m, Calm h (f h m).hw) :
    Calm h (e.next m f).hw := he.trans (hf _ _)

theorem effFold {α : Type} {f : Hw → Mem → α → Eff} (hf : ∀ h m a, Calm h (f h m a).hw) (l : List α) (h : Hw) (m : Mem) :
    Calm h (effFold h m f l).hw := by
  induction l generalizing h m with
  | nil => exact refl h
  | cons a l ih => exact (hf h m a).trans (ih _ _)

end Calm

/-! ### Records, sources and counters -/

theorem calm_logRec (h : Hw) (r : ErrRec) : Calm h (logRec h r) := by
  unfold logRec
  split
  · exact .of_eq rfl rfl rfl
  · exact (Calm.fset (by decide) _ _ _ _).step (.of_eq rfl rfl rfl)

theorem calm_logReg (h : Hw) (cls block inst : Nat) (r : Reg) (i j part addr : Nat) : Calm h (logReg h cls block inst r i j part addr) :=
  calm_logRec h _

theorem calm_logCode (h : Hw) (cls block inst code d0 part flags : Nat) : Calm h (logCode h cls block inst code d0 part flags) :=
  calm_logRec h _

theorem calm_raiseSource (h : Hw) (i : Nat) : Calm h (raiseSource h i) := by
  unfold raiseSource
  refine .ite (.refl h) ((Calm.fset_latch (e := (F_INT_SRC_STATE_PENDING, 1)) (by decide) _ _ _).step ((Calm.fadd (by decide) _ _ _ _).step (.ite ?_ (.refl h))))
  exact .of_eq rfl rfl rfl

theorem calm_pmuAdd (h : Hw) (i n k : Nat) : Calm h (pmuAdd pmuQmc h i n k) := by
  unfold pmuAdd
  have hcnt := Calm.fset (f := pmuQmc.cnt) (by decide) h (fget h pmuQmc.cnt i n + k) i n
  exact .ite ((Calm.fset (by decide) _ _ _ _).step hcnt) hcnt

theorem calm_pmuTakes (h : Hw) (i code : Nat) (amount : Option Nat → Nat) : Calm h (pmuTakes pmuQmc h i code amount) :=
  .foldl (fun h _ => .ite (calm_pmuAdd h _ _ _) (.refl h)) _ h

theorem calm_pmu (h : Hw) (i code k : Nat) (part : Option Nat) : Calm h (pmu pmuQmc h i code k part) :=
  .ite (.refl h) (calm_pmuTakes h _ _ _)

theorem calm_pmuOpen (h : Hw) (i code most : Nat) (part : Option Nat) : Calm h (pmuOpen pmuQmc h i code most part) :=
  .ite ((calm_pmuTakes _ _ _ _).step (.of_eq rfl rfl rfl)) (.refl h)

theorem calm_pmuBursts (h : Hw) (q code k : Nat) (part : Option Nat) : Calm h (pmuBursts h q code k part) :=
  .step (.ite (.refl _) (calm_pmuOpen _ _ _ _ _)) (calm_pmu h _ _ _ _)

end Sys2Proof.Proofs


/-!
Memory accesses are calm: quarters, slices, the homes' transactions, maintenance, and the writes of agents that cache no line.
-/

namespace Sys2Proof.Proofs
open Sys2Proof Sys2Proof.Machine

/-! ### Quarters -/

theorem calm_setQuarter (h : Hw) (q : Nat) (v : Quarter) : Calm h (setQuarter h q v) := .of_eq rfl rfl rfl

theorem calm_countUncorrectable (h : Hw) (q qa : Nat) : Calm h (countUncorrectable h q qa) :=
  (calm_logReg _ _ _ _ _ _ _ _ _).step ((Calm.fset (by decide) _ _ _ _).step (Calm.fadd (by decide) _ _ _ _))

theorem calm_noteBeats (h : Hw) (q n : Nat) (bs : List BeatRead) : Calm h (noteBeats h q n bs) :=
  (Calm.fadd (by decide) _ _ _ _).step (.foldl (fun h _ => .ite (calm_countUncorrectable h _ _) (.refl h)) _ h)

theorem calm_noteWrite (h : Hw) (q qa : Nat) : Calm h (noteWrite h q qa) := by
  unfold noteWrite
  refine .step (.ite (.ite (.refl _) (calm_setQuarter _ _ _)) (.refl _)) (.of_eq rfl rfl rfl)

theorem calm_quarterTake (h : Hw) (q qa : Nat) (data : List (Option Byte)) (pz : Bool) (part : Option Nat) (errs : List SymErr)
    (note : Hw → Eff) (hn : ∀ h, Calm h (note h).hw) : Calm h (quarterTake h q qa data pz part errs note).hw := by
  refine (calm_noteWrite _ _ _).step (.step ?_ (calm_pmuBursts h q 0x02 1 part))
  split
  · exact (hn _).step (calm_pmu _ _ _ _ _)
  · exact .refl _

theorem calm_quarterWrite (h : Hw) (m : Mem) (q qa : Nat) (data : List (Option Byte)) (pz : Bool) (part : Option Nat) :
    Calm h (quarterWrite h m q qa data pz part).hw :=
  calm_quarterTake _ _ _ _ _ _ _ _ fun h => calm_noteBeats h _ _ _

theorem calm_sendOffers (h : Hw) (q n l a : Nat) (part : Option Nat) (bs : List BeatRead) : Calm h (sendOffers h q n l a part bs) :=
  .ite ((calm_pmu _ _ _ _ _).step (.of_eq rfl rfl rfl)) (.refl h)

theorem calm_violate (h : Hw) (w : Asker) (q qa : Nat) (write : Bool) : Calm h (violate h w q qa write) := by
  refine (calm_logReg _ _ _ _ _ _ _ _ _).step ((calm_raiseSource _ _).step ?_)
  refine (Calm.fset (by decide) _ _ _ _).step ((Calm.fset (by decide) _ _ _ _).step ?_)
  exact (Calm.fset (by decide) _ _ _ _).step ((Calm.fset (by decide) _ _ _ _).step (Calm.fadd (by decide) _ _ _ _))

theorem calm_mayReach (h : Hw) (w : Asker) (a : Nat) (write : Bool) : Calm h (mayReach h w a write).2 := by
  unfold mayReach
  split
  · split
    · exact .refl h
    · exact calm_violate _ _ _ _ _
  · exact .refl h
  · exact .refl h

/-! ### Lines of caches and slices, and the snoop filter -/

theorem calm_setL1 (h : Hw) (c line : Nat) (l : CacheLine) : Calm h (setL1 h c line l) := .of_eq rfl rfl rfl
theorem calm_delL1 (h : Hw) (c line : Nat) : Calm h (delL1 h c line) := .of_eq rfl rfl rfl
theorem calm_setLlc (h : Hw) (k line : Nat) (l : CacheLine) : Calm h (setLlc h k line l) := .of_eq rfl rfl rfl
theorem calm_delLlc (h : Hw) (k line : Nat) : Calm h (delLlc h k line) := .of_eq rfl rfl rfl
theorem calm_setTrans (h : Hw) (line : Nat) (t : Option Trans) : Calm h (setTrans h line t) := .of_eq rfl rfl rfl
theorem calm_addWaiter (h : Hw) (w : Waiter) : Calm h (addWaiter h w) := .of_eq rfl rfl rfl
theorem calm_dropWaiter (h : Hw) (w : Waiter) : Calm h (dropWaiter h w) := .of_eq rfl rfl rfl
theorem calm_dropPrivate (h : Hw) (line : Nat) : Calm h (dropPrivate h line) := .of_eq rfl rfl rfl
theorem calm_dropCopies (h : Hw) (line : Nat) : Calm h (dropCopies h line) := .of_eq rfl rfl rfl
theorem calm_filterOnly (h : Hw) (line c : Nat) : Calm h (filterOnly h line c) := .of_eq rfl rfl rfl
theorem calm_setMaint (h : Hw) (c : Nat) (x : Option Maint) : Calm h (setMaint h c x) := .of_eq rfl rfl rfl

theorem calm_touchLlc (h : Hw) (line : Nat) : Calm h (touchLlc h line) := by
  unfold touchLlc
  split
  · exact calm_setLlc _ _ _ _
  · exact .refl h

theorem calm_llcLeave (h : Hw) (line : Nat) : Calm h (llcLeave h line) := by
  unfold llcLeave
  split
  · exact .ite (calm_setLlc _ _ _ _) (calm_delLlc _ _ _)
  · exact .refl h

theorem calm_unlockLine (h : Hw) (line : Nat) : Calm h (unlockLine h line) := by
  unfold unlockLine
  split
  · exact calm_setLlc _ _ _ _
  · exact .refl h

theorem calm_filterAdd (h : Hw) (line c : Nat) : Calm h (filterAdd h line c) := by
  simp only [filterAdd]
  split
  · exact (Calm.fadd (by decide) _ _ _ _).step (.of_eq rfl rfl rfl)
  · exact .of_eq rfl rfl rfl

theorem calm_filterDel (h : Hw) (line c : Nat) : Calm h (filterDel h line c) := by
  unfold filterDel
  split
  · exact .refl h
  · exact .ite (.of_eq rfl rfl rfl) (.of_eq rfl rfl rfl)

theorem calm_noteRead (h : Hw) (m : Mem) (a : Nat) (part : Option Nat) : Calm h (noteRead h m a part) := by
  unfold noteRead
  split
  · exact .ite (.refl h) (calm_touchLlc _ _)
  · exact .step (.ite (calm_sendOffers _ _ _ _ _ _ _) (.refl _)) ((calm_noteBeats _ _ _ _).step (calm_pmuBursts _ _ _ _ _))
  · exact .refl h

theorem calm_putLine (h : Hw) (m : Mem) (line : Nat) (data : List Byte) (pz : Bool) : Calm h (putLine h m line data pz).hw := by
  unfold putLine
  split
  · exact calm_quarterWrite _ _ _ _ _ _ _
  · exact .refl h
  · exact .refl h

theorem calm_evictLlc (h : Hw) (m : Mem) (k line : Nat) (l : CacheLine) : Calm h (evictLlc h m k line l).hw := by
  unfold evictLlc
  split
  · exact (calm_putLine _ _ _ _ _).step (calm_delLlc _ _ _)
  · exact calm_delLlc _ _ _

/-- A line that leaves a way for another one, if there is one. -/
theorem calm_evictVictim (h : Hw) (m : Mem) (k : Nat) (victim : Option (Nat × CacheLine)) :
    Calm h (match victim with | some (vl, v) => evictLlc h m k vl v | none => { hw := h } : Eff).hw := by
  split
  · exact calm_evictLlc _ _ _ _ _
  · exact .refl h

/-- Dirty data goes to memory, clean data nowhere. -/
theorem calm_putIfDirty (h : Hw) (m : Mem) (line : Nat) (data : List Byte) (pz dirty : Bool) :
    Calm h (if dirty then putLine h m line data pz else { hw := h } : Eff).hw := by
  split
  · exact calm_putLine _ _ _ _ _
  · exact .refl h

theorem calm_homeTake (h : Hw) (m : Mem) (line : Nat) (data : List Byte) (poison dirty : Bool) :
    Calm h (homeTake h m line data poison dirty).hw := by
  unfold homeTake
  split
  · exact calm_putIfDirty _ _ _ _ _ _
  · exact calm_putIfDirty _ _ _ _ _ _
  · split
    · exact calm_setLlc _ _ _ _
    · split
      · exact calm_putIfDirty _ _ _ _ _ _
      · split
        · exact calm_putIfDirty _ _ _ _ _ _
        · exact (calm_evictVictim _ _ _ _).map fun h => calm_setLlc _ _ _ _

/-! ### Transactions of the homes -/

theorem calm_giveLine (h : Hw) (t : Trans) (line : Nat) (st : CState) (data : List Byte) (poison : Bool) :
    Calm h (giveLine h t line st data poison) :=
  .ite ((calm_filterAdd _ _ _).step (calm_setL1 _ _ _ _)) (.ite (.refl h) (.of_eq rfl rfl rfl))

/-- The home serves a requester that no holder supplied. -/
theorem calm_serve (h : Hw) (m : Mem) (t : Trans) (line : Nat) (st : CState) :
    Calm h (if t.got then h else giveLine (noteRead h m (64 * line) (linePart h line)) t line st (lineNow h m (64 * line)).1 (lineNow h m (64 * line)).2) :=
  .ite (.refl h) ((calm_giveLine _ _ _ _ _ _).step (calm_noteRead _ _ _ _))

theorem calm_finishReq (h : Hw) (m : Mem) (line : Nat) (t : Trans) : Calm h (finishReq h m line t) := by
  have howns : ∀ h, Calm h (if (coreLine h t.core line).isSome then filterOnly (llcLeave h line) line t.core else h) := fun h =>
    .ite ((calm_filterOnly _ _ _).step (calm_llcLeave _ _)) (.refl h)
  have hserve := calm_serve h m t line
  cases hreq : t.req
  case readShared =>
    simp only [finishReq, lineRead, hreq]
    exact (calm_setTrans _ _ _).step (hserve _)
  case upgrade =>
    simp only [finishReq, lineRead, hreq]
    cases coreLine h t.core line with
    | some l => exact (calm_setTrans _ _ _).step ((howns _).step (calm_setL1 h t.core line _))
    | none => exact (calm_setTrans _ _ _).step ((howns _).step (hserve _))
  case readUnique =>
    simp only [finishReq, lineRead, hreq]
    exact (calm_setTrans _ _ _).step ((howns _).step (hserve _))
  case backinv =>
    simp only [finishReq, hreq]
    exact (calm_setTrans _ _ _).step (.of_eq rfl rfl rfl)
  all_goals
    simp only [finishReq, hreq]
    exact calm_setTrans _ _ _

theorem calm_startReq (h : Hw) (m : Mem) (req : CReq) (c line : Nat) : Calm h (startReq h m req c line) :=
  .ite (calm_finishReq _ _ _ _) (calm_setTrans _ _ _)

theorem calm_backInvalidate (h : Hw) (m : Mem) (k line : Nat) : Calm h (backInvalidate h m k line) :=
  (calm_startReq _ m .backinv 160 line).step ((Calm.fadd (f := F_SF_STATUS_BACKINV) (by decide) _ 1 k 0).step
    (.of_eq rfl rfl rfl : Calm h { h with hom := { h.hom with backinv := h.hom.backinv ++ [(k, line)] } }))

theorem calm_beginReq (h : Hw) (m : Mem) (w : Waiter) (k : Nat) (found : FilterRoom) : Calm h (beginReq h m w k found) := by
  unfold beginReq
  refine .ite (calm_addWaiter _ _) ?_
  cases found with
  | room => exact calm_startReq _ _ _ _ _
  | victim v => exact (calm_startReq _ _ _ _ _).step (calm_backInvalidate _ _ _ _)
  | full => exact calm_addWaiter _ _

theorem calm_startWaiter (h : Hw) (m : Mem) (w : Waiter) : Calm h (startWaiter h m w) := by
  unfold startWaiter
  split
  · exact calm_beginReq _ _ _ _ _
  · exact .refl h

theorem calm_startWaiting (h : Hw) (m : Mem) (n : Nat) : Calm h (startWaiting h m n) := by
  induction n generalizing h with
  | zero => exact .refl h
  | succ n ih =>
    unfold startWaiting
    split
    · exact .refl h
    · exact (ih _).step ((calm_startWaiter _ _ _).step (calm_dropWaiter _ _))

theorem calm_wakeWaiting (h : Hw) (m : Mem) : Calm h (wakeWaiting h m) := calm_startWaiting _ _ _

theorem calm_takeWriteback (h : Hw) (m : Mem) (dirty : Bool) (c line slot : Nat) : Calm h (takeWriteback h m dirty c line slot).hw := by
  simp only [takeWriteback]
  split
  · exact .refl h
  · refine .step ?_ ((calm_filterDel _ line c).step (calm_delL1 h c line))
    split
    · split
      · split
        · exact (calm_setTrans _ _ _).step ((calm_filterOnly _ _ _).step ((calm_llcLeave _ _).step
            ((calm_giveLine _ _ _ _ _ _).step (calm_dropWaiter _ _))))
        · exact calm_homeTake _ _ _ _ _ _
      · exact calm_homeTake _ _ _ _ _ _
    · split
      · exact .refl _
      · split
        · exact (calm_homeTake _ _ _ _ _ _).step (.of_eq rfl rfl rfl)
        · exact .of_eq rfl rfl rfl

/-! ### Maintenance -/

theorem calm_snoopClean (h : Hw) (m : Mem) (c line : Nat) : Calm h (snoopClean h m c line).hw := by
  simp only [snoopClean]
  split
  · rename_i l _
    split
    · exact .refl h
    · refine (calm_putLine _ _ _ _ _).step (.step ?_ (calm_setL1 h c line { l with st := .e }))
      split
      · exact calm_setLlc _ _ _ _
      · exact .refl _
  · exact .refl h

theorem calm_cleanLine (h : Hw) (m : Mem) (line : Nat) : Calm h (cleanLine h m line).hw := by
  unfold cleanLine
  split
  · exact calm_snoopClean _ _ _ _
  · split
    · split
      · exact (calm_putLine _ _ _ _ _).step (calm_setLlc _ _ _ _)
      · exact .refl h
    · exact .refl h

theorem calm_lockLine (h : Hw) (m : Mem) (line : Nat) : Calm h (lockLine h m line).1.hw := by
  unfold lockLine
  split
  · split
    · exact .refl h
    · split
      · exact .refl h
      · split
        · exact .refl h
        · refine .step ((calm_evictVictim _ _ _ _).map fun h => calm_setLlc _ _ _ _) (calm_noteRead _ _ _ _)
  · exact .refl h

theorem calm_maintLine (h : Hw) (m : Mem) (cmd line : Nat) : Calm h (maintLine h m cmd line).1.hw := by
  have hpriv : Calm h ((cleanLine h m line).map fun h => dropPrivate h line).hw := (calm_cleanLine _ _ _).map fun h => calm_dropPrivate _ _
  have hall : Calm h ((cleanLine h m line).map fun h => dropCopies h line).hw := (calm_cleanLine _ _ _).map fun h => calm_dropCopies _ _
  unfold maintLine
  split
  · exact calm_cleanLine _ _ _
  · split
    · exact hpriv
    · split
      · exact .refl h
      · exact calm_dropCopies _ _
  · split
    · exact hpriv
    · split
      · exact calm_cleanLine _ _ _
      · exact hall
  · exact calm_lockLine _ _ _
  · exact calm_unlockLine _ _

theorem calm_maintEnd (h : Hw) (c : Nat) (x : Maint) (code : Nat) : Calm h (maintEnd h c x code) := by
  refine .step (.ite (Calm.fset (by decide) _ _ _ _) (.refl _)) ?_
  exact (Calm.fset (by decide) _ _ _ _).step ((Calm.fset (by decide) _ _ _ _).step (calm_setMaint _ _ _))

theorem calm_runMaint (h : Hw) (m : Mem) (c : Nat) (x : Maint) (n : Nat) : Calm h (runMaint h m c x n).hw := by
  induction n generalizing h m x with
  | zero => exact calm_maintEnd _ _ _ _
  | succ n ih =>
    have hreach := calm_mayReach h { part := x.part, secure := x.secure } (64 * x.line) true
    unfold runMaint
    split
    · rename_i h' heq
      rw [heq] at hreach
      exact (calm_maintEnd _ _ _ _).step hreach
    · rename_i h' heq
      rw [heq] at hreach
      refine .step ?_ hreach
      split
      · exact (calm_addWaiter _ _).step (calm_setMaint _ _ _)
      · exact (calm_maintLine _ _ _ _).next fun h m => ih h m _

/-! ### Transactions close, and snoops are answered -/

theorem calm_nextWaiting (h : Hw) (m : Mem) (line n : Nat) : Calm h (nextWaiting h m line n).hw := by
  induction n generalizing h m with
  | zero => exact .refl h
  | succ n ih =>
    have htake : ∀ w : Waiter, ∀ d, Calm h ((takeWriteback (dropWaiter h w) m d w.core line w.slot).next m fun h m => nextWaiting h m line n).hw :=
      fun w d => ((calm_takeWriteback _ _ _ _ _ _).step (calm_dropWaiter _ _)).next fun h m => ih h m
    unfold nextWaiting
    split
    · exact .refl h
    · split
      · exact .refl h
      · split
        · exact htake _ _
        · exact htake _ _
        · refine .next ?_ fun h m => ih h m
          split
          · exact (calm_runMaint _ _ _ _ _).step (calm_dropWaiter _ _)
          · exact calm_dropWaiter _ _
        · exact .ite ((calm_startWaiter _ _ _).step (calm_dropWaiter _ _)) (.refl h)

theorem calm_closeTrans (h : Hw) (m : Mem) (line : Nat) : Calm h (closeTrans h m line).hw :=
  ((calm_nextWaiting _ _ _ _).step (calm_setTrans _ _ _)).next fun h m => calm_wakeWaiting h m

theorem calm_answered (h : Hw) (m : Mem) (c line : Nat) (t : Trans) : Calm h (answered h m c line t).hw := by
  simp only [answered]
  split
  · exact calm_setTrans _ _ _
  · split
    · exact (calm_closeTrans _ _ _).step (calm_finishReq _ _ _ _)
    · exact calm_finishReq _ _ _ _

theorem calm_sharedBy (h : Hw) (m : Mem) (c line : Nat) (t : Trans) : Calm h (sharedBy h m c line t).hw := by
  unfold sharedBy
  split
  · exact calm_answered _ _ _ _ _
  · split
    · exact calm_answered _ _ _ _ _
    · refine .next (.map ?_ fun h => calm_giveLine _ _ _ _ _ _) fun h m => calm_answered _ _ _ _ _
      split
      · exact (calm_homeTake _ _ _ _ _ _).step (calm_setL1 _ _ _ _)
      · exact calm_setL1 _ _ _ _

theorem calm_uniqueBy (h : Hw) (m : Mem) (c line : Nat) (t : Trans) : Calm h (uniqueBy h m c line t).hw := by
  simp only [uniqueBy]
  split
  · exact calm_answered _ _ _ _ _
  · refine .step ?_ ((calm_filterDel _ line c).step (calm_delL1 h c line))
    split
    · exact calm_answered _ _ _ _ _
    · refine .next (.map ?_ fun h => calm_giveLine _ _ _ _ _ _) fun h m => calm_answered _ _ _ _ _
      split
      · exact calm_homeTake _ _ _ _ _ _
      · exact .refl _

theorem calm_invalidated (h : Hw) (m : Mem) (c line : Nat) : Calm h (invalidated h m c line).hw := by
  unfold invalidated
  split
  · refine .step ?_ (calm_delL1 h c line)
    split
    · exact calm_homeTake _ _ _ _ _ _
    · exact .refl _
  · exact .refl h

theorem calm_snoopAnswer (h : Hw) (m : Mem) (c line : Nat) (t : Trans) : Calm h (snoopAnswer h m c line t).hw := by
  unfold snoopAnswer
  split
  · exact calm_sharedBy _ _ _ _ _
  · exact (calm_invalidated _ _ _ _).next fun h m => calm_answered _ _ _ _ _
  · exact calm_uniqueBy _ _ _ _ _

theorem calm_settleFor (line n : Nat) (h : Hw) (m : Mem) : Calm h (settleFor line n h m).hw := by
  induction n generalizing h m with
  | zero => exact .refl h
  | succ n ih =>
    unfold settleFor
    split
    · exact .refl h
    · refine .next ?_ ih
      split
      · exact calm_closeTrans _ _ _
      · exact calm_snoopAnswer _ _ _ _ _

theorem calm_settleLine (h : Hw) (m : Mem) (line : Nat) : Calm h (settleLine h m line).hw := by
  unfold settleLine
  split
  · exact .refl h
  · exact calm_settleFor _ _ _ _

/-! ### Writes of agents that cache no line -/

theorem calm_writePiece (h : Hw) (m : Mem) (a : Nat) (data : List (Option Byte)) (pz : Bool) (part : Option Nat) :
    Calm h (writePiece h m a data pz part).hw := by
  refine .next (.next (calm_settleLine _ _ _) fun h m => ?_) fun h m => calm_wakeWaiting h m
  have hdrop := calm_dropCopies h (a / 64)
  cases placeOf h a with
  | dram _ q qa =>
    cases dirtyLine h (a / 64) with
    | some l => exact (calm_quarterWrite _ _ _ _ _ _ _).step hdrop
    | none => exact (calm_quarterWrite _ _ _ _ _ _ _).step hdrop
  | scratch o =>
    cases dirtyLine h (a / 64) with
    | some l => exact hdrop
    | none => exact hdrop
  | _ => exact .refl h

theorem calm_writePieces (h : Hw) (m : Mem) (w : Asker) (data : List (Option Byte)) (pz : Bool) (l : List (Nat × Nat)) :
    Calm h (writePieces h m w data pz l).1.hw := by
  induction l generalizing h m data with
  | nil => exact .refl h
  | cons x l ih =>
    obtain ⟨a, n⟩ := x
    have hreach := calm_mayReach h w a true
    unfold writePieces
    split
    · rename_i h' heq
      rw [heq] at hreach
      exact hreach
    · rename_i h' heq
      rw [heq] at hreach
      exact (ih _ _ _).step ((calm_writePiece _ _ _ _ _ _).step hreach)

/-- A write of an agent that caches no line. -/
theorem calm_agentStore (h : Hw) (m : Mem) (w : Asker) (a : Nat) (data : List Byte) (pz : Bool) :
    Calm h (agentStore h m w a data pz).hw := calm_writePieces _ _ _ _ _ _

end Sys2Proof.Proofs


/-!
Gate reports, assembly entries and the loss of a partition are calm.
-/

namespace Sys2Proof.Proofs
open Sys2Proof Sys2Proof.Machine

theorem calm_setGate (h : Hw) (g : Nat) (v : Gate) : Calm h (setGate h g v) := .of_eq rfl rfl rfl

theorem calm_advanceTail (h : Hw) (g : Nat) : Calm h (advanceTail h g) :=
  (Calm.fset (f := F_GATE_FRAG_STATUS_TAIL) (by decide) _ _ g 0).step (calm_setGate h g _)

theorem calm_freeFragment (h : Hw) (g off : Nat) : Calm h (freeFragment h g off) :=
  (calm_advanceTail _ _).step (calm_setGate h g _)

theorem calm_putEntry (h : Hw) (e : AsmEntry) : Calm h (putEntry h e) := .of_eq rfl rfl rfl

theorem calm_closeEntry (h : Hw) (m : Mem) (e : AsmEntry) (complete : Bool) : Calm h (closeEntry h m e complete).hw := by
  simp only [closeEntry]
  split
  · exact calm_putEntry _ _
  · exact (calm_agentStore _ _ _ _ _ _).map fun h => calm_putEntry _ _

/-- A report that comes late frees its fragment. -/
theorem calm_lateReport (h : Hw) (p g : Nat) (r : Report) :
    Calm h (match r with
      | .frag a _ _ => freeFragment (fadd h F_RBT_PART_DROPS_LATE_FRAG 1 0 p) g (ringOffset h g a)
      | _ => h) := by
  split
  · exact (calm_freeFragment _ _ _).step (Calm.fadd (by decide) _ _ _ _)
  · exact .refl h

theorem calm_report (h : Hw) (m : Mem) (p evseq g : Nat) (r : Report) : Calm h (report h m p evseq g r).hw := by
  simp only [report]
  split
  · exact calm_lateReport h p g r
  · split
    · exact calm_lateReport h p g r
    · split
      · exact (calm_closeEntry _ _ _ _).step (calm_putEntry _ _)
      · exact calm_putEntry _ _

theorem calm_takeReport (h : Hw) (m : Mem) (g evseq : Nat) (r : Report) : Calm h (takeReport h m g evseq r).hw := by
  simp only [takeReport]
  split
  · exact .refl h
  · split
    · refine (calm_report _ _ _ _ _ _).next fun h m => ?_
      split
      · split
        · exact calm_report _ _ _ _ _ _
        · exact .refl h
      · exact .refl h
    · exact calm_report _ _ _ _ _ _

theorem calm_takeReports (h : Hw) (m : Mem) : Calm h (takeReports h m).hw := by
  unfold takeReports
  split
  · exact .refl h
  · exact (Calm.effFold (fun h m x => calm_takeReport h m x.1 x.2.1 x.2.2) h.rbt.waitReports _ m).step
      (.of_eq rfl rfl rfl : Calm h { h with rbt := { h.rbt with waitReports := [] } })

/-- Roundabout, while it is held or has no report waiting, writes nothing to memory. -/
theorem takeReports_ops (h : Hw) (m : Mem) (hw : rbtHeld h = true ∨ h.rbt.waitReports = []) : (takeReports h m).ops = [] := by
  unfold takeReports
  split
  · rfl
  · next hheld => rw [hw.resolve_left hheld]; rfl

end Sys2Proof.Proofs


/-!
Modes: what the end of a transition and the entry into Contain set.
-/

namespace Sys2Proof.Proofs
open Sys2Proof Sys2Proof.Machine

/-- A reading that every step keeps, a fold of the steps keeps. -/
theorem foldl_keeps {α β σ : Type} (g : σ → β) {f : σ → α → σ} (hf : ∀ s a, g (f s a) = g s) (l : List α) (s : σ) :
    g (l.foldl f s) = g s := by
  induction l generalizing s with
  | nil => rfl
  | cons a l ih => exact (ih _).trans (hf s a)

/-! ### Sources, engines and readout -/

theorem raiseSource_pending (h : Hw) {i : Nat} (hi : reservedSource i = false) :
    fget (raiseSource h i) F_INT_SRC_STATE_PENDING 0 i = 1 := by
  have hwidth : 1 % 2 ^ F_INT_SRC_STATE_PENDING.width = 1 := by decide
  simp only [raiseSource, hi, Bool.false_eq_true, if_false, fget_fset_same, hwidth]

theorem fget_raiseSource (h : Hw) (i : Nat) {g : Field} (hg : g.id ∉ [F_INT_SRC_STATE_EVENTS.id, F_INT_SRC_STATE_PENDING.id]) (a b : Nat) :
    fget (raiseSource h i) g a b = fget h g a b := by
  simp only [List.mem_cons, List.not_mem_nil, or_false, not_or] at hg
  simp only [raiseSource]
  split
  · rfl
  · rw [fget_fset_id _ _ _ _ _ _ _ _ (Ne.symm hg.2), fadd, fget_fset_id _ _ _ _ _ _ _ _ (Ne.symm hg.1)]
    split <;> rfl

theorem raiseSource_mod (h : Hw) (i : Nat) : (raiseSource h i).mod = h.mod := (calm_raiseSource h i).mod

/-- A field that a fold sets at many places leaves fields of other numbers alone. -/
theorem fget_foldl_fset {α : Type} (f : Field) (v i j : Hw → α → Nat) {g : Field} (hg : f.id ≠ g.id) (l : List α) (h : Hw) (a b : Nat) :
    fget (l.foldl (fun h x => fset h f (v h x) (i h x) (j h x)) h) g a b = fget h g a b :=
  foldl_keeps (fun h => fget h g a b) (fun h x => fget_fset_id h f g (v h x) (i h x) (j h x) a b hg) l h

theorem fget_holdEngines_other (h : Hw) (on : Bool) {g : Field} (hg : g.id ≠ F_ENG_STATUS_HELD.id) (a b : Nat) :
    fget (holdEngines h on) g a b = fget h g a b :=
  fget_foldl_fset F_ENG_STATUS_HELD (fun _ _ => b2n on) (fun _ q => q) (fun _ _ => 0) hg.symm _ h a b

theorem fget_runGates (h : Hw) (on : Bool) {g : Field} (hg : g.id ≠ F_GATE_STATUS_RUN.id) (a b : Nat) :
    fget (runGates h on) g a b = fget h g a b :=
  foldl_keeps (fun h => fget h g a b) (fun h _ => fget_fset_id h F_GATE_STATUS_RUN g _ _ _ a b hg.symm) _ h

/-- One value that a fold writes at places of a field stands at each of them. -/
theorem fget_foldl_fset_mem {α : Type} (f : Field) (v : Nat) (i j : α → Nat) (l : List α) (h : Hw) {x : α}
    (hx : x ∈ l ∨ fget h f (i x) (j x) = v % 2 ^ f.width) :
    fget (l.foldl (fun h y => fset h f v (i y) (j y)) h) f (i x) (j x) = v % 2 ^ f.width := by
  induction l generalizing h with
  | nil => exact hx.resolve_left List.not_mem_nil
  | cons y l ih =>
    refine ih _ ?_
    by_cases hk : f.key (i y) (j y) = f.key (i x) (j x)
    · exact .inr (by simp only [fget, fset, ← hk, tget_tset_same])
    · rw [fget_fset_ne _ _ _ _ _ _ _ _ hk]
      refine hx.imp_left fun hmem => (List.mem_cons.mp hmem).resolve_left fun heq => hk (by rw [heq])

/-- Every engine is held, or none. -/
theorem holdEngines_held (h : Hw) (on : Bool) (q : Fin 24) : fget (holdEngines h on) F_ENG_STATUS_HELD q.val = b2n on :=
  (fget_foldl_fset_mem F_ENG_STATUS_HELD (b2n on) id (fun _ => 0) _ h (.inl (List.mem_range.mpr q.isLt))).trans (by cases on <;> decide)

theorem holdEngines_mod (h : Hw) (on : Bool) : (holdEngines h on).mod = h.mod :=
  foldl_keeps Hw.mod (fun h _ => fset_mod h _ _ _ _) _ h

theorem runGates_mod (h : Hw) (on : Bool) : (runGates h on).mod = h.mod :=
  foldl_keeps Hw.mod (fun h _ => fset_mod h _ _ _ _) _ h

/-! ### Avenue -/

theorem stopAvenue_running (h : Hw) : fget (stopAvenue h) F_AVE_STATUS_RUNNING = 0 := fget_fset_same h F_AVE_STATUS_RUNNING 0 0 0

theorem fget_stopAvenue (h : Hw) {g : Field} (hg : g.id ≠ F_AVE_STATUS_RUNNING.id) (a b : Nat) :
    fget (stopAvenue h) g a b = fget h g a b := fget_fset_id h F_AVE_STATUS_RUNNING g 0 0 0 a b hg.symm

/-! ### The end of a transition -/

/-- What reaching a mode writes in the fields of the mode controller. -/
def modeReached (h : Hw) (t : Nat) : Hw :=
  let h := fset (fset (fset h F_MODE_STATUS_MODE t) F_MODE_STATUS_LAST_CAUSE h.mod.transCause) F_MODE_STATUS_IN_TRANSITION 0
  if h.mod.transReq then fset h F_MODE_REQUEST_RESULT mrDone else h

theorem fget_reachMode (h : Hw) (t : Nat) {g : Field} (hg : g.id ∉ [F_INT_SRC_STATE_EVENTS.id, F_INT_SRC_STATE_PENDING.id]) (a b : Nat) :
    fget (reachMode h t) g a b = fget (modeReached h t) g a b := fget_raiseSource _ srcMode hg a b

theorem reachMode_mode (h : Hw) {t : Nat} (ht : t < 8) : modeNow (reachMode h t) = t := by
  have hfits : t % 2 ^ F_MODE_STATUS_MODE.width = t := Nat.mod_eq_of_lt ht
  rw [modeNow, fget_reachMode _ _ (by decide)]
  simp only [modeReached]
  split <;> simp (disch := decide) only [fget_fset_id, fget_fset_same, hfits]

theorem reachMode_lastCause (h : Hw) (t : Nat) : fget (reachMode h t) F_MODE_STATUS_LAST_CAUSE = h.mod.transCause % 256 := by
  have hwidth : 2 ^ F_MODE_STATUS_LAST_CAUSE.width = 256 := by decide
  rw [fget_reachMode _ _ (by decide)]
  simp only [modeReached]
  split
  · simp (disch := decide) only [fget_fset_id, fget_fset_same, hwidth]
  · simp (disch := decide) only [fget_fset_id, fget_fset_same, hwidth]

theorem reachMode_inTransition (h : Hw) (t : Nat) : fget (reachMode h t) F_MODE_STATUS_IN_TRANSITION = 0 := by
  rw [fget_reachMode _ _ (by decide)]
  simp only [modeReached]
  split <;> simp (disch := decide) only [fget_fset_id, fget_fset_same, Nat.zero_mod]

theorem reachMode_request (h : Hw) (t : Nat) (hreq : h.mod.transReq = true) : fget (reachMode h t) F_MODE_REQUEST_RESULT = 2 := by
  rw [fget_reachMode _ _ (by decide)]
  simp only [modeReached, fset_mod, hreq, if_true, fget_fset_same]
  decide

theorem reachMode_queuedValid (h : Hw) (t : Nat) : fget (reachMode h t) F_MODE_STATUS_QUEUED_VALID = fget h F_MODE_STATUS_QUEUED_VALID := by
  rw [fget_reachMode _ _ (by decide)]
  simp only [modeReached]
  split <;> simp (disch := decide) only [fget_fset_id]

theorem reachMode_pending (h : Hw) (t : Nat) : fget (reachMode h t) F_INT_SRC_STATE_PENDING 0 srcMode = 1 :=
  raiseSource_pending _ (by decide)

theorem reachMode_stopping (h : Hw) (t : Nat) : (reachMode h t).mod.stopping = false := by
  unfold reachMode
  rw [raiseSource_mod]

/-- The fields that holding blocks for a mode sets. -/
def holdIds : List Nat := [F_RBT_STATUS_HELD.id, F_ENG_STATUS_HELD.id, F_GATE_STATUS_RUN.id, F_AVE_STATUS_RUNNING.id]

/-- Roundabout, the engines and the readout gates after a mode is reached. -/
def blocksHeld (h : Hw) (t : Nat) : Hw := runGates (holdEngines (fset h F_RBT_STATUS_HELD (b2n (t == 3))) (t == 3)) (t == 4 || t == 6)

theorem holdBlocks_of_ingest (h : Hw) {t : Nat} (ht : t = 4 ∨ t = 6) :
    holdBlocks h t = blocksHeld h t ∨ holdBlocks h t = { blocksHeld h t with mod := { (blocksHeld h t).mod with aveWaitTurn := true } } := by
  have hi : (t == 4 || t == 6) = true := by simpa using ht
  by_cases hrun : fon (blocksHeld h t) F_AVE_STATUS_RUNNING = true
  · exact .inl (by simp only [holdBlocks, blocksHeld, hi, if_true] at hrun ⊢; rw [if_pos hrun])
  · exact .inr (by simp only [holdBlocks, blocksHeld, hi, if_true] at hrun ⊢; rw [if_neg hrun])

theorem holdBlocks_of_no_ingest (h : Hw) {t : Nat} (ht : ¬(t = 4 ∨ t = 6)) : holdBlocks h t = stopAvenue (blocksHeld h t) := by
  have hi : (t == 4 || t == 6) = false := by simpa using ht
  simp only [holdBlocks, blocksHeld, hi, Bool.false_eq_true, if_false]

/-- Every field but RUNNING is after the blocks are held as the blocks left it. -/
theorem fget_holdBlocks (h : Hw) (t : Nat) {g : Field} (hg : g.id ≠ F_AVE_STATUS_RUNNING.id) (a b : Nat) :
    fget (holdBlocks h t) g a b = fget (blocksHeld h t) g a b := by
  by_cases ht : t = 4 ∨ t = 6
  · rcases holdBlocks_of_ingest h ht with he | he
    · rw [he]
    · rw [he]; rfl
  · rw [holdBlocks_of_no_ingest h ht, fget_stopAvenue _ hg]

theorem blocksHeld_mod (h : Hw) (t : Nat) : (blocksHeld h t).mod = h.mod := by
  rw [blocksHeld, runGates_mod, holdEngines_mod, fset_mod]

theorem holdBlocks_stopping (h : Hw) (t : Nat) : (holdBlocks h t).mod.stopping = h.mod.stopping := by
  rw [← blocksHeld_mod h t]
  by_cases ht : t = 4 ∨ t = 6
  · rcases holdBlocks_of_ingest h ht with he | he <;> rw [he]
  · rw [holdBlocks_of_no_ingest h ht]; rfl

/-- Holding blocks leaves every other field alone. -/
theorem fget_holdBlocks_other (h : Hw) (t : Nat) {g : Field} (hg : g.id ∉ holdIds) (a b : Nat) :
    fget (holdBlocks h t) g a b = fget h g a b := by
  simp only [holdIds, List.mem_cons, List.not_mem_nil, or_false, not_or] at hg
  obtain ⟨hrbt, heng, hrun, hrunning⟩ := hg
  rw [fget_holdBlocks _ _ hrunning, blocksHeld, fget_runGates _ _ hrun, fget_holdEngines_other _ _ heng, fget_fset_id _ _ _ _ _ _ _ _ (Ne.symm hrbt)]

theorem holdBlocks_rbt (h : Hw) (t : Nat) : fget (holdBlocks h t) F_RBT_STATUS_HELD = b2n (t == 3) := by
  rw [fget_holdBlocks _ _ (by decide), blocksHeld, fget_runGates _ _ (by decide), fget_holdEngines_other _ _ (by decide), fget_fset_same]
  cases t == 3 <;> decide

theorem holdBlocks_engines (h : Hw) (t : Nat) (q : Fin 24) : fget (holdBlocks h t) F_ENG_STATUS_HELD q.val = b2n (t == 3) := by
  rw [fget_holdBlocks _ _ (by decide), blocksHeld, fget_runGates _ _ (by decide), holdEngines_held]

/-- A partition that Contain kept from running runs again, and the trigger's configuration thaws with its partition. -/
def thaw (h : Hw) (p : Nat) : Hw :=
  if fget h F_PART_STATUS_STATE 0 p == 4 then
    let h := fset h F_PART_STATUS_STATE 1 0 p
    if p == h.boot.trigPart then fset h F_AVE_STATUS_CFG_FROZEN 0 else h
  else h

theorem fget_thaw (h : Hw) (p : Nat) {g : Field} (hg : g.id ∉ [F_PART_STATUS_STATE.id, F_AVE_STATUS_CFG_FROZEN.id]) (a b : Nat) :
    fget (thaw h p) g a b = fget h g a b := by
  simp only [List.mem_cons, List.not_mem_nil, or_false, not_or] at hg
  obtain ⟨hstate, hfrozen⟩ := hg
  simp only [thaw]
  split
  · split
    · rw [fget_fset_id _ _ _ _ _ _ _ _ (Ne.symm hfrozen), fget_fset_id _ _ _ _ _ _ _ _ (Ne.symm hstate)]
    · rw [fget_fset_id _ _ _ _ _ _ _ _ (Ne.symm hstate)]
  · rfl

theorem thaw_mod (h : Hw) (p : Nat) : (thaw h p).mod = h.mod := by
  simp only [thaw]
  split
  · split <;> rfl
  · rfl

theorem thaw_ave (h : Hw) (p : Nat) : (thaw h p).ave = h.ave := by
  simp only [thaw]
  split
  · split <;> rfl
  · rfl

/-- All partitions that Contain kept from running run again. -/
def thawAll (h : Hw) : Hw := (List.range 8).foldl thaw h

theorem fget_thawAll (h : Hw) {g : Field} (hg : g.id ∉ [F_PART_STATUS_STATE.id, F_AVE_STATUS_CFG_FROZEN.id]) (a b : Nat) :
    fget (thawAll h) g a b = fget h g a b := foldl_keeps (fun h => fget h g a b) (fun h p => fget_thaw h p hg a b) _ h

theorem thawAll_mod (h : Hw) : (thawAll h).mod = h.mod := foldl_keeps Hw.mod thaw_mod _ h
theorem thawAll_ave (h : Hw) : (thawAll h).ave = h.ave := foldl_keeps Hw.ave thaw_ave _ h

/-- Contain is left: what the temperature alone caused is forgotten. -/
def clearTempOnly (h : Hw) : Hw := { h with mod := { h.mod with containTempOnly := false } }

theorem fget_clearTempOnly (h : Hw) (f : Field) (i j : Nat) : fget (clearTempOnly h) f i j = fget h f i j := rfl
theorem clearTempOnly_ave (h : Hw) : (clearTempOnly h).ave = h.ave := rfl
theorem clearTempOnly_stopping (h : Hw) : (clearTempOnly h).mod.stopping = h.mod.stopping := rfl

/-- Arriving at a mode but M2 is reaching it and holding its blocks, and out of Contain thawing the partitions. -/
theorem arrive'_of_not_two (h : Hw) {t : Nat} (ht : t ≠ 2) :
    arrive' h t = holdBlocks (reachMode h t) t ∨ arrive' h t = clearTempOnly (thawAll (holdBlocks (reachMode h t) t)) := by
  have h2 : (t == 2) = false := by simpa using ht
  have hthaw : ∀ x : Hw, (List.range 8).foldl (fun h p => if (fget h F_PART_STATUS_STATE 0 p == 4) = true then
      if (p == (fset h F_PART_STATUS_STATE 1 0 p).boot.trigPart) = true then fset (fset h F_PART_STATUS_STATE 1 0 p) F_AVE_STATUS_CFG_FROZEN 0
      else fset h F_PART_STATUS_STATE 1 0 p else h) x = thawAll x := fun _ => rfl
  simp only [arrive', h2, Bool.false_eq_true, if_false, hthaw]
  by_cases h7 : (modeNow h == 7) = true
  · exact .inr (if_pos h7)
  · exact .inl (if_neg h7)

theorem fget_arrive' (h : Hw) {t : Nat} (ht : t ≠ 2) {g : Field} (hg : g.id ∉ [F_PART_STATUS_STATE.id, F_AVE_STATUS_CFG_FROZEN.id])
    (a b : Nat) : fget (arrive' h t) g a b = fget (holdBlocks (reachMode h t) t) g a b := by
  rcases arrive'_of_not_two h ht with he | he
  · rw [he]
  · rw [he, fget_clearTempOnly, fget_thawAll _ hg]

theorem arrive'_ave (h : Hw) {t : Nat} (ht : t ≠ 2) : (arrive' h t).ave = (holdBlocks (reachMode h t) t).ave := by
  rcases arrive'_of_not_two h ht with he | he
  · rw [he]
  · rw [he, clearTempOnly_ave, thawAll_ave]

theorem arrive'_stopping (h : Hw) {t : Nat} (ht : t ≠ 2) : (arrive' h t).mod.stopping = false := by
  rw [← reachMode_stopping h t, ← holdBlocks_stopping (reachMode h t) t]
  rcases arrive'_of_not_two h ht with he | he
  · rw [he]
  · rw [he, clearTempOnly_stopping, thawAll_mod]

/-- A field that only reaching the mode sets. -/
theorem fget_arrive'_reached (h : Hw) {t : Nat} (ht : t ≠ 2) {g : Field}
    (hg : g.id ∉ [F_PART_STATUS_STATE.id, F_AVE_STATUS_CFG_FROZEN.id] ++ holdIds) (a b : Nat) :
    fget (arrive' h t) g a b = fget (reachMode h t) g a b := by
  rw [List.mem_append, not_or] at hg
  rw [fget_arrive' h ht hg.1, fget_holdBlocks_other _ _ hg.2]

end Sys2Proof.Proofs


/-!
MODE_TRANSITION_END: the command as a whole.
-/

namespace Sys2Proof.Proofs
open Sys2Proof Sys2Proof.Machine

/-! ### Roundabout's waiting reports do not change on the way to a mode -/

theorem raiseSource_rbt (h : Hw) (i : Nat) : (raiseSource h i).rbt = h.rbt := by
  simp only [raiseSource]
  split
  · rfl
  · show (if _ then _ else h : Hw).rbt = h.rbt
    split <;> rfl

theorem modeReached_rbt (h : Hw) (t : Nat) : (modeReached h t).rbt = h.rbt := by
  simp only [modeReached]
  split <;> rfl

theorem reachMode_rbt (h : Hw) (t : Nat) : (reachMode h t).rbt = h.rbt := (raiseSource_rbt _ srcMode).trans (modeReached_rbt h t)

theorem holdEngines_rbt (h : Hw) (on : Bool) : (holdEngines h on).rbt = h.rbt :=
  foldl_keeps Hw.rbt (fun h q => show (fset h F_ENG_STATUS_HELD (b2n on) q).rbt = h.rbt from rfl) _ h

theorem runGates_rbt (h : Hw) (on : Bool) : (runGates h on).rbt = h.rbt :=
  foldl_keeps Hw.rbt (fun h g => show (fset h F_GATE_STATUS_RUN (b2n (on && !ownerResets h g)) g).rbt = h.rbt from rfl) _ h

theorem blocksHeld_rbt (h : Hw) (t : Nat) : (blocksHeld h t).rbt = h.rbt := (runGates_rbt _ _).trans (holdEngines_rbt _ _)

theorem holdBlocks_keeps_rbt (h : Hw) (t : Nat) : (holdBlocks h t).rbt = h.rbt := by
  rw [← blocksHeld_rbt h t]
  by_cases ht : t = 4 ∨ t = 6
  · rcases holdBlocks_of_ingest h ht with he | he <;> rw [he]
  · rw [holdBlocks_of_no_ingest h ht]; rfl

theorem thaw_rbt (h : Hw) (p : Nat) : (thaw h p).rbt = h.rbt := by
  simp only [thaw]
  split
  · split <;> rfl
  · rfl

theorem thawAll_rbt (h : Hw) : (thawAll h).rbt = h.rbt := foldl_keeps Hw.rbt thaw_rbt _ h

theorem clearTempOnly_rbt (h : Hw) : (clearTempOnly h).rbt = h.rbt := rfl

theorem arrive'_rbt (h : Hw) {t : Nat} (ht : t ≠ 2) : (arrive' h t).rbt = h.rbt := by
  rw [← reachMode_rbt h t, ← holdBlocks_keeps_rbt (reachMode h t) t]
  rcases arrive'_of_not_two h ht with he | he
  · rw [he]
  · rw [he, clearTempOnly_rbt, thawAll_rbt]

/-! ### The command -/

theorem startIfFree_of_no_queue {h : Hw} (hq : fon h F_MODE_STATUS_QUEUED_VALID = false) : startIfFree h = h := by
  simp only [startIfFree, startQueued, hq, Bool.false_eq_true, if_false, ite_self]

theorem fon_eq_of_fget {h h' : Hw} {f : Field} {i j : Nat} (he : fget h' f i j = fget h f i j) : fon h' f i j = fon h f i j := by
  unfold fon; rw [he]

theorem calm_fon {h h' : Hw} (c : Calm h h') {f : Field} (hf : f ∈ modeFields) (i j : Nat) : fon h' f i j = fon h f i j :=
  fon_eq_of_fget (c.field f hf i j)

/-- What a transition's end does where the target is permitted and no stopped crossing is left: it arrives, and Roundabout takes the
reports that waited. -/
def arrivedAt (s : State) (t : Nat) : State := s.act fun h m => takeReports (arrive' h t) m

theorem execModeTransitionEnd_arrives {s : State} {t : Nat} (hin : fon s.hw F_MODE_STATUS_IN_TRANSITION = true)
    (hwait : fon s.hw F_MODE_STATUS_WAIT_SUPPLY = false) (ht : fget s.hw F_MODE_STATUS_TARGET = t) (hne : t ≠ 1)
    (hstop : s.hw.mod.stopping = true → ingestDrained s.hw = true) (hperm : permitted s.hw t = true)
    (hq : fon (arrivedAt s t).hw F_MODE_STATUS_QUEUED_VALID = false) : exec .modeTransitionEnd s = .next (arrivedAt s t) := by
  have h1 : (t == 1) = false := by simpa using hne
  have hdrained : (s.hw.mod.stopping && !ingestDrained s.hw) = false := by
    cases hs : s.hw.mod.stopping with
    | false => rfl
    | true => rw [hstop hs]; rfl
  have hbody : (takeReports (arrive' s.hw t) s.mem).map startIfFree = takeReports (arrive' s.hw t) s.mem := by
    show ({ hw := startIfFree (arrivedAt s t).hw, ops := _ } : Eff) = _
    rw [startIfFree_of_no_queue hq]
    rfl
  show execModeTransitionEnd s = _
  simp only [execModeTransitionEnd, arrivedAt, State.act, hin, hwait, ht, h1, hdrained, hperm, Bool.not_true, Bool.or_false, Bool.false_eq_true,
    if_false]
  rw [hbody]

/-- While accepted crossings are still to be written, the command changes nothing. -/
theorem execModeTransitionEnd_waits {s : State} (hne : fget s.hw F_MODE_STATUS_TARGET ≠ 1) (hstop : s.hw.mod.stopping = true)
    (hleft : ingestDrained s.hw = false) : exec .modeTransitionEnd s = .next s := by
  have h1 : (fget s.hw F_MODE_STATUS_TARGET == 1) = false := by simpa using hne
  show execModeTransitionEnd s = _
  simp only [execModeTransitionEnd, State.act, h1, hstop, hleft, Bool.not_false, Bool.and_self, Bool.false_eq_true, if_false, if_true, ite_self]
  rfl

/-- The readings that hold where a mode from M3 to M6 is reached hold after Roundabout's reports, which leave them alone. -/
theorem arrivedAt_calm (s : State) (t : Nat) : Calm (arrive' s.hw t) (arrivedAt s t).hw := calm_takeReports _ _

theorem arrivedAt_queuedValid (s : State) {t : Nat} (ht : t ≠ 2) :
    fon (arrivedAt s t).hw F_MODE_STATUS_QUEUED_VALID = fon s.hw F_MODE_STATUS_QUEUED_VALID := by
  rw [calm_fon (arrivedAt_calm s t) (by decide)]
  exact fon_eq_of_fget ((fget_arrive'_reached s.hw ht (by decide) 0 0).trans (reachMode_queuedValid s.hw t))

/-- Reports that Roundabout does not take now, or that are none, write nothing. -/
theorem arrivedAt_mem (s : State) (t : Nat) (hw : rbtHeld (arrive' s.hw t) = true ∨ (arrive' s.hw t).rbt.waitReports = []) :
    (arrivedAt s t).mem = s.mem := by
  have hops := takeReports_ops (arrive' s.hw t) s.mem hw
  simp only [arrivedAt, State.act, State.land, hops]
  rfl

/-- A transition to a mode from M3 to M6 ends there. -/
theorem arrivedAt_reaches (s : State) {t : Nat} (h3 : 3 ≤ t) (h6 : t ≤ 6) :
    modeNow (arrivedAt s t).hw = t ∧ fget (arrivedAt s t).hw F_MODE_STATUS_IN_TRANSITION = 0 ∧
    fget (arrivedAt s t).hw F_MODE_STATUS_LAST_CAUSE = s.hw.mod.transCause % 256 ∧
    (s.hw.mod.transReq = true → fget (arrivedAt s t).hw F_MODE_REQUEST_RESULT = 2) ∧
    fget (arrivedAt s t).hw F_INT_SRC_STATE_PENDING 0 srcMode = 1 ∧ (arrivedAt s t).hw.mod.stopping = false := by
  have hc := arrivedAt_calm s t
  have h2 : t ≠ 2 := by omega
  refine ⟨?_, ?_, ?_, fun hreq => ?_, ?_, ?_⟩
  · rw [modeNow, hc.field _ (by decide), fget_arrive'_reached s.hw h2 (by decide)]
    exact reachMode_mode s.hw (by omega)
  · rw [hc.field _ (by decide), fget_arrive'_reached s.hw h2 (by decide), reachMode_inTransition]
  · rw [hc.field _ (by decide), fget_arrive'_reached s.hw h2 (by decide), reachMode_lastCause]
  · rw [hc.field _ (by decide), fget_arrive'_reached s.hw h2 (by decide), reachMode_request s.hw t hreq]
  · refine hc.latch (F_INT_SRC_STATE_PENDING, 1) (by decide) _ _ ?_
    rw [fget_arrive'_reached s.hw h2 (by decide), reachMode_pending]
  · rw [hc.mod, arrive'_stopping s.hw h2]

/-- Roundabout and the engines are held in M3 only. -/
theorem arrivedAt_holds (s : State) {t : Nat} (h3 : 3 ≤ t) :
    fget (arrivedAt s t).hw F_RBT_STATUS_HELD = b2n (t == 3) ∧
    ∀ q : Fin 24, fget (arrivedAt s t).hw F_ENG_STATUS_HELD q.val = b2n (t == 3) := by
  have hc := arrivedAt_calm s t
  have h2 : t ≠ 2 := by omega
  refine ⟨?_, fun q => ?_⟩
  · rw [hc.field _ (by decide), fget_arrive' s.hw h2 (by decide), holdBlocks_rbt]
  · rw [hc.field _ (by decide), fget_arrive' s.hw h2 (by decide), holdBlocks_engines]

/-- Avenue is stopped in M3 and M5. -/
theorem arrivedAt_stops_avenue (s : State) {t : Nat} (ht : t = 3 ∨ t = 5) :
    fget (arrivedAt s t).hw F_AVE_STATUS_RUNNING = 0 ∧ (arrivedAt s t).hw.ave.pinTb = 0 ∧ (arrivedAt s t).hw.ave.pinQual = false := by
  have hc := arrivedAt_calm s t
  have h2 : t ≠ 2 := by omega
  have hstop := holdBlocks_of_no_ingest (reachMode s.hw t) (t := t) (by omega)
  rw [hc.field _ (by decide), hc.ave, fget_arrive' s.hw h2 (by decide), arrive'_ave s.hw h2, hstop]
  exact ⟨stopAvenue_running _, rfl, rfl⟩

/-- In M3 Roundabout is held, so no report that waited is taken. -/
theorem arrivedAt_keeps_memory (s : State) {t : Nat} (h3 : 3 ≤ t) (hw : t = 3 ∨ s.hw.rbt.waitReports = []) :
    (arrivedAt s t).mem = s.mem := by
  have h2 : t ≠ 2 := by omega
  refine arrivedAt_mem s t (hw.imp (fun heq => ?_) fun hnil => ?_)
  · rw [rbtHeld, fon, fget_arrive' s.hw h2 (by decide), holdBlocks_rbt, heq]
    rfl
  · rw [arrive'_rbt s.hw h2, hnil]

/-! ### M2 -/

theorem fget_arrive'_two (h : Hw) (f : Field) (i j : Nat) : fget (arrive' h 2) f i j = fget (reachMode h 2) f i j := rfl

theorem arrive'_two_stepsDone (h : Hw) : (arrive' h 2).mod.stepsDone = 0 := rfl

theorem arrive'_two_rbt (h : Hw) : (arrive' h 2).rbt = h.rbt := (show (arrive' h 2).rbt = (reachMode h 2).rbt from rfl).trans (reachMode_rbt h 2)

/-! ### The clauses on MODE_TRANSITION_END -/

/-- The end of a transition to a mode from M3 to M6. -/
theorem modeTransitionEnd_reaches (t' : Nat) (s : State) (hin : fon s.hw F_MODE_STATUS_IN_TRANSITION = true)
    (hwait : fon s.hw F_MODE_STATUS_WAIT_SUPPLY = false) (ht : fget s.hw F_MODE_STATUS_TARGET = t') (h3 : 3 ≤ t') (h6 : t' ≤ 6)
    (hperm : permitted s.hw t' = true) (hstop : s.hw.mod.stopping = true → ingestDrained s.hw = true)
    (hq : fon s.hw F_MODE_STATUS_QUEUED_VALID = false) :
    yields .modeTransitionEnd s fun t =>
      modeNow t.hw = t' ∧ fget t.hw F_MODE_STATUS_IN_TRANSITION = 0 ∧ fget t.hw F_MODE_STATUS_LAST_CAUSE = s.hw.mod.transCause % 256 ∧
      (s.hw.mod.transReq = true → fget t.hw F_MODE_REQUEST_RESULT = 2) ∧
      fget t.hw F_INT_SRC_STATE_PENDING 0 srcMode = 1 ∧ t.hw.mod.stopping = false ∧
      fget t.hw F_RBT_STATUS_HELD = b2n (t' == 3) ∧ (∀ q : Fin 24, fget t.hw F_ENG_STATUS_HELD q.val = b2n (t' == 3)) ∧
      ((t' = 3 ∨ t' = 5) → fget t.hw F_AVE_STATUS_RUNNING = 0 ∧ t.hw.ave.pinTb = 0 ∧ t.hw.ave.pinQual = false) ∧
      ((t' = 3 ∨ s.hw.rbt.waitReports = []) → t.mem = s.mem) ∧ t.pending = s.pending := by
  have hexec := execModeTransitionEnd_arrives hin hwait ht (by omega) hstop hperm
    ((arrivedAt_queuedValid s (by omega)).trans hq)
  obtain ⟨hmode, hend, hcause, hreq, hpend, hstopped⟩ := arrivedAt_reaches s h3 h6
  obtain ⟨hrbt, heng⟩ := arrivedAt_holds s h3
  exact ⟨_, hexec, hmode, hend, hcause, hreq, hpend, hstopped, hrbt, heng, arrivedAt_stops_avenue s, arrivedAt_keeps_memory s h3, rfl⟩

/-- The end of a transition to M2. -/
theorem modeTransitionEnd_reaches_two (s : State) (hin : fon s.hw F_MODE_STATUS_IN_TRANSITION = true)
    (ht : fget s.hw F_MODE_STATUS_TARGET = 2) (hwait : fon s.hw F_MODE_STATUS_WAIT_SUPPLY = false) (hperm : permitted s.hw 2 = true)
    (hnil : s.hw.rbt.waitReports = []) (hstop : s.hw.mod.stopping = false) (hq : fon s.hw F_MODE_STATUS_QUEUED_VALID = false) :
    yields .modeTransitionEnd s fun t => modeNow t.hw = 2 ∧ t.hw.mod.stepsDone = 0 ∧ sameMemory s t := by
  have hc := arrivedAt_calm s 2
  have hqueue : fon (arrivedAt s 2).hw F_MODE_STATUS_QUEUED_VALID = false := by
    rw [calm_fon hc (by decide), fon, fget_arrive'_two, reachMode_queuedValid]
    exact hq
  refine ⟨_, execModeTransitionEnd_arrives hin hwait ht (by decide) (fun h => absurd h (by simp [hstop])) hperm hqueue, ?_, ?_, ?_, rfl⟩
  · rw [modeNow, hc.field _ (by decide), fget_arrive'_two]
    exact reachMode_mode s.hw (by decide)
  · rw [hc.mod, arrive'_two_stepsDone]
  · exact arrivedAt_mem s 2 (.inr (by rw [arrive'_two_rbt, hnil]))

end Sys2Proof.Proofs


/-!
Contain: partitions go down, a record of class 3 is the newest, and the module is in M7.
-/

namespace Sys2Proof.Proofs
open Sys2Proof Sys2Proof.Machine

/-! ### A partition goes down -/

/-- What the loss of a partition changes: fields, and what the homes and Avenue hold. -/
theorem calm_loseCaches (h : Hw) (p : Nat) : Calm h (loseCaches h p) := by
  unfold loseCaches
  exact (Calm.foldl (fun h k => Calm.fset (f := F_SF_STATUS_CREDITS) (by decide) h 0 k 0) _ _).step (.of_eq rfl rfl rfl)

/-- With no COMMIT pending a configuration only freezes. -/
theorem freezeConfig_of_no_commit {h : Hw} (hc : fon h F_AVE_STATUS_COMMIT_PENDING = false) :
    freezeConfig h = fset h F_AVE_STATUS_CFG_FROZEN 1 := by
  have hkept : fon (fset h F_AVE_STATUS_CFG_FROZEN 1) F_AVE_STATUS_COMMIT_PENDING = false := by
    rw [fon, fget_fset_id _ _ _ _ _ _ _ _ (by decide)]; exact hc
  simp only [freezeConfig, hkept, Bool.false_eq_true, if_false]

/-- The configuration freezes where the trigger's partition goes down. -/
def frozenFor (h : Hw) (p : Nat) : Hw := if p == h.boot.trigPart then freezeConfig h else h

theorem calm_frozenFor {h : Hw} (hc : fon h F_AVE_STATUS_COMMIT_PENDING = false) (p : Nat) : Calm h (frozenFor h p) := by
  unfold frozenFor
  rw [freezeConfig_of_no_commit hc]
  exact .ite (.fset (by decide) _ _ _ _) (.refl h)

/-- The squares of a partition stop, but those that are off. -/
def stopCores (h : Hw) (l : List Nat) : Hw :=
  l.foldl (fun h c => if fget h F_CORE_STATUS_STATE c == 3 then h else fset h F_CORE_STATUS_STATE 0 c) h

theorem calm_stopCores (h : Hw) (l : List Nat) : Calm h (stopCores h l) :=
  .foldl (fun h c => .ite (.refl h) (.fset (f := F_CORE_STATUS_STATE) (by decide) h 0 c 0)) l h

/-- The partition's state says that it is down. -/
def markedDown (h : Hw) (p : Nat) : Hw := fset (loseCaches (frozenFor h p) p) F_PART_STATUS_STATE 3 0 p

theorem takeDown_hw (h : Hw) (p : Nat) : (takeDown h p).hw = stopCores (markedDown h p) (coresOf (markedDown h p) p) := rfl

theorem takeDown_ops (h : Hw) (p : Nat) : (takeDown h p).ops = scratchOps h p := rfl

theorem calm_markedDown {h : Hw} (hc : fon h F_AVE_STATUS_COMMIT_PENDING = false) (p : Nat) : Calm h (markedDown h p) :=
  (Calm.fset_latch (e := (F_PART_STATUS_STATE, 3)) (by decide) _ 0 p).step ((calm_loseCaches _ p).step (calm_frozenFor hc p))

theorem calm_takeDown {h : Hw} (hc : fon h F_AVE_STATUS_COMMIT_PENDING = false) (p : Nat) : Calm h (takeDown h p).hw := by
  rw [takeDown_hw]
  exact (calm_stopCores _ _).step (calm_markedDown hc p)

theorem takeDown_state (h : Hw) (p : Nat) : fget (takeDown h p).hw F_PART_STATUS_STATE 0 p = 3 := by
  rw [takeDown_hw]
  refine (calm_stopCores _ _).latch (F_PART_STATUS_STATE, 3) (by decide) 0 p ?_
  exact (fget_fset_same _ F_PART_STATUS_STATE 3 0 p).trans (by decide)

theorem takeDown_kyd (h : Hw) (p : Nat) (hc : fon h F_AVE_STATUS_COMMIT_PENDING = false) : (takeDown h p).hw.kyd = h.kyd := by
  have hstop : ∀ (h : Hw) l, (stopCores h l).kyd = h.kyd := fun h l => foldl_keeps Hw.kyd (fun h c => by split <;> rfl) l h
  have hlose : ∀ h : Hw, (loseCaches h p).kyd = h.kyd := fun h =>
    foldl_keeps Hw.kyd (fun h k => show (fset h F_SF_STATUS_CREDITS 0 k).kyd = h.kyd from rfl) _ _
  have hfreeze : (frozenFor h p).kyd = h.kyd := by
    unfold frozenFor
    rw [freezeConfig_of_no_commit hc]
    split <;> rfl
  rw [takeDown_hw, hstop]
  exact (hlose _).trans hfreeze

/-- Partitions go down one after the other. -/
def takeAllDown (l : List Nat) (h : Hw) : Eff := effEach l h fun p h => takeDown h p

/-- What holds after each partition that goes down holds after all of them. -/
theorem foldl_bind_induct {α : Type} (f : α → Hw → Eff) (P : Eff → Prop) (hP : ∀ e a, P e → P (e.bind (f a))) (l : List α) (e : Eff) (he : P e) :
    P (l.foldl (fun e a => e.bind (f a)) e) := by
  induction l generalizing e with
  | nil => exact he
  | cons a l ih => exact ih _ (hP e a he)

/-- An operation that clears scratchpad bytes. -/
def clearsScratch : MemOp → Prop
  | .scrClear _ _ => True
  | _ => False

/-- The mode controller stays, the records stay, and only scratchpads are cleared. -/
structure Downs (h : Hw) (e : Eff) : Prop where
  calm : Calm h e.hw
  kyd : e.hw.kyd = h.kyd
  ops : ∀ o ∈ e.ops, clearsScratch o

theorem Downs.bind {h : Hw} {e : Eff} (hc : fon h F_AVE_STATUS_COMMIT_PENDING = false) (d : Downs h e) (p : Nat) :
    Downs h (e.bind fun h => takeDown h p) := by
  have hc' : fon e.hw F_AVE_STATUS_COMMIT_PENDING = false := (calm_fon d.calm (by decide) 0 0).trans hc
  refine ⟨(calm_takeDown hc' p).step d.calm, (takeDown_kyd _ p hc').trans d.kyd, fun o ho => ?_⟩
  rcases List.mem_append.mp ho with ho | ho
  · exact d.ops o ho
  · rw [takeDown_ops, scratchOps] at ho
    obtain ⟨k, -, rfl⟩ := List.mem_map.mp ho
    trivial

theorem takeAllDown_downs {h : Hw} (hc : fon h F_AVE_STATUS_COMMIT_PENDING = false) (l : List Nat) : Downs h (takeAllDown l h) :=
  foldl_bind_induct _ (Downs h) (fun _ p d => d.bind hc p) l _ ⟨.refl h, rfl, by simp⟩

/-- Each partition of the list is down. -/
theorem foldl_takeDown_state (l : List Nat) (e : Eff) {p : Nat} (hc : fon e.hw F_AVE_STATUS_COMMIT_PENDING = false)
    (hp : p ∈ l ∨ fget e.hw F_PART_STATUS_STATE 0 p = 3) :
    fget (l.foldl (fun e p => e.bind fun h => takeDown h p) e).hw F_PART_STATUS_STATE 0 p = 3 := by
  induction l generalizing e with
  | nil => exact hp.resolve_left List.not_mem_nil
  | cons q l ih =>
    refine ih (e.bind fun h => takeDown h q) ((calm_fon (calm_takeDown hc q) (by decide) 0 0).trans hc) ?_
    by_cases hq : p = q
    · exact .inr (hq ▸ takeDown_state e.hw q)
    · exact hp.imp (fun hmem => (List.mem_cons.mp hmem).resolve_left hq)
        ((calm_takeDown hc q).latch (F_PART_STATUS_STATE, 3) (by decide) 0 p)

theorem takeAllDown_state {h : Hw} (hc : fon h F_AVE_STATUS_COMMIT_PENDING = false) {l : List Nat} {p : Nat} (hp : p ∈ l) :
    fget (takeAllDown l h).hw F_PART_STATUS_STATE 0 p = 3 := foldl_takeDown_state l _ hc (.inl hp)

theorem applyAll_clearsScratch_dram {ops : List MemOp} (hops : ∀ o ∈ ops, clearsScratch o) (m : Mem) : (m.applyAll ops).dram = m.dram := by
  induction ops generalizing m with
  | nil => rfl
  | cons o ops ih =>
    refine (ih (fun o ho => hops o (List.mem_cons_of_mem _ ho)) _).trans ?_
    have ho := hops o List.mem_cons_self
    cases o with
    | scrClear => rfl
    | _ => exact ho.elim

/-! ### The record -/

theorem coalesce_of_class_three (h : Hw) {r : ErrRec} (hr : r.cls = 3) (l : List ErrRec) : coalesce h r l = none := by
  induction l with
  | nil => rfl
  | cons o l ih => simp [coalesce, coalesces, hr, ih]

/-- A record of class 3 is the newest of the ring. -/
theorem logRec_head (h : Hw) {r : ErrRec} (hr : r.cls = 3) : (logRec h r).kyd.ring.head?.map (·.cls) = some 3 := by
  have hnone := coalesce_of_class_three h hr h.kyd.ring
  simp only [logRec, hnone]
  exact congrArg some hr

theorem logRec_sup (h : Hw) (r : ErrRec) : (logRec h r).sup = h.sup := by
  simp only [logRec]
  split <;> rfl

/-! ### Entry -/

/-- What the mode controller notes of the cause of an entry from outside Contain. -/
def causeNoted (h : Hw) (cause : ContainCause) : Hw :=
  { h with mod := { h.mod with containTempOnly := (cause == .junction), deadDies := deadDie h.mod.deadDies cause } }

/-- The fields of the mode and what is held after the entry. -/
def containHeld (h : Hw) (temp : Bool) : Hw :=
  let h := fset (fset (fset h F_MODE_STATUS_MODE 7) F_MODE_STATUS_LAST_CAUSE (if temp then 5 else 4)) F_MODE_STATUS_TARGET 7
  runGates (holdEngines (fset h F_RBT_STATUS_HELD 1) true) false

/-- Partitions that ran are kept from running. -/
def keepFromRunning (h : Hw) : Hw :=
  (List.range 8).foldl (fun h p => if (fget h F_PART_STATUS_STATE 0 p == 1) = true then fset h F_PART_STATUS_STATE 4 0 p else h) h

/-- The entry after the partitions went down. -/
def contained (h : Hw) (cause : ContainCause) : Hw :=
  let h := raiseSource (keepFromRunning (containHeld h (cause == .junction))) srcMode
  if stopsAvenue cause then stopAvenue h else h

theorem enterContain_enters {h : Hw} (cause : ContainCause) (parts : List Nat) (h2 : 2 ≤ modeNow h) (h7 : modeNow h ≠ 7)
    (hv : bit h.sup.voltOk 7 = true) (hin : fon h F_MODE_STATUS_IN_TRANSITION = false) :
    enterContain h cause parts = (takeAllDown parts (causeNoted h cause)).map fun h => contained h cause := by
  have hlow : decide (modeNow h < 2) = false := decide_eq_false (by omega)
  have hfirst : (modeNow h != 7) = true := by simpa using h7
  have hkeep : ∀ x : Hw, (List.range 8).foldl (fun h p =>
      if (fget h F_PART_STATUS_STATE 0 p == 1) = true then fset h F_PART_STATUS_STATE 4 0 p else h) x = keepFromRunning x := fun _ => rfl
  simp only [enterContain, abandonTransition, hlow, hfirst, hv, hin, hkeep, Bool.not_true, Bool.or_false, Bool.true_or, Bool.and_true,
    Bool.false_and, Bool.false_eq_true, if_false, if_true]
  rfl

/-! ### What the entry leaves -/

/-- A partition that does not run is left as it is. -/
theorem keepFromRunning_down (h : Hw) {p : Nat} (hp : fget h F_PART_STATUS_STATE 0 p = 3) :
    fget (keepFromRunning h) F_PART_STATUS_STATE 0 p = 3 := by
  unfold keepFromRunning
  generalize List.range 8 = l
  induction l generalizing h with
  | nil => exact hp
  | cons q l ih =>
    refine ih _ ?_
    beta_reduce
    split
    · next hruns =>
      rw [fget_fset_ne _ _ _ _ _ _ _ _ fun hk => ?_]
      · exact hp
      · have hsame : fget h F_PART_STATUS_STATE 0 q = fget h F_PART_STATUS_STATE 0 p := by simp only [fget, hk]
        rw [hsame, hp] at hruns
        exact absurd hruns (by decide)
    · exact hp

theorem fget_keepFromRunning (h : Hw) {g : Field} (hg : g.id ≠ F_PART_STATUS_STATE.id) (a b : Nat) :
    fget (keepFromRunning h) g a b = fget h g a b :=
  foldl_keeps (fun h => fget h g a b) (fun h p => by
    split
    · exact fget_fset_id _ _ _ _ _ _ _ _ hg.symm
    · rfl) _ h

/-- The fields that an entry sets after those of the mode. -/
def afterHeldIds : List Nat := [F_AVE_STATUS_RUNNING.id, F_INT_SRC_STATE_EVENTS.id, F_INT_SRC_STATE_PENDING.id, F_PART_STATUS_STATE.id]

theorem fget_contained_stopAvenue (h : Hw) (cause : ContainCause) {g : Field} (hg : g.id ≠ F_AVE_STATUS_RUNNING.id) (a b : Nat) :
    fget (contained h cause) g a b = fget (raiseSource (keepFromRunning (containHeld h (cause == .junction))) srcMode) g a b := by
  simp only [contained]
  split
  · exact fget_stopAvenue _ hg a b
  · rfl

theorem fget_contained (h : Hw) (cause : ContainCause) {g : Field} (hg : g.id ∉ afterHeldIds) (a b : Nat) :
    fget (contained h cause) g a b = fget (containHeld h (cause == .junction)) g a b := by
  simp only [afterHeldIds, List.mem_cons, List.not_mem_nil, or_false, not_or] at hg
  obtain ⟨hrun, hev, hpend, hpart⟩ := hg
  rw [fget_contained_stopAvenue _ _ hrun, fget_raiseSource _ _ (by simp [hev, hpend]), fget_keepFromRunning _ hpart]

theorem contained_mode (h : Hw) (cause : ContainCause) : modeNow (contained h cause) = 7 := by
  have hfits : 7 % 2 ^ F_MODE_STATUS_MODE.width = 7 := by decide
  rw [modeNow, fget_contained _ _ (by decide)]
  simp only [containHeld]
  rw [fget_runGates _ _ (by decide), fget_holdEngines_other _ _ (by decide)]
  simp (disch := decide) only [fget_fset_id, fget_fset_same, hfits]

theorem contained_lastCause (h : Hw) (cause : ContainCause) :
    fget (contained h cause) F_MODE_STATUS_LAST_CAUSE = if cause = .junction then 5 else 4 := by
  rw [fget_contained _ _ (by decide)]
  simp only [containHeld]
  rw [fget_runGates _ _ (by decide), fget_holdEngines_other _ _ (by decide)]
  simp (disch := decide) only [fget_fset_id, fget_fset_same]
  by_cases hj : cause = .junction
  · simp only [hj]
    decide
  · simp only [beq_eq_false_iff_ne.mpr hj, hj, if_false]
    decide

theorem contained_rbt (h : Hw) (cause : ContainCause) : fget (contained h cause) F_RBT_STATUS_HELD = 1 := by
  rw [fget_contained _ _ (by decide)]
  simp only [containHeld]
  rw [fget_runGates _ _ (by decide), fget_holdEngines_other _ _ (by decide), fget_fset_same]
  decide

theorem contained_engines (h : Hw) (cause : ContainCause) (q : Fin 24) : fget (contained h cause) F_ENG_STATUS_HELD q.val = 1 := by
  rw [fget_contained _ _ (by decide)]
  simp only [containHeld]
  rw [fget_runGates _ _ (by decide), holdEngines_held]
  rfl

theorem contained_stops (h : Hw) {cause : ContainCause} (hc : stopsAvenue cause = true) :
    fget (contained h cause) F_AVE_STATUS_RUNNING = 0 := by
  simp only [contained, hc, if_true]
  exact stopAvenue_running _

theorem contained_runs_on (h : Hw) {cause : ContainCause} (hc : stopsAvenue cause = false) :
    fget (contained h cause) F_AVE_STATUS_RUNNING = fget h F_AVE_STATUS_RUNNING := by
  simp only [contained, hc, Bool.false_eq_true, if_false]
  rw [fget_raiseSource _ _ (by decide), fget_keepFromRunning _ (by decide)]
  simp only [containHeld]
  rw [fget_runGates _ _ (by decide), fget_holdEngines_other _ _ (by decide)]
  simp (disch := decide) only [fget_fset_id]

theorem contained_pending (h : Hw) (cause : ContainCause) : fget (contained h cause) F_INT_SRC_STATE_PENDING 0 srcMode = 1 := by
  rw [fget_contained_stopAvenue _ _ (by decide), raiseSource_pending _ (by decide)]

theorem contained_down (h : Hw) (cause : ContainCause) {p : Nat} (hp : fget h F_PART_STATUS_STATE 0 p = 3) :
    fget (contained h cause) F_PART_STATUS_STATE 0 p = 3 := by
  rw [fget_contained_stopAvenue _ _ (by decide), fget_raiseSource _ _ (by decide)]
  refine keepFromRunning_down _ ?_
  simp only [containHeld]
  rw [fget_runGates _ _ (by decide), fget_holdEngines_other _ _ (by decide)]
  simp (disch := decide) only [fget_fset_id, hp]

theorem raiseSource_kyd (h : Hw) (i : Nat) : (raiseSource h i).kyd = h.kyd := by
  simp only [raiseSource]
  split
  · rfl
  · show (if _ then _ else h : Hw).kyd = h.kyd
    split <;> rfl

theorem holdEngines_kyd (h : Hw) (on : Bool) : (holdEngines h on).kyd = h.kyd :=
  foldl_keeps Hw.kyd (fun h q => show (fset h F_ENG_STATUS_HELD (b2n on) q).kyd = h.kyd from rfl) _ h

theorem runGates_kyd (h : Hw) (on : Bool) : (runGates h on).kyd = h.kyd :=
  foldl_keeps Hw.kyd (fun h g => show (fset h F_GATE_STATUS_RUN (b2n (on && !ownerResets h g)) g).kyd = h.kyd from rfl) _ h

theorem containHeld_kyd (h : Hw) (temp : Bool) : (containHeld h temp).kyd = h.kyd := by
  simp only [containHeld]
  rw [runGates_kyd, holdEngines_kyd]
  rfl

theorem keepFromRunning_kyd (h : Hw) : (keepFromRunning h).kyd = h.kyd := by
  unfold keepFromRunning
  exact foldl_keeps Hw.kyd (fun h p => by split <;> rfl) _ h

theorem stopAvenue_kyd (h : Hw) : (stopAvenue h).kyd = h.kyd := rfl

theorem contained_kyd (h : Hw) (cause : ContainCause) : (contained h cause).kyd = h.kyd := by
  have hraise : (raiseSource (keepFromRunning (containHeld h (cause == .junction))) srcMode).kyd = h.kyd := by
    rw [raiseSource_kyd, keepFromRunning_kyd, containHeld_kyd]
  simp only [contained]
  split
  · rw [stopAvenue_kyd, hraise]
  · exact hraise

/-! ### CONTAIN_ENTRY -/

/-- The state that stores the record of a fatal error. -/
def fatalLogged (h : Hw) (f : FatalCause) : Hw :=
  let b := causeBlock f.cause
  let code := if f.cause == .junction then 0xFF04 else (Config.openCode b).toNat
  let part := match onesOf 8 f.parts.toNat with | p :: _ => partByte p false | [] => 0
  logCode h 3 b 0 code 0 part (b2n (stopsAvenue f.cause) + 2 * b2n (decide (2 ≤ modeNow h) && bit h.sup.voltOk 7))

theorem calm_fatalLogged (h : Hw) (f : FatalCause) : Calm h (fatalLogged h f) := calm_logCode _ _ _ _ _ _ _ _

theorem fatalLogged_sup (h : Hw) (f : FatalCause) : (fatalLogged h f).sup = h.sup := logRec_sup _ _

theorem fatalLogged_head (h : Hw) (f : FatalCause) : (fatalLogged h f).kyd.ring.head?.map (·.cls) = some 3 := logRec_head _ rfl

theorem execContainEntry_eq (f : FatalCause) (s : State) :
    exec (.containEntry f) s = .next (s.act fun h _ => enterContain (fatalLogged h f) f.cause (onesOf 8 f.parts.toNat)) := rfl

theorem mem_onesOf {n v i : Nat} (hi : i < n) (hb : bit v i = true) : i ∈ onesOf n v :=
  List.mem_filter.mpr ⟨List.mem_range.mpr hi, hb⟩

theorem stopsAvenue_iff (cause : ContainCause) :
    stopsAvenue cause = true ↔ cause = .avenueRail ∨ cause = .clkxLock ∨ ∃ d, cause = .linkDie d := by
  cases cause <;> simp [stopsAvenue]

/-- A fatal error takes a module in M2 to M6 to Contain. -/
theorem containEntry_contains (cause : ContainCause) (parts : BitVec 8) (s : State) (h2 : 2 ≤ modeNow s.hw) (h7 : modeNow s.hw ≠ 7)
    (hv : bit s.hw.sup.voltOk 7 = true) (hin : fon s.hw F_MODE_STATUS_IN_TRANSITION = false)
    (hcommit : fon s.hw F_AVE_STATUS_COMMIT_PENDING = false) :
    yields (.containEntry ⟨cause, parts⟩) s fun t =>
      modeNow t.hw = 7 ∧ fget t.hw F_MODE_STATUS_LAST_CAUSE = (if cause = .junction then 5 else 4) ∧
      fget t.hw F_RBT_STATUS_HELD = 1 ∧ (∀ q : Fin 24, fget t.hw F_ENG_STATUS_HELD q.val = 1) ∧
      (cause = .avenueRail ∨ cause = .clkxLock ∨ (∃ d, cause = .linkDie d) → fget t.hw F_AVE_STATUS_RUNNING = 0) ∧
      (cause = .junction ∨ cause = .chain ∨ cause = .gridLink ∨ cause = .other →
        fget t.hw F_AVE_STATUS_RUNNING = fget s.hw F_AVE_STATUS_RUNNING) ∧
      (∀ p : Fin 8, bit parts.toNat p.val = true → fget t.hw F_PART_STATUS_STATE 0 p.val = 3) ∧
      t.hw.kyd.ring.head?.map (·.cls) = some 3 ∧ fget t.hw F_INT_SRC_STATE_PENDING 0 srcMode = 1 ∧
      t.mem.dram = s.mem.dram ∧ (parts = 0 → sameMemory s t) ∧ t.pending = s.pending := by
  have hlog := calm_fatalLogged s.hw ⟨cause, parts⟩
  have hhead := fatalLogged_head s.hw ⟨cause, parts⟩
  have hsup := fatalLogged_sup s.hw ⟨cause, parts⟩
  refine ⟨_, execContainEntry_eq _ _, ?_⟩
  simp only [State.act, State.land]
  generalize fatalLogged s.hw ⟨cause, parts⟩ = h at hlog hhead hsup ⊢
  rw [enterContain_enters (h := h) cause (onesOf 8 parts.toNat) (by rw [modeNow, hlog.field _ (by decide)]; exact h2)
    (by rw [modeNow, hlog.field _ (by decide)]; exact h7) (by rw [hsup]; exact hv) ((calm_fon hlog (by decide) 0 0).trans hin)]
  have hc : fon (causeNoted h cause) F_AVE_STATUS_COMMIT_PENDING = false := (calm_fon hlog (by decide) 0 0).trans hcommit
  have hdown := takeAllDown_downs hc (onesOf 8 parts.toNat)
  have hstate : ∀ p : Fin 8, bit parts.toNat p.val = true →
      fget (takeAllDown (onesOf 8 parts.toNat) (causeNoted h cause)).hw F_PART_STATUS_STATE 0 p.val = 3 := fun p hp =>
    takeAllDown_state hc (mem_onesOf p.isLt hp)
  have hnone : parts = 0 → (takeAllDown (onesOf 8 parts.toNat) (causeNoted h cause)).ops = [] := by rintro rfl; rfl
  generalize takeAllDown (onesOf 8 parts.toNat) (causeNoted h cause) = e at hdown hstate hnone ⊢
  refine ⟨contained_mode _ _, contained_lastCause _ _, contained_rbt _ _, contained_engines _ _, fun hs => ?_, fun hr => ?_, fun p hp => ?_,
    ?_, contained_pending _ _, ?_, fun h0 => ⟨?_, rfl⟩, trivial⟩
  · exact contained_stops _ ((stopsAvenue_iff cause).mpr hs)
  · have hrun : stopsAvenue cause = false := by rcases hr with rfl | rfl | rfl | rfl <;> rfl
    exact ((contained_runs_on _ hrun).trans (hdown.calm.field _ (by decide) 0 0)).trans (hlog.field _ (by decide) 0 0)
  · exact contained_down _ _ (hstate p hp)
  · show (contained e.hw cause).kyd.ring.head?.map _ = _
    rw [contained_kyd, hdown.kyd]
    exact hhead
  · exact applyAll_clearsScratch_dram (fun o ho => hdown.ops o (List.mem_of_mem_filter ho)) s.mem
  · show s.mem.applyAll (landed s.hw e.ops) = s.mem
    rw [hnone h0]
    rfl

end Sys2Proof.Proofs


/-!
JTAG_INSTRUCTION, and the obligation on transitions, Contain and the TAP.
-/

namespace Sys2Proof.Proofs
open Sys2Proof Sys2Proof.Machine

/-- The TAP with an instruction that drives pins: the instruction is one of EXTEST and the maker's own. -/
def drivesOf (cells : BitVec 23) (op : JtagInsn) : Prop := op ∈ [JtagInsn.extest cells, .drivesPins cells]

/-- The instruction is loaded, and the TAP rests. -/
def tapLoaded (op : JtagInsn) (h : Hw) : Hw := { h with sup := { h.sup with jtagInsn := some op, tap := .runTestIdle } }

/-- The scan register takes the cells that the instruction brings. -/
def tapScanned (op : JtagInsn) (h : Hw) : Hw :=
  { tapLoaded op h with sup := { (tapLoaded op h).sup with scan := scanAfter (tapLoaded op h) } }

theorem exec_jtagInstruction (op : JtagInsn) (s : State) : exec (.jtagInstruction op) s = .next (s.upd (tapScanned op)) := rfl

/-- An instruction that drives pins acts as BYPASS outside M0 and M1 (R40). -/
theorem tapBypass_of_drives {cells : BitVec 23} {op : JtagInsn} (hop : drivesOf cells op) (h : Hw) :
    tapBypass (tapScanned op h) = decide (2 ≤ modeNow h) := by
  simp only [drivesOf, List.mem_cons, List.not_mem_nil, or_false] at hop
  rcases hop with rfl | rfl <;> rfl

theorem scan_of_drives {cells : BitVec 23} {op : JtagInsn} (hop : drivesOf cells op) (h : Hw) :
    (tapScanned op h).sup.scan = if 2 ≤ modeNow h then h.sup.scan else cells := by
  have hbypass : tapBypass (tapLoaded op h) = decide (2 ≤ modeNow h) := tapBypass_of_drives hop h
  show scanAfter (tapLoaded op h) = _
  simp only [scanAfter, hbypass, decide_eq_true_eq]
  split
  · rfl
  · simp only [drivesOf, List.mem_cons, List.not_mem_nil, or_false] at hop
    rcases hop with rfl | rfl <;> rfl

/-- What drives an output of its own does not look at the TAP. -/
theorem ownOutput_tapScanned (op : JtagInsn) (h : Hw) (o : OutPin) : ownOutput (tapScanned op h) o = ownOutput h o := by
  cases o <;> rfl

theorem scanDrives_of_bypass {h : Hw} (hb : tapBypass h = true) : scanDrives h = false := by simp [scanDrives, hb]

/-- With the TAP in BYPASS every output is driven by the module itself. -/
theorem outputOf_of_bypass {h : Hw} (hb : tapBypass h = true) (o : OutPin) : outputOf h o = ownOutput h o := by
  simp only [outputOf, scanDrives_of_bypass hb, Bool.false_and, Bool.false_eq_true, if_false]
  split <;> rfl

theorem scanDrives_of_drives {cells : BitVec 23} {op : JtagInsn} (hop : drivesOf cells op) {h : Hw} (hm : modeNow h < 2) :
    scanDrives (tapScanned op h) = true := by
  have hbypass : tapBypass (tapScanned op h) = false := (tapBypass_of_drives hop h).trans (decide_eq_false (by omega))
  simp only [drivesOf, List.mem_cons, List.not_mem_nil, or_false] at hop
  rcases hop with rfl | rfl <;> simp only [scanDrives, hbypass] <;> rfl

/-- Outside M0 and M1 an instruction that drives pins changes nothing that the module drives. -/
theorem jtag_bypassed {cells : BitVec 23} {op : JtagInsn} (hop : drivesOf cells op) {h : Hw} (hm : 2 ≤ modeNow h) :
    tapBypass (tapScanned op h) = true ∧ (tapScanned op h).sup.scan = h.sup.scan ∧
    ∀ o, outputOf (tapScanned op h) o = ownOutput h o := by
  have hbypass : tapBypass (tapScanned op h) = true := (tapBypass_of_drives hop h).trans (decide_eq_true hm)
  refine ⟨hbypass, ?_, fun o => ?_⟩
  · rw [scan_of_drives hop, if_pos hm]
  · rw [outputOf_of_bypass hbypass, ownOutput_tapScanned]

/-- A pin with a cell of the scan register takes the level of the cell, or an open-drain one is low or released. -/
theorem outputOf_of_cell {h : Hw} (hd : scanDrives h = true) (hr : allReleased h = false) {o : OutPin} {n : Nat} (hn : scanCell o = some n) :
    outputOf h o = if openDrain o && h.sup.scan.getLsbD n then .released else .level (h.sup.scan.getLsbD n) := by
  simp only [outputOf, hn, hd, hr, Bool.not_false, Bool.and_self, if_true]

/-- In M0 and M1 the cells drive the pins. -/
theorem jtag_drives {cells : BitVec 23} {op : JtagInsn} (hop : drivesOf cells op) {h : Hw} (hm : modeNow h < 2) :
    tapBypass (tapScanned op h) = false ∧ (tapScanned op h).sup.scan = cells ∧ (allReleased h = false →
      (∀ n, outputOf (tapScanned op h) (.trigOut n) = .level (cells.getLsbD (2 + n.val))) ∧
      outputOf (tapScanned op h) .alarmN = (if cells.getLsbD 18 then .released else .level false) ∧
      ∀ g, outputOf (tapScanned op h) (.downlink g) = ownOutput h (.downlink g)) := by
  have hscan : (tapScanned op h).sup.scan = cells := by rw [scan_of_drives hop, if_neg (by omega)]
  refine ⟨(tapBypass_of_drives hop h).trans (decide_eq_false (by omega)), hscan, fun hr => ?_⟩
  have hcell := fun o n => outputOf_of_cell (scanDrives_of_drives hop hm) (show allReleased (tapScanned op h) = false from hr) (o := o) (n := n)
  refine ⟨fun n => ?_, ?_, fun g => ?_⟩
  · rw [hcell _ _ rfl, hscan]
    rfl
  · rw [hcell _ _ rfl, hscan]
    cases cells.getLsbD 18 <;> rfl
  · exact ownOutput_tapScanned op h (.downlink g)

/-- Settles O11: Roundabout's reports and the loss of partitions leave the mode controller alone, and what arriving at a mode, entering
Contain and loading a TAP instruction write is what the clauses read. -/
theorem transitionsEndAndFatalErrorsContain : Obligations.TransitionsEndAndFatalErrorsContain := by
  unfold Obligations.TransitionsEndAndFatalErrorsContain
  refine ⟨modeTransitionEnd_reaches, modeTransitionEnd_reaches_two, fun s => execModeTransitionEnd_waits, containEntry_contains,
    exec_jtagInstruction, fun cells op s hop => ⟨_, exec_jtagInstruction op s, ⟨rfl, rfl⟩, rfl, jtag_bypassed hop, jtag_drives hop⟩⟩

end Sys2Proof.Proofs


/-!
The register table: a number names one register, a field's number one field, and an access gives a register of the table.
-/

namespace Sys2Proof.Proofs
open Sys2Proof Sys2Proof.Machine

theorem allRegs_at_id : ∀ r ∈ allRegs, allRegs[r.id]? = some r := by decide +kernel
theorem allFields_at_id : ∀ f ∈ allFields, allFields[f.id]? = some f := by decide +kernel

/-- A register of the table is the one with its number. -/
theorem reg_eq_of_id {r x : Reg} (hr : r ∈ allRegs) (hx : allRegs[x.id]? = some x) (hid : r.id = x.id) : r = x := by
  have hat := allRegs_at_id r hr
  rw [hid, hx] at hat
  exact (Option.some.inj hat).symm

theorem field_eq_of_id {f g : Field} (hf : f ∈ allFields) (hg : g ∈ allFields) (hid : f.id = g.id) : f = g := by
  have hat := allFields_at_id f hf
  rw [hid, allFields_at_id g hg] at hat
  exact (Option.some.inj hat).symm

theorem mem_allFields_of_mem_fields {r : Reg} {f : Field} (hf : f ∈ r.fields) : f ∈ allFields := (List.mem_filter.mp hf).1

theorem shadowFields_sub : ∀ f ∈ shadowFields, f ∈ allFields := by decide +kernel

/-- The fields of a register have different numbers. -/
theorem fields_pairwise (r : Reg) : r.fields.Pairwise fun f g => f.id ≠ g.id := by
  have hall : allFields.Pairwise fun f g => f.id ≠ g.id := by decide +kernel
  exact hall.sublist List.filter_sublist

/-! ### Accesses -/

theorem regAt_mem {o : Nat} {r : Reg} {i j : Nat} (ha : regAt o = some (r, i, j)) : r ∈ allRegs ∧ i < r.ninst := by
  obtain ⟨x, hx, hsome⟩ := List.exists_of_findSome?_eq_some ha
  split at hsome
  · next hin =>
    obtain ⟨k, -, hk⟩ := Option.map_eq_some_iff.mp hsome
    simp only [Bool.and_eq_true, decide_eq_true_eq] at hin
    obtain ⟨⟨hlo, hhi⟩, -⟩ := hin
    injection hk with hr hij
    injection hij with hi hj
    subst hr hi
    exact ⟨hx, by omega⟩
  · exact absurd hsome (by simp)

/-- What an access that is performed has met. -/
theorem regAccess_eq_some {h : Hw} {who : Requester} {addr size : Nat} {r : Reg} {i j : Nat} :
    regAccess h who addr size = some (r, i, j) ↔
      (controlBase ≤ addr ∧ addr < controlBase + 2 ^ 30) ∧ regAt (addr - controlBase) = some (r, i, j) ∧ served h who r = true ∧
        ((size = 8 ∧ addr % 8 = 0) ∨ (size = 4 ∧ addr % 4 = 0 ∧ halves r = true)) := by
  have hout : (decide (addr < controlBase) || decide (controlBase + 2 ^ 30 ≤ addr)) = true ↔
      ¬(controlBase ≤ addr ∧ addr < controlBase + 2 ^ 30) := by
    simp only [Bool.or_eq_true, decide_eq_true_eq]
    omega
  unfold regAccess
  by_cases hin : controlBase ≤ addr ∧ addr < controlBase + 2 ^ 30
  · rw [if_neg (fun h => hout.mp h hin)]
    cases hat : regAt (addr - controlBase) with
    | none => simp
    | some p =>
      obtain ⟨r', i', j'⟩ := p
      simp only [Option.ite_none_right_eq_some, Bool.and_eq_true, Bool.or_eq_true, beq_iff_eq, Option.some.injEq, Prod.mk.injEq, and_assoc]
      constructor
      · rintro ⟨hs, hsize, rfl, rfl, rfl⟩
        exact ⟨hin.1, hin.2, rfl, rfl, rfl, hs, hsize⟩
      · rintro ⟨-, -, rfl, rfl, rfl, hs, hsize⟩
        exact ⟨hs, hsize, rfl, rfl, rfl⟩
  · rw [if_pos (hout.mpr hin)]
    simp only [reduceCtorEq, hin, false_and]

theorem regAccess_mem {h : Hw} {who : Requester} {addr size : Nat} {r : Reg} {i j : Nat} (ha : regAccess h who addr size = some (r, i, j)) :
    r ∈ allRegs := (regAt_mem (regAccess_eq_some.mp ha).2.1).1

theorem regAccess_inst {h : Hw} {who : Requester} {addr size : Nat} {r : Reg} {i j : Nat} (ha : regAccess h who addr size = some (r, i, j)) :
    i < r.ninst := (regAt_mem (regAccess_eq_some.mp ha).2.1).2

theorem regAccess_served {h : Hw} {who : Requester} {addr size : Nat} {r : Reg} {i j : Nat}
    (ha : regAccess h who addr size = some (r, i, j)) : served h who r = true := (regAccess_eq_some.mp ha).2.2.1

theorem halves_iff (r : Reg) : halves r = true ↔ ∀ f ∈ r.fields, f.acc = .rw ∨ f.acc = .rwl := by
  simp [halves, List.all_eq_true]

end Sys2Proof.Proofs


/-!
A register write: bus errors, the word that takes effect, and which registers have a command.
-/

namespace Sys2Proof.Proofs
open Sys2Proof Sys2Proof.Machine

/-! ### The word and the state it acts on -/

/-- The state in which an access acts: its square is awake, and no bus error stands. -/
def accessed (s : State) (r : Reg) (i : Nat) : State := s.upd fun h => setBusErr (wakeFor h r i) false

/-- The word of a register after a write of `size` bytes. -/
def wordWritten (h : Hw) (r : Reg) (i j addr size data : Nat) : Nat :=
  let old := regVal (flushShadow h) r i j
  if size == 8 then data % 2 ^ 64
  else if addr % 8 == 0 then old / 2 ^ 32 * 2 ^ 32 + data % 2 ^ 32
  else old % 2 ^ 32 + data % 2 ^ 32 * 2 ^ 32

/-- What a word does to a register: an event or a clear, a command, a command without an action, or a write. -/
def performed (who : Requester) (r : Reg) (i j v : Nat) (s : State) : State :=
  if r.id == R_INT_SRC_STATE.id then writeSrcState who j v s
  else
    match regCommand who r i j v s with
    | some o => after s o
    | none =>
      if r.id == R_HOSTFN_DLOG_CFG.id then
        let s := s.upd fun h => writeReg h who r i j v
        if fieldVal F_HOSTFN_DLOG_CFG_CMD v == 1 then after s (execSync who (Fin.ofNat 256 i) s) else s
      else
        match cmdRegOf r with
        | some c => s.upd fun h => ifMay h who r i j fun h => noAction h c i j
        | none => s.upd fun h => writeReg h who r i j v

theorem exec_registerWrite_none {who : Requester} {addr size : Nat} {s : State} (ha : regAccess s.hw who addr size = none) (data : BitVec 64) :
    changes (.registerWrite who addr size data) s (setBusErr · true) := by
  show Host.Outcome.next (regWrite who addr size data.toNat s) = _
  simp only [regWrite, ha]
  rfl

theorem exec_registerWrite_some {who : Requester} {addr size : Nat} {s : State} {r : Reg} {i j : Nat}
    (ha : regAccess s.hw who addr size = some (r, i, j)) (data : BitVec 64) :
    exec (.registerWrite who addr size data) s =
      .next (performed who r i j (wordWritten (accessed s r i).hw r i j addr size data.toNat) (accessed s r i)) := by
  show Host.Outcome.next (regWrite who addr size data.toNat s) = _
  simp only [regWrite, ha]
  rfl

/-- A write of 64 bits is of the word itself. -/
theorem wordWritten_eight (h : Hw) (r : Reg) (i j addr : Nat) (data : BitVec 64) : wordWritten h r i j addr 8 data.toNat = data.toNat :=
  Nat.mod_eq_of_lt data.isLt

theorem flushShadow_setBusErr (h : Hw) (b : Bool) : flushShadow (setBusErr h b) = setBusErr (flushShadow h) b := by
  unfold flushShadow
  simp only
  generalize hw : h.ave.waiting = l
  have hl : (setBusErr h b).ave.waiting = l := hw
  rw [hl]
  clear hw hl
  induction l generalizing h with
  | nil => rfl
  | cons w l ih =>
    refine Eq.trans ?_ (ih _)
    simp only [List.foldl_cons]
    split <;> rfl

theorem wordWritten_setBusErr (h : Hw) (b : Bool) (r : Reg) (i j addr size data : Nat) :
    wordWritten (setBusErr h b) r i j addr size data = wordWritten h r i j addr size data := by
  simp only [wordWritten, flushShadow_setBusErr]
  rfl

theorem accessed_of_awake {s : State} {r : Reg} {i : Nat} (hw : wakeFor s.hw r i = s.hw) :
    accessed s r i = s.upd fun h => setBusErr h false := by
  simp only [accessed, State.upd, hw]

/-- Only accesses to windows of cores, caches and slices wake a square. -/
theorem wakeFor_of_window {r : Reg} (hr : r.n0 ∉ [0x100, 0x200, 0x300]) (h : Hw) (i : Nat) : wakeFor h r i = h := by
  simp only [List.mem_cons, List.not_mem_nil, or_false, not_or] at hr
  obtain ⟨h1, h2, h3⟩ := hr
  simp [wakeFor, h1, h2, h3]

/-! ### Registers with a command -/

/-- The registers that a word written commands, but for INT_SRC_STATE and HOSTFN_DLOG_CFG. -/
def commandRegs : List Reg :=
  [R_MODE_REQUEST, R_PART_RESET, R_BOOT_CTRL, R_GATE_DL_CMD, R_GATE_CTRL, R_AVE_COMMIT, R_AVE_VOTE, R_AVE_MT_CMD, R_RBT_PART_CMD, R_RBT_PORT_CMD,
   R_QMC_CTRL, R_ENG_RESET, R_ENG_QP_SUBMIT, R_ENG_QP_ABORT, R_CORE_CMD, R_CM_CMD, R_LLC_CMD, R_STR_CMD, R_PART_PWR_REQ, R_PART_QUOTA, R_TS_PORT,
   R_HOSTFN_CTRL, R_HOSTFN_MSIX_RAISE, R_HOSTFN_WIN_COMMIT, R_BLVD_FREE, R_PMU_GLOBAL]

theorem regCommand_of_not_commandReg {r : Reg} (hr : r.id ∉ commandRegs.map (·.id)) (who : Requester) (i j v : Nat) (s : State) :
    regCommand who r i j v s = none := by
  have hne : ∀ x : Reg, x.id ∈ commandRegs.map (·.id) → (r.id == x.id) = false := fun x hx =>
    beq_eq_false_iff_ne.mpr fun heq => hr (heq ▸ hx)
  simp (disch := decide) only [regCommand, hne, Bool.false_eq_true, if_false]

theorem not_mem_ids {l : List Reg} (hl : ∀ x ∈ l, allRegs[x.id]? = some x) {r : Reg} (hr : r ∈ allRegs) (hn : r ∉ l) :
    r.id ∉ l.map (·.id) := by
  rintro hmem
  obtain ⟨x, hx, hid⟩ := List.mem_map.mp hmem
  exact hn (reg_eq_of_id hr (hl x hx) hid.symm ▸ hx)

theorem performed_write {r : Reg} (hsrc : r.id ≠ R_INT_SRC_STATE.id) (hr : r.id ∉ commandRegs.map (·.id)) (hc : cmdRegOf r = none)
    (who : Requester) (i j v : Nat) (s : State) : performed who r i j v s = s.upd fun h => writeReg h who r i j v := by
  have hdlog : r.id ≠ R_HOSTFN_DLOG_CFG.id := by
    intro heq
    have hfind := List.find?_eq_none.mp hc ⟨F_HOSTFN_DLOG_CFG_CMD, F_HOSTFN_DLOG_CFG_RESULT, F_HOSTFN_DLOG_CFG_SEQ, [1]⟩ (by simp [cmdRegs])
    exact hfind (by rw [heq]; rfl)
  simp only [performed, beq_eq_false_iff_ne.mpr hsrc, beq_eq_false_iff_ne.mpr hdlog, regCommand_of_not_commandReg hr, hc, Bool.false_eq_true, if_false]

theorem performed_command {r : Reg} (hsrc : r.id ≠ R_INT_SRC_STATE.id) {who : Requester} {i j v : Nat} {s t : State}
    (hc : regCommand who r i j v s = some (.next t)) : performed who r i j v s = t := by
  simp only [performed, beq_eq_false_iff_ne.mpr hsrc, hc, Bool.false_eq_true, if_false, after]

/-- A command of a register other than INT_SRC_STATE is what the word performs. -/
theorem exec_registerWrite_command {who : Requester} {addr : Nat} {s : State} {r : Reg} {i j : Nat}
    (ha : regAccess s.hw who addr 8 = some (r, i, j)) (data : BitVec 64) (hsrc : r ≠ R_INT_SRC_STATE) {t : State}
    (hc : regCommand who r i j data.toNat (accessed s r i) = some (.next t)) : exec (.registerWrite who addr 8 data) s = .next t := by
  rw [exec_registerWrite_some ha, wordWritten_eight]
  exact congrArg _ (performed_command (fun hid => hsrc (reg_eq_of_id (regAccess_mem ha) rfl hid)) hc)

end Sys2Proof.Proofs


/-!
Writes by access type: what each field of a register takes, and the registers without a rule of their own.
-/

namespace Sys2Proof.Proofs
open Sys2Proof Sys2Proof.Machine

/-! ### One field -/

/-- What a field with value `old` reads after the word `v` is written (R6, R7). -/
def taken (locked : Bool) (f : Field) (v old : Nat) : Nat :=
  match f.acc with
  | .rw => fieldVal f v
  | .rwl => if locked then old else fieldVal f v
  | .w1c => (old - old.land (fieldVal f v)) % 2 ^ f.width
  | .w1s => old.lor (fieldVal f v) % 2 ^ f.width
  | .ro | .rc | .wo => old

theorem fieldVal_fits (f : Field) (v : Nat) : fieldVal f v % 2 ^ f.width = fieldVal f v := Nat.mod_mod _ _

theorem fget_writeField (locked : Bool) (h : Hw) (f : Field) (i j v : Nat) :
    fget (writeField locked h f i j v) f i j = taken locked f v (fget h f i j) := by
  unfold writeField taken
  cases f.acc with
  | rwl => cases locked <;> simp [fieldVal_fits]
  | _ => simp [fieldVal_fits]

theorem fget_writeField_ne (locked : Bool) (h : Hw) {f g : Field} {i j i' j' : Nat} (hk : f.key i j ≠ g.key i' j') (v : Nat) :
    fget (writeField locked h f i j v) g i' j' = fget h g i' j' := by
  unfold writeField
  cases f.acc with
  | rwl => cases locked <;> simp [fget_fset_ne _ _ _ _ _ _ _ _ hk]
  | _ => simp [fget_fset_ne _ _ _ _ _ _ _ _ hk]

/-- A state without its fields. -/
def bare (h : Hw) : Hw := { h with regs := [] }

theorem regs_of_bare {h h' : Hw} (hb : bare h' = bare h) : { h' with regs := h.regs } = h :=
  congrArg (fun x : Hw => { x with regs := h.regs }) hb

theorem bare_writeField (locked : Bool) (h : Hw) (f : Field) (i j v : Nat) : bare (writeField locked h f i j v) = bare h := by
  unfold writeField
  cases f.acc with
  | rwl => cases locked <;> rfl
  | _ => rfl

/-! ### Every field of a register -/

theorem fget_foldl_writeField_ne (locked : Bool) (i j v : Nat) (l : List Field) (h : Hw) {g : Field} {i' j' : Nat}
    (hk : ∀ f ∈ l, f.key i j ≠ g.key i' j') : fget (l.foldl (fun h f => writeField locked h f i j v) h) g i' j' = fget h g i' j' := by
  induction l generalizing h with
  | nil => rfl
  | cons f l ih =>
    exact (ih _ fun f' hf' => hk f' (List.mem_cons_of_mem _ hf')).trans (fget_writeField_ne locked h (hk f List.mem_cons_self) v)

theorem fget_foldl_writeField (locked : Bool) (i j v : Nat) {l : List Field} (hl : l.Pairwise fun f g => f.id ≠ g.id) (h : Hw) {g : Field}
    (hg : g ∈ l) : fget (l.foldl (fun h f => writeField locked h f i j v) h) g i j = taken locked g v (fget h g i j) := by
  induction l generalizing h with
  | nil => exact absurd hg List.not_mem_nil
  | cons f l ih =>
    obtain ⟨hhead, htail⟩ := List.pairwise_cons.mp hl
    rcases List.mem_cons.mp hg with rfl | hmem
    · refine (fget_foldl_writeField_ne locked i j v l _ fun f' hf' => key_ne_of_id _ _ _ _ _ _ (hhead f' hf').symm).trans ?_
      exact fget_writeField locked h g i j v
    · refine (ih htail _ hmem).trans (congrArg _ ?_)
      exact fget_writeField_ne locked h (key_ne_of_id _ _ _ _ _ _ (hhead g hmem)) v

theorem fget_plainWrite (h : Hw) {r : Reg} (i j v : Nat) {f : Field} (hf : f ∈ r.fields) :
    fget (plainWrite h r i j v) f i j = taken (rwlLocked h r i j) f v (fget h f i j) :=
  fget_foldl_writeField _ i j v (fields_pairwise r) h hf

theorem fget_plainWrite_ne (h : Hw) (r : Reg) (i j v : Nat) {g : Field} {i' j' : Nat} (hk : ∀ f ∈ r.fields, f.key i j ≠ g.key i' j') :
    fget (plainWrite h r i j v) g i' j' = fget h g i' j' := fget_foldl_writeField_ne _ i j v _ h hk

theorem onlyRegs_plainWrite (h : Hw) (r : Reg) (i j v : Nat) : onlyRegs h (plainWrite h r i j v) (r.fields.map fun f => f.key i j) :=
  fun _ _ _ hk => fget_plainWrite_ne h r i j v fun _ hf heq => hk (heq ▸ List.mem_map_of_mem (f := fun f => f.key i j) hf)

theorem bare_plainWrite (h : Hw) (r : Reg) (i j v : Nat) : bare (plainWrite h r i j v) = bare h :=
  foldl_keeps bare (fun h f => bare_writeField _ h f i j v) r.fields h

/-! ### What a bus error's flag does not change -/

theorem mayWrite_setBusErr (h : Hw) (b : Bool) (who : Requester) (r : Reg) (i j : Nat) :
    mayWrite (setBusErr h b) who r i j = mayWrite h who r i j := rfl

theorem reachesWindow_setBusErr (h : Hw) (b : Bool) (who : Requester) (r : Reg) (i : Nat) :
    reachesWindow (setBusErr h b) who r i = reachesWindow h who r i := rfl

/-! ### Registers without a rule of their own -/

/-- The registers that a rule of their own takes before the rule of their access types. -/
def ruledRegs : List Reg :=
  [R_INT_SRC_CFG, R_INT_CTRL, R_RBT_CONFIG, R_RBT_PART_EVCFG, R_RBT_PART_EXPECT, R_RBT_FLOW_CFG, R_ENG_QP_CQ, R_QMC_PMU_CTL, R_ENG_PMU_CTL,
   R_CACHE_EN, R_LLC_CFG, R_STR_CFG, R_HOSTFN_WIN_MAP, R_HOSTFN_HOF_CFG, R_HOSTFN_DLOG_CFG, R_KYD_RTC, R_KYD_MBOX]

/-- An owner-world register (R448). -/
def isOwnw (r : Reg) : Bool := r.n0 == 0x7 && 0x400 ≤ r.base && r.base ≤ 0x420

theorem ruledWrite_plain {r : Reg} (hr : r.id ∉ ruledRegs.map (·.id)) (h4 : r.n0 ≠ 0x4) (h : Hw) (who : Requester) (i j v : Nat) :
    ruledWrite h who r i j v = plainWrite h r i j v := by
  have hne : ∀ x : Reg, x.id ∈ ruledRegs.map (·.id) → (r.id == x.id) = false := fun x hx =>
    beq_eq_false_iff_ne.mpr fun heq => hr (heq ▸ hx)
  simp (disch := decide) only [ruledWrite, hne, beq_eq_false_iff_ne.mpr h4, Bool.false_eq_true, if_false]

/-- Rights come first, but in INT_SRC_CFG, INT_CTRL and the owner-world registers. -/
theorem writeReg_rights {r : Reg} (hcfg : r.id ≠ R_INT_SRC_CFG.id) (hctrl : r.id ≠ R_INT_CTRL.id) (hown : isOwnw r = false) (h : Hw)
    (who : Requester) (i j v : Nat) :
    writeReg h who r i j v = if mayWrite h who r i j then ruledWrite h who r i j v
      else if r.right == .nobody && reachesWindow h who r i then h else logRefusedWrite h who r i j := by
  have hown' : (r.n0 == 0x7 && decide (0x400 ≤ r.base) && decide (r.base ≤ 0x420)) = false := hown
  simp only [writeReg, beq_eq_false_iff_ne.mpr hcfg, beq_eq_false_iff_ne.mpr hctrl, hown', Bool.false_eq_true, if_false]

end Sys2Proof.Proofs


/-!
The clauses of the obligation on registers that hold of every register, and of those without a rule of their own.
-/

namespace Sys2Proof.Proofs
open Sys2Proof Sys2Proof.Machine

theorem not_ordinary : ∀ x ∈ R_INT_SRC_STATE :: commandRegs ++ ruledRegs, ¬ordinary x := by
  unfold ordinary
  decide +kernel

theorem table_has_ruled : ∀ x ∈ R_INT_SRC_STATE :: commandRegs ++ ruledRegs, allRegs[x.id]? = some x := by decide +kernel

/-- An ordinary register of the table has neither a command nor a rule. -/
theorem ordinary_ids {r : Reg} (hr : r ∈ allRegs) (ho : ordinary r) :
    r.id ≠ R_INT_SRC_STATE.id ∧ r.id ∉ commandRegs.map (·.id) ∧ r.id ∉ ruledRegs.map (·.id) := by
  have hids := not_mem_ids table_has_ruled hr fun hmem => not_ordinary r hmem ho
  rw [List.map_append, List.map_cons, List.cons_append, List.mem_cons, List.mem_append, not_or, not_or] at hids
  exact hids

theorem isOwnw_of_ordinary {r : Reg} (ho : ordinary r) : isOwnw r = false := by
  obtain ⟨-, -, hown, -⟩ := ho
  rw [Bool.eq_false_iff]
  intro h
  simp only [isOwnw, Bool.and_eq_true, beq_iff_eq, decide_eq_true_eq, and_assoc] at h
  exact hown h

theorem exec_registerWrite_ordinary {who : Requester} {addr size : Nat} {s : State} {r : Reg} {i j : Nat}
    (ha : regAccess s.hw who addr size = some (r, i, j)) (ho : ordinary r) (hw : wakeFor s.hw r i = s.hw) (data : BitVec 64) :
    exec (.registerWrite who addr size data) s =
      .next (s.upd fun h => writeReg (setBusErr h false) who r i j (wordWritten s.hw r i j addr size data.toNat)) := by
  obtain ⟨hsrc, hcmd, -⟩ := ordinary_ids (regAccess_mem ha) ho
  rw [exec_registerWrite_some ha, performed_write hsrc hcmd ho.1, accessed_of_awake hw]
  simp only [State.upd, wordWritten_setBusErr]

/-- An ordinary register follows the rights and the access types of its fields. -/
theorem writeReg_ordinary {r : Reg} (hr : r ∈ allRegs) (ho : ordinary r) (h : Hw) (who : Requester) (i j v : Nat) :
    writeReg h who r i j v = if mayWrite h who r i j then plainWrite h r i j v
      else if r.right == .nobody && reachesWindow h who r i then h else logRefusedWrite h who r i j := by
  obtain ⟨-, -, hruled⟩ := ordinary_ids hr ho
  rw [writeReg_rights (fun h => hruled (h ▸ by decide)) (fun h => hruled (h ▸ by decide)) (isOwnw_of_ordinary ho), ruledWrite_plain hruled ho.2.1]

/-- A register with nothing to write, and a requester that its window is open to. -/
def idleWrite (h : Hw) (who : Requester) (r : Reg) (i : Nat) : Prop :=
  r.right = .nobody ∧ (who = .kydin ∨ who = .trusted ∨ (r.n0 ≠ 0x100 ∧ isSecure h who = true) ∨
    (r.n0 = 0x100 ∧ ∃ p, ownerCore h i = some p ∧ isControlOf h who p = true))

theorem idleWrite_iff (h : Hw) (who : Requester) (r : Reg) (i : Nat) :
    idleWrite h who r i ↔ (r.right == .nobody && reachesWindow h who r i) = true := by
  simp only [idleWrite, reachesWindow, Bool.and_eq_true, Bool.or_eq_true, beq_iff_eq]
  refine and_congr_right fun _ => ?_
  rw [or_assoc]
  refine or_congr_right (or_congr_right ?_)
  by_cases h100 : r.n0 = 0x100
  · simp only [h100, ne_eq, not_true_eq_false, false_and, true_and, false_or, if_true]
    cases ownerCore h i <;> simp
  · simp [h100]

/-! ### The clauses -/

theorem registerWrite_busErr (who : Requester) (addr size : Nat) (data : BitVec 64) (s : State) :
    ((size ≠ 4 ∧ size ≠ 8) ∨ addr % size ≠ 0 ∨ addr < 0xF000000000 ∨ 0xF000000000 + 2 ^ 30 ≤ addr ∨ regAt (addr - 0xF000000000) = none →
      changes (.registerWrite who addr size data) s (setBusErr · true)) ∧
    (∀ r i j, regAt (addr - 0xF000000000) = some (r, i, j) →
      served s.hw who r = false ∨ (size = 4 ∧ ∃ f ∈ r.fields, f.acc ≠ .rw ∧ f.acc ≠ .rwl) →
      changes (.registerWrite who addr size data) s (setBusErr · true)) ∧
    (∀ r i j, 0xF000000000 ≤ addr → addr < 0xF000000000 + 2 ^ 30 → regAt (addr - 0xF000000000) = some (r, i, j) → served s.hw who r = true →
      (size = 8 ∧ addr % 8 = 0) ∨ (size = 4 ∧ addr % 4 = 0 ∧ ∀ f ∈ r.fields, f.acc = .rw ∨ f.acc = .rwl) →
      regAccess s.hw who addr size = some (r, i, j)) := by
  have hnone : (∀ r i j, regAccess s.hw who addr size ≠ some (r, i, j)) → changes (.registerWrite who addr size data) s (setBusErr · true) :=
    fun h => exec_registerWrite_none (Option.eq_none_iff_forall_ne_some.mpr fun p => h p.1 p.2.1 p.2.2) data
  refine ⟨fun hbad => hnone fun r i j ha => ?_, fun r i j hat hbad => hnone fun r' i' j' ha => ?_, fun r i j hlo hhi hat hs hsize => ?_⟩
  · obtain ⟨⟨hlo, hhi⟩, hat, -, hsize⟩ := regAccess_eq_some.mp ha
    have hbase : controlBase = 0xF000000000 := rfl
    rw [hbase] at hlo hhi hat
    rcases hbad with hn | hmis | hlow | hhigh | hno
    · omega
    · rcases hsize with ⟨rfl, h0⟩ | ⟨rfl, h0, -⟩
      · exact hmis h0
      · exact hmis h0
    · omega
    · omega
    · rw [hno] at hat; exact absurd hat (by simp)
  · obtain ⟨-, hat', hs, hsize⟩ := regAccess_eq_some.mp ha
    obtain ⟨rfl, rfl, rfl⟩ : r' = r ∧ i' = i ∧ j' = j := by
      have heq := hat'.symm.trans hat
      simpa only [Option.some.injEq, Prod.mk.injEq] using heq
    rcases hbad with hns | ⟨h4, f, hf, hrw, hrwl⟩
    · rw [hns] at hs; exact absurd hs (by decide)
    · rcases hsize with ⟨h8, -⟩ | ⟨-, -, hhalf⟩
      · omega
      · exact ((halves_iff r').mp hhalf f hf).elim hrw hrwl
  · exact regAccess_eq_some.mpr ⟨⟨hlo, hhi⟩, hat, hs, hsize.imp_right fun ⟨h4, h0, hf⟩ => ⟨h4, h0, (halves_iff r).mpr hf⟩⟩

/-- A write to an ordinary register: refused and logged, without effect, or by access type. -/
theorem registerWrite_ordinary (who : Requester) (addr size : Nat) (data : BitVec 64) (s : State) (r : Reg) (i j : Nat)
    (ha : regAccess s.hw who addr size = some (r, i, j)) (ho : ordinary r) (hw : wakeFor s.hw r i = s.hw) :
    let old := regVal (flushShadow s.hw) r i j
    let v := if size = 8 then data.toNat else if addr % 8 = 0 then old / 2 ^ 32 * 2 ^ 32 + data.toNat % 2 ^ 32 else old % 2 ^ 32 + data.toNat % 2 ^ 32 * 2 ^ 32
    (mayWrite s.hw who r i j = false → ¬idleWrite s.hw who r i →
      changes (.registerWrite who addr size data) s fun h => logRefusedWrite (setBusErr h false) who r i j) ∧
    (mayWrite s.hw who r i j = false → idleWrite s.hw who r i → changes (.registerWrite who addr size data) s (setBusErr · false)) ∧
    (mayWrite s.hw who r i j = true → yields (.registerWrite who addr size data) s fun t => { t.hw with regs := s.hw.regs } = setBusErr s.hw false ∧
      sameMemory s t ∧ onlyRegs s.hw t.hw (r.fields.map fun f => f.key i j) ∧
      ∀ f ∈ r.fields, fget t.hw f i j = taken (rwlLocked s.hw r i j) f v (fget s.hw f i j)) := by
  intro old v
  have hv : wordWritten s.hw r i j addr size data.toNat = v := by
    simp only [wordWritten, beq_iff_eq, Nat.mod_eq_of_lt data.isLt]
    rfl
  have hexec := exec_registerWrite_ordinary ha ho hw data
  simp only [hv, writeReg_ordinary (regAccess_mem ha) ho, mayWrite_setBusErr, reachesWindow_setBusErr] at hexec
  refine ⟨fun hno hidle => ?_, fun hno hidle => ?_, fun hmay => ⟨_, hexec, ?_⟩⟩
  · rw [idleWrite_iff, Bool.not_eq_true] at hidle
    unfold changes
    rw [hexec]
    simp only [State.upd, hno, hidle, Bool.false_eq_true, if_false]
  · rw [idleWrite_iff] at hidle
    unfold changes
    rw [hexec]
    simp only [State.upd, hno, hidle, Bool.false_eq_true, if_false, if_true]
  · simp only [State.upd, hmay, if_true]
    refine ⟨?_, ⟨rfl, rfl⟩, onlyRegs_plainWrite _ r i j v, fun f hf => fget_plainWrite _ i j v hf⟩
    exact regs_of_bare (h := setBusErr s.hw false) (bare_plainWrite _ r i j v)

end Sys2Proof.Proofs


/-!
NO_ACTION_COMMAND: what it may change, and what each kind of word in a command register does.
-/

namespace Sys2Proof.Proofs
open Sys2Proof Sys2Proof.Machine

/-! ### What a wake and a command without an action leave alone -/

/-- A state without what NO_ACTION_COMMAND may change. -/
def rest (h : Hw) : Hw := { h with regs := [], lan := {}, grid := {}, host := {}, kyd := {}, freeCtr := 0, busErr := false }

theorem eq_of_rest {h h' : Hw} (hr : rest h' = rest h) :
    { h' with regs := h.regs, lan := h.lan, grid := h.grid, host := h.host, kyd := h.kyd, freeCtr := h.freeCtr, busErr := h.busErr } = h :=
  congrArg (fun x : Hw => { x with regs := h.regs, lan := h.lan, grid := h.grid, host := h.host, kyd := h.kyd, freeCtr := h.freeCtr,
                                   busErr := h.busErr }) hr

theorem rest_of_bare {h h' : Hw} (hb : bare h' = bare h) : rest h' = rest h :=
  (congrArg rest hb : rest (bare h') = rest (bare h))

theorem rest_logRec (h : Hw) (r : ErrRec) : rest (logRec h r) = rest h := by
  simp only [logRec]
  split <;> rfl

theorem rest_logRefusedWrite (h : Hw) (who : Requester) (r : Reg) (i j : Nat) : rest (logRefusedWrite h who r i j) = rest h := rest_logRec h _

theorem rest_sleepResult (h : Hw) (sq code : Nat) : rest (sleepResult h sq code) = rest h := by
  simp only [sleepResult]
  split
  · split <;> rfl
  · split
    · split
      · split <;> rfl
      · rfl
    · rfl

theorem rest_abortSleep (h : Hw) (sq : Nat) : rest (abortSleep h sq) = rest h := rest_sleepResult h sq 6

theorem rest_raiseWake (h : Hw) (sq : Nat) : rest (raiseWake h sq) = rest h := by
  simp only [raiseWake]
  split
  · exact rest_abortSleep h sq
  · split
    · rfl
    · split <;> rfl

theorem rest_probeCount (h : Hw) (r n : Nat) (w : HeldFlit) : rest (probeCount h r n w) = rest h := by
  simp only [probeCount, takeFree]
  split
  · rfl
  · split <;> rfl

theorem rest_probeTrace (h : Hw) (r out : Nat) (f : Flit) : rest (probeTrace h r out f) = rest h := by
  simp only [probeTrace]
  split
  · rfl
  · split
    · rfl
    · split <;> rfl

theorem rest_probeHead (h : Hw) (r out : Nat) (w : HeldFlit) : rest (probeHead h r out w) = rest h := by
  have hcount : rest (if fon h F_STR_PROBE_CTL_EN r && !frozen h then (List.range 4).foldl (fun h n => probeCount h r n w) h else h) = rest h := by
    split
    · exact foldl_keeps rest (fun h n => rest_probeCount h r n w) _ h
    · rfl
  have htrace : ∀ h, rest (if fon h F_STR_PROBE_CTL_TRACE r then probeTrace h r (min 4 out) w.flit else h) = rest h := fun h => by
    split
    · exact rest_probeTrace _ _ _ _
    · rfl
  simp only [probeHead]
  split
  · rfl
  · exact (htrace _).trans hcount

theorem rest_noteWaits (h : Hw) : rest (noteWaits h) = rest h := by
  unfold noteWaits
  refine foldl_keeps rest (fun h w => ?_) _ h
  simp only
  split
  · rfl
  · exact rest_raiseWake _ _
  · rfl
  · rfl

theorem rest_sendFlit (h : Hw) (w : HeldFlit) (out : Nat) : rest (sendFlit h w out) = rest h := by
  simp only [sendFlit]
  split
  · split
    · rfl
    · split <;> rfl
  · exact rest_probeHead _ _ _ _

theorem rest_flitLoop (n : Nat) (h : Hw) : rest (flitLoop n h) = rest h := by
  induction n generalizing h with
  | zero => rfl
  | succ n ih =>
    simp only [flitLoop]
    split
    · exact rest_noteWaits h
    · exact (ih _).trans ((rest_sendFlit _ _ _).trans (rest_noteWaits h))

theorem rest_wakeSquare (h : Hw) (sq : Nat) : rest (wakeSquare h sq) = rest h := by
  unfold wakeSquare
  split
  · exact (rest_flitLoop _ _).trans (rest_abortSleep h sq)
  · exact rest_raiseWake h sq

theorem rest_wakeFor (h : Hw) (r : Reg) (i : Nat) : rest (wakeFor h r i) = rest h := by
  unfold wakeFor
  split
  · exact rest_wakeSquare h _
  · rfl

theorem rest_noAction (h : Hw) (c : CmdReg) (i j : Nat) : rest (noAction h c i j) = rest h := by
  simp only [noAction]
  split <;> rfl

theorem rest_ifMay (h : Hw) (who : Requester) (r : Reg) (i j : Nat) {run : Hw → Hw} (hrun : ∀ h, rest (run h) = rest h) :
    rest (ifMay h who r i j run) = rest h := by
  simp only [ifMay]
  split
  · rfl
  · split
    · exact hrun _
    · exact rest_logRefusedWrite _ _ _ _ _

theorem rest_writeDlogCfg (h : Hw) (i v : Nat) : rest (writeDlogCfg h i v) = rest h := by
  have hplain : rest (plainWrite h R_HOSTFN_DLOG_CFG i 0 v) = rest h := rest_of_bare (bare_plainWrite _ _ _ _ _)
  simp only [writeDlogCfg]
  split
  · split
    · exact hplain
    · exact hplain
  · split
    · exact hplain
    · exact hplain

/-! ### The clauses -/

/-- The word of NO_ACTION_COMMAND on one state. -/
def noActionHw (who : Requester) (addr v : Nat) (h : Hw) : Hw :=
  match regAccess h who addr 8 with
  | none => setBusErr h true
  | some (r, i, j) =>
    match cmdRegOf r with
    | none => h
    | some c =>
      if c.codes.contains (fieldVal c.cmd v) then h
      else if r.id == R_HOSTFN_DLOG_CFG.id then ifMay h who r i j fun h => writeDlogCfg h i v
      else ifMay (wakeFor h r i) who r i j fun h => noAction h c i j

theorem exec_noActionCommand (who : Requester) (addr : Nat) (data : BitVec 64) (s : State) :
    exec (.noActionCommand who addr data) s = .next (s.upd (noActionHw who addr data.toNat)) := rfl

theorem noActionHw_none {who : Requester} {addr : Nat} {h : Hw} (ha : regAccess h who addr 8 = none) (v : Nat) :
    noActionHw who addr v h = setBusErr h true := by simp only [noActionHw, ha]

theorem noActionHw_no_command {who : Requester} {addr : Nat} {h : Hw} {r : Reg} {i j : Nat} (ha : regAccess h who addr 8 = some (r, i, j))
    (hc : cmdRegOf r = none) (v : Nat) : noActionHw who addr v h = h := by simp only [noActionHw, ha, hc]

theorem noActionHw_command {who : Requester} {addr v : Nat} {h : Hw} {r : Reg} {i j : Nat} (ha : regAccess h who addr 8 = some (r, i, j))
    {k : CmdReg} (hc : cmdRegOf r = some k) (hv : fieldVal k.cmd v ∈ k.codes) : noActionHw who addr v h = h := by
  simp only [noActionHw, ha, hc, List.contains_iff_mem.mpr hv, if_true]

/-- A word without an action: a write of HOSTFN_DLOG_CFG, and in every other command register a numbered answer. -/
theorem noActionHw_other {who : Requester} {addr v : Nat} {h : Hw} {r : Reg} {i j : Nat} (ha : regAccess h who addr 8 = some (r, i, j))
    {k : CmdReg} (hc : cmdRegOf r = some k) (hv : fieldVal k.cmd v ∉ k.codes) :
    noActionHw who addr v h = if r.id == R_HOSTFN_DLOG_CFG.id then ifMay h who r i j fun h => writeDlogCfg h i v
      else ifMay (wakeFor h r i) who r i j fun h => noAction h k i j := by
  have hcontains : k.codes.contains (fieldVal k.cmd v) = false := by
    rw [Bool.eq_false_iff]
    exact fun h => hv (List.contains_iff_mem.mp h)
  simp only [noActionHw, ha, hc, hcontains, Bool.false_eq_true, if_false]

theorem ifMay_served {h : Hw} {who : Requester} {r : Reg} (hs : served h who r = true) (i j : Nat) (run : Hw → Hw) :
    ifMay h who r i j run = if mayWrite h who r i j then run (setBusErr h false) else logRefusedWrite (setBusErr h false) who r i j := by
  simp only [ifMay, hs, Bool.not_true, Bool.false_eq_true, if_false]
  rfl

theorem noActionHw_refused {who : Requester} {addr v : Nat} {h : Hw} {r : Reg} {i j : Nat} (ha : regAccess h who addr 8 = some (r, i, j))
    {k : CmdReg} (hc : cmdRegOf r = some k) (hv : fieldVal k.cmd v ∉ k.codes) (hmay : mayWrite h who r i j = false) (hw : wakeFor h r i = h) :
    noActionHw who addr v h = logRefusedWrite (setBusErr h false) who r i j := by
  simp only [noActionHw_other ha hc hv, hw, ifMay_served (regAccess_served ha), hmay, Bool.false_eq_true, if_false, ite_self]

/-- A command register of the list is the one with its number of SEQ. -/
theorem cmdReg_of_gateCtrl_seq : ∀ k ∈ cmdRegs, k.seq.id = F_GATE_CTRL_SEQ.id → k.cmd.reg = R_GATE_CTRL.id := by decide

theorem cmdRegOf_eq_some {r : Reg} {k : CmdReg} (hc : cmdRegOf r = some k) : k ∈ cmdRegs ∧ k.cmd.reg = r.id :=
  ⟨List.mem_of_find?_eq_some hc, by simpa using List.find?_some hc⟩

theorem noActionHw_answers {who : Requester} {addr v : Nat} {h : Hw} {r : Reg} {i j : Nat} (ha : regAccess h who addr 8 = some (r, i, j))
    {k : CmdReg} (hc : cmdRegOf r = some k) (hv : fieldVal k.cmd v ∉ k.codes) (hmay : mayWrite h who r i j = true)
    (hdlog : r ≠ R_HOSTFN_DLOG_CFG) (hw : wakeFor h r i = h) : noActionHw who addr v h = noAction (setBusErr h false) k i j := by
  have hid : (r.id == R_HOSTFN_DLOG_CFG.id) = false := beq_eq_false_iff_ne.mpr fun hid => hdlog (reg_eq_of_id (regAccess_mem ha) rfl hid)
  simp only [noActionHw_other ha hc hv, hid, hw, ifMay_served (regAccess_served ha), hmay, Bool.false_eq_true, if_false, if_true]

theorem noAction_of_not_gateCtrl {r : Reg} (hr : r ∈ allRegs) {k : CmdReg} (hc : cmdRegOf r = some k) (hg : r ≠ R_GATE_CTRL) (h : Hw) (i j : Nat) :
    noAction h k i j = answer h k.result k.seq 0 i j := by
  obtain ⟨hmem, hreg⟩ := cmdRegOf_eq_some hc
  have hseq : (k.seq.id == F_GATE_CTRL_SEQ.id) = false := beq_eq_false_iff_ne.mpr fun hid =>
    hg (reg_eq_of_id hr rfl (hreg.symm.trans (cmdReg_of_gateCtrl_seq k hmem hid)))
  simp only [noAction, hseq, Bool.false_eq_true, if_false]

theorem noActionHw_gateCtrl {who : Requester} {addr v : Nat} {h : Hw} {i j : Nat} (ha : regAccess h who addr 8 = some (R_GATE_CTRL, i, j))
    {k : CmdReg} (hc : cmdRegOf R_GATE_CTRL = some k) (hv : fieldVal k.cmd v ∉ k.codes) (hmay : mayWrite h who R_GATE_CTRL i j = true) :
    noActionHw who addr v h = setCtrl (answer (setBusErr h false) k.result k.seq 0 i j) i none := by
  rw [noActionHw_answers ha hc hv hmay (by decide) (wakeFor_of_window (by decide) h i)]
  obtain rfl := Option.some.inj hc
  rfl

/-! ### HOSTFN_DLOG_CFG -/

/-- Two fields of a register's answer. -/
theorem fget_answer_result (h : Hw) (fr fs : Field) (code i j : Nat) : fget (answer h fr fs code i j) fr i j = code % 2 ^ fr.width :=
  fget_fset_same _ _ _ _ _

theorem fget_answer_seq (h : Hw) {fr fs : Field} (hne : fr.id ≠ fs.id) (code i j : Nat) :
    fget (answer h fr fs code i j) fs i j = (fget h fs i j + 1) % 2 ^ fs.width := by
  rw [answer, fget_fset_id _ _ _ _ _ _ _ _ hne, fget_fset_same]

theorem fget_answer_other (h : Hw) (fr fs : Field) {g : Field} (hr : fr.id ≠ g.id) (hs : fs.id ≠ g.id) (code i j i' j' : Nat) :
    fget (answer h fr fs code i j) g i' j' = fget h g i' j' := by
  rw [answer, fget_fset_id _ _ _ _ _ _ _ _ hr, fget_fset_id _ _ _ _ _ _ _ _ hs]

theorem fget_setFn (h : Hw) (n : Nat) (v : Fn) (f : Field) (i j : Nat) : fget (setFn h n v) f i j = fget h f i j := rfl

/-- The dirty log is off: setting EN empties its filter and clears OVERFLOW. -/
def dlogStarted (h : Hw) (i v : Nat) : Hw :=
  let n := plainWrite h R_HOSTFN_DLOG_CFG i 0 v
  if !fon h F_HOSTFN_DLOG_CFG_EN i && fon n F_HOSTFN_DLOG_CFG_EN i then
    setFn (fset n F_HOSTFN_DLOG_CFG_OVERFLOW 0 i) i { fnOf n i with dlog := [] }
  else n

theorem writeDlogCfg_of_no_sync {v : Nat} (hv : fieldVal F_HOSTFN_DLOG_CFG_CMD v ≠ 1) (h : Hw) (i : Nat) :
    writeDlogCfg h i v = answer (dlogStarted h i v) F_HOSTFN_DLOG_CFG_RESULT F_HOSTFN_DLOG_CFG_SEQ 0 i := by
  simp only [writeDlogCfg, beq_eq_false_iff_ne.mpr hv, Bool.false_eq_true, if_false]
  rfl

theorem fget_dlogStarted (h : Hw) (i v : Nat) {g : Field} (hg : g.id ≠ F_HOSTFN_DLOG_CFG_OVERFLOW.id) (i' j' : Nat) :
    fget (dlogStarted h i v) g i' j' = fget (plainWrite h R_HOSTFN_DLOG_CFG i 0 v) g i' j' := by
  simp only [dlogStarted]
  split
  · rw [fget_setFn, fget_fset_id _ _ _ _ _ _ _ _ hg.symm]
  · rfl

/-- A field that a write leaves by its access type. -/
theorem fget_plainWrite_fixed (h : Hw) {r : Reg} (i j v : Nat) {f : Field} (hf : f ∈ r.fields) (hacc : f.acc = .ro ∨ f.acc = .rc ∨ f.acc = .wo) :
    fget (plainWrite h r i j v) f i j = fget h f i j := by
  rw [fget_plainWrite h i j v hf, taken]
  rcases hacc with he | he | he <;> rw [he]

theorem fget_plainWrite_rw (h : Hw) {r : Reg} (i j v : Nat) {f : Field} (hf : f ∈ r.fields) (hacc : f.acc = .rw) :
    fget (plainWrite h r i j v) f i j = fieldVal f v := by
  rw [fget_plainWrite h i j v hf, taken, hacc]

/-- A write without SYNC numbers itself. -/
theorem writeDlogCfg_answers {v : Nat} (hv : fieldVal F_HOSTFN_DLOG_CFG_CMD v ≠ 1) (h : Hw) (i : Nat) :
    fget (writeDlogCfg h i v) F_HOSTFN_DLOG_CFG_RESULT i = 0 ∧
    fget (writeDlogCfg h i v) F_HOSTFN_DLOG_CFG_SEQ i = (fget h F_HOSTFN_DLOG_CFG_SEQ i + 1) % 256 := by
  rw [writeDlogCfg_of_no_sync hv]
  refine ⟨(fget_answer_result _ _ _ 0 i 0).trans (Nat.zero_mod _), ?_⟩
  rw [fget_answer_seq _ (by decide), fget_dlogStarted _ _ _ (by decide), fget_plainWrite_fixed _ _ _ _ (by decide +kernel) (.inl rfl)]
  rfl

/-! ### The clauses on NO_ACTION_COMMAND -/

theorem noActionCommand_frame (who : Requester) (addr : Nat) (data : BitVec 64) (s : State) :
    yields (.noActionCommand who addr data) s fun t =>
      { t.hw with regs := s.hw.regs, lan := s.hw.lan, grid := s.hw.grid, host := s.hw.host, kyd := s.hw.kyd, freeCtr := s.hw.freeCtr, busErr := s.hw.busErr } = s.hw ∧
      sameMemory s t := by
  refine ⟨_, exec_noActionCommand who addr data s, eq_of_rest ?_, rfl, rfl⟩
  show rest (noActionHw who addr data.toNat s.hw) = rest s.hw
  unfold noActionHw
  split
  · rfl
  · split
    · rfl
    · split
      · rfl
      · split
        · exact rest_ifMay _ _ _ _ _ fun h => rest_writeDlogCfg h _ _
        · exact (rest_ifMay _ _ _ _ _ fun h => rest_noAction h _ _ _).trans (rest_wakeFor _ _ _)

theorem noActionCommand_clauses (who : Requester) (addr : Nat) (data : BitVec 64) (s : State) :
    (regAccess s.hw who addr 8 = none → changes (.noActionCommand who addr data) s (setBusErr · true)) ∧
    (∀ r i j, regAccess s.hw who addr 8 = some (r, i, j) → let c := Instr.noActionCommand who addr data
      (cmdRegOf r = none → exec c s = .next s) ∧
      (∀ k, cmdRegOf r = some k →
        (fieldVal k.cmd data.toNat ∈ k.codes → exec c s = .next s) ∧
        (fieldVal k.cmd data.toNat ∉ k.codes → mayWrite s.hw who r i j = false → wakeFor s.hw r i = s.hw → changes c s fun h => logRefusedWrite (setBusErr h false) who r i j) ∧
        (fieldVal k.cmd data.toNat ∉ k.codes → mayWrite s.hw who r i j = true → r ≠ R_HOSTFN_DLOG_CFG → r ≠ R_GATE_CTRL → wakeFor s.hw r i = s.hw →
          changes c s fun h => answer (setBusErr h false) k.result k.seq 0 i j) ∧
        (fieldVal k.cmd data.toNat ∉ k.codes → mayWrite s.hw who r i j = true → r = R_GATE_CTRL → changes c s fun h =>
          setCtrl (answer (setBusErr h false) k.result k.seq 0 i j) i none) ∧
        (fieldVal k.cmd data.toNat ∉ k.codes → mayWrite s.hw who r i j = true → r = R_HOSTFN_DLOG_CFG → yields c s fun t => fget t.hw F_HOSTFN_DLOG_CFG_RESULT i = 0 ∧
          fget t.hw F_HOSTFN_DLOG_CFG_SEQ i = (fget s.hw F_HOSTFN_DLOG_CFG_SEQ i + 1) % 256))) := by
  have hexec := exec_noActionCommand who addr data s
  have hch : ∀ h', noActionHw who addr data.toNat s.hw = h' → exec (.noActionCommand who addr data) s = .next { s with hw := h' } := by
    rintro h' rfl
    exact hexec
  refine ⟨fun ha => hch _ (noActionHw_none ha _), fun r i j ha => ⟨fun hc => hch _ (noActionHw_no_command ha hc _), fun k hc =>
    ⟨fun hv => hch _ (noActionHw_command ha hc hv), fun hv hmay hw => hch _ (noActionHw_refused ha hc hv hmay hw), fun hv hmay hd hg hw => hch _ ?_,
      fun hv hmay hg => hch _ ?_, fun hv hmay hd => ⟨_, hexec, ?_⟩⟩⟩⟩
  · rw [noActionHw_answers ha hc hv hmay hd hw, noAction_of_not_gateCtrl (regAccess_mem ha) hc hg]
  · subst hg
    exact noActionHw_gateCtrl ha hc hv hmay
  · subst hd
    have hwrite : noActionHw who addr data.toNat s.hw = writeDlogCfg (setBusErr s.hw false) i data.toNat := by
      simp only [noActionHw_other ha hc hv, ifMay_served (regAccess_served ha), hmay, if_true, beq_self_eq_true]
    obtain rfl := Option.some.inj hc
    have hsync : fieldVal F_HOSTFN_DLOG_CFG_CMD data.toNat ≠ 1 := fun h1 => hv (List.mem_singleton.mpr h1)
    simp only [State.upd, hwrite]
    exact writeDlogCfg_answers hsync (setBusErr s.hw false) i

end Sys2Proof.Proofs


/-!
Registers with rules of their own: a write that the requester may make is the rule of the register.
-/

namespace Sys2Proof.Proofs
open Sys2Proof Sys2Proof.Machine

/-! ### From the command to the rule -/

/-- A register whose word is no command and for which rights come first. -/
def underRights (r : Reg) : Bool :=
  !((R_INT_SRC_STATE :: R_INT_SRC_CFG :: R_INT_CTRL :: commandRegs).map (·.id)).contains r.id && (cmdRegOf r).isNone && !isOwnw r

theorem underRights_iff (r : Reg) : underRights r = true ↔
    (r.id ≠ R_INT_SRC_STATE.id ∧ r.id ≠ R_INT_SRC_CFG.id ∧ r.id ≠ R_INT_CTRL.id ∧ r.id ∉ commandRegs.map (·.id)) ∧ cmdRegOf r = none ∧
      isOwnw r = false := by
  simp only [underRights, Bool.and_eq_true, Bool.not_eq_true', Bool.eq_false_iff, ne_eq, List.contains_iff_mem, List.map_cons, List.mem_cons,
    not_or, Option.isNone_iff_eq_none, and_assoc]

theorem exec_registerWrite_ruled {who : Requester} {addr size : Nat} {s : State} {r : Reg} {i j : Nat}
    (ha : regAccess s.hw who addr size = some (r, i, j)) (hr : underRights r = true) (hmay : mayWrite s.hw who r i j = true)
    (hw : wakeFor s.hw r i = s.hw) (data : BitVec 64) :
    exec (.registerWrite who addr size data) s =
      .next { s with hw := ruledWrite (setBusErr s.hw false) who r i j (wordWritten s.hw r i j addr size data.toNat) } := by
  obtain ⟨⟨hsrc, hcfg, hctrl, hcmd⟩, hc, hown⟩ := (underRights_iff r).mp hr
  rw [exec_registerWrite_some ha, performed_write hsrc hcmd hc, accessed_of_awake hw]
  simp only [State.upd, wordWritten_setBusErr, writeReg_rights hcfg hctrl hown, mayWrite_setBusErr, hmay, if_true]

/-- What a write of 64 bits that the requester may make leaves is what the register's rule leaves. -/
theorem changes_of_rule {who : Requester} {addr : Nat} {s : State} {r : Reg} {i j : Nat} (ha : regAccess s.hw who addr 8 = some (r, i, j))
    (hr : underRights r = true) (hmay : mayWrite s.hw who r i j = true) (hw : wakeFor s.hw r i = s.hw) {data : BitVec 64} {f : Hw → Hw}
    (hf : ruledWrite (setBusErr s.hw false) who r i j data.toNat = f s.hw) : changes (.registerWrite who addr 8 data) s f := by
  unfold changes
  rw [exec_registerWrite_ruled ha hr hmay hw, wordWritten_eight, hf]

theorem yields_of_rule {who : Requester} {addr : Nat} {s : State} {r : Reg} {i j : Nat} (ha : regAccess s.hw who addr 8 = some (r, i, j))
    (hr : underRights r = true) (hmay : mayWrite s.hw who r i j = true) (hw : wakeFor s.hw r i = s.hw) {data : BitVec 64} {P : State → Prop}
    (hP : P { s with hw := ruledWrite (setBusErr s.hw false) who r i j data.toNat }) : yields (.registerWrite who addr 8 data) s P := by
  refine ⟨_, exec_registerWrite_ruled ha hr hmay hw data, ?_⟩
  rw [wordWritten_eight]
  exact hP

theorem regElem_lt {r : Reg} (hlay : r.lay = 0) {off j : Nat} (he : regElem r off = some j) : j < r.count := by
  simp only [regElem, hlay, Nat.reduceBEq, Bool.false_eq_true, if_false, Option.ite_none_left_eq_some, Option.ite_none_right_eq_some,
    Bool.and_eq_true, decide_eq_true_eq] at he
  obtain ⟨-, ⟨-, hlt⟩, heq⟩ := he
  injection heq with heq
  omega

theorem regAccess_elem {h : Hw} {who : Requester} {addr size : Nat} {r : Reg} {i j : Nat} (ha : regAccess h who addr size = some (r, i, j))
    (hlay : r.lay = 0) : j < r.count := by
  obtain ⟨x, -, hsome⟩ := List.exists_of_findSome?_eq_some (regAccess_eq_some.mp ha).2.1
  split at hsome
  · obtain ⟨k, hk, heq⟩ := Option.map_eq_some_iff.mp hsome
    obtain ⟨rfl, -, rfl⟩ : x = r ∧ _ ∧ k = j := by simpa only [Prod.mk.injEq] using heq
    exact regElem_lt hlay hk
  · exact absurd hsome (by simp)

/-! ### KYD_MBOX and KYD_RTC -/

theorem ruledWrite_mbox (h : Hw) (who : Requester) (i j v : Nat) : ruledWrite h who R_KYD_MBOX i j v = writeMbox h v := rfl

theorem writeMbox_busy {h : Hw} (hp : h.kyd.mboxAddr.isSome = true) (v : Nat) :
    writeMbox h v = answer h F_KYD_MBOX_RESULT F_KYD_MBOX_SEQ 3 := by simp only [writeMbox, hp, if_true]

theorem writeMbox_taken {h : Hw} (hp : h.kyd.mboxAddr = none) (v : Nat) :
    writeMbox h v = answer { h with kyd := { h.kyd with mboxAddr := some (v / 2 ^ 12 % 2 ^ 36 * 4096) } } F_KYD_MBOX_RESULT F_KYD_MBOX_SEQ 1 := by
  simp only [writeMbox, hp, Option.isSome_none, Bool.false_eq_true, if_false]
  rfl

theorem ruledWrite_rtc (h : Hw) (who : Requester) (i j v : Nat) :
    ruledWrite h who R_KYD_RTC i j v = fset (plainWrite h R_KYD_RTC i j v) F_KYD_STATUS_RTC_VALID 1 := rfl

/-- Setting the calendar makes it valid. -/
theorem writeRtc_sets (h : Hw) (who : Requester) {v : Nat} (hv : v < 2 ^ 64) :
    let t := ruledWrite h who R_KYD_RTC 0 0 v
    fget t F_KYD_RTC_SECONDS = v / 2 ^ 15 ∧ fget t F_KYD_RTC_FRACTION = v % 2 ^ 15 ∧ fget t F_KYD_STATUS_RTC_VALID = 1 := by
  have hsec : fieldVal F_KYD_RTC_SECONDS v = v / 2 ^ 15 % 2 ^ 49 := rfl
  have hfrac : fieldVal F_KYD_RTC_FRACTION v = v / 1 % 2 ^ 15 := rfl
  simp only [ruledWrite_rtc]
  refine ⟨?_, ?_, ?_⟩
  · rw [fget_fset_id _ _ _ _ _ _ _ _ (by decide), fget_plainWrite_rw _ _ _ _ (by decide +kernel) rfl, hsec]
    omega
  · rw [fget_fset_id _ _ _ _ _ _ _ _ (by decide), fget_plainWrite_rw _ _ _ _ (by decide +kernel) rfl, hfrac, Nat.div_one]
  · rw [fget_fset_same]; decide

/-! ### RBT_CONFIG, ENG_QP_CQ, RBT_PART_EVCFG and RBT_PART_EXPECT -/

theorem ruledWrite_rbtConfig (h : Hw) (who : Requester) (i j v : Nat) :
    ruledWrite h who R_RBT_CONFIG i j v = if rbtHeld h then plainWrite h R_RBT_CONFIG i j v else logRefusedWrite h who R_RBT_CONFIG i j := rfl

theorem ruledWrite_cq (h : Hw) (who : Requester) (i j v : Nat) :
    ruledWrite h who R_ENG_QP_CQ i j v =
      if (jobsOfQp (engineOf h i) j).isEmpty then plainWrite h R_ENG_QP_CQ i j v else logRefusedWrite h who R_ENG_QP_CQ i j := rfl

theorem writeCq_sets {h : Hw} {i j : Nat} (hj : jobsOfQp (engineOf h i) j = []) (who : Requester) (v : Nat) :
    let t := ruledWrite h who R_ENG_QP_CQ i j v
    fget t F_ENG_QP_CQ_BASE_4K i j = v % 2 ^ 40 ∧ fget t F_ENG_QP_CQ_CQ_LOG2 i j = v / 2 ^ 56 % 32 := by
  have hbase : fieldVal F_ENG_QP_CQ_BASE_4K v = v / 1 % 2 ^ 40 := rfl
  have hlog : fieldVal F_ENG_QP_CQ_CQ_LOG2 v = v / 2 ^ 56 % 32 := rfl
  simp only [ruledWrite_cq, hj, List.isEmpty_nil, if_true]
  refine ⟨?_, ?_⟩
  · rw [fget_plainWrite_rw _ _ _ _ (by decide +kernel) rfl, hbase, Nat.div_one]
  · rw [fget_plainWrite_rw _ _ _ _ (by decide +kernel) rfl, hlog]

theorem ruledWrite_evcfg (h : Hw) (who : Requester) (i j v : Nat) :
    ruledWrite h who R_RBT_PART_EVCFG i j v =
      if fget (plainWrite h R_RBT_PART_EVCFG 0 j v) F_RBT_PART_EVCFG_SLOT_LINES 0 j < slotNeed (fget h F_RBT_PART_EXPECT_GATES 0 j) then
        logRefusedWrite h who R_RBT_PART_EVCFG 0 j
      else plainWrite h R_RBT_PART_EVCFG 0 j v := rfl

theorem writeEvcfg_refused {h : Hw} {j v : Nat} (hv : v < 2 ^ 64) (hl : rwlLocked h R_RBT_PART_EVCFG 0 j = false)
    (hlow : v / 2 ^ 60 < slotNeed (fget h F_RBT_PART_EXPECT_GATES 0 j)) (who : Requester) (i : Nat) :
    ruledWrite h who R_RBT_PART_EVCFG i j v = logRefusedWrite h who R_RBT_PART_EVCFG 0 j := by
  have hlines : fieldVal F_RBT_PART_EVCFG_SLOT_LINES v = v / 2 ^ 60 % 2 ^ 4 := rfl
  have hplain : fget (plainWrite h R_RBT_PART_EVCFG 0 j v) F_RBT_PART_EVCFG_SLOT_LINES 0 j = v / 2 ^ 60 := by
    rw [fget_plainWrite h 0 j v (by decide +kernel), hl]
    show fieldVal F_RBT_PART_EVCFG_SLOT_LINES v = _
    rw [hlines]
    omega
  rw [ruledWrite_evcfg, hplain, if_pos hlow]

theorem ruledWrite_expect (h : Hw) (who : Requester) (i j v : Nat) :
    ruledWrite h who R_RBT_PART_EXPECT i j v =
      if 8 * (fget h F_RBT_PART_EVCFG_SLOT_LINES 0 j - 1) < popcount 64 v then logRefusedWrite h who R_RBT_PART_EXPECT 0 j
      else fset h F_RBT_PART_EXPECT_GATES (v.land (partOf h j).gates) 0 j := rfl

/-! ### HOSTFN_HOF_CFG -/

theorem ruledWrite_hof (h : Hw) (who : Requester) (i j v : Nat) : ruledWrite h who R_HOSTFN_HOF_CFG i j v = writeHofCfg h i v := rfl

theorem writeHofCfg_enabled {h : Hw} {i : Nat} (he : fget h F_HOSTFN_HOF_CFG_EN i = 1) (v : Nat) :
    writeHofCfg h i v = fset h F_HOSTFN_HOF_CFG_EN (v / 2 ^ 63 % 2) i := by
  have hen : fon h F_HOSTFN_HOF_CFG_EN i = true := beq_iff_eq.mpr he
  simp only [writeHofCfg, hen, if_true]
  rfl

theorem bit_eq_true_iff (v n : Nat) : bit v n = true ↔ v / 2 ^ n % 2 = 1 := beq_iff_eq

/-- Setting EN starts the hand-off ring. -/
theorem writeHofCfg_starts {h : Hw} {i v : Nat} (he : fget h F_HOSTFN_HOF_CFG_EN i ≠ 1) (hv : bit v 63 = true) :
    let t := writeHofCfg h i v
    fget t F_HOSTFN_HOF_CFG_EN i = 1 ∧ fget t F_HOSTFN_HOF_PTR_BUF_HEAD i = 0 ∧ fget t F_HOSTFN_HOF_PTR_CPL_TAIL i = 0 ∧
      (fnOf t i).phase = true ∧ fget t F_HOSTFN_HOF_CFG_BUF_LOG2 i = v % 32 := by
  have hoff : fon h F_HOSTFN_HOF_CFG_EN i = false := beq_eq_false_iff_ne.mpr he
  have hen : fget (plainWrite h R_HOSTFN_HOF_CFG i 0 v) F_HOSTFN_HOF_CFG_EN i = 1 := by
    rw [fget_plainWrite_rw _ _ _ _ (by decide +kernel) rfl]
    exact (bit_eq_true_iff v 63).mp hv
  have hlog : fget (plainWrite h R_HOSTFN_HOF_CFG i 0 v) F_HOSTFN_HOF_CFG_BUF_LOG2 i = v % 32 := by
    rw [fget_plainWrite_rw _ _ _ _ (by decide +kernel) rfl]
    exact congrArg (· % 32) (Nat.div_one v)
  have hon : fon (plainWrite h R_HOSTFN_HOF_CFG i 0 v) F_HOSTFN_HOF_CFG_EN i = true := beq_iff_eq.mpr hen
  simp only [writeHofCfg, hoff, hon, Bool.false_eq_true, if_false, if_true, fget_setFn, fnOf_setFn, fget_fset_same, Nat.zero_mod]
  refine ⟨?_, ?_, trivial, trivial, ?_⟩
  · simp (disch := decide) only [fget_fset_id, hen]
  · simp (disch := decide) only [fget_fset_id, fget_fset_same, Nat.zero_mod]
  · simp (disch := decide) only [fget_fset_id, hlog]

end Sys2Proof.Proofs


/-!
The dirty log, cache enables, routers, windows, shadow registers, and the registers that are shared by their bits.
-/

namespace Sys2Proof.Proofs
open Sys2Proof Sys2Proof.Machine

/-! ### HOSTFN_DLOG_CFG -/

theorem exec_registerWrite_dlog {who : Requester} {addr : Nat} {s : State} {i j : Nat}
    (ha : regAccess s.hw who addr 8 = some (R_HOSTFN_DLOG_CFG, i, j)) (hmay : mayWrite s.hw who R_HOSTFN_DLOG_CFG i j = true) {data : BitVec 64}
    (hv : fieldVal F_HOSTFN_DLOG_CFG_CMD data.toNat ≠ 1) :
    exec (.registerWrite who addr 8 data) s = .next { s with hw := writeDlogCfg (setBusErr s.hw false) i data.toNat } := by
  have hwrite : writeReg (setBusErr s.hw false) who R_HOSTFN_DLOG_CFG i j data.toNat = writeDlogCfg (setBusErr s.hw false) i data.toNat := by
    rw [writeReg_rights (by decide) (by decide) (by decide), mayWrite_setBusErr, hmay]
    rfl
  rw [exec_registerWrite_some ha, wordWritten_eight, accessed_of_awake (wakeFor_of_window (by decide) s.hw i)]
  simp only [performed, regCommand_of_not_commandReg (r := R_HOSTFN_DLOG_CFG) (by decide), beq_eq_false_iff_ne.mpr hv, beq_self_eq_true,
    Bool.false_eq_true, if_false, if_true, State.upd, hwrite]
  rfl

/-- Setting EN clears OVERFLOW and empties the filter. -/
theorem writeDlogCfg_starts {h : Hw} {i v : Nat} (hc : fieldVal F_HOSTFN_DLOG_CFG_CMD v ≠ 1) (he : fget h F_HOSTFN_DLOG_CFG_EN i ≠ 1)
    (hv : bit v 0 = true) :
    let t := writeDlogCfg h i v
    fget t F_HOSTFN_DLOG_CFG_EN i = 1 ∧ fget t F_HOSTFN_DLOG_CFG_OVERFLOW i = 0 ∧ (fnOf t i).dlog = [] := by
  have hoff : fon h F_HOSTFN_DLOG_CFG_EN i = false := beq_eq_false_iff_ne.mpr he
  have hen : fget (plainWrite h R_HOSTFN_DLOG_CFG i 0 v) F_HOSTFN_DLOG_CFG_EN i = 1 := by
    rw [fget_plainWrite_rw _ _ _ _ (by decide +kernel) rfl]
    exact (bit_eq_true_iff v 0).mp hv
  have hon : fon (plainWrite h R_HOSTFN_DLOG_CFG i 0 v) F_HOSTFN_DLOG_CFG_EN i = true := beq_iff_eq.mpr hen
  have hstart : dlogStarted h i v = setFn (fset (plainWrite h R_HOSTFN_DLOG_CFG i 0 v) F_HOSTFN_DLOG_CFG_OVERFLOW 0 i) i
      { fnOf (plainWrite h R_HOSTFN_DLOG_CFG i 0 v) i with dlog := [] } := by
    simp only [dlogStarted, hoff, hon, Bool.not_false, Bool.and_self, if_true]
  simp only [writeDlogCfg_of_no_sync hc]
  refine ⟨?_, ?_, ?_⟩
  · rw [fget_answer_other _ _ _ (by decide) (by decide), fget_dlogStarted _ _ _ (by decide), hen]
  · rw [fget_answer_other _ _ _ (by decide) (by decide), hstart, fget_setFn, fget_fset_same, Nat.zero_mod]
  · show (fnOf (dlogStarted h i v) i).dlog = []
    rw [hstart, fnOf_setFn]

/-! ### CACHE_EN and LLC_CFG -/

theorem ruledWrite_cacheEn (h : Hw) (who : Requester) (i j v : Nat) :
    ruledWrite h who R_CACHE_EN i j v =
      if refusesEnable h .l1d i v || refusesEnable h .l2 i v then logRefusedWrite h who R_CACHE_EN i j
      else writeEnable (writeEnable h who .l1d i v) who .l2 i v := rfl

theorem ruledWrite_llcCfg_refused {h : Hw} {i v : Nat} (hr : refusesEnable h .llc i v = true) (who : Requester) (j : Nat) :
    ruledWrite h who R_LLC_CFG i j v = logRefusedWrite h who R_LLC_CFG i j := by
  show (if refusesEnable h .llc i v then _ else _) = _
  rw [if_pos hr]

/-- A cache that is still cleaning cannot be enabled. -/
theorem refusesEnable_of_cleaning {h : Hw} {which : CacheSel} {k v : Nat} (hv : fieldVal (enableField which) v = 1)
    (hc : fget h (enableField which) k = 2) : refusesEnable h which k v = true := by
  simp only [refusesEnable, hv, hc, beq_self_eq_true]

/-- A slice with SCRATCH ways or locked lines cannot be disabled. -/
theorem refusesEnable_of_bound {h : Hw} {k v : Nat} (hv : fieldVal F_LLC_CFG_EN v = 0) (he : fget h F_LLC_CFG_EN k = 1)
    (hb : fget h F_LLC_CFG_SP_WAYS k ≠ 0 ∨ ∃ e ∈ sliceLines h k, e.2.locked = true) : refusesEnable h .llc k v = true := by
  have hbound : sliceBound h k = true := by
    simp only [sliceBound, Bool.or_eq_true, bne_iff_ne, List.any_eq_true]
    exact hb
  simp only [refusesEnable, enableField, hv, he, hbound]
  rfl

/-- The writes of cache enables that have no effect. -/
theorem writeEnable_refused {h : Hw} {r : Reg} {i v : Nat} (who : Requester) (j : Nat)
    (hb : (r = R_CACHE_EN ∧ ((v % 4 = 1 ∧ fget h F_CACHE_EN_L1D_EN i = 2) ∨ (v / 4 % 4 = 1 ∧ fget h F_CACHE_EN_L2_EN i = 2))) ∨
      (r = R_LLC_CFG ∧ ((fieldVal F_LLC_CFG_EN v = 1 ∧ fget h F_LLC_CFG_EN i = 2) ∨
        (fieldVal F_LLC_CFG_EN v = 0 ∧ fget h F_LLC_CFG_EN i = 1 ∧
          (fget h F_LLC_CFG_SP_WAYS i ≠ 0 ∨ ∃ e ∈ sliceLines h i, e.2.locked = true))))) :
    ruledWrite h who r i j v = logRefusedWrite h who r i j := by
  rcases hb with ⟨rfl, ⟨hv, hc⟩ | ⟨hv, hc⟩⟩ | ⟨rfl, ⟨hv, hc⟩ | ⟨hv, he, hb⟩⟩
  · have hl1 : refusesEnable h .l1d i v = true := refusesEnable_of_cleaning ((congrArg (· % 4) (Nat.div_one v)).trans hv) hc
    rw [ruledWrite_cacheEn, hl1, Bool.true_or, if_pos rfl]
  · have hl2 : refusesEnable h .l2 i v = true := refusesEnable_of_cleaning hv hc
    rw [ruledWrite_cacheEn, hl2, Bool.or_true, if_pos rfl]
  · exact ruledWrite_llcCfg_refused (refusesEnable_of_cleaning hv hc) who j
  · exact ruledWrite_llcCfg_refused (refusesEnable_of_bound hv he hb) who j

theorem underRights_of_enable {r : Reg} (hr : r = R_CACHE_EN ∨ r = R_LLC_CFG) : underRights r = true := by
  rcases hr with rfl | rfl <;> decide

/-! ### STR_CFG -/

theorem ruledWrite_strCfg (h : Hw) (who : Requester) (i j v : Nat) : ruledWrite h who R_STR_CFG i j v = writeStrCfg h who i v := rfl

/-- IDLE_US is written; ROUTER_SLEEP has a rule of its own. -/
def idleWritten (h : Hw) (i v : Nat) : Hw := fset h F_STR_CFG_IDLE_US (fieldVal F_STR_CFG_IDLE_US v) i 0

theorem writeStrCfg_kydin {i : Nat} (hsq : (squareOf i).isSome = true) (h : Hw) (v : Nat) :
    writeStrCfg h .kydin i v = writeRouterSleep (idleWritten h i v) .kydin i (fieldVal F_STR_CFG_ROUTER_SLEEP v) := by
  simp only [writeStrCfg, hsq, beq_self_eq_true, Bool.and_self, if_true]
  rfl

theorem fget_idleWritten (h : Hw) (i v : Nat) : fget (idleWritten h i v) F_STR_CFG_IDLE_US i = fieldVal F_STR_CFG_IDLE_US v :=
  (fget_fset_same _ _ _ _ _).trans (fieldVal_fits _ _)

theorem fget_idleWritten_other (h : Hw) (i v : Nat) {g : Field} (hg : F_STR_CFG_IDLE_US.id ≠ g.id) (i' j' : Nat) :
    fget (idleWritten h i v) g i' j' = fget h g i' j' := fget_fset_id _ _ _ _ _ _ _ _ hg

theorem fon_idleWritten (h : Hw) (i v : Nat) {g : Field} (hg : F_STR_CFG_IDLE_US.id ≠ g.id) (i' j' : Nat) :
    fon (idleWritten h i v) g i' j' = fon h g i' j' := fon_eq_of_fget (fget_idleWritten_other h i v hg i' j')

/-- Whether ROUTER_SLEEP is locked depends on the lock and on the resets that run, which IDLE_US does not touch. -/
theorem rwlLocked_idleWritten (h : Hw) (i v : Nat) : rwlLocked (idleWritten h i v) R_STR_CFG i 0 = rwlLocked h R_STR_CFG i 0 := by
  have hlocked := fon_idleWritten h i v (g := F_BOOT_STATUS_LOCKED) (by decide) 0 0
  have hbusy := fget_idleWritten_other h i v (g := F_PART_RESET_BUSY) (by decide) 0 0
  simp only [rwlLocked, hlocked, hbusy]
  rfl

theorem gridPowered_idleWritten (h : Hw) (i v : Nat) : gridPowered (idleWritten h i v) = gridPowered h := by
  simp only [gridPowered, fget_idleWritten_other h i v (g := F_MODE_STATUS_MODE) (by decide)]
  rfl

theorem asleep_idleWritten (h : Hw) (i v : Nat) : asleep (idleWritten h i v) i = asleep h i := by
  simp only [asleep, pwrOf, fget_idleWritten_other h i v (g := F_STR_STATUS_PWR) (by decide)]

/-- A new value of ROUTER_SLEEP asks for a fence. -/
theorem writeRouterSleep_fences {h : Hw} {i v : Nat} (hl : rwlLocked h R_STR_CFG i 0 = false) (hg : gridPowered h = true)
    (hv : v ≠ fget h F_STR_CFG_ROUTER_SLEEP i) (who : Requester) :
    writeRouterSleep h who i v =
      if (startFence h i (8 - v)).2 == rcBusy then logRefusedWrite (startFence h i (8 - v)).1 who R_STR_CFG i 0 else (startFence h i (8 - v)).1 := by
  simp only [writeRouterSleep, hl, hg, beq_eq_false_iff_ne.mpr hv, Bool.or_self, Bool.not_true, Bool.false_eq_true, if_false]

theorem startFence_starts {h : Hw} {i : Nat} (hf : h.grid.fence = none) (ha : asleep h i = false) (code : Nat) :
    startFence h i code = (fset { h with grid := { h.grid with fence := some (i, code) } } F_STR_STATUS_FENCED 1 i, rcRunning) := by
  simp only [startFence, hf, ha, Option.isSome_none, Bool.false_eq_true, if_false]

theorem startFence_busy {h : Hw} (hf : h.grid.fence.isSome = true) (i code : Nat) : startFence h i code = (h, rcBusy) := by
  simp only [startFence, hf, if_true]

theorem logRec_grid (h : Hw) (r : ErrRec) : (logRec h r).grid = h.grid := by
  simp only [logRec]
  split <;> rfl

theorem fget_logRec (h : Hw) (r : ErrRec) {g : Field} (hg : F_KYD_ELOG_SEQ_NEXT.id ≠ g.id) (i j : Nat) :
    fget (logRec h r) g i j = fget h g i j := by
  simp only [logRec]
  split
  · rfl
  · exact fget_fset_id _ _ _ _ _ _ _ _ hg

section
variable {h : Hw} {i v : Nat} (hsq : (squareOf i).isSome = true)
include hsq

/-- Without a change of ROUTER_SLEEP only IDLE_US is written. -/
theorem writeStrCfg_same (hv : fieldVal F_STR_CFG_ROUTER_SLEEP v = fget h F_STR_CFG_ROUTER_SLEEP i) :
    writeStrCfg h .kydin i v = idleWritten h i v := by
  have hsame := hv.trans (fget_idleWritten_other h i v (g := F_STR_CFG_ROUTER_SLEEP) (by decide) i 0).symm
  rw [writeStrCfg_kydin hsq, writeRouterSleep, if_pos]
  rw [Bool.or_eq_true, beq_iff_eq]
  exact .inr hsame

variable (hl : rwlLocked h R_STR_CFG i 0 = false) (hg : gridPowered h = true)
  (hv : fieldVal F_STR_CFG_ROUTER_SLEEP v ≠ fget h F_STR_CFG_ROUTER_SLEEP i)
include hl hg hv

theorem writeStrCfg_change :
    let n := startFence (idleWritten h i v) i (8 - fieldVal F_STR_CFG_ROUTER_SLEEP v)
    writeStrCfg h .kydin i v = if n.2 == rcBusy then logRefusedWrite n.1 .kydin R_STR_CFG i 0 else n.1 := by
  have hl' := (rwlLocked_idleWritten h i v).trans hl
  have hg' := (gridPowered_idleWritten h i v).trans hg
  rw [writeStrCfg_kydin hsq, writeRouterSleep_fences hl' hg']
  rw [fget_idleWritten_other _ _ _ (by decide)]
  exact hv

/-- ROUTER_SLEEP changes under a fence. -/
theorem writeStrCfg_fences (hf : h.grid.fence = none) (ha : asleep h i = false) :
    let t := writeStrCfg h .kydin i v
    t.grid.fence = some (i, 8 - fieldVal F_STR_CFG_ROUTER_SLEEP v) ∧ fget t F_STR_STATUS_FENCED i = 1 ∧
      fget t F_STR_CFG_ROUTER_SLEEP i = fget h F_STR_CFG_ROUTER_SLEEP i ∧ fget t F_STR_CFG_IDLE_US i = fieldVal F_STR_CFG_IDLE_US v := by
  have hstart := startFence_starts (h := idleWritten h i v) hf ((asleep_idleWritten h i v).trans ha) (8 - fieldVal F_STR_CFG_ROUTER_SLEEP v)
  have hnot : (rcRunning == rcBusy) = false := rfl
  rw [writeStrCfg_change hsq hl hg hv, hstart]
  simp only [hnot, Bool.false_eq_true, if_false]
  refine ⟨rfl, ?_, ?_, ?_⟩
  · rw [fget_fset_same]; decide
  · rw [fget_fset_id _ _ _ _ _ _ _ _ (by decide)]
    exact fget_idleWritten_other h i v (by decide) i 0
  · rw [fget_fset_id _ _ _ _ _ _ _ _ (by decide)]
    exact fget_idleWritten h i v

/-- While another fence runs ROUTER_SLEEP keeps its value. -/
theorem writeStrCfg_busy (hf : h.grid.fence.isSome = true) :
    let t := writeStrCfg h .kydin i v
    t.grid = h.grid ∧ fget t F_STR_CFG_ROUTER_SLEEP i = fget h F_STR_CFG_ROUTER_SLEEP i := by
  have hbusy := startFence_busy (h := idleWritten h i v) hf i (8 - fieldVal F_STR_CFG_ROUTER_SLEEP v)
  rw [writeStrCfg_change hsq hl hg hv, hbusy]
  simp only [beq_self_eq_true, if_true]
  exact ⟨logRec_grid _ _, (fget_logRec _ _ (by decide) i 0).trans (fget_idleWritten_other h i v (by decide) i 0)⟩

end

/-! ### HOSTFN_WINw_MAP -/

/-- A normal-world write leaves SECURE as it is. -/
theorem writeWinMap_keeps_secure {h : Hw} {who : Requester} {i j : Nat} (hk : who ≠ .kydin) (hs : isSecureOf h who (partOfFn i) = false)
    (hbit : fget h F_HOSTFN_WIN_MAP_SECURE i j < 2) (v : Nat) :
    fget (writeWinMap h who i j v) F_HOSTFN_WIN_MAP_SECURE i j = fget h F_HOSTFN_WIN_MAP_SECURE i j := by
  simp only [writeWinMap, beq_eq_false_iff_ne.mpr hk, hs, Bool.or_self, Bool.false_eq_true, if_false, fget_fset_same]
  exact Nat.mod_eq_of_lt hbit

end Sys2Proof.Proofs


/-!
INT_CTRL and the owner-world registers by their bits, and the shadow registers of Avenue.
-/

namespace Sys2Proof.Proofs
open Sys2Proof Sys2Proof.Machine

/-! ### Bits -/

theorem bit_eq_testBit (v n : Nat) : bit v n = v.testBit n := by
  rw [Nat.testBit_eq_decide_div_mod_eq]
  rfl

/-- Adding the power of a bit that is clear sets that bit alone. -/
theorem bit_add_two_pow {w n : Nat} (hw : bit w n = false) (m : Nat) : bit (w + 2 ^ n) m = if m = n then true else bit w m := by
  simp only [bit_eq_testBit] at hw ⊢
  rw [Nat.add_comm]
  rcases Nat.lt_trichotomy m n with hlt | rfl | hgt
  · rw [Nat.testBit_two_pow_add_gt hlt, if_neg (by omega)]
  · rw [Nat.testBit_two_pow_add_eq, hw, if_pos rfl]
    rfl
  · rw [if_neg (by omega)]
    obtain ⟨k, rfl⟩ : ∃ k, m = n + (k + 1) := ⟨m - n - 1, by omega⟩
    have heven : w / 2 ^ n % 2 = 0 := by
      have hbit : ¬w / 2 ^ n % 2 = 1 := by simpa [Nat.testBit_eq_decide_div_mod_eq] using hw
      omega
    have hadd : (2 ^ n + w) / 2 ^ n = w / 2 ^ n + 1 := Nat.add_div_left w (Nat.two_pow_pos n)
    have hhalf : (2 ^ n + w) / 2 ^ n / 2 = w / 2 ^ n / 2 := by omega
    simp only [← Nat.testBit_div_two_pow, Nat.testBit_succ, hhalf, Nat.add_comm n]

theorem bit_setBit (v n : Nat) (b : Bool) (m : Nat) : bit (setBit v n b) m = if m = n then b else bit v m := by
  unfold setBit
  by_cases hb : bit v n = b
  · rw [if_pos hb]
    split
    · next heq => rw [heq, hb]
    · rfl
  · rw [if_neg hb]
    cases b with
    | true => exact bit_add_two_pow (Bool.eq_false_iff.mpr hb) m
    | false =>
      have hset : bit v n = true := by simpa using hb
      have hodd : v / 2 ^ n % 2 = 1 := (bit_eq_true_iff v n).mp hset
      have hle : 2 ^ n ≤ v := by
        by_contra hlt
        rw [Nat.div_eq_of_lt (by omega)] at hodd
        exact absurd hodd (by decide)
      have hclear : bit (v - 2 ^ n) n = false := by
        have hsub : (v - 2 ^ n) / 2 ^ n = v / 2 ^ n - 1 := by simpa using Nat.sub_mul_div v (2 ^ n) 1
        rw [Bool.eq_false_iff]
        intro h
        have := (bit_eq_true_iff _ n).mp h
        omega
      have hadd := bit_add_two_pow hclear m
      rw [Nat.sub_add_cancel hle] at hadd
      simp only [Bool.false_eq_true, if_false]
      by_cases hm : m = n
      · rw [if_pos hm, hm]; exact hclear
      · rw [if_neg hm] at hadd ⊢
        exact hadd.symm

/-- The bits of `l` that a condition allows are taken from the word. -/
theorem bit_foldl_setBit (v : Nat) (c : Nat → Bool) (l : List Nat) (a m : Nat) :
    bit (l.foldl (fun a u => if c u then setBit a u (bit v u) else a) a) m = if m ∈ l ∧ c m = true then bit v m else bit a m := by
  induction l generalizing a with
  | nil => simp
  | cons u l ih =>
    refine (ih _).trans ?_
    by_cases hl : m ∈ l ∧ c m = true
    · rw [if_pos hl, if_pos ⟨List.mem_cons_of_mem _ hl.1, hl.2⟩]
    · rw [if_neg hl]
      beta_reduce
      by_cases hu : c u = true
      · rw [if_pos hu, bit_setBit]
        by_cases hm : m = u
        · rw [if_pos hm, if_pos ⟨by rw [hm]; exact List.mem_cons_self, by rw [hm]; exact hu⟩, hm]
        · rw [if_neg hm, if_neg fun ⟨hmem, hc⟩ => hl ⟨(List.mem_cons.mp hmem).resolve_left hm, hc⟩]
      · rw [if_neg hu, if_neg]
        rintro ⟨hmem, hc⟩
        rcases List.mem_cons.mp hmem with rfl | hmem
        · exact hu hc
        · exact hl ⟨hmem, hc⟩

theorem bit_mod_two_pow {w m : Nat} (hm : m < w) (v : Nat) : bit (v % 2 ^ w) m = bit v m := by
  simp only [bit_eq_testBit, Nat.testBit_mod_two_pow, hm, decide_true, Bool.true_and]

/-! ### INT_CTRL -/

/-- The requester may change what belongs to a partition. -/
def mine (h : Hw) (who : Requester) (p : Nat) : Bool := who == .kydin || isSecureOf h who p

theorem mine_iff (h : Hw) (who : Requester) (p : Nat) : mine h who p = true ↔ who = .kydin ∨ isSecureOf h who p = true := by
  simp only [mine, Bool.or_eq_true, beq_iff_eq]

/-- ALL_DISABLE is Kydin's. -/
def allDisableWritten (h : Hw) (who : Requester) (v : Nat) : Hw :=
  if who == .kydin then writeField false h F_INT_CTRL_ALL_DISABLE 0 0 v else h

theorem fget_allDisableWritten (h : Hw) (who : Requester) (v : Nat) {g : Field} (hg : F_INT_CTRL_ALL_DISABLE.id ≠ g.id) (i j : Nat) :
    fget (allDisableWritten h who v) g i j = fget h g i j := by
  unfold allDisableWritten
  split
  · exact fget_writeField_ne _ _ (key_ne_of_id _ _ _ _ _ _ hg) v
  · rfl

theorem writeIntCtrl_nobody {h : Hw} {who : Requester} (hn : ∀ p, p < 8 → mine h who p = false) (v : Nat) :
    writeIntCtrl h who v = logRefusedWrite h who R_INT_CTRL 0 0 := by
  have hempty : (List.range 8).filter (mine h who) = [] :=
    List.filter_eq_nil_iff.mpr fun p hp hm => absurd (hn p (List.mem_range.mp hp)) (by rw [hm]; decide)
  unfold mine at hempty
  simp only [writeIntCtrl, hempty, List.isEmpty_nil, if_true]

theorem writeIntCtrl_somebody {h : Hw} {who : Requester} {p : Nat} (hp : p < 8) (hm : mine h who p = true) (v : Nat) :
    writeIntCtrl h who v = fset (allDisableWritten h who v) F_INT_CTRL_DISABLE
      ((List.range 8).foldl (fun a p => if mine h who p then setBit a p (bit v p) else a) (fget h F_INT_CTRL_DISABLE)) := by
  have hmem : p ∈ (List.range 8).filter (mine h who) := List.mem_filter.mpr ⟨List.mem_range.mpr hp, hm⟩
  have hnonempty : ((List.range 8).filter (mine h who)).isEmpty = false :=
    Bool.eq_false_iff.mpr fun he => by rw [List.isEmpty_iff.mp he] at hmem; exact absurd hmem List.not_mem_nil
  have hkeep := fget_allDisableWritten h who v (g := F_INT_CTRL_DISABLE) (by decide) 0 0
  rw [← List.foldl_filter, ← hkeep]
  unfold mine at hnonempty
  simp only [writeIntCtrl, hnonempty, Bool.false_eq_true, if_false]
  rfl

/-- Each partition's bit is changed by Kydin and by its secure world alone. -/
theorem writeIntCtrl_bits {h : Hw} {who : Requester} {p : Nat} (hp : p < 8) (hm : mine h who p = true) (v : Nat) {q : Nat} (hq : q < 8) :
    bit (fget (writeIntCtrl h who v) F_INT_CTRL_DISABLE) q = if mine h who q then bit v q else bit (fget h F_INT_CTRL_DISABLE) q := by
  rw [writeIntCtrl_somebody hp hm, fget_fset_same, bit_mod_two_pow (show q < F_INT_CTRL_DISABLE.width from hq), bit_foldl_setBit]
  simp only [List.mem_range, hq, true_and]

theorem writeIntCtrl_keeps_all {h : Hw} {who : Requester} {p : Nat} (hp : p < 8) (hm : mine h who p = true) (hk : who ≠ .kydin) (v : Nat) :
    fget (writeIntCtrl h who v) F_INT_CTRL_ALL_DISABLE = fget h F_INT_CTRL_ALL_DISABLE := by
  rw [writeIntCtrl_somebody hp hm, fget_fset_id _ _ _ _ _ _ _ _ (by decide), allDisableWritten, beq_eq_false_iff_ne.mpr hk]
  rfl

/-! ### OWNW_GATE -/

/-- The requester may change the world of a gate. -/
def mineGate (h : Hw) (who : Requester) (g : Nat) : Bool := match ownerGate h g with | some p => mine h who p | none => false

theorem mineGate_iff (h : Hw) (who : Requester) (g : Nat) :
    mineGate h who g = true ↔ ∃ p, ownerGate h g = some p ∧ (who = .kydin ∨ isSecureOf h who p = true) := by
  unfold mineGate
  cases ownerGate h g <;> simp [mine_iff]

theorem ownwGate_fields : R_OWNW_GATE.fields = [F_OWNW_GATE_GATE] := by decide +kernel

theorem writeOwnw_gate (h : Hw) (who : Requester) (v : Nat) :
    writeOwnw h who R_OWNW_GATE v = fset h F_OWNW_GATE_GATE
      ((List.range 64).foldl (fun a u => if mineGate h who u then setBit a u (bit v u) else a) (fget h F_OWNW_GATE_GATE)) := by
  have howner : ∀ u, ownwOwner h R_OWNW_GATE u = ownerGate h u := fun _ => rfl
  have hstep : (fun (a u : Nat) => match ownerGate h u with
      | some p => if (who == .kydin || isSecureOf h who p) = true then setBit a u (bit v u) else a
      | none => a) = fun a u => if mineGate h who u then setBit a u (bit v u) else a := by
    funext a u
    unfold mineGate mine
    cases ownerGate h u <;> rfl
  simp only [writeOwnw, ownwGate_fields, howner]
  rw [← hstep]
  rfl

theorem writeOwnw_gate_bits (h : Hw) (who : Requester) (v : Nat) {g : Nat} (hg : g < 64) :
    bit (fget (writeOwnw h who R_OWNW_GATE v) F_OWNW_GATE_GATE) g = if mineGate h who g then bit v g else bit (fget h F_OWNW_GATE_GATE) g := by
  rw [writeOwnw_gate, fget_fset_same, bit_mod_two_pow (show g < F_OWNW_GATE_GATE.width from hg), bit_foldl_setBit]
  simp only [List.mem_range, hg, true_and]

/-! ### Shadow registers -/

/-- One field of a shadow register while a COMMIT is pending. -/
def shadowStep (j v : Nat) (h : Hw) (f : Field) : Hw :=
  if f.acc != .rw then h
  else if shadowFields.contains f then { h with ave := { h.ave with waiting := h.ave.waiting ++ [(f.key 0 j, fieldVal f v)] } }
  else writeField false h f 0 j v

theorem writeShadow_pending {h : Hw} (hp : fget h F_AVE_STATUS_COMMIT_PENDING = 1) (r : Reg) (j v : Nat) :
    writeShadow h r j v = r.fields.foldl (shadowStep j v) h := by
  have hon : fon h F_AVE_STATUS_COMMIT_PENDING = true := beq_iff_eq.mpr hp
  simp only [writeShadow, hon, if_true]
  rfl

/-- No shadow field changes. -/
theorem fget_shadowStep {f g : Field} (hf : f ∈ allFields) (hg : g ∈ shadowFields) (j v : Nat) (h : Hw) (x y : Nat) :
    fget (shadowStep j v h f) g x y = fget h g x y := by
  unfold shadowStep
  split
  · rfl
  · split
    · rfl
    · next hn =>
      refine fget_writeField_ne _ _ (key_ne_of_id _ _ _ _ _ _ fun hid => hn ?_) v
      rw [field_eq_of_id hf (shadowFields_sub g hg) hid]
      exact List.contains_iff_mem.mpr hg

theorem fget_foldl_shadowStep {g : Field} (hg : g ∈ shadowFields) (j v : Nat) {l : List Field} (hl : ∀ f ∈ l, f ∈ allFields) (h : Hw) (x y : Nat) :
    fget (l.foldl (shadowStep j v) h) g x y = fget h g x y := by
  induction l generalizing h with
  | nil => rfl
  | cons f l ih =>
    exact (ih (fun f hf => hl f (List.mem_cons_of_mem _ hf)) _).trans (fget_shadowStep (hl f List.mem_cons_self) hg j v h x y)

theorem writeField_ave (locked : Bool) (h : Hw) (f : Field) (i j v : Nat) : (writeField locked h f i j v).ave = h.ave :=
  (congrArg Hw.ave (bare_writeField locked h f i j v) : (bare (writeField locked h f i j v)).ave = (bare h).ave)

/-- What waits goes on waiting. -/
theorem shadowStep_waiting {j v : Nat} {h : Hw} (f : Field) {e : Nat × Nat} (he : e ∈ h.ave.waiting) : e ∈ (shadowStep j v h f).ave.waiting := by
  unfold shadowStep
  split
  · exact he
  · split
    · exact List.mem_append_left _ he
    · rw [writeField_ave]; exact he

theorem foldl_shadowStep_waiting (j v : Nat) (l : List Field) {h : Hw} {e : Nat × Nat} (he : e ∈ h.ave.waiting) :
    e ∈ (l.foldl (shadowStep j v) h).ave.waiting := by
  induction l generalizing h with
  | nil => exact he
  | cons f l ih => exact ih (shadowStep_waiting f he)

/-- A shadow field's part of the word waits. -/
theorem foldl_shadowStep_adds (j v : Nat) {l : List Field} {f : Field} (hf : f ∈ l) (hs : f ∈ shadowFields) (hacc : f.acc = .rw) (h : Hw) :
    (f.key 0 j, fieldVal f v) ∈ (l.foldl (shadowStep j v) h).ave.waiting := by
  induction l generalizing h with
  | nil => exact absurd hf List.not_mem_nil
  | cons g l ih =>
    rcases List.mem_cons.mp hf with rfl | hmem
    · refine foldl_shadowStep_waiting j v l ?_
      have hrw : (f.acc != .rw) = false := by rw [hacc]; rfl
      simp only [shadowStep, hrw, List.contains_iff_mem.mpr hs, Bool.false_eq_true, if_false, if_true]
      exact List.mem_append_right _ List.mem_cons_self
    · exact ih hmem _

theorem avenue_commands : ∀ x ∈ R_INT_SRC_STATE :: R_INT_SRC_CFG :: R_INT_CTRL :: commandRegs, x.n0 = 0x4 → (cmdRegOf x).isSome = true ∨ x = R_AVE_VOTE := by
  decide +kernel

theorem table_has_commands : ∀ x ∈ R_INT_SRC_STATE :: R_INT_SRC_CFG :: R_INT_CTRL :: commandRegs, allRegs[x.id]? = some x := by decide +kernel

/-- A register of Avenue without a command is under rights. -/
theorem underRights_of_avenue {r : Reg} (hr : r ∈ allRegs) (h4 : r.n0 = 0x4) (hc : cmdRegOf r = none) (hv : r ≠ R_AVE_VOTE) :
    underRights r = true := by
  have hids := not_mem_ids table_has_commands hr fun hmem =>
    (avenue_commands r hmem h4).elim (fun hs => by rw [hc] at hs; exact absurd hs (by decide)) hv
  simp only [List.map_cons, List.mem_cons, not_or] at hids
  obtain ⟨hsrc, hcfg, hctrl, hcmd⟩ := hids
  exact (underRights_iff r).mpr ⟨⟨hsrc, hcfg, hctrl, hcmd⟩, hc, by simp [isOwnw, h4]⟩

theorem ruled_not_avenue : ∀ x ∈ ruledRegs, x.n0 ≠ 0x4 := by decide
theorem table_has_rules : ∀ x ∈ ruledRegs, allRegs[x.id]? = some x := by decide +kernel

theorem ruledWrite_avenue {r : Reg} (hr : r ∈ allRegs) (h4 : r.n0 = 0x4) (h : Hw) (who : Requester) (i j v : Nat) :
    ruledWrite h who r i j v = writeShadow h r j v := by
  have hids := not_mem_ids table_has_rules hr fun hmem => ruled_not_avenue r hmem h4
  have hne : ∀ x : Reg, x.id ∈ ruledRegs.map (·.id) → (r.id == x.id) = false := fun x hx =>
    beq_eq_false_iff_ne.mpr fun heq => hids (heq ▸ hx)
  simp (disch := decide) only [ruledWrite, hne, h4, beq_self_eq_true, Bool.false_eq_true, if_false, if_true]

/-- While a COMMIT is pending a write of a register of Avenue waits. -/
theorem ruledWrite_waits {r : Reg} (hr : r ∈ allRegs) (h4 : r.n0 = 0x4) {h : Hw} (hp : fget h F_AVE_STATUS_COMMIT_PENDING = 1) (who : Requester)
    (i j v : Nat) :
    let t := ruledWrite h who r i j v
    (∀ f ∈ shadowFields, ∀ x y, fget t f x y = fget h f x y) ∧
    (∀ f ∈ r.fields, f ∈ shadowFields → f.acc = .rw → (f.key 0 j, fieldVal f v) ∈ t.ave.waiting) ∧ ∀ e ∈ h.ave.waiting, e ∈ t.ave.waiting := by
  simp only [ruledWrite_avenue hr h4, writeShadow_pending hp]
  exact ⟨fun f hf x y => fget_foldl_shadowStep hf j v (fun _ => mem_allFields_of_mem_fields) h x y,
    fun f hf hs hacc => foldl_shadowStep_adds j v hf hs hacc h, fun e he => foldl_shadowStep_waiting j v r.fields he⟩

end Sys2Proof.Proofs


/-!
The obligation on register writes: each clause from the rule of its register.
-/

namespace Sys2Proof.Proofs
open Sys2Proof Sys2Proof.Machine

/-! ### Words that are commands -/

/-- A command that the table gives a word is what the write performs. -/
theorem exec_registerWrite_as {who : Requester} {addr : Nat} {data : BitVec 64} {s : State} {r : Reg} {i j : Nat}
    (ha : regAccess s.hw who addr 8 = some (r, i, j)) (hsrc : r ≠ R_INT_SRC_STATE) {o : Host.Outcome State Fault Refusal}
    (hc : regCommand who r i j data.toNat (accessed s r i) = some o) {t : State} (ho : o = .next t) :
    exec (.registerWrite who addr 8 data) s = o := by
  subst ho
  exact exec_registerWrite_command ha data hsrc hc

theorem regCommand_bootCtrl {v : Nat} (who : Requester) (i j : Nat) (s : State) :
    (fieldVal F_BOOT_CTRL_CMD v = 1 → regCommand who R_BOOT_CTRL i j v s = some (exec (.bootCommit who) s)) ∧
    (fieldVal F_BOOT_CTRL_CMD v = 4 → regCommand who R_BOOT_CTRL i j v s = some (exec (.verifySlotA who) s)) := by
  refine ⟨fun hv => ?_, fun hv => ?_⟩
  · simp only [regCommand, hv]; rfl
  · simp only [regCommand, hv]; rfl

theorem regCommand_modeRequest (who : Requester) (i j v : Nat) (s : State) :
    regCommand who R_MODE_REQUEST i j v s = some (exec (.modeRequest who (BitVec.ofNat 3 v)) s) := rfl

theorem regCommand_engReset {v : Nat} (hv : fieldVal F_ENG_RESET_CMD v = 1) (who : Requester) (i j : Nat) (s : State) :
    regCommand who R_ENG_RESET i j v s = some (exec (.engineReset who (Fin.ofNat 24 i)) s) := by
  simp only [regCommand, hv]; rfl

theorem regCommand_coreCmd {v : Nat} (hv : fieldVal F_CORE_CMD_CMD v = 1) (who : Requester) (i j : Nat) (s : State) :
    regCommand who R_CORE_CMD i j v s = some (exec (.start who (Fin.ofNat 160 i) (bit v 4)) s) := by
  simp only [regCommand, hv]; rfl

/-- A word of INT_SRC_STATE is an event, a clear, or nothing. -/
theorem registerWrite_srcState {who : Requester} {addr : Nat} {data : BitVec 64} {s : State} {i j : Nat}
    (ha : regAccess s.hw who addr 8 = some (R_INT_SRC_STATE, i, j)) :
    let c := Instr.registerWrite who addr 8 data
    let v := data.toNat
    let s1 := accessed s R_INT_SRC_STATE i
    let n : Fin 2064 := Fin.ofNat 2064 j
    (bit v 63 = true → bit v 0 = false → exec c s = exec (.sourceEvent (some who) n) s1) ∧
    (bit v 63 = false → bit v 0 = true → exec c s = exec (.clear who n) s1) ∧ (bit v 63 = false → bit v 0 = false → exec c s = .next s1) := by
  have hexec : exec (.registerWrite who addr 8 data) s = .next (writeSrcState who j data.toNat (accessed s R_INT_SRC_STATE i)) := by
    rw [exec_registerWrite_some ha, wordWritten_eight]
    rfl
  refine ⟨fun h63 h0 => ?_, fun h63 h0 => ?_, fun h63 h0 => ?_⟩
  · rw [hexec]
    simp only [writeSrcState, h63, h0, if_true, Bool.false_eq_true, if_false]
    rfl
  · rw [hexec]
    simp only [writeSrcState, h63, h0, if_true, Bool.false_eq_true, if_false]
    rfl
  · rw [hexec]
    simp only [writeSrcState, h63, h0, Bool.false_eq_true, if_false]

/-! ### Words that a rule takes -/

section
variable {who : Requester} {addr : Nat} {data : BitVec 64} {s : State} {i j : Nat}

theorem registerWrite_mbox (ha : regAccess s.hw who addr 8 = some (R_KYD_MBOX, i, j)) (hmay : mayWrite s.hw who R_KYD_MBOX i j = true) :
    (s.hw.kyd.mboxAddr.isSome = true → changes (.registerWrite who addr 8 data) s fun h =>
      answer (setBusErr h false) F_KYD_MBOX_RESULT F_KYD_MBOX_SEQ 3) ∧
    (s.hw.kyd.mboxAddr = none → changes (.registerWrite who addr 8 data) s fun h =>
      answer { setBusErr h false with kyd := { h.kyd with mboxAddr := some (data.toNat / 2 ^ 12 % 2 ^ 36 * 4096) } } F_KYD_MBOX_RESULT F_KYD_MBOX_SEQ 1) := by
  have hw := wakeFor_of_window (r := R_KYD_MBOX) (by decide) s.hw i
  refine ⟨fun hp => changes_of_rule ha (by decide) hmay hw ?_, fun hp => changes_of_rule ha (by decide) hmay hw ?_⟩
  · rw [ruledWrite_mbox, writeMbox_busy (h := setBusErr s.hw false) hp]
  · rw [ruledWrite_mbox, writeMbox_taken (h := setBusErr s.hw false) hp]
    rfl

theorem registerWrite_rtc (ha : regAccess s.hw who addr 8 = some (R_KYD_RTC, i, j)) (hmay : mayWrite s.hw who R_KYD_RTC i j = true) :
    yields (.registerWrite who addr 8 data) s fun t => fget t.hw F_KYD_RTC_SECONDS = data.toNat / 2 ^ 15 ∧
      fget t.hw F_KYD_RTC_FRACTION = data.toNat % 2 ^ 15 ∧ fget t.hw F_KYD_STATUS_RTC_VALID = 1 := by
  obtain rfl : i = 0 := Nat.lt_one_iff.mp (regAccess_inst ha)
  obtain rfl : j = 0 := Nat.lt_one_iff.mp (regAccess_elem ha rfl)
  exact yields_of_rule ha (by decide) hmay (wakeFor_of_window (by decide) s.hw 0) (writeRtc_sets _ who data.isLt)

theorem registerWrite_rbtConfig (ha : regAccess s.hw who addr 8 = some (R_RBT_CONFIG, i, j)) (hmay : mayWrite s.hw who R_RBT_CONFIG i j = true)
    (hh : fget s.hw F_RBT_STATUS_HELD ≠ 1) :
    changes (.registerWrite who addr 8 data) s fun h => logRefusedWrite (setBusErr h false) who R_RBT_CONFIG i j := by
  have hrun : rbtHeld (setBusErr s.hw false) = false := beq_eq_false_iff_ne.mpr hh
  refine changes_of_rule ha (by decide) hmay (wakeFor_of_window (by decide) s.hw i) ?_
  rw [ruledWrite_rbtConfig, hrun]
  rfl

theorem registerWrite_cq_refused (ha : regAccess s.hw who addr 8 = some (R_ENG_QP_CQ, i, j)) (hmay : mayWrite s.hw who R_ENG_QP_CQ i j = true)
    (hj : jobsOfQp (engineOf s.hw i) j ≠ []) :
    changes (.registerWrite who addr 8 data) s fun h => logRefusedWrite (setBusErr h false) who R_ENG_QP_CQ i j := by
  have hbusy : (jobsOfQp (engineOf (setBusErr s.hw false) i) j).isEmpty = false :=
    Bool.eq_false_iff.mpr fun he => hj (List.isEmpty_iff.mp he)
  refine changes_of_rule ha (by decide) hmay (wakeFor_of_window (by decide) s.hw i) ?_
  rw [ruledWrite_cq, hbusy]
  rfl

theorem registerWrite_cq (ha : regAccess s.hw who addr 8 = some (R_ENG_QP_CQ, i, j)) (hmay : mayWrite s.hw who R_ENG_QP_CQ i j = true)
    (hj : jobsOfQp (engineOf s.hw i) j = []) :
    yields (.registerWrite who addr 8 data) s fun t => fget t.hw F_ENG_QP_CQ_BASE_4K i j = data.toNat % 2 ^ 40 ∧
      fget t.hw F_ENG_QP_CQ_CQ_LOG2 i j = data.toNat / 2 ^ 56 % 32 :=
  yields_of_rule ha (by decide) hmay (wakeFor_of_window (by decide) s.hw i) (writeCq_sets (h := setBusErr s.hw false) hj who _)

theorem registerWrite_evcfg (ha : regAccess s.hw who addr 8 = some (R_RBT_PART_EVCFG, i, j))
    (hmay : mayWrite s.hw who R_RBT_PART_EVCFG i j = true) (hl : rwlLocked s.hw R_RBT_PART_EVCFG i j = false)
    (hlow : data.toNat / 2 ^ 60 < 1 + (popcount 64 (fget s.hw F_RBT_PART_EXPECT_GATES 0 j) + 7) / 8) :
    changes (.registerWrite who addr 8 data) s fun h => logRefusedWrite (setBusErr h false) who R_RBT_PART_EVCFG 0 j := by
  obtain rfl : i = 0 := Nat.lt_one_iff.mp (regAccess_inst ha)
  exact changes_of_rule ha (by decide) hmay (wakeFor_of_window (by decide) s.hw 0)
    (writeEvcfg_refused (h := setBusErr s.hw false) data.isLt hl hlow who 0)

theorem registerWrite_expect (ha : regAccess s.hw who addr 8 = some (R_RBT_PART_EXPECT, i, j))
    (hmay : mayWrite s.hw who R_RBT_PART_EXPECT i j = true) :
    (8 * (fget s.hw F_RBT_PART_EVCFG_SLOT_LINES 0 j - 1) < popcount 64 data.toNat →
      changes (.registerWrite who addr 8 data) s fun h => logRefusedWrite (setBusErr h false) who R_RBT_PART_EXPECT 0 j) ∧
    (popcount 64 data.toNat ≤ 8 * (fget s.hw F_RBT_PART_EVCFG_SLOT_LINES 0 j - 1) →
      changes (.registerWrite who addr 8 data) s fun h =>
        fset (setBusErr h false) F_RBT_PART_EXPECT_GATES (data.toNat.land (partOf h j).gates) 0 j) := by
  have hw := wakeFor_of_window (r := R_RBT_PART_EXPECT) (by decide) s.hw i
  refine ⟨fun hmany => changes_of_rule ha (by decide) hmay hw ?_, fun hfew => changes_of_rule ha (by decide) hmay hw ?_⟩
  · rw [ruledWrite_expect]
    exact if_pos hmany
  · rw [ruledWrite_expect]
    exact if_neg (Nat.not_lt.mpr hfew)

/-- While a COMMIT is pending a shadow register's word waits, whatever the size of the access. -/
theorem registerWrite_shadow {size : Nat} {r : Reg} (ha : regAccess s.hw who addr size = some (r, i, j)) (hmay : mayWrite s.hw who r i j = true)
    (h4 : r.n0 = 0x4) (hc : cmdRegOf r = none) (hv : r ≠ R_AVE_VOTE) (hp : fget s.hw F_AVE_STATUS_COMMIT_PENDING = 1) :
    yields (.registerWrite who addr size data) s fun t =>
      (∀ f ∈ shadowFields, ∀ x y, fget t.hw f x y = fget s.hw f x y) ∧
      (∀ f ∈ r.fields, f ∈ shadowFields → f.acc = .rw →
        (f.key 0 j, fieldVal f (wordWritten s.hw r i j addr size data.toNat)) ∈ t.hw.ave.waiting) ∧
      ∀ e ∈ s.hw.ave.waiting, e ∈ t.hw.ave.waiting := by
  have hr := regAccess_mem ha
  exact ⟨_, exec_registerWrite_ruled ha (underRights_of_avenue hr h4 hc hv) hmay (wakeFor_of_window (by simp [h4]) s.hw i) data,
    ruledWrite_waits hr h4 (h := setBusErr s.hw false) hp who i j _⟩

theorem registerWrite_hof_enabled (ha : regAccess s.hw who addr 8 = some (R_HOSTFN_HOF_CFG, i, j))
    (hmay : mayWrite s.hw who R_HOSTFN_HOF_CFG i j = true) (he : fget s.hw F_HOSTFN_HOF_CFG_EN i = 1) :
    changes (.registerWrite who addr 8 data) s fun h => fset (setBusErr h false) F_HOSTFN_HOF_CFG_EN (data.toNat / 2 ^ 63 % 2) i := by
  refine changes_of_rule ha (by decide) hmay (wakeFor_of_window (by decide) s.hw i) ?_
  rw [ruledWrite_hof, writeHofCfg_enabled (h := setBusErr s.hw false) he]

theorem registerWrite_hof_starts (ha : regAccess s.hw who addr 8 = some (R_HOSTFN_HOF_CFG, i, j))
    (hmay : mayWrite s.hw who R_HOSTFN_HOF_CFG i j = true) (he : fget s.hw F_HOSTFN_HOF_CFG_EN i ≠ 1) (hv : bit data.toNat 63 = true) :
    yields (.registerWrite who addr 8 data) s fun t => fget t.hw F_HOSTFN_HOF_CFG_EN i = 1 ∧
      fget t.hw F_HOSTFN_HOF_PTR_BUF_HEAD i = 0 ∧ fget t.hw F_HOSTFN_HOF_PTR_CPL_TAIL i = 0 ∧ (fnOf t.hw i).phase = true ∧
      fget t.hw F_HOSTFN_HOF_CFG_BUF_LOG2 i = data.toNat % 32 :=
  yields_of_rule ha (by decide) hmay (wakeFor_of_window (by decide) s.hw i) (writeHofCfg_starts (h := setBusErr s.hw false) he hv)

theorem registerWrite_dlog_starts (ha : regAccess s.hw who addr 8 = some (R_HOSTFN_DLOG_CFG, i, j))
    (hmay : mayWrite s.hw who R_HOSTFN_DLOG_CFG i j = true) (hc : fieldVal F_HOSTFN_DLOG_CFG_CMD data.toNat ≠ 1)
    (he : fget s.hw F_HOSTFN_DLOG_CFG_EN i ≠ 1) (hv : bit data.toNat 0 = true) :
    yields (.registerWrite who addr 8 data) s fun t =>
      fget t.hw F_HOSTFN_DLOG_CFG_EN i = 1 ∧ fget t.hw F_HOSTFN_DLOG_CFG_OVERFLOW i = 0 ∧ (fnOf t.hw i).dlog = [] ∧
      fget t.hw F_HOSTFN_DLOG_CFG_RESULT i = 0 ∧ fget t.hw F_HOSTFN_DLOG_CFG_SEQ i = (fget s.hw F_HOSTFN_DLOG_CFG_SEQ i + 1) % 256 := by
  obtain ⟨hen, hover, hempty⟩ := writeDlogCfg_starts (h := setBusErr s.hw false) hc he hv
  obtain ⟨hresult, hseq⟩ := writeDlogCfg_answers hc (setBusErr s.hw false) i
  exact ⟨_, exec_registerWrite_dlog ha hmay hc, hen, hover, hempty, hresult, hseq⟩

/-- A write of ROUTER_SLEEP by Kydin: no change, under a fence, or refused. -/
theorem registerWrite_strCfg (ha : regAccess s.hw .kydin addr 8 = some (R_STR_CFG, i, j)) (hmay : mayWrite s.hw .kydin R_STR_CFG i j = true)
    (hsq : (squareOf i).isSome = true) (hl : rwlLocked s.hw R_STR_CFG i 0 = false) (hg : gridPowered s.hw = true) :
    let c := Instr.registerWrite .kydin addr 8 data
    let v := data.toNat
    let now := fget s.hw F_STR_CFG_ROUTER_SLEEP i
    let new := fieldVal F_STR_CFG_ROUTER_SLEEP v
    (new = now → yields c s fun t => t.hw.grid = s.hw.grid ∧ fget t.hw F_STR_CFG_IDLE_US i = fieldVal F_STR_CFG_IDLE_US v) ∧
    (new ≠ now → s.hw.grid.fence = none → asleep s.hw i = false → yields c s fun t => t.hw.grid.fence = some (i, 8 - new) ∧
      fget t.hw F_STR_STATUS_FENCED i = 1 ∧ fget t.hw F_STR_CFG_ROUTER_SLEEP i = now ∧ fget t.hw F_STR_CFG_IDLE_US i = fieldVal F_STR_CFG_IDLE_US v) ∧
    (new ≠ now → s.hw.grid.fence.isSome = true → yields c s fun t => t.hw.grid = s.hw.grid ∧ fget t.hw F_STR_CFG_ROUTER_SLEEP i = now) := by
  have hw := wakeFor_of_window (r := R_STR_CFG) (by decide) s.hw i
  refine ⟨fun hv => ?_, fun hv hf hs => ?_, fun hv hf => ?_⟩
  · refine yields_of_rule ha (by decide) hmay hw ?_
    rw [ruledWrite_strCfg, writeStrCfg_same (h := setBusErr s.hw false) hsq hv]
    exact ⟨rfl, fget_idleWritten _ _ _⟩
  · exact yields_of_rule ha (by decide) hmay hw (writeStrCfg_fences (h := setBusErr s.hw false) hsq hl hg hv hf hs)
  · exact yields_of_rule ha (by decide) hmay hw (writeStrCfg_busy (h := setBusErr s.hw false) hsq hl hg hv hf)

theorem registerWrite_winMap (ha : regAccess s.hw who addr 8 = some (R_HOSTFN_WIN_MAP, i, j))
    (hmay : mayWrite s.hw who R_HOSTFN_WIN_MAP i j = true) (hk : who ≠ .kydin) (hs : isSecureOf s.hw who (partOfFn i) = false)
    (hbit : fget s.hw F_HOSTFN_WIN_MAP_SECURE i j < 2) :
    yields (.registerWrite who addr 8 data) s fun t => fget t.hw F_HOSTFN_WIN_MAP_SECURE i j = fget s.hw F_HOSTFN_WIN_MAP_SECURE i j :=
  yields_of_rule ha (by decide) hmay (wakeFor_of_window (by decide) s.hw i)
    (writeWinMap_keeps_secure (h := setBusErr s.hw false) hk hs hbit data.toNat)

/-! ### Registers shared by their bits -/

theorem exec_registerWrite_intCtrl (ha : regAccess s.hw who addr 8 = some (R_INT_CTRL, i, j)) :
    exec (.registerWrite who addr 8 data) s = .next { s with hw := writeIntCtrl (setBusErr s.hw false) who data.toNat } := by
  rw [exec_registerWrite_some ha, wordWritten_eight, performed_write (r := R_INT_CTRL) (by decide) (by decide) (by decide),
    accessed_of_awake (wakeFor_of_window (by decide) s.hw i)]
  rfl

theorem registerWrite_intCtrl (ha : regAccess s.hw who addr 8 = some (R_INT_CTRL, i, j)) :
    let mine := fun p => who = .kydin ∨ isSecureOf s.hw who p = true
    ((∀ p, p < 8 → ¬ mine p) → changes (.registerWrite who addr 8 data) s fun h => logRefusedWrite (setBusErr h false) who R_INT_CTRL 0 0) ∧
    ((∃ p, p < 8 ∧ mine p) → yields (.registerWrite who addr 8 data) s fun t =>
      (∀ p, p < 8 → bit (fget t.hw F_INT_CTRL_DISABLE) p = (if who = .kydin ∨ isSecureOf s.hw who p = true then bit data.toNat p
        else bit (fget s.hw F_INT_CTRL_DISABLE) p)) ∧
      (who ≠ .kydin → fget t.hw F_INT_CTRL_ALL_DISABLE = fget s.hw F_INT_CTRL_ALL_DISABLE)) := by
  have hmine := mine_iff (setBusErr s.hw false) who
  refine ⟨fun hn => ?_, fun ⟨p, hp, hm⟩ => ⟨_, exec_registerWrite_intCtrl ha, fun q hq => ?_, fun hk => ?_⟩⟩
  · have hnobody : ∀ p, p < 8 → mine (setBusErr s.hw false) who p = false := fun p hp => Bool.eq_false_iff.mpr fun hm => hn p hp ((hmine p).mp hm)
    exact (exec_registerWrite_intCtrl ha).trans (congrArg (fun h => Host.Outcome.next { s with hw := h }) (writeIntCtrl_nobody hnobody _))
  · refine (writeIntCtrl_bits hp ((hmine p).mpr hm) data.toNat hq).trans ?_
    simp only [hmine q]
    rfl
  · exact writeIntCtrl_keeps_all hp ((hmine p).mpr hm) hk data.toNat

theorem registerWrite_ownwGate (ha : regAccess s.hw who addr 8 = some (R_OWNW_GATE, i, j)) :
    yields (.registerWrite who addr 8 data) s fun t => ∀ g, g < 64 → bit (fget t.hw F_OWNW_GATE_GATE) g =
      (if ∃ p, ownerGate s.hw g = some p ∧ (who = .kydin ∨ isSecureOf s.hw who p = true) then bit data.toNat g
        else bit (fget s.hw F_OWNW_GATE_GATE) g) := by
  have hexec : exec (.registerWrite who addr 8 data) s =
      .next { s with hw := writeOwnw (setBusErr s.hw false) who R_OWNW_GATE data.toNat } := by
    rw [exec_registerWrite_some ha, wordWritten_eight, performed_write (r := R_OWNW_GATE) (by decide) (by decide) (by decide),
      accessed_of_awake (wakeFor_of_window (by decide) s.hw i)]
    rfl
  refine ⟨_, hexec, fun g hg => ?_⟩
  have hiff := mineGate_iff (setBusErr s.hw false) who g
  refine (writeOwnw_gate_bits (setBusErr s.hw false) who data.toNat hg).trans ?_
  exact if_congr hiff rfl rfl

end

end Sys2Proof.Proofs


/-!
The obligation on register writes, assembled.
-/

namespace Sys2Proof.Proofs
open Sys2Proof Sys2Proof.Machine

/-- The word of a 32-bit access, as the statement spells it. -/
theorem wordWritten_four (h : Hw) (r : Reg) (i j addr data : Nat) :
    wordWritten h r i j addr 4 data =
      if addr % 8 = 0 then regVal (flushShadow h) r i j / 2 ^ 32 * 2 ^ 32 + data % 2 ^ 32
      else regVal (flushShadow h) r i j % 2 ^ 32 + data % 2 ^ 32 * 2 ^ 32 := by
  simp only [wordWritten, Nat.reduceBEq, Bool.false_eq_true, if_false, beq_iff_eq]

/-- Settles O60: a write that is performed is the command of its word or the rule of its register, and each rule is read off the
model's function for it; the table's numbers tell registers and fields apart. -/
theorem registerWritesFollowTheirAccessTypes : Obligations.RegisterWritesFollowTheirAccessTypes := by
  unfold Obligations.RegisterWritesFollowTheirAccessTypes
  refine ⟨fun who addr size data s => registerWrite_busErr who addr size data s, registerWrite_ordinary, ?_, ?_, noActionCommand_clauses,
    noActionCommand_frame⟩
  · intro who addr data s r i j ha c v s1 n
    refine ⟨fun t hsrc hc => exec_registerWrite_command ha data hsrc hc, ?_, ?_, ?_, ?_, ?_, fun hmay => ?_, ?_, ?_⟩
    · rintro rfl
      obtain ⟨hcommit, hverify⟩ := regCommand_bootCtrl (v := v) who i j s1
      exact ⟨fun hv => exec_registerWrite_as ha (by decide) (hcommit hv) rfl, fun hv => exec_registerWrite_as ha (by decide) (hverify hv) rfl⟩
    · rintro rfl
      exact exec_registerWrite_as ha (by decide) (regCommand_modeRequest who i j v s1) rfl
    · rintro rfl hv
      exact exec_registerWrite_as ha (by decide) (regCommand_engReset hv who i j s1) rfl
    · rintro rfl hv
      exact exec_registerWrite_as ha (by decide) (regCommand_coreCmd hv who i j s1) rfl
    · rintro rfl
      exact registerWrite_srcState ha
    · refine ⟨?_, ?_, ?_, ?_, ?_, ?_, ?_, ?_, ?_, fun h4 hc hv hp => ?_, ?_, ?_, ?_, fun hw hb => ?_, ?_, ?_⟩
      · rintro rfl
        obtain ⟨hbusy, -⟩ := registerWrite_mbox ha hmay
        exact hbusy
      · rintro rfl
        obtain ⟨-, hfree⟩ := registerWrite_mbox ha hmay
        exact hfree
      · rintro rfl; exact registerWrite_rtc ha hmay
      · rintro rfl; exact registerWrite_rbtConfig ha hmay
      · rintro rfl; exact registerWrite_cq_refused ha hmay
      · rintro rfl; exact registerWrite_cq ha hmay
      · rintro rfl; exact registerWrite_evcfg ha hmay
      · rintro rfl
        obtain ⟨hmany, -⟩ := registerWrite_expect ha hmay
        exact hmany
      · rintro rfl
        obtain ⟨-, hfew⟩ := registerWrite_expect ha hmay
        exact hfew
      · have hshadow := registerWrite_shadow (data := data) ha hmay h4 hc hv hp
        rw [wordWritten_eight] at hshadow
        exact hshadow
      · rintro rfl; exact registerWrite_hof_enabled ha hmay
      · rintro rfl he hv -; exact registerWrite_hof_starts ha hmay he hv
      · rintro rfl; exact registerWrite_dlog_starts ha hmay
      · exact changes_of_rule ha (underRights_of_enable (hb.imp And.left And.left)) hmay hw (writeEnable_refused (h := setBusErr s.hw false) who j hb)
      · rintro rfl rfl; exact registerWrite_strCfg ha hmay
      · rintro rfl; exact registerWrite_winMap ha hmay
    · rintro rfl
      exact registerWrite_intCtrl ha
    · rintro rfl
      exact registerWrite_ownwGate ha
  · intro who addr data s r i j ha hmay h4 hc hv hp
    obtain ⟨t, hexec, hkeep, hwait, -⟩ := registerWrite_shadow (data := data) ha hmay h4 hc hv hp
    rw [wordWritten_four] at hwait
    exact ⟨t, hexec, hkeep, hwait⟩

end Sys2Proof.Proofs


/-!
Routes of the street grid, and the form of a flit.
-/

namespace Sys2Proof.Proofs
open Sys2Proof Sys2Proof.Machine

/-! ### Routes (R16) -/

/-- The places of routers: no corner, and none off the grid (R13). -/
theorem isRouter_iff (r : Nat) :
    isRouter r = true ↔ (r % 16 < 12 ∧ r / 16 < 10) ∧ ¬((r % 16 = 0 ∨ r % 16 = 11) ∧ (r / 16 = 0 ∨ r / 16 = 9)) := by
  simp only [isRouter, Bool.and_eq_true, decide_eq_true_eq, Bool.not_eq_true', Bool.and_eq_false_iff, Bool.or_eq_false_iff,
    beq_eq_false_iff_ne, ne_eq]
  omega

/-- Steps between two routers along rows and columns. -/
def gridDist (r d : Nat) : Nat := (r % 16 - d % 16) + (d % 16 - r % 16) + ((r / 16 - d / 16) + (d / 16 - r / 16))

/-- A link changes one coordinate by one. -/
theorem neighbour_coords (r : Nat) :
    (r % 16 < 15 → neighbour r 0 % 16 = r % 16 + 1 ∧ neighbour r 0 / 16 = r / 16) ∧
    (neighbour r 1 % 16 = r % 16 ∧ neighbour r 1 / 16 = r / 16 + 1) ∧
    (0 < r % 16 → neighbour r 2 % 16 = r % 16 - 1 ∧ neighbour r 2 / 16 = r / 16) ∧
    (0 < r / 16 → neighbour r 3 % 16 = r % 16 ∧ neighbour r 3 / 16 = r / 16 - 1) := by
  simp only [neighbour]
  omega

/-- A router that is not the destination passes a packet to a router one step nearer; the inward hop is such a step too, since no
destination in column 0 or 11 lies in row 0 or 9. -/
theorem routeAt_step {r d : Nat} (hr : isRouter r = true) (hd : isRouter d = true) (hne : r ≠ d) :
    let out := routeAt (r % 16) (r / 16) (d % 16) (d / 16)
    out ≠ 4 ∧ isRouter (neighbour r out) = true ∧ gridDist (neighbour r out) d + 1 = gridDist r d := by
  obtain ⟨heast, hnorth, hwest, hsouth⟩ := neighbour_coords r
  have hxy : r % 16 ≠ d % 16 ∨ r / 16 ≠ d / 16 := by omega
  rw [isRouter_iff] at hr hd
  simp only [routeAt, Bool.and_eq_true, Bool.or_eq_true, beq_iff_eq, isRouter_iff, gridDist]
  generalize r % 16 = x at *
  generalize r / 16 = y at *
  generalize d % 16 = dx at *
  generalize d / 16 = dy at *
  split
  · omega
  · split
    · split
      · rw [hnorth.1, hnorth.2]; omega
      · obtain ⟨hx, hy⟩ := hsouth (by omega)
        rw [hx, hy]; omega
    · split
      · obtain ⟨hx, hy⟩ := heast (by omega)
        rw [hx, hy]; omega
      · split
        · obtain ⟨hx, hy⟩ := hwest (by omega)
          rw [hx, hy]; omega
        · split
          · rw [hnorth.1, hnorth.2]; omega
          · obtain ⟨hx, hy⟩ := hsouth (by omega)
            rw [hx, hy]; omega

theorem routeAt_destination (d : Nat) : routeAt (d % 16) (d / 16) (d % 16) (d / 16) = 4 := by
  simp [routeAt]

/-- A route ends at its destination, stays on routers and has one router more than steps. -/
theorem routeFrom_reaches {d : Nat} (hd : isRouter d = true) (n : Nat) {r : Nat} (hr : isRouter r = true) (hn : gridDist r d ≤ n) :
    let path := routeFrom n r (d % 16) (d / 16)
    path.getLast? = some d ∧ (∀ x ∈ path, isRouter x = true) ∧ path.length = gridDist r d + 1 := by
  induction n generalizing r with
  | zero =>
    have hrd : r = d := by simp only [gridDist] at hn; omega
    subst hrd
    simp [routeFrom, hr, Nat.le_zero.mp hn]
  | succ n ih =>
    by_cases hrd : r = d
    · subst hrd
      simp [routeFrom, routeAt_destination, hr, gridDist]
    · obtain ⟨hout, hnext, hdist⟩ := routeAt_step hr hd hrd
      obtain ⟨hlast, hmem, hlen⟩ := ih hnext (by omega)
      simp only [routeFrom, beq_eq_false_iff_ne.mpr hout, Bool.false_eq_true, if_false]
      refine ⟨?_, ?_, ?_⟩
      · rw [List.getLast?_cons, hlast]; rfl
      · simpa [hr] using hmem
      · rw [List.length_cons, hlen, hdist]

theorem routes_end_at_their_destination (r d : Nat) (hr : isRouter r = true) (hd : isRouter d = true) :
    let path := routeFrom 32 r (d % 16) (d / 16)
    path.getLast? = some d ∧ (∀ x ∈ path, isRouter x = true) ∧ path.length ≤ 22 := by
  have hfar : gridDist r d ≤ 20 := by
    rw [isRouter_iff] at hr hd
    simp only [gridDist]
    omega
  obtain ⟨hlast, hmem, hlen⟩ := routeFrom_reaches hd 32 hr (by omega)
  exact ⟨hlast, hmem, by omega⟩

/-- A link leads to another router. -/
theorem neighbour_ne {r out : Nat} (hr : isRouter r = true) (hout : out < 4) : neighbour r out ≠ r := by
  rw [isRouter_iff] at hr
  match out, hout with
  | 0, _ | 1, _ | 2, _ | 3, _ => simp only [neighbour]; omega

/-! ### The sideband (R424, R425, R430, R432) -/

/-- The bits that a body or tail flit keeps: KIND, VC and POISON. -/
def bodyMask : BitVec 64 := 0x20000000F#64

theorem bodyMask_bits (i : Nat) : bodyMask.getLsbD i = true ↔ i < 4 ∨ i = 33 := by
  by_cases hi : i < 64
  · have hall : ∀ j : Fin 64, bodyMask.getLsbD j.val = true ↔ j.val < 4 ∨ j.val = 33 := by decide
    exact hall ⟨i, hi⟩
  · rw [BitVec.getLsbD_of_ge _ _ (by omega)]
    simp only [Bool.false_eq_true, false_iff]
    omega

/-- The sideband is a head's: its KIND is 0 or 3. -/
def headSide (side : BitVec 64) : Bool := bits side.toNat 3 2 == 0 || bits side.toNat 3 2 == 3

theorem flitOf_side (side : BitVec 64) (data : BitVec 512) :
    (flitOf side data).side = (if headSide side then side else side &&& bodyMask).setWidth 56 := rfl

/-- KIND is the same whether or not the other bits are cleared. -/
theorem kind_of_masked (side : BitVec 64) : bits (side &&& bodyMask).toNat 3 2 = bits side.toNat 3 2 := by
  have hx : (side &&& bodyMask).extractLsb' 2 2 = side.extractLsb' 2 2 := by
    apply BitVec.eq_of_getLsbD_eq
    intro i hi
    have hm : bodyMask.getLsbD (2 + i) = true := (bodyMask_bits _).mpr (.inl (by omega))
    simp only [BitVec.getLsbD_extractLsb', BitVec.getLsbD_and, hm, Bool.and_true]
  have hn := congrArg BitVec.toNat hx
  rw [BitVec.extractLsb'_toNat, BitVec.extractLsb'_toNat, Nat.shiftRight_eq_div_pow, Nat.shiftRight_eq_div_pow] at hn
  exact hn

theorem flKind_flitOf (side : BitVec 64) (data : BitVec 512) : flKind (flitOf side data) = bits side.toNat 3 2 := by
  have hcut : ∀ v : BitVec 64, bits (v.setWidth 56).toNat 3 2 = bits v.toNat 3 2 := fun v => by
    simp only [bits, BitVec.toNat_setWidth]
    omega
  rw [flKind, flitOf_side, hcut]
  split
  · rfl
  · exact kind_of_masked side

theorem isHead_flitOf (side : BitVec 64) (data : BitVec 512) : isHead (flitOf side data) = headSide side := by
  simp only [isHead, flKind_flitOf, headSide]

theorem flitOf_head_side {side : BitVec 64} {data : BitVec 512} (hh : isHead (flitOf side data) = true) :
    (flitOf side data).side = side.setWidth 56 := by
  rw [isHead_flitOf] at hh
  rw [flitOf_side, hh]
  rfl

theorem flitOf_body_side {side : BitVec 64} {data : BitVec 512} (hh : isHead (flitOf side data) = false) {i : Nat} (h4 : 4 ≤ i) (h33 : i ≠ 33) :
    (flitOf side data).side.getLsbD i = false := by
  rw [isHead_flitOf] at hh
  have hm : bodyMask.getLsbD i = false := Bool.eq_false_iff.mpr fun hb => by
    have := (bodyMask_bits i).mp hb
    omega
  simp only [flitOf_side, hh, Bool.false_eq_true, if_false, BitVec.getLsbD_setWidth, BitVec.getLsbD_and, hm, Bool.and_false]

/-- What an agent injects is on the channel of its class, and no snoop goes to a link die. -/
theorem mayInject_head {f : Flit} (hh : isHead f = true) (hm : mayInject f = true) :
    (flClass f = 0 ∨ flClass f = 4 ∨ flClass f = 6 → flVc f = 0) ∧ (flClass f = 1 → flVc f = 1) ∧ (flClass f = 2 ∨ flClass f = 3 → flVc f = 2) ∧
      (flClass f = 5 → flVc f = 3) ∧ ¬(flClass f = 1 ∧ isStop (flDx f + 16 * flDy f) = true) := by
  simp only [mayInject, hh, Bool.not_true, Bool.false_or, Bool.and_eq_true, Bool.not_eq_true'] at hm
  obtain ⟨hclass, hsnoop⟩ := hm
  refine ⟨?_, ?_, ?_, ?_, fun ⟨hc, hs⟩ => ?_⟩
  · rintro (hc | hc | hc) <;> simpa [classUses, hc] using hclass
  · intro hc; simpa [classUses, hc] using hclass
  · rintro (hc | hc) <;> simpa [classUses, hc] using hclass
  · intro hc; simpa [classUses, hc] using hclass
  · simp [hc, hs] at hsnoop

/-! ### Channels and buffers (R430, R432) -/

theorem channels_of_link_die {r : Nat} (hs : isStop r = true) (f : Flit) :
    (chanAt r f = if flVc f = 3 then 1 else 0) ∧ bufSize r (chanAt r f) = if flVc f = 3 then 32 else 16 := by
  simp only [chanAt, bufSize, hs, if_true, beq_iff_eq]
  split <;> simp

theorem channels_elsewhere {r : Nat} (hs : isStop r = false) (f : Flit) :
    chanAt r f = flVc f ∧ bufSize r (chanAt r f) = if flVc f = 3 then 16 else 8 := by
  simp only [chanAt, bufSize, hs, Bool.false_eq_true, if_false, beq_iff_eq, and_self]

theorem headOut_eq (h : Hw) (r : Nat) (f : Flit) :
    let out := routeAt (r % 16) (r / 16) (flDx f) (flDy f)
    headOut h r f = if out = 4 then (if deadPort h r (flPort f) = true then 13 else 4 + flPort f) else if linked r out = true then out else 13 := by
  simp only [headOut, beq_iff_eq]

end Sys2Proof.Proofs


/-!
A flit that comes to a router, and how a flit that waits alone goes on.
-/

namespace Sys2Proof.Proofs
open Sys2Proof Sys2Proof.Machine

/-! ### A flit arrives (R424, R426, R430) -/

/-- A router takes a flit from an input: it is powered, the input gives flits, and a buffer has room. -/
structure Takes (h : Hw) (r d : Nat) (f : Flit) : Prop where
  router : isRouter r = true
  power : gridPowered h = true
  shut : inputShut h r d f = false
  credit : noCredit h r d f = false

theorem inputShut_of_link {h : Hw} {r d : Nat} (hd : d < 4) (hl : linked r d = true) (hdown : fget h F_STR_LINK_DOWN r d ≠ 1) (f : Flit) :
    inputShut h r d f = false := by
  simp [inputShut, hd, hl, fon, hdown]

theorem exec_flit_rejected {r : Fin 160} {p : Fin 13} {side : BitVec 64} {data : BitVec 512} {s : State} (ht : Takes s.hw r p (flitOf side data))
    (hp : p.val < 4) : exec (.flit r p side data .uncorrectable) s = .next (s.act fun h _ => rejectFlit h r p) := by
  have hlink : decide (p.val < 4) = true := decide_eq_true hp
  show execFlit r p side data .uncorrectable s = _
  simp only [execFlit, State.act, ht.router, ht.power, ht.shut, ht.credit, hlink]
  rfl

/-- What is on its way to a router after a flit came by an input: the flit of a link has left the link. -/
def onTheWay (h : Hw) (r d : Nat) (f : Flit) : List SentFlit :=
  if d < 4 then h.grid.sent.erase { r := neighbour r d, out := opposite d, buf := (bufFor h r d f).getD d, flit := f } else h.grid.sent

/-- A flit without an error, or one from a port, is off its input. -/
def received (h : Hw) (r d : Nat) (f : Flit) : Hw :=
  { h with grid := { h.grid with replay := if d < 4 then tdel h.grid.replay (4 * r + d) else h.grid.replay, sent := onTheWay h r d f } }

/-- The same with a corrected error of a link, which is counted and recorded (R426). -/
def receivedFrom (h : Hw) (r d : Nat) (f : Flit) (err : LinkErr) : Hw :=
  if d < 4 ∧ err = .single then logReg (fadd (received h r d f) F_STR_LINK_CE 1 r d) 0 blkStr r R_STR_LINK r d else received h r d f

theorem receivedFrom_port {d : Nat} (hd : 4 ≤ d) (h : Hw) (r : Nat) (f : Flit) (err : LinkErr) : receivedFrom h r d f err = h := by
  have hn : ¬d < 4 := Nat.not_lt.mpr hd
  simp only [receivedFrom, received, onTheWay, hn, false_and, if_false]

theorem receivedFrom_clean (h : Hw) (r d : Nat) (f : Flit) : receivedFrom h r d f .clean = received h r d f := by
  simp [receivedFrom]

theorem exec_flit_enters {r : Fin 160} {p : Fin 13} {side : BitVec 64} {data : BitVec 512} {err : LinkErr} {s : State}
    (ht : Takes s.hw r p (flitOf side data)) (herr : p.val < 4 → err ≠ .uncorrectable) :
    exec (.flit r p side data err) s =
      .next { s with hw := enterFlit (receivedFrom s.hw r p (flitOf side data) err) r p (flitOf side data) } := by
  show execFlit r p side data err s = _
  by_cases hp : p.val < 4
  · have hlink : decide (p.val < 4) = true := decide_eq_true hp
    simp only [execFlit, State.act, ht.router, ht.power, ht.shut, ht.credit, receivedFrom, received, onTheWay, hp, if_true, true_and]
    cases err with
    | clean => rfl
    | single => rfl
    | uncorrectable => exact absurd rfl (herr hp)
  · have hlink : decide (p.val < 4) = false := decide_eq_false hp
    rw [receivedFrom_port (Nat.not_lt.mp hp)]
    simp only [execFlit, State.act, ht.router, ht.power, ht.shut, ht.credit, hlink]
    rfl

/-- A flit in its buffer, before any flit goes. -/
def arrived (h : Hw) (r inp buf : Nat) (f : Flit) : Hw :=
  let h := noteRx h r inp buf f
  { h with grid := { h.grid with held := h.grid.held ++ [{ r := r, buf := buf, flit := f }] } }

theorem enterFlit_arrived {h : Hw} {r inp buf : Nat} {f : Flit} (hb : bufFor h r inp f = some buf) :
    enterFlit h r inp f = releaseHeld (arrived h r inp buf f) := by
  simp only [enterFlit, hb]
  rfl

/-! ### The buffer of a head (R428, R430, R436) -/

theorem injects_port {p : Fin 13} (hp : 4 ≤ p.val) : injects p = true := by
  have := p.isLt
  simp [injects, hp, show p.val ≠ 13 by omega]

/-- Where a head may enter no worm arrives on its channel, so its buffer is a head's. -/
theorem bufFor_head {h : Hw} {r d : Nat} {f : Flit} (hh : isHead f = true) (hc : noCredit h r d f = false) :
    bufFor h r d f = some (if injects d && fenceCrosses h r f then ownBuf h r d else headBuf r d f) := by
  revert hc
  simp only [noCredit, bufFor, hh]
  split
  · next heq =>
    intro _
    split at heq
    · simp
    · exact absurd ‹true = false› (by decide)
    · exact absurd heq (by simp)
  · simp

theorem fenceCrosses_none {h : Hw} (hf : h.grid.fence = none) (r : Nat) (f : Flit) : fenceCrosses h r f = false := by
  simp only [fenceCrosses, hf]

theorem fenceCrosses_some {h : Hw} {x code r : Nat} {f : Flit} (hf : h.grid.fence = some (x, code))
    (hx : x ∈ routeFrom 32 r (flDx f) (flDy f)) : fenceCrosses h r f = true := by
  simp only [fenceCrosses, hf, List.contains_iff_mem.mpr hx]

theorem headBuf_small {r d : Nat} (hd : d < 13) (f : Flit) : headBuf r d f < 16 := by
  simp only [headBuf]
  split <;> omega

theorem ownBuf_large (h : Hw) (r d : Nat) : 16 ≤ ownBuf h r d := by simp only [ownBuf]; omega

theorem isHead_of_single {f : Flit} (hk : flKind f = 3) : isHead f = true := by simp [isHead, hk]
theorem isTail_of_single {f : Flit} (hk : flKind f = 3) : isTail f = true := by simp [isTail, hk]

/-! ### One flit waits (R427, R430, R431) -/

section
variable {h : Hw} {w : HeldFlit}

theorem fronts_nil (hheld : h.grid.held = []) : fronts h = [] := by simp [fronts, hheld]

theorem fronts_single (hheld : h.grid.held = [w]) : fronts h = [w] := by
  simp [fronts, hheld, inBuf]

theorem flitTurn_nil (hheld : h.grid.held = []) : flitTurn h = none := by
  simp [flitTurn, readyFlits, fronts_nil hheld]

theorem noteWaits_nil (hheld : h.grid.held = []) : noteWaits h = h := by
  simp [noteWaits, fronts_nil hheld]

theorem flitTurn_go {out : Nat} (hheld : h.grid.held = [w]) (hst : flitState h w = .go out) : flitTurn h = some (w, out) := by
  have hready : readyFlits h = [(w, out)] := by
    simp [readyFlits, fronts_single hheld, hst, overtakesNone, hheld]
  simp only [flitTurn, hready, List.filter_nil, List.find?_singleton, List.foldl_nil]
  split <;> simp_all

theorem flitTurn_waits (hheld : h.grid.held = [w]) (hst : ∀ out, flitState h w ≠ .go out) : flitTurn h = none := by
  have hready : readyFlits h = [] := by
    simp [readyFlits, fronts_single hheld]
  simp [flitTurn, hready]

/-- The flit with another note of its waiting. -/
def noted (h : Hw) (w : HeldFlit) : Hw := { h with grid := { h.grid with held := [w] } }

theorem replace_single (w v : HeldFlit) : [w].replace w v = [v] := by simp

/-- What a flit that waits alone does, by what it waits for. -/
def waitNote (h : Hw) (w : HeldFlit) : FlitState → Hw
  | .fence => fset (noted h { w with inj := true }) F_STR_STATUS_HOLDING 1 w.r
  | .wake q => raiseWake (noted h { w with inj := w.inj || injects (inputOf w.buf) }) q
  | .credit => noted h { w with credit := true }
  | .go _ => h
  | .worm => h

theorem noteWaits_single (hheld : h.grid.held = [w]) : noteWaits h = waitNote h w (flitState h w) := by
  simp only [noteWaits, fronts_single hheld, List.foldl_cons, List.foldl_nil, hheld, replace_single]
  cases flitState h w <;> rfl

/-- A flit that may go leaves, and nothing is left to go. -/
theorem releaseHeld_goes {h1 : Hw} {v : HeldFlit} {out : Nat} (hheld : h.grid.held = [w]) (hnote : noteWaits h = h1) (hheld1 : h1.grid.held = [v])
    (hst : flitState h1 v = .go out) (hgone : (sendFlit h1 v out).grid.held = []) : releaseHeld h = sendFlit h1 v out := by
  simp only [releaseHeld, hheld, List.length_cons, List.length_nil, flitLoop, hnote, flitTurn_go hheld1 hst, noteWaits_nil hgone,
    flitTurn_nil hgone]

/-- A flit that may not go stays. -/
theorem releaseHeld_waits {h1 : Hw} {v : HeldFlit} (hnote : noteWaits h = h1) (hheld1 : h1.grid.held = [v])
    (hst : ∀ out, flitState h1 v ≠ .go out) : releaseHeld h = h1 := by
  simp only [releaseHeld, flitLoop, hnote, flitTurn_waits hheld1 hst]

end

/-! ### A flit leaves (R431, R438) -/

/-- The buffer that a flit which leaves by an output goes to. -/
def goesTo (h : Hw) (r out : Nat) (f : Flit) : Nat := if out < 4 then nextBuf h r out f else out

/-- A flit is out of its buffer and its turn is taken. -/
def outOfBuffer (h : Hw) (w : HeldFlit) (out : Nat) : Hw :=
  let f := w.flit
  let key := wormKey w.r (outChan w.r out f) out
  let hold := 2 * wormMark w.r w.buf f + b2n (out < 4 && goesTo h w.r out f == 13)
  let h := takeTurn h w out
  { h with grid := { h.grid with held := h.grid.held.erase w, worm := if isTail f then tdel h.grid.worm key else tset 0 h.grid.worm key hold } }

/-- A flit is on its way. -/
def departed (h : Hw) (w : HeldFlit) (out : Nat) : Hw :=
  let g := outOfBuffer h w out
  { g with grid := { g.grid with sent := h.grid.sent ++ [{ r := w.r, out := out, buf := goesTo h w.r out w.flit, flit := w.flit }] } }

theorem sendFlit_departs {out : Nat} (hout : out ≠ 13) (h : Hw) (w : HeldFlit) : sendFlit h w out = probeHead (departed h w out) w.r out w := by
  simp only [sendFlit, beq_eq_false_iff_ne.mpr hout, Bool.false_eq_true, if_false]
  rfl

theorem sendFlit_discards {h : Hw} {w : HeldFlit} (hh : isHead w.flit = true) :
    sendFlit h w 13 = if flClass w.flit = 0 ∨ flClass w.flit = 4 then setBusErr (outOfBuffer h w 13) true
      else fadd (outOfBuffer h w 13) F_STR_STATUS_DETACHED_DROPS 1 w.r := by
  simp only [sendFlit, beq_self_eq_true, if_true, hh, Bool.not_true, Bool.false_eq_true, if_false, Bool.or_eq_true, beq_iff_eq]
  rfl

theorem probeHead_body {w : HeldFlit} (hh : isHead w.flit = false) (h : Hw) (r out : Nat) : probeHead h r out w = h := by
  simp [probeHead, hh]

theorem probeHead_off {h : Hw} {r : Nat} (hen : fget h F_STR_PROBE_CTL_EN r = 0) (htr : fget h F_STR_PROBE_CTL_TRACE r = 0) (out : Nat) (w : HeldFlit) :
    probeHead h r out w = h := by
  simp [probeHead, fon, hen, htr]

@[simp] theorem outOfBuffer_sent (h : Hw) (w : HeldFlit) (out : Nat) : (outOfBuffer h w out).grid.sent = h.grid.sent := rfl
@[simp] theorem departed_regs (h : Hw) (w : HeldFlit) (out : Nat) : (departed h w out).regs = h.regs := rfl
@[simp] theorem departed_sent (h : Hw) (w : HeldFlit) (out : Nat) : (departed h w out).grid.sent =
    h.grid.sent ++ [{ r := w.r, out := out, buf := goesTo h w.r out w.flit, flit := w.flit }] := rfl

theorem outOfBuffer_held {h : Hw} {w : HeldFlit} (hheld : h.grid.held = [w]) (out : Nat) : (outOfBuffer h w out).grid.held = [] := by
  show h.grid.held.erase w = []
  simp [hheld]

theorem departed_worm (h : Hw) {w : HeldFlit} (out : Nat) (ht : isTail w.flit = true) :
    tget 0 (departed h w out).grid.worm (wormKey w.r (outChan w.r out w.flit) out) = 0 := by
  have hw : (departed h w out).grid.worm = tdel h.grid.worm (wormKey w.r (outChan w.r out w.flit) out) := by
    show (if isTail w.flit = true then _ else _) = _
    rw [if_pos ht]
    rfl
  rw [hw, tget_tdel_same]

end Sys2Proof.Proofs


/-!
What one waiting flit does: it goes, waits for a credit, wakes a square, or is held by a fence.
-/

namespace Sys2Proof.Proofs
open Sys2Proof Sys2Proof.Machine

/-! ### The state of a waiting flit (R427, R430, R431, R434, R436) -/

section
variable {h : Hw} {w : HeldFlit} {out : Nat}

/-- A flit that no fence holds. -/
theorem not_fenced (hfree : 16 ≤ w.buf → isHead w.flit = false) :
    (decide (16 ≤ w.buf) && isHead w.flit && fenceCrosses h w.r w.flit) = false := by
  by_cases hb : 16 ≤ w.buf
  · simp [hfree hb]
  · simp [hb]

theorem flitState_wake {q : Nat} (hfree : 16 ≤ w.buf → isHead w.flit = false) (hout : outputFor h w.r w.buf w.flit = some out)
    (hs : sleepingAhead h w.r out w.flit = some q) : flitState h w = .wake q := by
  simp only [flitState, not_fenced hfree, hout, hs, Bool.false_eq_true, if_false]

/-- No worm of another packet holds the channel of the output. -/
def channelFree (h : Hw) (w : HeldFlit) (out : Nat) : Prop :=
  let holder := tget 0 h.grid.worm (wormKey w.r (outChan w.r out w.flit) out)
  holder ≠ 0 → isHead w.flit = false ∧ holder / 2 = wormMark w.r w.buf w.flit

theorem flitState_awake (hfree : 16 ≤ w.buf → isHead w.flit = false) (hout : outputFor h w.r w.buf w.flit = some out)
    (hs : sleepingAhead h w.r out w.flit = none) (hch : channelFree h w out) :
    flitState h w = if hasRoom h w.r out w.flit then .go out else .credit := by
  have hno : (tget 0 h.grid.worm (wormKey w.r (outChan w.r out w.flit) out) != 0 && (isHead w.flit ||
      tget 0 h.grid.worm (wormKey w.r (outChan w.r out w.flit) out) / 2 != wormMark w.r w.buf w.flit)) = false := by
    by_cases hz : tget 0 h.grid.worm (wormKey w.r (outChan w.r out w.flit) out) = 0
    · simp [hz]
    · obtain ⟨hhead, hmark⟩ := hch hz
      simp [hhead, hmark]
  simp only [flitState, not_fenced hfree, hout, hs, hno, Bool.false_eq_true, if_false]

theorem flitState_fence (hbuf : 16 ≤ w.buf) (hh : isHead w.flit = true) (hf : fenceCrosses h w.r w.flit = true) : flitState h w = .fence := by
  simp [flitState, hbuf, hh, hf]

theorem outputFor_head (hh : isHead w.flit = true) (b : Nat) : outputFor h w.r b w.flit = some (headOut h w.r w.flit) := by
  simp [outputFor, hh]

/-- The channel of the output of a body or tail flit is held by its own worm (R431). -/
theorem channelFree_of_worm (hh : isHead w.flit = false) (hout : outputFor h w.r w.buf w.flit = some out) : channelFree h w out := by
  simp only [outputFor, hh, Bool.false_eq_true, if_false] at hout
  exact fun _ => ⟨hh, by simpa using List.find?_some hout⟩

end

/-! ### Room in the next router (R426, R430) -/

theorem bufCount_nil {h : Hw} (hheld : h.grid.held = []) (n b c : Nat) : bufCount h n b c = 0 := by simp [bufCount, hheld]

theorem bufCount_elsewhere {h : Hw} {w : HeldFlit} (hheld : h.grid.held = [w]) {n : Nat} (hn : w.r ≠ n) (b c : Nat) : bufCount h n b c = 0 := by
  simp [bufCount, hheld, inBuf, hn]

theorem bufComing_le {h h' : Hw} (hsent : h'.grid.sent.Sublist h.grid.sent) (n b c : Nat) : bufComing h' n b c ≤ bufComing h n b c :=
  (hsent.filter _).length_le

/-- With fewer flits on the way and none in the next buffer room stays room. -/
theorem hasRoom_mono {h h' : Hw} {r out : Nat} {f : Flit} (hworm : h'.grid.worm = h.grid.worm) (hsent : h'.grid.sent.Sublist h.grid.sent)
    (hcount : out < 4 → ∀ b c, bufCount h' (neighbour r out) b c = 0) (hroom : hasRoom h r out f = true) : hasRoom h' r out f = true := by
  have hbuf : nextBuf h' r out f = nextBuf h r out f := by simp only [nextBuf, hworm]
  by_cases hout : out < 4
  · simp only [hasRoom, hbuf, Nat.not_le.mpr hout, decide_false, Bool.false_or, Bool.and_eq_true, decide_eq_true_eq, hcount hout] at hroom ⊢
    have hcoming := bufComing_le hsent (neighbour r out) (nextBuf h r out f) (chanAt (neighbour r out) f)
    exact ⟨by omega, lt_of_le_of_lt (hsent.filter _).length_le hroom.2⟩
  · simp [hasRoom, Nat.not_lt.mp hout]

/-! ### Sleep ahead (R433, R434) -/

theorem sleepingAhead_of_awake {h h' : Hw} {r out q : Nat} {f : Flit} (hs : sleepingAhead h r out f = some q) (hon : pwrOf h' q = pwrOn) :
    sleepingAhead h' r out f = none := by
  revert hs
  simp only [sleepingAhead]
  split
  · split
    · rintro ⟨⟩; simp [hon]
    · simp
  · split
    · split
      · rintro ⟨⟩; simp [hon]
      · simp
    · simp

/-- A head goes on waiting for a square that is neither on nor still at the level it was. -/
theorem sleepingAhead_stays {h h' : Hw} {r out q : Nat} {f : Flit} (hs : sleepingAhead h r out f = some q) (hh : isHead f = true)
    (hoff : pwrOf h' q ≠ pwrOn) (hlevel : h'.grid.sleepLevel = h.grid.sleepLevel) : sleepingAhead h' r out f = some q := by
  revert hs
  simp only [sleepingAhead, sleepLevel, hlevel, hh, Bool.true_or, Bool.and_true, Bool.and_eq_true, bne_iff_ne]
  split
  · split
    · rintro ⟨⟩; simp [hoff]
    · simp
  · split
    · split
      · next hq => rintro ⟨⟩; simp [hoff, hq.2]
      · simp
    · simp

/-- Power-downs that abort, and their results, leave every other field alone. -/
theorem fget_abortSleep (h : Hw) (q : Nat) {g : Field}
    (hg : g.id ∉ [F_STR_STATUS_ABORTS.id, F_STR_STATUS_PWR.id, F_STR_CMD_RESULT.id, F_PART_PWR_REQ_RESULT.id]) (i j : Nat) :
    fget (abortSleep h q) g i j = fget h g i j := by
  simp only [List.mem_cons, List.not_mem_nil, or_false, not_or] at hg
  obtain ⟨haborts, hpwr, hcmd, hreq⟩ := hg
  have hresult : fget (sleepResult h q 6) g i j = fget h g i j := by
    simp only [sleepResult]
    split
    · split
      · exact fget_fset_id _ _ _ _ _ _ _ _ (Ne.symm hcmd)
      · rfl
    · split
      · split
        · split
          · exact fget_fset_id _ _ _ _ _ _ _ _ (Ne.symm hreq)
          · rfl
        · rfl
      · rfl
  simp only [abortSleep, fadd, setPwr]
  rw [fget_fset_id _ _ _ _ _ _ _ _ (Ne.symm haborts), fget_fset_id _ _ _ _ _ _ _ _ (Ne.symm hpwr), hresult]

theorem pwrOf_setPwr (h : Hw) (q v : Nat) : pwrOf (setPwr h q v) q = v % 8 := fget_fset_same _ _ _ _ _

theorem abortSleep_on (h : Hw) (q : Nat) : pwrOf (abortSleep h q) q = pwrOn := by
  simp only [abortSleep, fadd, pwrOf]
  rw [fget_fset_id _ _ _ _ _ _ _ _ (by decide)]
  exact pwrOf_setPwr _ _ _

/-- A power-down that aborts leaves the flits, the worms and the turns as they are. -/
theorem abortSleep_grid (h : Hw) (q : Nat) : (abortSleep h q).grid = { h.grid with sleepCmd := tdel h.grid.sleepCmd q } := by
  show (sleepResult h q 6).grid = _
  simp only [sleepResult]
  split
  · split <;> rfl
  · split
    · split
      · split <;> rfl
      · rfl
    · rfl

theorem raiseWake_draining {h : Hw} {q : Nat} (hp : pwrOf h q = pwrDraining) : raiseWake h q = abortSleep h q := by
  simp [raiseWake, hp]

theorem raiseWake_off {h : Hw} {q : Nat} (hp : pwrOf h q = pwrAgentsOff ∨ pwrOf h q = pwrSquareOff) : raiseWake h q = setPwr h q pwrWaking := by
  rcases hp with hp | hp <;> simp [raiseWake, hp, pwrDraining, pwrPastPnr, pwrAgentsOff, pwrSquareOff]

theorem deadPort_congr {h h' : Hw} (hdet : ∀ i, fget h' F_STR_STATUS_DETACHED i = fget h F_STR_STATUS_DETACHED i)
    (hout : h'.hom.out = h.hom.out) (r port : Nat) : deadPort h' r port = deadPort h r port := by
  unfold deadPort
  split <;> simp only [hdet, hout]

theorem headOut_congr {h h' : Hw} (hdet : ∀ i, fget h' F_STR_STATUS_DETACHED i = fget h F_STR_STATUS_DETACHED i)
    (hout : h'.hom.out = h.hom.out) (r : Nat) (f : Flit) : headOut h' r f = headOut h r f := by
  simp only [headOut, deadPort_congr hdet hout]

/-! ### A flit that waits alone -/

/-- In `h'` the flit `w` is the only one that waits, and but for power, what decides on it is as in `h`; no more flits are on their way. -/
structure Alone (h h' : Hw) (w : HeldFlit) : Prop where
  held : h'.grid.held = [w]
  worm : h'.grid.worm = h.grid.worm
  level : h'.grid.sleepLevel = h.grid.sleepLevel
  sent : h'.grid.sent.Sublist h.grid.sent
  detached : ∀ i, fget h' F_STR_STATUS_DETACHED i = fget h F_STR_STATUS_DETACHED i
  out : h'.hom.out = h.hom.out

namespace Alone
variable {h h' : Hw} {w : HeldFlit} {out : Nat}

theorem outputFor_eq (a : Alone h h' w) (b : Nat) : outputFor h' w.r b w.flit = outputFor h w.r b w.flit := by
  simp only [outputFor, headOut_congr a.detached a.out, a.worm]

theorem hasRoom (a : Alone h h' w) (hr : isRouter w.r = true) (hroom : hasRoom h w.r out w.flit = true) : hasRoom h' w.r out w.flit = true :=
  hasRoom_mono a.worm a.sent (fun hout => bufCount_elsewhere a.held (neighbour_ne hr hout).symm) hroom

theorem hasNoRoom (a : Alone h h' w) (hheld : h.grid.held = []) (hsent : h'.grid.sent = h.grid.sent)
    (hroom : Machine.hasRoom h w.r out w.flit = false) : Machine.hasRoom h' w.r out w.flit = false :=
  Bool.eq_false_iff.mpr fun hroom' => Bool.eq_false_iff.mp hroom
    (hasRoom_mono a.worm.symm (hsent ▸ List.Sublist.refl _) (fun _ => bufCount_nil hheld _) hroom')

theorem channelFree (a : Alone h h' w) (hch : channelFree h w out) : channelFree h' w out := by
  unfold Proofs.channelFree at *
  rwa [a.worm]

theorem goes (a : Alone h h' w) (hr : isRouter w.r = true) (hfree : 16 ≤ w.buf → isHead w.flit = false)
    (hout : outputFor h w.r w.buf w.flit = some out) (hs : sleepingAhead h' w.r out w.flit = none) (hch : Proofs.channelFree h w out)
    (hroom : Machine.hasRoom h w.r out w.flit = true) : flitState h' w = .go out := by
  rw [flitState_awake hfree ((a.outputFor_eq _).trans hout) hs (a.channelFree hch), if_pos (a.hasRoom hr hroom)]

theorem waits (a : Alone h h' w) (hfree : 16 ≤ w.buf → isHead w.flit = false) (hout : outputFor h w.r w.buf w.flit = some out)
    (hs : sleepingAhead h' w.r out w.flit = none) (hch : Proofs.channelFree h w out) (hheld : h.grid.held = [])
    (hsent : h'.grid.sent = h.grid.sent) (hroom : Machine.hasRoom h w.r out w.flit = false) : flitState h' w = .credit := by
  rw [flitState_awake hfree ((a.outputFor_eq _).trans hout) hs (a.channelFree hch), a.hasNoRoom hheld hsent hroom]
  rfl

theorem wakes {q : Nat} (a : Alone h h' w) (hfree : 16 ≤ w.buf → isHead w.flit = false) (hout : outputFor h w.r w.buf w.flit = some out)
    (hs : sleepingAhead h' w.r out w.flit = some q) : flitState h' w = .wake q :=
  flitState_wake hfree ((a.outputFor_eq _).trans hout) hs

/-- Another note of its waiting. -/
theorem noted (a : Alone h h' w) {v : HeldFlit} : Alone h (noted h' v) v := ⟨rfl, a.worm, a.level, a.sent, a.detached, a.out⟩

theorem fset (a : Alone h h' w) {f : Field} (hf : f.id ≠ F_STR_STATUS_DETACHED.id) (v i j : Nat) : Alone h (fset h' f v i j) w :=
  ⟨a.held, a.worm, a.level, a.sent, fun k => (fget_fset_id _ _ _ _ _ _ _ _ hf).trans (a.detached k), a.out⟩

theorem abortSleep (a : Alone h h' w) (q : Nat) : Alone h (abortSleep h' q) w := by
  have hg := abortSleep_grid h' q
  refine ⟨by rw [hg]; exact a.held, by rw [hg]; exact a.worm, by rw [hg]; exact a.level, by rw [hg]; exact a.sent,
    fun i => (fget_abortSleep h' q (by decide) i 0).trans (a.detached i), ?_⟩
  exact (congrArg (·.hom.out) (rest_abortSleep h' q) : (rest (Machine.abortSleep h' q)).hom.out = (rest h').hom.out).trans a.out

end Alone

/-! ### A flit that finds the routers empty -/

/-- A flit in its buffer at an empty router. -/
def entered (h : Hw) (r d buf : Nat) (f : Flit) : Hw := arrived (received h r d f) r d buf f

theorem enterFlit_entered {h : Hw} {r d buf : Nat} {f : Flit} (hb : bufFor h r d f = some buf) :
    enterFlit (received h r d f) r d f = releaseHeld (entered h r d buf f) :=
  enterFlit_arrived (h := received h r d f) hb

theorem entered_regs (h : Hw) (r d buf : Nat) (f : Flit) : (entered h r d buf f).regs = h.regs := rfl
theorem fget_entered (h : Hw) (r d buf : Nat) (f : Flit) (g : Field) (i j : Nat) : fget (entered h r d buf f) g i j = fget h g i j := rfl
theorem entered_sleepingAhead (h : Hw) (r d buf : Nat) (f : Flit) (x out : Nat) (e : Flit) :
    sleepingAhead (entered h r d buf f) x out e = sleepingAhead h x out e := rfl

theorem onTheWay_sublist (h : Hw) (r d : Nat) (f : Flit) : (onTheWay h r d f).Sublist h.grid.sent := by
  unfold onTheWay
  split
  · exact List.erase_sublist
  · exact List.Sublist.refl _

theorem entered_alone {h : Hw} (hheld : h.grid.held = []) (r d buf : Nat) (f : Flit) :
    Alone h (entered h r d buf f) { r := r, buf := buf, flit := f } where
  held := by
    show h.grid.held ++ _ = _
    rw [hheld]
    rfl
  worm := rfl
  level := rfl
  sent := onTheWay_sublist h r d f
  detached _ := rfl
  out := rfl

section
variable {h h1 : Hw} {w v : HeldFlit} {out : Nat}

/-- A flit that may go at once goes. -/
theorem releaseHeld_at_once (a : Alone h h1 w) (hst : flitState h1 w = .go out) (hgone : (sendFlit h1 w out).grid.held = []) :
    releaseHeld h1 = sendFlit h1 w out :=
  releaseHeld_goes a.held (by rw [noteWaits_single a.held, hst]; rfl) a.held hst hgone

/-- One without a credit notes that it waits for it. -/
theorem releaseHeld_credit (a : Alone h h1 w) (hst : flitState h1 w = .credit)
    (hst' : flitState (noted h1 { w with credit := true }) { w with credit := true } = .credit) :
    releaseHeld h1 = noted h1 { w with credit := true } :=
  releaseHeld_waits (by rw [noteWaits_single a.held, hst]; rfl) rfl fun out => by rw [hst']; exact FlitState.noConfusion

/-- One whose square sleeps wakes it. -/
theorem noteWaits_wake {q : Nat} (a : Alone h h1 w) (hst : flitState h1 w = .wake q) :
    noteWaits h1 = raiseWake (noted h1 { w with inj := w.inj || injects (inputOf w.buf) }) q := by
  rw [noteWaits_single a.held, hst]
  rfl

/-- One that a fence holds shows it. -/
theorem releaseHeld_fence (a : Alone h h1 w) (hst : flitState h1 w = .fence)
    (hst' : flitState (fset (noted h1 { w with inj := true }) F_STR_STATUS_HOLDING 1 w.r) { w with inj := true } = .fence) :
    releaseHeld h1 = fset (noted h1 { w with inj := true }) F_STR_STATUS_HOLDING 1 w.r :=
  releaseHeld_waits (by rw [noteWaits_single a.held, hst]; rfl) rfl fun out => by rw [hst']; exact FlitState.noConfusion

end

end Sys2Proof.Proofs


/-!
FLIT at routers where nothing else waits.
-/

namespace Sys2Proof.Proofs
open Sys2Proof Sys2Proof.Machine

section
variable {r : Fin 160} {p : Fin 13} {side : BitVec 64} {data : BitVec 512} {err : LinkErr} {s : State} {buf : Nat}

/-- A flit without an error, or one from a port, is in its buffer, and what may go goes. -/
theorem exec_flit_entered (ht : Takes s.hw r p (flitOf side data)) (herr : p.val < 4 → err = .clean)
    (hb : bufFor s.hw r p (flitOf side data) = some buf) :
    exec (.flit r p side data err) s = .next { s with hw := releaseHeld (entered s.hw r p buf (flitOf side data)) } := by
  rw [exec_flit_enters ht fun hp => by rw [herr hp]; exact LinkErr.noConfusion, ← enterFlit_entered hb]
  by_cases hp : p.val < 4
  · rw [herr hp, receivedFrom_clean]
  · have hport := Nat.not_lt.mp hp
    have hsame : received s.hw r p (flitOf side data) = s.hw := (receivedFrom_clean _ _ _ _).symm.trans (receivedFrom_port hport _ _ _ _)
    rw [receivedFrom_port hport, hsame]

/-- What the probe of a router does not see: a body or tail flit, and any flit while it neither counts nor traces. -/
def unprobed (h : Hw) (r : Nat) (f : Flit) : Prop := isHead f = false ∨ fget h F_STR_PROBE_CTL_EN r = 0 ∧ fget h F_STR_PROBE_CTL_TRACE r = 0

theorem sendFlit_unprobed {h : Hw} {w : HeldFlit} {out : Nat} (hout : out ≠ 13) (hp : unprobed h w.r w.flit) :
    sendFlit h w out = departed h w out := by
  rw [sendFlit_departs hout]
  rcases hp with hbody | ⟨hen, htr⟩
  · exact probeHead_body hbody _ _ _
  · exact probeHead_off (h := departed h w out) hen htr _ _

theorem unprobed_congr {h h' : Hw} {r : Nat} {f : Flit} (hen : fget h' F_STR_PROBE_CTL_EN r = fget h F_STR_PROBE_CTL_EN r)
    (htr : fget h' F_STR_PROBE_CTL_TRACE r = fget h F_STR_PROBE_CTL_TRACE r) (hp : unprobed h r f) : unprobed h' r f := by
  rwa [unprobed, hen, htr]

theorem goesTo_congr {h h' : Hw} (hworm : h'.grid.worm = h.grid.worm) (r out : Nat) (f : Flit) : goesTo h' r out f = goesTo h r out f := by
  simp only [goesTo, nextBuf, hworm]

/-- What it takes for a flit to leave a router where no other waits. -/
structure MayGo (h : Hw) (w : HeldFlit) (out : Nat) : Prop where
  router : isRouter w.r = true
  free : 16 ≤ w.buf → isHead w.flit = false
  output : outputFor h w.r w.buf w.flit = some out
  kept : out ≠ 13
  channel : channelFree h w out
  room : hasRoom h w.r out w.flit = true
  probe : unprobed h w.r w.flit

/-- It leaves by its output. -/
theorem releaseHeld_departs {h h1 : Hw} {w : HeldFlit} {out : Nat} (a : Alone h h1 w) (m : MayGo h w out)
    (hs : sleepingAhead h1 w.r out w.flit = none) (hprobe : unprobed h1 w.r w.flit) : releaseHeld h1 = departed h1 w out := by
  have hsend := sendFlit_unprobed m.kept hprobe
  have hst := a.goes m.router m.free m.output hs m.channel m.room
  rw [releaseHeld_at_once a hst (by rw [hsend]; exact outOfBuffer_held a.held out), hsend]

theorem flit_goes {out : Nat} (ht : Takes s.hw r p (flitOf side data)) (herr : p.val < 4 → err = .clean)
    (hb : bufFor s.hw r p (flitOf side data) = some buf) (hheld : s.hw.grid.held = [])
    (m : MayGo s.hw { r := r, buf := buf, flit := flitOf side data } out) (hs : sleepingAhead s.hw r out (flitOf side data) = none)
    (htail : isTail (flitOf side data) = true) :
    yields (.flit r p side data err) s fun t =>
      t.hw.grid.sent = onTheWay s.hw r p (flitOf side data) ++
        [{ r := r, out := out, buf := goesTo s.hw r out (flitOf side data), flit := flitOf side data }] ∧
      t.hw.grid.held = [] ∧ tget 0 t.hw.grid.worm (wormKey r (outChan r out (flitOf side data)) out) = 0 ∧ t.hw.regs = s.hw.regs ∧
      sameMemory s t := by
  have a := entered_alone hheld r.val p.val buf (flitOf side data)
  refine ⟨_, exec_flit_entered ht herr hb, ?_⟩
  rw [releaseHeld_departs a m ((entered_sleepingAhead _ _ _ _ _ _ _ _).trans hs)
    (unprobed_congr (fget_entered _ _ _ _ _ _ _ _) (fget_entered _ _ _ _ _ _ _ _) m.probe)]
  refine ⟨?_, outOfBuffer_held a.held out, departed_worm _ out (w := { r := r, buf := buf, flit := flitOf side data }) htail,
    (departed_regs _ _ _).trans (entered_regs _ _ _ _ _), rfl, rfl⟩
  rw [departed_sent, goesTo_congr a.worm]
  rfl

/-- It waits at its port for a credit. -/
theorem flit_waits_for_credit {out : Nat} (ht : Takes s.hw r p (flitOf side data)) (hp : 4 ≤ p.val)
    (hb : bufFor s.hw r p (flitOf side data) = some buf) (hheld : s.hw.grid.held = []) (hfree : 16 ≤ buf → isHead (flitOf side data) = false)
    (hout : outputFor s.hw r buf (flitOf side data) = some out)
    (hch : channelFree s.hw { r := r, buf := buf, flit := flitOf side data } out) (hs : sleepingAhead s.hw r out (flitOf side data) = none)
    (hroom : hasRoom s.hw r out (flitOf side data) = false) :
    yields (.flit r p side data err) s fun t =>
      t.hw.grid.sent = s.hw.grid.sent ∧ t.hw.grid.held = [{ r := r, buf := buf, flit := flitOf side data, credit := true }] ∧
      t.hw.regs = s.hw.regs ∧ sameMemory s t := by
  have a := entered_alone hheld r.val p.val buf (flitOf side data)
  have hsent : (entered s.hw r p buf (flitOf side data)).grid.sent = s.hw.grid.sent := if_neg (Nat.not_lt.mpr hp)
  have hs1 := (entered_sleepingAhead s.hw r p buf (flitOf side data) r out (flitOf side data)).trans hs
  have hst := a.waits hfree hout hs1 hch hheld hsent hroom
  have hst' := (a.noted (v := { r := r, buf := buf, flit := flitOf side data, credit := true })).waits hfree hout hs1 hch hheld hsent hroom
  refine ⟨_, exec_flit_entered ht (fun h => absurd hp (Nat.not_le.mpr h)) hb, ?_⟩
  rw [releaseHeld_credit a hst hst']
  exact ⟨hsent, rfl, rfl, rfl, rfl⟩

/-- The flit of a buffer with a note that it waits at injection, where its input injects. -/
def asleepAt (r buf : Nat) (f : Flit) : HeldFlit := { r := r, buf := buf, flit := f, inj := injects (inputOf buf) }

/-- Where a square ahead sleeps, the flit wakes it. -/
theorem noteWaits_entered_wake {h : Hw} {r d buf out q : Nat} {f : Flit} (hheld : h.grid.held = []) (hfree : 16 ≤ buf → isHead f = false)
    (hout : outputFor h r buf f = some out) (hs : sleepingAhead h r out f = some q) :
    noteWaits (entered h r d buf f) = raiseWake (noted (entered h r d buf f) (asleepAt r buf f)) q := by
  have a := entered_alone hheld r d buf f
  have hst := a.wakes hfree hout ((entered_sleepingAhead h r d buf f r out f).trans hs)
  rw [noteWaits_wake a hst]
  simp only [Bool.false_or, asleepAt]

theorem entered_noted_alone {h : Hw} (hheld : h.grid.held = []) (r d buf : Nat) (f : Flit) :
    Alone h (noted (entered h r d buf f) (asleepAt r buf f)) (asleepAt r buf f) := (entered_alone hheld r d buf f).noted

theorem pwrOf_noted_entered (h : Hw) (r d buf : Nat) (f : Flit) (w : HeldFlit) (q : Nat) : pwrOf (noted (entered h r d buf f) w) q = pwrOf h q := rfl

/-- The square ahead drains: its power-down aborts, and the flit goes. -/
theorem releaseHeld_aborts_sleep {h : Hw} {r d buf out q : Nat} {f : Flit} (hheld : h.grid.held = [])
    (m : MayGo h { r := r, buf := buf, flit := f } out) (hs : sleepingAhead h r out f = some q) (hq : pwrOf h q = pwrDraining) :
    releaseHeld (entered h r d buf f) =
      departed (abortSleep (noted (entered h r d buf f) (asleepAt r buf f)) q) (asleepAt r buf f) out := by
  have a := (entered_noted_alone hheld r d buf f).abortSleep q
  have hnote : noteWaits (entered h r d buf f) = abortSleep (noted (entered h r d buf f) (asleepAt r buf f)) q := by
    rw [noteWaits_entered_wake hheld m.free m.output hs, raiseWake_draining ((pwrOf_noted_entered _ _ _ _ _ _ _).trans hq)]
  have hprobe : unprobed (abortSleep (noted (entered h r d buf f) (asleepAt r buf f)) q) r f :=
    unprobed_congr (fget_abortSleep _ _ (by decide) _ _) (fget_abortSleep _ _ (by decide) _ _) m.probe
  have hst := a.goes m.router m.free m.output (sleepingAhead_of_awake hs (abortSleep_on _ q)) m.channel m.room
  have hsend := sendFlit_unprobed m.kept (w := asleepAt r buf f) hprobe
  rw [releaseHeld_goes (entered_alone hheld r d buf f).held hnote a.held hst (by rw [hsend]; exact outOfBuffer_held a.held out), hsend]

theorem flit_aborts_sleep {out q : Nat} (ht : Takes s.hw r p (flitOf side data)) (herr : p.val < 4 → err = .clean)
    (hb : bufFor s.hw r p (flitOf side data) = some buf) (hheld : s.hw.grid.held = [])
    (m : MayGo s.hw { r := r, buf := buf, flit := flitOf side data } out) (hs : sleepingAhead s.hw r out (flitOf side data) = some q)
    (hq : pwrOf s.hw q = pwrDraining) :
    yields (.flit r p side data err) s fun t =>
      t.hw.grid.sent = onTheWay s.hw r p (flitOf side data) ++
        [{ r := r, out := out, buf := goesTo s.hw r out (flitOf side data), flit := flitOf side data }] ∧
      t.hw.grid.held = [] ∧ pwrOf t.hw q = pwrOn ∧ sameMemory s t := by
  have a := (entered_noted_alone hheld r.val p.val buf (flitOf side data)).abortSleep q
  have hsent : (abortSleep (noted (entered s.hw r p buf (flitOf side data)) (asleepAt r buf (flitOf side data))) q).grid.sent =
      onTheWay s.hw r p (flitOf side data) := by
    rw [abortSleep_grid]
    rfl
  refine ⟨_, exec_flit_entered ht herr hb, ?_⟩
  rw [releaseHeld_aborts_sleep hheld m hs hq]
  refine ⟨?_, outOfBuffer_held a.held out, abortSleep_on _ q, rfl, rfl⟩
  rw [departed_sent, goesTo_congr a.worm, hsent]
  rfl

/-- The square ahead is off: it wakes, and the flit waits. -/
theorem flit_wakes_square {out q : Nat} (ht : Takes s.hw r p (flitOf side data)) (herr : p.val < 4 → err = .clean)
    (hb : bufFor s.hw r p (flitOf side data) = some buf) (hheld : s.hw.grid.held = []) (hfree : 16 ≤ buf → isHead (flitOf side data) = false)
    (hh : isHead (flitOf side data) = true) (hout : outputFor s.hw r buf (flitOf side data) = some out)
    (hs : sleepingAhead s.hw r out (flitOf side data) = some q) (hq : pwrOf s.hw q = pwrAgentsOff ∨ pwrOf s.hw q = pwrSquareOff) :
    yields (.flit r p side data err) s fun t =>
      t.hw.grid.held = [asleepAt r buf (flitOf side data)] ∧ t.hw.grid.sent = onTheWay s.hw r p (flitOf side data) ∧
      pwrOf t.hw q = pwrWaking ∧ sameMemory s t := by
  have a : Alone s.hw (setPwr (noted (entered s.hw r p buf (flitOf side data)) (asleepAt r buf (flitOf side data))) q pwrWaking) _ :=
    (entered_noted_alone hheld r.val p.val buf (flitOf side data)).fset (f := F_STR_STATUS_PWR) (by decide) pwrWaking (routerOf q) 0
  have hwaking := pwrOf_setPwr (noted (entered s.hw r p buf (flitOf side data)) (asleepAt r buf (flitOf side data))) q pwrWaking
  have hnote := noteWaits_entered_wake (d := p.val) hheld hfree hout hs
  rw [raiseWake_off (by rwa [pwrOf_noted_entered])] at hnote
  have hst := a.wakes hfree hout (sleepingAhead_stays hs hh (by rw [hwaking]; decide) a.level)
  refine ⟨_, exec_flit_entered ht herr hb, ?_⟩
  rw [releaseHeld_waits hnote a.held fun out => by rw [hst]; exact FlitState.noConfusion]
  exact ⟨rfl, rfl, hwaking, rfl, rfl⟩

theorem sleepingAhead_discard (h : Hw) (r : Nat) (f : Flit) : sleepingAhead h r 13 f = none := by simp [sleepingAhead]

theorem hasRoom_of_port {out : Nat} (hout : 4 ≤ out) (h : Hw) (r : Nat) (f : Flit) : hasRoom h r out f = true := by simp [hasRoom, hout]

theorem fget_fadd_same (h : Hw) (f : Field) (n i j : Nat) : fget (fadd h f n i j) f i j = min (fget h f i j + n) (2 ^ f.width - 1) := by
  have hpos : 0 < 2 ^ f.width := Nat.two_pow_pos _
  rw [fadd, fget_fset_same, Nat.mod_eq_of_lt (by omega)]

theorem fget_outOfBuffer (h : Hw) (w : HeldFlit) (out : Nat) (g : Field) (i j : Nat) : fget (outOfBuffer h w out) g i j = fget h g i j := rfl

/-- The packet's port is detached or absent, or its route ends at no router: a bus error, or a drop that is counted (R437; log 69). -/
theorem flit_is_discarded (ht : Takes s.hw r p (flitOf side data)) (hp : 4 ≤ p.val) (hb : bufFor s.hw r p (flitOf side data) = some buf)
    (hheld : s.hw.grid.held = []) (hfree : 16 ≤ buf → isHead (flitOf side data) = false) (hh : isHead (flitOf side data) = true)
    (hout : outputFor s.hw r buf (flitOf side data) = some 13) (hch : channelFree s.hw { r := r, buf := buf, flit := flitOf side data } 13) :
    yields (.flit r p side data err) s fun t => t.hw.grid.sent = s.hw.grid.sent ∧ t.hw.grid.held = [] ∧ sameMemory s t ∧
      (flClass (flitOf side data) = 0 ∨ flClass (flitOf side data) = 4 → t.hw.busErr = true) ∧
      (flClass (flitOf side data) ≠ 0 → flClass (flitOf side data) ≠ 4 →
        fget t.hw F_STR_STATUS_DETACHED_DROPS r.val = min (fget s.hw F_STR_STATUS_DETACHED_DROPS r.val + 1) 65535) := by
  have a := entered_alone hheld r.val p.val buf (flitOf side data)
  have hst := a.goes (out := 13) ht.router hfree hout (sleepingAhead_discard _ _ _) hch
    (hasRoom_of_port (by decide) s.hw r.val (flitOf side data))
  have hheld' := outOfBuffer_held a.held 13
  have hsend := sendFlit_discards (h := entered s.hw r p buf (flitOf side data)) (w := { r := r, buf := buf, flit := flitOf side data }) hh
  refine ⟨_, exec_flit_entered ht (fun h => absurd hp (Nat.not_le.mpr h)) hb, ?_⟩
  rw [releaseHeld_at_once a hst (by rw [hsend]; split <;> exact hheld'), hsend]
  have hsent : (outOfBuffer (entered s.hw r p buf (flitOf side data)) { r := r, buf := buf, flit := flitOf side data } 13).grid.sent =
      s.hw.grid.sent := (outOfBuffer_sent _ _ _).trans (if_neg (Nat.not_lt.mpr hp))
  split
  · next hdev => exact ⟨hsent, hheld', ⟨rfl, rfl⟩, fun _ => rfl, fun h0 h4 => absurd hdev (not_or.mpr ⟨h0, h4⟩)⟩
  · next hother =>
    refine ⟨hsent, hheld', ⟨rfl, rfl⟩, fun hdev => absurd hdev hother, fun _ _ => ?_⟩
    rw [fget_fadd_same, fget_outOfBuffer, fget_entered]
    rfl

/-- A fence on its way holds a packet at its port (R436). -/
theorem flit_held_by_fence {x code : Nat} (ht : Takes s.hw r p (flitOf side data)) (hp : 4 ≤ p.val) (hh : isHead (flitOf side data) = true)
    (hheld : s.hw.grid.held = []) (hf : s.hw.grid.fence = some (x, code))
    (hx : x ∈ routeFrom 32 r.val (flDx (flitOf side data)) (flDy (flitOf side data))) :
    yields (.flit r p side data err) s fun t =>
      t.hw.grid.held = [{ r := r, buf := ownBuf s.hw r.val p.val, flit := flitOf side data, inj := true }] ∧ t.hw.grid.sent = s.hw.grid.sent ∧
      fget t.hw F_STR_STATUS_HOLDING r.val = 1 ∧ sameMemory s t := by
  have hcross := fenceCrosses_some hf hx
  have hb : bufFor s.hw r p (flitOf side data) = some (ownBuf s.hw r p) := by
    rw [bufFor_head hh ht.credit, hcross, injects_port hp]
    rfl
  have a := entered_alone hheld r.val p.val (ownBuf s.hw r p) (flitOf side data)
  have hstays : ∀ h' : Hw, h'.grid.fence = some (x, code) → ∀ w : HeldFlit, w.r = r → w.buf = ownBuf s.hw r p → w.flit = flitOf side data →
      flitState h' w = .fence := fun h' hf' w hr hbuf hfl =>
    flitState_fence (by rw [hbuf]; exact ownBuf_large _ _ _) (by rwa [hfl]) (fenceCrosses_some hf' (by rwa [hr, hfl]))
  refine ⟨_, exec_flit_entered ht (fun h => absurd hp (Nat.not_le.mpr h)) hb, ?_⟩
  let e := entered s.hw r p (ownBuf s.hw r p) (flitOf side data)
  let held : HeldFlit := { r := r, buf := ownBuf s.hw r p, flit := flitOf side data, inj := true }
  have hst := hstays e hf { r := r, buf := ownBuf s.hw r p, flit := flitOf side data } rfl rfl rfl
  have hst' := hstays (fset (noted e held) F_STR_STATUS_HOLDING 1 r) hf held rfl rfl rfl
  rw [releaseHeld_fence a hst hst']
  exact ⟨rfl, if_neg (Nat.not_lt.mpr hp), fget_fset_same _ _ _ _ _, rfl, rfl⟩

end

end Sys2Proof.Proofs


/-!
Turns of an output, and what a probe counts and traces.
-/

namespace Sys2Proof.Proofs
open Sys2Proof Sys2Proof.Machine

/-! ### Turns (R431, R436) -/

/-- A fold that keeps the one with the lower rank ends at one of lowest rank. -/
theorem foldl_lowest {α : Type} (rank : α → Nat) {l : List α} {c b : α} (hb : l.foldl (fun b d => if rank d < rank b then d else b) c = b) :
    b ∈ c :: l ∧ ∀ d ∈ c :: l, rank b ≤ rank d := by
  induction l generalizing c with
  | nil =>
    subst hb
    simp
  | cons e l ih =>
    obtain ⟨hmem, hlow⟩ := ih hb
    simp only [List.mem_cons, forall_eq_or_imp] at hmem hlow ⊢
    obtain ⟨hfirst, hrest⟩ := hlow
    split at hfirst
    · next hlt =>
      rw [if_pos hlt] at hmem
      exact ⟨.inr hmem, by omega, hfirst, hrest⟩
    · next hge =>
      rw [if_neg hge] at hmem
      exact ⟨hmem.imp_right .inr, hfirst, by omega, hrest⟩

/-- The flits that may go by one output of one router. -/
def rivals (c : HeldFlit × Nat) (l : List (HeldFlit × Nat)) : List (HeldFlit × Nat) := l.filter fun d => d.1.r == c.1.r && d.2 == c.2

theorem mem_rivals {c d : HeldFlit × Nat} {l : List (HeldFlit × Nat)} : d ∈ rivals c l ↔ d ∈ l ∧ d.1.r = c.1.r ∧ d.2 = c.2 := by
  simp [rivals]

/-- The flit that goes is one that may, and either a fence held it or its turn is first among its rivals. -/
theorem flitTurn_first {h : Hw} {w : HeldFlit} {out : Nat} (ht : flitTurn h = some (w, out)) :
    (w, out) ∈ readyFlits h ∧ ∀ d ∈ readyFlits h, d.1.r = w.r → d.2 = out → 16 ≤ w.buf ∨ turnRank h (w, out) ≤ turnRank h d := by
  cases hready : readyFlits h with
  | nil => simp [flitTurn, hready] at ht
  | cons c l =>
    simp only [flitTurn, hready] at ht
    split at ht
    · next d hfind =>
      obtain rfl : d = (w, out) := Option.some.inj ht
      have hmem := List.mem_of_find?_eq_some hfind
      have hbuf : 16 ≤ w.buf := by simpa using List.find?_some hfind
      refine ⟨?_, fun _ _ _ _ => .inl hbuf⟩
      rcases List.mem_cons.mp hmem with hc | hr
      · exact hc ▸ List.mem_cons_self
      · exact List.mem_cons_of_mem _ (mem_rivals.mp hr).1
    · obtain ⟨hmem, hlow⟩ := foldl_lowest (turnRank h) (Option.some.inj ht)
      rcases List.mem_cons.mp hmem with hc | hr
      · subst hc
        refine ⟨List.mem_cons_self, fun d hd hr hout => .inr (hlow d ?_)⟩
        exact (List.mem_cons.mp hd).elim (fun h => h ▸ List.mem_cons_self) fun hl => List.mem_cons_of_mem _ (mem_rivals.mpr ⟨hl, hr, hout⟩)
      · obtain ⟨hl, hr, hout⟩ := mem_rivals.mp hr
        refine ⟨List.mem_cons_of_mem _ hl, fun d hd hr' hout' => .inr (hlow d ?_)⟩
        exact (List.mem_cons.mp hd).elim (fun h => h ▸ List.mem_cons_self) fun hl' =>
          List.mem_cons_of_mem _ (mem_rivals.mpr ⟨hl', hr'.trans hr, hout'.trans hout⟩)

/-! ### Probes (R438, R439) -/

/-- The event of a probe's counter. -/
def probeEvent (h : Hw) (r n : Nat) : Nat := fget h F_STR_PROBE_CTL_EVT r / 2 ^ (3 * n) % 8

/-- What a head that has not waited adds to a counter of an event. -/
def headAdds (e : Nat) (f : Flit) : Nat := if e = 1 then f.side.toNat / 2 ^ 28 % 32 + 1 else if e = 2 ∨ e = 3 then 0 else 1

theorem probeCount_other (h : Hw) (r : Nat) (w : HeldFlit) (n : Nat) {g : Field} {i j : Nat} (hk : F_STR_PROBE_CNT_COUNT.key r n ≠ g.key i j) :
    fget (probeCount h r n w) g i j = fget h g i j := by
  simp only [probeCount]
  rw [fget_fset_ne _ _ _ _ _ _ _ _ hk]
  split <;> rfl

theorem probeCount_same (h : Hw) (r : Nat) (w : HeldFlit) (n : Nat) (hc : ¬(probeEvent h r n = 2 ∧ w.credit = true))
    (hi : ¬(probeEvent h r n = 3 ∧ w.inj = true)) :
    fget (probeCount h r n w) F_STR_PROBE_CNT_COUNT r n = (fget h F_STR_PROBE_CNT_COUNT r n + headAdds (probeEvent h r n) w.flit) % 2 ^ 48 := by
  have he : bits (fget h F_STR_PROBE_CTL_EVT r) (3 * n + 2) (3 * n) = probeEvent h r n := by
    simp only [bits, probeEvent, Nat.add_sub_cancel_left]
    rfl
  have hw : (probeEvent h r n == 2 && w.credit || probeEvent h r n == 3 && w.inj) = false := by
    simp only [Bool.eq_false_iff, ne_eq, Bool.or_eq_true, Bool.and_eq_true, beq_iff_eq]
    exact not_or.mpr ⟨hc, hi⟩
  simp only [probeCount, he, hw, Bool.false_eq_true, if_false, fget_fset_same, headAdds, beq_iff_eq, Bool.or_eq_true]
  rfl

/-- Counters of one probe have keys of their own. -/
theorem counter_key_ne {r m n : Nat} (hm : m < 4) (hn : n < 4) (hne : m ≠ n) : F_STR_PROBE_CNT_COUNT.key r m ≠ F_STR_PROBE_CNT_COUNT.key r n := by
  simp only [Field.key]
  omega

/-- Counting in the counters of a list changes none outside it. -/
theorem foldl_probeCount_other (r : Nat) (w : HeldFlit) {l : List Nat} {g : Field} {i j : Nat}
    (hk : ∀ m ∈ l, F_STR_PROBE_CNT_COUNT.key r m ≠ g.key i j) (h : Hw) : fget (l.foldl (fun h m => probeCount h r m w) h) g i j = fget h g i j := by
  induction l generalizing h with
  | nil => rfl
  | cons m l ih =>
    rw [List.foldl_cons, ih fun x hx => hk x (List.mem_cons_of_mem _ hx)]
    exact probeCount_other h r w m (hk m List.mem_cons_self)

/-- Each of the first four counters takes its own amount. -/
theorem foldl_probeCount_same (h : Hw) (r : Nat) (w : HeldFlit) {n : Nat} (hn : n < 4) (hc : ¬(probeEvent h r n = 2 ∧ w.credit = true))
    (hi : ¬(probeEvent h r n = 3 ∧ w.inj = true)) : fget ((List.range 4).foldl (fun h m => probeCount h r m w) h) F_STR_PROBE_CNT_COUNT r n =
      (fget h F_STR_PROBE_CNT_COUNT r n + headAdds (probeEvent h r n) w.flit) % 2 ^ 48 := by
  have hsplit : List.range 4 = List.range n ++ n :: (List.range' (n + 1) (3 - n)) := by
    match n, hn with
    | 0, _ | 1, _ | 2, _ | 3, _ => rfl
  have hbefore : ∀ m ∈ List.range n, F_STR_PROBE_CNT_COUNT.key r m ≠ F_STR_PROBE_CNT_COUNT.key r n := fun m hm => by
    have := List.mem_range.mp hm
    exact counter_key_ne (by omega) hn (by omega)
  have hafter : ∀ m ∈ List.range' (n + 1) (3 - n), F_STR_PROBE_CNT_COUNT.key r m ≠ F_STR_PROBE_CNT_COUNT.key r n := fun m hm => by
    have := List.mem_range'_1.mp hm
    exact counter_key_ne (by omega) hn (by omega)
  have hevent : probeEvent ((List.range n).foldl (fun h m => probeCount h r m w) h) r n = probeEvent h r n := by
    simp only [probeEvent]
    rw [foldl_probeCount_other r w fun m _ => key_ne_of_id _ _ _ _ _ _ (by decide)]
  rw [hsplit, List.foldl_append, List.foldl_cons, foldl_probeCount_other r w hafter,
    probeCount_same _ r w n (by rwa [hevent]) (by rwa [hevent]), foldl_probeCount_other r w hbefore, hevent]

/-- A probe matches a head that leaves by its output. -/
structure Matches (h : Hw) (r out : Nat) (w : HeldFlit) : Prop where
  head : isHead w.flit = true
  port : min 4 out = min 4 (fget h F_STR_PROBE_CTL_PORT r)
  value : w.flit.side.toNat.land (fget h F_STR_PROBE_MASK_VALUE r) = (fget h F_STR_PROBE_MATCH_VALUE r).land (fget h F_STR_PROBE_MASK_VALUE r)

theorem probeHead_counts {h : Hw} {r out : Nat} {w : HeldFlit} (hm : Matches h r out w) (hen : fget h F_STR_PROBE_CTL_EN r = 1)
    (hfr : frozen h = false) (htr : fget h F_STR_PROBE_CTL_TRACE r = 0) :
    probeHead h r out w = (List.range 4).foldl (fun h n => probeCount h r n w) h := by
  have hoff : fon ((List.range 4).foldl (fun h n => probeCount h r n w) h) F_STR_PROBE_CTL_TRACE r = false := by
    rw [fon, foldl_probeCount_other r w fun m _ => key_ne_of_id _ _ _ _ _ _ (by decide), htr]
    rfl
  have hon : fon h F_STR_PROBE_CTL_EN r = true := beq_iff_eq.mpr hen
  simp only [probeHead, hm.head, hm.port, hm.value, beq_self_eq_true, Bool.and_self, Bool.not_true, hon, hfr, Bool.not_false,
    Bool.false_eq_true, if_true, if_false, hoff]

theorem probeHead_traces {h : Hw} {r out : Nat} {w : HeldFlit} (hm : Matches h r out w) (hen : fget h F_STR_PROBE_CTL_EN r = 0)
    (htr : fget h F_STR_PROBE_CTL_TRACE r = 1) : probeHead h r out w = probeTrace h r (min 4 out) w.flit := by
  have hoff : fon h F_STR_PROBE_CTL_EN r = false := by rw [fon, hen]; rfl
  have hon : fon h F_STR_PROBE_CTL_TRACE r = true := beq_iff_eq.mpr htr
  simp only [probeHead, hm.head, hm.port, hm.value, beq_self_eq_true, Bool.and_self, Bool.not_true, hoff, hon, Bool.false_and,
    Bool.false_eq_true, if_true, if_false]

/-- The records in a router's buffer for H3. -/
def stored (h : Hw) (r : Nat) : Nat := (h.grid.held.filter fun w => w.r == r && w.buf == 14).length

/-- The sample of a probe starts afresh. -/
def sampled (h : Hw) (r : Nat) : Hw := { h with grid := { h.grid with sample := tset 0 h.grid.sample r 0 } }

/-- A probe that samples every matching head and has not just traced one traces: its record enters the buffer, which holds four, or is dropped. -/
theorem probeTrace_every {h : Hw} {r : Nat} (hs : fget h F_STR_PROBE_CTL_SAMPLE r = 0) (ht : tget 0 h.grid.traced r = 0) (out : Nat) (f : Flit) :
    probeTrace h r out f =
      if 4 ≤ stored h r then fadd (sampled h r) F_STR_PROBE_CTL_DROPS 1 r
      else { sampled h r with grid := { (sampled h r).grid with
        held := h.grid.held ++ [{ r := r, buf := 14, flit := traceFlit h r (traceBytes h r out f) }], traced := tset 0 h.grid.traced r (meshSlot h + 1) } } := by
  have hpick : ¬tget 0 h.grid.sample r + 1 < 2 ^ 0 := by omega
  simp only [probeTrace, hs, hpick, ht, bne_self_eq_false, Bool.false_and, Bool.false_eq_true, if_false]
  rfl

theorem probeTrace_stores {h : Hw} {r : Nat} (hs : fget h F_STR_PROBE_CTL_SAMPLE r = 0) (ht : tget 0 h.grid.traced r = 0) (out : Nat) (f : Flit)
    (hfew : stored h r < 4) :
    (probeTrace h r out f).grid.held = h.grid.held ++ [{ r := r, buf := 14, flit := traceFlit h r (traceBytes h r out f) }] := by
  rw [probeTrace_every hs ht, if_neg (Nat.not_le.mpr hfew)]

theorem probeTrace_drops {h : Hw} {r : Nat} (hs : fget h F_STR_PROBE_CTL_SAMPLE r = 0) (ht : tget 0 h.grid.traced r = 0) (out : Nat) (f : Flit)
    (hfull : 4 ≤ stored h r) : (probeTrace h r out f).grid.held = h.grid.held ∧
      fget (probeTrace h r out f) F_STR_PROBE_CTL_DROPS r = min (fget h F_STR_PROBE_CTL_DROPS r + 1) 65535 := by
  rw [probeTrace_every hs ht, if_pos hfull]
  exact ⟨rfl, fget_fadd_same _ _ _ _ _⟩

end Sys2Proof.Proofs


/-!
Link errors, and what a flit leaves alone.
-/

namespace Sys2Proof.Proofs
open Sys2Proof Sys2Proof.Machine

/-! ### What forwarding leaves of the links (R426) -/

/-- DOWN, REPLAYS and CE of every link. -/
def linkRegs (h : Hw) (r d : Nat) : Nat × Nat × Nat := (fget h F_STR_LINK_DOWN r d, fget h F_STR_LINK_REPLAYS r d, fget h F_STR_LINK_CE r d)

theorem linkRegs_fset {f : Field} (hf : f.id ∉ [F_STR_LINK_DOWN.id, F_STR_LINK_REPLAYS.id, F_STR_LINK_CE.id]) (h : Hw) (v i j : Nat) :
    linkRegs (fset h f v i j) = linkRegs h := by
  simp only [List.mem_cons, List.not_mem_nil, or_false, not_or] at hf
  obtain ⟨hdown, hreplays, hce⟩ := hf
  funext r d
  simp only [linkRegs]
  rw [fget_fset_id _ _ _ _ _ _ _ _ hdown, fget_fset_id _ _ _ _ _ _ _ _ hreplays, fget_fset_id _ _ _ _ _ _ _ _ hce]

/-- A state without what forwarding may change, and its links. -/
def unforwarded (h : Hw) : Hw × (Nat → Nat → Nat × Nat × Nat) :=
  ({ h with regs := [], grid := { replay := h.grid.replay }, freeCtr := 0, busErr := false }, linkRegs h)

theorem unforwarded_fset {f : Field} (hf : f.id ∉ [F_STR_LINK_DOWN.id, F_STR_LINK_REPLAYS.id, F_STR_LINK_CE.id]) (h : Hw) (v i j : Nat) :
    unforwarded (fset h f v i j) = unforwarded h := Prod.ext rfl (linkRegs_fset hf h v i j)

theorem unforwarded_fadd {f : Field} (hf : f.id ∉ [F_STR_LINK_DOWN.id, F_STR_LINK_REPLAYS.id, F_STR_LINK_CE.id]) (h : Hw) (n i j : Nat) :
    unforwarded (fadd h f n i j) = unforwarded h := unforwarded_fset hf h _ i j

theorem unforwarded_sleepResult (h : Hw) (q code : Nat) : unforwarded (sleepResult h q code) = unforwarded h := by
  simp only [sleepResult]
  split
  · split
    · exact unforwarded_fset (by decide) _ _ _ _
    · rfl
  · split
    · split
      · split
        · exact unforwarded_fset (by decide) _ _ _ _
        · rfl
      · rfl
    · rfl

theorem unforwarded_setPwr (h : Hw) (q v : Nat) : unforwarded (setPwr h q v) = unforwarded h := unforwarded_fset (by decide) h v _ 0

theorem unforwarded_abortSleep (h : Hw) (q : Nat) : unforwarded (abortSleep h q) = unforwarded h :=
  (unforwarded_fadd (by decide) _ _ _ _).trans ((unforwarded_setPwr _ _ _).trans (unforwarded_sleepResult _ _ _))

theorem unforwarded_raiseWake (h : Hw) (q : Nat) : unforwarded (raiseWake h q) = unforwarded h := by
  simp only [raiseWake]
  split
  · exact unforwarded_abortSleep h q
  · split
    · rfl
    · split
      · exact unforwarded_setPwr _ _ _
      · rfl

theorem unforwarded_probeCount (h : Hw) (r n : Nat) (w : HeldFlit) : unforwarded (probeCount h r n w) = unforwarded h := by
  simp only [probeCount]
  refine (unforwarded_fset (by decide) _ _ _ _).trans ?_
  split <;> rfl

theorem unforwarded_probeTrace (h : Hw) (r out : Nat) (f : Flit) : unforwarded (probeTrace h r out f) = unforwarded h := by
  simp only [probeTrace]
  split
  · rfl
  · split
    · rfl
    · split
      · exact unforwarded_fadd (by decide) _ _ _ _
      · rfl

theorem unforwarded_probeHead (h : Hw) (r out : Nat) (w : HeldFlit) : unforwarded (probeHead h r out w) = unforwarded h := by
  have hcount : unforwarded (if fon h F_STR_PROBE_CTL_EN r && !frozen h then (List.range 4).foldl (fun h n => probeCount h r n w) h else h) =
      unforwarded h := by
    split
    · exact foldl_keeps unforwarded (fun h n => unforwarded_probeCount h r n w) _ h
    · rfl
  have htrace : ∀ h, unforwarded (if fon h F_STR_PROBE_CTL_TRACE r then probeTrace h r (min 4 out) w.flit else h) = unforwarded h := fun h => by
    split
    · exact unforwarded_probeTrace _ _ _ _
    · rfl
  simp only [probeHead]
  split
  · rfl
  · exact (htrace _).trans hcount

theorem unforwarded_noteWaits (h : Hw) : unforwarded (noteWaits h) = unforwarded h := by
  unfold noteWaits
  refine foldl_keeps unforwarded (fun h w => ?_) _ h
  simp only
  split
  · exact unforwarded_fset (by decide) _ _ _ _
  · exact unforwarded_raiseWake _ _
  · rfl
  · rfl

theorem unforwarded_sendFlit (h : Hw) (w : HeldFlit) (out : Nat) : unforwarded (sendFlit h w out) = unforwarded h := by
  simp only [sendFlit]
  split
  · split
    · rfl
    · split
      · rfl
      · exact unforwarded_fadd (by decide) _ _ _ _
  · exact unforwarded_probeHead _ _ _ _

theorem unforwarded_flitLoop (n : Nat) (h : Hw) : unforwarded (flitLoop n h) = unforwarded h := by
  induction n generalizing h with
  | zero => rfl
  | succ n ih =>
    simp only [flitLoop]
    split
    · exact unforwarded_noteWaits h
    · exact (ih _).trans ((unforwarded_sendFlit _ _ _).trans (unforwarded_noteWaits h))

theorem unforwarded_wakeSquare (h : Hw) (q : Nat) : unforwarded (wakeSquare h q) = unforwarded h := by
  unfold wakeSquare
  split
  · exact (unforwarded_flitLoop _ _).trans (unforwarded_abortSleep h q)
  · exact unforwarded_raiseWake h q

theorem unforwarded_enterFlit (h : Hw) (r d : Nat) (f : Flit) : unforwarded (enterFlit h r d f) = unforwarded h := by
  simp only [enterFlit]
  split
  · rfl
  · exact unforwarded_flitLoop _ _

/-! ### What the entry to Contain leaves of the links (R94, R95) -/

/-- A state without what an entry to Contain may change that takes no partition down and leaves Avenue running, and its links. -/
def uncontained (h : Hw) : Hw × (Nat → Nat → Nat × Nat × Nat) :=
  ({ h with regs := [], mod := {}, ints := {}, kyd := {} }, linkRegs h)

theorem uncontained_fset {f : Field} (hf : f.id ∉ [F_STR_LINK_DOWN.id, F_STR_LINK_REPLAYS.id, F_STR_LINK_CE.id]) (h : Hw) (v i j : Nat) :
    uncontained (fset h f v i j) = uncontained h := Prod.ext rfl (linkRegs_fset hf h v i j)

theorem uncontained_logRec (h : Hw) (r : ErrRec) : uncontained (logRec h r) = uncontained h := by
  simp only [logRec]
  split
  · rfl
  · exact uncontained_fset (by decide) _ _ _ _

theorem uncontained_raiseSource (h : Hw) (i : Nat) : uncontained (raiseSource h i) = uncontained h := by
  have hfirst : uncontained (if fget h F_INT_SRC_STATE_EVENTS 0 i == 0 then { h with ints := { h.ints with firstAt := tset 0 h.ints.firstAt i h.now } }
      else h) = uncontained h := by split <;> rfl
  simp only [raiseSource]
  split
  · rfl
  · exact (uncontained_fset (by decide) _ _ _ _).trans ((uncontained_fset (by decide) _ _ _ _).trans hfirst)

theorem uncontained_startTransition (h : Hw) (target cause : Nat) (req : Bool) : uncontained (startTransition h target cause req) = uncontained h := by
  have hset : uncontained (fset (fset h F_MODE_STATUS_IN_TRANSITION 1) F_MODE_STATUS_TARGET target) = uncontained h :=
    (uncontained_fset (by decide) _ _ _ _).trans (uncontained_fset (by decide) _ _ _ _)
  simp only [startTransition]
  split
  · simp only [stopIngest]
    exact ((uncontained_fset (by decide) _ _ _ _).trans (uncontained_fset (by decide) _ _ _ _)).trans hset
  · exact hset

theorem uncontained_startRequest (h : Hw) (m : Nat) (spill : Bool) : uncontained (startRequest h m spill).1 = uncontained h := by
  unfold startRequest
  split
  · rfl
  · exact uncontained_startTransition _ _ _ _

theorem uncontained_startQueued (h : Hw) : uncontained (startQueued h) = uncontained h := by
  have hreq : ∀ m spill, uncontained (startRequest (fset h F_MODE_STATUS_QUEUED_VALID 0) m spill).1 = uncontained h := fun m spill =>
    (uncontained_startRequest _ _ _).trans (uncontained_fset (by decide) _ _ _ _)
  have hres : ∀ m spill (r : Nat), uncontained (if spill = true then (startRequest (fset h F_MODE_STATUS_QUEUED_VALID 0) m spill).1
      else fset (startRequest (fset h F_MODE_STATUS_QUEUED_VALID 0) m spill).1 F_MODE_REQUEST_RESULT r) = uncontained h := fun m spill r => by
    split
    · exact hreq m spill
    · exact (uncontained_fset (by decide) _ _ _ _).trans (hreq m spill)
  simp only [startQueued]
  split
  · split
    · exact hres _ _ _
    · exact (uncontained_raiseSource _ _).trans (hres _ _ _)
  · rfl

theorem uncontained_abandonTransition (h : Hw) : uncontained (abandonTransition h) = uncontained h := by
  have hres : uncontained (if h.mod.transReq then fset h F_MODE_REQUEST_RESULT mrAbandoned else h) = uncontained h := by
    split
    · exact uncontained_fset (by decide) _ _ _ _
    · rfl
  have hset : uncontained (fset (fset (if h.mod.transReq then fset h F_MODE_REQUEST_RESULT mrAbandoned else h) F_MODE_STATUS_IN_TRANSITION 0)
      F_MODE_STATUS_WAIT_SUPPLY 0) = uncontained h :=
    ((uncontained_fset (by decide) _ _ _ _).trans (uncontained_fset (by decide) _ _ _ _)).trans hres
  simp only [abandonTransition]
  split
  · exact hset
  · rfl

theorem uncontained_containHeld (h : Hw) (temp : Bool) : uncontained (containHeld h temp) = uncontained h := by
  simp only [containHeld, runGates, holdEngines]
  refine (foldl_keeps uncontained (fun h g => uncontained_fset (by decide) _ _ _ _) _ _).trans ?_
  refine (foldl_keeps uncontained (fun h g => uncontained_fset (by decide) _ _ _ _) _ _).trans ?_
  refine (uncontained_fset (by decide) _ _ _ _).trans ((uncontained_fset (by decide) _ _ _ _).trans ?_)
  exact (uncontained_fset (by decide) _ _ _ _).trans (uncontained_fset (by decide) _ _ _ _)

theorem uncontained_keepFromRunning (h : Hw) : uncontained (keepFromRunning h) = uncontained h :=
  foldl_keeps uncontained (fun h p => by
    split
    · exact uncontained_fset (by decide) _ _ _ _
    · rfl) _ h

/-- What the mode controller notes of a link that is down; `first`: the module is not in Contain yet. -/
def linkNoted (h : Hw) (first : Bool) : Hw :=
  { h with mod := { h.mod with containTempOnly := false && (first || h.mod.containTempOnly), deadDies := deadDie h.mod.deadDies .gridLink } }

/-- The blocks are held, and a queued request starts where the entry cut a transition short. -/
def heldFor (h : Hw) (ran : Bool) : Hw :=
  let x := keepFromRunning (containHeld h false)
  raiseSource (if ran && !x.sup.avgWait then startQueued x else x) srcMode

theorem enterContain_gridLink (h : Hw) : (enterContain h .gridLink []).hw =
    if modeNow h < 2 || !bit h.sup.voltOk 7 then h
    else if modeNow h != 7 then heldFor (linkNoted (abandonTransition h) (modeNow h != 7)) (fon h F_MODE_STATUS_IN_TRANSITION)
    else linkNoted (abandonTransition h) (modeNow h != 7) := by
  have hkeep : ∀ x : Hw, (List.range 8).foldl (fun h p =>
      if (fget h F_PART_STATUS_STATE 0 p == 1) = true then fset h F_PART_STATUS_STATE 4 0 p else h) x = keepFromRunning x := fun _ => rfl
  have htemp : (ContainCause.gridLink == .junction) = false := rfl
  simp only [enterContain, hkeep, htemp, stopsAvenue, effEach, List.foldl_nil, Eff.map, heldFor, containHeld, linkNoted,
    Bool.false_eq_true, if_false]
  split
  · rfl
  · split
    · dsimp only
    · rfl

theorem uncontained_heldFor (h : Hw) (ran : Bool) : uncontained (heldFor h ran) = uncontained h := by
  have hheld : uncontained (keepFromRunning (containHeld h false)) = uncontained h :=
    (uncontained_keepFromRunning _).trans (uncontained_containHeld _ _)
  refine (uncontained_raiseSource _ _).trans ?_
  split
  · exact (uncontained_startQueued _).trans hheld
  · exact hheld

theorem uncontained_enterContain (h : Hw) : uncontained (enterContain h .gridLink []).hw = uncontained h := by
  have hnoted : uncontained (linkNoted (abandonTransition h) (modeNow h != 7)) = uncontained h := uncontained_abandonTransition h
  rw [enterContain_gridLink]
  split
  · rfl
  · split
    · exact (uncontained_heldFor _ _).trans hnoted
    · exact hnoted

/-- A fatal error of a link keeps the grid, and the links as they read (R94, R426). -/
theorem uncontained_gridLink (h : Hw) (block inst code d0 : Nat) : uncontained (fatal h block inst code d0 .gridLink []).hw = uncontained h :=
  (uncontained_enterContain _).trans (uncontained_logRec h _)

/-! ### Link errors (R426, R557) -/

theorem linkRegs_logRec (h : Hw) (r : ErrRec) : linkRegs (logRec h r) = linkRegs h := congrArg Prod.snd (uncontained_logRec h r)

theorem linkDown_of_linkRegs {h h' : Hw} (hl : linkRegs h' = linkRegs h) (r d : Nat) : fget h' F_STR_LINK_DOWN r d = fget h F_STR_LINK_DOWN r d :=
  congrArg (·.1) (congrFun (congrFun hl r) d)

theorem linkReplays_of_linkRegs {h h' : Hw} (hl : linkRegs h' = linkRegs h) (r d : Nat) :
    fget h' F_STR_LINK_REPLAYS r d = fget h F_STR_LINK_REPLAYS r d := congrArg (·.2.1) (congrFun (congrFun hl r) d)

theorem linkCe_of_linkRegs {h h' : Hw} (hl : linkRegs h' = linkRegs h) (r d : Nat) : fget h' F_STR_LINK_CE r d = fget h F_STR_LINK_CE r d :=
  congrArg (·.2.2) (congrFun (congrFun hl r) d)

/-- A resend has failed once more. -/
def resent (h : Hw) (r d : Nat) : Hw :=
  { h with grid := { h.grid with replay := tset 0 h.grid.replay (4 * r + d) (tget 0 h.grid.replay (4 * r + d) + 1) } }

theorem resent_replay (h : Hw) (r d : Nat) :
    tget 0 (resent h r d).grid.replay (4 * r + d) = tget 0 h.grid.replay (4 * r + d) + 1 := by simp only [resent, tget_tset_same]

theorem rejectFlit_resends {h : Hw} {r d : Nat} (hn : tget 0 h.grid.replay (4 * r + d) + 1 ≤ 8) :
    rejectFlit h r d = { hw := countReplay (logReg (fadd (resent h r d) F_STR_LINK_REPLAYS 1 r d) 0 blkStr r R_STR_LINK r d) r d } := by
  simp only [rejectFlit, hn, if_true]
  rfl

theorem rejectFlit_fails {h : Hw} {r d : Nat} (hn : 8 < tget 0 h.grid.replay (4 * r + d) + 1) :
    rejectFlit h r d = fatal (fset (resent h r d) F_STR_LINK_DOWN 1 r d) blkStr r (R_STR_LINK.offset d)
      (regVal (fset (resent h r d) F_STR_LINK_DOWN 1 r d) R_STR_LINK r d) .gridLink [] := by
  simp only [rejectFlit, Nat.not_le.mpr hn, if_false]
  rfl

section
variable {r : Fin 160} {p : Fin 13} {side : BitVec 64} {data : BitVec 512} {s : State}

/-- A rejected flit inside a die is counted, and its resend. -/
theorem flit_is_resent (ht : Takes s.hw r p (flitOf side data)) (hp : p.val < 4) (hin : dieBoundary r.val p.val = false)
    (hn : tget 0 s.hw.grid.replay (4 * r.val + p.val) + 1 ≤ 8) :
    yields (.flit r p side data .uncorrectable) s fun t =>
      tget 0 t.hw.grid.replay (4 * r.val + p.val) = tget 0 s.hw.grid.replay (4 * r.val + p.val) + 1 ∧
      fget t.hw F_STR_LINK_REPLAYS r.val p.val = min (fget s.hw F_STR_LINK_REPLAYS r.val p.val + 1) 65535 ∧ t.hw.grid.sent = s.hw.grid.sent ∧
      t.hw.grid.held = s.hw.grid.held ∧ sameMemory s t := by
  refine ⟨_, exec_flit_rejected ht hp, ?_⟩
  have hcount : ∀ h : Hw, countReplay h r.val p.val = h := fun h => by simp [countReplay, hin]
  simp only [State.act, rejectFlit_resends hn, hcount]
  have hgrid : (logReg (fadd (resent s.hw r p) F_STR_LINK_REPLAYS 1 r p) 0 blkStr r R_STR_LINK r p).grid = (resent s.hw r p).grid := logRec_grid _ _
  refine ⟨?_, ?_, ?_, ?_, rfl, rfl⟩
  · rw [hgrid]
    exact resent_replay s.hw r p
  · exact (linkReplays_of_linkRegs (linkRegs_logRec _ _) _ _).trans (fget_fadd_same _ _ _ _ _)
  · rw [hgrid]
    rfl
  · rw [hgrid]
    rfl

/-- The ninth failure in a row takes the link down. -/
theorem flit_takes_link_down (ht : Takes s.hw r p (flitOf side data)) (hp : p.val < 4)
    (hn : 8 < tget 0 s.hw.grid.replay (4 * r.val + p.val) + 1) :
    yields (.flit r p side data .uncorrectable) s fun t => fget t.hw F_STR_LINK_DOWN r.val p.val = 1 ∧
      fget t.hw F_STR_LINK_REPLAYS r.val p.val = fget s.hw F_STR_LINK_REPLAYS r.val p.val ∧ t.hw.grid.sent = s.hw.grid.sent := by
  refine ⟨_, exec_flit_rejected ht hp, ?_⟩
  simp only [State.act_hw, rejectFlit_fails hn]
  have hkeep := uncontained_gridLink (fset (resent s.hw r p) F_STR_LINK_DOWN 1 r p) blkStr r (R_STR_LINK.offset p)
    (regVal (fset (resent s.hw r p) F_STR_LINK_DOWN 1 r p) R_STR_LINK r p)
  have hlinks := congrArg Prod.snd hkeep
  refine ⟨(linkDown_of_linkRegs hlinks _ _).trans (fget_fset_same _ _ _ _ _), ?_, ?_⟩
  · rw [linkReplays_of_linkRegs hlinks, fget_fset_id _ _ _ _ _ _ _ _ (by decide)]
    rfl
  · exact congrArg (fun x => x.1.grid.sent) hkeep

/-- A corrected flit is counted and goes on. -/
theorem flit_is_corrected (ht : Takes s.hw r p (flitOf side data)) (hp : p.val < 4) :
    yields (.flit r p side data .single) s fun t =>
      fget t.hw F_STR_LINK_CE r.val p.val = min (fget s.hw F_STR_LINK_CE r.val p.val + 1) (2 ^ F_STR_LINK_CE.width - 1) ∧
      tget 0 t.hw.grid.replay (4 * r.val + p.val) = 0 ∧ sameMemory s t := by
  refine ⟨_, exec_flit_enters ht fun _ => LinkErr.noConfusion, ?_, ?_, rfl, rfl⟩
  · have hlinks := congrArg Prod.snd (unforwarded_enterFlit (receivedFrom s.hw r p (flitOf side data) .single) r p (flitOf side data))
    refine (linkCe_of_linkRegs hlinks _ _).trans ?_
    rw [receivedFrom, if_pos ⟨hp, rfl⟩]
    exact (linkCe_of_linkRegs (linkRegs_logRec _ _) _ _).trans (fget_fadd_same _ _ _ _ _)
  · have hreplay := congrArg (fun x => x.1.grid.replay)
      (unforwarded_enterFlit (receivedFrom s.hw r p (flitOf side data) .single) r p (flitOf side data))
    refine (congrArg (tget 0 · _) hreplay).trans ?_
    rw [receivedFrom, if_pos ⟨hp, rfl⟩]
    show tget 0 (logReg _ _ _ _ _ _ _).grid.replay _ = 0
    rw [logReg, logRec_grid]
    show tget 0 (if p.val < 4 then _ else _) _ = 0
    rw [if_pos hp, tget_tdel_same]

end

/-! ### What FLIT leaves alone -/

/-- A state without what a flit may change. -/
def aside (h : Hw) : Hw :=
  { h with regs := [], mod := {}, tim := {}, ave := {}, hom := {}, grid := {}, ints := {}, kyd := {}, freeCtr := 0, busErr := false }

theorem eq_of_aside {h h' : Hw} (ha : aside h' = aside h) :
    { h' with regs := h.regs, mod := h.mod, tim := h.tim, ave := h.ave, hom := h.hom, grid := h.grid, ints := h.ints, kyd := h.kyd,
              freeCtr := h.freeCtr, busErr := h.busErr } = h :=
  congrArg (fun x : Hw => { x with regs := h.regs, mod := h.mod, tim := h.tim, ave := h.ave, hom := h.hom, grid := h.grid, ints := h.ints,
                                   kyd := h.kyd, freeCtr := h.freeCtr, busErr := h.busErr }) ha

theorem aside_of_unforwarded {h h' : Hw} (hu : unforwarded h' = unforwarded h) : aside h' = aside h :=
  (congrArg (fun x => aside x.1) hu : aside (unforwarded h').1 = aside (unforwarded h).1)

theorem aside_of_uncontained {h h' : Hw} (hu : uncontained h' = uncontained h) : aside h' = aside h :=
  (congrArg (fun x => aside x.1) hu : aside (uncontained h').1 = aside (uncontained h).1)

theorem aside_logReg (h : Hw) (cls block inst : Nat) (r : Reg) (i j part addr : Nat) : aside (logReg h cls block inst r i j part addr) = aside h :=
  aside_of_uncontained (uncontained_logRec h _)

theorem aside_roomIn (n : Nat) (h : Hw) : aside (roomIn n h) = aside h := by
  induction n generalizing h with
  | zero => rfl
  | succ n ih =>
    simp only [roomIn]
    split
    · rfl
    · exact ih _

theorem aside_startFence (h : Hw) (r code : Nat) : aside (startFence h r code).1 = aside h := by
  unfold startFence
  split
  · rfl
  · split
    · show aside (match squareOf r with | some s => wakeSquare h s | none => h) = aside h
      split
      · exact aside_of_unforwarded (unforwarded_wakeSquare h _)
      · rfl
    · rfl

theorem aside_countReplay (h : Hw) (r d : Nat) : aside (countReplay h r d) = aside h := by
  unfold countReplay
  split
  · rfl
  · dsimp only
    split
    · rfl
    · exact (aside_startFence _ _ _).trans (aside_roomIn _ _)

theorem aside_rejectFlit (h : Hw) (r d : Nat) : aside (rejectFlit h r d).hw = aside h := by
  by_cases hn : tget 0 h.grid.replay (4 * r + d) + 1 ≤ 8
  · rw [rejectFlit_resends hn]
    exact (aside_countReplay _ _ _).trans (aside_logReg _ _ _ _ _ _ _ _ _)
  · rw [rejectFlit_fails (Nat.not_le.mp hn)]
    exact (aside_of_uncontained (uncontained_gridLink _ _ _ _ _)).trans rfl

theorem aside_enterFlit (h : Hw) (r d : Nat) (f : Flit) : aside (enterFlit h r d f) = aside h :=
  aside_of_unforwarded (unforwarded_enterFlit h r d f)

theorem aside_receivedFrom (h : Hw) (r d : Nat) (f : Flit) (err : LinkErr) : aside (receivedFrom h r d f err) = aside h := by
  unfold receivedFrom
  split
  · exact aside_logReg _ _ _ _ _ _ _ _ _
  · rfl

/-- An input that gives no flit, and a flit without a buffer, change nothing (R426, R430, R432, R437). -/
theorem exec_flit_none {r : Fin 160} {p : Fin 13} {side : BitVec 64} {data : BitVec 512} {s : State}
    (hn : (!isRouter r || !gridPowered s.hw || inputShut s.hw r p (flitOf side data) || noCredit s.hw r p (flitOf side data)) = true)
    (err : LinkErr) : exec (.flit r p side data err) s = .next s := by
  show execFlit r p side data err s = _
  simp only [execFlit, State.act, hn, if_true]
  rfl

theorem takes_of_not {h : Hw} {r d : Nat} {f : Flit}
    (hn : ¬(!isRouter r || !gridPowered h || inputShut h r d f || noCredit h r d f) = true) : Takes h r d f := by
  simp only [Bool.or_eq_true, Bool.not_eq_true', not_or, Bool.not_eq_false, Bool.not_eq_true] at hn
  obtain ⟨⟨⟨hr, hp⟩, hs⟩, hc⟩ := hn
  exact ⟨hr, hp, hs, hc⟩

theorem flit_frame (r : Fin 160) (p : Fin 13) (side : BitVec 64) (data : BitVec 512) (err : LinkErr) (s : State) :
    yields (.flit r p side data err) s fun t => aside t.hw = aside s.hw ∧ t.pending = s.pending := by
  by_cases hn : (!isRouter r || !gridPowered s.hw || inputShut s.hw r p (flitOf side data) || noCredit s.hw r p (flitOf side data)) = true
  · exact ⟨_, exec_flit_none hn err, rfl, rfl⟩
  · have ht := takes_of_not hn
    by_cases herr : p.val < 4 ∧ err = .uncorrectable
    · obtain ⟨hp, rfl⟩ := herr
      exact ⟨_, exec_flit_rejected ht hp, aside_rejectFlit _ _ _, rfl⟩
    · exact ⟨_, exec_flit_enters ht fun hp he => herr ⟨hp, he⟩, (aside_enterFlit _ _ _ _).trans (aside_receivedFrom _ _ _ _ _), rfl⟩

end Sys2Proof.Proofs


/-!
What the accesses of agents to memory leave alone: everything but the registers, quarters, caches, interrupt sources, records, free values and
the last result.
-/

namespace Sys2Proof.Proofs
open Sys2Proof Sys2Proof.Machine

/-- A state without what an access to memory may change. -/
def beside (h : Hw) : Hw := { h with regs := [], qu := {}, hom := {}, ints := {}, kyd := {}, freeCtr := 0, lastResult := [] }

@[simp] theorem map_hw (e : Eff) (f : Hw → Hw) : (e.map f).hw = f e.hw := rfl
@[simp] theorem next_hw (e : Eff) (m : Mem) (f : Hw → Mem → Eff) : (e.next m f).hw = (f e.hw (m.applyAll e.ops)).hw := rfl

@[simp] theorem beside_fset (h : Hw) (f : Field) (v i j : Nat) : beside (fset h f v i j) = beside h := rfl
@[simp] theorem beside_fadd (h : Hw) (f : Field) (n i j : Nat) : beside (fadd h f n i j) = beside h := rfl
@[simp] theorem beside_takeFree (h : Hw) : beside (takeFree h).2 = beside h := rfl
@[simp] theorem beside_hom (h : Hw) (x : Homes) : beside { h with hom := x } = beside h := rfl
@[simp] theorem beside_lastResult (h : Hw) (l : List Byte) : beside { h with lastResult := l } = beside h := rfl

/-! ### Records, sources and quarters -/

@[simp] theorem beside_logRec (h : Hw) (r : ErrRec) : beside (logRec h r) = beside h := by
  simp only [logRec]
  split <;> rfl

@[simp] theorem beside_logReg (h : Hw) (cls block inst : Nat) (r : Reg) (i j part addr : Nat) :
    beside (logReg h cls block inst r i j part addr) = beside h := beside_logRec h _

@[simp] theorem beside_raiseSource (h : Hw) (i : Nat) : beside (raiseSource h i) = beside h := by
  simp only [raiseSource]
  split
  · rfl
  · split <;> rfl

@[simp] theorem beside_pmuAdd (r : PmuRegs) (h : Hw) (i n k : Nat) : beside (pmuAdd r h i n k) = beside h := by
  simp only [pmuAdd]
  split <;> rfl

@[simp] theorem beside_pmuTakes (r : PmuRegs) (h : Hw) (i code : Nat) (amount : Option Nat → Nat) : beside (pmuTakes r h i code amount) = beside h :=
  foldl_keeps beside (fun h n => by split <;> simp) _ h

@[simp] theorem beside_pmu (r : PmuRegs) (h : Hw) (i code k : Nat) (part : Option Nat) : beside (pmu r h i code k part) = beside h := by
  unfold pmu
  split <;> simp

@[simp] theorem beside_pmuOpen (r : PmuRegs) (h : Hw) (i code most : Nat) (part : Option Nat) : beside (pmuOpen r h i code most part) = beside h := by
  simp only [pmuOpen]
  split <;> simp

@[simp] theorem beside_pmuBursts (h : Hw) (q code k : Nat) (part : Option Nat) : beside (pmuBursts h q code k part) = beside h := by
  simp only [pmuBursts]
  split <;> simp

@[simp] theorem beside_noteBeats (h : Hw) (q n : Nat) (bs : List BeatRead) : beside (noteBeats h q n bs) = beside h := by
  simp only [noteBeats, beside_fadd]
  refine foldl_keeps beside (fun h e => ?_) _ h
  split
  · simp [countUncorrectable]
  · rfl

@[simp] theorem beside_noteWrite (h : Hw) (q qa : Nat) : beside (noteWrite h q qa) = beside h := by
  simp only [noteWrite]
  split
  · split <;> rfl
  · rfl

@[simp] theorem beside_quarterWrite (h : Hw) (m : Mem) (q qa : Nat) (data : List (Option Byte)) (pz : Bool) (part : Option Nat) :
    beside (quarterWrite h m q qa data pz part).hw = beside h := by
  simp only [quarterWrite, quarterTake]
  split <;> simp

@[simp] theorem beside_sendOffers (h : Hw) (q n l a : Nat) (part : Option Nat) (bs : List BeatRead) :
    beside (sendOffers h q n l a part bs) = beside h := by
  simp only [sendOffers]
  split <;> simp

@[simp] theorem beside_violate (h : Hw) (w : Asker) (q qa : Nat) (write : Bool) : beside (violate h w q qa write) = beside h := by
  simp [violate]

@[simp] theorem beside_mayReach (h : Hw) (w : Asker) (a : Nat) (write : Bool) : beside (mayReach h w a write).2 = beside h := by
  unfold mayReach
  split
  · split <;> simp
  · rfl
  · rfl

/-! ### Lines of caches and slices, and the snoop filter -/

@[simp] theorem beside_setL1 (h : Hw) (c line : Nat) (l : CacheLine) : beside (setL1 h c line l) = beside h := rfl
@[simp] theorem beside_delL1 (h : Hw) (c line : Nat) : beside (delL1 h c line) = beside h := rfl
@[simp] theorem beside_setLlc (h : Hw) (k line : Nat) (l : CacheLine) : beside (setLlc h k line l) = beside h := rfl
@[simp] theorem beside_delLlc (h : Hw) (k line : Nat) : beside (delLlc h k line) = beside h := rfl
@[simp] theorem beside_setTrans (h : Hw) (line : Nat) (t : Option Trans) : beside (setTrans h line t) = beside h := rfl
@[simp] theorem beside_addWaiter (h : Hw) (w : Waiter) : beside (addWaiter h w) = beside h := rfl
@[simp] theorem beside_dropWaiter (h : Hw) (w : Waiter) : beside (dropWaiter h w) = beside h := rfl
@[simp] theorem beside_dropPrivate (h : Hw) (line : Nat) : beside (dropPrivate h line) = beside h := rfl
@[simp] theorem beside_dropCopies (h : Hw) (line : Nat) : beside (dropCopies h line) = beside h := rfl
@[simp] theorem beside_filterOnly (h : Hw) (line c : Nat) : beside (filterOnly h line c) = beside h := rfl
@[simp] theorem beside_setMaint (h : Hw) (c : Nat) (x : Option Maint) : beside (setMaint h c x) = beside h := rfl

@[simp] theorem beside_touchLlc (h : Hw) (line : Nat) : beside (touchLlc h line) = beside h := by
  unfold touchLlc
  split <;> rfl

@[simp] theorem beside_llcLeave (h : Hw) (line : Nat) : beside (llcLeave h line) = beside h := by
  unfold llcLeave
  split
  · split <;> rfl
  · rfl

@[simp] theorem beside_unlockLine (h : Hw) (line : Nat) : beside (unlockLine h line) = beside h := by
  unfold unlockLine
  split <;> rfl

@[simp] theorem beside_filterAdd (h : Hw) (line c : Nat) : beside (filterAdd h line c) = beside h := by
  simp only [filterAdd]
  split <;> rfl

@[simp] theorem beside_filterDel (h : Hw) (line c : Nat) : beside (filterDel h line c) = beside h := by
  simp only [filterDel]
  split
  · rfl
  · split <;> rfl

@[simp] theorem beside_noteRead (h : Hw) (m : Mem) (a : Nat) (part : Option Nat) : beside (noteRead h m a part) = beside h := by
  simp only [noteRead]
  split
  · split <;> simp
  · split <;> simp
  · rfl

@[simp] theorem beside_putLine (h : Hw) (m : Mem) (line : Nat) (data : List Byte) (pz : Bool) : beside (putLine h m line data pz).hw = beside h := by
  unfold putLine
  split <;> simp

@[simp] theorem beside_evictLlc (h : Hw) (m : Mem) (k line : Nat) (l : CacheLine) : beside (evictLlc h m k line l).hw = beside h := by
  simp only [evictLlc]
  split <;> simp

@[simp] theorem beside_homeTake (h : Hw) (m : Mem) (line : Nat) (data : List Byte) (poison dirty : Bool) :
    beside (homeTake h m line data poison dirty).hw = beside h := by
  have hput : beside (if dirty = true then putLine h m line data poison else { hw := h }).hw = beside h := by split <;> simp
  unfold homeTake
  split
  · exact hput
  · exact hput
  · split
    · simp
    · split
      · exact hput
      · split
        · exact hput
        · simp only [map_hw, beside_setLlc]
          split <;> simp

/-! ### Transactions of the homes -/

@[simp] theorem beside_giveLine (h : Hw) (t : Trans) (line : Nat) (st : CState) (data : List Byte) (poison : Bool) :
    beside (giveLine h t line st data poison) = beside h := by
  unfold giveLine
  split
  · simp
  · split <;> simp

@[simp] theorem beside_finishReq (h : Hw) (m : Mem) (line : Nat) (t : Trans) : beside (finishReq h m line t) = beside h := by
  have hserve : ∀ st, beside (if t.got = true then h else
      giveLine (noteRead h m (64 * line) (linePart h line)) t line st (lineNow h m (64 * line)).1 (lineNow h m (64 * line)).2) = beside h := fun st => by
    split <;> simp
  have howns : ∀ g, beside (if (coreLine g t.core line).isSome = true then filterOnly (llcLeave g line) line t.core else g) = beside g := fun g => by
    split <;> simp
  simp only [finishReq, lineRead]
  split
  · exact (beside_setTrans _ _ _).trans (hserve _)
  · split
    · exact (beside_setTrans _ _ _).trans (howns _)
    · exact (beside_setTrans _ _ _).trans ((howns _).trans (hserve _))
  · exact (beside_setTrans _ _ _).trans ((howns _).trans (hserve _))
  · simp
  · simp

@[simp] theorem beside_startReq (h : Hw) (m : Mem) (req : CReq) (c line : Nat) : beside (startReq h m req c line) = beside h := by
  simp only [startReq, apply_ite beside, beside_finishReq, beside_setTrans, ite_self]

@[simp] theorem beside_startWaiter (h : Hw) (m : Mem) (w : Waiter) : beside (startWaiter h m w) = beside h := by
  unfold startWaiter
  split
  · unfold beginReq
    split
    · simp
    · split <;> simp [backInvalidate]
  · rfl

@[simp] theorem beside_wakeWaiting (h : Hw) (m : Mem) : beside (wakeWaiting h m) = beside h := by
  have hstart : ∀ n h, beside (startWaiting h m n) = beside h := fun n => by
    induction n with
    | zero => exact fun _ => rfl
    | succ n ih =>
      intro h
      unfold startWaiting
      split
      · rfl
      · simp [ih]
  exact hstart _ h

@[simp] theorem beside_takeWriteback (h : Hw) (m : Mem) (dirty : Bool) (c line slot : Nat) :
    beside (takeWriteback h m dirty c line slot).hw = beside h := by
  simp only [takeWriteback]
  split
  · rfl
  · split
    · split
      · split <;> simp
      · simp
    · split
      · simp
      · split <;> simp

/-! ### Maintenance -/

@[simp] theorem beside_snoopClean (h : Hw) (m : Mem) (c line : Nat) : beside (snoopClean h m c line).hw = beside h := by
  simp only [snoopClean]
  split
  · split
    · rfl
    · simp only [beside_putLine]
      split <;> simp
  · rfl

@[simp] theorem beside_cleanLine (h : Hw) (m : Mem) (line : Nat) : beside (cleanLine h m line).hw = beside h := by
  unfold cleanLine
  split
  · simp
  · split
    · split <;> simp
    · rfl

@[simp] theorem beside_lockLine (h : Hw) (m : Mem) (line : Nat) : beside (lockLine h m line).1.hw = beside h := by
  simp only [lockLine, lineRead]
  split
  · split
    · rfl
    · split
      · rfl
      · split
        · rfl
        · simp only [map_hw, beside_setLlc]
          split <;> simp
  · rfl

@[simp] theorem beside_maintLine (h : Hw) (m : Mem) (cmd line : Nat) : beside (maintLine h m cmd line).1.hw = beside h := by
  unfold maintLine
  split
  · simp
  · split
    · simp
    · split <;> simp
  · split
    · simp
    · split <;> simp
  · simp
  · simp

@[simp] theorem beside_maintEnd (h : Hw) (c : Nat) (x : Maint) (code : Nat) : beside (maintEnd h c x code) = beside h := by
  simp only [maintEnd]
  split <;> simp

@[simp] theorem beside_runMaint (h : Hw) (m : Mem) (c : Nat) (x : Maint) (n : Nat) : beside (runMaint h m c x n).hw = beside h := by
  induction n generalizing h m x with
  | zero => simp [runMaint]
  | succ n ih =>
    have hreach := beside_mayReach h { part := x.part, secure := x.secure } (64 * x.line) true
    unfold runMaint
    split <;> rename_i heq <;> rw [heq] at hreach
    · simpa using hreach
    · split
      · simpa using hreach
      · simpa [ih] using hreach

/-! ### Transactions close, and snoops are answered -/

@[simp] theorem beside_nextWaiting (h : Hw) (m : Mem) (line n : Nat) : beside (nextWaiting h m line n).hw = beside h := by
  induction n generalizing h m with
  | zero => rfl
  | succ n ih =>
    unfold nextWaiting
    split
    · rfl
    · split
      · rfl
      · split
        · simp [ih]
        · simp [ih]
        · rw [next_hw, ih]
          split <;> simp
        · split <;> simp

@[simp] theorem beside_closeTrans (h : Hw) (m : Mem) (line : Nat) : beside (closeTrans h m line).hw = beside h := by
  simp [closeTrans]

@[simp] theorem beside_answered (h : Hw) (m : Mem) (c line : Nat) (t : Trans) : beside (answered h m c line t).hw = beside h := by
  simp only [answered]
  split
  · simp
  · split <;> simp

@[simp] theorem beside_sharedBy (h : Hw) (m : Mem) (c line : Nat) (t : Trans) : beside (sharedBy h m c line t).hw = beside h := by
  simp only [sharedBy]
  split
  · simp
  · split
    · simp
    · simp only [next_hw, map_hw, beside_answered, beside_giveLine]
      split <;> simp

@[simp] theorem beside_uniqueBy (h : Hw) (m : Mem) (c line : Nat) (t : Trans) : beside (uniqueBy h m c line t).hw = beside h := by
  simp only [uniqueBy]
  split
  · simp
  · split
    · simp
    · simp only [next_hw, map_hw, beside_answered, beside_giveLine]
      split <;> simp

@[simp] theorem beside_invalidated (h : Hw) (m : Mem) (c line : Nat) : beside (invalidated h m c line).hw = beside h := by
  simp only [invalidated]
  split
  · split <;> simp
  · rfl

@[simp] theorem beside_snoopAnswer (h : Hw) (m : Mem) (c line : Nat) (t : Trans) : beside (snoopAnswer h m c line t).hw = beside h := by
  unfold snoopAnswer
  split <;> simp

@[simp] theorem beside_settleLine (h : Hw) (m : Mem) (line : Nat) : beside (settleLine h m line).hw = beside h := by
  have hfor : ∀ n h m, beside (settleFor line n h m).hw = beside h := fun n => by
    induction n with
    | zero => exact fun _ _ => rfl
    | succ n ih =>
      intro h m
      unfold settleFor
      split
      · rfl
      · rw [next_hw, ih]
        split <;> simp
  unfold settleLine
  split
  · rfl
  · exact hfor _ h m

/-! ### Writes of agents that cache no line -/

@[simp] theorem beside_writePiece (h : Hw) (m : Mem) (a : Nat) (data : List (Option Byte)) (pz : Bool) (part : Option Nat) :
    beside (writePiece h m a data pz part).hw = beside h := by
  simp only [writePiece, next_hw, beside_wakeWaiting]
  split
  · split <;> simp
  · split <;> simp
  · simp

@[simp] theorem beside_agentStore (h : Hw) (m : Mem) (w : Asker) (a : Nat) (data : List Byte) (pz : Bool) :
    beside (agentStore h m w a data pz).hw = beside h := by
  have hpieces : ∀ l h m data, beside (writePieces h m w data pz l).1.hw = beside h := fun l => by
    induction l with
    | nil => exact fun _ _ _ => rfl
    | cons x l ih =>
      intro h m data
      have hreach := beside_mayReach h w x.1 true
      unfold writePieces
      split <;> rename_i heq <;> rw [heq] at hreach
      · exact hreach
      · simpa [ih] using hreach
  exact hpieces _ h m _

end Sys2Proof.Proofs


/-!
The records of the probes in the trace ring: a write of sixteen aligned bytes into one quarter, and what TRACE_RECORD does with a record.
-/

namespace Sys2Proof.Proofs
open Sys2Proof Sys2Proof.Machine

/-! ### Where an address lies in its quarter -/

theorem localMember_mod {ms : List (Nat × Nat × Nat)} {o q qa : Nat} (h : localMember ms o = some (q, qa)) : qa % 256 = o % 256 := by
  induction ms generalizing o with
  | nil => simp [localMember] at h
  | cons x ms ih =>
    obtain ⟨q', b, n⟩ := x
    unfold localMember at h
    split at h
    · simp only [Option.some.injEq, Prod.mk.injEq] at h
      omega
    · have := ih h
      omega

theorem memberAt_mod {h : Hw} {p o q qa : Nat} (hm : memberAt h p o = some (q, qa)) : qa % 256 = o % 256 := by
  simp only [memberAt] at hm
  split at hm
  · exact localMember_mod hm
  · split at hm
    · cases hm
    · simp only [Option.some.injEq, Prod.mk.injEq] at hm
      obtain ⟨-, rfl⟩ := hm
      split <;> omega

theorem partAt_base {h : Hw} {a p : Nat} (hp : partAt h a = some p) : fget h F_MEM_PART_BASE_256M 0 p * 2 ^ 28 ≤ a := by
  have := List.find?_some hp
  simp only [Bool.and_eq_true, decide_eq_true_eq] at this
  exact this.1

theorem placeOf_dram_iff {h : Hw} {a p q qa : Nat} : placeOf h a = .dram p q qa ↔
    a < dramEnd h ∧ partAt h a = some p ∧ memberAt h p (a - fget h F_MEM_PART_BASE_256M 0 p * 2 ^ 28) = some (q, qa) := by
  constructor
  · intro hp
    unfold placeOf at hp
    split at hp
    · rename_i hend
      split at hp
      · cases hp
      · rename_i p' hpart
        split at hp
        · cases hp
        · rename_i q' qa' hm
          obtain ⟨rfl, rfl, rfl⟩ := Place.dram.inj hp
          exact ⟨hend, hpart, hm⟩
    · split at hp
      · cases hp
      · split at hp
        · cases hp
        · split at hp
          · cases hp
          · split at hp <;> cases hp
  · rintro ⟨hend, hpart, hm⟩
    unfold placeOf
    rw [if_pos hend, hpart]
    dsimp only
    rw [hm]

/-- An address and its quarter address lie at one place of their quad-lines. -/
theorem placeOf_mod {h : Hw} {a p q qa : Nat} (hp : placeOf h a = .dram p q qa) : qa % 256 = a % 256 := by
  obtain ⟨-, hpart, hm⟩ := placeOf_dram_iff.mp hp
  have := memberAt_mod hm
  have := partAt_base hpart
  omega

theorem dkey_mod (q qa : Nat) : dkey q qa % 256 = qa % 256 := by
  simp only [dkey, cellKey, cellOf]
  omega

/-! ### A write of one whole beat -/

/-- Sixteen aligned bytes touch the one beat that they cover. -/
theorem touchesBeat_covers {k b : Nat} {d : List Byte} (hk : k % 16 = 0) (hd : d.length = 16) (ht : touchesBeat k (d.map some) b = true) :
    coversBeat k (d.map some) b = true := by
  simp only [touchesBeat, List.length_map, List.any_eq_true, List.mem_range, Bool.and_eq_true, beq_iff_eq] at ht
  obtain ⟨i, hi, hb, -⟩ := ht
  have : 16 * b = k := by omega
  simp only [coversBeat, List.length_map, Bool.and_eq_true, decide_eq_true_eq, List.all_eq_true]
  refine ⟨by omega, fun x hx => ?_⟩
  obtain ⟨y, -, rfl⟩ := List.mem_map.mp (List.mem_of_mem_drop (List.mem_of_mem_take hx))
  rfl

/-- So no beat is read first, and the write changes those bytes alone. -/
theorem putLine_beat (m : Mem) {k : Nat} {d : List Byte} (pz : Bool) (er : List Nat) (lost : Bool) (errs : List (Nat × Nat × Nat))
    (hk : k % 16 = 0) (hd : d.length = 16) :
    (m.putLine k (d.map some) pz er lost errs).dram = putBytes m.dram k (d.map some) ∧
      (m.putLine k (d.map some) pz er lost errs).scratch = m.scratch := by
  have hpartly : (((List.range 4).map (k / 64 * 4 + ·)).filter fun b => touchesBeat k (d.map some) b).filter
      (fun b => !coversBeat k (d.map some) b) = [] := by
    refine List.filter_eq_nil_iff.mpr fun b hb => ?_
    simp [touchesBeat_covers hk hd (List.mem_filter.mp hb).2]
  simp only [Mem.putLine, hpartly, List.foldl_nil, and_self]

theorem bytes_putBytes (m : Mem) (k : Nat) (d : List Byte) : { m with dram := putBytes m.dram k (d.map some) }.bytes k d.length = d := by
  refine List.ext_getElem (by simp [Mem.bytes]) fun i hi hd => ?_
  simp only [Mem.bytes, List.getElem_map, List.getElem_range]
  exact tget_putBytes_in _ _ _ _ _ (by simp [hd])

/-! ### A write of an agent into one line -/

theorem pieces_of_line {a n : Nat} (hn : 0 < n) (hl : a % 64 + n ≤ 64) : pieces a n = [(a, n)] := by
  have hcount : (a % 64 + n + 63) / 64 = 1 := by omega
  have h1 : max a (64 * (a / 64)) = a := by omega
  have h2 : min (a + n) (64 * (a / 64) + 64) - a = n := by omega
  simp [pieces, linesOf, hcount, Nat.ne_of_gt hn, h1, h2]

/-- An access to DRAM that is allowed is not counted as a refusal. -/
theorem mayReach_allowed {h : Hw} {w : Asker} {a p q qa : Nat} {write : Bool} (hp : placeOf h a = .dram p q qa)
    (hr : (mayReach h w a write).1 = true) : mayReach h w a write = (true, h) := by
  simp only [mayReach, hp] at hr ⊢
  split at hr
  · simp_all
  · cases hr

theorem quarterWrite_ops (h : Hw) (m : Mem) (q qa : Nat) (data : List (Option Byte)) (pz : Bool) (part : Option Nat) :
    (quarterWrite h m q qa data pz part).ops =
      [.put (dkey q qa) data pz (erasedAt h q (qa / 256)) (qState h q == qLost) (putErrs h q qa [])] := by
  simp only [quarterWrite, quarterTake]
  split <;> rfl

/-- A write of one piece of a line that no transaction holds and no cache has dirty is a write of its quarter. -/
theorem writePiece_ops {h : Hw} {m : Mem} {a p q qa : Nat} {data : List (Option Byte)} {pz : Bool} {part : Option Nat}
    (ht : transOf h (a / 64) = none) (hd : dirtyLine h (a / 64) = none) (hp : placeOf h a = .dram p q qa) :
    (writePiece h m a data pz part).ops = (quarterWrite (dropCopies h (a / 64)) m q qa data pz part).ops := by
  have hsettle : settleLine h m (a / 64) = { hw := h } := by simp [settleLine, ht]
  have hidle : Mem.applyAll m [] = m := rfl
  simp [writePiece, Eff.next, hsettle, hidle, hd, hp]

/-- An allowed write of an agent into one such line is one write of memory. -/
theorem agentStore_ops {h : Hw} {m : Mem} {w : Asker} {a p q qa : Nat} {data : List Byte} {pz : Bool} (hn : 0 < data.length)
    (hl : a % 64 + data.length ≤ 64) (hp : placeOf h a = .dram p q qa) (hr : (mayReach h w a true).1 = true)
    (ht : transOf h (a / 64) = none) (hd : dirtyLine h (a / 64) = none) :
    ∃ er lost errs, (agentStore h m w a data pz).ops = [.put (dkey q qa) (data.map some) pz er lost errs] := by
  have htake : (data.map some).take data.length = data.map some := List.take_of_length_le (by simp)
  simp only [agentStore, agentWrite, pieces_of_line hn hl, writePieces, mayReach_allowed hp hr, List.append_nil, htake,
    writePiece_ops ht hd hp, quarterWrite_ops]
  exact ⟨_, _, _, rfl⟩

/-- What an agent's write of one aligned beat leaves in memory. -/
theorem agentStore_beat {s : State} {h : Hw} {w : Asker} {a p q qa : Nat} {data : List Byte} {pz : Bool} (hlen : data.length = 16)
    (ha : a % 16 = 0) (hp : placeOf h a = .dram p q qa) (hr : (mayReach h w a true).1 = true)
    (ht : transOf h (a / 64) = none) (hd : dirtyLine h (a / 64) = none) (hpower : s.hw.sup.powerFail = false)
    {t : State} (hmem : t.mem = s.land (agentStore h s.mem w a data pz).ops) :
    t.mem.bytes (dkey q qa) 16 = data ∧ dramOutside s t (dkey q qa) 16 := by
  obtain ⟨er, lost, errs, hops⟩ := agentStore_ops (m := s.mem) (data := data) (pz := pz) (by omega) (by omega) hp hr ht hd
  rw [State.land_of_power _ _ hpower, hops] at hmem
  have hk : dkey q qa % 16 = 0 := by
    have := dkey_mod q qa
    have := placeOf_mod hp
    omega
  obtain ⟨hdram, hscratch⟩ := putLine_beat s.mem pz er lost errs hk hlen
  have hmem' : t.mem = s.mem.putLine (dkey q qa) (data.map some) pz er lost errs := hmem
  rw [← hmem'] at hdram hscratch
  refine ⟨?_, fun x hx => ?_, hscratch⟩
  · have := bytes_putBytes s.mem (dkey q qa) data
    simp only [Mem.bytes, Mem.byte, hlen, hdram] at this ⊢
    exact this
  · simp only [Mem.byte, hdram]
    exact tget_putBytes_out _ _ _ _ (by simpa [hlen] using hx)

/-! ### TRACE_RECORD -/

/-- The record `e` leaves its buffer. -/
def takeRecord (h : Hw) (e : SentFlit) : Hw := { h with grid := { h.grid with sent := h.grid.sent.erase e } }

/-- The ring's size and the place of its next record. -/
def ringSize (h : Hw) : Nat := fget h F_TRACE_RING_SIZE_4K * 256
def ringPlace (h : Hw) : Nat := fget h F_TRACE_RING_BASE_4K * 4096 + 16 * fget h F_TRACE_STATUS_HEAD
def ringAsker (h : Hw) : Asker := askerIn h (fget h F_TRACE_RING_TRACE_PART) true
def ringNext (h : Hw) : Nat := (fget h F_TRACE_STATUS_HEAD + 1) % ringSize h

/-- What TRACE_RECORD does at a state with the record `e` taken. -/
def ringTakes (h : Hw) (m : Mem) (e : SentFlit) : Eff :=
  if ringSize h = 0 then { hw := h }
  else if ringNext h = fget h F_TRACE_STATUS_TAIL % ringSize h then { hw := fadd h F_TRACE_STATUS_RING_DROPS 1 }
  else (agentStore h m (ringAsker h) (ringPlace h) (leBytes 16 e.flit.payload.toNat)).map fun g => fset g F_TRACE_STATUS_HEAD (ringNext h)

theorem exec_traceRecord_none {r : Fin 160} {s : State} (hs : s.hw.grid.sent.find? (isRecord r.val) = none) :
    exec (.traceRecord r) s = .next s := by
  show execTraceRecord r s = _
  simp only [execTraceRecord, State.act, hs]
  rfl

theorem exec_traceRecord_some {r : Fin 160} {s : State} {e : SentFlit} (hs : s.hw.grid.sent.find? (isRecord r.val) = some e) :
    exec (.traceRecord r) s = .next (s.act fun h m => ringTakes (takeRecord h e) m e) := by
  show execTraceRecord r s = _
  simp only [execTraceRecord, State.act, hs, ringTakes, ringSize, ringNext, beq_iff_eq]
  rfl

/-! Taking a record changes the network alone, which no access to memory depends on. -/

theorem fget_takeRecord (h : Hw) (e : SentFlit) (f : Field) (i j : Nat) : fget (takeRecord h e) f i j = fget h f i j := rfl

theorem placeOf_takeRecord {h : Hw} {a p q qa : Nat} (e : SentFlit) (hp : placeOf h a = .dram p q qa) :
    placeOf (takeRecord h e) a = .dram p q qa := by
  have hend : dramEnd (takeRecord h e) = dramEnd h := rfl
  have hpart : partAt (takeRecord h e) a = partAt h a := rfl
  have hmember : memberAt (takeRecord h e) p = memberAt h p := rfl
  rw [placeOf_dram_iff] at hp ⊢
  rwa [hend, hpart, hmember]

theorem regionAllows_takeRecord (h : Hw) (e : SentFlit) (w : Asker) (q qa : Nat) :
    regionAllows (takeRecord h e) w q qa = regionAllows h w q qa := by
  have hregion : regionAt (takeRecord h e) q qa = regionAt h q qa := rfl
  unfold regionAllows
  rw [hregion]
  rfl

theorem mayReach_takeRecord {h : Hw} {w : Asker} {a p q qa : Nat} {write : Bool} (e : SentFlit) (hp : placeOf h a = .dram p q qa)
    (hr : (mayReach h w a write).1 = true) : (mayReach (takeRecord h e) w a write).1 = true := by
  simp only [mayReach, hp, placeOf_takeRecord e hp, regionAllows_takeRecord, partDown, fget_takeRecord] at hr ⊢
  split at hr
  · rename_i hallows
    simpa only [if_pos hallows] using hr
  · cases hr

theorem beside_ringTakes (h : Hw) (m : Mem) (e : SentFlit) : beside (ringTakes h m e).hw = beside h := by
  unfold ringTakes
  split
  · rfl
  · split
    · simp
    · simp

theorem traceRecord_loses {r : Fin 160} {s : State} {e : SentFlit} (hs : s.hw.grid.sent.find? (isRecord r.val) = some e)
    (hsize : ringSize s.hw = 0) : changes (.traceRecord r) s fun h => takeRecord h e := by
  have hsize' : ringSize (takeRecord s.hw e) = 0 := hsize
  rw [changes, exec_traceRecord_some hs]
  simp only [State.act, ringTakes, hsize', if_true]
  rfl

theorem traceRecord_drops {r : Fin 160} {s : State} {e : SentFlit} (hs : s.hw.grid.sent.find? (isRecord r.val) = some e)
    (hsize : ringSize s.hw ≠ 0) (hfull : ringNext s.hw = fget s.hw F_TRACE_STATUS_TAIL % ringSize s.hw) :
    changes (.traceRecord r) s fun h => fadd (takeRecord h e) F_TRACE_STATUS_RING_DROPS 1 := by
  have hsize' : ¬ ringSize (takeRecord s.hw e) = 0 := hsize
  have hfull' : ringNext (takeRecord s.hw e) = fget (takeRecord s.hw e) F_TRACE_STATUS_TAIL % ringSize (takeRecord s.hw e) := hfull
  rw [changes, exec_traceRecord_some hs]
  simp only [State.act, ringTakes, hsize', if_false, if_pos hfull']
  rfl

theorem traceRecord_writes {r : Fin 160} {s : State} {e : SentFlit} {p q qa : Nat} (hs : s.hw.grid.sent.find? (isRecord r.val) = some e)
    (hsize : ringSize s.hw ≠ 0) (hroom : ringNext s.hw ≠ fget s.hw F_TRACE_STATUS_TAIL % ringSize s.hw)
    (hp : placeOf s.hw (ringPlace s.hw) = .dram p q qa) (hr : (mayReach s.hw (ringAsker s.hw) (ringPlace s.hw) true).1 = true)
    (hpower : s.hw.sup.powerFail = false) (ht : transOf s.hw (ringPlace s.hw / 64) = none) (hd : dirtyLine s.hw (ringPlace s.hw / 64) = none) :
    yields (.traceRecord r) s fun t => t.mem.bytes (dkey q qa) 16 = leBytes 16 e.flit.payload.toNat ∧ dramOutside s t (dkey q qa) 16 ∧
      fget t.hw F_TRACE_STATUS_HEAD = ringNext s.hw % 2 ^ 24 ∧ t.hw.grid.sent = s.hw.grid.sent.erase e := by
  have htakes : ringTakes (takeRecord s.hw e) s.mem e = (agentStore (takeRecord s.hw e) s.mem (ringAsker s.hw) (ringPlace s.hw)
      (leBytes 16 e.flit.payload.toNat)).map fun g => fset g F_TRACE_STATUS_HEAD (ringNext s.hw) := by
    have hsize' : ¬ ringSize (takeRecord s.hw e) = 0 := hsize
    have hroom' : ¬ ringNext (takeRecord s.hw e) = fget (takeRecord s.hw e) F_TRACE_STATUS_TAIL % ringSize (takeRecord s.hw e) := hroom
    rw [ringTakes, if_neg hsize', if_neg hroom']
    rfl
  have hgrid := congrArg (fun h : Hw => h.grid.sent) (beside_ringTakes (takeRecord s.hw e) s.mem e)
  obtain ⟨hbytes, hout⟩ := agentStore_beat (s := s) (h := takeRecord s.hw e) (w := ringAsker s.hw) (a := ringPlace s.hw) (pz := false)
    (data := leBytes 16 e.flit.payload.toNat) rfl (by simp only [ringPlace]; omega)
    (placeOf_takeRecord e hp) (mayReach_takeRecord e hp hr) ht hd hpower
    (t := s.act fun h m => ringTakes (takeRecord h e) m e) (by rw [State.act_mem, htakes]; rfl)
  refine ⟨_, exec_traceRecord_some hs, hbytes, hout, ?_, hgrid⟩
  rw [State.act_hw, htakes]
  exact fget_fset_same _ _ _ _ _

/-- What TRACE_RECORD leaves alone. -/
theorem traceRecord_frame (r : Fin 160) (s : State) : yields (.traceRecord r) s fun t =>
    beside { t.hw with grid := s.hw.grid } = beside s.hw ∧ t.pending = s.pending := by
  cases hs : s.hw.grid.sent.find? (isRecord r.val) with
  | none => exact ⟨s, exec_traceRecord_none hs, rfl, rfl⟩
  | some e =>
    refine ⟨_, exec_traceRecord_some hs, ?_, rfl⟩
    exact congrArg (fun h : Hw => { h with grid := s.hw.grid }) (beside_ringTakes (takeRecord s.hw e) s.mem e)

/-- Two states alike but for what an access to memory may change, made alike there too. -/
theorem eq_of_beside {h h' : Hw} (hb : beside { h with grid := h'.grid } = beside h') :
    { h with regs := h'.regs, qu := h'.qu, hom := h'.hom, grid := h'.grid, ints := h'.ints, kyd := h'.kyd, freeCtr := h'.freeCtr,
             lastResult := h'.lastResult } = h' :=
  congrArg (fun g : Hw => { g with regs := h'.regs, qu := h'.qu, hom := h'.hom, ints := h'.ints, kyd := h'.kyd, freeCtr := h'.freeCtr,
                                   lastResult := h'.lastResult }) hb

end Sys2Proof.Proofs


/-!
A flit leaves by the output of its route, waits, is refused, is traced and counted.
-/

namespace Sys2Proof.Proofs
open Sys2Proof Sys2Proof.Machine

/-! ### Inputs that give no flit -/

theorem inputShut_of_dead_link {h : Hw} {r d : Nat} {f : Flit} (hd : d < 4) (hl : linked r d = false ∨ fget h F_STR_LINK_DOWN r d = 1) :
    inputShut h r d f = true := by
  rcases hl with hl | hl <;> simp [inputShut, hd, hl, fon]

theorem inputShut_of_dead_port {h : Hw} {r d : Nat} {f : Flit} (hd : 4 ≤ d) (hp : deadPort h r (d - 4) = true ∨ mayInject f = false) :
    inputShut h r d f = true := by
  rcases hp with hp | hp <;> simp [inputShut, Nat.not_lt.mpr hd, hp]

theorem flit_is_refused {r : Fin 160} {p : Fin 13} {side : BitVec 64} {data : BitVec 512} {err : LinkErr} {s : State}
    (hn : isRouter r.val = false ∨ gridPowered s.hw = false ∨
      (p.val < 4 ∧ (linked r.val p.val = false ∨ fget s.hw F_STR_LINK_DOWN r.val p.val = 1)) ∨
      (4 ≤ p.val ∧ (deadPort s.hw r.val (p.val - 4) = true ∨ mayInject (flitOf side data) = false)) ∨
      noCredit s.hw r.val p.val (flitOf side data) = true) : exec (.flit r p side data err) s = .next s := by
  refine exec_flit_none ?_ err
  simp only [Bool.or_eq_true, Bool.not_eq_true']
  rcases hn with hr | hp | ⟨hp, hl⟩ | ⟨hp, hd⟩ | hc
  · exact .inl (.inl (.inl hr))
  · exact .inl (.inl (.inr hp))
  · exact .inl (.inr (inputShut_of_dead_link hp hl))
  · exact .inl (.inr (inputShut_of_dead_port hp hd))
  · exact .inr hc

/-! ### A packet of one flit -/

section
variable {h : Hw} {r d buf out : Nat} {f : Flit}

/-- Where no fence runs, a head enters the buffer of its input. -/
theorem bufFor_unfenced (ht : Takes h r d f) (hk : flKind f = 3) (hf : h.grid.fence = none) : bufFor h r d f = some (headBuf r d f) := by
  rw [bufFor_head (isHead_of_single hk) ht.credit, fenceCrosses_none hf]
  simp

theorem onTheWay_of_buf (hb : bufFor h r d f = some buf) : onTheWay h r d f =
    if d < 4 then h.grid.sent.erase { r := neighbour r d, out := opposite d, buf := buf, flit := f } else h.grid.sent := by
  simp [onTheWay, hb]

theorem onTheWay_port (hd : 4 ≤ d) : onTheWay h r d f = h.grid.sent := if_neg (Nat.not_lt.mpr hd)

theorem goesTo_head (hh : isHead f = true) : goesTo h r out f = if out < 4 then headBuf (neighbour r out) (opposite out) f else out := by
  simp [goesTo, nextBuf, hh]

theorem channelFree_of_zero {w : HeldFlit} (hw : tget 0 h.grid.worm (wormKey w.r (outChan w.r out w.flit) out) = 0) : channelFree h w out :=
  fun hn => absurd hw hn

theorem not_fenced_of_small (hbuf : buf < 16) : 16 ≤ buf → isHead f = false := fun hb => absurd hbuf (Nat.not_lt.mpr hb)

/-- A packet of one flit may leave by the output of its route when the channel is free and the next router has room. -/
theorem mayGo_of_single (ht : Takes h r d f) (hd : d < 13) (hk : flKind f = 3) (hout : headOut h r f ≠ 13)
    (hworm : tget 0 h.grid.worm (wormKey r (outChan r (headOut h r f) f) (headOut h r f)) = 0) (hen : fget h F_STR_PROBE_CTL_EN r = 0)
    (htr : fget h F_STR_PROBE_CTL_TRACE r = 0) (hroom : hasRoom h r (headOut h r f) f = true) :
    MayGo h { r := r, buf := headBuf r d f, flit := f } (headOut h r f) where
  router := ht.router
  free := not_fenced_of_small (headBuf_small hd f)
  output := outputFor_head (w := { r := r, buf := headBuf r d f, flit := f }) (isHead_of_single hk) _
  kept := hout
  channel := channelFree_of_zero hworm
  room := hroom
  probe := .inr ⟨hen, htr⟩

/-- A body or tail flit may leave by its worm's output when the next router has room. -/
theorem mayGo_of_worm (ht : Takes h r d f) (hh : isHead f = false) (hout : outputFor h r buf f = some out) (hkept : out ≠ 13)
    (hroom : hasRoom h r out f = true) : MayGo h { r := r, buf := buf, flit := f } out where
  router := ht.router
  free _ := hh
  output := hout
  kept := hkept
  channel := channelFree_of_worm (w := { r := r, buf := buf, flit := f }) hh hout
  room := hroom
  probe := .inl hh

end

theorem isTail_of_tail {f : Flit} (hk : flKind f = 2) : isTail f = true := by simp [isTail, hk]
theorem isHead_of_tail {f : Flit} (hk : flKind f = 2) : isHead f = false := by simp [isHead, hk]

/-! ### The statement -/

/-- Settles O49: each case of a flit that finds the routers empty is one of `flit_goes`, `flit_waits_for_credit`, `flit_aborts_sleep`,
`flit_wakes_square`, `flit_is_discarded` and `flit_held_by_fence`. -/
theorem flitsTakeTheirRoute : Obligations.FlitsTakeTheirRoute := by
  unfold Obligations.FlitsTakeTheirRoute
  refine ⟨?routes, ?refused, ?sideband, ?channels, ?links, ?single, headOut_eq, ?fence, ?tail, ?turns, ?probes, ?noRecord, ?record,
    ?flitFrame, ?recordFrame⟩
  case routes => exact fun r d hr hd _ _ => routes_end_at_their_destination r d hr hd
  case refused => exact fun r p side data err s hn => flit_is_refused hn
  case sideband => exact fun side data => ⟨mayInject_head, flitOf_head_side, fun hh i h4 h33 => flitOf_body_side hh h4 h33⟩
  case channels => exact fun r f => ⟨fun hs => channels_of_link_die hs f, fun hs => channels_elsewhere hs f⟩
  case links =>
    intro r p side data s hr hpower hp hl hdown hc
    have ht : Takes s.hw r p (flitOf side data) := ⟨hr, hpower, inputShut_of_link hp hl hdown _, hc⟩
    exact ⟨fun hn hin => flit_is_resent ht hp hin hn, flit_is_corrected ht hp, fun hn _ => flit_takes_link_down ht hp hn⟩
  case single =>
    intro r p side data s f out came gone waits hr hpower hshut hc hk hheld hf
    have ht : Takes s.hw r p f := ⟨hr, hpower, hshut, hc⟩
    have hh := isHead_of_single hk
    have hb := bufFor_unfenced ht hk hf
    have hfree : 16 ≤ headBuf r p f → isHead f = false := not_fenced_of_small (headBuf_small p.isLt f)
    have houtput : outputFor s.hw r (headBuf r p f) f = some out := outputFor_head (w := waits) hh _
    have hcame : onTheWay s.hw r p f = came := onTheWay_of_buf hb
    have hgone : ({ r := r, out := out, buf := goesTo s.hw r out f, flit := f } : SentFlit) = gone := by rw [goesTo_head hh]
    refine ⟨fun hout hworm hen htr => ⟨fun hs hroom => ?_, fun hp hs hroom => ?_, fun q hs hq hroom => ?_⟩, fun q hs hq => ?_,
      fun hp hout hworm => ?_⟩
    · obtain ⟨t, ht, hsent, hheld', -, hregs, hmem⟩ := flit_goes ht (fun _ => rfl) hb hheld
        (mayGo_of_single ht p.isLt hk hout hworm hen htr hroom) hs (isTail_of_single hk)
      exact ⟨t, ht, by rw [hsent, hcame, hgone], hheld', hregs, hmem⟩
    · obtain ⟨t, ht, hsent, hrest⟩ := flit_waits_for_credit (err := .clean) ht hp hb hheld hfree houtput
        (channelFree_of_zero (w := waits) hworm) hs hroom
      exact ⟨t, ht, by rw [hsent, ← hcame, onTheWay_port hp], hrest⟩
    · obtain ⟨t, ht, hsent, hrest⟩ := flit_aborts_sleep ht (fun _ => rfl) hb hheld
        (mayGo_of_single ht p.isLt hk hout hworm hen htr hroom) hs hq
      exact ⟨t, ht, by rw [hsent, hcame, hgone], hrest⟩
    · obtain ⟨t, ht, hheld', hsent, hrest⟩ := flit_wakes_square (err := .clean) ht (fun _ => rfl) hb hheld hfree hh houtput hs hq
      exact ⟨t, ht, hheld', by rw [hsent, hcame], hrest⟩
    · exact flit_is_discarded ht hp hb hheld hfree hh (houtput.trans (congrArg some hout)) (channelFree_of_zero (w := waits) hworm)
  case fence =>
    intro r p side data err x code s f hr hpower hshut hc hp hk hheld hf hx
    exact flit_held_by_fence ⟨hr, hpower, hshut, hc⟩ hp (isHead_of_single hk) hheld hf hx
  case tail =>
    intro r p side data err out s f key hr hpower hshut hc hp hk hheld hb hout hkept hs hroom
    have ht : Takes s.hw r p f := ⟨hr, hpower, hshut, hc⟩
    obtain ⟨t, ht, hsent, hrest⟩ := flit_goes ht (fun h => absurd hp (Nat.not_le.mpr h)) hb hheld
      (mayGo_of_worm ht (isHead_of_tail hk) hout hkept hroom) hs (isTail_of_tail hk)
    exact ⟨t, ht, by rw [hsent, onTheWay_port hp]; rfl, hrest⟩
  case turns => exact fun h w out ht => flitTurn_first ht
  case probes =>
    intro h r out w hh hport hvalue
    have hm : Matches h r out w := ⟨hh, hport, hvalue⟩
    refine ⟨fun hen hfr htr n hn hc hi => ?_, fun hen htr hs ht => ⟨fun hfew => ?_, fun hfull => ?_⟩⟩
    · rw [probeHead_counts hm hen hfr htr]
      exact foldl_probeCount_same h r w hn hc hi
    · rw [probeHead_traces hm hen htr]
      exact probeTrace_stores hs ht _ _ hfew
    · rw [probeHead_traces hm hen htr]
      exact probeTrace_drops hs ht _ _ hfull
  case noRecord => exact fun r s hs => exec_traceRecord_none hs
  case record =>
    intro r e s hs
    exact ⟨traceRecord_loses hs, traceRecord_drops hs,
      fun hsize hroom p q qa hp hr hpower ht hd _ => traceRecord_writes hs hsize hroom hp hr hpower ht hd⟩
  case flitFrame =>
    intro r p side data err s
    obtain ⟨t, ht, haside, hpending⟩ := flit_frame r p side data err s
    exact ⟨t, ht, eq_of_aside haside, hpending⟩
  case recordFrame =>
    intro r s
    obtain ⟨t, ht, hbeside, hpending⟩ := traceRecord_frame r s
    exact ⟨t, ht, eq_of_beside hbeside, hpending⟩

end Sys2Proof.Proofs


/-!
Supply inputs: validity, surge, switch-over and its end.
-/

namespace Sys2Proof.Proofs
open Sys2Proof Sys2Proof.Machine

/-! ### One field set -/

theorem onlyRegs_refl (h : Hw) (keys : List Nat) : onlyRegs h h keys := fun _ _ _ _ => rfl

theorem onlyRegs_fset (h : Hw) (f : Field) (v i j : Nat) : onlyRegs h (fset h f v i j) [f.key i j] := fun g i' j' hg =>
  fget_fset_ne h f g v i j i' j' fun hk => hg (List.mem_singleton.mpr hk.symm)

theorem fget_upd_regs {h h' : Hw} (hr : h'.regs = h.regs) (f : Field) (i j : Nat) : fget h' f i j = fget h f i j := by
  unfold fget; rw [hr]

theorem fon_upd_regs {h h' : Hw} (hr : h'.regs = h.regs) (f : Field) (i j : Nat) : fon h' f i j = fon h f i j :=
  fon_eq_of_fget (fget_upd_regs hr f i j)

/-! ### Lifetime entries (R547, R548) -/

theorem roomIn_kyd (n : Nat) (h : Hw) : ∃ k, roomIn n h = { h with kyd := k } := by
  induction n generalizing h with
  | zero => exact ⟨h.kyd, rfl⟩
  | succ n ih =>
    unfold roomIn
    split
    · exact ⟨h.kyd, rfl⟩
    · exact ih (eraseOldest h)

/-- An entry changes Kydin's records alone, and is the newest. -/
theorem addLife_kyd (h : Hw) (type : Nat) (body : List Nat) :
    ∃ k, addLife h type body = { h with kyd := k } ∧ (k.life.head?.map fun e => (e.type, e.body)) = some (type, body) := by
  obtain ⟨k, hk⟩ := roomIn_kyd 256 h
  simp only [addLife, lifeRoom, hk]
  exact ⟨_, rfl, rfl⟩

/-- An entry of the supply takes a free value for its duration, and is the newest. -/
theorem lifeSupply_kyd (h : Hw) (kind : Nat) (i : Input) (before after : Int) :
    ∃ k, lifeSupply h kind i before after = { h with freeCtr := h.freeCtr + 1, kyd := k } ∧
      (k.life.head?.map fun e => (e.type, e.body.take 2)) = some (4, [kind, inputCode i]) := by
  obtain ⟨k, hk, hhead⟩ := addLife_kyd (takeFree h).2 4 [kind, inputCode i, tenMv before, tenMv after, Config.freeNat h.freeCtr % 2 ^ 32]
  refine ⟨k, hk, ?_⟩
  cases hl : k.life with
  | nil => simp [hl] at hhead
  | cons e l =>
    simp only [hl, List.head?_cons, Option.map_some, Option.some.injEq, Prod.mk.injEq] at hhead ⊢
    obtain ⟨htype, hbody⟩ := hhead
    rw [htype, hbody]
    exact ⟨rfl, rfl⟩

/-- A record changes the ring and the number of the next record. -/
theorem logRec_parts (h : Hw) (r : ErrRec) :
    ∃ regs k, logRec h r = { h with regs := regs, kyd := k } ∧ k.life = h.kyd.life := by
  unfold logRec
  split
  · exact ⟨_, _, rfl, rfl⟩
  · exact ⟨_, _, rfl, rfl⟩

/-! ### Inputs (R49, R51) -/

theorem validNow_iff (was : Bool) (mv : Int) : validNow was mv = true ↔ 9000 ≤ mv ∨ (8600 ≤ mv ∧ was = true) := by
  unfold validNow
  split
  · next h => simp [h]
  · next h =>
    split
    · next hlow => simp only [Bool.false_eq_true, false_iff]; omega
    · next hlow => simp only [h, false_or, Int.not_lt.mp hlow, true_and]

@[simp] theorem pinOf_setPin (h : Hw) (i : Input) (v : InputPin) : pinOf (setPin h i v) i = v := by cases i <;> rfl
@[simp] theorem pinOf_setPin_other (h : Hw) (i : Input) (v : InputPin) : pinOf (setPin h i v) (otherInput i) = pinOf h (otherInput i) := by
  cases i <;> rfl
@[simp] theorem setPin_regs (h : Hw) (i : Input) (v : InputPin) : (setPin h i v).regs = h.regs := by cases i <;> rfl
@[simp] theorem setPin_selected (h : Hw) (i : Input) (v : InputPin) : (setPin h i v).sup.selected = h.sup.selected := by cases i <;> rfl
@[simp] theorem setPin_switchTo (h : Hw) (i : Input) (v : InputPin) : (setPin h i v).sup.switchTo = h.sup.switchTo := by cases i <;> rfl
@[simp] theorem setPin_powerGood (h : Hw) (i : Input) (v : InputPin) : (setPin h i v).sup.powerGood = h.sup.powerGood := by cases i <;> rfl
@[simp] theorem setPin_surges (h : Hw) (i : Input) (v : InputPin) : (setPin h i v).sup.surges = h.sup.surges := by cases i <;> rfl
@[simp] theorem setPin_powered (h : Hw) (i : Input) (v : InputPin) : powered (setPin h i v) = powered h := by cases i <;> rfl

/-! ### A switch-over starts (R59, R62) -/

/-- The transfer is noted; what a running transition adds is its wait. -/
def switchNoted (h : Hw) (i : Input) : Hw := { h with sup := { h.sup with switchTo := some i, avgWait := true } }

theorem startSwitch_eq (h : Hw) (i : Input) :
    startSwitch h i = if fon h F_MODE_STATUS_IN_TRANSITION = true then
      fset { switchNoted h i with mod := { h.mod with pausedBySwitch := true } } F_MODE_STATUS_WAIT_SUPPLY 1 else switchNoted h i := rfl

theorem startSwitch_sup (h : Hw) (i : Input) : (startSwitch h i).sup = { h.sup with switchTo := some i, avgWait := true } := by
  rw [startSwitch_eq]
  split <;> rfl

theorem startSwitch_kyd (h : Hw) (i : Input) : (startSwitch h i).kyd = h.kyd := by
  rw [startSwitch_eq]
  split <;> rfl

theorem pinOf_startSwitch (h : Hw) (i j : Input) : pinOf (startSwitch h i) j = pinOf h j := by
  cases j <;> simp only [pinOf, startSwitch_sup]

theorem startSwitch_onlyRegs (h : Hw) (i : Input) : onlyRegs h (startSwitch h i) [F_MODE_STATUS_WAIT_SUPPLY.key 0 0] := by
  rw [startSwitch_eq]
  split
  · exact onlyRegs_fset { switchNoted h i with mod := { h.mod with pausedBySwitch := true } } F_MODE_STATUS_WAIT_SUPPLY 1 0 0
  · exact onlyRegs_refl h _

theorem startSwitch_waits (h : Hw) (i : Input) : fget (startSwitch h i) F_MODE_STATUS_WAIT_SUPPLY =
    if fon h F_MODE_STATUS_IN_TRANSITION then 1 else fget h F_MODE_STATUS_WAIT_SUPPLY := by
  rw [startSwitch_eq]
  split
  · rw [fget_fset_same]; decide
  · rfl

/-! ### INPUT_VALID -/

/-- The reading of an input, its validity and its own average. -/
def pinRead (h : Hw) (inp : Input) (mv : Int) : Hw :=
  setPin h inp { mv := mv, valid := validNow (pinOf h inp).valid mv, surge := (pinOf h inp).surge && decide (60000 < mv),
                 avg := if h.sup.selected == some inp then (pinOf h inp).avg else mv.toNat }

/-- The input becomes valid where the selected one is not, and no transfer runs. -/
def takesInput (h : Hw) (inp : Input) (mv : Int) : Bool :=
  powered (pinRead h inp mv) && (pinRead h inp mv).sup.switchTo.isNone && validNow (pinOf h inp).valid mv && !(pinOf h inp).valid &&
    match (pinRead h inp mv).sup.selected with
    | some i => !(pinOf (pinRead h inp mv) i).valid || (i == inp && !(pinOf h inp).valid)
    | none => false

def inputRead (inp : Input) (mv : Int) (h : Hw) : Hw :=
  if takesInput h inp mv then startSwitch (pinRead h inp mv) inp else pinRead h inp mv

theorem exec_inputValid (inp : Input) (mv : Int) (s : State) : exec (.inputValid inp mv) s = .next (s.upd (inputRead inp mv)) := rfl

theorem onlyRegs_of_regs {h h' t : Hw} {keys : List Nat} (hr : h'.regs = h.regs) (ho : onlyRegs h' t keys) : onlyRegs h t keys :=
  fun f i j hk => (ho f i j hk).trans (fget_upd_regs hr f i j)

theorem pinOf_inputRead (inp i : Input) (mv : Int) (h : Hw) : pinOf (inputRead inp mv h) i = pinOf (pinRead h inp mv) i := by
  unfold inputRead
  split
  · exact pinOf_startSwitch _ _ _
  · rfl

theorem inputValid_reads (inp : Input) (mv : Int) (s : State) : yields (.inputValid inp mv) s fun t =>
    (pinOf t.hw inp).mv = mv ∧
    ((pinOf t.hw inp).valid = true ↔ 9000 ≤ mv ∨ (8600 ≤ mv ∧ (pinOf s.hw inp).valid = true)) ∧
    pinOf t.hw (otherInput inp) = pinOf s.hw (otherInput inp) ∧ t.hw.sup.selected = s.hw.sup.selected ∧
    onlyRegs s.hw t.hw [F_MODE_STATUS_WAIT_SUPPLY.key 0 0] ∧ sameMemory s t := by
  refine ⟨_, exec_inputValid inp mv s, ?_, ?_, ?_, ?_, ?_, rfl, rfl⟩
  · rw [State.upd_hw, pinOf_inputRead, pinRead, pinOf_setPin]
  · rw [State.upd_hw, pinOf_inputRead, pinRead, pinOf_setPin]
    exact validNow_iff _ _
  · rw [State.upd_hw, pinOf_inputRead, pinRead, pinOf_setPin_other]
  · rw [State.upd_hw, inputRead]
    split
    · rw [startSwitch_sup]; exact setPin_selected _ _ _
    · exact setPin_selected _ _ _
  · rw [State.upd_hw, inputRead]
    split
    · exact onlyRegs_of_regs (setPin_regs _ _ _) (startSwitch_onlyRegs _ _)
    · exact onlyRegs_of_regs (setPin_regs _ _ _) (onlyRegs_refl _ _)

theorem inputValid_replaces (inp : Input) (mv : Int) (s : State) (hmv : 9000 ≤ mv) (hp : powered s.hw = true) (hto : s.hw.sup.switchTo = none)
    (hsel : s.hw.sup.selected = some (otherInput inp)) (hother : (pinOf s.hw (otherInput inp)).valid = false)
    (hinp : (pinOf s.hw inp).valid = false) :
    yields (.inputValid inp mv) s fun t => t.hw.sup.switchTo = some inp ∧ t.hw.sup.powerGood = s.hw.sup.powerGood := by
  have hvalid : validNow (pinOf s.hw inp).valid mv = true := (validNow_iff _ _).mpr (.inl hmv)
  have htakes : takesInput s.hw inp mv = true := by
    simp only [takesInput, pinRead, setPin_powered, setPin_switchTo, setPin_selected, pinOf_setPin_other, hp, hto, hsel, hother, hvalid]
    rw [hinp]
    rfl
  refine ⟨_, exec_inputValid inp mv s, ?_⟩
  simp only [State.upd_hw, inputRead, if_pos htakes, startSwitch_sup]
  exact ⟨trivial, setPin_powerGood _ _ _⟩

/-! ### SURGE (R49, R52) -/

/-- The surging input. -/
def surgeRead (h : Hw) (inp : Input) (mv : Nat) : Hw :=
  setPin h inp { mv := mv, valid := true, surge := true, avg := if h.sup.selected == some inp then (pinOf h inp).avg else mv }

/-- The surge is counted and recorded. -/
def surgeNoted (h : Hw) (inp : Input) (mv : Nat) : Hw :=
  let n := surgeRead h inp mv
  logCode (lifeSupply { n with sup := { n.sup with surges := n.sup.surges + 1 } } 1 inp (pinOf h inp).mv mv) 4 blkSupply 0 0xFF02 (inputCode inp)

theorem exec_surge {inp : Input} {mv : Nat} {s : State} (hmv : 60500 < mv) (hs : (pinOf s.hw inp).surge = false) (hp : powered s.hw = true) :
    exec (.surge inp mv) s = .next (s.upd fun h =>
      if ((surgeNoted h inp mv).sup.selected == some inp && (pinOf (surgeNoted h inp mv) (otherInput inp)).valid &&
        (surgeNoted h inp mv).sup.switchTo.isNone) = true then startSwitch (surgeNoted h inp mv) (otherInput inp) else surgeNoted h inp mv) := by
  have hlow : decide (mv ≤ 60500) = false := decide_eq_false (by omega)
  have hpow : powered (setPin s.hw inp { mv := (mv : Int), valid := true, surge := true, avg := if s.hw.sup.selected == some inp then (pinOf s.hw inp).avg else mv }) = true :=
    (setPin_powered _ _ _).trans hp
  show execSurge inp mv s = _
  simp only [execSurge, State.upd, hlow, hs, hpow, Bool.or_self, Bool.false_eq_true, if_false, Bool.not_true]
  rfl

/-- What the notes of a surge leave of the supply, and the entry they add. -/
theorem surgeNoted_parts (h : Hw) (inp : Input) (mv : Nat) :
    (surgeNoted h inp mv).sup = { (surgeRead h inp mv).sup with surges := h.sup.surges + 1 } ∧
    ((surgeNoted h inp mv).kyd.life.head?.map fun e => (e.type, e.body.take 2)) = some (4, [1, inputCode inp]) := by
  obtain ⟨k, hk, hhead⟩ := lifeSupply_kyd { surgeRead h inp mv with sup := { (surgeRead h inp mv).sup with surges := h.sup.surges + 1 } } 1 inp
    (pinOf h inp).mv mv
  have hn : (surgeRead h inp mv).sup.surges = h.sup.surges := setPin_surges _ _ _
  unfold surgeNoted logCode
  simp only [hn, hk]
  obtain ⟨regs, k', hlog, hlife⟩ := logRec_parts
    { surgeRead h inp mv with sup := { (surgeRead h inp mv).sup with surges := h.sup.surges + 1 }, freeCtr := (surgeRead h inp mv).freeCtr + 1, kyd := k }
    { cls := 4, block := blkSupply, inst := 0, code := 0xFF02, seq := 0, d0 := inputCode inp }
  rw [hlog]
  exact ⟨rfl, by rw [hlife]; exact hhead⟩

theorem pinOf_of_pins {h h' : Hw} (ha : h'.sup.pinA = h.sup.pinA) (hb : h'.sup.pinB = h.sup.pinB) (i : Input) : pinOf h' i = pinOf h i := by
  cases i
  · exact ha
  · exact hb

theorem surge_is_recorded (inp : Input) (mv : Nat) (s : State) (hmv : 60500 < mv) (hs : (pinOf s.hw inp).surge = false) (hp : powered s.hw = true) :
    yields (.surge inp mv) s fun t =>
      (pinOf t.hw inp).surge = true ∧ t.hw.sup.surges = s.hw.sup.surges + 1 ∧
      (t.hw.kyd.life.head?.map fun e => (e.type, e.body.take 2)) = some (4, [1, inputCode inp]) ∧
      (s.hw.sup.selected = some inp → (pinOf s.hw (otherInput inp)).valid = true → s.hw.sup.switchTo = none →
        t.hw.sup.switchTo = some (otherInput inp)) ∧
      (s.hw.sup.selected = some inp → (pinOf s.hw (otherInput inp)).valid = false → t.hw.sup.switchTo = s.hw.sup.switchTo) ∧
      sameMemory s t := by
  obtain ⟨hsup, hlife⟩ := surgeNoted_parts s.hw inp mv
  have hpin : ∀ i, pinOf (surgeNoted s.hw inp mv) i = pinOf (surgeRead s.hw inp mv) i := pinOf_of_pins (by rw [hsup]) (by rw [hsup])
  have hown : (pinOf (surgeNoted s.hw inp mv) inp).surge = true := by rw [hpin, surgeRead, pinOf_setPin]
  have hother : pinOf (surgeNoted s.hw inp mv) (otherInput inp) = pinOf s.hw (otherInput inp) := by rw [hpin, surgeRead, pinOf_setPin_other]
  have hsel : (surgeNoted s.hw inp mv).sup.selected = s.hw.sup.selected := by rw [hsup]; exact setPin_selected _ _ _
  have hto : (surgeNoted s.hw inp mv).sup.switchTo = s.hw.sup.switchTo := by rw [hsup]; exact setPin_switchTo _ _ _
  have hcount : (surgeNoted s.hw inp mv).sup.surges = s.hw.sup.surges + 1 := by rw [hsup]
  refine ⟨_, exec_surge hmv hs hp, ?_⟩
  simp only [State.upd_hw, hsel, hother, hto]
  generalize surgeNoted s.hw inp mv = n at *
  split
  · next hleaves =>
    simp only [Bool.and_eq_true, Option.isNone_iff_eq_none] at hleaves
    obtain ⟨⟨-, hvalid⟩, -⟩ := hleaves
    refine ⟨by rw [pinOf_startSwitch]; exact hown, by rw [startSwitch_sup]; exact hcount, by rw [startSwitch_kyd]; exact hlife,
      fun _ _ _ => by rw [startSwitch_sup], fun _ hinvalid => ?_, rfl, rfl⟩
    rw [hinvalid] at hvalid
    exact absurd hvalid (by decide)
  · next hstays =>
    refine ⟨hown, hcount, hlife, fun h1 h2 h3 => absurd ?_ hstays, fun _ _ => hto, rfl, rfl⟩
    simp only [h1, h2, h3, beq_self_eq_true, Option.isNone_none, Bool.and_self]

/-! ### SWITCH_OVER and its completion (R59, R61) -/

theorem exec_switchOver {i : Input} {s : State} (hp : powered s.hw = true) (hsel : s.hw.sup.selected = some i) (hto : s.hw.sup.switchTo = none)
    (hm : mustSwitch s.hw i = true) (hv : (pinOf s.hw (otherInput i)).valid = true) :
    exec .switchOver s = .next (s.upd fun h => startSwitch h (otherInput i)) := by
  show execSwitchOver s = _
  simp only [execSwitchOver, State.upd, hsel, hp, hto, hm, hv, Option.isNone_none, Bool.and_self, if_true]

theorem switchOver_starts (i : Input) (s : State) (hp : powered s.hw = true) (hsel : s.hw.sup.selected = some i) (hto : s.hw.sup.switchTo = none)
    (hm : (pinOf s.hw i).valid = false ∨ (pinOf s.hw i).surge = true ∨ 100 * (pinOf s.hw i).mv < 85 * (s.hw.sup.vin : Int))
    (hv : (pinOf s.hw (otherInput i)).valid = true) :
    yields .switchOver s fun t =>
      t.hw.sup.switchTo = some (otherInput i) ∧ t.hw.sup.selected = some i ∧ t.hw.sup.powerGood = s.hw.sup.powerGood ∧
      fget t.hw F_MODE_STATUS_WAIT_SUPPLY =
        (if fon s.hw F_MODE_STATUS_IN_TRANSITION then 1 else fget s.hw F_MODE_STATUS_WAIT_SUPPLY) ∧
      onlyRegs s.hw t.hw [F_MODE_STATUS_WAIT_SUPPLY.key 0 0] ∧ sameMemory s t := by
  have hmust : mustSwitch s.hw i = true := by
    simp only [mustSwitch, Bool.or_eq_true, Bool.not_eq_true', decide_eq_true_eq]
    tauto
  refine ⟨_, exec_switchOver hp hsel hto hmust hv, ?_⟩
  simp only [State.upd_hw, startSwitch_sup]
  exact ⟨trivial, hsel, trivial, startSwitch_waits _ _, startSwitch_onlyRegs _ _, rfl, rfl⟩

/-- The load is on the new input, counted and recorded. -/
def switchDone (h : Hw) (i : Input) : Hw :=
  logCode (takeInput { h with sup := { h.sup with switchOvers := h.sup.switchOvers + 1 } } i 2) 4 blkSupply 0 0xFF01 (inputCode i)

theorem exec_switchOverComplete {i : Input} {s : State} (hto : s.hw.sup.switchTo = some i) :
    exec .switchOverComplete s = .next (s.upd fun h => raiseSource (switchDone h i) srcSupply) := by
  show execSwitchOverComplete s = _
  simp only [execSwitchOverComplete, State.upd, hto]
  rfl

theorem switchDone_parts (h : Hw) (i : Input) : ∃ regs k c, switchDone h i =
      { h with regs := regs, kyd := k, freeCtr := c,
               sup := { h.sup with switchOvers := h.sup.switchOvers + 1, selected := some i, switchTo := none, vin := (pinOf h i).avg } } ∧
    (k.life.head?.map fun e => (e.type, e.body.take 2)) = some (4, [2, inputCode (h.sup.selected.getD (otherInput i))]) := by
  obtain ⟨k, hk, hhead⟩ := lifeSupply_kyd
    { h with sup := { h.sup with switchOvers := h.sup.switchOvers + 1, selected := some i, switchTo := none, vin := (pinOf h i).avg } }
    2 (h.sup.selected.getD (otherInput i)) h.sup.vin (pinOf h i).mv
  have htake : takeInput { h with sup := { h.sup with switchOvers := h.sup.switchOvers + 1 } } i 2 = _ :=
    (show _ = lifeSupply _ 2 (h.sup.selected.getD (otherInput i)) h.sup.vin (pinOf h i).mv by cases i <;> rfl).trans hk
  obtain ⟨regs, k', hlog, hlife⟩ := logRec_parts
    { h with kyd := k, freeCtr := h.freeCtr + 1,
             sup := { h.sup with switchOvers := h.sup.switchOvers + 1, selected := some i, switchTo := none, vin := (pinOf h i).avg } }
    { cls := 4, block := blkSupply, inst := 0, code := 0xFF01, seq := 0, d0 := inputCode i }
  refine ⟨regs, k', h.freeCtr + 1, ?_, by rw [hlife]; exact hhead⟩
  rw [switchDone, htake]
  exact hlog

theorem raiseSource_parts (h : Hw) (i : Nat) : ∃ regs ints, raiseSource h i = { h with regs := regs, ints := ints } := by
  simp only [raiseSource]
  split
  · exact ⟨_, _, rfl⟩
  · split
    · exact ⟨_, _, rfl⟩
    · exact ⟨_, _, rfl⟩

theorem switchOverComplete_selects (i : Input) (s : State) (hto : s.hw.sup.switchTo = some i) : yields .switchOverComplete s fun t =>
    t.hw.sup.selected = some i ∧ t.hw.sup.switchTo = none ∧ t.hw.sup.vin = (pinOf s.hw i).avg ∧
    t.hw.sup.switchOvers = s.hw.sup.switchOvers + 1 ∧
    fget t.hw F_INT_SRC_STATE_PENDING 0 srcSupply = 1 ∧
    (t.hw.kyd.life.head?.map fun e => (e.type, e.body.take 2)) = some (4, [2, inputCode (s.hw.sup.selected.getD (otherInput i))]) ∧
    t.hw.lan = s.hw.lan ∧ t.hw.tim = s.hw.tim ∧ t.hw.ave = s.hw.ave ∧ t.hw.now = s.hw.now ∧ sameMemory s t := by
  refine ⟨_, exec_switchOverComplete hto, ?_⟩
  simp only [State.upd_hw]
  have hpending : fget (raiseSource (switchDone s.hw i) srcSupply) F_INT_SRC_STATE_PENDING 0 srcSupply = 1 := raiseSource_pending _ (by decide)
  obtain ⟨regs, k, c, hdone, hhead⟩ := switchDone_parts s.hw i
  obtain ⟨regs', ints, hraise⟩ := raiseSource_parts (switchDone s.hw i) srcSupply
  refine ⟨?_, ?_, ?_, ?_, hpending, ?_, ?_, ?_, ?_, ?_, rfl, rfl⟩ <;> rw [hraise, hdone]
  exact hhead

end Sys2Proof.Proofs


/-!
V_in: which modes it permits, and the moves that follow its rise and fall.
-/

namespace Sys2Proof.Proofs
open Sys2Proof Sys2Proof.Machine

/-! ### What V_in permits (R53, R56, R73) -/

/-- Each bit of a list is set as a test says. -/
theorem bit_foldl_setBit_test (c : Nat → Bool) (l : List Nat) (a m : Nat) :
    bit (l.foldl (fun a u => setBit a u (c u)) a) m = if m ∈ l then c m else bit a m := by
  induction l generalizing a with
  | nil => simp
  | cons u l ih =>
    rw [List.foldl_cons, ih, bit_setBit]
    by_cases hl : m ∈ l
    · rw [if_pos hl, if_pos (List.mem_cons_of_mem _ hl)]
    · by_cases hu : m = u
      · rw [if_neg hl, if_pos hu, if_pos (List.mem_cons.mpr (.inl hu)), hu]
      · rw [if_neg hl, if_neg hu, if_neg fun hm => (List.mem_cons.mp hm).elim hu hl]

theorem voltPermits_iff (was : Bool) (vin m : Nat) :
    voltPermits was vin m = true ↔ (thresholds m).1 ≤ vin ∨ ((thresholds m).2 ≤ vin ∧ was = true) := by
  unfold voltPermits
  split
  · next h => simp [h]
  · next h =>
    split
    · next hlow => simp only [Bool.false_eq_true, false_iff]; omega
    · next hlow => simp only [h, false_or, Nat.not_lt.mp hlow, true_and]

/-- A new average of the selected input, before PERMITTED follows. -/
def vinNoted (h : Hw) (vin : Nat) : Hw :=
  let n := match h.sup.selected with | some i => setPin h i { pinOf h i with avg := vin } | none => h
  { n with sup := { n.sup with vin := vin, voltOk := (List.range 8).foldl (fun a m => setBit a m (voltPermits (bit h.sup.voltOk m) vin m)) 0 } }

theorem setVin_eq (h : Hw) (vin : Nat) : setVin h vin = refreshPermitted (vinNoted h vin) := rfl

theorem vinNoted_parts (h : Hw) (vin : Nat) : ∃ a b, vinNoted h vin = { h with sup := { h.sup with
    pinA := a, pinB := b, vin := vin, voltOk := (List.range 8).foldl (fun a m => setBit a m (voltPermits (bit h.sup.voltOk m) vin m)) 0 } } := by
  unfold vinNoted
  cases h.sup.selected with
  | none => exact ⟨_, _, rfl⟩
  | some i => cases i <;> exact ⟨_, _, rfl⟩

/-- PERMITTED alone follows what V_in permits. -/
theorem refreshPermitted_onlyRegs (h : Hw) : onlyRegs h (refreshPermitted h) [F_MODE_STATUS_PERMITTED.key 0 0] := onlyRegs_fset _ _ _ _ _

theorem refreshPermitted_sup (h : Hw) : (refreshPermitted h).sup = h.sup := rfl
theorem refreshPermitted_mod (h : Hw) : (refreshPermitted h).mod = h.mod := rfl

theorem fget_refreshPermitted (h : Hw) {g : Field} (hg : F_MODE_STATUS_PERMITTED.id ≠ g.id) (i j : Nat) :
    fget (refreshPermitted h) g i j = fget h g i j := fget_fset_id _ _ _ _ _ _ _ _ hg

/-- M4 and M6 are reported only with the CLK_X lock. -/
theorem permitted_refreshPermitted (h : Hw) {m : Nat} (hm : m < 8) : permitted (refreshPermitted h) m = true ↔
    bit h.sup.voltOk m = true ∧ ((m = 4 ∨ m = 6) → fon h F_TIMING_STATUS_LOCKED = true) := by
  have hbit : permitted (refreshPermitted h) m =
      bit (if fon h F_TIMING_STATUS_LOCKED then h.sup.voltOk else setBit (setBit h.sup.voltOk 4 false) 6 false) m := by
    rw [permitted, refreshPermitted, fget_fset_same]
    exact bit_mod_two_pow hm _
  rw [hbit]
  by_cases hl : fon h F_TIMING_STATUS_LOCKED = true
  · rw [if_pos hl]; simp [hl]
  · rw [if_neg hl, bit_setBit, bit_setBit]
    by_cases h6 : m = 6
    · simp [h6, hl]
    · by_cases h4 : m = 4
      · simp [h4, hl]
      · simp [h6, h4]

theorem setVin_onlyRegs (h : Hw) (vin : Nat) : onlyRegs h (setVin h vin) [F_MODE_STATUS_PERMITTED.key 0 0] := by
  obtain ⟨a, b, hn⟩ := vinNoted_parts h vin
  rw [setVin_eq]
  exact onlyRegs_of_regs (by rw [hn]) (refreshPermitted_onlyRegs _)

theorem fget_setVin (h : Hw) (vin : Nat) {g : Field} (hg : F_MODE_STATUS_PERMITTED.id ≠ g.id) (i j : Nat) :
    fget (setVin h vin) g i j = fget h g i j :=
  setVin_onlyRegs h vin g i j fun hk => key_ne_of_id _ _ _ _ _ _ hg (List.mem_singleton.mp hk).symm

theorem fon_setVin (h : Hw) (vin : Nat) {g : Field} (hg : F_MODE_STATUS_PERMITTED.id ≠ g.id) (i j : Nat) :
    fon (setVin h vin) g i j = fon h g i j := fon_eq_of_fget (fget_setVin h vin hg i j)

theorem modeNow_setVin (h : Hw) (vin : Nat) : modeNow (setVin h vin) = modeNow h := fget_setVin h vin (by decide) 0 0

theorem setVin_vin (h : Hw) (vin : Nat) : (setVin h vin).sup.vin = vin := rfl

theorem setVin_avgWait (h : Hw) (vin : Nat) : (setVin h vin).sup.avgWait = h.sup.avgWait := by
  obtain ⟨a, b, hn⟩ := vinNoted_parts h vin
  rw [setVin_eq, refreshPermitted_sup, hn]

theorem setVin_mod (h : Hw) (vin : Nat) : (setVin h vin).mod = h.mod := by
  obtain ⟨a, b, hn⟩ := vinNoted_parts h vin
  rw [setVin_eq, refreshPermitted_mod, hn]

theorem setVin_voltOk (h : Hw) (vin : Nat) {m : Nat} (hm : m < 8) :
    bit (setVin h vin).sup.voltOk m = voltPermits (bit h.sup.voltOk m) vin m := by
  have hv : (setVin h vin).sup.voltOk = (List.range 8).foldl (fun a m => setBit a m (voltPermits (bit h.sup.voltOk m) vin m)) 0 := rfl
  rw [hv, bit_foldl_setBit_test fun m => voltPermits (bit h.sup.voltOk m) vin m, if_pos (List.mem_range.mpr hm)]

theorem setVin_voltOk_iff (h : Hw) (vin : Nat) {m : Nat} (hm : m < 8) : bit (setVin h vin).sup.voltOk m = true ↔
    (thresholds m).1 ≤ vin ∨ ((thresholds m).2 ≤ vin ∧ bit h.sup.voltOk m = true) := by
  rw [setVin_voltOk h vin hm, voltPermits_iff]

theorem permitted_setVin (h : Hw) (vin : Nat) {m : Nat} (hm : m < 8) : permitted (setVin h vin) m = true ↔
    bit (setVin h vin).sup.voltOk m = true ∧ ((m = 4 ∨ m = 6) → fon h F_TIMING_STATUS_LOCKED = true) := by
  have hlock : fon (vinNoted h vin) F_TIMING_STATUS_LOCKED = fon h F_TIMING_STATUS_LOCKED := by
    obtain ⟨a, b, hn⟩ := vinNoted_parts h vin
    rw [hn]; rfl
  rw [setVin_eq, permitted_refreshPermitted _ hm, hlock, refreshPermitted_sup]

/-! ### Transitions (R74, R77) -/

/-- The fields that the start of a transition sets. -/
def startIds : List Nat :=
  [F_MODE_STATUS_IN_TRANSITION.id, F_MODE_STATUS_TARGET.id, F_MODE_STOP_STAMP_TURN.id, F_MODE_STOP_STAMP_CROSSING.id]

/-- A transition is noted; one out of ingest stops the crossings too. -/
def transitionNoted (h : Hw) (target cause : Nat) (req : Bool) : Hw :=
  let h := fset (fset h F_MODE_STATUS_IN_TRANSITION 1) F_MODE_STATUS_TARGET target
  { h with mod := { h.mod with transCause := cause, transReq := req } }

theorem startTransition_eq (h : Hw) (target cause : Nat) (req : Bool) : startTransition h target cause req =
    if ((modeNow h == 4 || modeNow h == 6) && (target == 3 || target == 5 || target == 1)) = true
    then stopIngest (transitionNoted h target cause req) else transitionNoted h target cause req := rfl

theorem fget_stopIngest (h : Hw) {g : Field} (hg : g.id ∉ [F_MODE_STOP_STAMP_TURN.id, F_MODE_STOP_STAMP_CROSSING.id]) (i j : Nat) :
    fget (stopIngest h) g i j = fget h g i j := by
  simp only [List.mem_cons, List.not_mem_nil, or_false, not_or] at hg
  exact (fget_fset_id _ _ _ _ _ _ _ _ (Ne.symm hg.2)).trans (fget_fset_id _ _ _ _ _ _ _ _ (Ne.symm hg.1))

theorem fget_startTransition (h : Hw) (target cause : Nat) (req : Bool) {g : Field} (hg : g.id ∉ startIds) (i j : Nat) :
    fget (startTransition h target cause req) g i j = fget h g i j := by
  simp only [startIds, List.mem_cons, List.not_mem_nil, or_false, not_or] at hg
  obtain ⟨hin, htarget, hturn, hcross⟩ := hg
  have hnoted : fget (transitionNoted h target cause req) g i j = fget h g i j :=
    (fget_fset_id _ _ _ _ _ _ _ _ (Ne.symm htarget)).trans (fget_fset_id _ _ _ _ _ _ _ _ (Ne.symm hin))
  rw [startTransition_eq]
  split
  · rw [fget_stopIngest _ (by simp [hturn, hcross]), hnoted]
  · exact hnoted

theorem startTransition_inTransition (h : Hw) (target cause : Nat) (req : Bool) :
    fget (startTransition h target cause req) F_MODE_STATUS_IN_TRANSITION = 1 := by
  have hnoted : fget (transitionNoted h target cause req) F_MODE_STATUS_IN_TRANSITION = 1 :=
    (fget_fset_id _ F_MODE_STATUS_TARGET F_MODE_STATUS_IN_TRANSITION _ _ _ _ _ (by decide)).trans
      ((fget_fset_same _ _ _ _ _).trans (by decide))
  rw [startTransition_eq]
  split
  · rw [fget_stopIngest _ (by decide), hnoted]
  · exact hnoted

theorem startTransition_target (h : Hw) {target : Nat} (ht : target < 8) (cause : Nat) (req : Bool) :
    fget (startTransition h target cause req) F_MODE_STATUS_TARGET = target := by
  have hnoted : fget (transitionNoted h target cause req) F_MODE_STATUS_TARGET = target :=
    (fget_fset_same _ _ _ _ _).trans (Nat.mod_eq_of_lt ht)
  rw [startTransition_eq]
  split
  · rw [fget_stopIngest _ (by decide), hnoted]
  · exact hnoted

theorem modeNow_startTransition (h : Hw) (target cause : Nat) (req : Bool) : modeNow (startTransition h target cause req) = modeNow h :=
  fget_startTransition h target cause req (by decide) 0 0

theorem startTransition_sup (h : Hw) (target cause : Nat) (req : Bool) : (startTransition h target cause req).sup = h.sup := by
  rw [startTransition_eq]
  split <;> rfl

theorem startTransition_m1Fall (h : Hw) (target cause : Nat) (req : Bool) : (startTransition h target cause req).mod.m1Fall = h.mod.m1Fall := by
  rw [startTransition_eq]
  split <;> rfl

theorem abandonTransition_of_none {h : Hw} (hin : fon h F_MODE_STATUS_IN_TRANSITION = false) : abandonTransition h = h := by
  simp only [abandonTransition, hin, Bool.false_eq_true, if_false]

theorem abandonTransition_sup (h : Hw) : (abandonTransition h).sup = h.sup := by
  simp only [abandonTransition]
  split
  · split <;> rfl
  · rfl

theorem fget_abandonTransition (h : Hw) {g : Field}
    (hg : g.id ∉ [F_MODE_REQUEST_RESULT.id, F_MODE_STATUS_IN_TRANSITION.id, F_MODE_STATUS_WAIT_SUPPLY.id]) (i j : Nat) :
    fget (abandonTransition h) g i j = fget h g i j := by
  simp only [List.mem_cons, List.not_mem_nil, or_false, not_or] at hg
  obtain ⟨hres, hin, hwait⟩ := hg
  have hends : ∀ n : Hw, fget (fset (fset n F_MODE_STATUS_IN_TRANSITION 0) F_MODE_STATUS_WAIT_SUPPLY 0) g i j = fget n g i j := fun n =>
    (fget_fset_id _ _ _ _ _ _ _ _ (Ne.symm hwait)).trans (fget_fset_id _ _ _ _ _ _ _ _ (Ne.symm hin))
  simp only [abandonTransition]
  split
  · split
    · exact (hends _).trans (fget_fset_id _ _ _ _ _ _ _ _ (Ne.symm hres))
    · exact hends _
  · rfl

theorem abandonTransition_inTransition {h : Hw} (hin : fon h F_MODE_STATUS_IN_TRANSITION = true) :
    fget (abandonTransition h) F_MODE_STATUS_IN_TRANSITION = 0 := by
  have hends : ∀ n : Hw, fget (fset (fset n F_MODE_STATUS_IN_TRANSITION 0) F_MODE_STATUS_WAIT_SUPPLY 0) F_MODE_STATUS_IN_TRANSITION = 0 := fun n => by
    rw [fget_fset_id _ _ _ _ _ _ _ _ (by decide), fget_fset_same, Nat.zero_mod]
  simp only [abandonTransition, hin, if_true]
  exact hends _

theorem abandonTransition_waitSupply {h : Hw} (hw : fget h F_MODE_STATUS_WAIT_SUPPLY = 0) :
    fget (abandonTransition h) F_MODE_STATUS_WAIT_SUPPLY = 0 := by
  by_cases hin : fon h F_MODE_STATUS_IN_TRANSITION = true
  · simp only [abandonTransition, hin, if_true]
    exact fget_fset_same _ F_MODE_STATUS_WAIT_SUPPLY 0 0 0
  · rw [abandonTransition_of_none (Bool.eq_false_iff.mpr hin), hw]

theorem tryM2_of_not_one {h : Hw} (hm : modeNow h ≠ 1) : tryM2 h = h := by
  simp only [tryM2, beq_eq_false_iff_ne.mpr hm, Bool.false_and, Bool.false_eq_true, if_false]

/-- M1 goes on to M2 where nothing keeps it. -/
theorem tryM2_starts {h : Hw} (hm : modeNow h = 1) (hp : permitted h 2 = true) (hhold : h.mod.serviceHold = false) (hfall : h.mod.m1Fall = false)
    (hwarm : h.mod.warmReset = false) (hfw : h.mod.fwVerified = true) (hin : fon h F_MODE_STATUS_IN_TRANSITION = false) :
    tryM2 h = startTransition h 2 (fget h F_MODE_STATUS_LAST_CAUSE) false := by
  simp only [tryM2, hm, hp, hhold, hfall, hwarm, hfw, hin]
  rfl

theorem startQueued_of_none {h : Hw} (hq : fon h F_MODE_STATUS_QUEUED_VALID = false) : startQueued h = h := by
  simp only [startQueued, hq, Bool.false_eq_true, if_false]

/-- Nothing follows a fall that the present mode survives (R57). -/
theorem fallRule_of_permits {h : Hw} (hb : bit h.sup.voltOk (modeNow h) = true) (m : Mem) : fallRule h m = { hw := h } := by
  simp only [fallRule, hb, Bool.true_or, if_true]

end Sys2Proof.Proofs


/-!
SWITCH_OVER_WAIT_END, and the obligation on the supply inputs.
-/

namespace Sys2Proof.Proofs
open Sys2Proof Sys2Proof.Machine

/-- V_in is averaged on the new input. -/
def averaged (h : Hw) (vin : Nat) : Hw := setVin { h with sup := { h.sup with avgWait := false } } vin

/-- A transition waits no more. -/
def unpaused (h : Hw) : Hw := fset { h with mod := { h.mod with pausedBySwitch := false } } F_MODE_STATUS_WAIT_SUPPLY 0

/-- A transition that waited goes on where its target is permitted. -/
def waitEnded (h : Hw) (vin : Nat) : Hw :=
  let n := averaged h vin
  if (fon n F_MODE_STATUS_WAIT_SUPPLY && !permitted n (fget n F_MODE_STATUS_TARGET)) = true then abandonTransition (unpaused n) else unpaused n

theorem fget_unpaused (h : Hw) {g : Field} (hg : F_MODE_STATUS_WAIT_SUPPLY.id ≠ g.id) (i j : Nat) : fget (unpaused h) g i j = fget h g i j :=
  fget_fset_id _ _ _ _ _ _ _ _ hg

theorem unpaused_waitSupply (h : Hw) : fget (unpaused h) F_MODE_STATUS_WAIT_SUPPLY = 0 := fget_fset_same _ _ _ _ _

theorem waitEnded_sup (h : Hw) (vin : Nat) : (waitEnded h vin).sup = (averaged h vin).sup := by
  simp only [waitEnded]
  split
  · exact abandonTransition_sup _
  · rfl

theorem fget_averaged (h : Hw) (vin : Nat) {g : Field} (hg : F_MODE_STATUS_PERMITTED.id ≠ g.id) (i j : Nat) :
    fget (averaged h vin) g i j = fget h g i j := fget_setVin _ vin hg i j

theorem fget_waitEnded_permitted (h : Hw) (vin : Nat) :
    fget (waitEnded h vin) F_MODE_STATUS_PERMITTED = fget (averaged h vin) F_MODE_STATUS_PERMITTED := by
  simp only [waitEnded]
  split
  · rw [fget_abandonTransition _ (by decide), fget_unpaused _ (by decide)]
  · rw [fget_unpaused _ (by decide)]

theorem fget_waitEnded (h : Hw) (vin : Nat) {g : Field}
    (hg : g.id ∉ [F_MODE_STATUS_PERMITTED.id, F_MODE_REQUEST_RESULT.id, F_MODE_STATUS_IN_TRANSITION.id, F_MODE_STATUS_WAIT_SUPPLY.id]) (i j : Nat) :
    fget (waitEnded h vin) g i j = fget h g i j := by
  rw [List.mem_cons, not_or] at hg
  have hwait : F_MODE_STATUS_WAIT_SUPPLY.id ≠ g.id := fun he => hg.2 (he ▸ by decide)
  rw [← fget_averaged h vin (Ne.symm hg.1)]
  simp only [waitEnded]
  split
  · rw [fget_abandonTransition _ hg.2, fget_unpaused _ hwait]
  · rw [fget_unpaused _ hwait]

theorem waitEnded_waitSupply (h : Hw) (vin : Nat) : fget (waitEnded h vin) F_MODE_STATUS_WAIT_SUPPLY = 0 := by
  simp only [waitEnded]
  split
  · exact abandonTransition_waitSupply (unpaused_waitSupply _)
  · exact unpaused_waitSupply _

/-- A waiting transition goes on exactly where its target is permitted. -/
theorem waitEnded_inTransition {h : Hw} (vin : Nat) (hw : fon h F_MODE_STATUS_WAIT_SUPPLY = true)
    (hin : fon h F_MODE_STATUS_IN_TRANSITION = true) :
    fget (waitEnded h vin) F_MODE_STATUS_IN_TRANSITION = b2n (permitted (waitEnded h vin) (fget h F_MODE_STATUS_TARGET)) := by
  have hperm : permitted (waitEnded h vin) (fget h F_MODE_STATUS_TARGET) = permitted (averaged h vin) (fget (averaged h vin) F_MODE_STATUS_TARGET) := by
    rw [permitted, fget_waitEnded_permitted, fget_averaged h vin (g := F_MODE_STATUS_TARGET) (by decide)]; rfl
  have hwaited : fon (averaged h vin) F_MODE_STATUS_WAIT_SUPPLY = true := (fon_eq_of_fget (fget_averaged h vin (by decide) 0 0)).trans hw
  rw [hperm]
  simp only [waitEnded, hwaited, Bool.true_and]
  cases permitted (averaged h vin) (fget (averaged h vin) F_MODE_STATUS_TARGET) with
  | false =>
    have hran : fon (unpaused (averaged h vin)) F_MODE_STATUS_IN_TRANSITION = true := by
      rw [fon, fget_unpaused _ (by decide), fget_averaged _ _ (by decide)]; exact hin
    exact abandonTransition_inTransition hran
  | true =>
    simp only [Bool.not_true, Bool.false_eq_true, if_false]
    rw [fget_unpaused _ (by decide), fget_averaged _ _ (by decide)]
    exact beq_iff_eq.mp hin

theorem exec_switchOverWaitEnd {s : State} (vin : Nat) (hw : s.hw.sup.avgWait = true) (hto : s.hw.sup.switchTo = none) :
    exec (.switchOverWaitEnd vin) s = .next (s.act fun h m => (fallRule (waitEnded h vin) m).map fun h =>
      if fon h F_MODE_STATUS_IN_TRANSITION = true then h else tryM2 (startQueued h)) := by
  have hends : (!(s.hw.sup.avgWait && s.hw.sup.switchTo.isNone)) = false := by rw [hw, hto]; rfl
  show execSwitchOverWaitEnd vin s = _
  simp only [execSwitchOverWaitEnd, State.act, hends, Bool.false_eq_true, if_false]
  rfl

theorem switchOverWaitEnd_averages (vin : Nat) (s : State) (hw : s.hw.sup.avgWait = true) (hto : s.hw.sup.switchTo = none)
    (hq : fon s.hw F_MODE_STATUS_QUEUED_VALID = false) (h8 : modeNow s.hw < 8) (h1 : modeNow s.hw ≠ 1)
    (hv : (thresholds (modeNow s.hw)).1 ≤ vin) :
    yields (.switchOverWaitEnd vin) s fun t =>
      t.hw.sup.vin = vin ∧ t.hw.sup.avgWait = false ∧ fget t.hw F_MODE_STATUS_WAIT_SUPPLY = 0 ∧
      (fon s.hw F_MODE_STATUS_WAIT_SUPPLY = true → fon s.hw F_MODE_STATUS_IN_TRANSITION = true →
        fget t.hw F_MODE_STATUS_IN_TRANSITION = b2n (permitted t.hw (fget s.hw F_MODE_STATUS_TARGET))) ∧
      sameMemory s t := by
  have hmode : modeNow (waitEnded s.hw vin) = modeNow s.hw := fget_waitEnded s.hw vin (by decide) 0 0
  have hqueue : fon (waitEnded s.hw vin) F_MODE_STATUS_QUEUED_VALID = false := (fon_eq_of_fget (fget_waitEnded s.hw vin (by decide) 0 0)).trans hq
  have hvolt : bit (waitEnded s.hw vin).sup.voltOk (modeNow (waitEnded s.hw vin)) = true := by
    rw [hmode, waitEnded_sup]
    exact (setVin_voltOk_iff _ vin h8).mpr (.inl hv)
  have hstate : (s.act fun h m => (fallRule (waitEnded h vin) m).map fun h =>
      if fon h F_MODE_STATUS_IN_TRANSITION = true then h else tryM2 (startQueued h)) = s.upd fun h => waitEnded h vin := by
    simp only [State.act, fallRule_of_permits hvolt, Eff.map, startQueued_of_none hqueue, tryM2_of_not_one (hmode.trans_ne h1), ite_self]
    rfl
  refine ⟨_, (exec_switchOverWaitEnd vin hw hto).trans (congrArg _ hstate), ?_⟩
  simp only [State.upd_hw, waitEnded_sup]
  exact ⟨setVin_vin _ _, setVin_avgWait _ _, waitEnded_waitSupply _ _, waitEnded_inTransition vin, rfl, rfl⟩

/-- Settles O6: each command's effect on the inputs is read off the state it leaves, and the record and source of a switch-over leave
everything else alone. -/
theorem supplyInputsPinsAndSwitchOver : Obligations.SupplyInputsPinsAndSwitchOver := by
  unfold Obligations.SupplyInputsPinsAndSwitchOver
  exact ⟨inputValid_reads, inputValid_replaces, surge_is_recorded, switchOver_starts, switchOverComplete_selects, switchOverWaitEnd_averages,
    fun _ _ => rfl⟩

end Sys2Proof.Proofs


/-!
SUPPLY_THRESHOLD_RISE, SUPPLY_THRESHOLD_FALL and SUPPLY_RECOVERED.
-/

namespace Sys2Proof.Proofs
open Sys2Proof Sys2Proof.Machine

theorem exec_supplyThresholdRise {s : State} (vin : Nat) (hw : s.hw.sup.avgWait = false) :
    exec (.supplyThresholdRise vin) s = .next (s.upd fun h => tryM2 (setVin h vin)) := by
  show Host.Outcome.next (s.upd _) = _
  simp only [State.upd, hw, Bool.false_eq_true, if_false]

theorem exec_supplyThresholdFall {s : State} (vin : Nat) (hw : s.hw.sup.avgWait = false) :
    exec (.supplyThresholdFall vin) s = .next (s.act fun h m => fallRule (setVin h vin) m) := by
  show Host.Outcome.next (s.act _) = _
  simp only [State.act, hw, Bool.false_eq_true, if_false]

/-- While V_in is averaged, neither threshold has an effect. -/
theorem thresholds_wait (vin : Nat) (s : State) (hw : s.hw.sup.avgWait = true) :
    exec (.supplyThresholdFall vin) s = .next s ∧ exec (.supplyThresholdRise vin) s = .next s := by
  constructor
  · show Host.Outcome.next (s.act _) = _
    simp only [State.act, hw, if_true]
    rfl
  · show Host.Outcome.next (s.upd _) = _
    simp only [State.upd, hw, if_true]

theorem supplyThresholdRise_permits (vin m : Nat) (s : State) (hw : s.hw.sup.avgWait = false) (h1 : modeNow s.hw ≠ 1) (hm : m < 8) :
    yields (.supplyThresholdRise vin) s fun t =>
      t.hw.sup.vin = vin ∧
      (bit t.hw.sup.voltOk m = true ↔ (thresholds m).1 ≤ vin ∨ ((thresholds m).2 ≤ vin ∧ bit s.hw.sup.voltOk m = true)) ∧
      (permitted t.hw m = true ↔
        bit t.hw.sup.voltOk m = true ∧ ((m = 4 ∨ m = 6) → fon s.hw F_TIMING_STATUS_LOCKED = true)) ∧
      onlyRegs s.hw t.hw [F_MODE_STATUS_PERMITTED.key 0 0] ∧ sameMemory s t := by
  refine ⟨_, exec_supplyThresholdRise vin hw, ?_⟩
  simp only [State.upd_hw, tryM2_of_not_one ((modeNow_setVin s.hw vin).trans_ne h1)]
  exact ⟨setVin_vin _ _, setVin_voltOk_iff _ _ hm, permitted_setVin _ _ hm, setVin_onlyRegs _ _, rfl, rfl⟩

/-- From 18.0 V V_in permits M2. -/
theorem permitted_two_setVin (h : Hw) {vin : Nat} (hv : 18000 ≤ vin) : permitted (setVin h vin) 2 = true :=
  (permitted_setVin h vin (by decide)).mpr ⟨(setVin_voltOk_iff h vin (by decide)).mpr (.inl hv), fun h => absurd h (by decide)⟩

theorem supplyThresholdRise_starts (vin : Nat) (s : State) (hw : s.hw.sup.avgWait = false) (h1 : modeNow s.hw = 1) (hv : 18000 ≤ vin)
    (hhold : s.hw.mod.serviceHold = false) (hfall : s.hw.mod.m1Fall = false) (hwarm : s.hw.mod.warmReset = false)
    (hfw : s.hw.mod.fwVerified = true) (hin : fon s.hw F_MODE_STATUS_IN_TRANSITION = false) :
    yields (.supplyThresholdRise vin) s fun t =>
      fget t.hw F_MODE_STATUS_IN_TRANSITION = 1 ∧ fget t.hw F_MODE_STATUS_TARGET = 2 ∧ modeNow t.hw = 1 ∧ sameMemory s t := by
  have hmode : modeNow (setVin s.hw vin) = 1 := (modeNow_setVin _ _).trans h1
  have hstart := tryM2_starts (h := setVin s.hw vin) hmode (permitted_two_setVin s.hw hv)
    (by rw [setVin_mod]; exact hhold) (by rw [setVin_mod]; exact hfall) (by rw [setVin_mod]; exact hwarm) (by rw [setVin_mod]; exact hfw)
    ((fon_setVin s.hw vin (by decide) 0 0).trans hin)
  refine ⟨_, exec_supplyThresholdRise vin hw, ?_⟩
  simp only [State.upd_hw, hstart]
  exact ⟨startTransition_inTransition _ _ _ _, startTransition_target _ (by decide) _ _, (modeNow_startTransition _ _ _ _).trans hmode, rfl, rfl⟩

theorem supplyThresholdFall_survived (vin m : Nat) (s : State) (hw : s.hw.sup.avgWait = false) (hm : m < 8) (h8 : modeNow s.hw < 8)
    (hv : (thresholds (modeNow s.hw)).1 ≤ vin) :
    yields (.supplyThresholdFall vin) s fun t =>
      t.hw.sup.vin = vin ∧
      (bit t.hw.sup.voltOk m = true ↔ (thresholds m).1 ≤ vin ∨ ((thresholds m).2 ≤ vin ∧ bit s.hw.sup.voltOk m = true)) ∧
      onlyRegs s.hw t.hw [F_MODE_STATUS_PERMITTED.key 0 0] ∧ sameMemory s t := by
  have hpermits : bit (setVin s.hw vin).sup.voltOk (modeNow (setVin s.hw vin)) = true := by
    rw [modeNow_setVin]
    exact (setVin_voltOk_iff s.hw vin h8).mpr (.inl hv)
  refine ⟨_, exec_supplyThresholdFall vin hw, ?_⟩
  simp only [sameMemory, State.act_hw, State.act_mem, fallRule_of_permits hpermits]
  exact ⟨setVin_vin _ _, setVin_voltOk_iff _ _ hm, setVin_onlyRegs _ _, rfl, rfl⟩

/-- A fall that the mode does not survive starts a transition to its target, where none runs (R57, R78). -/
theorem fallRule_starts {h : Hw} (hb : bit h.sup.voltOk (modeNow h) = false) (h2 : 2 ≤ modeNow h) (hin : fon h F_MODE_STATUS_IN_TRANSITION = false)
    (ht : fallTarget h ≠ 1) (m : Mem) : fallRule h m = { hw := startTransition h (fallTarget h) 3 false } := by
  have hlow : decide (modeNow h < 2) = false := decide_eq_false (by omega)
  simp only [fallRule, hb, hlow, hin, abandonTransition_of_none hin, beq_eq_false_iff_ne.mpr ht, Bool.or_self, Bool.false_and, Bool.false_eq_true,
    if_false]

/-- From M6 a fall leads to M4 where it stays permitted, and to M3 otherwise. -/
theorem fallTarget_of_six {h : Hw} (h6 : modeNow h = 6) (h3 : bit h.sup.voltOk 3 = true) :
    fallTarget h = if permitted h 4 = true then 4 else 3 := by
  simp only [fallTarget, h6, h3, if_true]

theorem supplyThresholdFall_leaves_six (vin : Nat) (s : State) (hw : s.hw.sup.avgWait = false) (h6 : modeNow s.hw = 6)
    (hin : fon s.hw F_MODE_STATUS_IN_TRANSITION = false) (hb4 : bit s.hw.sup.voltOk 4 = true) (hb3 : bit s.hw.sup.voltOk 3 = true)
    (hlow : vin < 35000) (hhigh : 17000 ≤ vin) :
    yields (.supplyThresholdFall vin) s fun t =>
      fget t.hw F_MODE_STATUS_IN_TRANSITION = 1 ∧ modeNow t.hw = 6 ∧
      fget t.hw F_MODE_STATUS_TARGET = (if 23000 ≤ vin ∧ fon s.hw F_TIMING_STATUS_LOCKED = true then 4 else 3) ∧ sameMemory s t := by
  have hmode : modeNow (setVin s.hw vin) = 6 := (modeNow_setVin _ _).trans h6
  have hran : fon (setVin s.hw vin) F_MODE_STATUS_IN_TRANSITION = false := (fon_setVin s.hw vin (by decide) 0 0).trans hin
  have hsix : bit (setVin s.hw vin).sup.voltOk (modeNow (setVin s.hw vin)) = false := by
    rw [hmode, Bool.eq_false_iff, Ne, setVin_voltOk_iff s.hw vin (by decide)]
    simp only [thresholds]
    omega
  have hthree : bit (setVin s.hw vin).sup.voltOk 3 = true := (setVin_voltOk_iff s.hw vin (by decide)).mpr (.inr ⟨hhigh, hb3⟩)
  have hfour : permitted (setVin s.hw vin) 4 = true ↔ 23000 ≤ vin ∧ fon s.hw F_TIMING_STATUS_LOCKED = true := by
    rw [permitted_setVin s.hw vin (by decide), setVin_voltOk_iff s.hw vin (by decide)]
    simp only [thresholds, hb4, and_true, true_or, forall_true_left]
    exact and_congr_left fun _ => by omega
  have htarget : fallTarget (setVin s.hw vin) = if 23000 ≤ vin ∧ fon s.hw F_TIMING_STATUS_LOCKED = true then 4 else 3 := by
    rw [fallTarget_of_six hmode hthree]
    exact if_congr hfour rfl rfl
  have hsome : fallTarget (setVin s.hw vin) = 4 ∨ fallTarget (setVin s.hw vin) = 3 := by
    rw [htarget]
    exact ite_eq_or_eq _ _ _
  refine ⟨_, exec_supplyThresholdFall vin hw, ?_⟩
  simp only [sameMemory, State.act_hw, State.act_mem, fallRule_starts hsix (by omega) hran (by omega)]
  exact ⟨startTransition_inTransition _ _ _ _, (modeNow_startTransition _ _ _ _).trans hmode,
    (startTransition_target _ (by omega) _ _).trans htarget, rfl, rfl⟩

/-- The wait after a fall to M1 is over. -/
def recovered (h : Hw) (vin : Nat) : Hw := { setVin h vin with mod := { (setVin h vin).mod with m1Fall := false } }

theorem exec_supplyRecovered {s : State} {vin : Nat} (h1 : modeNow s.hw = 1) (hfall : s.hw.mod.m1Fall = true) (hv : 18000 ≤ vin) :
    exec (.supplyRecovered vin) s = .next (s.upd fun h => tryM2 (recovered h vin)) := by
  have hcond : (modeNow s.hw == 1 && s.hw.mod.m1Fall && decide (18000 ≤ vin)) = true := by rw [h1, hfall, decide_eq_true hv]; rfl
  show Host.Outcome.next (s.upd _) = _
  simp only [State.upd, hcond, if_true]
  rfl

theorem supplyRecovered_starts (vin : Nat) (s : State) (h1 : modeNow s.hw = 1) (hfall : s.hw.mod.m1Fall = true) (hv : 18000 ≤ vin)
    (hhold : s.hw.mod.serviceHold = false) (hwarm : s.hw.mod.warmReset = false) (hfw : s.hw.mod.fwVerified = true)
    (hin : fon s.hw F_MODE_STATUS_IN_TRANSITION = false) :
    yields (.supplyRecovered vin) s fun t =>
      t.hw.mod.m1Fall = false ∧ fget t.hw F_MODE_STATUS_IN_TRANSITION = 1 ∧ fget t.hw F_MODE_STATUS_TARGET = 2 ∧ sameMemory s t := by
  have hregs : (recovered s.hw vin).regs = (setVin s.hw vin).regs := rfl
  have hmod : (recovered s.hw vin).mod = { s.hw.mod with m1Fall := false } := by rw [recovered, setVin_mod]
  have hperm : permitted (recovered s.hw vin) 2 = true := by
    rw [permitted, fget_upd_regs hregs]
    exact permitted_two_setVin s.hw hv
  have hstart := tryM2_starts (h := recovered s.hw vin) ((fget_upd_regs hregs _ _ _).trans ((modeNow_setVin _ _).trans h1)) hperm
    (by rw [hmod]; exact hhold) (by rw [hmod]) (by rw [hmod]; exact hwarm) (by rw [hmod]; exact hfw)
    ((fon_upd_regs hregs _ _ _).trans ((fon_setVin s.hw vin (by decide) 0 0).trans hin))
  refine ⟨_, exec_supplyRecovered h1 hfall hv, ?_⟩
  simp only [State.upd_hw, hstart]
  exact ⟨by rw [startTransition_m1Fall, hmod], startTransition_inTransition _ _ _ _, startTransition_target _ (by decide) _ _, rfl, rfl⟩

/-- Settles O8: V_in sets each mode's bit by its two thresholds, and the rules on rise and fall start what those bits and the mode call for. -/
theorem supplyVoltageMovesModes : Obligations.SupplyVoltageMovesModes := by
  unfold Obligations.SupplyVoltageMovesModes
  exact ⟨supplyThresholdRise_permits, supplyThresholdRise_starts, supplyThresholdFall_survived, supplyThresholdFall_leaves_six, thresholds_wait,
    supplyRecovered_starts⟩

end Sys2Proof.Proofs


/-!
What stays of the register table, and the entry to M0.
-/

namespace Sys2Proof.Proofs
open Sys2Proof Sys2Proof.Machine

/-! ### Registers that are kept (R84) -/

/-- A table without the keys that a test turns away reads its default there, and as before elsewhere. -/
theorem tget_filter_keys {α : Type} (d : α) (t : Tab α) (p : Nat → Bool) (k : Nat) :
    tget d (t.filter fun e => p e.1) k = if p k = true then tget d t k else d := by
  induction t with
  | nil => simp [tget]
  | cons e t ih =>
    obtain ⟨j, v⟩ := e
    by_cases hj : p j = true
    · rw [List.filter_cons_of_pos (by exact hj), tget, tget, ih]
      by_cases hk : j = k
      · subst hk; simp [hj]
      · simp only [if_neg hk]
    · rw [List.filter_cons_of_neg (by exact hj), ih, tget]
      by_cases hk : j = k
      · subst hk; simp [hj]
      · simp only [if_neg hk]

/-- What a field's register decides of a key, a table that keeps it reads as before. -/
theorem fget_filter_kept {h h' : Hw} {p : Nat → Bool} (hr : h'.regs = h.regs.filter fun e => p e.1) {g : Field} {i j : Nat}
    (hk : p (g.key i j) = true) : fget h' g i j = fget h g i j := by
  unfold fget
  rw [hr, tget_filter_keys, if_pos hk]

theorem fget_filter_cleared {h h' : Hw} {p : Nat → Bool} (hr : h'.regs = h.regs.filter fun e => p e.1) {g : Field} {i j : Nat}
    (hk : p (g.key i j) = false) : fget h' g i j = g.reset := by
  unfold fget
  rw [hr, tget_filter_keys, hk]
  rfl

/-! ### Power leaves the dies (R71, R73, R74) -/

/-- The key of a register whose window a mode keeps, or of a field that always stays. -/
def keptIn (m : Nat) (k : Nat) : Bool :=
  match keyReg k with
  | some r => windowStays m r || (allFields.any fun f => f.id == k / 2 ^ 32 && keptField f)
  | none => false

theorem fget_showLog (h : Hw) {g : Field} (hg : g.id ∉ [F_BOOT_MEAS_VALUE.id, F_BOOT_STATUS_LOG_COUNT.id]) (i j : Nat) :
    fget (showLog h) g i j = fget h g i j := by
  simp only [List.mem_cons, List.not_mem_nil, or_false, not_or] at hg
  exact (fget_fset_id _ _ _ _ _ _ _ _ (Ne.symm hg.2)).trans
    (foldl_keeps (fun h => fget h g i j) (fun h _ => fget_fset_id h _ _ _ _ _ _ _ (Ne.symm hg.1)) _ h)

theorem fget_strapAddr (h : Hw) {g : Field} (hg : g.id ∉ [F_BLVD_ADDR_SOURCE.id, F_BLVD_ADDR_ADDR.id]) (i j : Nat) :
    fget (strapAddr h) g i j = fget h g i j := by
  simp only [List.mem_cons, List.not_mem_nil, or_false, not_or] at hg
  unfold strapAddr
  split
  · exact (fget_fset_id _ _ _ _ _ _ _ _ (Ne.symm hg.2)).trans (fget_fset_id _ _ _ _ _ _ _ _ (Ne.symm hg.1))
  · exact (fget_fset_id _ _ _ _ _ _ _ _ (Ne.symm hg.2)).trans (fget_fset_id _ _ _ _ _ _ _ _ (Ne.symm hg.1))

/-- The fields that a loss of power writes after it has cleared the others. -/
def powerDownIds : List Nat :=
  [F_HOSTFN_STATUS_PRESENT.id, F_PART_RESET_BUSY.id, F_BOOT_STATUS_LOCKED.id, F_BOOT_MEAS_VALUE.id, F_BOOT_STATUS_LOG_COUNT.id,
   F_BLVD_ADDR_SOURCE.id, F_BLVD_ADDR_ADDR.id, F_BOOT_STATUS_FUSE_SVN.id, F_MODE_STATUS_PERMITTED.id]

theorem fget_fset_out {ids : List Nat} {f g : Field} (hf : f.id ∈ ids) (hg : g.id ∉ ids) (h : Hw) (v i j a b : Nat) :
    fget (fset h f v i j) g a b = fget h g a b := fget_fset_id h f g v i j a b fun he => hg (he ▸ hf)

/-- What is shown once the dies are off. -/
def shownAfter (n : Hw) : Hw :=
  refreshPermitted (fuseFields (strapAddr (showLog (fset (fset n F_PART_RESET_BUSY 0) F_BOOT_STATUS_LOCKED 0))))

theorem fget_shownAfter (n : Hw) {g : Field} (hg : g.id ∉ powerDownIds) (i j : Nat) : fget (shownAfter n) g i j = fget n g i j := by
  have hout : ∀ f : Field, f.id ∈ powerDownIds → f.id ≠ g.id := fun f hf he => hg (he ▸ hf)
  have hsub : ∀ l : List Nat, l ⊆ powerDownIds → g.id ∉ l := fun l hl hm => hg (hl hm)
  rw [shownAfter, fget_refreshPermitted _ (hout F_MODE_STATUS_PERMITTED (by decide)), fuseFields, fget_fset_out (by decide) hg,
    fget_strapAddr _ (hsub _ (by decide)), fget_showLog _ (hsub _ (by decide)), fget_fset_out (by decide) hg, fget_fset_out (by decide) hg]

/-- What writing fields does not touch, the module address does not touch. -/
theorem strapAddr_keeps {β : Type} (p : Hw → β) (hp : ∀ h f v i j, p (fset h f v i j) = p h) (n : Hw) : p (strapAddr n) = p n := by
  unfold strapAddr
  split
  · rw [hp, hp]
  · rw [hp, hp]

/-- Nor does what is shown without power. -/
theorem shownAfter_keeps {β : Type} (p : Hw → β) (hp : ∀ h f v i j, p (fset h f v i j) = p h) (n : Hw) : p (shownAfter n) = p n := by
  have hlog : ∀ x, p (showLog x) = p x := fun x => (hp _ _ _ _ _).trans (foldl_keeps p (fun _ _ => hp _ _ _ _ _) _ x)
  rw [shownAfter, refreshPermitted, hp, fuseFields, hp, strapAddr_keeps p hp, hlog, hp, hp]

/-- The host functions read present. -/
def functionsPresent (h : Hw) : Hw := (List.range 8).foldl (fun h p => fset h F_HOSTFN_STATUS_PRESENT 1 p) h

/-- What remains without power, before its fields are shown. -/
theorem powerDown_zero_eq (h : Hw) : ∃ n : Hw, n.sup = h.sup ∧ n.mod.transCause = h.mod.transCause ∧
    n.regs = h.regs.filter (fun e => keptIn 0 e.1) ∧
    powerDown h 0 = { hw := shownAfter (functionsPresent n), ops := [.scrClear 0 (2 ^ 27), .wipe] } := by
  refine ⟨_, ?_, ?_, ?_, rfl⟩
  · rfl
  · rfl
  · rfl

/-- Power leaves the dies for M0: fields whose register stays read as before, the supply is as it was, and DRAM is gone. -/
theorem powerDown_zero (h : Hw) : (powerDown h 0).hw.sup = h.sup ∧ (powerDown h 0).hw.mod.transCause = h.mod.transCause ∧
    (∀ g : Field, g.id ∉ powerDownIds → ∀ i j, keptIn 0 (g.key i j) = true → fget (powerDown h 0).hw g i j = fget h g i j) ∧
    (powerDown h 0).ops = [.scrClear 0 (2 ^ 27), .wipe] := by
  obtain ⟨n, hsup, hcause, hregs, hdown⟩ := powerDown_zero_eq h
  have hpresent : ∀ {β : Type} (p : Hw → β), (∀ h f v i j, p (fset h f v i j) = p h) → p (functionsPresent n) = p n :=
    fun p hp => foldl_keeps p (fun _ _ => hp _ _ _ _ _) _ n
  rw [hdown]
  refine ⟨?_, ?_, fun g hg i j hk => ?_, rfl⟩
  · exact (shownAfter_keeps Hw.sup (fun _ _ _ _ _ => rfl) _).trans ((hpresent Hw.sup fun _ _ _ _ _ => rfl).trans hsup)
  · exact (shownAfter_keeps (·.mod.transCause) (fun _ _ _ _ _ => rfl) _).trans ((hpresent (·.mod.transCause) fun _ _ _ _ _ => rfl).trans hcause)
  · rw [fget_shownAfter _ hg]
    exact (foldl_keeps (fun h => fget h g i j) (fun _ _ => fget_fset_out (by decide) hg _ _ _ _ _ _) _ n).trans (fget_filter_kept hregs hk)

end Sys2Proof.Proofs


/-!
Power and temperature: the limiter, the junction, the trip and the inlet.
-/

namespace Sys2Proof.Proofs
open Sys2Proof Sys2Proof.Machine

/-! ### The limiter (R53, R54) -/

theorem chooseClock_sup (h : Hw) (lo hi : Nat) : ∃ mhz, (chooseClock h lo hi).sup = { h.sup with coreMhz := mhz } ∧ lo ≤ mhz ∧ (lo ≤ hi → mhz ≤ hi) := by
  have hlt : Config.freeNat h.freeCtr % (hi - lo + 1) < hi - lo + 1 := Nat.mod_lt _ (by omega)
  exact ⟨lo + Config.freeNat h.freeCtr % (hi - lo + 1), rfl, by omega, fun _ => by omega⟩

/-- A sample beyond a limit: the core clock is chosen below what it was, and the engines are limited. -/
def limiterLowers (h : Hw) : Hw :=
  let n := chooseClock h 800 (max 800 (min h.sup.coreMhz (clockTop h)))
  { n with sup := { n.sup with engLimited := true } }

/-- A sample within the limits. -/
def limiterAllows (h : Hw) (above : Bool) : Hw :=
  let n := chooseClock h (if above then min 800 (clockTop h) else min h.sup.coreMhz (clockTop h)) (clockTop h)
  { (takeFree n).2 with sup := { n.sup with engLimited := (above || n.sup.engLimited) && Config.freeBool n.freeCtr } }

theorem exec_limiterSample {p : Nat} {s : State} (hp : powered s.hw = true) : exec (.limiterSample p) s = .next (s.upd fun h =>
    if overLimit (notePower h p) p = true then limiterLowers (notePower h p)
    else limiterAllows (notePower h p) (decide (envNow (notePower h p) < p))) := by
  show execLimiterSample p s = _
  simp only [execLimiterSample, State.upd, hp, Bool.not_true, Bool.false_eq_true, if_false]
  rfl

theorem overLimit_iff (h : Hw) (p : Nat) : overLimit (notePower h p) p = true ↔
    min 1500000 (3667 * h.sup.vin / 100) < p ∨ (envNow h < p ∧ 10000 ≤ h.sup.overFor) ∨
      100000 * envNow h < ((p :: h.sup.samples).take 100000).sum := by
  have hover : 10000 < (notePower h p).sup.overFor ↔ envNow h < p ∧ 10000 ≤ h.sup.overFor := by
    show 10000 < (if envNow h < p then h.sup.overFor + 1 else 0) ↔ _
    split
    · next ha => omega
    · next ha => simp [ha]
  rw [overLimit, Bool.or_eq_true, Bool.or_eq_true, decide_eq_true_iff, decide_eq_true_iff, decide_eq_true_iff, hover, or_assoc]
  rfl

theorem clockTop_bounds {h : Hw} (hlow : 800 ≤ h.sup.thermCap) (hhigh : h.sup.thermCap ≤ 3600) :
    800 ≤ clockTop h ∧ clockTop h ≤ 3600 ∧ (h.sup.hot100 = true → clockTop h = 800) := by
  unfold clockTop
  split
  · next hhot => exact ⟨by omega, by omega, fun _ => rfl⟩
  · next hcool => exact ⟨hlow, hhigh, fun hhot => absurd hhot hcool⟩

theorem limiterSample_keeps_bounds (p : Nat) (s : State) (hp : powered s.hw = true) (hmin : 800 ≤ s.hw.sup.coreMhz) (hmax : s.hw.sup.coreMhz ≤ 3600)
    (hcapmin : 800 ≤ s.hw.sup.thermCap) (hcapmax : s.hw.sup.thermCap ≤ 3600) :
    yields (.limiterSample p) s fun t =>
      800 ≤ t.hw.sup.coreMhz ∧ t.hw.sup.coreMhz ≤ 3600 ∧ (s.hw.sup.hot100 = true → t.hw.sup.coreMhz = 800) ∧
      ((min 1500000 (3667 * s.hw.sup.vin / 100) < p ∨ (envNow s.hw < p ∧ 10000 ≤ s.hw.sup.overFor) ∨
          100000 * envNow s.hw < ((p :: s.hw.sup.samples).take 100000).sum) →
        t.hw.sup.coreMhz ≤ s.hw.sup.coreMhz ∧ t.hw.sup.engLimited = true) ∧
      t.hw.regs = s.hw.regs ∧ sameMemory s t := by
  obtain ⟨htopmin, htopmax, htophot⟩ := clockTop_bounds (h := notePower s.hw p) hcapmin hcapmax
  refine ⟨_, exec_limiterSample hp, ?_⟩
  simp only [State.upd]
  by_cases hover : overLimit (notePower s.hw p) p = true
  · obtain ⟨mhz, hsup, hlo, hhi⟩ := chooseClock_sup (notePower s.hw p) 800 (max 800 (min s.hw.sup.coreMhz (clockTop (notePower s.hw p))))
    have hmhz : (limiterLowers (notePower s.hw p)).sup.coreMhz = mhz := congrArg Supply.coreMhz hsup
    have hhi := hhi (by omega)
    simp only [if_pos hover, hmhz]
    exact ⟨hlo, by omega, fun hhot => by have := htophot hhot; omega, fun _ => ⟨by omega, rfl⟩, rfl, rfl, rfl⟩
  · generalize habove : decide (envNow (notePower s.hw p) < p) = above
    obtain ⟨mhz, hsup, hlo, hhi⟩ := chooseClock_sup (notePower s.hw p)
      (if above then min 800 (clockTop (notePower s.hw p)) else min s.hw.sup.coreMhz (clockTop (notePower s.hw p))) (clockTop (notePower s.hw p))
    have hmhz : (limiterAllows (notePower s.hw p) above).sup.coreMhz = mhz := congrArg Supply.coreMhz hsup
    have hmin : 800 ≤ mhz := by
      refine Nat.le_trans ?_ hlo
      split <;> omega
    have hhi := hhi (by split <;> omega)
    simp only [if_neg hover, hmhz]
    exact ⟨hmin, by omega, fun hhot => by have := htophot hhot; omega, fun hpast => absurd ((overLimit_iff _ _).mpr hpast) hover, rfl, rfl, rfl⟩

/-- P_env, written out. -/
theorem envNow_eq (h : Hw) : envNow h =
    if (match h.sup.selected with | some i => (pinOf h i).surge | none => false) then 1350000 else min 1350000 (33 * h.sup.vin) := by
  unfold envNow
  cases h.sup.selected <;> rfl

/-! ### Records and sources leave the supply as it is -/

theorem logCode_sup (h : Hw) (cls block inst code d0 part flags : Nat) : (logCode h cls block inst code d0 part flags).sup = h.sup := logRec_sup _ _

theorem raiseSource_sup (h : Hw) (i : Nat) : (raiseSource h i).sup = h.sup := by
  obtain ⟨_, _, he⟩ := raiseSource_parts h i
  rw [he]

theorem reachMode_sup (h : Hw) (m : Nat) : (reachMode h m).sup = h.sup := by
  refine (raiseSource_sup _ _).trans ?_
  show (modeReached h m).sup = h.sup
  unfold modeReached
  dsimp only
  split <;> rfl

theorem fon_eq_false_of_zero {h : Hw} {f : Field} {i j : Nat} (hz : fget h f i j = 0) : fon h f i j = false := by
  rw [fon, hz]; rfl

/-! ### Kydin takes the module to M0 (R74) -/

theorem enterMode_zero {h : Hw} (hq : fon h F_MODE_STATUS_QUEUED_VALID = false) (cause : Nat) :
    modeNow (enterMode h 0 cause).hw = 0 ∧ fget (enterMode h 0 cause).hw F_MODE_STATUS_LAST_CAUSE = cause % 256 ∧
    (enterMode h 0 cause).hw.sup = h.sup ∧ (enterMode h 0 cause).ops = [.scrClear 0 (2 ^ 27), .wipe] := by
  generalize hn : ({ abandonTransition h with mod := { (abandonTransition h).mod with transCause := cause, transReq := false } } : Hw) = n
  have hnsup : n.sup = h.sup := by rw [← hn]; exact abandonTransition_sup h
  have hnq : fget n F_MODE_STATUS_QUEUED_VALID = fget h F_MODE_STATUS_QUEUED_VALID := by
    rw [← hn]; exact fget_abandonTransition h (by decide) 0 0
  obtain ⟨hsup, hcause, hkept, hops⟩ := powerDown_zero n
  have hqueue : fon (reachMode (powerDown n 0).hw 0) F_MODE_STATUS_QUEUED_VALID = false := by
    rw [← hq]
    refine fon_eq_of_fget ?_
    rw [reachMode_queuedValid, hkept F_MODE_STATUS_QUEUED_VALID (by decide) 0 0 (by decide +kernel), hnq]
  have hent : enterMode h 0 cause = { hw := reachMode (powerDown n 0).hw 0, ops := (powerDown n 0).ops } := by
    unfold enterMode
    dsimp only
    rw [hn, Eff.map, startQueued_of_none hqueue, ite_self]
  rw [hent]
  refine ⟨reachMode_mode _ (by decide), ?_, ?_, hops⟩
  · rw [reachMode_lastCause, hcause, ← hn]
  · rw [reachMode_sup, hsup, hnsup]

/-- Both changes of memory land even while a power-fail sequence runs. -/
theorem land_lost (s : State) : (s.land [.scrClear 0 (2 ^ 27), .wipe]).dram = [] := by
  unfold State.land landed
  cases s.hw.sup.powerFail <;> rfl

/-! ### The trip (R48, R68) -/

/-- The trip is set, counted and recorded. -/
def tripNoted (h : Hw) : Hw :=
  logCode { h with sup := { h.sup with trip := true }, kyd := { h.kyd with trips := h.kyd.trips + 1 } } 4 blkThermal 0 0xFF04 110

theorem tripNoted_calm (h : Hw) : Calm h (tripNoted h) := (calm_logCode _ _ _ _ _ _ _ _).step (.of_eq rfl rfl rfl)

theorem modeNow_tripNoted (h : Hw) : modeNow (tripNoted h) = modeNow h := (tripNoted_calm h).field F_MODE_STATUS_MODE (by decide) 0 0

theorem tripNoted_sup (h : Hw) : (tripNoted h).sup = { h.sup with trip := true } := logCode_sup _ _ _ _ _ _ _ _

theorem alarmCause_of_trip {h : Hw} (ht : h.sup.trip = true) : alarmCause h = true := by
  simp only [alarmCause, ht, Bool.or_true, Bool.true_or]

theorem thermalTrip_eq (h : Hw) : thermalTrip h =
    if (modeNow h == 0 && h.sup.trip) = true then { hw := h }
    else if (modeNow (tripNoted h) == 0) = true then { hw := tripNoted h } else enterMode (tripNoted h) 0 5 := rfl

theorem thermalTrip_enters {h : Hw} (hm : modeNow h ≠ 0) : thermalTrip h = enterMode (tripNoted h) 0 5 := by
  have hnot : (modeNow h == 0) = false := beq_eq_false_iff_ne.mpr hm
  simp only [thermalTrip_eq, modeNow_tripNoted, hnot, Bool.false_and, Bool.false_eq_true, if_false]

/-- A trip turns the module off (R68). -/
theorem thermalTrip_turns_off {h : Hw} (hm : modeNow h ≠ 0) (hq : fon h F_MODE_STATUS_QUEUED_VALID = false) :
    modeNow (thermalTrip h).hw = 0 ∧ (thermalTrip h).hw.sup.trip = true ∧ fget (thermalTrip h).hw F_MODE_STATUS_LAST_CAUSE = 5 ∧
    (thermalTrip h).ops = [.scrClear 0 (2 ^ 27), .wipe] := by
  have hqueue : fon (tripNoted h) F_MODE_STATUS_QUEUED_VALID = false := (calm_fon (tripNoted_calm h) (by decide) 0 0).trans hq
  obtain ⟨hmode, hcause, hsup, hops⟩ := enterMode_zero hqueue 5
  rw [thermalTrip_enters hm]
  exact ⟨hmode, by rw [hsup, tripNoted_sup], hcause, hops⟩

/-- In M0 the trip is noted, once. -/
theorem thermalTrip_stays {h : Hw} (hm : modeNow h = 0) :
    modeNow (thermalTrip h).hw = 0 ∧ (thermalTrip h).hw.sup.trip = true ∧ (thermalTrip h).ops = [] := by
  by_cases ht : h.sup.trip = true
  · have heq : thermalTrip h = { hw := h } := by rw [thermalTrip_eq, hm, ht]; rfl
    rw [heq]
    exact ⟨hm, ht, rfl⟩
  · have heq : thermalTrip h = { hw := tripNoted h } := by
      rw [thermalTrip_eq, modeNow_tripNoted, Bool.eq_false_iff.mpr ht, hm]; rfl
    rw [heq]
    exact ⟨(modeNow_tripNoted h).trans hm, by rw [tripNoted_sup], rfl⟩

theorem exec_thermalTrip {m : Int} {s : State} (hm : 110000 ≤ m ∨ (105000 ≤ m ∧ modeNow s.hw = 7)) :
    exec (.thermalTrip m) s = .next (s.act fun h _ => thermalTrip (setJunction h m)) := by
  have htrips : (decide (110000 ≤ m) || (decide (105000 ≤ m) && modeNow s.hw == 7)) = true := by
    rw [Bool.or_eq_true, Bool.and_eq_true, decide_eq_true_iff, decide_eq_true_iff, beq_iff_eq]; exact hm
  show execThermalTrip m s = _
  simp only [execThermalTrip, State.act, htrips, if_true]

theorem thermalTrip_enters_M0 (m : Int) (s : State) (hm : 110000 ≤ m ∨ (105000 ≤ m ∧ modeNow s.hw = 7)) (h0 : modeNow s.hw ≠ 0)
    (hq : fon s.hw F_MODE_STATUS_QUEUED_VALID = false) :
    yields (.thermalTrip m) s fun t =>
      modeNow t.hw = 0 ∧ t.hw.sup.trip = true ∧ alarmCause t.hw = true ∧ fget t.hw F_MODE_STATUS_LAST_CAUSE = 5 ∧
      t.mem.dram = [] ∧ t.pending = s.pending := by
  obtain ⟨hmode, htrip, hcause, hops⟩ := thermalTrip_turns_off (h := setJunction s.hw m) h0 hq
  refine ⟨_, exec_thermalTrip hm, hmode, htrip, alarmCause_of_trip htrip, hcause, ?_, rfl⟩
  rw [State.act_mem, hops]
  exact land_lost s

theorem thermalTrip_in_M0 (m : Int) (s : State) (hm : 110000 ≤ m) (h0 : modeNow s.hw = 0) :
    yields (.thermalTrip m) s fun t => modeNow t.hw = 0 ∧ t.hw.sup.trip = true ∧ alarmCause t.hw = true ∧ sameMemory s t := by
  obtain ⟨hmode, htrip, hops⟩ := thermalTrip_stays (h := setJunction s.hw m) h0
  refine ⟨_, exec_thermalTrip (.inl hm), hmode, htrip, alarmCause_of_trip htrip, ?_, rfl⟩
  rw [State.act_mem, hops, State.land_nil]

/-! ### The junction (R68, R94) -/

/-- An action that begins at one threshold and ends below a lower one. -/
def actsAt (high low : Int) (was : Bool) (m : Int) : Bool := if high ≤ m then true else if m < low then false else was

theorem actsAt_iff (high low : Int) (was : Bool) (m : Int) :
    actsAt high low was m = true ↔ high ≤ m ∨ (low ≤ m ∧ was = true) := by
  unfold actsAt
  split
  · next ha => simp [ha]
  · next ha =>
    split
    · next hb => simp only [Bool.false_eq_true, false_iff]; omega
    · next hb => simp only [ha, false_or, Int.not_lt.mp hb, true_and]

/-- The junction is read, and the two actions begin, go on or end. -/
def junctionRead (h : Hw) (m : Int) : Hw :=
  let n := setJunction h m
  { n with sup := { n.sup with throttle := actsAt 95000 93000 h.sup.throttle m, hot100 := actsAt 100000 98000 h.sup.hot100 m } }

/-- The begin of the throttling is recorded. -/
def throttleNoted (begins : Bool) (n : Hw) : Hw :=
  if begins then logCode { n with sup := { n.sup with thermCap := min n.sup.thermCap n.sup.coreMhz } } 4 blkThermal 0 0xFF04 95 else n

def hotClocked (hot : Bool) (n : Hw) : Hw := if hot then { n with sup := { n.sup with coreMhz := 800, thermCap := 800 } } else n

/-- That 100 °C is reached is recorded and reported. -/
def hotNoted (begins : Bool) (n : Hw) : Hw := if begins then raiseSource (logCode n 4 blkThermal 0 0xFF04 100) srcThermal else n

def junctionActed (h : Hw) (m : Int) : Hw :=
  let hot := actsAt 100000 98000 h.sup.hot100 m
  hotNoted (hot && !h.sup.hot100)
    (hotClocked hot (throttleNoted (actsAt 95000 93000 h.sup.throttle m && !h.sup.throttle) (junctionRead h m)))

theorem exec_junctionThreshold (m : Int) (s : State) : exec (.junctionThreshold m) s = .next (s.act fun h _ =>
    if 110000 ≤ m then thermalTrip (junctionActed h m)
    else if (decide (105000 ≤ m) && modeNow (junctionActed h m) != 7) = true then fatal (junctionActed h m) blkThermal 0 0xFF04 105 .junction []
    else { hw := junctionActed h m }) := rfl

theorem throttleNoted_sup (begins : Bool) (n : Hw) : ∃ cap, (throttleNoted begins n).sup = { n.sup with thermCap := cap } := by
  cases begins
  · exact ⟨_, rfl⟩
  · exact ⟨_, logCode_sup _ _ _ _ _ _ _ _⟩

theorem hotClocked_sup (hot : Bool) (n : Hw) :
    ∃ mhz cap, (hotClocked hot n).sup = { n.sup with coreMhz := mhz, thermCap := cap } ∧ (hot = true → mhz = 800) := by
  cases hot
  · exact ⟨_, _, rfl, fun h => absurd h Bool.false_ne_true⟩
  · exact ⟨_, _, rfl, fun _ => rfl⟩

theorem hotNoted_sup (begins : Bool) (n : Hw) : (hotNoted begins n).sup = n.sup := by
  cases begins
  · rfl
  · show (raiseSource (logCode n 4 blkThermal 0 0xFF04 100) srcThermal).sup = n.sup
    rw [raiseSource_sup, logCode_sup]

/-- What a reading leaves of the supply: of the clocks it says only what holds at 100 °C. -/
theorem junctionActed_sup (h : Hw) (m : Int) : ∃ mhz cap, (junctionActed h m).sup =
      { (setJunction h m).sup with throttle := actsAt 95000 93000 h.sup.throttle m, hot100 := actsAt 100000 98000 h.sup.hot100 m,
                                   coreMhz := mhz, thermCap := cap } ∧
    (actsAt 100000 98000 h.sup.hot100 m = true → mhz = 800) := by
  obtain ⟨cap, hthrottle⟩ := throttleNoted_sup (actsAt 95000 93000 h.sup.throttle m && !h.sup.throttle) (junctionRead h m)
  obtain ⟨mhz, cap', hhot, h800⟩ := hotClocked_sup (actsAt 100000 98000 h.sup.hot100 m)
    (throttleNoted (actsAt 95000 93000 h.sup.throttle m && !h.sup.throttle) (junctionRead h m))
  refine ⟨mhz, cap', ?_, h800⟩
  rw [junctionActed, hotNoted_sup, hhot, hthrottle]
  rfl

theorem throttleNoted_calm (begins : Bool) (n : Hw) : Calm n (throttleNoted begins n) := by
  cases begins
  · exact .refl n
  · exact (calm_logCode _ _ _ _ _ _ _ _).step (.of_eq rfl rfl rfl)

theorem hotClocked_calm (hot : Bool) (n : Hw) : Calm n (hotClocked hot n) := by
  cases hot
  · exact .refl n
  · exact .of_eq rfl rfl rfl

theorem hotNoted_calm (begins : Bool) (n : Hw) : Calm n (hotNoted begins n) := by
  cases begins
  · exact .refl n
  · exact (calm_raiseSource (logCode n 4 blkThermal 0 0xFF04 100) srcThermal).step (calm_logCode _ _ _ _ _ _ _ _)

theorem junctionActed_calm (h : Hw) (m : Int) : Calm h (junctionActed h m) :=
  (hotNoted_calm _ _).step ((hotClocked_calm _ _).step ((throttleNoted_calm _ _).step (.of_eq rfl rfl rfl)))

theorem modeNow_junctionActed (h : Hw) (m : Int) : modeNow (junctionActed h m) = modeNow h :=
  (junctionActed_calm h m).field F_MODE_STATUS_MODE (by decide) 0 0

theorem junctionActed_reports {h : Hw} {m : Int} (hot : actsAt 100000 98000 h.sup.hot100 m = true) (was : h.sup.hot100 = false) :
    fget (junctionActed h m) F_INT_SRC_STATE_PENDING 0 srcThermal = 1 := by
  rw [junctionActed]
  rw [was] at hot
  rw [was, hot]
  exact raiseSource_pending _ (i := srcThermal) (by decide)

theorem junctionThreshold_throttles (m : Int) (s : State) (hm : m < 105000) :
    yields (.junctionThreshold m) s fun t =>
      t.hw.sup.junctionMc = m ∧
      (t.hw.sup.throttle = true ↔ 95000 ≤ m ∨ (93000 ≤ m ∧ s.hw.sup.throttle = true)) ∧
      (t.hw.sup.hot100 = true ↔ 100000 ≤ m ∨ (98000 ≤ m ∧ s.hw.sup.hot100 = true)) ∧
      (t.hw.sup.hot100 = true → t.hw.sup.coreMhz = 800) ∧
      (t.hw.sup.hot100 = true → s.hw.sup.hot100 = false → fget t.hw F_INT_SRC_STATE_PENDING 0 srcThermal = 1) ∧
      modeNow t.hw = modeNow s.hw ∧ sameMemory s t := by
  have h110 : ¬ 110000 ≤ m := by omega
  have h105 : decide (105000 ≤ m) = false := decide_eq_false (by omega)
  obtain ⟨mhz, cap, hsup, h800⟩ := junctionActed_sup s.hw m
  refine ⟨_, exec_junctionThreshold m s, ?_⟩
  simp only [State.act, if_neg h110, h105, Bool.false_and, Bool.false_eq_true, if_false, hsup]
  exact ⟨rfl, actsAt_iff _ _ _ _, actsAt_iff _ _ _ _, h800, junctionActed_reports, modeNow_junctionActed _ _, State.land_nil s, rfl⟩

/-- The record of a fatal error that takes no partition down. -/
def fatalRecorded (h : Hw) (block inst code d0 : Nat) (cause : ContainCause) : Hw :=
  logCode h 3 block inst code d0 0 (b2n (stopsAvenue cause) + 2 * b2n (decide (2 ≤ modeNow h) && bit h.sup.voltOk 7))

theorem fatalRecorded_calm (h : Hw) (block inst code d0 : Nat) (cause : ContainCause) : Calm h (fatalRecorded h block inst code d0 cause) :=
  calm_logCode _ _ _ _ _ _ _ _

/-- Such an error, in a mode with power, enters M7 (R94). -/
theorem fatal_enters {h : Hw} (block inst code d0 : Nat) (cause : ContainCause) (h2 : 2 ≤ modeNow h) (h7 : modeNow h ≠ 7)
    (hv : bit h.sup.voltOk 7 = true) (hin : fon h F_MODE_STATUS_IN_TRANSITION = false) : fatal h block inst code d0 cause [] =
      { hw := contained (causeNoted (fatalRecorded h block inst code d0 cause) cause) cause } := by
  have hcalm := fatalRecorded_calm h block inst code d0 cause
  have hmode : modeNow (fatalRecorded h block inst code d0 cause) = modeNow h := hcalm.field F_MODE_STATUS_MODE (by decide) 0 0
  have hsup : (fatalRecorded h block inst code d0 cause).sup = h.sup := logCode_sup _ _ _ _ _ _ _ _
  exact enterContain_enters (h := fatalRecorded h block inst code d0 cause) cause [] (by rw [hmode]; exact h2) (by rw [hmode]; exact h7)
    (by rw [hsup]; exact hv) ((calm_fon hcalm (by decide) 0 0).trans hin)

theorem junctionThreshold_contains (m : Int) (s : State) (h105 : 105000 ≤ m) (h110 : m < 110000) (h2 : 2 ≤ modeNow s.hw) (h7 : modeNow s.hw ≠ 7)
    (hv : bit s.hw.sup.voltOk 7 = true) (hin : fon s.hw F_MODE_STATUS_IN_TRANSITION = false) :
    yields (.junctionThreshold m) s fun t =>
      modeNow t.hw = 7 ∧ fget t.hw F_MODE_STATUS_LAST_CAUSE = 5 ∧ fget t.hw F_AVE_STATUS_RUNNING = fget s.hw F_AVE_STATUS_RUNNING ∧
      sameMemory s t := by
  have hmode := modeNow_junctionActed s.hw m
  have hcalm := junctionActed_calm s.hw m
  obtain ⟨mhz, cap, hsup, -⟩ := junctionActed_sup s.hw m
  have hfatal := fatal_enters (h := junctionActed s.hw m) blkThermal 0 0xFF04 105 .junction (by rw [hmode]; exact h2)
    (by rw [hmode]; exact h7) (by rw [hsup]; exact hv) ((calm_fon hcalm (by decide) 0 0).trans hin)
  have hout : (modeNow (junctionActed s.hw m) != 7) = true := by rw [hmode]; exact bne_iff_ne.mpr h7
  refine ⟨_, exec_junctionThreshold m s, ?_⟩
  simp only [State.act, if_neg (Int.not_le.mpr h110), decide_eq_true h105, hout, Bool.true_and, if_true, hfatal]
  refine ⟨contained_mode _ _, contained_lastCause _ _, ?_, State.land_nil s, rfl⟩
  rw [contained_runs_on _ rfl]
  exact (hcalm.trans (fatalRecorded_calm _ _ _ _ _ _)).field F_AVE_STATUS_RUNNING (by decide) 0 0

theorem junctionThreshold_trips (m : Int) (s : State) (h110 : 110000 ≤ m) (h0 : modeNow s.hw ≠ 0)
    (hq : fon s.hw F_MODE_STATUS_QUEUED_VALID = false) :
    yields (.junctionThreshold m) s fun t => modeNow t.hw = 0 ∧ t.hw.sup.trip = true ∧ t.mem.dram = [] := by
  obtain ⟨hmode, htrip, -, hops⟩ := thermalTrip_turns_off (h := junctionActed s.hw m) (by rw [modeNow_junctionActed]; exact h0)
    ((calm_fon (junctionActed_calm s.hw m) (by decide) 0 0).trans hq)
  refine ⟨_, exec_junctionThreshold m s, ?_⟩
  simp only [State.act, if_pos h110, hops]
  exact ⟨hmode, htrip, land_lost s⟩

/-! ### The inlet (R70) -/

theorem inletWarning_reports (m : Int) (s : State) : changes (.inletWarning m) s fun h =>
    let n := { h with sup := { h.sup with inletWarn := decide (45000 < m) } }
    if 45000 < m ∧ h.sup.inletWarn = false then raiseSource n srcInlet else n := by
  have hcond : (decide (45000 < m) && !s.hw.sup.inletWarn) = true ↔ 45000 < m ∧ s.hw.sup.inletWarn = false := by
    rw [Bool.and_eq_true, decide_eq_true_iff, Bool.not_eq_true']
  show execInletWarning m s = _
  simp only [execInletWarning, State.upd, hcond]

/-- Settles O9: the limiter chooses a clock within its bounds, and each threshold of the junction, the trip and the inlet has its effect. -/
theorem temperatureActs : Obligations.TemperatureActs := by
  unfold Obligations.TemperatureActs
  refine ⟨fun p s hp hmin hmax hcapmin hcapmax => ?_, junctionThreshold_throttles, junctionThreshold_contains, fun _ => rfl,
    thermalTrip_enters_M0, thermalTrip_in_M0, junctionThreshold_trips, inletWarning_reports⟩
  have henv := envNow_eq s.hw
  revert henv
  cases s.hw.sup.selected <;> exact fun henv => henv ▸ limiterSample_keeps_bounds p s hp hmin hmax hcapmin hcapmax

end Sys2Proof.Proofs


/-!
Module resets: what a warm reset keeps, and its end.
-/

namespace Sys2Proof.Proofs
open Sys2Proof Sys2Proof.Machine

/-! ### The register that a key names -/

theorem key_div (f : Field) (i j : Nat) : f.key i j / 2 ^ 32 = f.id := by
  unfold Field.key
  omega

/-- Instance and element do not say which register a field stands in. -/
theorem keyReg_key (f : Field) (i j : Nat) : keyReg (f.key i j) = keyReg (f.key 0 0) := by
  simp only [keyReg, key_div]

/-- A field of one register leaves those of another alone. -/
theorem fget_fset_of_keyReg {f g : Field} {a b : Nat} (hne : keyReg (f.key 0 0) ≠ keyReg (g.key a b)) (h : Hw) (v i j : Nat) :
    fget (fset h f v i j) g a b = fget h g a b :=
  fget_fset_ne _ _ _ _ _ _ _ _ fun hk => hne (by rw [← keyReg_key f i j, hk])

/-! ### The cause of a warm reset (R100) -/

/-- The cause is noted, and the end of a thermal trip. -/
def warmCaused (h : Hw) (cause : WarmCause) : Hw :=
  if tripEnds h then fset (noteCause h cause) F_RESET_CAUSE_THERMAL_TRIP 1 else noteCause h cause

/-- What writing fields does not touch, noting the cause does not touch. -/
theorem warmCaused_keeps {β : Type} (p : Hw → β) (hp : ∀ h f v i j, p (fset h f v i j) = p h) (h : Hw) (cause : WarmCause) :
    p (warmCaused h cause) = p h := by
  have hnote : p (noteCause h cause) = p h := by
    cases cause <;> exact (hp _ _ _ _ _).trans (hp _ _ _ _ _)
  unfold warmCaused
  split
  · rw [hp, hnote]
  · exact hnote

theorem fget_warmCaused (h : Hw) (cause : WarmCause) {g : Field} {a b : Nat} (hg : keyReg (g.key a b) ≠ some R_RESET_CAUSE) :
    fget (warmCaused h cause) g a b = fget h g a b := by
  have hout : ∀ f : Field, keyReg (f.key 0 0) = some R_RESET_CAUSE → ∀ h v i j, fget (fset h f v i j) g a b = fget h g a b :=
    fun f hf => fget_fset_of_keyReg (by rw [hf]; exact hg.symm)
  have hnote : fget (noteCause h cause) g a b = fget h g a b := by
    cases cause <;> exact (hout _ (by decide +kernel) _ _ _ _).trans (hout F_RESET_CAUSE_WARM_COUNT (by decide +kernel) _ _ _ _)
  unfold warmCaused
  split
  · rw [hout _ (by decide +kernel), hnote]
  · exact hnote

/-- The bit of RESET_CAUSE that a cause sets. -/
def causeBit : WarmCause → Field
  | .resetPin => F_RESET_CAUSE_RESET_PIN
  | .kydinCommand => F_RESET_CAUSE_KYDIN_CMD
  | .thermalExit => F_RESET_CAUSE_THERMAL_TRIP

theorem noteCause_eq (h : Hw) (cause : WarmCause) : noteCause h cause = fset (fadd h F_RESET_CAUSE_WARM_COUNT 1) (causeBit cause) 1 := by
  cases cause <;> rfl

theorem warmCaused_count (h : Hw) (cause : WarmCause) :
    fget (warmCaused h cause) F_RESET_CAUSE_WARM_COUNT = min (fget h F_RESET_CAUSE_WARM_COUNT + 1) (2 ^ 16 - 1) := by
  have hbit : (causeBit cause).id ≠ F_RESET_CAUSE_WARM_COUNT.id := by cases cause <;> decide
  have hnote : fget (noteCause h cause) F_RESET_CAUSE_WARM_COUNT = min (fget h F_RESET_CAUSE_WARM_COUNT + 1) (2 ^ 16 - 1) := by
    rw [noteCause_eq, fget_fset_id _ _ _ _ _ _ _ _ hbit, fget_fadd_same]
    rfl
  unfold warmCaused
  split
  · rw [fget_fset_id _ _ _ _ _ _ _ _ (by decide), hnote]
  · exact hnote

theorem warmCaused_bit (h : Hw) (cause : WarmCause) : fget (warmCaused h cause) (causeBit cause) = 1 := by
  have hfits : ∀ n : Hw, fget (fset n (causeBit cause) 1) (causeBit cause) = 1 := fun n => by
    rw [fget_fset_same]
    cases cause <;> decide
  unfold warmCaused
  split
  · by_cases hsame : F_RESET_CAUSE_THERMAL_TRIP.id = (causeBit cause).id
    · obtain rfl : cause = .thermalExit := by
        revert hsame
        cases cause <;> decide
      exact hfits _
    · rw [fget_fset_id _ _ _ _ _ _ _ _ hsame, noteCause_eq, hfits]
  · rw [noteCause_eq, hfits]

/-! ### What a warm reset keeps (R84, R86) -/

/-- The keys that the reset keeps. -/
def keptWarm (k : Nat) : Bool :=
  match keyReg k with
  | some r => r.dom == .aon || (allFields.any fun f => f.id == k / 2 ^ 32 && keptField f)
  | none => false

theorem keptWarm_of_aon {k : Nat} {r : Reg} (hr : keyReg k = some r) (haon : r.dom = .aon) : keptWarm k = true := by
  simp only [keptWarm, hr, haon]
  rfl

/-- The state of which the reset shows the fields that follow from others. -/
def warmShown (n : Hw) : Hw :=
  refreshPermitted (fuseFields (fset (functionsPresent n) F_MODE_STATUS_MODE
    (if (functionsPresent n).sup.trip || !(functionsPresent n).mod.fwVerified then 0 else 1)))

theorem functionsPresent_keeps {β : Type} (p : Hw → β) (hp : ∀ h f v i j, p (fset h f v i j) = p h) (n : Hw) : p (functionsPresent n) = p n :=
  foldl_keeps p (fun _ _ => hp _ _ _ _ _) _ n

theorem warmShown_keeps {β : Type} (p : Hw → β) (hp : ∀ h f v i j, p (fset h f v i j) = p h) (n : Hw) : p (warmShown n) = p n := by
  rw [warmShown, refreshPermitted, hp, fuseFields, hp, hp, functionsPresent_keeps p hp]

/-- The fields that the reset shows. -/
def shownFields : List Field := [F_HOSTFN_STATUS_PRESENT, F_MODE_STATUS_MODE, F_BOOT_STATUS_FUSE_SVN, F_MODE_STATUS_PERMITTED]

theorem shownFields_dom : ∀ f ∈ shownFields, (keyReg (f.key 0 0)).map Reg.dom ≠ some .aon := by decide +kernel

theorem fget_warmShown (n : Hw) {g : Field} {a b : Nat} (hg : ∀ f ∈ shownFields, f.id ≠ g.id) : fget (warmShown n) g a b = fget n g a b := by
  have hout : ∀ f ∈ shownFields, ∀ h v i j, fget (fset h f v i j) g a b = fget h g a b := fun f hf h v i j =>
    fget_fset_id h f g v i j a b (hg f hf)
  rw [warmShown, refreshPermitted, hout _ (by decide), fuseFields, hout _ (by decide), hout _ (by decide)]
  exact foldl_keeps (fun h => fget h g a b) (fun _ _ => hout _ (by decide) _ _ _ _) _ n

theorem warmShown_mode (n : Hw) : modeNow (warmShown n) = if n.sup.trip = true ∨ n.mod.fwVerified = false then 0 else 1 := by
  have hcond : ((functionsPresent n).sup.trip || !(functionsPresent n).mod.fwVerified) = true ↔ n.sup.trip = true ∨ n.mod.fwVerified = false := by
    rw [functionsPresent_keeps Hw.sup (fun _ _ _ _ _ => rfl), functionsPresent_keeps Hw.mod (fun _ _ _ _ _ => rfl), Bool.or_eq_true,
      Bool.not_eq_true']
  rw [modeNow, warmShown, fget_refreshPermitted _ (by decide), fuseFields, fget_fset_id _ _ _ _ _ _ _ _ (by decide), fget_fset_same]
  simp only [hcond]
  split <;> rfl

/-- A warm reset: the parts that go, and the parts that stay. -/
theorem warmReset_eq (h : Hw) (cause : WarmCause) : ∃ n : Hw,
    warmReset h cause = { hw := warmShown n, ops := [.scrClear 0 (2 ^ 27)] } ∧
    n.regs = (warmCaused h cause).regs.filter (fun e => keptWarm e.1) ∧
    n.hom = {} ∧ n.rbt = {} ∧ n.eng = {} ∧ n.ave = {} ∧ n.cor.big = [] ∧ n.mod.warmReset = true ∧
    n.mod.dramRefresh = ((warmCaused h cause).mod.dramRefresh || (warmCaused h cause).mod.dramActive) ∧
    n.mod.fwVerified = (warmCaused h cause).mod.fwVerified ∧ n.sup.trip = ((warmCaused h cause).sup.trip && !tripEnds h) :=
  ⟨_, rfl, rfl, rfl, rfl, rfl, rfl, rfl, rfl, rfl, rfl, rfl⟩

/-- The scratchpads alone are cleared, whether a power-fail sequence runs or not. -/
theorem land_scrClear (s : State) (o n : Nat) :
    (s.land [.scrClear o n]).dram = s.mem.dram ∧ (s.land [.scrClear o n]).poison = s.mem.poison := by
  unfold State.land landed
  cases s.hw.sup.powerFail <;> exact ⟨rfl, rfl⟩

theorem exec_moduleWarmReset {cause : WarmCause} {s : State} (hexit : cause = .thermalExit → tripEnds s.hw = true) :
    exec (.moduleWarmReset cause) s = .next (s.act fun h _ => warmReset h cause) := by
  have hreset : (cause == .thermalExit && !tripEnds s.hw) = false := by
    rw [Bool.and_eq_false_iff, Bool.not_eq_false', beq_eq_false_iff_ne]
    exact (em (cause = .thermalExit)).symm.imp_right hexit
  show execModuleWarmReset cause s = _
  simp only [execModuleWarmReset, State.act, hreset, Bool.false_eq_true, if_false]

theorem tripEnds_iff (h : Hw) : tripEnds h = true ↔ h.sup.trip = true ∧ h.sup.junctionMc < 85000 := by
  rw [tripEnds, Bool.and_eq_true, decide_eq_true_iff]

theorem moduleWarmReset_clears (cause : WarmCause) (s : State) (hexit : cause = .thermalExit → s.hw.sup.trip = true ∧ s.hw.sup.junctionMc < 85000) :
    yields (.moduleWarmReset cause) s fun t =>
      t.hw.mod.warmReset = true ∧ t.hw.hom = {} ∧ t.hw.rbt = {} ∧ t.hw.eng = {} ∧ t.hw.ave = {} ∧ t.hw.cor.big = [] ∧
      t.mem.dram = s.mem.dram ∧ t.mem.poison = s.mem.poison ∧
      t.hw.mod.dramRefresh = (s.hw.mod.dramRefresh || s.hw.mod.dramActive) ∧
      fget t.hw F_MODE_STATUS_IN_TRANSITION = 0 ∧
      fget t.hw F_RESET_CAUSE_WARM_COUNT = min (fget s.hw F_RESET_CAUSE_WARM_COUNT + 1) (2 ^ 16 - 1) ∧
      (cause = .resetPin → fget t.hw F_RESET_CAUSE_RESET_PIN = 1) ∧ (cause = .kydinCommand → fget t.hw F_RESET_CAUSE_KYDIN_CMD = 1) ∧
      (cause = .thermalExit → fget t.hw F_RESET_CAUSE_THERMAL_TRIP = 1 ∧ t.hw.sup.trip = false) ∧
      modeNow t.hw = (if t.hw.sup.trip = true ∨ s.hw.mod.fwVerified = false then 0 else 1) ∧
      (∀ (f : Field) (r : Reg) (i j : Nat), keyReg (f.key i j) = some r → r.dom = .aon → r ≠ R_RESET_CAUSE →
        fget t.hw f i j = fget s.hw f i j) := by
  have hends : cause = .thermalExit → tripEnds s.hw = true := fun hc => (tripEnds_iff _).mpr (hexit hc)
  obtain ⟨n, hreset, hregs, hhom, hrbt, heng, hmatrix, hbig, hwarm, hrefresh, hfw, htrip⟩ := warmReset_eq s.hw cause
  have hsup : (warmCaused s.hw cause).sup = s.hw.sup := warmCaused_keeps Hw.sup (fun _ _ _ _ _ => rfl) _ _
  have hmod : (warmCaused s.hw cause).mod = s.hw.mod := warmCaused_keeps Hw.mod (fun _ _ _ _ _ => rfl) _ _
  have hshown : ∀ {β : Type} (p : Hw → β), (∀ h f v i j, p (fset h f v i j) = p h) → p (warmShown n) = p n := fun p hp => warmShown_keeps p hp n
  have hmods : (warmShown n).mod = n.mod := hshown Hw.mod fun _ _ _ _ _ => rfl
  have hsups : (warmShown n).sup = n.sup := hshown Hw.sup fun _ _ _ _ _ => rfl
  have hbit : fget (warmShown n) (causeBit cause) = 1 := by
    rw [fget_warmShown _ (by cases cause <;> decide), fget_filter_kept hregs (by cases cause <;> decide +kernel), warmCaused_bit]
  obtain ⟨hdram, hpoison⟩ := land_scrClear s 0 (2 ^ 27)
  refine ⟨_, exec_moduleWarmReset hends, ?_⟩
  simp only [State.act, hreset]
  refine ⟨by rw [hmods, hwarm], (hshown Hw.hom fun _ _ _ _ _ => rfl).trans hhom, (hshown Hw.rbt fun _ _ _ _ _ => rfl).trans hrbt,
    (hshown Hw.eng fun _ _ _ _ _ => rfl).trans heng, (hshown Hw.ave fun _ _ _ _ _ => rfl).trans hmatrix,
    (hshown (·.cor.big) fun _ _ _ _ _ => rfl).trans hbig, hdram, hpoison, by rw [hmods, hrefresh, hmod], ?_, ?_, ?_, ?_, ?_, ?_, ?_⟩
  · rw [fget_warmShown _ (by decide), fget_filter_cleared hregs (by decide +kernel)]
    rfl
  · rw [fget_warmShown _ (by decide), fget_filter_kept hregs (by decide +kernel), warmCaused_count]
  · rintro rfl; exact hbit
  · rintro rfl; exact hbit
  · rintro rfl
    exact ⟨hbit, by rw [hsups, htrip, hends rfl, Bool.not_true, Bool.and_false]⟩
  · rw [warmShown_mode, hsups, hfw, hmod]
  · intro f r i j hr haon hnot
    have hother : ∀ g ∈ shownFields, g.id ≠ f.id := fun g hg he => by
      have hsame : keyReg (g.key 0 0) = some r := by rw [← hr]; simp only [keyReg, key_div, he]
      exact shownFields_dom g hg (by rw [hsame, Option.map_some, haon])
    rw [fget_warmShown n hother, fget_filter_kept hregs (keptWarm_of_aon hr haon), fget_warmCaused _ _ fun he => hnot ?_]
    exact Option.some.inj (hr.symm.trans he)

/-! ### A pulse on RESET_N (R85) -/

theorem resetNPulse_short (n : Nat) (s : State) (hn : n < 80) : exec (.resetNPulse n) s = .next s := by
  show execResetNPulse n s = _
  simp only [execResetNPulse, State.act, if_pos hn, State.land_nil]

theorem exec_resetPin (s : State) : exec (.moduleWarmReset .resetPin) s = .next (s.act fun h _ => warmReset h .resetPin) :=
  exec_moduleWarmReset nofun

theorem resetNPulse_long (n : Nat) (s : State) (hn : 160 ≤ n) : exec (.resetNPulse n) s = exec (.moduleWarmReset .resetPin) s := by
  rw [exec_resetPin]
  show execResetNPulse n s = _
  simp only [execResetNPulse, State.act, if_neg (show ¬ n < 80 by omega), if_pos hn]

/-- Between 80 and 160 ns the hardware decides. -/
theorem resetNPulse_open (n : Nat) (s : State) (h80 : 80 ≤ n) (h160 : n < 160) :
    let u : State := { s with hw := { s.hw with freeCtr := s.hw.freeCtr + 1 } }
    exec (.resetNPulse n) s = .next u ∨ exec (.resetNPulse n) s = exec (.moduleWarmReset .resetPin) u := by
  intro u
  rw [exec_resetPin]
  show execResetNPulse n s = _ ∨ execResetNPulse n s = _
  simp only [execResetNPulse, State.act, if_neg (show ¬ n < 80 by omega), if_neg (show ¬ 160 ≤ n by omega)]
  by_cases hfree : Config.freeBool (takeFree s.hw).1 = true
  · exact .inr (by simp only [hfree, if_true]; rfl)
  · refine .inl ?_
    simp only [hfree, Bool.false_eq_true, if_false]
    rfl

/-! ### The end of a warm reset (R39, R92, R550) -/

/-- The reset is over: its records are flushed, and the straps are sampled. -/
def warmEnded (h : Hw) (modId : BitVec 12) (bootSel : Bool) : Hw :=
  sampleStraps (flushLog { h with mod := { h.mod with warmReset := false } }) modId bootSel

/-- The module enters M1 and goes on (R92). -/
def warmGoesOn (n : Hw) : Hw := tryM2 (reachMode { n with mod := { n.mod with transCause := 6 } } 1)

theorem exec_warmResetEnd {modId : BitVec 12} {bootSel : Bool} {s : State} (hw : s.hw.mod.warmReset = true) :
    exec (.warmResetEnd modId bootSel) s = .next (s.upd fun h =>
      let n := warmEnded h modId bootSel
      if n.sup.trip || !n.mod.fwVerified then n else warmGoesOn n) := by
  show execWarmResetEnd modId bootSel s = _
  simp only [execWarmResetEnd, State.upd, hw, Bool.not_true, Bool.false_eq_true, if_false]
  rfl

theorem warmEnded_sup (h : Hw) (modId : BitVec 12) (bootSel : Bool) : (warmEnded h modId bootSel).sup = { h.sup with modId := modId, bootSel := bootSel } :=
  strapAddr_keeps Hw.sup (fun _ _ _ _ _ => rfl) _

theorem warmEnded_mod (h : Hw) (modId : BitVec 12) (bootSel : Bool) : (warmEnded h modId bootSel).mod = { h.mod with warmReset := false } :=
  strapAddr_keeps Hw.mod (fun _ _ _ _ _ => rfl) _

theorem fget_warmEnded (h : Hw) (modId : BitVec 12) (bootSel : Bool) {g : Field}
    (hg : g.id ∉ [F_BLVD_ADDR_SOURCE.id, F_BLVD_ADDR_ADDR.id, F_BOOT_STATUS_STRAP.id]) (i j : Nat) :
    fget (warmEnded h modId bootSel) g i j = fget (fset h F_KYD_ELOG_SEQ_FLUSHED (fget h F_KYD_ELOG_SEQ_NEXT)) g i j := by
  simp only [List.mem_cons, List.not_mem_nil, or_false, not_or] at hg
  obtain ⟨hsource, haddr, hstrap⟩ := hg
  rw [warmEnded, sampleStraps, fget_strapAddr _ (by simp [hsource, haddr]), fget_fset_id _ _ _ _ _ _ _ _ (Ne.symm hstrap)]
  rfl

/-- Going on to M2 starts a transition, and no more. -/
theorem fget_tryM2 (h : Hw) {g : Field} (hg : g.id ∉ startIds) (i j : Nat) : fget (tryM2 h) g i j = fget h g i j := by
  unfold tryM2
  split
  · exact fget_startTransition _ _ _ _ hg _ _
  · rfl

theorem startTransition_warmReset (h : Hw) (target cause : Nat) (req : Bool) :
    (startTransition h target cause req).mod.warmReset = h.mod.warmReset := by
  rw [startTransition_eq]
  split <;> rfl

theorem tryM2_sup (h : Hw) : (tryM2 h).sup = h.sup := by
  unfold tryM2
  split
  · exact startTransition_sup _ _ _ _
  · rfl

theorem tryM2_warmReset (h : Hw) : (tryM2 h).mod.warmReset = h.mod.warmReset := by
  unfold tryM2
  split
  · exact startTransition_warmReset _ _ _ _
  · rfl

theorem reachMode_warmReset (h : Hw) (m : Nat) : (reachMode h m).mod.warmReset = h.mod.warmReset := by
  unfold reachMode
  rw [raiseSource_mod]
  show (modeReached h m).mod.warmReset = _
  unfold modeReached
  dsimp only
  split <;> rfl

theorem warmGoesOn_sup (n : Hw) : (warmGoesOn n).sup = n.sup := by rw [warmGoesOn, tryM2_sup, reachMode_sup]

theorem warmGoesOn_warmReset (n : Hw) : (warmGoesOn n).mod.warmReset = n.mod.warmReset := by rw [warmGoesOn, tryM2_warmReset, reachMode_warmReset]

theorem warmGoesOn_mode (n : Hw) : modeNow (warmGoesOn n) = 1 := by
  rw [modeNow, warmGoesOn, fget_tryM2 _ (by decide)]
  exact reachMode_mode _ (by decide)

theorem warmGoesOn_lastCause (n : Hw) : fget (warmGoesOn n) F_MODE_STATUS_LAST_CAUSE = 6 := by
  rw [warmGoesOn, fget_tryM2 _ (by decide), reachMode_lastCause]
  rfl

theorem warmGoesOn_flushed (n : Hw) : fget (warmGoesOn n) F_KYD_ELOG_SEQ_FLUSHED = fget n F_KYD_ELOG_SEQ_FLUSHED := by
  rw [warmGoesOn, fget_tryM2 _ (by decide), fget_reachMode _ _ (by decide)]
  unfold modeReached
  dsimp only
  split <;> simp (disch := decide) only [fget_fset_id] <;> rfl

theorem warmResetEnd_goes_on (modId : BitVec 12) (bootSel : Bool) (s : State) (hw : s.hw.mod.warmReset = true) :
    yields (.warmResetEnd modId bootSel) s fun t =>
      t.hw.mod.warmReset = false ∧ t.hw.sup.modId = modId ∧ t.hw.sup.bootSel = bootSel ∧
      fget t.hw F_KYD_ELOG_SEQ_FLUSHED = fget s.hw F_KYD_ELOG_SEQ_NEXT % 2 ^ F_KYD_ELOG_SEQ_FLUSHED.width ∧
      (s.hw.sup.trip = false → s.hw.mod.fwVerified = true → modeNow t.hw = 1 ∧ fget t.hw F_MODE_STATUS_LAST_CAUSE = 6) ∧
      ((s.hw.sup.trip = true ∨ s.hw.mod.fwVerified = false) → modeNow t.hw = modeNow s.hw) ∧ sameMemory s t := by
  have hsup := warmEnded_sup s.hw modId bootSel
  have hmod := warmEnded_mod s.hw modId bootSel
  have hflushed : fget (warmEnded s.hw modId bootSel) F_KYD_ELOG_SEQ_FLUSHED = fget s.hw F_KYD_ELOG_SEQ_NEXT % 2 ^ F_KYD_ELOG_SEQ_FLUSHED.width := by
    rw [fget_warmEnded _ _ _ (by decide), fget_fset_same]
  have hmode : modeNow (warmEnded s.hw modId bootSel) = modeNow s.hw := by
    rw [modeNow, fget_warmEnded _ _ _ (by decide), fget_fset_id _ _ _ _ _ _ _ _ (by decide)]; rfl
  refine ⟨_, exec_warmResetEnd hw, ?_⟩
  simp only [State.upd]
  generalize warmEnded s.hw modId bootSel = n at hsup hmod hflushed hmode ⊢
  by_cases hstays : s.hw.sup.trip = true ∨ s.hw.mod.fwVerified = false
  · have hcond : (n.sup.trip || !n.mod.fwVerified) = true := by rw [Bool.or_eq_true, Bool.not_eq_true', hsup, hmod]; exact hstays
    simp only [hcond, if_true]
    refine ⟨by rw [hmod], by rw [hsup], by rw [hsup], hflushed, fun htrip hfw => ?_, fun _ => hmode, rfl, rfl⟩
    rw [htrip, hfw] at hstays
    exact absurd hstays (by decide)
  · have hcond : ¬ (n.sup.trip || !n.mod.fwVerified) = true := by rw [Bool.or_eq_true, Bool.not_eq_true', hsup, hmod]; exact hstays
    simp only [if_neg hcond]
    exact ⟨by rw [warmGoesOn_warmReset, hmod], by rw [warmGoesOn_sup, hsup], by rw [warmGoesOn_sup, hsup], by rw [warmGoesOn_flushed, hflushed],
      fun _ _ => ⟨warmGoesOn_mode n, warmGoesOn_lastCause n⟩, fun hkeeps => absurd hkeeps hstays, rfl, rfl⟩

/-- Settles O12: a warm reset keeps exactly what its domains keep, a pulse on RESET_N is one by its length, and its end enters M1. -/
theorem moduleResetsKeepWhatTheyMust : Obligations.ModuleResetsKeepWhatTheyMust := by
  unfold Obligations.ModuleResetsKeepWhatTheyMust
  exact ⟨moduleWarmReset_clears, resetNPulse_short, resetNPulse_long, resetNPulse_open, warmResetEnd_goes_on⟩

end Sys2Proof.Proofs


/-!
What framing, searching and storing words leave of a lane: its superframe and history, its STATE and its BLOCK_ERR.
-/

namespace Sys2Proof.Proofs
open Sys2Proof Sys2Proof.Machine

/-- The superframe and history of a lane, its STATE and its BLOCK_ERR. -/
def laneView (g k : Nat) (h : Hw) : List (BitVec 64) × BitVec 58 × Nat × Nat :=
  ((laneOf h g k).sf, (laneOf h g k).hist, laneState h g k, fget h F_LANE_ERR_BLOCK_ERR g k)

/-- The fields of the view. -/
def viewIds : List Nat := [F_LANE_STATUS_STATE.id, F_LANE_ERR_BLOCK_ERR.id]

/-! ### The operations that the framer uses -/

theorem laneView_of_eq {g k : Nat} {h h' : Hw} (hl : (laneOf h' g k) = laneOf h g k)
    (hf : ∀ f : Field, f.id ∈ viewIds → fget h' f g k = fget h f g k) : laneView g k h' = laneView g k h := by
  rw [laneView, laneView, laneState, laneState, hl, hf F_LANE_STATUS_STATE (by decide), hf F_LANE_ERR_BLOCK_ERR (by decide)]

theorem laneView_fset (g k : Nat) (h : Hw) {f : Field} (hf : f.id ∉ viewIds) (v i j : Nat) : laneView g k (fset h f v i j) = laneView g k h :=
  laneView_of_eq rfl fun _ hf' => fget_fset_id _ _ _ _ _ _ _ _ fun he => hf (he ▸ hf')

theorem laneView_fadd (g k : Nat) (h : Hw) {f : Field} (hf : f.id ∉ viewIds) (n i j : Nat) : laneView g k (fadd h f n i j) = laneView g k h :=
  laneView_fset g k h hf _ i j

theorem laneView_setGate (g k : Nat) (h : Hw) (lg : Nat) (v : Gate) : laneView g k (setGate h lg v) = laneView g k h := rfl

/-- A lane that keeps its superframe and history. -/
theorem laneView_setLane (g k : Nat) (h : Hw) {l : Lane} (hsf : l.sf = (laneOf h g k).sf) (hhist : l.hist = (laneOf h g k).hist) :
    laneView g k (setLane h g k l) = laneView g k h := by
  rw [laneView, laneView, laneOf_setLane, hsf, hhist]
  rfl

theorem laneView_raiseSource (g k : Nat) (h : Hw) (i : Nat) : laneView g k (raiseSource h i) = laneView g k h := by
  unfold raiseSource
  split
  · rfl
  · rw [laneView_fset g k _ (by decide), laneView_fadd g k _ (by decide)]
    split <;> rfl

theorem laneView_recordMarked (g k : Nat) (h : Hw) (lg n : Nat) : laneView g k (recordMarked h lg n) = laneView g k h := by
  unfold recordMarked logReg logRec
  split
  · rfl
  · exact laneView_fset g k _ (by decide) _ _ _

theorem laneOf_recordMarked (g k : Nat) (h : Hw) (lg n : Nat) : laneOf (recordMarked h lg n) g k = laneOf h g k := by
  unfold recordMarked logReg logRec
  split <;> rfl

theorem laneView_pmuAdd (g k : Nat) (h : Hw) (i n m : Nat) : laneView g k (pmuAdd pmuGate h i n m) = laneView g k h := by
  unfold pmuAdd
  dsimp only
  split
  · rw [laneView_fset g k _ (by decide), laneView_fset g k _ (by decide)]
  · exact laneView_fset g k _ (by decide) _ _ _

theorem laneView_pmu (g k : Nat) (h : Hw) (i code n : Nat) (part : Option Nat) : laneView g k (pmu pmuGate h i code n part) = laneView g k h := by
  unfold pmu
  split
  · rfl
  · refine foldl_keeps (laneView g k) (fun h n => ?_) _ h
    split
    · exact laneView_pmuAdd _ _ _ _ _ _
    · rfl

/-! ### The holding buffer (R168 to R170) -/

theorem laneView_setUsed (g k : Nat) (h : Hw) (lg : Nat) : laneView g k (setUsed h lg) = laneView g k h := by
  have hused : laneView g k (fset h F_GATE_HB_STATUS_USED (gateOf h lg).hb.length lg) = laneView g k h := laneView_fset g k h (by decide) _ _ _
  unfold setUsed
  dsimp only
  split
  · rw [laneView_fset g k _ (by decide), hused]
  · exact hused

theorem laneView_purgeGate (g k : Nat) (h : Hw) (lg : Nat) : laneView g k (purgeGate h lg) = laneView g k h := by
  unfold purgeGate
  dsimp only
  rw [laneView_setUsed, laneView_setGate]

theorem laneView_storeSf (g k : Nat) (h : Hw) (lg ln : Nat) (kept : List KWord) : laneView g k (storeSf h lg ln kept) = laneView g k h := by
  rw [← laneView_purgeGate g k h lg]
  unfold storeSf
  generalize purgeGate h lg = n
  dsimp only
  split
  · rfl
  · split
    · split
      · rw [laneView_raiseSource, laneView_pmu, laneView_setUsed, laneView_setGate]
      · rw [laneView_pmu, laneView_setUsed, laneView_setGate]
    · split
      · rw [laneView_setGate, laneView_fadd g k _ (by decide)]
      · rw [laneView_raiseSource, laneView_setGate, laneView_fadd g k _ (by decide)]

/-! ### Words and headers (R149 to R154) -/

theorem laneView_endHeader (g k : Nat) (h : Hw) : laneView g k (endHeader h g k) = laneView g k h := by
  have hmark : ∀ n : Hw, laneView g k (recordMarked (fadd n F_LANE_ERR_HDR_ERR 1 g k) g k) = laneView g k n := fun n => by
    rw [laneView_recordMarked, laneView_fadd g k _ (by decide)]
  unfold endHeader
  dsimp only
  split
  · rfl
  · next d hd =>
    have hgone : laneView g k (setLane h g k { laneOf h g k with hdr := none }) = laneView g k h := laneView_setLane g k h rfl rfl
    split
    · exact hgone
    · split
      · exact hgone
      · next lg hlg =>
        rw [← hgone]
        generalize setLane h g k { laneOf h g k with hdr := none } = n
        split
        · split
          · have hlane : ∀ n : Hw, laneOf (recordMarked n g k) g k = laneOf n g k := fun n => laneOf_recordMarked g k n g k
            refine (laneView_setLane g k _ (by rw [hlane]) (by rw [hlane])).trans ?_
            rw [hmark, laneView_setGate]
          · split
            · rw [laneView_setGate, hmark, laneView_setGate]
            · rw [laneView_fadd g k _ (by decide), laneView_setGate]
        · exact laneView_setGate g k n _ _

/-! The ways of a word through the framer, as `frameWord` composes them. -/

/-- Words of the crossing in force are missing. -/
def wordsMissing (h : Hw) (g k : Nat) : Bool := match (laneOf h g k).hdr with | some d => d.remaining != 0 | none => false

/-- A header ends the crossing in force, which counts where words of it are missing. -/
def headerEnds (h : Hw) (g k : Nat) : Hw := endHeader (if wordsMissing h g k then fadd h F_LANE_ERR_HDR_ERR 1 g k else h) g k

/-- A header whose crossing misses the expected one by more than XTOL is counted. -/
def headerSlips (h : Hw) (g k lg c : Nat) : Hw :=
  if fget h F_GATE_CONFIG_XTOL lg < slip h g k c then raiseSource (fadd h F_LANE_ERR_STAMP_SLIP 1 g k) (srcGate lg 0) else h

/-- A word is kept under a stamp. -/
def keepWord (h : Hw) (g k : Nat) (w : BitVec 36) (s : Stamp) : Hw :=
  setLane h g k { laneOf h g k with kept := (laneOf h g k).kept ++ [{ word := w, stamp := s }] }

/-- A header is in force: its words are late, or are kept from now on. -/
def headerTaken (h : Hw) (g k lg : Nat) (w : BitVec 36) (s : Stamp) : Hw × Option (BitVec 36 × Stamp) :=
  let late := isFinal h s
  let h := setLane h g k { laneOf h g k with hdr := some { stamp := s, remaining := bits w.toNat 15 8, late := late } }
  if late then (fadd h F_LANE_ERR_HDR_ERR 1 g k, some (w, s))
  else
    let v := gateOf h lg
    (keepWord (setGate h lg { v with hdrs := v.hdrs ++ [{ lane := laneNo g k lg, stamp := s, fe := bits w.toNat 7 0, poison := w.getLsbD 33 }] }) g k w s,
      some (w, s))

/-- The stamp of a header's crossing (R152). -/
def headerStamp (h : Hw) (c : Nat) : Stamp :=
  { turn := if (stampNow h).crossing < c then ((stampNow h).turn + 2 ^ 32 - 1) % 2 ^ 32 else (stampNow h).turn, crossing := c }

def headerWord (h : Hw) (g k lg : Nat) (w : BitVec 36) : Hw × Option (BitVec 36 × Stamp) :=
  let h := headerEnds h g k
  let c := bits w.toNat 31 16
  if !fon h F_TIMING_STATUS_LOCKED || perTurn h ≤ c then (fadd h F_LANE_ERR_HDR_ERR 1 g k, none)
  else headerTaken (headerSlips h g k lg c) g k lg w (headerStamp h c)

/-- The last word of a crossing that says PAIR is marked. -/
def pairMarked (h : Hw) (g k : Nat) (last : Bool) : Hw := if last then recordMarked (fadd h F_LANE_ERR_HDR_ERR 1 g k) g k else h

def payloadWord (h : Hw) (g k : Nat) (w : BitVec 36) : Hw × Option (BitVec 36 × Stamp) :=
  match (laneOf h g k).hdr with
  | none => (fadd h F_LANE_ERR_HDR_ERR 1 g k, none)
  | some d =>
    if d.remaining == 0 then (fadd h F_LANE_ERR_HDR_ERR 1 g k, none)
    else
      let last := d.remaining == 1 && w.getLsbD 35
      let h := pairMarked h g k last
      let w' := if last then w ||| (1#36 <<< 33) else w
      let h := setLane h g k { laneOf h g k with hdr := some { d with remaining := d.remaining - 1, pair := w'.getLsbD 35 } }
      (if d.late then h else keepWord h g k w' d.stamp, some (w', d.stamp))

theorem frameWord_eq (h : Hw) (g k lg : Nat) (w : BitVec 36) : frameWord h g k lg w =
    let n := pmu pmuGate h lg 1 1 (ownerGate h lg)
    if w.getLsbD 32 then (pmu pmuGate n lg 2 1 (ownerGate h lg), none)
    else if w.getLsbD 34 then headerWord n g k lg w else payloadWord n g k w := rfl

section
variable (g k : Nat) (h : Hw)

theorem laneView_hdrErr : laneView g k (fadd h F_LANE_ERR_HDR_ERR 1 g k) = laneView g k h := laneView_fadd g k h (by decide) _ _ _

theorem laneView_keepWord (w : BitVec 36) (s : Stamp) : laneView g k (keepWord h g k w s) = laneView g k h := laneView_setLane g k h rfl rfl

theorem laneView_setHdr (x : Option Header) : laneView g k (setLane h g k { laneOf h g k with hdr := x }) = laneView g k h :=
  laneView_setLane g k h rfl rfl

theorem laneView_headerEnds : laneView g k (headerEnds h g k) = laneView g k h := by
  unfold headerEnds
  rw [laneView_endHeader]
  split
  · exact laneView_hdrErr _ _ _
  · rfl

theorem laneView_headerSlips (lg c : Nat) : laneView g k (headerSlips h g k lg c) = laneView g k h := by
  unfold headerSlips
  split
  · rw [laneView_raiseSource, laneView_fadd g k _ (by decide)]
  · rfl

theorem laneView_headerTaken (lg : Nat) (w : BitVec 36) (s : Stamp) : laneView g k (headerTaken h g k lg w s).1 = laneView g k h := by
  unfold headerTaken
  dsimp only
  split
  · rw [laneView_hdrErr, laneView_setHdr]
  · rw [laneView_keepWord, laneView_setGate, laneView_setHdr]

theorem laneView_headerWord (lg : Nat) (w : BitVec 36) : laneView g k (headerWord h g k lg w).1 = laneView g k h := by
  rw [← laneView_headerEnds g k h]
  unfold headerWord
  generalize headerEnds h g k = n
  dsimp only
  split
  · exact laneView_hdrErr _ _ _
  · rw [laneView_headerTaken, laneView_headerSlips]

theorem laneView_pairMarked (last : Bool) : laneView g k (pairMarked h g k last) = laneView g k h := by
  unfold pairMarked
  split
  · rw [laneView_recordMarked, laneView_hdrErr]
  · rfl

theorem laneView_payloadWord (w : BitVec 36) : laneView g k (payloadWord h g k w).1 = laneView g k h := by
  unfold payloadWord
  split
  · exact laneView_hdrErr _ _ _
  · next d hd =>
    split
    · exact laneView_hdrErr _ _ _
    · dsimp only
      generalize hn : pairMarked h g k (d.remaining == 1 && w.getLsbD 35) = n
      have hset : ∀ x, laneView g k (setLane n g k { laneOf n g k with hdr := x }) = laneView g k h := fun x => by
        rw [laneView_setHdr, ← hn, laneView_pairMarked]
      split
      · exact hset _
      · rw [laneView_keepWord, hset]

theorem laneView_frameWord (lg : Nat) (w : BitVec 36) : laneView g k (frameWord h g k lg w).1 = laneView g k h := by
  rw [frameWord_eq, ← laneView_pmu g k h lg 1 1 (ownerGate h lg)]
  generalize pmu pmuGate h lg 1 1 (ownerGate h lg) = n
  dsimp only
  split
  · exact laneView_pmu _ _ _ _ _ _ _
  · split
    · exact laneView_headerWord _ _ _ _ _
    · exact laneView_payloadWord _ _ _ _

end

theorem laneView_frameWords (g k lg : Nat) (ws : List (BitVec 36)) (h : Hw) : laneView g k (frameWords h g k lg ws).1 = laneView g k h := by
  induction ws generalizing h with
  | nil => rfl
  | cons w ws ih => exact (ih _).trans (laneView_frameWord g k h lg w)

theorem laneView_overrunWords (g k lg : Nat) (sf : List (BitVec 64)) (is : List Nat) (h : Hw) :
    laneView g k (overrunWords h lg sf is).1 = laneView g k h := by
  induction is generalizing h with
  | nil => rfl
  | cons i is ih =>
    unfold overrunWords
    dsimp only
    split
    · split
      · rw [ih, laneView_fadd g k _ (by decide)]
      · exact (ih _).trans (laneView_setGate g k h _ _)
    · exact ih h

/-! ### Searching (R175 to R177) -/

theorem laneView_launch (g k : Nat) (h : Hw) (lg : Nat) (raises : Nat → List (Nat × Stamp)) (sf : Nat × Nat) :
    laneView g k (launch h lg raises sf) = laneView g k h := by
  have hcopy : ∀ n c v, laneView g k (setCopy n c v) = laneView g k n := fun n c v => by
    unfold setCopy
    split
    · rfl
    · split <;> rfl
  unfold launch
  split
  · rfl
  · exact foldl_keeps (laneView g k) (fun n c => hcopy _ _ _) _ h

theorem laneView_searchWords (g k : Nat) (h : Hw) (lg : Nat) (ws : List (BitVec 36 × Stamp)) :
    laneView g k (searchWords h g k lg ws) = laneView g k h := by
  unfold searchWords
  dsimp only
  generalize (if (gateOf h lg).realign = true then [] else searchable h ws) = found
  split
  · rw [laneView_pmu, laneView_pmu]
  · rw [laneView_launch, laneView_pmu, laneView_pmu]

end Sys2Proof.Proofs


/-!
Uplink blocks: block lock, superframe blocks, and the control blocks with their CHECK.
-/

namespace Sys2Proof.Proofs
open Sys2Proof Sys2Proof.Machine

/-! ### CHECK (R143) -/

/-- The payload bits that CHECK covers do not depend on it. -/
theorem controlPayload_bit (type : Nat) (body : BitVec 48) (check : BitVec 8) {i : Nat} (hi : i < 56) :
    (controlPayload type body check).getLsbD i = (controlPayload type body 0).getLsbD i := by
  have hlow : ∀ c : BitVec 8, (type + body.toNat * 2 ^ 8 + c.toNat * 2 ^ 56).testBit i = ((type + body.toNat * 2 ^ 8) % 2 ^ 56).testBit i := fun c => by
    rw [← Nat.add_mul_mod_self_right (type + body.toNat * 2 ^ 8) c.toNat (2 ^ 56), Nat.testBit_mod_two_pow, decide_eq_true hi, Bool.true_and]
  simp only [controlPayload, BitVec.getLsbD_ofNat, hlow]

theorem crc8_controlPayload (type : Nat) (body : BitVec 48) (check : BitVec 8) :
    crc8 (controlPayload type body check) = crc8 (controlPayload type body 0) :=
  List.foldl_ext _ _ _ fun c i hi => by rw [controlPayload_bit type body check (List.mem_range.mp hi)]

/-! ### Changed fields -/

theorem onlyRegs_mono {h t : Hw} {ks l : List Nat} (ho : onlyRegs h t ks) (hk : ks ⊆ l) : onlyRegs h t l := fun f i j hf => ho f i j fun hm => hf (hk hm)

theorem onlyRegs_trans {h u t : Hw} {l : List Nat} (ha : onlyRegs h u l) (hb : onlyRegs u t l) : onlyRegs h t l := fun f i j hf =>
  (hb f i j hf).trans (ha f i j hf)

theorem raiseSource_onlyRegs (h : Hw) (i : Nat) : onlyRegs h (raiseSource h i) [F_INT_SRC_STATE_PENDING.key 0 i, F_INT_SRC_STATE_EVENTS.key 0 i] := by
  unfold raiseSource
  split
  · exact onlyRegs_refl _ _
  · refine onlyRegs_trans ?_ (onlyRegs_mono (onlyRegs_fset _ _ _ _ _) (by simp))
    refine onlyRegs_of_regs ?_ (onlyRegs_mono (onlyRegs_fset _ F_INT_SRC_STATE_EVENTS _ 0 i) (by simp))
    split <;> rfl

/-! ### A control block on a lane in block lock (R144, R147) -/

/-- The block has run through the descrambler and is counted. -/
def blockCounted (h : Hw) (g k : Nat) (hist : BitVec 58) : Hw :=
  let n := setLane h g k { laneOf h g k with hist := hist }
  setLane n g k { laneOf n g k with blocks := (laneOf n g k).blocks + 1 }

theorem laneOf_blockCounted (h : Hw) (g k : Nat) (hist : BitVec 58) :
    laneOf (blockCounted h g k hist) g k = { laneOf h g k with hist := hist, blocks := (laneOf h g k).blocks + 1 } := by
  rw [blockCounted, laneOf_setLane, laneOf_setLane]

theorem syncHeader_counts {h : Hw} {g k : Nat} (h2 : 2 ≤ laneState h g k) :
    syncHeader h g k true = setLane h g k { laneOf h g k with blocks := (laneOf h g k).blocks + 1 } := by
  have h0 : (laneState h g k == 0) = false := beq_eq_false_iff_ne.mpr (by omega)
  have h1 : (laneState h g k == 1) = false := beq_eq_false_iff_ne.mpr (by omega)
  simp only [syncHeader, h0, h1, Bool.false_eq_true, if_false, if_true]

/-- The history after a block. -/
def blockHist (h : Hw) (g k : Nat) (p : BitVec 64) : BitVec 58 := scrambleHist (laneOf h g k).hist p

theorem controlBlock_in_lock {h : Hw} {g k : Nat} (hu : gateInUse h g = true) (h2 : 2 ≤ laneState h g k) (type : Nat) (body : BitVec 48)
    (check : BitVec 8) (phase : Nat) : controlBlock h g k type body check phase =
      onControl (blockCounted h g k (blockHist h g k (controlPayload type body check))) g k type body (check == crc8 (controlPayload type body 0)) phase := by
  have h0 : (laneState h g k == 0 || !gateInUse h g) = false := by
    rw [hu, Bool.not_true, Bool.or_false]; exact beq_eq_false_iff_ne.mpr (by omega)
  have hsync : syncHeader (setLane h g k { laneOf h g k with hist := blockHist h g k (controlPayload type body check) }) g k true =
      blockCounted h g k (blockHist h g k (controlPayload type body check)) := syncHeader_counts h2
  simp only [controlBlock, h0, Bool.false_eq_true, if_false, if_neg (Nat.not_lt.mpr h2), ← crc8_controlPayload type body check]
  rw [← hsync]
  rfl

/-- The TYPEs of the uplink (R147). -/
def uplinkType (type : Nat) : Bool := [0x1E, 0x2D, 0x33, 0x4B, 0x55].contains type

/-- What a control block does by its TYPE, past the end of a superframe. -/
def byType (h : Hw) (g k type : Nat) (body : BitVec 48) (good : Bool) (phase : Nat) : Hw :=
  if !good || !uplinkType type then fadd h F_LANE_ERR_BLOCK_ERR 1 g k
  else if type == 0x2D then onAlign h g k body phase
  else if !laneUp h g k then h
  else if type == 0x33 then onStatus h g k body
  else if type == 0x4B then onAck h g k body
  else if type == 0x55 then fadd h F_LANE_ERR_HDR_ERR 1 g k
  else h

theorem onControl_readout {h : Hw} {g k : Nat} (h2 : 2 ≤ laneState h g k) (hb : boulevard h g = false) (type : Nat) (body : BitVec 48)
    (good : Bool) (phase : Nat) : onControl h g k type body good phase =
      byType (if laneUp h g k then cutSf h g k else h) g k type body good phase := by
  simp only [onControl, if_neg (Nat.not_lt.mpr h2), hb, Bool.false_eq_true, if_false]
  rfl

theorem cutSf_of_nil {h : Hw} {g k : Nat} (hsf : (laneOf h g k).sf = []) : cutSf h g k = h := by
  simp only [cutSf, hsf, List.isEmpty_nil, if_true]

/-- Between superframes, a control block does what its TYPE says. -/
theorem controlBlock_between {h : Hw} {g k : Nat} (hu : gateInUse h g = true) (h2 : 2 ≤ laneState h g k) (hb : boulevard h g = false)
    (hsf : laneUp h g k = true → (laneOf h g k).sf = []) (type : Nat) (body : BitVec 48) (check : BitVec 8) (phase : Nat) :
    controlBlock h g k type body check phase =
      byType (blockCounted h g k (blockHist h g k (controlPayload type body check))) g k type body
        (check == crc8 (controlPayload type body 0)) phase := by
  rw [controlBlock_in_lock hu h2]
  generalize blockHist h g k (controlPayload type body check) = hist
  rw [onControl_readout (h := blockCounted h g k hist) h2 hb]
  congr 1
  by_cases hup : laneUp h g k = true
  · have hnil : (laneOf (blockCounted h g k hist) g k).sf = [] := by rw [laneOf_blockCounted]; exact hsf hup
    exact (if_pos hup).trans (cutSf_of_nil hnil)
  · exact if_neg hup

theorem two_le_of_up {h : Hw} {g k : Nat} (hup : laneUp h g k = true) : 2 ≤ laneState h g k := by
  have := of_decide_eq_true hup
  omega

/-! ### Data blocks -/

theorem dataBlock_ignored (g : Fin 64) (k : Fin 16) (sync : BitVec 2) (raw : BitVec 64) (s : State)
    (hi : laneState s.hw g.val k.val = 0 ∨ gateInUse s.hw g.val = false) : exec (.dataBlock g k sync raw) s = .next s := by
  have hcond : (laneState s.hw g.val k.val == 0 || !gateInUse s.hw g.val) = true := by
    rw [Bool.or_eq_true, beq_iff_eq, Bool.not_eq_true']; exact hi
  show execDataBlock g k sync raw s = _
  simp only [execDataBlock, State.upd, hcond, if_true]

/-- The lane has gained block lock: SEND_ALIGN is due, and the training window is open. -/
def lockGained (h : Hw) (g k : Nat) : Hw :=
  fset (setLane h g k { laneOf h g k with goodRun := 0, blocks := 0, badAt := [], aligned := false, trainWin := !boulevard h g, winTimer := false,
                                          sendAlign := !boulevard h g, sf := [], kept := [] }) F_LANE_STATUS_STATE 2 g k

theorem syncHeader_locks {h : Hw} {g k : Nat} (h1 : laneState h g k = 1) (hrun : (laneOf h g k).goodRun = 63) :
    syncHeader h g k true = lockGained h g k := by
  simp only [syncHeader, h1, hrun]
  rfl

theorem sync_good {sync : BitVec 2} (hs : sync = 1#2 ∨ sync = 2#2) : (sync == 1#2 || sync == 2#2) = true := by
  rcases hs with rfl | rfl <;> rfl

theorem dataBlock_gains_lock (g : Fin 64) (k : Fin 16) (sync : BitVec 2) (raw : BitVec 64) (s : State) (hu : gateInUse s.hw g.val = true)
    (h1 : laneState s.hw g.val k.val = 1) (hrun : (laneOf s.hw g.val k.val).goodRun = 63) (hb : boulevard s.hw g.val = false)
    (hs : sync = 1#2 ∨ sync = 2#2) :
    yields (.dataBlock g k sync raw) s fun t =>
      laneState t.hw g.val k.val = 2 ∧ (laneOf t.hw g.val k.val).sendAlign = true ∧ (laneOf t.hw g.val k.val).trainWin = true ∧
      onlyRegs s.hw t.hw [F_LANE_STATUS_STATE.key g.val k.val] ∧ sameMemory s t := by
  generalize hn : setLane s.hw g.val k.val { laneOf s.hw g.val k.val with hist := (descramble (laneOf s.hw g.val k.val).hist raw).2 } = n
  have hregs : n.regs = s.hw.regs := by rw [← hn]; rfl
  have hstate : laneState n g.val k.val = 1 := by rw [← hn]; exact h1
  have hgood : (laneOf n g.val k.val).goodRun = 63 := by rw [← hn, laneOf_setLane]; exact hrun
  have hbou : boulevard n g.val = false := by rw [← hn]; exact hb
  have hcond : (laneState s.hw g.val k.val == 0 || !gateInUse s.hw g.val) = false := by rw [hu, h1]; rfl
  have hwas : (decide (laneState s.hw g.val k.val < 2)) = true := by rw [h1]; rfl
  have hexec : exec (.dataBlock g k sync raw) s = .next (s.upd fun _ => lockGained n g.val k.val) := by
    show execDataBlock g k sync raw s = _
    simp only [execDataBlock, State.upd, hcond, sync_good hs, Bool.false_eq_true, if_false, hwas, Bool.true_or, if_true]
    rw [hn, syncHeader_locks hstate hgood]
  refine ⟨_, hexec, ?_⟩
  simp only [State.upd]
  refine ⟨?_, ?_, ?_, ?_, rfl, rfl⟩
  · rw [laneState, lockGained, fget_fset_same]; rfl
  · show (laneOf (setLane n g.val k.val _) g.val k.val).sendAlign = true
    rw [laneOf_setLane, hbou]; rfl
  · show (laneOf (setLane n g.val k.val _) g.val k.val).trainWin = true
    rw [laneOf_setLane, hbou]; rfl
  · exact onlyRegs_of_regs hregs (onlyRegs_fset _ _ _ _ _)

/-- The lane with one more block in its superframe. -/
def sfLane (l : Lane) (p : BitVec 64) (good : Bool) : Lane :=
  { l with sf := l.sf ++ [p], sfBad := l.sfBad || !good, sfCount := if l.sf.isEmpty then (l.sfCount + 1) % 65536 else l.sfCount }

/-- The words that a block completes are framed and searched. -/
def wordsFramed (h : Hw) (g k : Nat) (sf : List (BitVec 64)) : Hw :=
  match logicGate h g with
  | some lg =>
    let o := overrunWords h lg sf (wordsDone sf.length)
    let f := frameWords o.1 g k lg o.2
    searchWords f.1 g k lg f.2
  | none => h

theorem laneView_wordsFramed (g k : Nat) (h : Hw) (sf : List (BitVec 64)) : laneView g k (wordsFramed h g k sf) = laneView g k h := by
  unfold wordsFramed
  split
  · dsimp only
    rw [laneView_searchWords, laneView_frameWords, laneView_overrunWords]
  · rfl

theorem dataPayload_within {h : Hw} {g k : Nat} (hup : laneUp h g k = true) (hb : boulevard h g = false) (hlen : (laneOf h g k).sf.length < 15)
    (p : BitVec 64) (good : Bool) : dataPayload h g k p good =
      wordsFramed (setLane h g k (sfLane (laneOf h g k) p good)) g k ((laneOf h g k).sf ++ [p]) := by
  have hcond : (!laneUp h g k || boulevard h g) = false := by rw [hup, hb]; rfl
  have hshort : ((laneOf h g k).sf ++ [p]).length ≠ 16 := by rw [List.length_append, List.length_singleton]; omega
  simp only [dataPayload, hcond, beq_eq_false_iff_ne.mpr hshort, Bool.false_eq_true, if_false]
  rfl

theorem dataBlock_extends (g : Fin 64) (k : Fin 16) (sync : BitVec 2) (raw : BitVec 64) (s : State) (hu : gateInUse s.hw g.val = true)
    (hup : laneUp s.hw g.val k.val = true) (hb : boulevard s.hw g.val = false) (hs : sync = 1#2) (hlen : (laneOf s.hw g.val k.val).sf.length < 15) :
    yields (.dataBlock g k sync raw) s fun t =>
      (laneOf t.hw g.val k.val).sf = (laneOf s.hw g.val k.val).sf ++ [(descramble (laneOf s.hw g.val k.val).hist raw).1] ∧
      (laneOf t.hw g.val k.val).hist = (descramble (laneOf s.hw g.val k.val).hist raw).2 ∧
      laneState t.hw g.val k.val = laneState s.hw g.val k.val ∧ sameMemory s t := by
  have h2 := two_le_of_up hup
  have hcond : (laneState s.hw g.val k.val == 0 || !gateInUse s.hw g.val) = false := by
    rw [hu, Bool.not_true, Bool.or_false]; exact beq_eq_false_iff_ne.mpr (by omega)
  generalize hp : (descramble (laneOf s.hw g.val k.val).hist raw).1 = p
  generalize hhist : (descramble (laneOf s.hw g.val k.val).hist raw).2 = hist
  generalize hn : blockCounted s.hw g.val k.val hist = n
  have hlane : laneOf n g.val k.val = { laneOf s.hw g.val k.val with hist := hist, blocks := (laneOf s.hw g.val k.val).blocks + 1 } := by
    rw [← hn, laneOf_blockCounted]
  have hstate : laneState n g.val k.val = laneState s.hw g.val k.val := by rw [← hn]; rfl
  have hexec : exec (.dataBlock g k sync raw) s = .next (s.upd fun _ => dataPayload n g.val k.val p true) := by
    have hsync : syncHeader (setLane s.hw g.val k.val { laneOf s.hw g.val k.val with hist := hist }) g.val k.val true = n := by
      rw [← hn]; exact syncHeader_counts h2
    have hlock : (decide (laneState s.hw g.val k.val < 2) || decide (laneState n g.val k.val < 2)) = false := by
      rw [hstate, Bool.or_self]; exact decide_eq_false (by omega)
    have hdata : (sync == 2#2) = false := by rw [hs]; rfl
    show execDataBlock g k sync raw s = _
    simp only [execDataBlock, State.upd, hcond, hp, hhist, sync_good (.inl hs), hsync, hlock, Bool.false_eq_true, if_false]
    simp only [hdata, Bool.false_eq_true, if_false]
  refine ⟨_, hexec, ?_⟩
  have hview : laneView g.val k.val (dataPayload n g.val k.val p true) =
      ((laneOf s.hw g.val k.val).sf ++ [p], hist, laneState s.hw g.val k.val, fget n F_LANE_ERR_BLOCK_ERR g.val k.val) := by
    rw [dataPayload_within (by rw [← hn]; exact hup) (by rw [← hn]; exact hb) (by rw [hlane]; exact hlen), laneView_wordsFramed, laneView,
      laneOf_setLane, hlane, ← hstate]
    rfl
  simp only [laneView, Prod.mk.injEq] at hview
  obtain ⟨hsf, hh, hst, -⟩ := hview
  exact ⟨hsf, hh, hst, rfl, rfl⟩

end Sys2Proof.Proofs


/-!
What the control blocks of the uplink do by their TYPE.
-/

namespace Sys2Proof.Proofs
open Sys2Proof Sys2Proof.Machine

theorem bits_fits (v hi lo w : Nat) (hw : hi - lo + 1 = w) : bits v hi lo % 2 ^ w = bits v hi lo := by
  rw [bits, hw, Nat.mod_mod]

theorem source_gate (g : Fin 64) : reservedSource (srcGate g.val 1) = false := by
  revert g
  decide

section
variable (g : Fin 64) (k : Fin 16) (s : State)

/-- A control block between superframes, on a lane that delivers words. -/
theorem controlBlock_good (hu : gateInUse s.hw g.val = true) (hup : laneUp s.hw g.val k.val = true) (hb : boulevard s.hw g.val = false)
    (hsf : (laneOf s.hw g.val k.val).sf = []) (type : Nat) (body : BitVec 48) (hknown : uplinkType type = true) :
    ∃ n : Hw, n.regs = s.hw.regs ∧ n.lan.gate = s.hw.lan.gate ∧ (laneOf n g.val k.val).trainWin = (laneOf s.hw g.val k.val).trainWin ∧
      controlBlock s.hw g.val k.val type body (crc8 (controlPayload type body 0)) =
        if type == 0x2D then onAlign n g.val k.val body 0
        else if type == 0x33 then onStatus n g.val k.val body
        else if type == 0x4B then onAck n g.val k.val body
        else if type == 0x55 then fadd n F_LANE_ERR_HDR_ERR 1 g.val k.val
        else n := by
  refine ⟨blockCounted s.hw g.val k.val (blockHist s.hw g.val k.val (controlPayload type body (crc8 (controlPayload type body 0)))), rfl, rfl, ?_, ?_⟩
  · rw [laneOf_blockCounted]
  · rw [controlBlock_between hu (two_le_of_up hup) hb (fun _ => hsf), byType]
    generalize blockHist s.hw g.val k.val _ = hist
    have hup' : laneUp (blockCounted s.hw g.val k.val hist) g.val k.val = true := hup
    simp only [beq_self_eq_true, hknown, hup', Bool.not_true, Bool.or_false, Bool.false_eq_true, if_false]

theorem status_keeps_code (hu : gateInUse s.hw g.val = true) (hup : laneUp s.hw g.val k.val = true) (hb : boulevard s.hw g.val = false)
    (hsf : (laneOf s.hw g.val k.val).sf = []) (body : BitVec 48) :
    yields (.status g k body (crc8 (controlPayload 0x33 body 0))) s fun t =>
      fget t.hw F_LANE_STATUS_FE_CODE g.val k.val = bits body.toNat 15 0 ∧ fget t.hw F_INT_SRC_STATE_PENDING 0 (srcGate g.val 1) = 1 ∧
      onlyRegs s.hw t.hw [F_LANE_STATUS_FE_CODE.key g.val k.val, F_INT_SRC_STATE_PENDING.key 0 (srcGate g.val 1),
        F_INT_SRC_STATE_EVENTS.key 0 (srcGate g.val 1)] ∧ sameMemory s t := by
  obtain ⟨n, hregs, -, -, hdone⟩ := controlBlock_good g k s hu hup hb hsf 0x33 body rfl
  have hexec : exec (.status g k body (crc8 (controlPayload 0x33 body 0))) s = .next (s.upd fun _ => onStatus n g.val k.val body) := by
    show Host.Outcome.next (s.upd fun h => controlBlock h g.val k.val 0x33 body (crc8 (controlPayload 0x33 body 0))) = _
    simp only [State.upd, hdone]
    rfl
  refine ⟨_, hexec, ?_⟩
  simp only [State.upd]
  refine ⟨?_, raiseSource_pending _ (source_gate g), ?_, rfl, rfl⟩
  · rw [onStatus, fget_raiseSource _ _ (by decide), fget_fset_same]
    exact bits_fits _ _ _ _ rfl
  · refine onlyRegs_trans (onlyRegs_of_regs hregs (onlyRegs_mono (onlyRegs_fset n F_LANE_STATUS_FE_CODE (bits body.toNat 15 0) g.val k.val) ?_))
      (onlyRegs_mono (raiseSource_onlyRegs _ _) ?_)
    · simp
    · simp

theorem feLoss_counts (hu : gateInUse s.hw g.val = true) (hup : laneUp s.hw g.val k.val = true) (hb : boulevard s.hw g.val = false)
    (hsf : (laneOf s.hw g.val k.val).sf = []) (body : BitVec 48) :
    yields (.feLoss g k body (crc8 (controlPayload 0x55 body 0))) s fun t =>
      fget t.hw F_LANE_ERR_HDR_ERR g.val k.val = min (fget s.hw F_LANE_ERR_HDR_ERR g.val k.val + 1) (2 ^ 16 - 1) ∧
      onlyRegs s.hw t.hw [F_LANE_ERR_HDR_ERR.key g.val k.val] ∧ sameMemory s t := by
  obtain ⟨n, hregs, -, -, hdone⟩ := controlBlock_good g k s hu hup hb hsf 0x55 body rfl
  have hexec : exec (.feLoss g k body (crc8 (controlPayload 0x55 body 0))) s = .next (s.upd fun _ => fadd n F_LANE_ERR_HDR_ERR 1 g.val k.val) := by
    show Host.Outcome.next (s.upd fun h => controlBlock h g.val k.val 0x55 body (crc8 (controlPayload 0x55 body 0))) = _
    simp only [State.upd, hdone]
    rfl
  refine ⟨_, hexec, ?_⟩
  simp only [State.upd]
  refine ⟨?_, onlyRegs_of_regs hregs (onlyRegs_fset _ _ _ _ _), rfl, rfl⟩
  rw [fget_fadd_same, fget_upd_regs hregs]
  rfl

theorem uplinkIdle_changes_nothing (hu : gateInUse s.hw g.val = true) (hup : laneUp s.hw g.val k.val = true) (hb : boulevard s.hw g.val = false)
    (hsf : (laneOf s.hw g.val k.val).sf = []) :
    yields (.uplinkIdle g k (crc8 (controlPayload 0x1E 0 0))) s fun t => t.hw.regs = s.hw.regs ∧ sameMemory s t := by
  obtain ⟨n, hregs, -, -, hdone⟩ := controlBlock_good g k s hu hup hb hsf 0x1E 0 rfl
  have hexec : exec (.uplinkIdle g k (crc8 (controlPayload 0x1E 0 0))) s = .next (s.upd fun _ => n) := by
    show Host.Outcome.next (s.upd fun h => controlBlock h g.val k.val 0x1E 0 (crc8 (controlPayload 0x1E 0 0))) = _
    simp only [State.upd, hdone]
    rfl
  exact ⟨_, hexec, hregs, rfl, rfl⟩

theorem uplinkIdle_bad_check (hu : gateInUse s.hw g.val = true) (hup : laneUp s.hw g.val k.val = true) (hb : boulevard s.hw g.val = false)
    (hsf : (laneOf s.hw g.val k.val).sf = []) (check : BitVec 8) (hc : check ≠ crc8 (controlPayload 0x1E 0 0)) :
    yields (.uplinkIdle g k check) s fun t =>
      fget t.hw F_LANE_ERR_BLOCK_ERR g.val k.val = min (fget s.hw F_LANE_ERR_BLOCK_ERR g.val k.val + 1) (2 ^ 16 - 1) ∧
      onlyRegs s.hw t.hw [F_LANE_ERR_BLOCK_ERR.key g.val k.val] ∧ sameMemory s t := by
  generalize hn : blockCounted s.hw g.val k.val (blockHist s.hw g.val k.val (controlPayload 0x1E 0 check)) = n
  have hregs : n.regs = s.hw.regs := by rw [← hn]; rfl
  have hexec : exec (.uplinkIdle g k check) s = .next (s.upd fun _ => fadd n F_LANE_ERR_BLOCK_ERR 1 g.val k.val) := by
    show Host.Outcome.next (s.upd fun h => controlBlock h g.val k.val 0x1E 0 check) = _
    simp only [State.upd, controlBlock_between hu (two_le_of_up hup) hb (fun _ => hsf), hn, byType, beq_eq_false_iff_ne.mpr hc, Bool.not_false,
      Bool.true_or, if_true]
  refine ⟨_, hexec, ?_⟩
  simp only [State.upd]
  refine ⟨?_, onlyRegs_of_regs hregs (onlyRegs_fset _ _ _ _ _), rfl, rfl⟩
  rw [fget_fadd_same, fget_upd_regs hregs]
  rfl

/-! ### ACK (R158) -/

theorem exec_ack_good (hu : gateInUse s.hw g.val = true) (hup : laneUp s.hw g.val k.val = true) (hb : boulevard s.hw g.val = false)
    (hsf : (laneOf s.hw g.val k.val).sf = []) (body : BitVec 48) :
    ∃ n : Hw, n.regs = s.hw.regs ∧ gateOf n g.val = gateOf s.hw g.val ∧ (laneOf n g.val k.val).trainWin = (laneOf s.hw g.val k.val).trainWin ∧
      exec (.ack g k body (crc8 (controlPayload 0x4B body 0))) s = .next (s.upd fun _ => onAck n g.val k.val body) := by
  obtain ⟨n, hregs, hgate, htrain, hdone⟩ := controlBlock_good g k s hu hup hb hsf 0x4B body rfl
  refine ⟨n, hregs, by rw [gateOf, hgate]; rfl, htrain, ?_⟩
  show Host.Outcome.next (s.upd fun h => controlBlock h g.val k.val 0x4B body (crc8 (controlPayload 0x4B body 0))) = _
  simp only [State.upd, hdone]
  rfl

/-- The ACK of the pending command is shown, and the command ends ACKED. -/
theorem endCmd_ends {h : Hw} {g code j tag : Nat} (hl : (gateOf h g).dlLane = some (j, tag)) (hseq : fget h F_GATE_DL_CMD_SEQ g = tag) :
    endCmd h g code = fset (setGate h g { gateOf h g with
      dlLane := none, dl := (gateOf h g).dl.filter fun c => c.tag != tag || c.lanes == 0 }) F_GATE_DL_CMD_RESULT code g := by
  have hlatest : ∀ v, (fget (setGate h g v) F_GATE_DL_CMD_SEQ g == tag) = true := fun v => beq_iff_eq.mpr hseq
  simp only [endCmd, hl, hlatest, if_true]

/-- RESULT, TAG and DATA of an ACK. -/
def ackShown (h : Hw) (g b : Nat) : Hw :=
  fset (fset (fset h F_GATE_DL_ACK_TAG (bits b 7 0) g) F_GATE_DL_ACK_FE_RESULT (bits b 15 8) g) F_GATE_DL_ACK_DATA (bits b 47 16) g

theorem ackShown_fields (h : Hw) (g b : Nat) : fget (ackShown h g b) F_GATE_DL_ACK_TAG g = bits b 7 0 ∧
    fget (ackShown h g b) F_GATE_DL_ACK_FE_RESULT g = bits b 15 8 ∧ fget (ackShown h g b) F_GATE_DL_ACK_DATA g = bits b 47 16 := by
  unfold ackShown
  refine ⟨?_, ?_, ?_⟩
  · rw [fget_fset_id _ _ _ _ _ _ _ _ (by decide), fget_fset_id _ _ _ _ _ _ _ _ (by decide), fget_fset_same]; exact bits_fits _ _ _ _ rfl
  · rw [fget_fset_id _ _ _ _ _ _ _ _ (by decide), fget_fset_same]; exact bits_fits _ _ _ _ rfl
  · rw [fget_fset_same]; exact bits_fits _ _ _ _ rfl

theorem onAck_pending {h : Hw} {g k : Nat} {body : BitVec 48} (hl : (gateOf h g).dlLane = some (k, bits body.toNat 7 0)) :
    onAck h g k body = endCmd (ackShown h g body.toNat) g 3 := by
  simp only [onAck, hl, beq_self_eq_true, if_true]
  rfl

theorem ack_ends_command (hu : gateInUse s.hw g.val = true) (hup : laneUp s.hw g.val k.val = true) (hb : boulevard s.hw g.val = false)
    (hsf : (laneOf s.hw g.val k.val).sf = []) (body : BitVec 48) (hl : (gateOf s.hw g.val).dlLane = some (k.val, bits body.toNat 7 0))
    (hseq : fget s.hw F_GATE_DL_CMD_SEQ g.val = bits body.toNat 7 0) :
    yields (.ack g k body (crc8 (controlPayload 0x4B body 0))) s fun t =>
      (gateOf t.hw g.val).dlLane = none ∧ fget t.hw F_GATE_DL_CMD_RESULT g.val = 3 ∧ fget t.hw F_GATE_DL_ACK_TAG g.val = bits body.toNat 7 0 ∧
      fget t.hw F_GATE_DL_ACK_FE_RESULT g.val = bits body.toNat 15 8 ∧ fget t.hw F_GATE_DL_ACK_DATA g.val = bits body.toNat 47 16 ∧
      sameMemory s t := by
  obtain ⟨n, hregs, hgate, -, hexec⟩ := exec_ack_good g k s hu hup hb hsf body
  have hshown : fget (ackShown n g.val body.toNat) F_GATE_DL_CMD_SEQ g.val = bits body.toNat 7 0 := by
    rw [ackShown, fget_fset_id _ _ _ _ _ _ _ _ (by decide), fget_fset_id _ _ _ _ _ _ _ _ (by decide), fget_fset_id _ _ _ _ _ _ _ _ (by decide),
      fget_upd_regs hregs, hseq]
  have hdone := (onAck_pending (h := n) (by rw [hgate]; exact hl)).trans
    (endCmd_ends (h := ackShown n g.val body.toNat) (code := 3) (show (gateOf n g.val).dlLane = _ by rw [hgate]; exact hl) hshown)
  refine ⟨_, hexec, ?_⟩
  simp only [State.upd, hdone]
  obtain ⟨htag, hresult, hdata⟩ := ackShown_fields n g.val body.toNat
  have hout : ∀ {f : Field}, F_GATE_DL_CMD_RESULT.id ≠ f.id → ∀ v, fget (fset (setGate (ackShown n g.val body.toNat) g.val v) F_GATE_DL_CMD_RESULT 3 g.val) f g.val =
      fget (ackShown n g.val body.toNat) f g.val := fun hf v => fget_fset_id _ _ _ _ _ _ _ _ hf
  refine ⟨?_, (fget_fset_same _ _ _ _ _).trans (by decide), (hout (by decide) _).trans htag, (hout (by decide) _).trans hresult,
    (hout (by decide) _).trans hdata, rfl, rfl⟩
  show (gateOf (setGate _ g.val _) g.val).dlLane = none
  rw [gateOf_setGate]

theorem ack_late (hu : gateInUse s.hw g.val = true) (hup : laneUp s.hw g.val k.val = true) (hb : boulevard s.hw g.val = false)
    (hsf : (laneOf s.hw g.val k.val).sf = []) (body : BitVec 48) (hl : (gateOf s.hw g.val).dlLane ≠ some (k.val, bits body.toNat 7 0))
    (hh : bit (gateOf s.hw g.val).halfRate.2 k.val = false) (ht : (laneOf s.hw g.val k.val).trainWin = false)
    (hbc : (gateOf s.hw g.val).bcast ≠ some (bits body.toNat 7 0)) :
    yields (.ack g k body (crc8 (controlPayload 0x4B body 0))) s fun t =>
      fget t.hw F_GATE_DL_ACK_LATE_ACKS g.val =
        min (fget s.hw F_GATE_DL_ACK_LATE_ACKS g.val + 1) (2 ^ F_GATE_DL_ACK_LATE_ACKS.width - 1) ∧
      onlyRegs s.hw t.hw [F_GATE_DL_ACK_LATE_ACKS.key g.val 0] ∧ sameMemory s t := by
  obtain ⟨n, hregs, hgate, htrain, hexec⟩ := exec_ack_good g k s hu hup hb hsf body
  have hlate : onAck n g.val k.val body = fadd n F_GATE_DL_ACK_LATE_ACKS 1 g.val := by
    simp only [onAck, hgate, htrain, ht, hh, beq_eq_false_iff_ne.mpr hl, beq_eq_false_iff_ne.mpr hbc, Bool.false_and, Bool.false_eq_true, if_false]
  refine ⟨_, hexec, ?_⟩
  simp only [State.upd, hlate]
  refine ⟨?_, onlyRegs_of_regs hregs (onlyRegs_fset _ _ _ _ _), rfl, rfl⟩
  rw [fget_fadd_same, fget_upd_regs hregs]

/-! ### A control block inside a superframe (R147) -/

/-- The superframe goes, and its words are marked. -/
def sfFailed (h : Hw) (g k : Nat) : Hw :=
  let n := fadd (setLane h g k { laneOf h g k with sf := [], sfBad := false, kept := [], sfNum := (laneOf h g k).sfNum + 1 }) F_LANE_ERR_CRC_FAIL 1 g k
  if ((laneOf h g k).kept.map fun w => { w with word := w.word ||| (1#36 <<< 33) }).isEmpty then n else recordMarked n g k

theorem endSf_fails (h : Hw) (g k : Nat) : endSf h g k false =
    match logicGate (sfFailed h g k) g with
    | some lg => storeSf (sfFailed h g k) lg (laneNo g k lg) ((laneOf h g k).kept.map fun w => { w with word := w.word ||| (1#36 <<< 33) })
    | none => sfFailed h g k := rfl

theorem laneView_sfFailed (h : Hw) (g k : Nat) :
    laneView g k (sfFailed h g k) = ([], (laneOf h g k).hist, laneState h g k, fget h F_LANE_ERR_BLOCK_ERR g k) := by
  have hset : laneView g k (setLane h g k { laneOf h g k with sf := [], sfBad := false, kept := [], sfNum := (laneOf h g k).sfNum + 1 }) =
      ([], (laneOf h g k).hist, laneState h g k, fget h F_LANE_ERR_BLOCK_ERR g k) := by
    rw [laneView, laneOf_setLane]; rfl
  unfold sfFailed
  dsimp only
  split
  · rw [laneView_fadd g k _ (by decide), hset]
  · rw [laneView_recordMarked, laneView_fadd g k _ (by decide), hset]

/-- A superframe that is cut goes, and counts. -/
theorem cutSf_view {h : Hw} {g k : Nat} (hsf : (laneOf h g k).sf ≠ []) :
    laneView g k (cutSf h g k) = ([], (laneOf h g k).hist, laneState h g k, min (fget h F_LANE_ERR_BLOCK_ERR g k + 1) (2 ^ 16 - 1)) := by
  have hsome : (laneOf h g k).sf.isEmpty = false := by rw [List.isEmpty_eq_false_iff]; exact hsf
  have hcount : laneState (fadd h F_LANE_ERR_BLOCK_ERR 1 g k) g k = laneState h g k := fget_fset_id _ _ _ _ _ _ _ _ (by decide)
  have hview : laneView g k (sfFailed (fadd h F_LANE_ERR_BLOCK_ERR 1 g k) g k) =
      ([], (laneOf h g k).hist, laneState h g k, min (fget h F_LANE_ERR_BLOCK_ERR g k + 1) (2 ^ 16 - 1)) := by
    rw [laneView_sfFailed, fget_fadd_same, hcount]; rfl
  rw [← hview, cutSf, hsome, endSf_fails]
  simp only [Bool.false_eq_true, if_false]
  split
  · exact laneView_storeSf _ _ _ _ _ _
  · rfl

theorem uplinkIdle_cuts (check : BitVec 8) (hu : gateInUse s.hw g.val = true) (hup : laneUp s.hw g.val k.val = true) (hb : boulevard s.hw g.val = false)
    (hsf : (laneOf s.hw g.val k.val).sf ≠ []) :
    yields (.uplinkIdle g k check) s fun t => (laneOf t.hw g.val k.val).sf = [] ∧ fget t.hw F_LANE_ERR_BLOCK_ERR g.val k.val ≠ 0 ∧ sameMemory s t := by
  generalize hn : blockCounted s.hw g.val k.val (blockHist s.hw g.val k.val (controlPayload 0x1E 0 check)) = n
  have hup' : laneUp n g.val k.val = true := by rw [← hn]; exact hup
  have hsf' : (laneOf n g.val k.val).sf ≠ [] := by rw [← hn, laneOf_blockCounted]; exact hsf
  have hview := cutSf_view hsf'
  simp only [laneView, Prod.mk.injEq] at hview
  obtain ⟨hnil, -, hst, herr⟩ := hview
  have hcut : laneUp (cutSf n g.val k.val) g.val k.val = true := by rw [laneUp, hst]; exact hup'
  generalize hgood : (check == crc8 (controlPayload 0x1E 0 0)) = good
  have hexec : exec (.uplinkIdle g k check) s = .next (s.upd fun _ => byType (cutSf n g.val k.val) g.val k.val 0x1E 0 good 0) := by
    show Host.Outcome.next (s.upd fun h => controlBlock h g.val k.val 0x1E 0 check) = _
    simp only [State.upd, controlBlock_in_lock hu (two_le_of_up hup), hn, hgood]
    rw [onControl_readout (two_le_of_up hup') (by rw [← hn]; exact hb), hup', if_pos rfl]
  refine ⟨_, hexec, ?_⟩
  simp only [State.upd]
  cases good
  · refine ⟨hnil, ?_, rfl, rfl⟩
    show fget (fadd (cutSf n g.val k.val) F_LANE_ERR_BLOCK_ERR 1 g.val k.val) F_LANE_ERR_BLOCK_ERR g.val k.val ≠ 0
    rw [fget_fadd_same, herr]
    have hwide : 2 ^ F_LANE_ERR_BLOCK_ERR.width = 65536 := rfl
    omega
  · have hidle : byType (cutSf n g.val k.val) g.val k.val 0x1E 0 true 0 = cutSf n g.val k.val := by
      rw [byType, hcut]; rfl
    rw [hidle]
    exact ⟨hnil, by rw [herr]; omega, rfl, rfl⟩

/-! ### ALIGN (R148, R160) -/

/-- An ALIGN that does not carry the lane's tag counts. -/
def tagSeen (h : Hw) (g k b : Nat) : Hw :=
  if fget h F_LANE_CONFIG_FE_TAG g k != 0xFF && bits b 23 16 != fget h F_LANE_CONFIG_FE_TAG g k
  then fset (fadd h F_LANE_ERR_BLOCK_ERR 1 g k) F_LANE_STATUS_SWAPPED 1 g k else h

theorem tagSeen_lan (h : Hw) (g k b : Nat) : (tagSeen h g k b).lan = h.lan := by
  unfold tagSeen
  split <;> rfl

theorem fget_tagSeen (h : Hw) (g k b : Nat) {f : Field} (hf : f.id ∉ [F_LANE_ERR_BLOCK_ERR.id, F_LANE_STATUS_SWAPPED.id]) (i j : Nat) :
    fget (tagSeen h g k b) f i j = fget h f i j := by
  simp only [List.mem_cons, List.not_mem_nil, or_false, not_or] at hf
  unfold tagSeen
  split
  · exact (fget_fset_id _ _ _ _ _ _ _ _ (Ne.symm hf.2)).trans (fget_fset_id _ _ _ _ _ _ _ _ (Ne.symm hf.1))
  · rfl

/-- The receiver has aligned. -/
def alignedLane (l : Lane) : Lane :=
  { l with aligned := true, sfCount := 0, sf := [], kept := [], sfBad := false, timedOut := false, sendAlign := false, winTimer := l.trainWin }

/-- What a first ALIGN shows. -/
def alignShown (h : Hw) (g k phase : Nat) : Hw :=
  let n := setLane h g k (alignedLane (laneOf h g k))
  let n := fset n F_LANE_STATUS_STATE (if fget n F_GATE_STATUS_TAKEOVER g == 2 then 5 else 3) g k
  let n := fset n F_LANE_STATUS_PHASE phase g k
  fset n F_GATE_STATUS_LANES_READY (setBit (fget n F_GATE_STATUS_LANES_READY g) k true) g

theorem alignShown_fields (h : Hw) (g k : Nat) {phase : Nat} (hk : k < 16) (hp : phase < 64) :
    laneState (alignShown h g k phase) g k = (if fget h F_GATE_STATUS_TAKEOVER g = 2 then 5 else 3) ∧
    fget (alignShown h g k phase) F_LANE_STATUS_PHASE g k = phase ∧ bit (fget (alignShown h g k phase) F_GATE_STATUS_LANES_READY g) k = true := by
  unfold alignShown laneState
  dsimp only
  refine ⟨?_, ?_, ?_⟩
  · rw [fget_fset_id _ _ _ _ _ _ _ _ (by decide), fget_fset_id _ _ _ _ _ _ _ _ (by decide), fget_fset_same]
    show (if (fget h F_GATE_STATUS_TAKEOVER g == 2) = true then 5 else 3) % 2 ^ F_LANE_STATUS_STATE.width = _
    simp only [beq_iff_eq]
    split <;> rfl
  · rw [fget_fset_id _ _ _ _ _ _ _ _ (by decide), fget_fset_same]
    exact Nat.mod_eq_of_lt hp
  · rw [fget_fset_same]
    exact (bit_mod_two_pow (w := 16) hk _).trans (by rw [bit_setBit, if_pos rfl])

/-- The gate that serves the lane has realigned. -/
def realigned (h : Hw) (g : Nat) : Hw :=
  match logicGate h g with
  | some lg => setGate h lg { gateOf h lg with realign := false }
  | none => h

theorem realigned_regs (h : Hw) (g : Nat) : (realigned h g).regs = h.regs := by
  unfold realigned
  split <;> rfl

theorem laneOf_realigned (h : Hw) (g g' k : Nat) : laneOf (realigned h g) g' k = laneOf h g' k := by
  unfold realigned
  split <;> rfl

theorem onAlign_first {h : Hw} {g k : Nat} (ha : (laneOf h g k).aligned = false) (body : BitVec 48) (phase : Nat) :
    onAlign h g k body phase = storeTraining (realigned (alignShown (tagSeen h g k body.toNat) g k phase) g) g k := by
  have hlane : laneOf (tagSeen h g k body.toNat) g k = laneOf h g k := by rw [laneOf, tagSeen_lan]; rfl
  have hfirst : (laneOf (tagSeen h g k body.toNat) g k).aligned = false := by rw [hlane, ha]
  show (if (laneOf (tagSeen h g k body.toNat) g k).aligned then _ else _ : Hw) = _
  rw [hfirst]
  rfl

/-- Stored training changes the coefficients of a lane alone. -/
theorem laneOf_storeTraining (h : Hw) (g k : Nat) : ∃ eq, laneOf (storeTraining h g k) g k = { laneOf h g k with eq := eq } :=
  ⟨_, laneOf_setLane { h with freeCtr := h.freeCtr + 14 } g k _⟩

theorem fget_storeTraining (h : Hw) (g k : Nat) {f : Field} (hf : f.id ∉ [F_LANE_STATUS_EYE_H.id, F_LANE_STATUS_EYE_V.id]) (i j : Nat) :
    fget (storeTraining h g k) f i j = fget h f i j := by
  simp only [List.mem_cons, List.not_mem_nil, or_false, not_or] at hf
  exact (fget_fset_id _ _ _ _ _ _ _ _ (Ne.symm hf.2)).trans (fget_fset_id _ _ _ _ _ _ _ _ (Ne.symm hf.1))

theorem align_aligns (body : BitVec 48) (phase : BitVec 6) (hu : gateInUse s.hw g.val = true) (h2 : laneState s.hw g.val k.val = 2)
    (hb : boulevard s.hw g.val = false) (ha : (laneOf s.hw g.val k.val).aligned = false) :
    yields (.align g k body (crc8 (controlPayload 0x2D body 0)) phase) s fun t =>
      laneState t.hw g.val k.val = (if fget s.hw F_GATE_STATUS_TAKEOVER g.val = 2 then 5 else 3) ∧
      fget t.hw F_LANE_STATUS_PHASE g.val k.val = phase.toNat ∧ (laneOf t.hw g.val k.val).aligned = true ∧
      (laneOf t.hw g.val k.val).sf = [] ∧ (laneOf t.hw g.val k.val).sendAlign = false ∧
      bit (fget t.hw F_GATE_STATUS_LANES_READY g.val) k.val = true ∧ sameMemory s t := by
  have hdown : laneUp s.hw g.val k.val = false := by rw [laneUp, h2]; rfl
  generalize hn : blockCounted s.hw g.val k.val (blockHist s.hw g.val k.val (controlPayload 0x2D body (crc8 (controlPayload 0x2D body 0)))) = n
  have hregs : n.regs = s.hw.regs := by rw [← hn]; rfl
  have haln : (laneOf n g.val k.val).aligned = false := by rw [← hn, laneOf_blockCounted]; exact ha
  have hexec : exec (.align g k body (crc8 (controlPayload 0x2D body 0)) phase) s =
      .next (s.upd fun _ => storeTraining (realigned (alignShown (tagSeen n g.val k.val body.toNat) g.val k.val phase.toNat) g.val) g.val k.val) := by
    show Host.Outcome.next (s.upd fun h => controlBlock h g.val k.val 0x2D body (crc8 (controlPayload 0x2D body 0)) phase.toNat) = _
    simp only [State.upd, controlBlock_between hu (Nat.le_of_eq h2.symm) hb (fun hup => absurd hup (by rw [hdown]; decide)), hn, byType,
      beq_self_eq_true]
    rw [← onAlign_first haln]
    rfl
  obtain ⟨hstate, hphase, hready⟩ := alignShown_fields (tagSeen n g.val k.val body.toNat) g.val k.val k.isLt phase.isLt
  generalize hm : alignShown (tagSeen n g.val k.val body.toNat) g.val k.val phase.toNat = m at hstate hphase hready hexec
  have hlane : laneOf m g.val k.val = alignedLane (laneOf (tagSeen n g.val k.val body.toNat) g.val k.val) := by
    rw [← hm]
    exact laneOf_setLane _ _ _ _
  obtain ⟨eq, hl⟩ := laneOf_storeTraining (realigned m g.val) g.val k.val
  rw [laneOf_realigned, hlane] at hl
  have hkept : ∀ {f : Field}, f.id ∉ [F_LANE_STATUS_EYE_H.id, F_LANE_STATUS_EYE_V.id] → ∀ i j,
      fget (storeTraining (realigned m g.val) g.val k.val) f i j = fget m f i j := fun hf i j => by
    rw [fget_storeTraining _ _ _ hf, fget_upd_regs (realigned_regs _ _)]
  refine ⟨_, hexec, ?_⟩
  simp only [State.upd, hl]
  refine ⟨?_, ?_, rfl, rfl, rfl, ?_, rfl, rfl⟩
  · rw [laneState, hkept (by decide)]
    refine hstate.trans ?_
    rw [fget_tagSeen _ _ _ _ (by decide), fget_upd_regs hregs]
  · rw [hkept (by decide), hphase]
  · rw [hkept (by decide), hready]

end

/-- Settles O17: each block of the uplink reaches its lane, by block lock, by superframe, and by TYPE and CHECK. -/
theorem uplinkBlocksReachTheirLane : Obligations.UplinkBlocksReachTheirLane := by
  unfold Obligations.UplinkBlocksReachTheirLane
  refine ⟨fun g k sync raw s => ⟨dataBlock_ignored g k sync raw s, dataBlock_gains_lock g k sync raw s, dataBlock_extends g k sync raw s⟩,
    fun g k body s hu hup hb hsf => ⟨status_keeps_code g k s hu hup hb hsf body, feLoss_counts g k s hu hup hb hsf body,
      uplinkIdle_changes_nothing g k s hu hup hb hsf, uplinkIdle_bad_check g k s hu hup hb hsf, ack_ends_command g k s hu hup hb hsf body,
      ack_late g k s hu hup hb hsf body⟩,
    fun g k body phase s => align_aligns g k s body phase, fun g k check s hu hup hb hsf _ => uplinkIdle_cuts g k s check hu hup hb hsf⟩

end Sys2Proof.Proofs


/-!
What the passing of gate cycles and the acts of a crossing leave of the crossing clock: its registers, its measurement, the shadow writes
that wait, and module time.
-/

namespace Sys2Proof.Proofs
open Sys2Proof Sys2Proof.Machine

/-- The registers of the crossing clock, and the modes it permits. -/
def timingFields : List Field :=
  [F_TIMING_STATUS_PRESENT, F_TIMING_STATUS_LOCKED, F_TIMING_STATUS_FREQ_OK, F_TIMING_STATUS_TURN_SEEN, F_TIMING_STATUS_CROSSING,
   F_TIMING_STATUS_TURN_ERRS, F_TIMING_STATUS_LOCK_LOSSES, F_TIMING_TURN_TURN, F_TIMING_TURN_TIME_CYCLES, F_TIMING_TURN_SET_ARM,
   F_TIMING_TURN_SET_VALUE, F_TIMING_CONFIG_CPT_M1, F_TIMING_CONFIG_CLKX_HZ, F_MODE_STATUS_PERMITTED]

def timingIds : List Nat := timingFields.map (·.id)

/-- What is known of the crossing clock; the stamp at which Avenue started is no part of it. -/
def clockView (h : Hw) : Timing × List (Nat × Nat) × List Nat :=
  ({ h.tim with aveStart := none }, h.ave.waiting, timingFields.map fun f => fget h f 0 0)

/-- The clock, and module time. -/
def timedView (h : Hw) : (Timing × List (Nat × Nat) × List Nat) × Nat := (clockView h, h.now)

theorem clockView_of_timed {h h' : Hw} (he : timedView h' = timedView h) : clockView h' = clockView h := congrArg Prod.fst he

theorem now_of_timed {h h' : Hw} (he : timedView h' = timedView h) : h'.now = h.now := congrArg Prod.snd he

theorem fget_of_clockView {h h' : Hw} (he : clockView h' = clockView h) {f : Field} (hf : f ∈ timingFields) : fget h' f = fget h f := by
  have hfields : (timingFields.map fun f => fget h' f 0 0) = timingFields.map fun f => fget h f 0 0 := congrArg (·.2.2) he
  exact List.map_inj_left.mp hfields f hf

theorem waiting_of_clockView {h h' : Hw} (he : clockView h' = clockView h) : h'.ave.waiting = h.ave.waiting := congrArg (·.2.1) he

theorem edges_of_clockView {h h' : Hw} (he : clockView h' = clockView h) : h'.tim.edges = h.tim.edges := congrArg (·.1.edges) he

theorem sinceTurn_of_clockView {h h' : Hw} (he : clockView h' = clockView h) : h'.tim.sinceTurn = h.tim.sinceTurn := congrArg (·.1.sinceTurn) he

theorem everLocked_of_clockView {h h' : Hw} (he : clockView h' = clockView h) : h'.tim.everLocked = h.tim.everLocked := congrArg (·.1.everLocked) he

theorem errTurn_of_clockView {h h' : Hw} (he : clockView h' = clockView h) : h'.tim.errTurn = h.tim.errTurn := congrArg (·.1.errTurn) he

/-! ### Registers and records -/

section
variable (h : Hw)

theorem timedView_fset {f : Field} (hf : f.id ∉ timingIds) (v i j : Nat) : timedView (fset h f v i j) = timedView h := by
  have hfields : (timingFields.map fun g => fget (fset h f v i j) g 0 0) = timingFields.map fun g => fget h g 0 0 :=
    List.map_inj_left.mpr fun g hg => fget_fset_id h f g v i j 0 0 fun he => hf (he ▸ List.mem_map_of_mem hg)
  rw [timedView, timedView, clockView, clockView, hfields]
  rfl

theorem timedView_fadd {f : Field} (hf : f.id ∉ timingIds) (n i j : Nat) : timedView (fadd h f n i j) = timedView h := timedView_fset h hf _ i j

theorem timedView_setGate (g : Nat) (v : Gate) : timedView (setGate h g v) = timedView h := rfl

theorem timedView_logRec (r : ErrRec) : timedView (logRec h r) = timedView h := by
  unfold logRec
  split
  · rfl
  · exact timedView_fset _ (by decide) _ _ _

theorem timedView_logReg (cls block inst : Nat) (r : Reg) (i j part addr : Nat) :
    timedView (logReg h cls block inst r i j part addr) = timedView h := timedView_logRec _ _

theorem timedView_raiseSource (i : Nat) : timedView (raiseSource h i) = timedView h := by
  unfold raiseSource
  split
  · rfl
  · rw [timedView_fset _ (by decide), timedView_fadd _ (by decide)]
    split <;> rfl

/-! ### Event counters (R540 to R542) -/

/-- The registers of a block's counters are none of the clock's. -/
def counterApart (r : PmuRegs) : Prop := r.cnt.id ∉ timingIds ∧ r.ovf.id ∉ timingIds

theorem counters_apart : counterApart pmuQmc ∧ counterApart pmuGate ∧ counterApart pmuEng ∧ counterApart pmuRbt := by
  unfold counterApart
  decide

theorem gateCounter_apart : counterApart pmuGate := counters_apart.2.1

theorem engineCounter_apart : counterApart pmuEng := counters_apart.2.2.1

theorem timedView_pmuAdd {r : PmuRegs} (hr : counterApart r) (i n k : Nat) : timedView (pmuAdd r h i n k) = timedView h := by
  unfold pmuAdd
  dsimp only
  split
  · rw [timedView_fset _ hr.2, timedView_fset _ hr.1]
  · exact timedView_fset _ hr.1 _ _ _

theorem timedView_pmuTakes {r : PmuRegs} (hr : counterApart r) (i code : Nat) (amount : Option Nat → Nat) :
    timedView (pmuTakes r h i code amount) = timedView h := by
  refine foldl_keeps timedView (fun h n => ?_) _ h
  split
  · exact timedView_pmuAdd h hr _ _ _
  · rfl

theorem timedView_pmuOpen {r : PmuRegs} (hr : counterApart r) (i code most : Nat) (part : Option Nat) :
    timedView (pmuOpen r h i code most part) = timedView h := by
  unfold pmuOpen
  split
  · exact (timedView_pmuTakes _ hr _ _ _).trans rfl
  · rfl

theorem timedView_pmuGateTime (n g : Nat) : timedView (pmuGateTime n h g) = timedView h := by
  unfold pmuGateTime
  dsimp only
  rw [timedView_pmuTakes _ gateCounter_apart, timedView_pmuTakes _ gateCounter_apart]

theorem timedView_pmuEngTime (n q : Nat) : timedView (pmuEngTime n h q) = timedView h := by
  unfold pmuEngTime
  dsimp only
  rw [timedView_pmuTakes _ engineCounter_apart]
  split
  · exact timedView_pmuTakes _ engineCounter_apart _ _ _
  · rw [timedView_pmuOpen _ engineCounter_apart, timedView_pmuTakes _ engineCounter_apart]

theorem timedView_pmuRbtTime (n : Nat) : timedView (pmuRbtTime n h) = timedView h := by
  unfold pmuRbtTime
  dsimp only
  rw [timedView_pmuTakes _ counters_apart.2.2.2, timedView_pmuTakes _ counters_apart.2.2.2]

theorem timedView_pmuTime (t : Nat) : timedView (pmuTime h t) = timedView h := by
  unfold pmuTime
  dsimp only
  split
  · rfl
  · rw [timedView_pmuRbtTime, foldl_keeps timedView (fun h q => timedView_pmuEngTime h _ q),
      foldl_keeps timedView (fun h g => timedView_pmuGateTime h _ g), foldl_keeps timedView (fun h q => timedView_pmuOpen h counters_apart.1 q _ _ _)]

/-! ### Module time goes on (R166, R269, R544) -/

theorem timedView_restartWindows (t : Nat) : timedView (restartWindows h t) = timedView h := by
  unfold restartWindows
  split
  · rfl
  · refine foldl_keeps timedView (fun h q => ?_) _ h
    split
    · rfl
    · exact foldl_keeps timedView (fun h ch => timedView_fset h (by decide) _ _ _) _ h

theorem timedView_rtcAdd (n : Nat) : timedView (rtcAdd h n) = timedView h := by
  unfold rtcAdd
  split
  · rfl
  · dsimp only
    rw [timedView_fset _ (by decide), timedView_fset _ (by decide)]

theorem timedView_passTo (t : Nat) : timedView (passTo h t) = (clockView h, t) := by
  have hnow : timedView { restartWindows (pmuTime h t) t with now := t } = (clockView h, t) := by
    refine Prod.ext ?_ rfl
    show clockView (restartWindows (pmuTime h t) t) = clockView h
    exact clockView_of_timed ((timedView_restartWindows (pmuTime h t) t).trans (timedView_pmuTime h t))
  unfold passTo
  dsimp only
  split
  · exact hnow
  · rw [timedView_rtcAdd, hnow]

theorem clockView_passTo (t : Nat) : clockView (passTo h t) = clockView h := congrArg Prod.fst (timedView_passTo h t)

/-! ### The copies of Avenue, and their votes (R188 to R207) -/

theorem timedView_setCopy (c : Nat) (v : AveCopy) : timedView (setCopy h c v) = timedView h := by
  unfold setCopy
  split
  · rfl
  · split <;> rfl

theorem timedView_setAct (c : Nat) (t : Tab Nat) : timedView (setAct h c t) = timedView h := by
  unfold setAct
  split
  · rfl
  · split <;> rfl

theorem timedView_setMt (c : Nat) (t : Tab MtEntry) : timedView (setMt h c t) = timedView h := by
  unfold setMt
  split
  · rfl
  · split <;> rfl

/-! What differs in a vote, as `noteVote` composes it. -/

def pinCounted (c : Nat) (pin : Option Nat) : Hw :=
  if pin.isSome && h.ave.pinCycle != c + 1 then fadd { h with ave := { h.ave with pinCycle := c + 1 } } F_AVE_VOTE_PIN_DISAGREE 1 else h

def accCounted (c : Nat) (acc : Option Nat) : Hw :=
  if acc.isSome && h.ave.accCycle != c + 1 then fadd { h with ave := { h.ave with accCycle := c + 1 } } F_AVE_VOTE_ACC_DISAGREE 1 else h

/-- The disagreement is not that of the cycle before. -/
def firstCycle (c odd : Nat) : Bool :=
  match h.ave.disagree with
  | some (o, t) => o != odd || decide (t + 1 < c)
  | none => true

/-- The odd copy and the time are shown; the first cycle of a disagreement is recorded. -/
def voteReported (c odd : Nat) : Hw :=
  let n := fset (fset h F_AVE_VOTE_LAST_ODD odd) F_AVE_VOTE_TIME_TIME (gateTime h)
  let first := firstCycle n c odd
  let n := { n with ave := { n.ave with disagree := some (odd, c) } }
  if first then raiseSource (logReg n (if odd == 3 then 1 else 0) blkAve 0 R_AVE_VOTE) srcAveVote else n

theorem noteVote_eq (pin acc : Option Nat) : noteVote h pin acc =
    match (match pin with | some o => some o | none => acc) with
    | none => h
    | some odd => voteReported (accCounted (pinCounted h (gateCycle h) pin) (gateCycle h) acc) (gateCycle h) odd := rfl

theorem timedView_pinCounted (c : Nat) (pin : Option Nat) : timedView (pinCounted h c pin) = timedView h := by
  unfold pinCounted
  split
  · exact timedView_fadd _ (by decide) _ _ _
  · rfl

theorem timedView_accCounted (c : Nat) (acc : Option Nat) : timedView (accCounted h c acc) = timedView h := by
  unfold accCounted
  split
  · exact timedView_fadd _ (by decide) _ _ _
  · rfl

theorem timedView_voteReported (c odd : Nat) : timedView (voteReported h c odd) = timedView h := by
  have hshown : timedView (fset (fset h F_AVE_VOTE_LAST_ODD odd) F_AVE_VOTE_TIME_TIME (gateTime h)) = timedView h := by
    rw [timedView_fset _ (by decide), timedView_fset _ (by decide)]
  rw [← hshown]
  unfold voteReported
  dsimp only
  split
  · rw [timedView_raiseSource, timedView_logReg]
    rfl
  · rfl

theorem timedView_noteVote (pin acc : Option Nat) : timedView (noteVote h pin acc) = timedView h := by
  rw [noteVote_eq]
  split
  · rfl
  · rw [timedView_voteReported, timedView_accCounted, timedView_pinCounted]

/-! ### Acceptance (R195 to R199) -/

theorem timedView_noteFinal : timedView (noteFinal h) = timedView h := foldl_keeps timedView (fun h c => timedView_setCopy h c _) _ h

/-- The units take their records. -/
def accsTaken (recs : Nat → List AccRec) : Hw := copies.foldl (fun h c => setCopy h c { copyOf h c with acc := recs c }) h

/-- What they took is counted by its source. -/
def accsCounted (made : List (Option Nat × Stamp)) : Hw :=
  made.foldl (fun h a => match a.1 with
    | some n => fadd h F_AVE_TB_STAT_ACCEPTS 1 0 n
    | none => fadd h F_AVE_ACC_COUNT_EXT 1) h

theorem acceptAll_hw (l : Nat → List (Option Nat × Stamp)) : ∃ recs made late marks,
    (acceptAll h l).1 = { fadd (accsCounted (accsTaken h recs) made) F_AVE_ACC_COUNT_LATE late with
      ave := { (accsCounted (accsTaken h recs) made).ave with marks := marks } } := ⟨_, _, _, _, rfl⟩

theorem timedView_accsTaken (recs : Nat → List AccRec) : timedView (accsTaken h recs) = timedView h :=
  foldl_keeps timedView (fun h c => timedView_setCopy h c _) _ h

theorem timedView_accsCounted (made : List (Option Nat × Stamp)) : timedView (accsCounted h made) = timedView h := by
  refine foldl_keeps timedView (fun h a => ?_) _ h
  split
  · exact timedView_fadd _ (by decide) _ _ _
  · exact timedView_fadd _ (by decide) _ _ _

theorem timedView_acceptAll (l : Nat → List (Option Nat × Stamp)) : timedView (acceptAll h l).1 = timedView h := by
  obtain ⟨recs, made, late, marks, he⟩ := acceptAll_hw h l
  have hcount : timedView (fadd (accsCounted (accsTaken h recs) made) F_AVE_ACC_COUNT_LATE late) = timedView h := by
    rw [timedView_fadd _ (by decide), timedView_accsCounted, timedView_accsTaken]
  rw [he]
  exact hcount

theorem timedView_acceptInput : timedView (acceptInput h) = timedView h := by
  unfold acceptInput
  split
  · rfl
  · dsimp only
    rw [timedView_noteVote, timedView_acceptAll]

/-! ### The matrix in a gate cycle (R184 to R190, R201 to R204) -/

theorem timedView_setRaw (k n at5 : Nat) (v : Bool) : timedView (setRaw h k n at5 v) = timedView h := timedView_setCopy h k _

theorem timedView_driveOutputs (at5 : Nat) : timedView (driveOutputs h at5).1 = timedView h := rfl

theorem timedView_qualCopy (k at5 : Nat) : timedView (qualCopy h k at5).1 = timedView h := by
  unfold qualCopy
  dsimp only
  rw [timedView_setCopy]
  exact foldl_keeps timedView (fun h q => timedView_setRaw h k 16 _ _) _ h

theorem timedView_qualStage (at5 : Nat) : timedView (qualStage h at5) = timedView h := by
  unfold qualStage
  dsimp only
  rw [timedView_fadd _ (by decide), timedView_fadd _ (by decide), timedView_qualCopy, timedView_qualCopy, timedView_qualCopy]

theorem timedView_proofStage (c : Nat) : timedView (proofStage h c) = timedView h := by
  unfold proofStage
  exact foldl_keeps timedView (fun h p => foldl_keeps timedView (fun h c => timedView_setCopy h c _) _ h) _ h

theorem timedView_pinStage (c : Nat) : timedView (pinStage h c).1 = timedView h := by
  have hraw : ∀ n : Hw, timedView (copies.foldl (fun h k =>
      setRaw ((List.range 16).foldl (fun h m => setRaw h k m (5 * c) (bit (copyOf n k).out.tb m)) h) k 17 (5 * c) (copyOf n k).out.mo) n) = timedView n := fun n =>
    foldl_keeps timedView (fun h k => by
      rw [timedView_setRaw]
      exact foldl_keeps timedView (fun h m => timedView_setRaw h k m _ _) _ h) _ n
  unfold pinStage
  dsimp only
  split
  · refine (foldl_keeps timedView (fun h k => timedView_setCopy h k _) _ _).trans ?_
    exact (timedView_driveOutputs _ _).trans (hraw h)
  · exact (timedView_driveOutputs _ _).trans (hraw h)

theorem timedView_acceptStage : timedView (acceptStage h).1 = timedView h := by
  unfold acceptStage
  dsimp only
  refine (foldl_keeps timedView (fun h c => timedView_setCopy h c _) _ _).trans ((timedView_acceptAll _ _).trans ?_)
  exact foldl_keeps timedView (fun h n => timedView_fadd h (by decide) _ _ _) _ h

theorem timedView_matrixTick (c : Nat) : timedView (matrixTick h c) = timedView h := by
  unfold matrixTick
  dsimp only
  rw [timedView_noteVote]
  refine (foldl_keeps timedView (fun h k => timedView_setCopy h k _) _ _).trans ((timedView_acceptStage _).trans ?_)
  refine (foldl_keeps timedView (fun h k => timedView_setCopy h k _) _ _).trans ((timedView_pinStage _ _).trans ?_)
  rw [timedView_qualStage, timedView_proofStage]

theorem timedView_fifthStage (at5 : Nat) : timedView (fifthStage h at5) = timedView h := by
  unfold fifthStage
  dsimp only
  rw [timedView_noteVote, timedView_driveOutputs, timedView_qualStage]

theorem timedView_fifthsTo (last : Nat) : timedView (fifthsTo h last) = timedView h := by
  refine foldl_keeps timedView (fun h i => ?_) _ h
  split
  · exact timedView_fifthStage _ _
  · rfl

/-! ### Match tables (R178 to R181) -/

theorem timedView_countValid (g : Nat) : timedView (countValid h g) = timedView h := timedView_fset h (by decide) _ _ _

theorem timedView_mtChange (g a : Nat) (e : Nat → MtEntry) : timedView (mtChange h g a e) = timedView h := by
  unfold mtChange
  dsimp only
  rw [timedView_countValid]
  exact foldl_keeps timedView (fun h c => timedView_setMt h c _) _ _

theorem timedView_mtEnd (g seq code : Nat) : timedView (mtEnd h g seq code) = timedView h := by
  unfold mtEnd
  split
  · exact timedView_fset _ (by decide) _ _ _
  · rfl

theorem timedView_stage (g : Nat) (e : MtEntry) : timedView (stage h g e) = timedView h := by
  unfold stage
  simp (disch := decide) only [timedView_fset]

theorem timedView_mtDo (g : Nat) (op : MtOp) (a seq : Nat) : timedView (mtDo h g op a seq).1 = timedView h := by
  cases op with
  | write =>
    unfold mtDo
    dsimp only
    split
    · rfl
    · exact timedView_mtChange _ _ _ _
  | put e => exact timedView_mtChange _ _ _ _
  | invalidate =>
    unfold mtDo
    dsimp only
    split
    · rfl
    · exact timedView_mtChange _ _ _ _
  | read copy => exact timedView_stage _ _ _
  | insert =>
    unfold mtDo
    dsimp only
    split
    · rfl
    · split
      · rfl
      · dsimp only
        rw [timedView_fset _ (by decide), timedView_fset _ (by decide), timedView_setGate]

theorem timedView_insertTick (g : Nat) : timedView (insertTick h g) = timedView h := by
  unfold insertTick
  dsimp only
  split
  · rfl
  · split
    · rw [timedView_setGate, timedView_fset _ (by decide), timedView_mtChange]
    · split
      · rw [timedView_setGate, timedView_fset _ (by decide), timedView_mtChange]
      · rw [timedView_mtEnd, timedView_fset _ (by decide), timedView_fset _ (by decide), timedView_setGate]

theorem timedView_mtNext (g : Nat) : timedView (mtNext h g) = timedView h := by
  unfold mtNext
  split
  · rfl
  · dsimp only
    split
    · rw [timedView_mtEnd, timedView_mtDo, timedView_setGate]
    · rw [timedView_mtDo, timedView_setGate]

theorem timedView_mtTick (g : Nat) : timedView (mtTick h g) = timedView h := by
  unfold mtTick
  dsimp only
  split
  · rw [timedView_mtNext, timedView_insertTick]
  · exact timedView_insertTick _ _

/-! ### A commit that waits (R191, R192) -/

/-- With no shadow write waiting, none takes effect. -/
theorem timedView_flushShadow (hw : h.ave.waiting = []) : timedView (flushShadow h) = timedView h := by
  unfold flushShadow
  rw [hw]
  unfold timedView clockView
  rw [hw]
  rfl

/-- The active sets take the shadow set. -/
def setsTaken : Hw :=
  copies.foldl (fun n c =>
    let changed := (List.range 16).filter fun t => aget n c F_AVE_TB_CTRL_PRESCALE t != fget n F_AVE_TB_CTRL_PRESCALE 0 t
    let cp := copyOf n c
    let n := setAct (setCopy n c { cp with prescale := changed.foldl tdel cp.prescale }) c (h.regs.filter fun e => isShadow e.1)
    setCopy n c { copyOf n c with q := qualSteps n (aget n c F_AVE_GATE_EN_GATES) }) h

/-- GEN and Q of the new sets are shown. -/
def genShown : Hw :=
  let h := fset h F_AVE_STATUS_GEN (fget h F_AVE_STATUS_GEN + 1)
  fset h F_AVE_STATUS_QUAL_DELAY (maj (copyOf h 0).q (copyOf h 1).q (copyOf h 2).q)

/-- The commit is shown. -/
def commitShown : Hw :=
  let h := genShown h
  { fset h F_AVE_STATUS_COMMIT_PENDING 0 with ave := { h.ave with commitEdge := false } }

theorem applyCommit_eq : applyCommit h =
    flushShadow (commitShown (if fon (setsTaken h) F_TIMING_STATUS_LOCKED then noteFinal (setsTaken h) else setsTaken h)) := rfl

theorem timedView_setsTaken : timedView (setsTaken h) = timedView h :=
  foldl_keeps timedView (fun n c => by
    dsimp only
    rw [timedView_setCopy, timedView_setAct, timedView_setCopy]) _ h

theorem timedView_commitShown : timedView (commitShown h) = timedView h := by
  show timedView (fset (genShown h) F_AVE_STATUS_COMMIT_PENDING 0) = timedView h
  rw [timedView_fset _ (by decide), genShown, timedView_fset _ (by decide), timedView_fset _ (by decide)]

theorem timedView_applyCommit (hw : h.ave.waiting = []) : timedView (applyCommit h) = timedView h := by
  have hsets : timedView (if fon (setsTaken h) F_TIMING_STATUS_LOCKED then noteFinal (setsTaken h) else setsTaken h) = timedView h := by
    split
    · rw [timedView_noteFinal, timedView_setsTaken]
    · exact timedView_setsTaken h
  have hshown := (timedView_commitShown _).trans hsets
  rw [applyCommit_eq, timedView_flushShadow _ ((waiting_of_clockView (clockView_of_timed hshown)).trans hw), hshown]

theorem timedView_commitStage (hw : h.ave.waiting = []) : timedView (commitStage h) = timedView h := by
  unfold commitStage
  dsimp only
  split
  · split
    · rw [timedView_fset _ (by decide), timedView_applyCommit h hw]
    · exact timedView_applyCommit h hw
  · rfl

/-! ### Gate cycles pass (R166, R194, R204) -/

/-- The last moments of a gate cycle, and the commit at the begin of the next. -/
def cycleBegun (c : Nat) : Hw := commitStage (passTo (if fon h F_AVE_STATUS_RUNNING then fifthsTo h (5 * c - 1) else h) (64 * c))

/-- The match tables, and the exclusion of the new gate cycle. -/
def tablesTicked : Hw :=
  let h := (mtBusy h).foldl mtTick h
  { h with ave := { h.ave with off := fget h F_AVE_VOTE_COPY_OFF } }

/-- The matrix while Avenue runs, and the input stage. -/
def matrixTicked (c : Nat) : Hw :=
  let h := if fon h F_AVE_STATUS_RUNNING then matrixTick h c else h
  { h with ave := { h.ave with matchHist := (h.ave.matchIn :: h.ave.matchHist).take 2 } }

theorem aveTick_eq (c : Nat) : aveTick h c = matrixTicked (tablesTicked (cycleBegun h c)) c := by
  unfold aveTick matrixTicked tablesTicked cycleBegun
  rfl

theorem clockView_cycleBegun (c : Nat) (hw : h.ave.waiting = []) : clockView (cycleBegun h c) = clockView h := by
  have hpass : clockView (passTo (if fon h F_AVE_STATUS_RUNNING then fifthsTo h (5 * c - 1) else h) (64 * c)) = clockView h := by
    rw [clockView_passTo]
    split
    · exact clockView_of_timed (timedView_fifthsTo _ _)
    · rfl
  exact (clockView_of_timed (timedView_commitStage _ ((waiting_of_clockView hpass).trans hw))).trans hpass

theorem timedView_tablesTicked : timedView (tablesTicked h) = timedView h :=
  foldl_keeps timedView (fun h g => timedView_mtTick h g) (mtBusy h) h

theorem timedView_matrixTicked (c : Nat) : timedView (matrixTicked h c) = timedView h := by
  have htick : timedView (if fon h F_AVE_STATUS_RUNNING then matrixTick h c else h) = timedView h := by
    split
    · exact timedView_matrixTick h c
    · rfl
  exact htick

theorem clockView_aveTick (c : Nat) (hw : h.ave.waiting = []) : clockView (aveTick h c) = clockView h := by
  rw [aveTick_eq, clockView_of_timed (timedView_matrixTicked _ c), clockView_of_timed (timedView_tablesTicked _), clockView_cycleBegun h c hw]

theorem clockView_aveTicks (n c : Nat) (hw : h.ave.waiting = []) : clockView (aveTicks n c h) = clockView h := by
  induction n generalizing c h with
  | zero => rfl
  | succ n ih =>
    have htick := clockView_aveTick h c hw
    exact (ih (aveTick h c) (c + 1) ((waiting_of_clockView htick).trans hw)).trans htick

/-- Module time goes on, and the crossing clock stays as it is. -/
theorem clockView_runTo (t : Nat) (hw : h.ave.waiting = []) : clockView (runTo h t) = clockView h := by
  have hticks := clockView_aveTicks h (t / 64 - gateCycle h) (gateCycle h + 1) hw
  unfold runTo
  split
  · exact clockView_passTo h t
  · dsimp only
    rw [clockView_passTo]
    split
    · rw [clockView_of_timed (timedView_fifthStage _ _), clockView_of_timed (timedView_fifthsTo _ _), hticks]
    · exact hticks

theorem now_runTo (t : Nat) : (runTo h t).now = t := by
  have hpass : ∀ n : Hw, (passTo n t).now = t := fun n => congrArg Prod.snd (timedView_passTo n t)
  unfold runTo
  split
  · exact hpass _
  · exact hpass _

theorem timedView_noteEdge : timedView (noteEdge h) = timedView h := by
  unfold noteEdge
  split <;> rfl

/-! ### What a crossing causes (R80, R156, R177, R195, R197) -/

theorem timedView_scheduleMarkers : timedView (scheduleMarkers h) = timedView h := by
  refine foldl_keeps timedView (fun h g => ?_) _ h
  split
  · split <;> rfl
  · rfl

theorem timedView_startAvenue : timedView (startAvenue h) = timedView h :=
  (show timedView (startAvenue h) = timedView (fset h F_AVE_STATUS_RUNNING 1) from rfl).trans (timedView_fset h (by decide) _ _ _)

/-- Avenue starts at a TURN that it waits for. -/
def avenueStarts (turn : Bool) : Hw :=
  if turn && h.mod.aveWaitTurn && (modeNow h == 4 || modeNow h == 6) then startAvenue h else h

/-- A start that no stamp precedes is forgotten. -/
def startForgotten : Hw :=
  match h.tim.aveStart with
  | some a => if startPassed h a then { h with tim := { h.tim with aveStart := none } } else h
  | none => h

theorem crossingActs_eq (turn accept : Bool) : crossingActs h turn accept =
    if accept then acceptInput (startForgotten (noteFinal (avenueStarts (scheduleMarkers h) turn)))
    else startForgotten (noteFinal (avenueStarts (scheduleMarkers h) turn)) := rfl

theorem timedView_avenueStarts (turn : Bool) : timedView (avenueStarts h turn) = timedView h := by
  unfold avenueStarts
  split
  · exact timedView_startAvenue h
  · rfl

theorem timedView_startForgotten : timedView (startForgotten h) = timedView h := by
  unfold startForgotten
  split
  · split <;> rfl
  · rfl

theorem timedView_crossingActs (turn accept : Bool) : timedView (crossingActs h turn accept) = timedView h := by
  rw [crossingActs_eq]
  split
  · rw [timedView_acceptInput, timedView_startForgotten, timedView_noteFinal, timedView_avenueStarts, timedView_scheduleMarkers]
  · rw [timedView_startForgotten, timedView_noteFinal, timedView_avenueStarts, timedView_scheduleMarkers]

end

end Sys2Proof.Proofs


/-!
The crossing clock: an edge advances the crossing, a gain of lock sets it, and a gap loses the lock.
-/

namespace Sys2Proof.Proofs
open Sys2Proof Sys2Proof.Machine

/-! ### A CLK_X edge, as `clkEdge` composes it -/

/-- The edge comes more than 160 ns after the last one. -/
def edgeGap (h : Hw) (at64 : Nat) : Bool := match h.tim.edges with | e :: _ => decide (e + 16384 < max h.now at64) | [] => false

/-- Periods since the last TURN, with this one. -/
def edgeSince (h : Hw) (turn : Bool) : Option Nat :=
  if turn then some 0 else match h.tim.sinceTurn with
    | some k => if k < 1024 then some (k + 1) else none
    | none => none

/-- The edge joins those of the measurement. -/
def edgeNoted (h : Hw) (now : Nat) (since : Option Nat) : Hw :=
  { h with tim := { h.tim with edges := (now :: h.tim.edges).take 1025, sinceTurn := since } }

/-- The measurement and the time of a TURN are shown. -/
def edgeShown (h : Hw) (now : Nat) (since : Option Nat) (turn : Bool) : Hw :=
  let h := fset h F_TIMING_STATUS_PRESENT 1
  let h := fset h F_TIMING_STATUS_TURN_SEEN (b2n since.isSome)
  let h := fset h F_TIMING_STATUS_FREQ_OK (b2n (spanWithin h 50 == some true))
  if turn then fset (fset h F_TIMING_TURN_TIME_CYCLES (now / 64)) F_TIMING_TURN_TIME_FRACTION (now % 64) else h

/-- An edge while the clock is locked. -/
def edgeLocked (h : Hw) (turn accept : Bool) : Eff :=
  if spanWithin h 100 == some false then loseLock h
  else
    let r := advance h turn
    let m := if r.2.2 then { r.1 with tim := { r.1.tim with errTurn := r.2.1 } } else r.1
    if r.2.1 && r.1.tim.errTurn then loseLock m else { hw := crossingActs m turn accept }

/-- An edge without lock, which gains it where the conditions are met. -/
def edgeUnlocked (h : Hw) (since : Option Nat) (turn accept : Bool) : Eff :=
  match since with
  | some k => if spanWithin h 50 == some true then { hw := crossingActs (gainLock h k) turn accept } else { hw := h }
  | none => { hw := h }

/-- An edge, once module time has come to it. -/
def edgeCome (h : Hw) (now : Nat) (turn accept : Bool) : Eff :=
  let since := edgeSince h turn
  let h := edgeShown (edgeNoted h now since) now since turn
  if fon h F_TIMING_STATUS_LOCKED then edgeLocked h turn accept else edgeUnlocked h since turn accept

theorem clkEdge_eq (h : Hw) (at64 : Nat) (turn accept : Bool) : clkEdge h at64 turn accept =
    (if edgeGap h at64 then loseLock h else { hw := h }).bind fun h => edgeCome (noteEdge (runTo h (max h.now at64))) (max h.now at64) turn accept := by
  unfold clkEdge edgeCome
  rfl

theorem exec_clkXEdge {at64 : Nat} {s : State} (hgap : ∀ e, s.hw.tim.edges.head? = some e → max s.hw.now at64 ≤ e + 16384) (turn accept : Bool) :
    exec (.clkXEdge at64 turn accept) s =
      .next (s.act fun h _ => edgeCome (noteEdge (runTo h (max h.now at64))) (max h.now at64) turn accept) := by
  have hnone : edgeGap s.hw at64 = false := by
    unfold edgeGap
    cases hedges : s.hw.tim.edges with
    | nil => rfl
    | cons e l => exact decide_eq_false (Nat.not_lt.mpr (hgap e (by rw [hedges]; rfl)))
  show Host.Outcome.next (s.act fun h _ => clkEdge h at64 turn accept) = _
  simp only [State.act, clkEdge_eq, hnone, Bool.false_eq_true, if_false]
  rfl

/-! ### What an edge shows -/

def edgeShownIds : List Nat :=
  [F_TIMING_STATUS_PRESENT.id, F_TIMING_STATUS_TURN_SEEN.id, F_TIMING_STATUS_FREQ_OK.id, F_TIMING_TURN_TIME_CYCLES.id, F_TIMING_TURN_TIME_FRACTION.id]

theorem fget_edgeShown (h : Hw) (now : Nat) (since : Option Nat) (turn : Bool) {g : Field} (hg : g.id ∉ edgeShownIds) (i j : Nat) :
    fget (edgeShown h now since turn) g i j = fget h g i j := by
  simp only [edgeShownIds, List.mem_cons, List.not_mem_nil, or_false, not_or] at hg
  obtain ⟨hpresent, hseen, hfreq, hcycles, hfraction⟩ := hg
  unfold edgeShown
  dsimp only
  split
  · rw [fget_fset_id _ _ _ _ _ _ _ _ (Ne.symm hfraction), fget_fset_id _ _ _ _ _ _ _ _ (Ne.symm hcycles),
      fget_fset_id _ _ _ _ _ _ _ _ (Ne.symm hfreq), fget_fset_id _ _ _ _ _ _ _ _ (Ne.symm hseen), fget_fset_id _ _ _ _ _ _ _ _ (Ne.symm hpresent)]
  · rw [fget_fset_id _ _ _ _ _ _ _ _ (Ne.symm hfreq), fget_fset_id _ _ _ _ _ _ _ _ (Ne.symm hseen), fget_fset_id _ _ _ _ _ _ _ _ (Ne.symm hpresent)]

theorem edgeShown_present (h : Hw) (now : Nat) (since : Option Nat) (turn : Bool) : fget (edgeShown h now since turn) F_TIMING_STATUS_PRESENT = 1 := by
  unfold edgeShown
  dsimp only
  split <;> simp (disch := decide) only [fget_fset_id, fget_fset_same] <;> rfl

theorem edgeShown_cycles (h : Hw) (now : Nat) (since : Option Nat) :
    fget (edgeShown h now since true) F_TIMING_TURN_TIME_CYCLES = now / 64 % 2 ^ F_TIMING_TURN_TIME_CYCLES.width := by
  unfold edgeShown
  dsimp only
  rw [if_pos rfl, fget_fset_id _ _ _ _ _ _ _ _ (by decide), fget_fset_same]

theorem edgeShown_tim (h : Hw) (now : Nat) (since : Option Nat) (turn : Bool) : (edgeShown h now since turn).tim = h.tim := by
  unfold edgeShown
  dsimp only
  split <;> rfl

theorem edgeShown_now (h : Hw) (now : Nat) (since : Option Nat) (turn : Bool) : (edgeShown h now since turn).now = h.now := by
  unfold edgeShown
  dsimp only
  split <;> rfl

/-- The span of the periods follows from the edges and CLKX_HZ. -/
theorem spanWithin_of_eq {h h' : Hw} (he : h'.tim.edges = h.tim.edges) (hz : fget h' F_TIMING_CONFIG_CLKX_HZ = fget h F_TIMING_CONFIG_CLKX_HZ)
    (ppm : Nat) : spanWithin h' ppm = spanWithin h ppm := by
  unfold spanWithin
  rw [he, hz]

section
variable {at64 : Nat} {s : State}

/-- The state in which an edge comes. -/
def edgeAt (s : State) (at64 : Nat) : Hw := noteEdge (runTo s.hw (max s.hw.now at64))

/-- The edge is measured and shown. -/
def edgeTaken (s : State) (at64 : Nat) (turn : Bool) : Hw :=
  edgeShown (edgeNoted (edgeAt s at64) (max s.hw.now at64) (edgeSince (edgeAt s at64) turn)) (max s.hw.now at64) (edgeSince (edgeAt s at64) turn) turn

theorem clockView_edgeAt (hw : s.hw.ave.waiting = []) : clockView (edgeAt s at64) = clockView s.hw := by
  rw [edgeAt, clockView_of_timed (timedView_noteEdge _), clockView_runTo _ _ hw]

theorem edgeTaken_now (turn : Bool) : (edgeTaken s at64 turn).now = max s.hw.now at64 := by
  rw [edgeTaken, edgeShown_now]
  show (edgeAt s at64).now = _
  rw [edgeAt, now_of_timed (timedView_noteEdge _), now_runTo]

theorem fget_edgeTaken (hw : s.hw.ave.waiting = []) (turn : Bool) {f : Field} (hf : f ∈ timingFields) (hs : f.id ∉ edgeShownIds) :
    fget (edgeTaken s at64 turn) f = fget s.hw f := by
  rw [edgeTaken, fget_edgeShown _ _ _ _ hs]
  exact fget_of_clockView (clockView_edgeAt hw) hf

theorem fon_edgeTaken (hw : s.hw.ave.waiting = []) (turn : Bool) {f : Field} (hf : f ∈ timingFields) (hs : f.id ∉ edgeShownIds) :
    fon (edgeTaken s at64 turn) f = fon s.hw f := fon_eq_of_fget (fget_edgeTaken hw turn hf hs)

theorem perTurn_edgeTaken (hw : s.hw.ave.waiting = []) (turn : Bool) : perTurn (edgeTaken s at64 turn) = perTurn s.hw := by
  rw [perTurn, fget_edgeTaken hw turn (by decide) (by decide)]
  rfl

theorem edgeTaken_tim (turn : Bool) : (edgeTaken s at64 turn).tim =
    { (edgeAt s at64).tim with edges := (max s.hw.now at64 :: (edgeAt s at64).tim.edges).take 1025, sinceTurn := edgeSince (edgeAt s at64) turn } := by
  rw [edgeTaken, edgeShown_tim]
  rfl

theorem edgeTaken_errTurn (hw : s.hw.ave.waiting = []) (turn : Bool) : (edgeTaken s at64 turn).tim.errTurn = s.hw.tim.errTurn := by
  rw [edgeTaken_tim, ← errTurn_of_clockView (clockView_edgeAt (at64 := at64) hw)]

theorem edgeTaken_everLocked (hw : s.hw.ave.waiting = []) (turn : Bool) : (edgeTaken s at64 turn).tim.everLocked = s.hw.tim.everLocked := by
  rw [edgeTaken_tim, ← everLocked_of_clockView (clockView_edgeAt (at64 := at64) hw)]

/-- The span with this edge. -/
theorem spanWithin_edgeTaken (hw : s.hw.ave.waiting = []) (turn : Bool) (ppm : Nat) : spanWithin (edgeTaken s at64 turn) ppm =
    spanWithin { s.hw with tim := { s.hw.tim with edges := (max s.hw.now at64 :: s.hw.tim.edges).take 1025 } } ppm := by
  refine spanWithin_of_eq (h := { s.hw with tim := { s.hw.tim with edges := (max s.hw.now at64 :: s.hw.tim.edges).take 1025 } }) ?_ (fget_edgeTaken hw turn (by decide) (by decide)) ppm
  rw [edgeTaken_tim, ← edges_of_clockView (clockView_edgeAt (at64 := at64) hw)]

end

/-! ### The crossing advances (R164, R165) -/

/-- The turn count is set, or preset by ARM. -/
theorem setTurn_of_disarmed {h : Hw} (ha : fon h F_TIMING_TURN_SET_ARM = false) (v : Nat) : setTurn h v = fset h F_TIMING_TURN_TURN v := by
  simp only [setTurn, ha, Bool.false_eq_true, if_false]

/-- The crossings are numbered anew. -/
def finalCleared (h : Hw) : Hw := copies.foldl (fun h c => setCopy h c { copyOf h c with final := none }) h

theorem timedView_finalCleared (h : Hw) : timedView (finalCleared h) = timedView h := foldl_keeps timedView (fun h c => timedView_setCopy h c _) _ h

theorem setTurn_of_armed {h : Hw} (ha : fon h F_TIMING_TURN_SET_ARM = true) (v : Nat) : setTurn h v =
    fset (fset (finalCleared h) F_TIMING_TURN_TURN (fget (finalCleared h) F_TIMING_TURN_SET_VALUE)) F_TIMING_TURN_SET_ARM 0 := by
  simp only [setTurn, ha, if_true]
  rfl

theorem fget_setTurn (h : Hw) (v : Nat) {g : Field} (hg : g ∈ timingFields) (hn : g.id ∉ [F_TIMING_TURN_TURN.id, F_TIMING_TURN_SET_ARM.id]) :
    fget (setTurn h v) g = fget h g := by
  simp only [List.mem_cons, List.not_mem_nil, or_false, not_or] at hn
  unfold setTurn
  split
  · show fget (fset (fset (finalCleared h) F_TIMING_TURN_TURN (fget (finalCleared h) F_TIMING_TURN_SET_VALUE)) F_TIMING_TURN_SET_ARM 0) g = _
    rw [fget_fset_id _ _ _ _ _ _ _ _ (Ne.symm hn.2), fget_fset_id _ _ _ _ _ _ _ _ (Ne.symm hn.1),
      fget_of_clockView (clockView_of_timed (timedView_finalCleared h)) hg]
  · exact fget_fset_id _ _ _ _ _ _ _ _ (Ne.symm hn.1)

/-- The measurement and module time do not change with the turn count. -/
theorem setTurn_parts (h : Hw) (v : Nat) : (setTurn h v).tim.errTurn = h.tim.errTurn ∧ (setTurn h v).tim.everLocked = h.tim.everLocked ∧
    (setTurn h v).now = h.now := by
  have hnow := now_of_timed (timedView_finalCleared h)
  have hclock := clockView_of_timed (timedView_finalCleared h)
  have herr := errTurn_of_clockView hclock
  have hever := everLocked_of_clockView hclock
  by_cases ha : fon h F_TIMING_TURN_SET_ARM = true
  · rw [setTurn_of_armed ha]
    exact ⟨herr, hever, hnow⟩
  · rw [setTurn_of_disarmed (Bool.eq_false_iff.mpr ha)]
    exact ⟨rfl, rfl, rfl⟩

theorem setTurn_disarmed_turn {h : Hw} (ha : fon h F_TIMING_TURN_SET_ARM = false) (v : Nat) : fget (setTurn h v) F_TIMING_TURN_TURN = v % 2 ^ 32 := by
  rw [setTurn_of_disarmed ha, fget_fset_same]
  rfl

theorem setTurn_armed_turn {h : Hw} (ha : fon h F_TIMING_TURN_SET_ARM = true) (v : Nat) :
    fget (setTurn h v) F_TIMING_TURN_TURN = fget h F_TIMING_TURN_SET_VALUE % 2 ^ 32 ∧ fget (setTurn h v) F_TIMING_TURN_SET_ARM = 0 := by
  rw [setTurn_of_armed ha, fget_of_clockView (clockView_of_timed (timedView_finalCleared h)) (by decide : F_TIMING_TURN_SET_VALUE ∈ timingFields)]
  exact ⟨(fget_fset_id _ _ _ _ _ _ _ _ (by decide)).trans (fget_fset_same _ _ _ _ _), (fget_fset_same _ _ _ _ _).trans (by decide)⟩

/-- A TURN begins the crossings of a turn again. -/
def turnBegun (h : Hw) : Hw := setTurn (fset h F_TIMING_STATUS_CROSSING 0) (fget h F_TIMING_TURN_TURN + 1)

/-- The crossings wrap without a TURN. -/
def wrapped (h : Hw) : Hw := fset (fset h F_TIMING_STATUS_CROSSING 0) F_TIMING_TURN_TURN (fget h F_TIMING_TURN_TURN + 1)

theorem advance_counts {h : Hw} (hx : fget h F_TIMING_STATUS_CROSSING + 1 < perTurn h) :
    advance h false = (fset h F_TIMING_STATUS_CROSSING (fget h F_TIMING_STATUS_CROSSING + 1), false, false) := by
  simp only [advance, decide_eq_false (Nat.not_le.mpr hx), Bool.false_eq_true, if_false]

theorem advance_wraps {h : Hw} (hx : perTurn h ≤ fget h F_TIMING_STATUS_CROSSING + 1) :
    advance h false = (fadd (wrapped h) F_TIMING_STATUS_TURN_ERRS 1, true, true) := by
  simp only [advance, decide_eq_true hx, Bool.false_eq_true, if_false, if_true]
  rfl

theorem advance_turns {h : Hw} (hx : perTurn h ≤ fget h F_TIMING_STATUS_CROSSING + 1) : advance h true = (turnBegun h, false, true) := by
  simp only [advance, decide_eq_true hx, if_true]
  rfl

theorem advance_turns_early {h : Hw} (hx : fget h F_TIMING_STATUS_CROSSING + 1 < perTurn h) :
    advance h true = (fadd (turnBegun h) F_TIMING_STATUS_TURN_ERRS 1, true, true) := by
  simp only [advance, decide_eq_false (Nat.not_le.mpr hx), Bool.false_eq_true, if_false, if_true]
  rfl

def advanceIds : List Nat :=
  [F_TIMING_STATUS_CROSSING.id, F_TIMING_STATUS_TURN_ERRS.id, F_TIMING_TURN_TURN.id, F_TIMING_TURN_SET_ARM.id]

theorem fget_turnBegun (h : Hw) {g : Field} (hg : g ∈ timingFields)
    (hn : g.id ∉ [F_TIMING_STATUS_CROSSING.id, F_TIMING_TURN_TURN.id, F_TIMING_TURN_SET_ARM.id]) : fget (turnBegun h) g = fget h g := by
  rw [List.mem_cons, not_or] at hn
  rw [turnBegun, fget_setTurn _ _ hg hn.2, fget_fset_id _ _ _ _ _ _ _ _ (Ne.symm hn.1)]

theorem turnBegun_crossing (h : Hw) : fget (turnBegun h) F_TIMING_STATUS_CROSSING = 0 := by
  rw [turnBegun, fget_setTurn _ _ (by decide) (by decide), fget_fset_same]
  rfl

theorem turnBegun_arm (h : Hw) : fon (fset h F_TIMING_STATUS_CROSSING 0) F_TIMING_TURN_SET_ARM = fon h F_TIMING_TURN_SET_ARM :=
  fon_eq_of_fget (fget_fset_id _ _ _ _ _ _ _ _ (by decide))

/-- A TURN sets crossing and turn count, whether it comes early or not. -/
theorem fget_advance_turn (h : Hw) {g : Field} (hn : g.id ≠ F_TIMING_STATUS_TURN_ERRS.id) : fget (advance h true).1 g = fget (turnBegun h) g := by
  rcases Nat.lt_or_ge (fget h F_TIMING_STATUS_CROSSING + 1) (perTurn h) with hx | hx
  · rw [advance_turns_early hx]
    exact fget_fset_id _ _ _ _ _ _ _ _ (Ne.symm hn)
  · rw [advance_turns hx]

/-- What an advance does not touch. -/
theorem advance_keeps (h : Hw) (turn : Bool) : (advance h turn).1.tim.errTurn = h.tim.errTurn ∧ (advance h turn).1.now = h.now ∧
    ∀ g ∈ timingFields, g.id ∉ advanceIds → fget (advance h turn).1 g = fget h g := by
  obtain ⟨herr, -, hnow⟩ := setTurn_parts (fset h F_TIMING_STATUS_CROSSING 0) (fget h F_TIMING_TURN_TURN + 1)
  have hout : ∀ g : Field, g.id ∉ advanceIds → g.id ≠ F_TIMING_STATUS_CROSSING.id ∧ g.id ≠ F_TIMING_STATUS_TURN_ERRS.id ∧ g.id ≠ F_TIMING_TURN_TURN.id ∧
      g.id ≠ F_TIMING_TURN_SET_ARM.id := fun g hg => by
    simpa only [advanceIds, List.mem_cons, List.not_mem_nil, or_false, not_or] using hg
  have hbegun : ∀ g ∈ timingFields, g.id ∉ advanceIds → fget (turnBegun h) g = fget h g := fun g hg hn => by
    obtain ⟨hcross, -, hturn, harm⟩ := hout g hn
    exact fget_turnBegun h hg (by simp [hcross, hturn, harm])
  rcases Nat.lt_or_ge (fget h F_TIMING_STATUS_CROSSING + 1) (perTurn h) with hx | hx <;> cases turn
  · rw [advance_counts hx]
    exact ⟨rfl, rfl, fun g _ hn => fget_fset_id _ _ _ _ _ _ _ _ (Ne.symm (hout g hn).1)⟩
  · rw [advance_turns_early hx]
    exact ⟨herr, hnow, fun g hg hn => (fget_fset_id _ _ _ _ _ _ _ _ (Ne.symm (hout g hn).2.1)).trans (hbegun g hg hn)⟩
  · rw [advance_wraps hx]
    refine ⟨rfl, rfl, fun g _ hn => ?_⟩
    obtain ⟨hcross, herrs, hturn, -⟩ := hout g hn
    rw [fadd, fget_fset_id _ _ _ _ _ _ _ _ (Ne.symm herrs), wrapped, fget_fset_id _ _ _ _ _ _ _ _ (Ne.symm hturn),
      fget_fset_id _ _ _ _ _ _ _ _ (Ne.symm hcross)]
  · rw [advance_turns hx]
    exact ⟨herr, hnow, hbegun⟩

/-- An edge in lock, with a span near enough and no TURN error behind, advances the crossing; what the crossing causes leaves the clock
as it is. -/
theorem edgeLocked_advances {h : Hw} (hs : spanWithin h 100 ≠ some false) (he : h.tim.errTurn = false) (turn accept : Bool) :
    ∃ h', edgeLocked h turn accept = { hw := h' } ∧ h'.now = h.now ∧ ∀ f ∈ timingFields, fget h' f = fget (advance h turn).1 f := by
  obtain ⟨herr, hnow, -⟩ := advance_keeps h turn
  generalize hm : (if (advance h turn).2.2 then { (advance h turn).1 with tim := { (advance h turn).1.tim with errTurn := (advance h turn).2.1 } }
    else (advance h turn).1 : Hw) = m
  have hmnow : m.now = h.now := by
    rw [← hm, ← hnow]
    split <;> rfl
  have hmregs : m.regs = (advance h turn).1.regs := by
    rw [← hm]
    split <;> rfl
  have hacts := timedView_crossingActs m turn accept
  refine ⟨crossingActs m turn accept, ?_, (now_of_timed hacts).trans hmnow, fun f hf => ?_⟩
  · simp only [edgeLocked, beq_eq_false_iff_ne.mpr hs, herr, he, Bool.and_false, Bool.false_eq_true, if_false, hm]
  · rw [fget_of_clockView (clockView_of_timed hacts) hf, fget_upd_regs hmregs]

section
variable (at64 : Nat) (accept : Bool) (s : State)

theorem clkXEdge_counts (turn : Bool) (hl : fon s.hw F_TIMING_STATUS_LOCKED = true) (hw : s.hw.ave.waiting = [])
    (hgap : ∀ e, s.hw.tim.edges.head? = some e → max s.hw.now at64 ≤ e + 16384)
    (hspan : spanWithin { s.hw with tim := { s.hw.tim with edges := (max s.hw.now at64 :: s.hw.tim.edges).take 1025 } } 100 ≠ some false)
    (herr : s.hw.tim.errTurn = false) :
    let n := max s.hw.now at64
    let x := fget s.hw F_TIMING_STATUS_CROSSING + 1
    let v := fget s.hw F_TIMING_TURN_TURN + 1
    yields (.clkXEdge at64 turn accept) s fun t =>
      t.hw.now = n ∧ fon t.hw F_TIMING_STATUS_LOCKED = true ∧ fget t.hw F_TIMING_STATUS_PRESENT = 1 ∧ sameMemory s t ∧
      (turn = false → x < perTurn s.hw → fget t.hw F_TIMING_STATUS_CROSSING = x % 2 ^ 16 ∧
        fget t.hw F_TIMING_TURN_TURN = fget s.hw F_TIMING_TURN_TURN ∧ fget t.hw F_TIMING_STATUS_TURN_ERRS = fget s.hw F_TIMING_STATUS_TURN_ERRS) ∧
      (turn = false → perTurn s.hw ≤ x → fget t.hw F_TIMING_STATUS_CROSSING = 0 ∧ fget t.hw F_TIMING_TURN_TURN = v % 2 ^ 32 ∧
        fget t.hw F_TIMING_STATUS_TURN_ERRS = min (fget s.hw F_TIMING_STATUS_TURN_ERRS + 1) (2 ^ 16 - 1)) ∧
      (turn = true → fget t.hw F_TIMING_STATUS_CROSSING = 0 ∧ fget t.hw F_TIMING_TURN_TIME_CYCLES = n / 64 % 2 ^ F_TIMING_TURN_TIME_CYCLES.width ∧
        (fon s.hw F_TIMING_TURN_SET_ARM = false → fget t.hw F_TIMING_TURN_TURN = v % 2 ^ 32) ∧
        (fon s.hw F_TIMING_TURN_SET_ARM = true → fget t.hw F_TIMING_TURN_TURN = fget s.hw F_TIMING_TURN_SET_VALUE % 2 ^ 32 ∧
          fget t.hw F_TIMING_TURN_SET_ARM = 0) ∧
        (perTurn s.hw ≤ x → fget t.hw F_TIMING_STATUS_TURN_ERRS = fget s.hw F_TIMING_STATUS_TURN_ERRS) ∧
        (x < perTurn s.hw → fget t.hw F_TIMING_STATUS_TURN_ERRS = min (fget s.hw F_TIMING_STATUS_TURN_ERRS + 1) (2 ^ 16 - 1))) := by
  intro n x v
  generalize hm : edgeTaken s at64 turn = m
  have hlocked : fon m F_TIMING_STATUS_LOCKED = true := by rw [← hm, fon_edgeTaken hw turn (by decide) (by decide)]; exact hl
  have hcross : fget m F_TIMING_STATUS_CROSSING = fget s.hw F_TIMING_STATUS_CROSSING := by rw [← hm]; exact fget_edgeTaken hw turn (by decide) (by decide)
  have hturn : fget m F_TIMING_TURN_TURN = fget s.hw F_TIMING_TURN_TURN := by rw [← hm]; exact fget_edgeTaken hw turn (by decide) (by decide)
  have herrs : fget m F_TIMING_STATUS_TURN_ERRS = fget s.hw F_TIMING_STATUS_TURN_ERRS := by
    rw [← hm]; exact fget_edgeTaken hw turn (by decide) (by decide)
  have hvalue : fget m F_TIMING_TURN_SET_VALUE = fget s.hw F_TIMING_TURN_SET_VALUE := by
    rw [← hm]; exact fget_edgeTaken hw turn (by decide) (by decide)
  have harm : fon m F_TIMING_TURN_SET_ARM = fon s.hw F_TIMING_TURN_SET_ARM := by rw [← hm]; exact fon_edgeTaken hw turn (by decide) (by decide)
  have hper : perTurn m = perTurn s.hw := by rw [← hm, perTurn_edgeTaken hw]
  obtain ⟨h', hedge, hnow, hfields⟩ := edgeLocked_advances (h := m) (by rw [← hm, spanWithin_edgeTaken hw]; exact hspan)
    (by rw [← hm, edgeTaken_errTurn hw]; exact herr) turn accept
  have hcome : edgeCome (edgeAt s at64) n turn accept = { hw := h' } := by
    rw [← hedge, ← hm]
    exact if_pos (show fon (edgeTaken s at64 turn) F_TIMING_STATUS_LOCKED = true by rw [hm]; exact hlocked)
  obtain ⟨-, -, hkept⟩ := advance_keeps m turn
  refine ⟨_, exec_clkXEdge hgap turn accept, ?_⟩
  simp only [State.act]
  rw [show edgeCome (noteEdge (runTo s.hw (max s.hw.now at64))) (max s.hw.now at64) turn accept = { hw := h' } from hcome]
  refine ⟨?_, ?_, ?_, ⟨State.land_nil s, rfl⟩, ?_, ?_, ?_⟩
  · rw [hnow, ← hm, edgeTaken_now]
  · rw [← hlocked]
    exact fon_eq_of_fget ((hfields _ (by decide)).trans (hkept _ (by decide) (by decide)))
  · rw [hfields _ (by decide), hkept _ (by decide) (by decide), ← hm, edgeTaken, edgeShown_present]
  · rintro rfl hx
    rw [hfields _ (by decide), hfields _ (by decide), hfields _ (by decide), advance_counts (by rw [hcross, hper]; exact hx)]
    dsimp only
    refine ⟨?_, ?_, ?_⟩
    · rw [fget_fset_same, hcross]; rfl
    · rw [fget_fset_id _ _ _ _ _ _ _ _ (by decide), hturn]
    · rw [fget_fset_id _ _ _ _ _ _ _ _ (by decide), herrs]
  · rintro rfl hx
    rw [hfields _ (by decide), hfields _ (by decide), hfields _ (by decide), advance_wraps (by rw [hcross, hper]; exact hx)]
    dsimp only
    refine ⟨?_, ?_, ?_⟩
    · rw [fadd, fget_fset_id _ _ _ _ _ _ _ _ (by decide), wrapped, fget_fset_id _ _ _ _ _ _ _ _ (by decide), fget_fset_same]
      rfl
    · rw [fadd, fget_fset_id _ _ _ _ _ _ _ _ (by decide), wrapped, fget_fset_same, hturn]
      rfl
    · rw [fget_fadd_same, wrapped, fget_fset_id _ _ _ _ _ _ _ _ (by decide), fget_fset_id _ _ _ _ _ _ _ _ (by decide), herrs]
      rfl
  · rintro rfl
    refine ⟨?_, ?_, fun ha => ?_, fun ha => ⟨?_, ?_⟩, fun hx => ?_, fun hx => ?_⟩
    · rw [hfields _ (by decide), fget_advance_turn _ (by decide), turnBegun_crossing]
    · rw [hfields _ (by decide), hkept _ (by decide) (by decide), ← hm, edgeTaken, edgeShown_cycles]
    · rw [hfields _ (by decide), fget_advance_turn _ (by decide), turnBegun, setTurn_disarmed_turn (by rw [turnBegun_arm, harm]; exact ha), hturn]
    · rw [hfields _ (by decide), fget_advance_turn _ (by decide), turnBegun,
        (setTurn_armed_turn (by rw [turnBegun_arm, harm]; exact ha) _).1, fget_fset_id _ _ _ _ _ _ _ _ (by decide), hvalue]
    · rw [hfields _ (by decide), fget_advance_turn _ (by decide), turnBegun, (setTurn_armed_turn (by rw [turnBegun_arm, harm]; exact ha) _).2]
    · rw [hfields _ (by decide), advance_turns (by rw [hcross, hper]; exact hx), fget_turnBegun _ (by decide) (by decide), herrs]
    · rw [hfields _ (by decide), advance_turns_early (by rw [hcross, hper]; exact hx), fget_fadd_same, fget_turnBegun _ (by decide) (by decide), herrs]
      rfl

/-! ### A gain of lock (R163, R165) -/

/-- Crossing and turn count at a gain of lock. -/
def lockCounted (h : Hw) (k : Nat) : Hw :=
  let n := fset h F_TIMING_STATUS_CROSSING (k % perTurn h)
  setTurn n (if n.tim.everLocked then fget n F_TIMING_TURN_TURN + 1 else 0)

theorem gainLock_fields {h : Hw} (ha : fon h F_TIMING_TURN_SET_ARM = false) (k : Nat) : fget (gainLock h k) F_TIMING_STATUS_LOCKED = 1 ∧
    fget (gainLock h k) F_TIMING_STATUS_CROSSING = k % perTurn h % 2 ^ 16 ∧
    fget (gainLock h k) F_TIMING_TURN_TURN = (if h.tim.everLocked then (fget h F_TIMING_TURN_TURN + 1) % 2 ^ 32 else 0) := by
  have hturn : fget (fset h F_TIMING_STATUS_CROSSING (k % perTurn h)) F_TIMING_TURN_TURN = fget h F_TIMING_TURN_TURN := fget_fset_id _ _ _ _ _ _ _ _ (by decide)
  have hgain : ∀ g : Field, F_MODE_STATUS_PERMITTED.id ≠ g.id → F_TIMING_STATUS_LOCKED.id ≠ g.id → fget (gainLock h k) g = fget (lockCounted h k) g := fun g hp hl => by
    rw [gainLock, fget_refreshPermitted _ hp, fget_fset_id _ _ _ _ _ _ _ _ hl]
    rfl
  refine ⟨?_, ?_, ?_⟩
  · rw [gainLock, fget_refreshPermitted _ (by decide), fget_fset_same]
    rfl
  · rw [hgain _ (by decide) (by decide), lockCounted, fget_setTurn _ _ (by decide) (by decide), fget_fset_same]
    rfl
  · rw [hgain _ (by decide) (by decide), lockCounted, setTurn_disarmed_turn ((fon_eq_of_fget (fget_fset_id _ _ _ _ _ _ _ _ (by decide))).trans ha), hturn]
    show (if h.tim.everLocked then _ else _ : Nat) % 2 ^ 32 = _
    split <;> rfl

theorem clkXEdge_gains_lock (k : Nat) (hl : fon s.hw F_TIMING_STATUS_LOCKED = false) (hw : s.hw.ave.waiting = [])
    (hgap : ∀ e, s.hw.tim.edges.head? = some e → max s.hw.now at64 ≤ e + 16384)
    (hspan : spanWithin { s.hw with tim := { s.hw.tim with edges := (max s.hw.now at64 :: s.hw.tim.edges).take 1025 } } 50 = some true)
    (hsince : s.hw.tim.sinceTurn = some k) (hk : k < 1024) (ha : fon s.hw F_TIMING_TURN_SET_ARM = false) :
    yields (.clkXEdge at64 false accept) s fun t =>
      fon t.hw F_TIMING_STATUS_LOCKED = true ∧ fget t.hw F_TIMING_STATUS_CROSSING = (k + 1) % perTurn s.hw % 2 ^ 16 ∧
      fget t.hw F_TIMING_TURN_TURN = (if s.hw.tim.everLocked then (fget s.hw F_TIMING_TURN_TURN + 1) % 2 ^ 32 else 0) ∧
      t.hw.tim.everLocked = true ∧ sameMemory s t := by
  have hnext : edgeSince (edgeAt s at64) false = some (k + 1) := by
    unfold edgeSince
    rw [sinceTurn_of_clockView (clockView_edgeAt hw), hsince]
    exact if_pos hk
  generalize hm : edgeTaken s at64 false = m
  have hlocked : ¬ fon m F_TIMING_STATUS_LOCKED = true := by rw [← hm, fon_edgeTaken hw false (by decide) (by decide), hl]; decide
  have harm : fon m F_TIMING_TURN_SET_ARM = false := by rw [← hm, fon_edgeTaken hw false (by decide) (by decide)]; exact ha
  have hturn : fget m F_TIMING_TURN_TURN = fget s.hw F_TIMING_TURN_TURN := by rw [← hm]; exact fget_edgeTaken hw false (by decide) (by decide)
  have hper : perTurn m = perTurn s.hw := by rw [← hm, perTurn_edgeTaken hw]
  have hever : m.tim.everLocked = s.hw.tim.everLocked := by rw [← hm, edgeTaken_everLocked hw]
  have hnear : (spanWithin m 50 == some true) = true := by rw [← hm, spanWithin_edgeTaken hw, hspan]; rfl
  have hcome : edgeCome (edgeAt s at64) (max s.hw.now at64) false accept = { hw := crossingActs (gainLock m (k + 1)) false accept } := by
    have hdown : edgeCome (edgeAt s at64) (max s.hw.now at64) false accept = edgeUnlocked (edgeTaken s at64 false) (edgeSince (edgeAt s at64) false) false accept :=
      if_neg (show ¬ fon (edgeTaken s at64 false) F_TIMING_STATUS_LOCKED = true by rw [hm]; exact hlocked)
    rw [hdown, hnext, hm]
    exact if_pos hnear
  have hacts := clockView_of_timed (timedView_crossingActs (gainLock m (k + 1)) false accept)
  obtain ⟨hgained, hcross, hcount⟩ := gainLock_fields harm (k + 1)
  refine ⟨_, exec_clkXEdge hgap false accept, ?_⟩
  simp only [State.act]
  rw [show edgeCome (noteEdge (runTo s.hw (max s.hw.now at64))) (max s.hw.now at64) false accept =
    { hw := crossingActs (gainLock m (k + 1)) false accept } from hcome]
  refine ⟨?_, ?_, ?_, everLocked_of_clockView hacts, State.land_nil s, rfl⟩
  · dsimp only
    rw [fon, fget_of_clockView hacts (by decide), hgained]
    rfl
  · rw [fget_of_clockView hacts (by decide), hcross, hper]
  · rw [fget_of_clockView hacts (by decide), hcount, hever, hturn]

end



/-! ### A gap (R63, R73, R163) -/

section
variable (h : Hw)

/-! The entry to M7 leaves the crossing clock as it is. -/

theorem timedView_holdEngines (on : Bool) : timedView (holdEngines h on) = timedView h :=
  foldl_keeps timedView (fun h q => timedView_fset h (by decide) _ _ _) _ h

theorem timedView_runGates (on : Bool) : timedView (runGates h on) = timedView h :=
  foldl_keeps timedView (fun h g => timedView_fset h (by decide) _ _ _) _ h

theorem timedView_keepFromRunning : timedView (keepFromRunning h) = timedView h :=
  foldl_keeps timedView (fun h p => by
    split
    · exact timedView_fset h (by decide) _ _ _
    · rfl) _ h

theorem timedView_containHeld (temp : Bool) : timedView (containHeld h temp) = timedView h := by
  unfold containHeld
  dsimp only
  simp (disch := decide) only [timedView_runGates, timedView_holdEngines, timedView_fset]

theorem timedView_stopAvenue : timedView (stopAvenue h) = timedView h :=
  (show timedView (stopAvenue h) = timedView (fset h F_AVE_STATUS_RUNNING 0) from rfl).trans (timedView_fset h (by decide) _ _ _)

theorem timedView_contained (cause : ContainCause) : timedView (contained h cause) = timedView h := by
  unfold contained
  dsimp only
  split
  · rw [timedView_stopAvenue, timedView_raiseSource, timedView_keepFromRunning, timedView_containHeld]
  · rw [timedView_raiseSource, timedView_keepFromRunning, timedView_containHeld]

theorem timedView_causeNoted (cause : ContainCause) : timedView (causeNoted h cause) = timedView h := rfl

theorem timedView_fatalRecorded (block inst code d0 : Nat) (cause : ContainCause) :
    timedView (fatalRecorded h block inst code d0 cause) = timedView h := timedView_logRec _ _

end

/-- Without power for M7 a fatal error is recorded, and no more. -/
theorem fatal_stays {h : Hw} (block inst code d0 : Nat) (cause : ContainCause) (hv : bit h.sup.voltOk 7 = false) :
    fatal h block inst code d0 cause [] = { hw := fatalRecorded h block inst code d0 cause } := by
  have hsup : (fatalRecorded h block inst code d0 cause).sup = h.sup := logCode_sup _ _ _ _ _ _ _ _
  have hstays : (decide (modeNow (fatalRecorded h block inst code d0 cause) < 2) || !bit (fatalRecorded h block inst code d0 cause).sup.voltOk 7) = true := by
    rw [hsup, hv, Bool.not_false, Bool.or_true]
  exact if_pos hstays

/-- The measurement begins afresh. -/
def measureCleared (h : Hw) : Hw :=
  fset (fset { h with tim := { h.tim with edges := [], sinceTurn := none, errTurn := false } } F_TIMING_STATUS_FREQ_OK 0) F_TIMING_STATUS_TURN_SEEN 0

/-- The loss is counted, and M4 and M6 cease to be permitted. -/
def lossNoted (h : Hw) : Hw := refreshPermitted (fadd (fset h F_TIMING_STATUS_LOCKED 0) F_TIMING_STATUS_LOCK_LOSSES 1)

/-- Markers cease. -/
def markersCleared (h : Hw) : Hw :=
  (List.range 64).foldl (fun h g => if (gateOf h g).markers.isEmpty then h else setGate h g { gateOf h g with markers := [] }) h

/-- The clock without lock. -/
def unlocked (h : Hw) : Hw := markersCleared (lossNoted (measureCleared h))

theorem loseLock_eq (h : Hw) : loseLock h =
    if fon (measureCleared h) F_TIMING_STATUS_LOCKED then
      if modeNow (unlocked h) == 4 || modeNow (unlocked h) == 6 then
        fatal (unlocked h) blkTiming 0 (R_TIMING_STATUS.offset 0) (regVal (unlocked h) R_TIMING_STATUS) .clkxLock []
      else { hw := unlocked h }
    else { hw := measureCleared h } := rfl

/-- What no change of a gate touches, the end of its markers does not touch. -/
theorem markersCleared_keeps {β : Type} (p : Hw → β) (hp : ∀ h g v, p (setGate h g v) = p h) (h : Hw) : p (markersCleared h) = p h :=
  foldl_keeps p (fun h g => by
    split
    · rfl
    · exact hp _ _ _) _ h

theorem fget_measureCleared (h : Hw) {g : Field} (hf : g.id ≠ F_TIMING_STATUS_FREQ_OK.id) (ht : g.id ≠ F_TIMING_STATUS_TURN_SEEN.id) :
    fget (measureCleared h) g = fget h g := by
  rw [measureCleared, fget_fset_id _ _ _ _ _ _ _ _ (Ne.symm ht), fget_fset_id _ _ _ _ _ _ _ _ (Ne.symm hf)]
  rfl

theorem measureCleared_shown (h : Hw) : fget (measureCleared h) F_TIMING_STATUS_FREQ_OK = 0 ∧ fget (measureCleared h) F_TIMING_STATUS_TURN_SEEN = 0 := by
  unfold measureCleared
  exact ⟨(fget_fset_id _ _ _ _ _ _ _ _ (by decide)).trans (fget_fset_same _ _ _ _ _), fget_fset_same _ _ _ _ _⟩

theorem fget_markersCleared (h : Hw) (g : Field) : fget (markersCleared h) g = fget h g := markersCleared_keeps (fun h => fget h g) (fun _ _ _ => rfl) h

theorem fget_unlocked (h : Hw) {g : Field} (hg : g.id ∉ [F_TIMING_STATUS_LOCKED.id, F_TIMING_STATUS_LOCK_LOSSES.id, F_MODE_STATUS_PERMITTED.id]) :
    fget (unlocked h) g = fget (measureCleared h) g := by
  simp only [List.mem_cons, List.not_mem_nil, or_false, not_or] at hg
  obtain ⟨hlock, hloss, hperm⟩ := hg
  rw [unlocked, fget_markersCleared, lossNoted, fget_refreshPermitted _ (Ne.symm hperm), fadd, fget_fset_id _ _ _ _ _ _ _ _ (Ne.symm hloss),
    fget_fset_id _ _ _ _ _ _ _ _ (Ne.symm hlock)]

theorem unlocked_locked (h : Hw) : fget (unlocked h) F_TIMING_STATUS_LOCKED = 0 := by
  rw [unlocked, fget_markersCleared, lossNoted, fget_refreshPermitted _ (by decide), fadd, fget_fset_id _ _ _ _ _ _ _ _ (by decide), fget_fset_same]
  rfl

theorem unlocked_losses (h : Hw) : fget (unlocked h) F_TIMING_STATUS_LOCK_LOSSES = min (fget h F_TIMING_STATUS_LOCK_LOSSES + 1) (2 ^ 16 - 1) := by
  rw [unlocked, fget_markersCleared, lossNoted, fget_refreshPermitted _ (by decide), fget_fadd_same, fget_fset_id _ _ _ _ _ _ _ _ (by decide),
    fget_measureCleared _ (by decide) (by decide)]
  rfl

theorem unlocked_permits (h : Hw) {m : Nat} (hm : m = 4 ∨ m = 6) : permitted (unlocked h) m = false := by
  have hlost : fon (fadd (fset (measureCleared h) F_TIMING_STATUS_LOCKED 0) F_TIMING_STATUS_LOCK_LOSSES 1) F_TIMING_STATUS_LOCKED = false := by
    refine fon_eq_false_of_zero ?_
    rw [fadd, fget_fset_id _ _ _ _ _ _ _ _ (by decide), fget_fset_same]
    rfl
  have hsame : permitted (unlocked h) m = permitted (lossNoted (measureCleared h)) m := by
    unfold permitted
    rw [unlocked, fget_markersCleared]
  rw [hsame, Bool.eq_false_iff]
  intro hperm
  have hlocked := ((permitted_refreshPermitted _ (by omega)).mp hperm).2 hm
  rw [hlost] at hlocked
  exact absurd hlocked (by decide)

theorem unlocked_sup (h : Hw) : (unlocked h).sup = h.sup := markersCleared_keeps Hw.sup (fun _ _ _ => rfl) _

theorem unlocked_tim (h : Hw) : (unlocked h).tim = { h.tim with edges := [], sinceTurn := none, errTurn := false } :=
  markersCleared_keeps Hw.tim (fun _ _ _ => rfl) _

theorem modeNow_unlocked (h : Hw) : modeNow (unlocked h) = modeNow h := by
  rw [modeNow, fget_unlocked _ (by decide), fget_measureCleared _ (by decide) (by decide)]
  rfl

/-- A loss of lock in M4 or M6 is fatal: the module is in M7 where the voltage permits it. -/
theorem loseLock_locked {h : Hw} (hl : fon h F_TIMING_STATUS_LOCKED = true) (hin : fon h F_MODE_STATUS_IN_TRANSITION = false) :
    clockView (loseLock h).hw = clockView (unlocked h) ∧ (loseLock h).ops = [] ∧
    ((modeNow h = 4 ∨ modeNow h = 6) → bit h.sup.voltOk 7 = true → modeNow (loseLock h).hw = 7 ∧ fget (loseLock h).hw F_AVE_STATUS_RUNNING = 0) ∧
    (modeNow h ≠ 4 → modeNow h ≠ 6 → modeNow (loseLock h).hw = modeNow h) := by
  have hlocked : fon (measureCleared h) F_TIMING_STATUS_LOCKED = true := (fon_eq_of_fget (fget_measureCleared h (by decide) (by decide))).trans hl
  have hmode := modeNow_unlocked h
  have htrans : fon (unlocked h) F_MODE_STATUS_IN_TRANSITION = false := by
    rw [← hin]
    refine fon_eq_of_fget ?_
    rw [fget_unlocked _ (by decide), fget_measureCleared _ (by decide) (by decide)]
  rw [loseLock_eq, if_pos hlocked, hmode]
  generalize R_TIMING_STATUS.offset 0 = code, regVal (unlocked h) R_TIMING_STATUS = d0
  have hrecord := clockView_of_timed (timedView_fatalRecorded (unlocked h) blkTiming 0 code d0 .clkxLock)
  by_cases hfatal : modeNow h = 4 ∨ modeNow h = 6
  · have hcond : (modeNow h == 4 || modeNow h == 6) = true := by rw [Bool.or_eq_true, beq_iff_eq, beq_iff_eq]; exact hfatal
    rw [if_pos hcond]
    by_cases hv : bit h.sup.voltOk 7 = true
    · rw [fatal_enters _ _ _ _ _ (by omega) (by omega) (by rw [unlocked_sup]; exact hv) htrans]
      dsimp only
      refine ⟨?_, rfl, fun _ _ => ⟨contained_mode _ _, contained_stops _ rfl⟩, fun h4 h6 => absurd hfatal (by omega)⟩
      rw [clockView_of_timed (timedView_contained _ _), clockView_of_timed (timedView_causeNoted _ _), hrecord]
    · rw [fatal_stays _ _ _ _ _ (by rw [unlocked_sup]; exact Bool.eq_false_iff.mpr hv)]
      dsimp only
      exact ⟨hrecord, rfl, fun _ hv' => absurd hv' hv, fun h4 h6 => absurd hfatal (by omega)⟩
  · have hcond : ¬ (modeNow h == 4 || modeNow h == 6) = true := by rw [Bool.or_eq_true, beq_iff_eq, beq_iff_eq]; exact hfatal
    rw [if_neg hcond]
    dsimp only
    exact ⟨rfl, rfl, fun hf => absurd hf hfatal, fun _ _ => hmode⟩

theorem loseLock_unlocked {h : Hw} (hl : fon h F_TIMING_STATUS_LOCKED = false) : loseLock h = { hw := measureCleared h } := by
  have hlocked : ¬ fon (measureCleared h) F_TIMING_STATUS_LOCKED = true := by
    rw [fon_eq_of_fget (fget_measureCleared h (by decide) (by decide)), hl]
    decide
  rw [loseLock_eq, if_neg hlocked]

theorem clkXGap_loses_lock (s : State) (hin : fon s.hw F_MODE_STATUS_IN_TRANSITION = false) : yields .clkXGap s fun t =>
    fget t.hw F_TIMING_STATUS_PRESENT = 0 ∧ fon t.hw F_TIMING_STATUS_LOCKED = false ∧ fget t.hw F_TIMING_STATUS_FREQ_OK = 0 ∧
    fget t.hw F_TIMING_STATUS_TURN_SEEN = 0 ∧ t.hw.tim.edges = [] ∧ t.hw.tim.sinceTurn = none ∧ sameMemory s t ∧
    (fon s.hw F_TIMING_STATUS_LOCKED = true →
      fget t.hw F_TIMING_STATUS_LOCK_LOSSES = min (fget s.hw F_TIMING_STATUS_LOCK_LOSSES + 1) (2 ^ 16 - 1) ∧
      permitted t.hw 4 = false ∧ permitted t.hw 6 = false ∧
      ((modeNow s.hw = 4 ∨ modeNow s.hw = 6) → bit s.hw.sup.voltOk 7 = true → modeNow t.hw = 7 ∧ fget t.hw F_AVE_STATUS_RUNNING = 0) ∧
      (modeNow s.hw ≠ 4 → modeNow s.hw ≠ 6 → modeNow t.hw = modeNow s.hw)) ∧
    (fon s.hw F_TIMING_STATUS_LOCKED = false → modeNow t.hw = modeNow s.hw ∧
      fget t.hw F_TIMING_STATUS_LOCK_LOSSES = fget s.hw F_TIMING_STATUS_LOCK_LOSSES) := by
  generalize hn : fset s.hw F_TIMING_STATUS_PRESENT 0 = n
  have hout : ∀ {g : Field}, F_TIMING_STATUS_PRESENT.id ≠ g.id → fget n g = fget s.hw g := fun hg => by rw [← hn]; exact fget_fset_id _ _ _ _ _ _ _ _ hg
  have hpresent : fget n F_TIMING_STATUS_PRESENT = 0 := by rw [← hn, fget_fset_same]; rfl
  have hmode : modeNow n = modeNow s.hw := hout (by decide)
  have hlocked : fon n F_TIMING_STATUS_LOCKED = fon s.hw F_TIMING_STATUS_LOCKED := fon_eq_of_fget (hout (by decide))
  have hsup : n.sup = s.hw.sup := by rw [← hn]; rfl
  obtain ⟨hfreq, hseen⟩ := measureCleared_shown n
  have hgone : fget (measureCleared n) F_TIMING_STATUS_PRESENT = 0 := by rw [fget_measureCleared _ (by decide) (by decide), hpresent]
  have hexec : exec .clkXGap s = .next (s.act fun _ _ => loseLock n) := by rw [← hn]; rfl
  refine ⟨_, hexec, ?_⟩
  simp only [State.act]
  by_cases hl : fon s.hw F_TIMING_STATUS_LOCKED = true
  · obtain ⟨hview, hops, hfatal, hother⟩ := loseLock_locked (h := n) (hlocked.trans hl) ((fon_eq_of_fget (hout (by decide))).trans hin)
    rw [hmode, hsup] at hfatal
    rw [hmode] at hother
    have hread : ∀ {g : Field}, g ∈ timingFields → fget (loseLock n).hw g = fget (unlocked n) g := fun hg => fget_of_clockView hview hg
    have hperm : ∀ m, permitted (loseLock n).hw m = permitted (unlocked n) m := fun m => by unfold permitted; rw [hread (by decide)]
    refine ⟨?_, fon_eq_false_of_zero ?_, ?_, ?_, ?_, ?_, ⟨?_, rfl⟩, fun _ => ⟨?_, ?_, ?_, hfatal, hother⟩, fun hno => absurd hno (by rw [hl]; decide)⟩
    · rw [hread (by decide), fget_unlocked _ (by decide), hgone]
    · rw [hread (by decide), unlocked_locked]
    · rw [hread (by decide), fget_unlocked _ (by decide), hfreq]
    · rw [hread (by decide), fget_unlocked _ (by decide), hseen]
    · rw [edges_of_clockView hview, unlocked_tim]
    · rw [sinceTurn_of_clockView hview, unlocked_tim]
    · rw [hops, State.land_nil]
    · rw [hread (by decide), unlocked_losses, hout (by decide)]
    · rw [hperm, unlocked_permits _ (.inl rfl)]
    · rw [hperm, unlocked_permits _ (.inr rfl)]
  · have hno := Bool.eq_false_iff.mpr hl
    have hstill : fon (measureCleared n) F_TIMING_STATUS_LOCKED = false :=
      (fon_eq_of_fget (fget_measureCleared n (by decide) (by decide))).trans (hlocked.trans hno)
    rw [loseLock_unlocked (hlocked.trans hno)]
    refine ⟨hgone, hstill, hfreq, hseen, rfl, rfl, ⟨State.land_nil s, rfl⟩, fun hl' => absurd hl' hl, fun _ => ⟨?_, ?_⟩⟩
    · exact (fget_measureCleared n (by decide) (by decide)).trans hmode
    · rw [fget_measureCleared _ (by decide) (by decide), hout (by decide)]

/-- Settles O16: nothing on the way to an edge, and nothing that a crossing causes, changes the crossing clock, so an edge counts by the
state before it; a gap loses the lock. -/
theorem crossingClockCountsAndLosesLock : Obligations.CrossingClockCountsAndLosesLock := by
  unfold Obligations.CrossingClockCountsAndLosesLock
  exact ⟨fun at64 turn accept s => clkXEdge_counts at64 accept s turn, fun at64 k accept s => clkXEdge_gains_lock at64 accept s k, clkXGap_loses_lock⟩

end Sys2Proof.Proofs


/-!
The return procedure in a lifetime area that holds nothing but entries which an erase copies: room for the RETURN entry is made at the
cost of the SNAPSHOT entry just written.
-/

namespace Sys2Proof.Proofs
open Sys2Proof Sys2Proof.Machine

/-- The types of the entries of the lifetime area, newest first (R547). -/
def lifeTypes (h : Hw) : List Nat := h.kyd.life.map (·.type)

/-- Copies that take their new numbers from their places, and keep their types, have the types of the entries copied. -/
theorem map_type_copies (l : List LifeRec) {copy : LifeRec × Nat → LifeRec} (hcopy : ∀ x, (copy x).type = x.1.type) :
    (l.zipIdx.map copy).map (·.type) = l.map (·.type) := by
  calc _ = (l.zipIdx.map Prod.fst).map (·.type) := by simp only [List.map_map, Function.comp_def, hcopy]
    _ = _ := by rw [List.zipIdx_map_fst]

/-- Erasing the oldest sector puts the copies of its MARK, RESILVER, RETIRE and REVOKE entries in front of the 16,320 newest (R548). -/
theorem lifeTypes_eraseOldest (h : Hw) :
    lifeTypes (eraseOldest h) = ((lifeTypes h).drop 16320).filter ([5, 6, 7, 10].contains ·) ++ (lifeTypes h).take 16320 := by
  unfold lifeTypes eraseOldest noteErases
  rw [List.map_append, map_type_copies, ← List.map_drop, List.filter_map, ← List.map_take]
  · rfl
  · exact fun _ => rfl

/-- A round of making room in an area of at least 16,384 entries erases its oldest sector (R548). -/
theorem roomIn_of_full (n : Nat) {h : Hw} (hfull : 16384 ≤ (lifeTypes h).length) : roomIn (n + 1) h = roomIn n (eraseOldest h) := by
  rw [lifeTypes, List.length_map] at hfull
  rw [roomIn, if_neg (Nat.not_lt.mpr hfull)]

/-- An area of RETIRE entries alone is never erased for good: each erase copies what it takes. -/
theorem eraseOldest_retirements {k : Nat} {h : Hw} (hl : lifeTypes h = List.replicate k 7) :
    lifeTypes (eraseOldest h) = List.replicate k 7 := by
  rw [lifeTypes_eraseOldest, hl, List.drop_replicate, List.take_replicate, List.filter_replicate, if_pos (by decide),
    List.replicate_append_replicate]
  congr 1
  omega

/-- However long room is made in such an area, it stays as it is. -/
theorem roomIn_retirements (n : Nat) {k : Nat} {h : Hw} (hl : lifeTypes h = List.replicate k 7) :
    lifeTypes (roomIn n h) = List.replicate k 7 := by
  induction n generalizing h with
  | zero => exact hl
  | succ n ih =>
    rw [roomIn]
    split
    · exact hl
    · exact ih (eraseOldest_retirements hl)

/-- A SNAPSHOT entry with 65 or more older RETIRE entries moves 65 places towards the end when the oldest sector is erased. -/
theorem eraseOldest_moves_snapshot {a b : Nat} {h : Hw} (hab : a + b = 16319)
    (hl : lifeTypes h = List.replicate a 7 ++ 1 :: List.replicate (b + 65) 7) :
    lifeTypes (eraseOldest h) = List.replicate (65 + a) 7 ++ 1 :: List.replicate b 7 := by
  have hcut : lifeTypes h = (List.replicate a 7 ++ 1 :: List.replicate b 7) ++ List.replicate 65 7 := by
    rw [hl, ← List.replicate_append_replicate, List.append_assoc, List.cons_append]
  have hlen : (List.replicate a 7 ++ 1 :: List.replicate b 7).length = 16320 := by simp; omega
  rw [lifeTypes_eraseOldest, hcut, List.drop_left' hlen, List.take_left' hlen, List.filter_replicate, if_pos (by decide),
    ← List.append_assoc, List.replicate_append_replicate]

/-- A SNAPSHOT entry with fewer older entries lies in the oldest sectors and is gone with them. -/
theorem eraseOldest_drops_snapshot {a b : Nat} {h : Hw} (hab : a + b = 64)
    (hl : lifeTypes h = List.replicate (16320 + a) 7 ++ 1 :: List.replicate b 7) :
    lifeTypes (eraseOldest h) = List.replicate 16384 7 := by
  have hcut : lifeTypes h = List.replicate 16320 7 ++ (List.replicate a 7 ++ 1 :: List.replicate b 7) := by
    rw [hl, ← List.replicate_append_replicate, List.append_assoc]
  have hkept : (List.replicate a 7 ++ 1 :: List.replicate b 7).filter ([5, 6, 7, 10].contains ·) = List.replicate 64 7 := by
    rw [List.filter_append, List.filter_cons_of_neg (by decide), List.filter_replicate, List.filter_replicate, if_pos (by decide),
      if_pos (by decide), List.replicate_append_replicate, hab]
  rw [lifeTypes_eraseOldest, hcut, List.drop_left' List.length_replicate, List.take_left' List.length_replicate, hkept,
    List.replicate_append_replicate]

/-- Enough rounds of making room carry the SNAPSHOT entry to the oldest sector, where it is lost. -/
theorem roomIn_loses_snapshot {n a b : Nat} {h : Hw} (hab : a + b = 16384) (hn : b < 65 * n)
    (hl : lifeTypes h = List.replicate a 7 ++ 1 :: List.replicate b 7) : lifeTypes (roomIn n h) = List.replicate 16384 7 := by
  induction n generalizing a b h with
  | zero => omega
  | succ n ih =>
    rw [roomIn_of_full n (by rw [hl]; simp; omega)]
    by_cases hb : 65 ≤ b
    · obtain ⟨b, rfl⟩ := Nat.exists_eq_add_of_le' hb
      exact ih (by omega) (by omega) (eraseOldest_moves_snapshot (by omega) hl)
    · obtain ⟨a, rfl⟩ := Nat.exists_eq_add_of_le (show 16320 ≤ a by omega)
      exact roomIn_retirements n (eraseOldest_drops_snapshot (by omega) hl)

/-- Appending an entry makes room, and puts the entry in front of what that leaves (R547, R548). -/
theorem lifeTypes_addLife (h : Hw) (type : Nat) (body : List Nat) : lifeTypes (addLife h type body) = type :: lifeTypes (lifeRoom h) := rfl

/-- After the SNAPSHOT entry of RETURN_PREP and room for the next entry, an area that was full of RETIRE entries holds those alone. -/
theorem snapshot_lost_among_retirements {h : Hw} (hl : lifeTypes h = List.replicate 16384 7) :
    lifeTypes (lifeRoom (writeSnapshot h)) = List.replicate 16384 7 := by
  have hmin : lifeTypes (addMinutes h) = List.replicate 16384 7 := hl
  have hsnap : lifeTypes (writeSnapshot h) = List.replicate 0 7 ++ 1 :: List.replicate 16384 7 := by
    rw [writeSnapshot, lifeTypes_addLife, lifeRoom, roomIn_retirements 256 hmin, List.replicate_zero, List.nil_append]
  exact roomIn_loses_snapshot rfl (by decide) hsnap

/-- An SMBus request that Kydin takes up runs where SMBus offers its command (R552, R553). -/
theorem mailbox_smbus {o : Offer} {tag : BitVec 8} {s : State} (run : Hw → Mem → Eff) (htaken : takesUp s (.smbus tag) s.hw)
    (hfw : s.hw.mod.fwVerified = true) (ho : o.smb = true) : mailbox o (.smbus tag) run s = s.act run := by
  obtain ⟨hpower, hwarm, hpath, hsession, -⟩ := htaken
  simp [mailbox, State.act, takeRequest, smbPath, hpower, hwarm, hpath, hsession, hfw, ho]

/-- Noting the return and answering it leaves the lifetime area as it is. -/
theorem lifeTypes_answeredReturn (h : Hw) (m : Mem) (tag : BitVec 8) (code : Nat) (payload : List Byte) :
    lifeTypes (mailAnswer (fset { h with kyd := { h.kyd with returnDone := true } } F_KYD_STATUS_RETURNED 1) m (.smbus tag) code payload).hw =
      lifeTypes h := rfl

/-- RETURN_PREP that keeps the images leaves a lifetime area with its RETURN entry in front of what making room leaves (R562). -/
theorem returnPrep_lifeTypes {tag : BitVec 8} {s t : State} (htaken : takesUp s (.smbus tag) s.hw) (hfw : s.hw.mod.fwVerified = true)
    (hmode : modeNow s.hw = 1) (hexec : exec (.returnPrep (.smbus tag) 0) s = .next t) :
    lifeTypes t.hw = 8 :: lifeTypes (lifeRoom (lifeRoom (writeSnapshot s.hw))) := by
  injection hexec with ht
  rw [mailbox_smbus _ htaken hfw rfl] at ht
  have hkeeps : (0 : BitVec 8).getLsbD 0 = false := rfl
  rw [← ht]
  simp only [State.act, hmode, hkeeps, BEq.rfl, Bool.true_or, Bool.not_true, Bool.false_eq_true, if_false]
  split <;> rw [lifeTypes_answeredReturn, lifeTypes_addLife]

/-- The module in M1 with Kydin running. Its lifetime area is full of the entries of one gate's logic, retired and returned to service
by turns. -/
def fullOfRetirements : State :=
  { hw := { regs := [(F_MODE_STATUS_MODE.key 0 0, 1)], sup := { lostBoth := false }, mod := { fwVerified := true },
            kyd := { life := (List.range 16384).map fun n => { type := 7, seq := 16383 - n, time := 0, body := [4, 0, 2, (n + 1) % 2] },
                     lifeSeq := 16384 } },
    mem := {}, pending := [] }

theorem fullOfRetirements_lifeTypes : lifeTypes fullOfRetirements.hw = List.replicate 16384 7 := by
  simp only [lifeTypes, fullOfRetirements, List.map_map, Function.comp_def, List.map_const', List.length_range]

/-- Refutes O59: RETURN_PREP need not leave its SNAPSHOT entry. Where the lifetime area is full of entries that an erase copies to the
front, making room for the RETURN entry erases sector after sector without gaining any, until the SNAPSHOT entry written just before is
in the sector erased and is not copied (R548, R562). -/
theorem not_slotsKeysUpdatesRetirementsAndReturns : ¬ Obligations.SlotsKeysUpdatesRetirementsAndReturns := by
  unfold Obligations.SlotsKeysUpdatesRetirementsAndReturns
  rintro ⟨-, -, -, -, -, -, -, -, hreturn, -⟩
  have htaken : takesUp fullOfRetirements (.smbus 0) fullOfRetirements.hw := ⟨rfl, rfl, rfl, rfl, rfl⟩
  obtain ⟨-, hwrites⟩ := hreturn 0 0 fullOfRetirements htaken rfl
  obtain ⟨_, t, hexec, -, -, -, -, -, -, ⟨e, r, hlife, -, -, x, hx, hsnapshot⟩, -⟩ := hwrites (.inl (by decide))
  have hgone : lifeTypes t.hw = 8 :: List.replicate 16384 7 := by
    rw [returnPrep_lifeTypes htaken rfl (by decide) hexec, lifeRoom,
      roomIn_retirements 256 (snapshot_lost_among_retirements fullOfRetirements_lifeTypes)]
  rw [lifeTypes, hlife, List.map_cons, List.cons.injEq] at hgone
  have hretire : x.type = 7 := List.eq_of_mem_replicate (hgone.2 ▸ List.mem_map_of_mem hx)
  omega

end Sys2Proof.Proofs
